-- ==== Sys2Proof/Word.lean ====
section
/-! DEFINITION. The widths the manual computes on (R100, R125, R163): words, doublewords, bytes, lane masks and the
row of one register over the 32 lanes of a warp. -/

namespace Sys2Proof

/-- A byte of memory. -/
abbrev Byte := BitVec 8
/-- A 32-bit register or instruction word (R21, R100). -/
abbrev Word := BitVec 32
/-- A 64-bit register pair, and an address held in one (R125). -/
abbrev Dword := BitVec 64
/-- One bit per lane of a warp: bit L is lane L (R163). -/
abbrev LaneMask := BitVec 32
/-- One register over the lanes of a warp. -/
abbrev Row := Vector Word 32
/-- One register pair over the lanes of a warp. -/
abbrev Row64 := Vector Dword 32

end Sys2Proof
end

