-- ==== Sys2Proof/Config.lean ====
section
/-! DEFINITION. What the manual leaves to a module or leaves open: opaque constants with no body, so that nothing proved
of the model can rest on a value of one. -/

namespace Sys2Proof.Config

/-- A fresh bit for each value of the model's `fresh` counter (log 5): a choice the manual leaves open. -/
opaque freeBit : Nat → Bool

/-- A fresh word for each value of the model's `fresh` counter (log 5). -/
opaque freeWord : Nat → BitVec 32

/-- The handles of other modules that name vault storage there (R422, log 64). -/
opaque peerVault : BitVec 64 → Bool

/-- Core cycles that pass before a read of CYCLES (R123, log 7). -/
opaque freeCycles : Nat → BitVec 64

end Sys2Proof.Config
end

