-- ==== Sys2Proof/Syntax.lean ====
section
/-! DEFINITION. The instructions and the part's own steps: one constructor per row of spec/opcode_table.json.
The first 297 rows are instruction words (02_encoding.md, R21 to R53); the other 93 are the events by which the
units of the part, the host and the outside world act, each with the operands that say which unit acts on what. -/

namespace Sys2Proof

/-- The SCOPE field of a word (R22). -/
inductive Scope where
  | lane
  | warp
  | set
  | block
  deriving DecidableEq, Repr

/-- A 6-bit register field (R25). Bit 6 of a v register comes from an XREG hint (R38). -/
abbrev Reg := BitVec 6

/-- The second operand of the R format: the b field with its kind bk (R25, R26). -/
inductive Opb where
  /-- bk 0b00: a v register. -/
  | v (r : Reg)
  /-- bk 0b01: an s register. -/
  | s (r : Reg)
  /-- bk 0b10: a signed 6-bit immediate, or a code. -/
  | imm (i : BitVec 6)
  /-- bk 0b11, b 0 to 55: a word of the constant window. -/
  | const (i : BitVec 6)
  /-- bk 0b11, b 56 to 61: reserved, ILLEGAL_OPERAND. -/
  | resv (i : BitVec 6)
  /-- bk 0b11, b 62: the payload of the group's XIMM. -/
  | ximm
  /-- bk 0b11, b 63: the trailing literal word. -/
  | lit (w : BitVec 32)
  deriving DecidableEq, Repr

/-- A write that arrives for local memory: its bytes, and the ENTRY and GEN that a peer module's write names (R427). -/
structure BarWrite where
  data : List (BitVec 8)
  peer : Option (Nat × BitVec 32)
  deriving DecidableEq, Repr

/-- One constructor per row of spec/opcode_table.json, in the table's order. -/
inductive Instr where
  /-- R106. Adds operand b to v[a] modulo 2^32 in each live lane. -/
  | iadd (sc : Scope) (d a : Reg) (b : Opb)
  /-- R106. Subtracts operand b from v[a] modulo 2^32 in each live lane. -/
  | isub (sc : Scope) (d a : Reg) (b : Opb)
  /-- R106. Writes the low 32 bits of the product of v[a] and b. -/
  | imul (sc : Scope) (d a : Reg) (b : Opb)
  /-- R106. Writes the high 32 bits of the signed product. -/
  | imulhi (sc : Scope) (d a : Reg) (b : Opb)
  /-- R106. Writes the high 32 bits of the unsigned product. -/
  | imulhiu (sc : Scope) (d a : Reg) (b : Opb)
  /-- R106. Writes the signed minimum of the operands. -/
  | imin (sc : Scope) (d a : Reg) (b : Opb)
  /-- R106. Writes the signed maximum of the operands. -/
  | imax (sc : Scope) (d a : Reg) (b : Opb)
  /-- R106. Writes the unsigned minimum of the operands. -/
  | iminu (sc : Scope) (d a : Reg) (b : Opb)
  /-- R106. Writes the unsigned maximum of the operands. -/
  | imaxu (sc : Scope) (d a : Reg) (b : Opb)
  /-- R106. Writes the absolute signed difference as an unsigned value. -/
  | iabsd (sc : Scope) (d a : Reg) (b : Opb)
  /-- R106. Writes the signed sum clamped to the 32-bit signed range. -/
  | iaddsat (sc : Scope) (d a : Reg) (b : Opb)
  /-- R106. Writes the signed difference clamped to the 32-bit signed range. -/
  | isubsat (sc : Scope) (d a : Reg) (b : Opb)
  /-- R106. Writes the unsigned sum clamped to 2^32 − 1. -/
  | iaddsatu (sc : Scope) (d a : Reg) (b : Opb)
  /-- R106. Writes the unsigned difference clamped at 0. -/
  | isubsatu (sc : Scope) (d a : Reg) (b : Opb)
  /-- R106. Writes the rounded-up unsigned average computed in 33 bits. -/
  | iavgu (sc : Scope) (d a : Reg) (b : Opb)
  /-- R106. Writes b minus v[a] modulo 2^32. -/
  | irsub (sc : Scope) (d a : Reg) (b : Opb)
  /-- R107. Bitwise AND of the operands. -/
  | and (sc : Scope) (d a : Reg) (b : Opb)
  /-- R107. Bitwise OR of the operands. -/
  | or (sc : Scope) (d a : Reg) (b : Opb)
  /-- R107. Bitwise XOR of the operands. -/
  | xor (sc : Scope) (d a : Reg) (b : Opb)
  /-- R107. Writes x AND NOT y. -/
  | andn (sc : Scope) (d a : Reg) (b : Opb)
  /-- R107. Writes x OR NOT y. -/
  | orn (sc : Scope) (d a : Reg) (b : Opb)
  /-- R107. Writes NOT (x XOR y). -/
  | xnor (sc : Scope) (d a : Reg) (b : Opb)
  /-- R107. Shifts left by the whole 32-bit count, giving 0 for counts of 32 or more. -/
  | shl (sc : Scope) (d a : Reg) (b : Opb)
  /-- R107. Logical right shift by the whole 32-bit count. -/
  | shr (sc : Scope) (d a : Reg) (b : Opb)
  /-- R107. Arithmetic right shift, filling with the sign. -/
  | sar (sc : Scope) (d a : Reg) (b : Opb)
  /-- R107. Rotates left by y mod 32. -/
  | rotl (sc : Scope) (d a : Reg) (b : Opb)
  /-- R107. Rotates right by y mod 32. -/
  | rotr (sc : Scope) (d a : Reg) (b : Opb)
  /-- R107. Counts the set bits of operand b. -/
  | popc (sc : Scope) (d : Reg) (b : Opb)
  /-- R107. Counts leading zero bits of operand b, 32 for zero. -/
  | clz (sc : Scope) (d : Reg) (b : Opb)
  /-- R107. Reverses the bit order of operand b. -/
  | brev (sc : Scope) (d : Reg) (b : Opb)
  /-- R108. Extracts an unsigned bit field positioned by y. -/
  | bfxu (sc : Scope) (d a : Reg) (b : Opb)
  /-- R108. Extracts a sign-extended bit field positioned by y. -/
  | bfxs (sc : Scope) (d a : Reg) (b : Opb)
  /-- R108. Inserts a field of x into the old destination. -/
  | bfi (sc : Scope) (d a : Reg) (b : Opb)
  /-- R108. Builds a word from a pool of eight bytes with optional forced fill bytes. -/
  | bysel (sc : Scope) (d a : Reg) (b : Opb)
  /-- R108. Funnel shift left of x:d0, keeping the high word. -/
  | fshl (sc : Scope) (d a : Reg) (b : Opb)
  /-- R108. Funnel shift right of x:d0, keeping the low word. -/
  | fshr (sc : Scope) (d a : Reg) (b : Opb)
  /-- R109. Compares for equality and combines the outcome into a predicate. -/
  | icmpEq (sc : Scope) (p : BitVec 3) (comb : BitVec 2) (a : Reg) (b : Opb)
  /-- R109. Compares for inequality into a predicate. -/
  | icmpNe (sc : Scope) (p : BitVec 3) (comb : BitVec 2) (a : Reg) (b : Opb)
  /-- R109. Signed less-than compare into a predicate. -/
  | icmpLt (sc : Scope) (p : BitVec 3) (comb : BitVec 2) (a : Reg) (b : Opb)
  /-- R109. Signed less-or-equal compare into a predicate. -/
  | icmpLe (sc : Scope) (p : BitVec 3) (comb : BitVec 2) (a : Reg) (b : Opb)
  /-- R109. Signed greater-than compare into a predicate. -/
  | icmpGt (sc : Scope) (p : BitVec 3) (comb : BitVec 2) (a : Reg) (b : Opb)
  /-- R109. Signed greater-or-equal compare into a predicate. -/
  | icmpGe (sc : Scope) (p : BitVec 3) (comb : BitVec 2) (a : Reg) (b : Opb)
  /-- R109. Unsigned less-than compare into a predicate. -/
  | icmpLtu (sc : Scope) (p : BitVec 3) (comb : BitVec 2) (a : Reg) (b : Opb)
  /-- R109. Unsigned less-or-equal compare into a predicate. -/
  | icmpLeu (sc : Scope) (p : BitVec 3) (comb : BitVec 2) (a : Reg) (b : Opb)
  /-- R109. Unsigned greater-than compare into a predicate. -/
  | icmpGtu (sc : Scope) (p : BitVec 3) (comb : BitVec 2) (a : Reg) (b : Opb)
  /-- R109. Unsigned greater-or-equal compare into a predicate. -/
  | icmpGeu (sc : Scope) (p : BitVec 3) (comb : BitVec 2) (a : Reg) (b : Opb)
  /-- R110. Writes x × y + old d modulo 2^32. -/
  | imac (sc : Scope) (d a : Reg) (b : Opb)
  /-- R110. Writes old d × x + y modulo 2^32. -/
  | imad (sc : Scope) (d a : Reg) (b : Opb)
  /-- R110. Adds a sign-extended index to a 64-bit address pair. -/
  | lea (sc : Scope) (d a : Reg) (b : Opb)
  /-- R110. Adds twice a sign-extended index to a 64-bit pair. -/
  | lea2 (sc : Scope) (d a : Reg) (b : Opb)
  /-- R110. Adds four times a sign-extended index to a 64-bit pair. -/
  | lea4 (sc : Scope) (d a : Reg) (b : Opb)
  /-- R110. Adds eight times a sign-extended index to a 64-bit pair. -/
  | lea8 (sc : Scope) (d a : Reg) (b : Opb)
  /-- R110. Adds sixteen times a sign-extended index to a 64-bit pair. -/
  | lea16 (sc : Scope) (d a : Reg) (b : Opb)
  /-- R110. Adds two 64-bit values modulo 2^64. -/
  | iadd64 (sc : Scope) (d a : Reg) (b : Opb)
  /-- R110. Subtracts two 64-bit values modulo 2^64. -/
  | isub64 (sc : Scope) (d a : Reg) (b : Opb)
  /-- R110. Writes the exact signed 64-bit product of two 32-bit values. -/
  | imulw (sc : Scope) (d a : Reg) (b : Opb)
  /-- R111. Copies operand b into v[d]. -/
  | mov (sc : Scope) (d : Reg) (b : Opb)
  /-- R111. Selects x or y by predicate p1–p7 named by fn. -/
  | sel (sc : Scope) (p : BitVec 3) (d a : Reg) (b : Opb)
  /-- R112. ANDs two predicates into a third. -/
  | pand (sc : Scope) (d a : BitVec 3) (b : Opb)
  /-- R112. ORs two predicates into a third. -/
  | por (sc : Scope) (d a : BitVec 3) (b : Opb)
  /-- R112. XORs two predicates into a third. -/
  | pxor (sc : Scope) (d a : BitVec 3) (b : Opb)
  /-- R112. Negates a predicate. -/
  | pnot (sc : Scope) (d a : BitVec 3)
  /-- R112. Packs p0–p7 into the low byte of a v register. -/
  | p2v (sc : Scope) (d : Reg)
  /-- R112. Sets p1–p7 from bits 1–7 of a v register. -/
  | v2p (sc : Scope) (a : Reg)
  /-- R155. Converts each live lane's source by the conversion code, rounding and saturate bits. -/
  | cvt (sc : Scope) (d a : Reg) (code : BitVec 6) (sat : Bool) (rnd : BitVec 2)
  /-- R148. FP32 addition rounded once by the mode. -/
  | fadd (sc : Scope) (d a : Reg) (b : Opb)
  /-- R148. FP32 subtraction rounded once. -/
  | fsub (sc : Scope) (d a : Reg) (b : Opb)
  /-- R148. FP32 multiplication rounded once. -/
  | fmul (sc : Scope) (d a : Reg) (b : Opb)
  /-- R148. Fused x × y + old d. -/
  | fmac (sc : Scope) (d a : Reg) (b : Opb)
  /-- R148. Fused old d × x + y. -/
  | fmad (sc : Scope) (d a : Reg) (b : Opb)
  /-- R148. Fused old d − x × y. -/
  | fmns (sc : Scope) (d a : Reg) (b : Opb)
  /-- R150. FP32 minimum with NaN and signed-zero rules. -/
  | fmin (sc : Scope) (d a : Reg) (b : Opb)
  /-- R150. FP32 maximum with NaN and signed-zero rules. -/
  | fmax (sc : Scope) (d a : Reg) (b : Opb)
  /-- R150. Clears the sign bit of operand b. -/
  | fabs (sc : Scope) (d : Reg) (b : Opb)
  /-- R150. Inverts the sign bit of operand b. -/
  | fneg (sc : Scope) (d : Reg) (b : Opb)
  /-- R148. Clamps operand b to [+0, 1], NaN giving +0. -/
  | fsat (sc : Scope) (d : Reg) (b : Opb)
  /-- R150. Rounds operand b to an integral value toward −∞. -/
  | ffloor (sc : Scope) (d : Reg) (b : Opb)
  /-- R150. Rounds operand b to an integral value toward +∞. -/
  | fceil (sc : Scope) (d : Reg) (b : Opb)
  /-- R150. Rounds operand b to an integral value toward zero. -/
  | ftrunc (sc : Scope) (d : Reg) (b : Opb)
  /-- R150. Rounds operand b to an integral value by the mode. -/
  | frint (sc : Scope) (d : Reg) (b : Opb)
  /-- R150. Writes x's magnitude with y's sign bit. -/
  | fcsgn (sc : Scope) (d a : Reg) (b : Opb)
  /-- R151. FP32 equality compare into a predicate. -/
  | fcmpEq (sc : Scope) (p : BitVec 3) (comb : BitVec 2) (a : Reg) (b : Opb)
  /-- R151. FP32 inequality compare, true on NaN. -/
  | fcmpNe (sc : Scope) (p : BitVec 3) (comb : BitVec 2) (a : Reg) (b : Opb)
  /-- R151. FP32 less-than compare, signalling on any NaN. -/
  | fcmpLt (sc : Scope) (p : BitVec 3) (comb : BitVec 2) (a : Reg) (b : Opb)
  /-- R151. FP32 less-or-equal compare. -/
  | fcmpLe (sc : Scope) (p : BitVec 3) (comb : BitVec 2) (a : Reg) (b : Opb)
  /-- R151. FP32 greater-than compare. -/
  | fcmpGt (sc : Scope) (p : BitVec 3) (comb : BitVec 2) (a : Reg) (b : Opb)
  /-- R151. FP32 greater-or-equal compare. -/
  | fcmpGe (sc : Scope) (p : BitVec 3) (comb : BitVec 2) (a : Reg) (b : Opb)
  /-- R151. True when either operand is NaN. -/
  | fcmpUn (sc : Scope) (p : BitVec 3) (comb : BitVec 2) (a : Reg) (b : Opb)
  /-- R151. True when neither operand is NaN. -/
  | fcmpOr (sc : Scope) (p : BitVec 3) (comb : BitVec 2) (a : Reg) (b : Opb)
  /-- R152. Correctly rounded reciprocal of operand b. -/
  | frcp (sc : Scope) (d : Reg) (b : Opb)
  /-- R152. Correctly rounded reciprocal square root. -/
  | frsq (sc : Scope) (d : Reg) (b : Opb)
  /-- R152. Correctly rounded square root. -/
  | fsqrt (sc : Scope) (d : Reg) (b : Opb)
  /-- R152. Correctly rounded 2^x. -/
  | fexp2 (sc : Scope) (d : Reg) (b : Opb)
  /-- R152. Correctly rounded log2 x. -/
  | flog2 (sc : Scope) (d : Reg) (b : Opb)
  /-- R152. Correctly rounded sin(πx). -/
  | fsint (sc : Scope) (d : Reg) (b : Opb)
  /-- R152. Correctly rounded cos(πx). -/
  | fcost (sc : Scope) (d : Reg) (b : Opb)
  /-- R152. Correctly rounded tanh x. -/
  | ftanh (sc : Scope) (d : Reg) (b : Opb)
  /-- R153. Packed FP16 addition. -/
  | hpadd (sc : Scope) (d a : Reg) (b : Opb)
  /-- R153. Packed FP16 multiplication. -/
  | hpmul (sc : Scope) (d a : Reg) (b : Opb)
  /-- R153. Packed fused FP16 multiply-add. -/
  | hpfma (sc : Scope) (d a : Reg) (b : Opb)
  /-- R153. Packed FP16 minimum. -/
  | hpmin (sc : Scope) (d a : Reg) (b : Opb)
  /-- R153. Packed FP16 maximum. -/
  | hpmax (sc : Scope) (d a : Reg) (b : Opb)
  /-- R153. Packed BF16 addition. -/
  | bpadd (sc : Scope) (d a : Reg) (b : Opb)
  /-- R153. Packed BF16 multiplication. -/
  | bpmul (sc : Scope) (d a : Reg) (b : Opb)
  /-- R153. Packed fused BF16 multiply-add. -/
  | bpfma (sc : Scope) (d a : Reg) (b : Opb)
  /-- R153. Packed BF16 minimum. -/
  | bpmin (sc : Scope) (d a : Reg) (b : Opb)
  /-- R153. Packed BF16 maximum. -/
  | bpmax (sc : Scope) (d a : Reg) (b : Opb)
  /-- R153. Rounds two FP32 values into a packed FP16 pair. -/
  | pk2 (sc : Scope) (d a : Reg) (b : Opb)
  /-- R153. Rounds two FP32 values into a packed BF16 pair. -/
  | pkb2 (sc : Scope) (d a : Reg) (b : Opb)
  /-- R153. Widens FP16 element 0 of b to FP32. -/
  | upkl (sc : Scope) (d : Reg) (b : Opb)
  /-- R153. Widens FP16 element 1 of b to FP32. -/
  | upkh (sc : Scope) (d : Reg) (b : Opb)
  /-- R154. Signed 4-way byte dot product added to old d. -/
  | idp4 (sc : Scope) (d a : Reg) (b : Opb)
  /-- R154. Unsigned 4-way byte dot product added to old d. -/
  | idp4u (sc : Scope) (d a : Reg) (b : Opb)
  /-- R154. BF16 2-way dot product into FP32 with one rounding. -/
  | bdp2 (sc : Scope) (d a : Reg) (b : Opb)
  /-- R154. E4M3 4-way dot product into FP32 with one rounding. -/
  | edp4 (sc : Scope) (d a : Reg) (b : Opb)
  /-- R154. DS8 by E4M3 4-way dot product into FP32. -/
  | dsdp4 (sc : Scope) (d a : Reg) (b : Opb)
  /-- R29. Writes a sign-extended 18-bit immediate to v[d] in every live lane. -/
  | movi (sc : Scope) (d : Reg) (imm : BitVec 18)
  /-- R29. Writes a sign-extended 18-bit immediate to s[d]. -/
  | smovi (sc : Scope) (d : Reg) (imm : BitVec 18)
  /-- R129. Checks the policy and every lane's address, then loads each live lane's value. -/
  | ld (sc : Scope) (d a pol : Reg) (size : BitVec 3) (sx : Bool) (as : Bool)
  /-- R129. Checks policy and addresses, then adds one store-queue entry holding every live lane's data. -/
  | st (sc : Scope) (d a pol : Reg) (size : BitVec 3) (g : Bool) (as : Bool)
  /-- R132. Loads from a scratchpad allocation through its swizzle. -/
  | lds (sc : Scope) (d off : Reg) (alloc : BitVec 3) (size : BitVec 3) (ok : Bool)
  /-- R132. Stores to a scratchpad allocation through its swizzle. -/
  | sts (sc : Scope) (d off : Reg) (alloc : BitVec 3) (size : BitVec 3) (ok : Bool)
  /-- R137. Loads a per-lane indexed word of the window's constant bank. -/
  | ldc (sc : Scope) (d a : Reg) (b : Opb)
  /-- R137. Sets the warp's constant window register. -/
  | cwin (sc : Scope) (b : Opb)
  /-- R139. Issues one multicast read of a source range into the scratchpads of masked gang members. -/
  | ldmc (sc : Scope) (d a c : Reg)
  /-- R247. Atomic add at the home, returning the old value. -/
  | atomAadd (sc : Scope) (d a b : Reg) (w64 : Bool)
  /-- R247. Atomic signed minimum, returning the old value. -/
  | atomAmin (sc : Scope) (d a b : Reg) (w64 : Bool)
  /-- R247. Atomic signed maximum, returning the old value. -/
  | atomAmax (sc : Scope) (d a b : Reg) (w64 : Bool)
  /-- R247. Atomic unsigned minimum, returning the old value. -/
  | atomAminu (sc : Scope) (d a b : Reg) (w64 : Bool)
  /-- R247. Atomic unsigned maximum, returning the old value. -/
  | atomAmaxu (sc : Scope) (d a b : Reg) (w64 : Bool)
  /-- R247. Atomic bitwise AND, returning the old value. -/
  | atomAand (sc : Scope) (d a b : Reg) (w64 : Bool)
  /-- R247. Atomic bitwise OR, returning the old value. -/
  | atomAor (sc : Scope) (d a b : Reg) (w64 : Bool)
  /-- R247. Atomic bitwise XOR, returning the old value. -/
  | atomAxor (sc : Scope) (d a b : Reg) (w64 : Bool)
  /-- R247. Atomic exchange, returning the old value. -/
  | atomAexch (sc : Scope) (d a b : Reg) (w64 : Bool)
  /-- R247. Atomic compare-and-swap, returning the old value. -/
  | atomAcas (sc : Scope) (d a b : Reg) (w64 : Bool)
  /-- R247. Atomic wrapping increment, returning the old value. -/
  | atomAinc (sc : Scope) (d a b : Reg) (w64 : Bool)
  /-- R247. Atomic wrapping decrement, returning the old value. -/
  | atomAdec (sc : Scope) (d a b : Reg) (w64 : Bool)
  /-- R247. Atomic FP32 add rounded RN, returning the old value. -/
  | atomAfadd (sc : Scope) (d a b : Reg)
  /-- R247. Atomic BF16 shadow add, returning the shadow before the add. -/
  | atomAfaddb (sc : Scope) (d a b : Reg)
  /-- R247. Atomic E4M3 shadow add, returning the shadow before the add. -/
  | atomAfadde (sc : Scope) (d a b : Reg)
  /-- R247. Atomic FP32 minimum, returning the old value. -/
  | atomAfmin (sc : Scope) (d a b : Reg)
  /-- R247. Atomic FP32 maximum, returning the old value. -/
  | atomAfmax (sc : Scope) (d a b : Reg)
  /-- R247. Atomic add at the home with no return. -/
  | redAadd (sc : Scope) (a b : Reg) (w64 : Bool)
  /-- R247. Atomic signed minimum with no return. -/
  | redAmin (sc : Scope) (a b : Reg) (w64 : Bool)
  /-- R247. Atomic signed maximum with no return. -/
  | redAmax (sc : Scope) (a b : Reg) (w64 : Bool)
  /-- R247. Atomic unsigned minimum with no return. -/
  | redAminu (sc : Scope) (a b : Reg) (w64 : Bool)
  /-- R247. Atomic unsigned maximum with no return. -/
  | redAmaxu (sc : Scope) (a b : Reg) (w64 : Bool)
  /-- R247. Atomic bitwise AND with no return. -/
  | redAand (sc : Scope) (a b : Reg) (w64 : Bool)
  /-- R247. Atomic bitwise OR with no return. -/
  | redAor (sc : Scope) (a b : Reg) (w64 : Bool)
  /-- R247. Atomic bitwise XOR with no return. -/
  | redAxor (sc : Scope) (a b : Reg) (w64 : Bool)
  /-- R247. Atomic wrapping increment with no return. -/
  | redAinc (sc : Scope) (a b : Reg) (w64 : Bool)
  /-- R247. Atomic wrapping decrement with no return. -/
  | redAdec (sc : Scope) (a b : Reg) (w64 : Bool)
  /-- R247. Atomic FP32 add with no return. -/
  | redAfadd (sc : Scope) (a b : Reg)
  /-- R247. Atomic BF16 shadow add with no return. -/
  | redAfaddb (sc : Scope) (a b : Reg)
  /-- R247. Atomic E4M3 shadow add with no return. -/
  | redAfadde (sc : Scope) (a b : Reg)
  /-- R247. Atomic FP32 minimum with no return. -/
  | redAfmin (sc : Scope) (a b : Reg)
  /-- R247. Atomic FP32 maximum with no return. -/
  | redAfmax (sc : Scope) (a b : Reg)
  /-- R141. Blocks until a slot is filled, then returns the offset of slot RD. -/
  | cbwait (sc : Scope) (d : Reg) (b : Opb)
  /-- R141. Releases the consumer slot of a circular buffer. -/
  | cbpop (sc : Scope) (b : Opb)
  /-- R141. Blocks until a slot is free, then claims slot WR. -/
  | cbrsv (sc : Scope) (d : Reg) (b : Opb)
  /-- R141. Marks the oldest lane-claimed slot written, moving written slots to FILLED in claim order. -/
  | cbcmt (sc : Scope) (b : Opb)
  /-- R141. Initialises a circular buffer from a record in an s register. -/
  | cbinit (sc : Scope) (a : Reg) (b : Opb)
  /-- R141. Returns the packed counters of a circular buffer. -/
  | cbqry (sc : Scope) (d : Reg) (b : Opb)
  /-- R142. Orders the warp's earlier loads before its later accesses at a scope. -/
  | fenceAcq (sc : Scope) (ms : BitVec 2)
  /-- R142. Orders the warp's earlier accesses before its later stores at a scope. -/
  | fenceRel (sc : Scope) (ms : BitVec 2)
  /-- R142. Acts as acquire and release and also orders stores before later loads. -/
  | fenceFull (sc : Scope) (ms : BitVec 2)
  /-- R143. Writes back dirty vault-cache lines overlapping a range to GDDR-7. -/
  | flushv (sc : Scope) (a : Reg) (b : Opb)
  /-- R142. Invalidates every line of the core's L1. -/
  | invl1 (sc : Scope)
  /-- R146. Reads a window completion counter into an s register. -/
  | wcrd (sc : Scope) (d : Reg) (b : Opb)
  /-- R146. Blocks until a window counter reaches s[a]. -/
  | wcwait (sc : Scope) (a : Reg) (b : Opb)
  /-- R146. Zeroes a window counter and clears its overflow flag. -/
  | wcrst (sc : Scope) (b : Opb)
  /-- R115. Branches the lanes whose predicate condition holds, splitting or taking the whole group by scope. -/
  | br (sc : Scope) (p : BitVec 3) (n : Bool) (disp : BitVec 20)
  /-- R121. Does nothing beyond its rendezvous at wider scope. -/
  | nop (sc : Scope)
  /-- R118. Branches to a 64-bit target from b, dividing the split per distinct target. -/
  | brx (sc : Scope) (b : Opb)
  /-- R118. Pushes the return address in every live lane and branches to a computed target. -/
  | callx (sc : Scope) (b : Opb)
  /-- R119. Pops each live lane's return stack and goes there. -/
  | ret (sc : Scope)
  /-- R121. Ends every live lane, discarding its outstanding loads and return stack. -/
  | exit (sc : Scope)
  /-- R121. Makes the scheduler prefer other warps; timing only. -/
  | yield (sc : Scope)
  /-- R113. Scalar 32-bit addition. -/
  | sadd (sc : Scope) (d a : Reg) (b : Opb)
  /-- R113. Scalar 32-bit subtraction. -/
  | ssub (sc : Scope) (d a : Reg) (b : Opb)
  /-- R113. Scalar 32-bit multiplication, low word. -/
  | smul (sc : Scope) (d a : Reg) (b : Opb)
  /-- R113. Scalar bitwise AND. -/
  | sand (sc : Scope) (d a : Reg) (b : Opb)
  /-- R113. Scalar bitwise OR. -/
  | sor (sc : Scope) (d a : Reg) (b : Opb)
  /-- R113. Scalar bitwise XOR. -/
  | sxor (sc : Scope) (d a : Reg) (b : Opb)
  /-- R113. Scalar left shift. -/
  | sshl (sc : Scope) (d a : Reg) (b : Opb)
  /-- R113. Scalar logical right shift. -/
  | sshr (sc : Scope) (d a : Reg) (b : Opb)
  /-- R113. Scalar arithmetic right shift. -/
  | ssar (sc : Scope) (d a : Reg) (b : Opb)
  /-- R113. Scalar signed minimum. -/
  | smin (sc : Scope) (d a : Reg) (b : Opb)
  /-- R113. Scalar signed maximum. -/
  | smax (sc : Scope) (d a : Reg) (b : Opb)
  /-- R113. Scalar unsigned minimum. -/
  | sminu (sc : Scope) (d a : Reg) (b : Opb)
  /-- R113. Scalar unsigned maximum. -/
  | smaxu (sc : Scope) (d a : Reg) (b : Opb)
  /-- R113. Writes operand b to s[d]. -/
  | smov (sc : Scope) (d : Reg) (b : Opb)
  /-- R113. Scalar 64-bit addition on s pairs. -/
  | sadd64 (sc : Scope) (d a : Reg) (b : Opb)
  /-- R113. Adds a sign-extended value to an s pair. -/
  | slea (sc : Scope) (d a : Reg) (b : Opb)
  /-- R114. Scalar equality compare combined into the predicate of every live lane. -/
  | scmpEq (sc : Scope) (p : BitVec 3) (comb : BitVec 2) (a : Reg) (b : Opb)
  /-- R114. Scalar inequality compare into a predicate. -/
  | scmpNe (sc : Scope) (p : BitVec 3) (comb : BitVec 2) (a : Reg) (b : Opb)
  /-- R114. Scalar signed less-than compare into a predicate. -/
  | scmpLt (sc : Scope) (p : BitVec 3) (comb : BitVec 2) (a : Reg) (b : Opb)
  /-- R114. Scalar signed less-or-equal compare into a predicate. -/
  | scmpLe (sc : Scope) (p : BitVec 3) (comb : BitVec 2) (a : Reg) (b : Opb)
  /-- R114. Scalar signed greater-than compare into a predicate. -/
  | scmpGt (sc : Scope) (p : BitVec 3) (comb : BitVec 2) (a : Reg) (b : Opb)
  /-- R114. Scalar signed greater-or-equal compare into a predicate. -/
  | scmpGe (sc : Scope) (p : BitVec 3) (comb : BitVec 2) (a : Reg) (b : Opb)
  /-- R114. Scalar unsigned less-than compare into a predicate. -/
  | scmpLtu (sc : Scope) (p : BitVec 3) (comb : BitVec 2) (a : Reg) (b : Opb)
  /-- R114. Scalar unsigned less-or-equal compare into a predicate. -/
  | scmpLeu (sc : Scope) (p : BitVec 3) (comb : BitVec 2) (a : Reg) (b : Opb)
  /-- R114. Scalar unsigned greater-than compare into a predicate. -/
  | scmpGtu (sc : Scope) (p : BitVec 3) (comb : BitVec 2) (a : Reg) (b : Opb)
  /-- R114. Scalar unsigned greater-or-equal compare into a predicate. -/
  | scmpGeu (sc : Scope) (p : BitVec 3) (comb : BitVec 2) (a : Reg) (b : Opb)
  /-- R189. Each member reads register a of the lane indexed by y. -/
  | shflIdx (sc : Scope) (d a : Reg) (b : Opb)
  /-- R189. Each member reads register a of the lane y below it. -/
  | shflUp (sc : Scope) (d a : Reg) (b : Opb)
  /-- R189. Each member reads register a of the lane y above it. -/
  | shflDown (sc : Scope) (d a : Reg) (b : Opb)
  /-- R189. Each member reads register a of the lane at index XOR y. -/
  | shflXor (sc : Scope) (d a : Reg) (b : Opb)
  /-- R189. Every member reads register a of one uniform source lane. -/
  | shflBcast (sc : Scope) (d a : Reg) (b : Opb)
  /-- R190. True when the predicate holds in every contributor. -/
  | vall (sc : Scope) (d : BitVec 3) (n : Bool) (p : BitVec 3)
  /-- R190. True when the predicate holds in some contributor. -/
  | vany (sc : Scope) (d : BitVec 3) (n : Bool) (p : BitVec 3)
  /-- R190. Writes the ballot of contributors whose predicate holds. -/
  | vbal (sc : Scope) (d : Reg) (n : Bool) (p : BitVec 3)
  /-- R190. True when the predicate is uniform across contributors. -/
  | vuni (sc : Scope) (d : BitVec 3) (n : Bool) (p : BitVec 3)
  /-- R190. Writes the number of contributors whose predicate holds. -/
  | vcnt (sc : Scope) (d : Reg) (n : Bool) (p : BitVec 3)
  /-- R192. Cross-lane integer sum to every live member. -/
  | lredIadd (sc : Scope) (d a : Reg)
  /-- R192. Cross-lane signed minimum. -/
  | lredImin (sc : Scope) (d a : Reg)
  /-- R192. Cross-lane signed maximum. -/
  | lredImax (sc : Scope) (d a : Reg)
  /-- R192. Cross-lane bitwise AND. -/
  | lredAnd (sc : Scope) (d a : Reg)
  /-- R192. Cross-lane bitwise OR. -/
  | lredOr (sc : Scope) (d a : Reg)
  /-- R192. Cross-lane bitwise XOR. -/
  | lredXor (sc : Scope) (d a : Reg)
  /-- R94. Cross-lane FP32 sum by the fixed pairwise tree. -/
  | lredFadd (sc : Scope) (d a : Reg)
  /-- R192. Cross-lane FP32 minimum. -/
  | lredFmin (sc : Scope) (d a : Reg)
  /-- R192. Cross-lane FP32 maximum. -/
  | lredFmax (sc : Scope) (d a : Reg)
  /-- R192. Inclusive cross-lane integer prefix sum. -/
  | lscanIadd (sc : Scope) (d a : Reg)
  /-- R192. Inclusive cross-lane signed minimum scan. -/
  | lscanImin (sc : Scope) (d a : Reg)
  /-- R192. Inclusive cross-lane signed maximum scan. -/
  | lscanImax (sc : Scope) (d a : Reg)
  /-- R192. Inclusive cross-lane AND scan. -/
  | lscanAnd (sc : Scope) (d a : Reg)
  /-- R192. Inclusive cross-lane OR scan. -/
  | lscanOr (sc : Scope) (d a : Reg)
  /-- R192. Inclusive cross-lane XOR scan. -/
  | lscanXor (sc : Scope) (d a : Reg)
  /-- R95. Inclusive cross-lane FP32 scan by distance steps. -/
  | lscanFadd (sc : Scope) (d a : Reg)
  /-- R192. Inclusive cross-lane FP32 minimum scan. -/
  | lscanFmin (sc : Scope) (d a : Reg)
  /-- R192. Inclusive cross-lane FP32 maximum scan. -/
  | lscanFmax (sc : Scope) (d a : Reg)
  /-- R192. Exclusive cross-lane integer prefix sum. -/
  | lscanExclIadd (sc : Scope) (d a : Reg)
  /-- R192. Exclusive cross-lane signed minimum scan. -/
  | lscanExclImin (sc : Scope) (d a : Reg)
  /-- R192. Exclusive cross-lane signed maximum scan. -/
  | lscanExclImax (sc : Scope) (d a : Reg)
  /-- R192. Exclusive cross-lane AND scan. -/
  | lscanExclAnd (sc : Scope) (d a : Reg)
  /-- R192. Exclusive cross-lane OR scan. -/
  | lscanExclOr (sc : Scope) (d a : Reg)
  /-- R192. Exclusive cross-lane XOR scan. -/
  | lscanExclXor (sc : Scope) (d a : Reg)
  /-- R95. Exclusive cross-lane FP32 scan. -/
  | lscanExclFadd (sc : Scope) (d a : Reg)
  /-- R192. Exclusive cross-lane FP32 minimum scan. -/
  | lscanExclFmin (sc : Scope) (d a : Reg)
  /-- R192. Exclusive cross-lane FP32 maximum scan. -/
  | lscanExclFmax (sc : Scope) (d a : Reg)
  /-- R194. Waits for the partner warp of a gang and swaps registers with it in one step. -/
  | xchg (sc : Scope) (d : Reg) (b : Opb)
  /-- R194. Waits for the partner set and swaps k registers across set lanes with XMASK. -/
  | xchgk (sc : Scope) (d : Reg) (b : Opb)
  /-- R258. Loads a 64-byte shape record into an h register. -/
  | hld (sc : Scope) (h : BitVec 4) (a : Reg) (b : Opb)
  /-- R258. Stores an h register as one .F store-queue entry. -/
  | hst (sc : Scope) (h : BitVec 4) (a : Reg) (b : Opb)
  /-- R258. Writes eight bytes of an h register from an s pair. -/
  | hset (sc : Scope) (h : BitVec 4) (a : Reg) (b : Opb)
  /-- R258. Advances TILEK and TILEO of an h register by y increments. -/
  | hadv (sc : Scope) (h : BitVec 4) (b : Opb)
  /-- R260. Checks the records and starts a matrix loop of K-steps into an accumulator group. -/
  | mmloop (sc : Scope) (acc : BitVec 3) (span : BitVec 2) (hA hB : BitVec 4) (ks : Reg) (flags : BitVec 5)
  /-- R263. Writes one 32-entry segment of the warp's gather index latch. -/
  | mmidx (sc : Scope) (a : Reg) (b : Opb)
  /-- R264. Zeroes an accumulator group. -/
  | accz (sc : Scope) (acc : BitVec 3) (span : BitVec 2) (b : Opb)
  /-- R264. Reads one accumulator row segment into a v register. -/
  | accrd (sc : Scope) (d : Reg) (acc : BitVec 3) (span : BitVec 2) (b : Opb)
  /-- R264. Writes a v register into one accumulator row segment. -/
  | accwr (sc : Scope) (d : Reg) (acc : BitVec 3) (span : BitVec 2) (b : Opb)
  /-- R264. Scales every element of a group by an FP32 factor. -/
  | accscl (sc : Scope) (acc : BitVec 3) (span : BitVec 2) (b : Opb)
  /-- R264. Hands a group to the copy engine to store it, converted and clipped, to a destination. -/
  | accdrn (sc : Scope) (h : BitVec 4) (acc : BitVec 3) (span : BitVec 2) (b : Opb)
  /-- R264. Drains a group by atomic adds at the destination. -/
  | accdra (sc : Scope) (h : BitVec 4) (acc : BitVec 3) (span : BitVec 2) (b : Opb)
  /-- R156. Quantises FP32 scratchpad values per lane into a self-describing block. -/
  | qsm (sc : Scope) (d a : Reg) (b : Opb)
  /-- R158. Packs a register quad into block elements at a given scale. -/
  | qpack (sc : Scope) (d a : Reg) (b : Opb)
  /-- R158. Unpacks block elements into a FP32 register quad. -/
  | qunpk (sc : Scope) (d a : Reg) (b : Opb)
  /-- R286. Claims a queue slot atomically, writes and stamps it, and reports success in a predicate. -/
  | qapp (sc : Scope) (d a : Reg) (b : Opb)
  /-- R297. Releases at DEVICE scope and decrements a task dependence counter. -/
  | tdec (sc : Scope) (a : Reg) (b : Opb)
  /-- R297. Increments a task dependence counter. -/
  | tinc (sc : Scope) (a : Reg) (b : Opb)
  /-- R297. Reads a task dependence counter. -/
  | trd (sc : Scope) (d : Reg) (b : Opb)
  /-- R201. Makes the gang node PASSIVE and waits for a phase end or an item in a watched queue. -/
  | phq (sc : Scope) (d a : Reg) (b : Opb)
  /-- R145. Blocks until each waited class holds at most its given number of operations. -/
  | wait (sc : Scope) (ldn stn cpn ton : BitVec 6)
  /-- R344. Loads a visibility-buffer sample record per lane. -/
  | visld (sc : Scope) (d a : Reg) (b : Opb)
  /-- R345. Splits a primitive identifier into draw, primitive and instance. -/
  | visdec (sc : Scope) (d a : Reg)
  /-- R347. Computes perspective-correct barycentrics at a sample. -/
  | bary (sc : Scope) (d a : Reg) (b : Opb)
  /-- R347. Fetches n attribute words of one vertex of the lane's primitive. -/
  | attrf (sc : Scope) (d a : Reg) (b : Opb)
  /-- R348. Waits until each lane's pixel-order word equals its sequence, then acquires. -/
  | ordwait (sc : Scope) (a : Reg) (b : Opb)
  /-- R348. Releases and adds 1 to each lane's pixel-order word. -/
  | orddone (sc : Scope) (a : Reg)
  /-- R351. Samples an image with point or bilinear filtering. -/
  | texs (sc : Scope) (d a : Reg) (b : Opb)
  /-- R351. Loads one wrapped texel by integer coordinates. -/
  | texl (sc : Scope) (d a : Reg) (b : Opb)
  /-- R351. Gathers the R channel of the four bilinear texels. -/
  | texg (sc : Scope) (d a : Reg) (b : Opb)
  /-- R350. Returns the image size and its reciprocals. -/
  | texq (sc : Scope) (d a : Reg) (b : Opb)
  /-- R358. Starts one ray per live lane on the traversal units. -/
  | trav (sc : Scope) (d a : Reg) (b : Opb)
  /-- R361. Waits for each lane's ray and writes its hit record. -/
  | travrd (sc : Scope) (d a : Reg) (b : Opb)
  /-- R365. Regroups the group's threads by key into its warps. -/
  | reform (sc : Scope) (d a : Reg) (b : Opb)
  /-- R182. Fills vacant lanes with items popped from a bound item queue. -/
  | refill (sc : Scope) (d a : Reg) (b : Opb)
  /-- R370. Arrives at the population rendezvous to resample by weight to a target count. -/
  | rsmpl (sc : Scope) (d a : Reg) (b : Opb)
  /-- R379. Reads a statistic of the population's last resample. -/
  | pstat (sc : Scope) (d a : Reg) (b : Opb)
  /-- R122. Reads a special register into a v or s register. -/
  | sread (sc : Scope) (d : Reg) (toS : Bool) (num : BitVec 6)
  /-- R122. Writes a writable special register from s[a]. -/
  | swrite (sc : Scope) (a : Reg) (num : BitVec 6)
  /-- R175. Shrinks the warp's register allocation at once or requests growth and waits. -/
  | grow (sc : Scope) (p : BitVec 3) (b : Opb)
  /-- R308. Accepts a child launch from a record if the child table has room. -/
  | fork (sc : Scope) (d a : Reg) (b : Opb)
  /-- R310. Swaps the block out until its children complete. -/
  | join (sc : Scope)
  /-- R312. Enters a non-pre-emptible region. -/
  | npre (sc : Scope)
  /-- R312. Leaves a non-pre-emptible region. -/
  | nprex (sc : Scope)
  /-- R209. Raises SOFTWARE_TRAP with a code. -/
  | trap (sc : Scope) (code : BitVec 6)
  /-- R209. Leaves handler mode and resumes by replay, skip or a written FPC. -/
  | eret (sc : Scope) (code : BitVec 6)
  /-- R209. Raises BREAKPOINT with a code. -/
  | bkpt (sc : Scope) (code : BitVec 6)
  /-- R209. Declares the context beyond repair and kills it. -/
  | halt (sc : Scope)
  /-- R116. Pushes the return address and branches the lanes that go. -/
  | call (sc : Scope) (p : BitVec 3) (n : Bool) (disp : BitVec 20)
  /-- R37. Adds a 20-bit immediate or offset payload to the split's pending hints. -/
  | ximm (sc : Scope) (payload : BitVec 20)
  /-- R38. Supplies bit 6 of register fields of the next instruction. -/
  | xreg (sc : Scope) (payload : BitVec 20)
  /-- R39. Overrides class, atomic scope and order, saturation, flushing and rounding. -/
  | xmod (sc : Scope) (payload : BitVec 20)
  /-- R40. Gives timing-only scheduling hints. -/
  | xsched (sc : Scope) (payload : BitVec 20)
  /-- R41. Removes lanes from live(W) by a predicate for the next instruction. -/
  | xpred (sc : Scope) (payload : BitVec 20)
  /-- R166. Two splits with equal program counters merge at an issue opportunity. -/
  | splitMerge (w i j : Nat)
  /-- R167. Once every member has arrived, the wide-scope instruction executes. -/
  | rendezvousRelease (w : Nat)
  /-- R160. A blocking instruction's awaited event occurs and the warp becomes READY. -/
  | waitEnd (w slot : Nat)
  /-- R176. A pending GROW request is granted once registers are free and no lower request pends. -/
  | growGrant (core : Nat)
  /-- R177. When every warp is blocked in GROW, the highest pending request fails. -/
  | growFail (core : Nat)
  /-- R204. Stops the warp, drains its queue, completes loads, fills CAUSE, FADDR and FPC and starts the handler. -/
  | handlerEntry (w code lane : Nat) (faddr : BitVec 64)
  /-- R103. An outstanding load writes its destination and leaves the loads class. -/
  | loadComplete (w k : Nat)
  /-- R218. The oldest store-queue entry drains into L1 in one step. -/
  | storeDrain (w : Nat)
  /-- R225. The home slice applies a store to a line after replicas are invalidated. -/
  | storeApply (id : Nat)
  /-- R403. A proxy receives an invalidation, drops replica bytes and acknowledges. -/
  | proxyInvalidate (field line : Nat)
  /-- R231. The acknowledgement of a store that left its field returns, clearing pending marks. -/
  | storeAck (id : Nat)
  /-- R403. A clean L1 eviction with REPL fills the line's proxy as a replica. -/
  | l1Eviction (core line : Nat) (repl : Bool)
  /-- R96. A line leaves a slice, rounding any atomic shadow into the stored format. -/
  | sliceEviction (line : Nat) (toVault : Bool)
  /-- R243. The atomic service applies one request's accesses to a line in ascending lane order. -/
  | atomicApply (id : Nat)
  /-- R244. Old values return to an ATOM's destinations through return slots. -/
  | atomicReturn (id : Nat)
  /-- R135. A queued scratchpad bank write is applied. -/
  | bankWriteApply (block k : Nat)
  /-- R407. An LDMC request reaches a home slice and opens, joins or is served outside a session. -/
  | multicastRequest (id : Nat)
  /-- R407. 256 cycles after opening, a GATHERING session is sent. -/
  | multicastTimeout (k : Nat)
  /-- R408. A reply beat is applied to a member's scratchpad allocation. -/
  | ldmcDelivery (id beat : Nat)
  /-- R260. The matrix engine applies one K-step sum to the accumulator group. -/
  | kstepApply (core : Nat)
  /-- R264. An accumulator drain finishes and leaves the copies class. -/
  | drainComplete (core : Nat)
  /-- R359. A traversal unit ends a ray with its status and best hit. -/
  | rayComplete (w lane : Nat)
  /-- R194. Two agreeing XCHG sides pair and swap registers, or both trap. -/
  | xchgPair (w : Nat)
  /-- R202. The gang's tree runs a pair of sweeps and ends the phase if both balance. -/
  | phaseSweepPair (launch : Nat)
  /-- R201. An item in a watched queue wakes a PASSIVE node with 0. -/
  | phqWake (block : Nat)
  /-- R283. A consumer takes the next stamped slot, reads it as an acquire and advances RDIDX. -/
  | queueConsume (field q : Nat)
  /-- R301. The Kiln reads a launch record, accepting or dropping the launch. -/
  | launchAccept (launch : Nat)
  /-- R304. The next block goes to the emptiest core of its group with room. -/
  | blockDispatch (launch : Nat)
  /-- R306. Once GRIDDIM cores are reserved, every gang block is dispatched. -/
  | gangDispatch (launch : Nat)
  /-- R300. A block whose warps have ended retires and its queue is charged. -/
  | blockRetire (block cycles : Nat)
  /-- R305. A launch whose blocks and children are done decrements its task and writes DONE. -/
  | launchComplete (launch : Nat)
  /-- R311. A swapped block whose children completed is requeued and its threads are packed into warps. -/
  | joinResume (block : Nat)
  /-- R298. A ready task waiting on a full launch queue is appended when RDIDX advances. -/
  | taskAppendRetry (k : Nat)
  /-- R291. A copy engine starts the next packet of a queue. -/
  | copyStart (field q : Nat)
  /-- R291. A copy completes, decrements its task and leaves its issuer's copies class. -/
  | copyComplete (id : Nat)
  /-- R294. After EXPECT packets contribute, the session writes its results and completes them. -/
  | reduceSessionClose (field k : Nat)
  /-- R342. The rasteriser resolves a RASTER packet's draws into the visibility buffer. -/
  | rasterPacket (id : Nat)
  /-- R325. The Kiln reads a GRAPH packet and checks the whole graph. -/
  | graphValidate (graph : Nat)
  /-- R322. The cursor issues the next non-branch node as an instance. -/
  | nodeIssue (graph : Nat)
  /-- R322. A COND or LOOP reads its predicate after prior instances complete and moves the cursor. -/
  | predicateEval (graph : Nat)
  /-- R323. An instance starts once its dependences have completed. -/
  | instanceStart (graph k : Nat)
  /-- R323. A WAITCTR completes when its counter reaches the threshold. -/
  | waitctrComplete (graph k : Nat)
  /-- R317. A finished graph decrements its task and writes STATUS. -/
  | graphComplete (graph : Nat)
  /-- R332. The Kiln releases a READY tile whose slot claims succeed. -/
  | tileRelease (graph k tile : Nat)
  /-- R335. A tile retires, decrementing consumer waits and freeing slots. -/
  | tileRetire (graph k tile : Nat)
  /-- R327. Under host-assisted release the Kiln takes a release word. -/
  | relqTake (graph : Nat)
  /-- R337. A graph stalled on slot claims is recorded and abandoned. -/
  | ringExhausted (graph : Nat)
  /-- R338. The Kiln prefetches a nearly ready tile's footprint. -/
  | footprintPrefetch (graph k tile : Nat)
  /-- R372. The released population rendezvous fixes copy counts, kills, clones and places threads. -/
  | resample (launch : Nat)
  /-- R377. The part reads a host-written placement list and places clones by it or by phase C. -/
  | placementListAccept (launch : Nat)
  /-- R384. A TLB miss starts a walk or a fault record and delivers the translation to every joined access. -/
  | pageWalk (field ctx : Nat) (va : BitVec 64)
  /-- R276. Touching another context's vault frame writes it back and refills it before the touch. -/
  | frameCopyOnWrite (field frame ctx : Nat)
  /-- R395. An uncorrectable vault error repairs from the mirror or takes the vault offline. -/
  | vaultEccError (field vault : Nat) (both : Bool)
  /-- R266. An idle or saved context with dispatchable work becomes RUNNING, by restore if saved. -/
  | contextSchedule (field ctx : Nat)
  /-- R274. Higher-priority work or migration stops dispatch and begins draining a context. -/
  | preemptionStart (field ctx : Nat) (thermal : Bool)
  /-- R274. DRAINLIM passes with blocks resident and a forced save begins. -/
  | drainLimitExpiry (field ctx : Nat)
  /-- R275. Warps stop at group boundaries and each core's image is written. -/
  | forcedSave (field ctx : Nat)
  /-- R274. REGIONLIM passes and a warp in a region is cut with DRAIN_TIMEOUT. -/
  | regionLimitExpiry (field ctx : Nat)
  /-- R313. A block without progress for the limit kills its context. -/
  | watchdog (block : Nat)
  /-- R266. Host command creating a context from its record. -/
  | create (field ctx : Nat) (addr : BitVec 64)
  /-- R266. Host command returning a context to FREE. -/
  | destroy (field ctx : Nat)
  /-- R274. Host command pre-empting a context. -/
  | preempt (field ctx : Nat)
  /-- R266. Host command killing a context. -/
  | kill (field ctx : Nat)
  /-- R267. Host command setting a warp's step flag. -/
  | stepFlag (field ctx core slot : Nat)
  /-- R267. Host command clearing a warp's step flag. -/
  | unstepFlag (field ctx core slot : Nat)
  /-- R282. Host writes ENABLE 1 to attach a queue descriptor. -/
  | queueAttach (field q ctx : Nat) (desc : BitVec 64)
  /-- R282. Host writes ENABLE 0 to close a queue. -/
  | queueDetach (field q : Nat)
  /-- R282. A closing queue's started packets complete and it is detached. -/
  | queueClosed (field q : Nat)
  /-- R392. Host command discarding TLB entries of a context over a range. -/
  | invalidate (field ctx : Nat) (va : BitVec 64) (log : Nat)
  /-- R394. Host answers a host-assisted fill with a leaf entry. -/
  | fillResponse (field ctx : Nat) (vpage pte : BitVec 64)
  /-- R421. Host command exporting a region as a handle. -/
  | exportHandle (field ctx : Nat) (base : BitVec 64) (target len : Nat)
  /-- R424. Host command revoking a handle and draining its importers. -/
  | revoke (field : Nat) (handle : BitVec 64)
  /-- R422. Host command binding a window slot from WINTAB. -/
  | bind (field ctx slot : Nat)
  /-- R421. Host command unbinding a window slot. -/
  | unbind (field ctx slot : Nat)
  /-- R424. A field marks slots of a revoked handle and sends drain markers. -/
  | revocationNotice (field : Nat) (handle : BitVec 64)
  /-- R424. A drain marker reaches the exporter, which frees the entry when all have arrived. -/
  | drainMarker (field fromField : Nat) (handle : BitVec 64)
  /-- R427. A peer's doorbell write adds 1 to a HOSTED slot's destination counter. -/
  | countDoorbell (field entry : Nat) (gen : BitVec 32)
  /-- R419. A host or peer write to local memory is applied and invalidates cached copies. -/
  | bar4Write (field : Nat) (addr : BitVec 64) (write : BarWrite)
  /-- R419. A host or peer read of local memory is served by the home slice or GDDR-7. -/
  | bar4Read (field : Nat) (addr : BitVec 64) (len : Nat)
  /-- R284. The part completes a PCIe AtomicOp such as the CAS that claims a queue slot. -/
  | hostAtomicop (field : Nat) (addr : BitVec 64) (op : BitVec 2) (w64 : Bool) (operand compare : BitVec 64)
  /-- R427. Completion of a flushing read to a peer acknowledges or loses window items. -/
  | flushingReadComplete (id : Nat) (good : Bool)
  /-- R426. A host write to a BAR0 register without behaviour of its own, such as the peer table. -/
  | registerWrite (field offset : Nat) (value : BitVec 32)
  /-- R412. A crossing end takes a flit, accepting it or returning a negative acknowledgement. -/
  | flitReceive (crossing dir modul : Nat) (flit : List (BitVec 8))
  /-- R413. A negative acknowledgement makes the sender replay from ACKSEQ. -/
  | negativeAck (crossing dir modul : Nat) (ackSeq : BitVec 16)
  /-- R414. A failing module is repaired onto redundant lanes or disabled. -/
  | laneRepair (crossing modul : Nat) (repaired : Bool)
  /-- R416. A crossing becomes FAILED and the fields update routes and handle in-flight stores. -/
  | crossingFailure (crossing : Nat)
  /-- R417. A home receives a loss notice and discards the lost store if it arrives later. -/
  | lossNotice (id : Nat)
  /-- R428. Power-on or fundamental reset runs firmware check, self-test, training and table publication. -/
  | bringUp (signatureOk : Bool) (report : List (Bool × BitVec 40 × BitVec 40 × BitVec 40)) (trained : List Nat)
  /-- R429. Every 10 µs the PMC measures power and steps or stops field clocks. -/
  | powerSample (milliwatts : Nat) (load : List Nat)
  /-- R430. Every 100 µs the PMC sets valves, throttles, migrates or trips by zone temperature. -/
  | thermalSample (field : Nat) (low high valves : List Nat)
  /-- R432. An uncontainable error stops the field and kills its contexts. -/
  | machineCheck (field : Nat)
  /-- R434. Hourly the PMC updates each field's wear record. -/
  | wearUpdate (field life hours corrected : Nat)
  /-- R434. Removing module power leaves nothing powered, and only the fuses and the PMC's flash, including the wear records, keep their state. -/
  | modulePowerRemoved
  deriving DecidableEq, Repr

end Sys2Proof
end

