-- ==== Sys2Proof/WellFormed.lean ====
section
/-! DEFINITION. Well-formed instructions: the operands an encoding of 02_encoding.md can hold and R24 does not refuse.
Everything else a word can be told off for (ILLEGAL_OPERAND, ILLEGAL_SCOPE, HINT_ORPHAN and the rest of R47) is judged
when the instruction issues. -/

namespace Sys2Proof

/-- The SCOPE field (R22). -/
def Scope.bits : Scope → BitVec 2
  | .lane => 0
  | .warp => 1
  | .set => 2
  | .block => 3

/-- The b field of an operand (R25, R26). -/
def Opb.bits : Opb → BitVec 6
  | .v r => r
  | .s r => r
  | .imm i => i
  | .const i => i
  | .resv i => i
  | .ximm => 62
  | .lit _ => 63

/-- The bk field of an operand (R25). -/
def Opb.kind : Opb → BitVec 2
  | .v _ => 0
  | .s _ => 1
  | .imm _ => 2
  | .const _ => 3
  | .resv _ => 3
  | .ximm => 3
  | .lit _ => 3

/-- A b operand as the encoding can hold it: constants are b 0 to 55 and the reserved forms b 56 to 61 (R26). -/
def Opb.wf : Opb → Bool
  | .const i => decide (i < 56#6)
  | .resv i => decide (56#6 ≤ i) && decide (i < 62#6)
  | _ => true

/-- The operand #0, which a b field that is not used must hold with bk 0b10 (R24). With another bk ACCZ decodes, and raises what R264 names for that bk,
whatever b holds (DESIGN CHOICE, log 123). -/
def Opb.zeroImm : Opb → Bool
  | .imm i => decide (i = 0)
  | _ => true

/-- The conversion codes of R88. -/
def cvtCodes : List Nat :=
  [0x01, 0x02, 0x03, 0x04, 0x05, 0x06, 0x07, 0x08, 0x09, 0x0A, 0x10, 0x11, 0x12, 0x13, 0x14, 0x15, 0x16, 0x17,
   0x20, 0x21, 0x22, 0x23, 0x24, 0x25, 0x26]

/-- The special-register numbers of R123. -/
def sregNumbers : List Nat :=
  [0, 1, 2, 3, 4, 5, 6, 7, 8, 9, 16, 17, 18, 19, 24, 25, 32, 40, 41, 42, 48, 49, 50, 56]

/-- XREG payload bits 19:3 are zero (R38). -/
def xregOk (p : BitVec 20) : Bool := decide (p.extractLsb' 3 17 = 0#17)

/-- XSCHED and XPRED payload bits 19:4 are zero (R40, R41). -/
def xlowOk (p : BitVec 20) : Bool := decide (p.extractLsb' 4 16 = 0#16)

/-- XMOD payload: bits 19:14 zero, ASCOPE and AORDER at most 3, FTZ not 3, RND at most 4 (R39). -/
def xmodOk (p : BitVec 20) : Bool :=
  decide (p.extractLsb' 14 6 = 0#6) && decide (p.extractLsb' 9 3 ≤ 3#3) && decide (p.extractLsb' 6 3 ≤ 3#3) &&
  decide (p.extractLsb' 3 2 ≠ 3#2) && decide (p.extractLsb' 0 3 ≤ 4#3)

/-- The instruction is one a word can spell and R24 does not refuse; events are well formed for any operands. -/
def Instr.wf : Instr → Bool
  | .iadd _ _ _ b => b.wf
  | .isub _ _ _ b => b.wf
  | .imul _ _ _ b => b.wf
  | .imulhi _ _ _ b => b.wf
  | .imulhiu _ _ _ b => b.wf
  | .imin _ _ _ b => b.wf
  | .imax _ _ _ b => b.wf
  | .iminu _ _ _ b => b.wf
  | .imaxu _ _ _ b => b.wf
  | .iabsd _ _ _ b => b.wf
  | .iaddsat _ _ _ b => b.wf
  | .isubsat _ _ _ b => b.wf
  | .iaddsatu _ _ _ b => b.wf
  | .isubsatu _ _ _ b => b.wf
  | .iavgu _ _ _ b => b.wf
  | .irsub _ _ _ b => b.wf
  | .and _ _ _ b => b.wf
  | .or _ _ _ b => b.wf
  | .xor _ _ _ b => b.wf
  | .andn _ _ _ b => b.wf
  | .orn _ _ _ b => b.wf
  | .xnor _ _ _ b => b.wf
  | .shl _ _ _ b => b.wf
  | .shr _ _ _ b => b.wf
  | .sar _ _ _ b => b.wf
  | .rotl _ _ _ b => b.wf
  | .rotr _ _ _ b => b.wf
  | .popc _ _ b => b.wf
  | .clz _ _ b => b.wf
  | .brev _ _ b => b.wf
  | .bfxu _ _ _ b => b.wf
  | .bfxs _ _ _ b => b.wf
  | .bfi _ _ _ b => b.wf
  | .bysel _ _ _ b => b.wf
  | .fshl _ _ _ b => b.wf
  | .fshr _ _ _ b => b.wf
  | .icmpEq _ _ comb _ b => decide (comb ≠ 3#2) && b.wf
  | .icmpNe _ _ comb _ b => decide (comb ≠ 3#2) && b.wf
  | .icmpLt _ _ comb _ b => decide (comb ≠ 3#2) && b.wf
  | .icmpLe _ _ comb _ b => decide (comb ≠ 3#2) && b.wf
  | .icmpGt _ _ comb _ b => decide (comb ≠ 3#2) && b.wf
  | .icmpGe _ _ comb _ b => decide (comb ≠ 3#2) && b.wf
  | .icmpLtu _ _ comb _ b => decide (comb ≠ 3#2) && b.wf
  | .icmpLeu _ _ comb _ b => decide (comb ≠ 3#2) && b.wf
  | .icmpGtu _ _ comb _ b => decide (comb ≠ 3#2) && b.wf
  | .icmpGeu _ _ comb _ b => decide (comb ≠ 3#2) && b.wf
  | .imac _ _ _ b => b.wf
  | .imad _ _ _ b => b.wf
  | .lea _ _ _ b => b.wf
  | .lea2 _ _ _ b => b.wf
  | .lea4 _ _ _ b => b.wf
  | .lea8 _ _ _ b => b.wf
  | .lea16 _ _ _ b => b.wf
  | .iadd64 _ _ _ b => b.wf
  | .isub64 _ _ _ b => b.wf
  | .imulw _ _ _ b => b.wf
  | .mov _ _ b => b.wf
  | .sel _ p _ _ b => decide (p ≠ 0#3) && b.wf
  | .pand _ _ _ b => b.wf && decide (b.bits &&& 0x38#6 = 0)
  | .por _ _ _ b => b.wf && decide (b.bits &&& 0x38#6 = 0)
  | .pxor _ _ _ b => b.wf && decide (b.bits &&& 0x38#6 = 0)
  | .pnot _ _ _ => true
  | .p2v _ _ => true
  | .v2p _ _ => true
  | .cvt _ _ _ code _ _ => cvtCodes.contains code.toNat
  | .fadd _ _ _ b => b.wf
  | .fsub _ _ _ b => b.wf
  | .fmul _ _ _ b => b.wf
  | .fmac _ _ _ b => b.wf
  | .fmad _ _ _ b => b.wf
  | .fmns _ _ _ b => b.wf
  | .fmin _ _ _ b => b.wf
  | .fmax _ _ _ b => b.wf
  | .fabs _ _ b => b.wf
  | .fneg _ _ b => b.wf
  | .fsat _ _ b => b.wf
  | .ffloor _ _ b => b.wf
  | .fceil _ _ b => b.wf
  | .ftrunc _ _ b => b.wf
  | .frint _ _ b => b.wf
  | .fcsgn _ _ _ b => b.wf
  | .fcmpEq _ _ comb _ b => decide (comb ≠ 3#2) && b.wf
  | .fcmpNe _ _ comb _ b => decide (comb ≠ 3#2) && b.wf
  | .fcmpLt _ _ comb _ b => decide (comb ≠ 3#2) && b.wf
  | .fcmpLe _ _ comb _ b => decide (comb ≠ 3#2) && b.wf
  | .fcmpGt _ _ comb _ b => decide (comb ≠ 3#2) && b.wf
  | .fcmpGe _ _ comb _ b => decide (comb ≠ 3#2) && b.wf
  | .fcmpUn _ _ comb _ b => decide (comb ≠ 3#2) && b.wf
  | .fcmpOr _ _ comb _ b => decide (comb ≠ 3#2) && b.wf
  | .frcp _ _ b => b.wf
  | .frsq _ _ b => b.wf
  | .fsqrt _ _ b => b.wf
  | .fexp2 _ _ b => b.wf
  | .flog2 _ _ b => b.wf
  | .fsint _ _ b => b.wf
  | .fcost _ _ b => b.wf
  | .ftanh _ _ b => b.wf
  | .hpadd _ _ _ b => b.wf
  | .hpmul _ _ _ b => b.wf
  | .hpfma _ _ _ b => b.wf
  | .hpmin _ _ _ b => b.wf
  | .hpmax _ _ _ b => b.wf
  | .bpadd _ _ _ b => b.wf
  | .bpmul _ _ _ b => b.wf
  | .bpfma _ _ _ b => b.wf
  | .bpmin _ _ _ b => b.wf
  | .bpmax _ _ _ b => b.wf
  | .pk2 _ _ _ b => b.wf
  | .pkb2 _ _ _ b => b.wf
  | .upkl _ _ b => b.wf
  | .upkh _ _ b => b.wf
  | .idp4 _ _ _ b => b.wf
  | .idp4u _ _ _ b => b.wf
  | .bdp2 _ _ _ b => b.wf
  | .edp4 _ _ _ b => b.wf
  | .dsdp4 _ _ _ b => b.wf
  | .movi _ _ _ => true
  | .smovi _ _ _ => true
  | .ld _ _ _ _ size sx _ => decide (size ≤ 4#3) && (!sx || decide (size ≤ 1#3))
  | .st _ _ _ _ size _ _ => decide (size ≤ 4#3)
  | .lds _ _ _ _ size _ => decide (size ≤ 4#3)
  | .sts _ _ _ _ size _ => decide (size ≤ 4#3)
  | .ldc _ _ _ b => b.wf
  | .cwin _ b => b.wf
  | .ldmc _ _ _ _ => true
  | .atomAadd _ _ _ _ _ => true
  | .atomAmin _ _ _ _ _ => true
  | .atomAmax _ _ _ _ _ => true
  | .atomAminu _ _ _ _ _ => true
  | .atomAmaxu _ _ _ _ _ => true
  | .atomAand _ _ _ _ _ => true
  | .atomAor _ _ _ _ _ => true
  | .atomAxor _ _ _ _ _ => true
  | .atomAexch _ _ _ _ _ => true
  | .atomAcas _ _ _ _ _ => true
  | .atomAinc _ _ _ _ _ => true
  | .atomAdec _ _ _ _ _ => true
  | .atomAfadd _ _ _ _ => true
  | .atomAfaddb _ _ _ _ => true
  | .atomAfadde _ _ _ _ => true
  | .atomAfmin _ _ _ _ => true
  | .atomAfmax _ _ _ _ => true
  | .redAadd _ _ _ _ => true
  | .redAmin _ _ _ _ => true
  | .redAmax _ _ _ _ => true
  | .redAminu _ _ _ _ => true
  | .redAmaxu _ _ _ _ => true
  | .redAand _ _ _ _ => true
  | .redAor _ _ _ _ => true
  | .redAxor _ _ _ _ => true
  | .redAinc _ _ _ _ => true
  | .redAdec _ _ _ _ => true
  | .redAfadd _ _ _ => true
  | .redAfaddb _ _ _ => true
  | .redAfadde _ _ _ => true
  | .redAfmin _ _ _ => true
  | .redAfmax _ _ _ => true
  | .cbwait _ _ b => b.wf
  | .cbpop _ b => b.wf
  | .cbrsv _ _ b => b.wf
  | .cbcmt _ b => b.wf
  | .cbinit _ _ b => b.wf
  | .cbqry _ _ b => b.wf
  | .fenceAcq _ _ => true
  | .fenceRel _ _ => true
  | .fenceFull _ _ => true
  | .flushv _ _ b => b.wf
  | .invl1 _ => true
  | .wcrd _ _ b => b.wf
  | .wcwait _ _ b => b.wf
  | .wcrst _ b => b.wf
  | .br _ _ _ _ => true
  | .nop _ => true
  | .brx _ b => b.wf
  | .callx _ b => b.wf
  | .ret _ => true
  | .exit _ => true
  | .yield _ => true
  | .sadd _ _ _ b => b.wf
  | .ssub _ _ _ b => b.wf
  | .smul _ _ _ b => b.wf
  | .sand _ _ _ b => b.wf
  | .sor _ _ _ b => b.wf
  | .sxor _ _ _ b => b.wf
  | .sshl _ _ _ b => b.wf
  | .sshr _ _ _ b => b.wf
  | .ssar _ _ _ b => b.wf
  | .smin _ _ _ b => b.wf
  | .smax _ _ _ b => b.wf
  | .sminu _ _ _ b => b.wf
  | .smaxu _ _ _ b => b.wf
  | .smov _ _ b => b.wf
  | .sadd64 _ _ _ b => b.wf
  | .slea _ _ _ b => b.wf
  | .scmpEq _ _ comb _ b => decide (comb ≠ 3#2) && b.wf
  | .scmpNe _ _ comb _ b => decide (comb ≠ 3#2) && b.wf
  | .scmpLt _ _ comb _ b => decide (comb ≠ 3#2) && b.wf
  | .scmpLe _ _ comb _ b => decide (comb ≠ 3#2) && b.wf
  | .scmpGt _ _ comb _ b => decide (comb ≠ 3#2) && b.wf
  | .scmpGe _ _ comb _ b => decide (comb ≠ 3#2) && b.wf
  | .scmpLtu _ _ comb _ b => decide (comb ≠ 3#2) && b.wf
  | .scmpLeu _ _ comb _ b => decide (comb ≠ 3#2) && b.wf
  | .scmpGtu _ _ comb _ b => decide (comb ≠ 3#2) && b.wf
  | .scmpGeu _ _ comb _ b => decide (comb ≠ 3#2) && b.wf
  | .shflIdx _ _ _ b => b.wf
  | .shflUp _ _ _ b => b.wf
  | .shflDown _ _ _ b => b.wf
  | .shflXor _ _ _ b => b.wf
  | .shflBcast _ _ _ b => b.wf
  | .vall _ _ _ _ => true
  | .vany _ _ _ _ => true
  | .vbal _ _ _ _ => true
  | .vuni _ _ _ _ => true
  | .vcnt _ _ _ _ => true
  | .lredIadd _ _ _ => true
  | .lredImin _ _ _ => true
  | .lredImax _ _ _ => true
  | .lredAnd _ _ _ => true
  | .lredOr _ _ _ => true
  | .lredXor _ _ _ => true
  | .lredFadd _ _ _ => true
  | .lredFmin _ _ _ => true
  | .lredFmax _ _ _ => true
  | .lscanIadd _ _ _ => true
  | .lscanImin _ _ _ => true
  | .lscanImax _ _ _ => true
  | .lscanAnd _ _ _ => true
  | .lscanOr _ _ _ => true
  | .lscanXor _ _ _ => true
  | .lscanFadd _ _ _ => true
  | .lscanFmin _ _ _ => true
  | .lscanFmax _ _ _ => true
  | .lscanExclIadd _ _ _ => true
  | .lscanExclImin _ _ _ => true
  | .lscanExclImax _ _ _ => true
  | .lscanExclAnd _ _ _ => true
  | .lscanExclOr _ _ _ => true
  | .lscanExclXor _ _ _ => true
  | .lscanExclFadd _ _ _ => true
  | .lscanExclFmin _ _ _ => true
  | .lscanExclFmax _ _ _ => true
  | .xchg _ _ b => b.wf
  | .xchgk _ _ b => b.wf
  | .hld _ _ _ b => b.wf
  | .hst _ _ _ b => b.wf
  | .hset _ _ _ b => b.wf
  | .hadv _ _ b => b.wf
  | .mmloop _ _ _ _ _ _ _ => true
  | .mmidx _ _ b => b.wf
  | .accz _ _ _ b => b.wf && b.zeroImm
  | .accrd _ _ _ _ b => b.wf
  | .accwr _ _ _ _ b => b.wf
  | .accscl _ _ _ b => b.wf
  | .accdrn _ _ _ _ b => b.wf
  | .accdra _ _ _ _ b => b.wf
  | .qsm _ _ _ b => b.wf
  | .qpack _ _ _ b => b.wf
  | .qunpk _ _ _ b => b.wf
  | .qapp _ _ _ b => b.wf
  | .tdec _ _ b => b.wf
  | .tinc _ _ b => b.wf
  | .trd _ _ b => b.wf
  | .phq _ _ _ b => b.wf
  | .wait _ _ _ _ _ => true
  | .visld _ _ _ b => b.wf
  | .visdec _ _ _ => true
  | .bary _ _ _ b => b.wf
  | .attrf _ _ _ b => b.wf
  | .ordwait _ _ b => b.wf
  | .orddone _ _ => true
  | .texs _ _ _ b => b.wf
  | .texl _ _ _ b => b.wf
  | .texg _ _ _ b => b.wf
  | .texq _ _ a b => decide (a = 0) && b.wf
  | .trav _ _ _ b => b.wf
  | .travrd _ _ _ b => b.wf
  | .reform _ _ _ b => b.wf
  | .refill _ _ _ b => b.wf
  | .rsmpl _ _ _ b => b.wf
  | .pstat _ _ _ b => b.wf
  | .sread _ _ _ num => sregNumbers.contains num.toNat
  | .swrite _ _ num => sregNumbers.contains num.toNat
  | .grow _ _ b => b.wf
  | .fork _ _ _ b => b.wf
  | .join _ => true
  | .npre _ => true
  | .nprex _ => true
  | .trap _ _ => true
  | .eret _ _ => true
  | .bkpt _ _ => true
  | .halt _ => true
  | .call _ _ _ _ => true
  | .ximm _ _ => true
  | .xreg _ payload => xregOk payload
  | .xmod _ payload => xmodOk payload
  | .xsched _ payload => xlowOk payload
  | .xpred _ payload => xlowOk payload
  | .splitMerge _ _ _ => true
  | .rendezvousRelease _ => true
  | .waitEnd _ _ => true
  | .growGrant _ => true
  | .growFail _ => true
  | .handlerEntry _ _ _ _ => true
  | .loadComplete _ _ => true
  | .storeDrain _ => true
  | .storeApply _ => true
  | .proxyInvalidate _ _ => true
  | .storeAck _ => true
  | .l1Eviction _ _ _ => true
  | .sliceEviction _ _ => true
  | .atomicApply _ => true
  | .atomicReturn _ => true
  | .bankWriteApply _ _ => true
  | .multicastRequest _ => true
  | .multicastTimeout _ => true
  | .ldmcDelivery _ _ => true
  | .kstepApply _ => true
  | .drainComplete _ => true
  | .rayComplete _ _ => true
  | .xchgPair _ => true
  | .phaseSweepPair _ => true
  | .phqWake _ => true
  | .queueConsume _ _ => true
  | .launchAccept _ => true
  | .blockDispatch _ => true
  | .gangDispatch _ => true
  | .blockRetire _ _ => true
  | .launchComplete _ => true
  | .joinResume _ => true
  | .taskAppendRetry _ => true
  | .copyStart _ _ => true
  | .copyComplete _ => true
  | .reduceSessionClose _ _ => true
  | .rasterPacket _ => true
  | .graphValidate _ => true
  | .nodeIssue _ => true
  | .predicateEval _ => true
  | .instanceStart _ _ => true
  | .waitctrComplete _ _ => true
  | .graphComplete _ => true
  | .tileRelease _ _ _ => true
  | .tileRetire _ _ _ => true
  | .relqTake _ => true
  | .ringExhausted _ => true
  | .footprintPrefetch _ _ _ => true
  | .resample _ => true
  | .placementListAccept _ => true
  | .pageWalk _ _ _ => true
  | .frameCopyOnWrite _ _ _ => true
  | .vaultEccError _ _ _ => true
  | .contextSchedule _ _ => true
  | .preemptionStart _ _ _ => true
  | .drainLimitExpiry _ _ => true
  | .forcedSave _ _ => true
  | .regionLimitExpiry _ _ => true
  | .watchdog _ => true
  | .create _ _ _ => true
  | .destroy _ _ => true
  | .preempt _ _ => true
  | .kill _ _ => true
  | .stepFlag _ _ _ _ => true
  | .unstepFlag _ _ _ _ => true
  | .queueAttach _ _ _ _ => true
  | .queueDetach _ _ => true
  | .queueClosed _ _ => true
  | .invalidate _ _ _ _ => true
  | .fillResponse _ _ _ _ => true
  | .exportHandle _ _ _ _ _ => true
  | .revoke _ _ => true
  | .bind _ _ _ => true
  | .unbind _ _ _ => true
  | .revocationNotice _ _ => true
  | .drainMarker _ _ _ => true
  | .countDoorbell _ _ _ => true
  | .bar4Write _ _ _ => true
  | .bar4Read _ _ _ => true
  | .hostAtomicop _ _ _ _ _ _ => true
  | .flushingReadComplete _ _ => true
  | .registerWrite _ _ _ => true
  | .flitReceive _ _ _ _ => true
  | .negativeAck _ _ _ _ => true
  | .laneRepair _ _ _ => true
  | .crossingFailure _ => true
  | .lossNotice _ => true
  | .bringUp _ _ _ => true
  | .powerSample _ _ => true
  | .thermalSample _ _ _ _ => true
  | .machineCheck _ => true
  | .wearUpdate _ _ _ _ => true
  | .modulePowerRemoved => true

/-- The row is one of the table's events, not an instruction word. -/
def Instr.isEvent : Instr → Bool
  | .iadd _ _ _ _ => false
  | .isub _ _ _ _ => false
  | .imul _ _ _ _ => false
  | .imulhi _ _ _ _ => false
  | .imulhiu _ _ _ _ => false
  | .imin _ _ _ _ => false
  | .imax _ _ _ _ => false
  | .iminu _ _ _ _ => false
  | .imaxu _ _ _ _ => false
  | .iabsd _ _ _ _ => false
  | .iaddsat _ _ _ _ => false
  | .isubsat _ _ _ _ => false
  | .iaddsatu _ _ _ _ => false
  | .isubsatu _ _ _ _ => false
  | .iavgu _ _ _ _ => false
  | .irsub _ _ _ _ => false
  | .and _ _ _ _ => false
  | .or _ _ _ _ => false
  | .xor _ _ _ _ => false
  | .andn _ _ _ _ => false
  | .orn _ _ _ _ => false
  | .xnor _ _ _ _ => false
  | .shl _ _ _ _ => false
  | .shr _ _ _ _ => false
  | .sar _ _ _ _ => false
  | .rotl _ _ _ _ => false
  | .rotr _ _ _ _ => false
  | .popc _ _ _ => false
  | .clz _ _ _ => false
  | .brev _ _ _ => false
  | .bfxu _ _ _ _ => false
  | .bfxs _ _ _ _ => false
  | .bfi _ _ _ _ => false
  | .bysel _ _ _ _ => false
  | .fshl _ _ _ _ => false
  | .fshr _ _ _ _ => false
  | .icmpEq _ _ _ _ _ => false
  | .icmpNe _ _ _ _ _ => false
  | .icmpLt _ _ _ _ _ => false
  | .icmpLe _ _ _ _ _ => false
  | .icmpGt _ _ _ _ _ => false
  | .icmpGe _ _ _ _ _ => false
  | .icmpLtu _ _ _ _ _ => false
  | .icmpLeu _ _ _ _ _ => false
  | .icmpGtu _ _ _ _ _ => false
  | .icmpGeu _ _ _ _ _ => false
  | .imac _ _ _ _ => false
  | .imad _ _ _ _ => false
  | .lea _ _ _ _ => false
  | .lea2 _ _ _ _ => false
  | .lea4 _ _ _ _ => false
  | .lea8 _ _ _ _ => false
  | .lea16 _ _ _ _ => false
  | .iadd64 _ _ _ _ => false
  | .isub64 _ _ _ _ => false
  | .imulw _ _ _ _ => false
  | .mov _ _ _ => false
  | .sel _ _ _ _ _ => false
  | .pand _ _ _ _ => false
  | .por _ _ _ _ => false
  | .pxor _ _ _ _ => false
  | .pnot _ _ _ => false
  | .p2v _ _ => false
  | .v2p _ _ => false
  | .cvt _ _ _ _ _ _ => false
  | .fadd _ _ _ _ => false
  | .fsub _ _ _ _ => false
  | .fmul _ _ _ _ => false
  | .fmac _ _ _ _ => false
  | .fmad _ _ _ _ => false
  | .fmns _ _ _ _ => false
  | .fmin _ _ _ _ => false
  | .fmax _ _ _ _ => false
  | .fabs _ _ _ => false
  | .fneg _ _ _ => false
  | .fsat _ _ _ => false
  | .ffloor _ _ _ => false
  | .fceil _ _ _ => false
  | .ftrunc _ _ _ => false
  | .frint _ _ _ => false
  | .fcsgn _ _ _ _ => false
  | .fcmpEq _ _ _ _ _ => false
  | .fcmpNe _ _ _ _ _ => false
  | .fcmpLt _ _ _ _ _ => false
  | .fcmpLe _ _ _ _ _ => false
  | .fcmpGt _ _ _ _ _ => false
  | .fcmpGe _ _ _ _ _ => false
  | .fcmpUn _ _ _ _ _ => false
  | .fcmpOr _ _ _ _ _ => false
  | .frcp _ _ _ => false
  | .frsq _ _ _ => false
  | .fsqrt _ _ _ => false
  | .fexp2 _ _ _ => false
  | .flog2 _ _ _ => false
  | .fsint _ _ _ => false
  | .fcost _ _ _ => false
  | .ftanh _ _ _ => false
  | .hpadd _ _ _ _ => false
  | .hpmul _ _ _ _ => false
  | .hpfma _ _ _ _ => false
  | .hpmin _ _ _ _ => false
  | .hpmax _ _ _ _ => false
  | .bpadd _ _ _ _ => false
  | .bpmul _ _ _ _ => false
  | .bpfma _ _ _ _ => false
  | .bpmin _ _ _ _ => false
  | .bpmax _ _ _ _ => false
  | .pk2 _ _ _ _ => false
  | .pkb2 _ _ _ _ => false
  | .upkl _ _ _ => false
  | .upkh _ _ _ => false
  | .idp4 _ _ _ _ => false
  | .idp4u _ _ _ _ => false
  | .bdp2 _ _ _ _ => false
  | .edp4 _ _ _ _ => false
  | .dsdp4 _ _ _ _ => false
  | .movi _ _ _ => false
  | .smovi _ _ _ => false
  | .ld _ _ _ _ _ _ _ => false
  | .st _ _ _ _ _ _ _ => false
  | .lds _ _ _ _ _ _ => false
  | .sts _ _ _ _ _ _ => false
  | .ldc _ _ _ _ => false
  | .cwin _ _ => false
  | .ldmc _ _ _ _ => false
  | .atomAadd _ _ _ _ _ => false
  | .atomAmin _ _ _ _ _ => false
  | .atomAmax _ _ _ _ _ => false
  | .atomAminu _ _ _ _ _ => false
  | .atomAmaxu _ _ _ _ _ => false
  | .atomAand _ _ _ _ _ => false
  | .atomAor _ _ _ _ _ => false
  | .atomAxor _ _ _ _ _ => false
  | .atomAexch _ _ _ _ _ => false
  | .atomAcas _ _ _ _ _ => false
  | .atomAinc _ _ _ _ _ => false
  | .atomAdec _ _ _ _ _ => false
  | .atomAfadd _ _ _ _ => false
  | .atomAfaddb _ _ _ _ => false
  | .atomAfadde _ _ _ _ => false
  | .atomAfmin _ _ _ _ => false
  | .atomAfmax _ _ _ _ => false
  | .redAadd _ _ _ _ => false
  | .redAmin _ _ _ _ => false
  | .redAmax _ _ _ _ => false
  | .redAminu _ _ _ _ => false
  | .redAmaxu _ _ _ _ => false
  | .redAand _ _ _ _ => false
  | .redAor _ _ _ _ => false
  | .redAxor _ _ _ _ => false
  | .redAinc _ _ _ _ => false
  | .redAdec _ _ _ _ => false
  | .redAfadd _ _ _ => false
  | .redAfaddb _ _ _ => false
  | .redAfadde _ _ _ => false
  | .redAfmin _ _ _ => false
  | .redAfmax _ _ _ => false
  | .cbwait _ _ _ => false
  | .cbpop _ _ => false
  | .cbrsv _ _ _ => false
  | .cbcmt _ _ => false
  | .cbinit _ _ _ => false
  | .cbqry _ _ _ => false
  | .fenceAcq _ _ => false
  | .fenceRel _ _ => false
  | .fenceFull _ _ => false
  | .flushv _ _ _ => false
  | .invl1 _ => false
  | .wcrd _ _ _ => false
  | .wcwait _ _ _ => false
  | .wcrst _ _ => false
  | .br _ _ _ _ => false
  | .nop _ => false
  | .brx _ _ => false
  | .callx _ _ => false
  | .ret _ => false
  | .exit _ => false
  | .yield _ => false
  | .sadd _ _ _ _ => false
  | .ssub _ _ _ _ => false
  | .smul _ _ _ _ => false
  | .sand _ _ _ _ => false
  | .sor _ _ _ _ => false
  | .sxor _ _ _ _ => false
  | .sshl _ _ _ _ => false
  | .sshr _ _ _ _ => false
  | .ssar _ _ _ _ => false
  | .smin _ _ _ _ => false
  | .smax _ _ _ _ => false
  | .sminu _ _ _ _ => false
  | .smaxu _ _ _ _ => false
  | .smov _ _ _ => false
  | .sadd64 _ _ _ _ => false
  | .slea _ _ _ _ => false
  | .scmpEq _ _ _ _ _ => false
  | .scmpNe _ _ _ _ _ => false
  | .scmpLt _ _ _ _ _ => false
  | .scmpLe _ _ _ _ _ => false
  | .scmpGt _ _ _ _ _ => false
  | .scmpGe _ _ _ _ _ => false
  | .scmpLtu _ _ _ _ _ => false
  | .scmpLeu _ _ _ _ _ => false
  | .scmpGtu _ _ _ _ _ => false
  | .scmpGeu _ _ _ _ _ => false
  | .shflIdx _ _ _ _ => false
  | .shflUp _ _ _ _ => false
  | .shflDown _ _ _ _ => false
  | .shflXor _ _ _ _ => false
  | .shflBcast _ _ _ _ => false
  | .vall _ _ _ _ => false
  | .vany _ _ _ _ => false
  | .vbal _ _ _ _ => false
  | .vuni _ _ _ _ => false
  | .vcnt _ _ _ _ => false
  | .lredIadd _ _ _ => false
  | .lredImin _ _ _ => false
  | .lredImax _ _ _ => false
  | .lredAnd _ _ _ => false
  | .lredOr _ _ _ => false
  | .lredXor _ _ _ => false
  | .lredFadd _ _ _ => false
  | .lredFmin _ _ _ => false
  | .lredFmax _ _ _ => false
  | .lscanIadd _ _ _ => false
  | .lscanImin _ _ _ => false
  | .lscanImax _ _ _ => false
  | .lscanAnd _ _ _ => false
  | .lscanOr _ _ _ => false
  | .lscanXor _ _ _ => false
  | .lscanFadd _ _ _ => false
  | .lscanFmin _ _ _ => false
  | .lscanFmax _ _ _ => false
  | .lscanExclIadd _ _ _ => false
  | .lscanExclImin _ _ _ => false
  | .lscanExclImax _ _ _ => false
  | .lscanExclAnd _ _ _ => false
  | .lscanExclOr _ _ _ => false
  | .lscanExclXor _ _ _ => false
  | .lscanExclFadd _ _ _ => false
  | .lscanExclFmin _ _ _ => false
  | .lscanExclFmax _ _ _ => false
  | .xchg _ _ _ => false
  | .xchgk _ _ _ => false
  | .hld _ _ _ _ => false
  | .hst _ _ _ _ => false
  | .hset _ _ _ _ => false
  | .hadv _ _ _ => false
  | .mmloop _ _ _ _ _ _ _ => false
  | .mmidx _ _ _ => false
  | .accz _ _ _ _ => false
  | .accrd _ _ _ _ _ => false
  | .accwr _ _ _ _ _ => false
  | .accscl _ _ _ _ => false
  | .accdrn _ _ _ _ _ => false
  | .accdra _ _ _ _ _ => false
  | .qsm _ _ _ _ => false
  | .qpack _ _ _ _ => false
  | .qunpk _ _ _ _ => false
  | .qapp _ _ _ _ => false
  | .tdec _ _ _ => false
  | .tinc _ _ _ => false
  | .trd _ _ _ => false
  | .phq _ _ _ _ => false
  | .wait _ _ _ _ _ => false
  | .visld _ _ _ _ => false
  | .visdec _ _ _ => false
  | .bary _ _ _ _ => false
  | .attrf _ _ _ _ => false
  | .ordwait _ _ _ => false
  | .orddone _ _ => false
  | .texs _ _ _ _ => false
  | .texl _ _ _ _ => false
  | .texg _ _ _ _ => false
  | .texq _ _ _ _ => false
  | .trav _ _ _ _ => false
  | .travrd _ _ _ _ => false
  | .reform _ _ _ _ => false
  | .refill _ _ _ _ => false
  | .rsmpl _ _ _ _ => false
  | .pstat _ _ _ _ => false
  | .sread _ _ _ _ => false
  | .swrite _ _ _ => false
  | .grow _ _ _ => false
  | .fork _ _ _ _ => false
  | .join _ => false
  | .npre _ => false
  | .nprex _ => false
  | .trap _ _ => false
  | .eret _ _ => false
  | .bkpt _ _ => false
  | .halt _ => false
  | .call _ _ _ _ => false
  | .ximm _ _ => false
  | .xreg _ _ => false
  | .xmod _ _ => false
  | .xsched _ _ => false
  | .xpred _ _ => false
  | .splitMerge _ _ _ => true
  | .rendezvousRelease _ => true
  | .waitEnd _ _ => true
  | .growGrant _ => true
  | .growFail _ => true
  | .handlerEntry _ _ _ _ => true
  | .loadComplete _ _ => true
  | .storeDrain _ => true
  | .storeApply _ => true
  | .proxyInvalidate _ _ => true
  | .storeAck _ => true
  | .l1Eviction _ _ _ => true
  | .sliceEviction _ _ => true
  | .atomicApply _ => true
  | .atomicReturn _ => true
  | .bankWriteApply _ _ => true
  | .multicastRequest _ => true
  | .multicastTimeout _ => true
  | .ldmcDelivery _ _ => true
  | .kstepApply _ => true
  | .drainComplete _ => true
  | .rayComplete _ _ => true
  | .xchgPair _ => true
  | .phaseSweepPair _ => true
  | .phqWake _ => true
  | .queueConsume _ _ => true
  | .launchAccept _ => true
  | .blockDispatch _ => true
  | .gangDispatch _ => true
  | .blockRetire _ _ => true
  | .launchComplete _ => true
  | .joinResume _ => true
  | .taskAppendRetry _ => true
  | .copyStart _ _ => true
  | .copyComplete _ => true
  | .reduceSessionClose _ _ => true
  | .rasterPacket _ => true
  | .graphValidate _ => true
  | .nodeIssue _ => true
  | .predicateEval _ => true
  | .instanceStart _ _ => true
  | .waitctrComplete _ _ => true
  | .graphComplete _ => true
  | .tileRelease _ _ _ => true
  | .tileRetire _ _ _ => true
  | .relqTake _ => true
  | .ringExhausted _ => true
  | .footprintPrefetch _ _ _ => true
  | .resample _ => true
  | .placementListAccept _ => true
  | .pageWalk _ _ _ => true
  | .frameCopyOnWrite _ _ _ => true
  | .vaultEccError _ _ _ => true
  | .contextSchedule _ _ => true
  | .preemptionStart _ _ _ => true
  | .drainLimitExpiry _ _ => true
  | .forcedSave _ _ => true
  | .regionLimitExpiry _ _ => true
  | .watchdog _ => true
  | .create _ _ _ => true
  | .destroy _ _ => true
  | .preempt _ _ => true
  | .kill _ _ => true
  | .stepFlag _ _ _ _ => true
  | .unstepFlag _ _ _ _ => true
  | .queueAttach _ _ _ _ => true
  | .queueDetach _ _ => true
  | .queueClosed _ _ => true
  | .invalidate _ _ _ _ => true
  | .fillResponse _ _ _ _ => true
  | .exportHandle _ _ _ _ _ => true
  | .revoke _ _ => true
  | .bind _ _ _ => true
  | .unbind _ _ _ => true
  | .revocationNotice _ _ => true
  | .drainMarker _ _ _ => true
  | .countDoorbell _ _ _ => true
  | .bar4Write _ _ _ => true
  | .bar4Read _ _ _ => true
  | .hostAtomicop _ _ _ _ _ _ => true
  | .flushingReadComplete _ _ => true
  | .registerWrite _ _ _ => true
  | .flitReceive _ _ _ _ => true
  | .negativeAck _ _ _ _ => true
  | .laneRepair _ _ _ => true
  | .crossingFailure _ => true
  | .lossNotice _ => true
  | .bringUp _ _ _ => true
  | .powerSample _ _ => true
  | .thermalSample _ _ _ _ => true
  | .machineCheck _ => true
  | .wearUpdate _ _ _ _ => true
  | .modulePowerRemoved => true

/-- The well-formed instruction words. -/
def WellFormed (i : Instr) : Prop := i.wf = true ∧ i.isEvent = false

end Sys2Proof
end

