-- ==== Sys2Proof/Decode.lean ====
section
/-! DEFINITION. Decoding of instruction words (02_encoding.md, R21 to R51), total and rejecting by name, and the
encoder written from the same tables. A word the decoder refuses is one that traps with ILLEGAL_ENCODING (R24); every
other decode cause is judged by the meaning of the decoded instruction. Some definitions are marked noncomputable: Lean's
runtime has no tag for a constructor past the 245th; its kernel evaluates them. -/

namespace Sys2Proof

/-- The SCOPE field (R22). -/
def Scope.ofBits (x : BitVec 2) : Scope :=
  match x.toNat with
  | 0 => .lane
  | 1 => .warp
  | 2 => .set
  | _ => .block

/-- The b operand of the R format from its kind and field (R25, R26); the literal word is the one after the
instruction. -/
def opbOf (k : BitVec 2) (b : BitVec 6) (lit : Word) : Opb :=
  match k.toNat with
  | 0 => .v b
  | 1 => .s b
  | 2 => .imm b
  | _ =>
    if b = 63#6 then .lit lit
    else if b = 62#6 then .ximm
    else if b < 56#6 then .const b
    else .resv b

/-- Major 0x01 (IALU; R24, R48 to R51; R106). -/
def decIalu (sc : Scope) (d : Reg) (a : Reg) (o : Opb) (fn : Nat) : Option Instr :=
  match fn with
  | 0 => some (.iadd sc d a o)
  | 1 => some (.isub sc d a o)
  | 2 => some (.imul sc d a o)
  | 3 => some (.imulhi sc d a o)
  | 4 => some (.imulhiu sc d a o)
  | 5 => some (.imin sc d a o)
  | 6 => some (.imax sc d a o)
  | 7 => some (.iminu sc d a o)
  | 8 => some (.imaxu sc d a o)
  | 9 => some (.iabsd sc d a o)
  | 10 => some (.iaddsat sc d a o)
  | 11 => some (.isubsat sc d a o)
  | 12 => some (.iaddsatu sc d a o)
  | 13 => some (.isubsatu sc d a o)
  | 14 => some (.iavgu sc d a o)
  | 15 => some (.irsub sc d a o)
  | _ => none

/-- Major 0x02 (LOGIC; R24, R48 to R51; R107). -/
def decLogic (sc : Scope) (d : Reg) (a : Reg) (o : Opb) (fn : Nat) : Option Instr :=
  match fn with
  | 0 => some (.and sc d a o)
  | 1 => some (.or sc d a o)
  | 2 => some (.xor sc d a o)
  | 3 => some (.andn sc d a o)
  | 4 => some (.orn sc d a o)
  | 5 => some (.xnor sc d a o)
  | 6 => some (.shl sc d a o)
  | 7 => some (.shr sc d a o)
  | 8 => some (.sar sc d a o)
  | 9 => some (.rotl sc d a o)
  | 10 => some (.rotr sc d a o)
  | 11 => if a = 0 then some (.popc sc d o) else none
  | 12 => if a = 0 then some (.clz sc d o) else none
  | 13 => if a = 0 then some (.brev sc d o) else none
  | _ => none

/-- Major 0x03 (BITF; R24, R48 to R51; R108). -/
def decBitf (sc : Scope) (d : Reg) (a : Reg) (o : Opb) (fn : Nat) : Option Instr :=
  match fn with
  | 0 => some (.bfxu sc d a o)
  | 1 => some (.bfxs sc d a o)
  | 2 => some (.bfi sc d a o)
  | 3 => some (.bysel sc d a o)
  | 4 => some (.fshl sc d a o)
  | 5 => some (.fshr sc d a o)
  | _ => none

/-- Major 0x04 (ICMP; R24, R48 to R51; R109). -/
def decIcmp (sc : Scope) (d : Reg) (a : Reg) (o : Opb) (fn : Nat) : Option Instr :=
  match fn with
  | 0 => if (d &&& 0x20#6) = 0 ∧ d.extractLsb' 3 2 ≠ 3#2 then some (.icmpEq sc (d.extractLsb' 0 3) (d.extractLsb' 3 2) a o) else none
  | 1 => if (d &&& 0x20#6) = 0 ∧ d.extractLsb' 3 2 ≠ 3#2 then some (.icmpNe sc (d.extractLsb' 0 3) (d.extractLsb' 3 2) a o) else none
  | 2 => if (d &&& 0x20#6) = 0 ∧ d.extractLsb' 3 2 ≠ 3#2 then some (.icmpLt sc (d.extractLsb' 0 3) (d.extractLsb' 3 2) a o) else none
  | 3 => if (d &&& 0x20#6) = 0 ∧ d.extractLsb' 3 2 ≠ 3#2 then some (.icmpLe sc (d.extractLsb' 0 3) (d.extractLsb' 3 2) a o) else none
  | 4 => if (d &&& 0x20#6) = 0 ∧ d.extractLsb' 3 2 ≠ 3#2 then some (.icmpGt sc (d.extractLsb' 0 3) (d.extractLsb' 3 2) a o) else none
  | 5 => if (d &&& 0x20#6) = 0 ∧ d.extractLsb' 3 2 ≠ 3#2 then some (.icmpGe sc (d.extractLsb' 0 3) (d.extractLsb' 3 2) a o) else none
  | 6 => if (d &&& 0x20#6) = 0 ∧ d.extractLsb' 3 2 ≠ 3#2 then some (.icmpLtu sc (d.extractLsb' 0 3) (d.extractLsb' 3 2) a o) else none
  | 7 => if (d &&& 0x20#6) = 0 ∧ d.extractLsb' 3 2 ≠ 3#2 then some (.icmpLeu sc (d.extractLsb' 0 3) (d.extractLsb' 3 2) a o) else none
  | 8 => if (d &&& 0x20#6) = 0 ∧ d.extractLsb' 3 2 ≠ 3#2 then some (.icmpGtu sc (d.extractLsb' 0 3) (d.extractLsb' 3 2) a o) else none
  | 9 => if (d &&& 0x20#6) = 0 ∧ d.extractLsb' 3 2 ≠ 3#2 then some (.icmpGeu sc (d.extractLsb' 0 3) (d.extractLsb' 3 2) a o) else none
  | _ => none

/-- Major 0x05 (IMAD; R24, R48 to R51; R110). -/
def decImad (sc : Scope) (d : Reg) (a : Reg) (o : Opb) (fn : Nat) : Option Instr :=
  match fn with
  | 0 => some (.imac sc d a o)
  | 1 => some (.imad sc d a o)
  | 2 => some (.lea sc d a o)
  | 3 => some (.lea2 sc d a o)
  | 4 => some (.lea4 sc d a o)
  | 5 => some (.lea8 sc d a o)
  | 6 => some (.lea16 sc d a o)
  | 7 => some (.iadd64 sc d a o)
  | 8 => some (.isub64 sc d a o)
  | 9 => some (.imulw sc d a o)
  | _ => none

/-- Major 0x06 (MOVSEL; R24, R48 to R51; R111, R112). -/
def decMovsel (sc : Scope) (d : Reg) (a : Reg) (o : Opb) (fn : Nat) : Option Instr :=
  match fn with
  | 0 => if a = 0 then some (.mov sc d o) else none
  | 1 => some (.sel sc 1#3 d a o)
  | 2 => some (.sel sc 2#3 d a o)
  | 3 => some (.sel sc 3#3 d a o)
  | 4 => some (.sel sc 4#3 d a o)
  | 5 => some (.sel sc 5#3 d a o)
  | 6 => some (.sel sc 6#3 d a o)
  | 7 => some (.sel sc 7#3 d a o)
  | 8 => if (d &&& 0x38#6) = 0 ∧ (a &&& 0x38#6) = 0 ∧ (o.bits &&& 0x38#6) = 0 then some (.pand sc (d.extractLsb' 0 3) (a.extractLsb' 0 3) o) else none
  | 9 => if (d &&& 0x38#6) = 0 ∧ (a &&& 0x38#6) = 0 ∧ (o.bits &&& 0x38#6) = 0 then some (.por sc (d.extractLsb' 0 3) (a.extractLsb' 0 3) o) else none
  | 10 => if (d &&& 0x38#6) = 0 ∧ (a &&& 0x38#6) = 0 ∧ (o.bits &&& 0x38#6) = 0 then some (.pxor sc (d.extractLsb' 0 3) (a.extractLsb' 0 3) o) else none
  | 11 => if (d &&& 0x38#6) = 0 ∧ (a &&& 0x38#6) = 0 ∧ o = .v 0 then some (.pnot sc (d.extractLsb' 0 3) (a.extractLsb' 0 3)) else none
  | 12 => if a = 0 ∧ o = .v 0 then some (.p2v sc d) else none
  | 13 => if d = 0 ∧ o = .v 0 then some (.v2p sc a) else none
  | _ => none

/-- Major 0x07 (CVT; R24, R48 to R51; R155). -/
def decCvt (w : Word) (sc : Scope) (d : Reg) (a : Reg) : Option Instr :=
  if (w.extractLsb' 3 3) = 4#3 ∧ cvtCodes.contains (w.extractLsb' 6 6).toNat then some (.cvt sc d a (w.extractLsb' 6 6) (w.getLsbD 2) (w.extractLsb' 0 2)) else none

/-- Major 0x08 (FALU; R24, R48 to R51; R148, R150). -/
def decFalu (sc : Scope) (d : Reg) (a : Reg) (o : Opb) (fn : Nat) : Option Instr :=
  match fn with
  | 0 => some (.fadd sc d a o)
  | 1 => some (.fsub sc d a o)
  | 2 => some (.fmul sc d a o)
  | 3 => some (.fmac sc d a o)
  | 4 => some (.fmad sc d a o)
  | 5 => some (.fmns sc d a o)
  | 6 => some (.fmin sc d a o)
  | 7 => some (.fmax sc d a o)
  | 8 => if a = 0 then some (.fabs sc d o) else none
  | 9 => if a = 0 then some (.fneg sc d o) else none
  | 10 => if a = 0 then some (.fsat sc d o) else none
  | 11 => if a = 0 then some (.ffloor sc d o) else none
  | 12 => if a = 0 then some (.fceil sc d o) else none
  | 13 => if a = 0 then some (.ftrunc sc d o) else none
  | 14 => if a = 0 then some (.frint sc d o) else none
  | 15 => some (.fcsgn sc d a o)
  | _ => none

/-- Major 0x09 (FCMP; R24, R48 to R51; R151). -/
def decFcmp (sc : Scope) (d : Reg) (a : Reg) (o : Opb) (fn : Nat) : Option Instr :=
  match fn with
  | 0 => if (d &&& 0x20#6) = 0 ∧ d.extractLsb' 3 2 ≠ 3#2 then some (.fcmpEq sc (d.extractLsb' 0 3) (d.extractLsb' 3 2) a o) else none
  | 1 => if (d &&& 0x20#6) = 0 ∧ d.extractLsb' 3 2 ≠ 3#2 then some (.fcmpNe sc (d.extractLsb' 0 3) (d.extractLsb' 3 2) a o) else none
  | 2 => if (d &&& 0x20#6) = 0 ∧ d.extractLsb' 3 2 ≠ 3#2 then some (.fcmpLt sc (d.extractLsb' 0 3) (d.extractLsb' 3 2) a o) else none
  | 3 => if (d &&& 0x20#6) = 0 ∧ d.extractLsb' 3 2 ≠ 3#2 then some (.fcmpLe sc (d.extractLsb' 0 3) (d.extractLsb' 3 2) a o) else none
  | 4 => if (d &&& 0x20#6) = 0 ∧ d.extractLsb' 3 2 ≠ 3#2 then some (.fcmpGt sc (d.extractLsb' 0 3) (d.extractLsb' 3 2) a o) else none
  | 5 => if (d &&& 0x20#6) = 0 ∧ d.extractLsb' 3 2 ≠ 3#2 then some (.fcmpGe sc (d.extractLsb' 0 3) (d.extractLsb' 3 2) a o) else none
  | 6 => if (d &&& 0x20#6) = 0 ∧ d.extractLsb' 3 2 ≠ 3#2 then some (.fcmpUn sc (d.extractLsb' 0 3) (d.extractLsb' 3 2) a o) else none
  | 7 => if (d &&& 0x20#6) = 0 ∧ d.extractLsb' 3 2 ≠ 3#2 then some (.fcmpOr sc (d.extractLsb' 0 3) (d.extractLsb' 3 2) a o) else none
  | _ => none

/-- Major 0x0A (SFU; R24, R48 to R51; R152). -/
def decSfu (sc : Scope) (d : Reg) (a : Reg) (o : Opb) (fn : Nat) : Option Instr :=
  match fn with
  | 0 => if a = 0 then some (.frcp sc d o) else none
  | 1 => if a = 0 then some (.frsq sc d o) else none
  | 2 => if a = 0 then some (.fsqrt sc d o) else none
  | 3 => if a = 0 then some (.fexp2 sc d o) else none
  | 4 => if a = 0 then some (.flog2 sc d o) else none
  | 5 => if a = 0 then some (.fsint sc d o) else none
  | 6 => if a = 0 then some (.fcost sc d o) else none
  | 7 => if a = 0 then some (.ftanh sc d o) else none
  | _ => none

/-- Major 0x0B (PK16; R24, R48 to R51; R153). -/
def decPk16 (sc : Scope) (d : Reg) (a : Reg) (o : Opb) (fn : Nat) : Option Instr :=
  match fn with
  | 0 => some (.hpadd sc d a o)
  | 1 => some (.hpmul sc d a o)
  | 2 => some (.hpfma sc d a o)
  | 3 => some (.hpmin sc d a o)
  | 4 => some (.hpmax sc d a o)
  | 5 => some (.bpadd sc d a o)
  | 6 => some (.bpmul sc d a o)
  | 7 => some (.bpfma sc d a o)
  | 8 => some (.bpmin sc d a o)
  | 9 => some (.bpmax sc d a o)
  | 10 => some (.pk2 sc d a o)
  | 11 => some (.pkb2 sc d a o)
  | 12 => if a = 0 then some (.upkl sc d o) else none
  | 13 => if a = 0 then some (.upkh sc d o) else none
  | _ => none

/-- Major 0x0C (DOT; R24, R48 to R51; R154). -/
def decDot (sc : Scope) (d : Reg) (a : Reg) (o : Opb) (fn : Nat) : Option Instr :=
  match fn with
  | 0 => some (.idp4 sc d a o)
  | 1 => some (.idp4u sc d a o)
  | 2 => some (.bdp2 sc d a o)
  | 3 => some (.edp4 sc d a o)
  | 4 => some (.dsdp4 sc d a o)
  | _ => none

/-- Major 0x0D (MOVI; R24, R48 to R51; R29). -/
def decMovi (w : Word) (sc : Scope) (d : Reg) : Option Instr :=
  some (.movi sc d (w.extractLsb' 0 18))

/-- Major 0x0E (SMOVI; R24, R48 to R51; R29). -/
def decSmovi (w : Word) (sc : Scope) (d : Reg) : Option Instr :=
  some (.smovi sc d (w.extractLsb' 0 18))

/-- Major 0x10 (LD; R24, R48 to R51; R129). -/
def decLd (w : Word) (sc : Scope) (d : Reg) (a : Reg) : Option Instr :=
  if w.getLsbD 0 = false ∧ w.extractLsb' 3 3 ≤ 4#3 ∧ (w.getLsbD 2 = true → w.extractLsb' 3 3 ≤ 1#3) then some (.ld sc d a (w.extractLsb' 6 6) (w.extractLsb' 3 3) (w.getLsbD 2) (w.getLsbD 1)) else none

/-- Major 0x11 (ST; R24, R48 to R51; R129). -/
def decSt (w : Word) (sc : Scope) (d : Reg) (a : Reg) : Option Instr :=
  if w.getLsbD 0 = false ∧ w.extractLsb' 3 3 ≤ 4#3 then some (.st sc d a (w.extractLsb' 6 6) (w.extractLsb' 3 3) (w.getLsbD 2) (w.getLsbD 1)) else none

/-- Major 0x12 (LDS; R24, R48 to R51; R132). -/
def decLds (w : Word) (sc : Scope) (d : Reg) (a : Reg) : Option Instr :=
  if (w.extractLsb' 0 4) = 0#4 ∧ w.extractLsb' 5 3 ≤ 4#3 then some (if w.getLsbD 8 then .sts sc d a (w.extractLsb' 9 3) (w.extractLsb' 5 3) (w.getLsbD 4) else .lds sc d a (w.extractLsb' 9 3) (w.extractLsb' 5 3) (w.getLsbD 4)) else none

/-- Major 0x13 (LDC; R24, R48 to R51; R137). -/
def decLdc (sc : Scope) (d : Reg) (a : Reg) (o : Opb) (fn : Nat) : Option Instr :=
  match fn with
  | 0 => some (.ldc sc d a o)
  | 1 => if d = 0 ∧ a = 0 then some (.cwin sc o) else none
  | _ => none

/-- Major 0x14 (LDMC; R24, R48 to R51; R139). -/
def decLdmc (w : Word) (sc : Scope) (d : Reg) (a : Reg) : Option Instr :=
  if (w.extractLsb' 0 6) = 0#6 then some (.ldmc sc d a (w.extractLsb' 6 6)) else none

/-- Major 0x15 (ATOM; R24, R48 to R51; R247). -/
def decAtom (w : Word) (sc : Scope) (d : Reg) (a : Reg) : Option Instr :=
  match (w.extractLsb' 0 5).toNat with
  | 0 => some (.atomAadd sc d a (w.extractLsb' 6 6) (w.getLsbD 5))
  | 1 => some (.atomAmin sc d a (w.extractLsb' 6 6) (w.getLsbD 5))
  | 2 => some (.atomAmax sc d a (w.extractLsb' 6 6) (w.getLsbD 5))
  | 3 => some (.atomAminu sc d a (w.extractLsb' 6 6) (w.getLsbD 5))
  | 4 => some (.atomAmaxu sc d a (w.extractLsb' 6 6) (w.getLsbD 5))
  | 5 => some (.atomAand sc d a (w.extractLsb' 6 6) (w.getLsbD 5))
  | 6 => some (.atomAor sc d a (w.extractLsb' 6 6) (w.getLsbD 5))
  | 7 => some (.atomAxor sc d a (w.extractLsb' 6 6) (w.getLsbD 5))
  | 8 => some (.atomAexch sc d a (w.extractLsb' 6 6) (w.getLsbD 5))
  | 9 => some (.atomAcas sc d a (w.extractLsb' 6 6) (w.getLsbD 5))
  | 10 => some (.atomAinc sc d a (w.extractLsb' 6 6) (w.getLsbD 5))
  | 11 => some (.atomAdec sc d a (w.extractLsb' 6 6) (w.getLsbD 5))
  | 12 => if w.getLsbD 5 = false then some (.atomAfadd sc d a (w.extractLsb' 6 6)) else none
  | 13 => if w.getLsbD 5 = false then some (.atomAfaddb sc d a (w.extractLsb' 6 6)) else none
  | 14 => if w.getLsbD 5 = false then some (.atomAfadde sc d a (w.extractLsb' 6 6)) else none
  | 15 => if w.getLsbD 5 = false then some (.atomAfmin sc d a (w.extractLsb' 6 6)) else none
  | 16 => if w.getLsbD 5 = false then some (.atomAfmax sc d a (w.extractLsb' 6 6)) else none
  | _ => none

/-- Major 0x16 (RED; R24, R48 to R51; R247). -/
def decRed (w : Word) (sc : Scope) (d : Reg) (a : Reg) : Option Instr :=
  match (w.extractLsb' 0 5).toNat with
  | 0 => if d = 0 then some (.redAadd sc a (w.extractLsb' 6 6) (w.getLsbD 5)) else none
  | 1 => if d = 0 then some (.redAmin sc a (w.extractLsb' 6 6) (w.getLsbD 5)) else none
  | 2 => if d = 0 then some (.redAmax sc a (w.extractLsb' 6 6) (w.getLsbD 5)) else none
  | 3 => if d = 0 then some (.redAminu sc a (w.extractLsb' 6 6) (w.getLsbD 5)) else none
  | 4 => if d = 0 then some (.redAmaxu sc a (w.extractLsb' 6 6) (w.getLsbD 5)) else none
  | 5 => if d = 0 then some (.redAand sc a (w.extractLsb' 6 6) (w.getLsbD 5)) else none
  | 6 => if d = 0 then some (.redAor sc a (w.extractLsb' 6 6) (w.getLsbD 5)) else none
  | 7 => if d = 0 then some (.redAxor sc a (w.extractLsb' 6 6) (w.getLsbD 5)) else none
  | 10 => if d = 0 then some (.redAinc sc a (w.extractLsb' 6 6) (w.getLsbD 5)) else none
  | 11 => if d = 0 then some (.redAdec sc a (w.extractLsb' 6 6) (w.getLsbD 5)) else none
  | 12 => if d = 0 ∧ w.getLsbD 5 = false then some (.redAfadd sc a (w.extractLsb' 6 6)) else none
  | 13 => if d = 0 ∧ w.getLsbD 5 = false then some (.redAfaddb sc a (w.extractLsb' 6 6)) else none
  | 14 => if d = 0 ∧ w.getLsbD 5 = false then some (.redAfadde sc a (w.extractLsb' 6 6)) else none
  | 15 => if d = 0 ∧ w.getLsbD 5 = false then some (.redAfmin sc a (w.extractLsb' 6 6)) else none
  | 16 => if d = 0 ∧ w.getLsbD 5 = false then some (.redAfmax sc a (w.extractLsb' 6 6)) else none
  | _ => none

/-- Major 0x17 (CBUF; R24, R48 to R51; R141). -/
def decCbuf (sc : Scope) (d : Reg) (a : Reg) (o : Opb) (fn : Nat) : Option Instr :=
  match fn with
  | 0 => if a = 0 then some (.cbwait sc d o) else none
  | 1 => if d = 0 ∧ a = 0 then some (.cbpop sc o) else none
  | 2 => if a = 0 then some (.cbrsv sc d o) else none
  | 3 => if d = 0 ∧ a = 0 then some (.cbcmt sc o) else none
  | 4 => if d = 0 then some (.cbinit sc a o) else none
  | 5 => if a = 0 then some (.cbqry sc d o) else none
  | _ => none

/-- Major 0x18 (FENCE; R24, R48 to R51; R142, R143). -/
def decFence (sc : Scope) (d : Reg) (a : Reg) (o : Opb) (fn : Nat) : Option Instr :=
  match fn with
  | 0 => if (d &&& 0x3C#6) = 0 ∧ a = 0 ∧ o = .v 0 then some (.fenceAcq sc (d.extractLsb' 0 2)) else none
  | 1 => if (d &&& 0x3C#6) = 0 ∧ a = 0 ∧ o = .v 0 then some (.fenceRel sc (d.extractLsb' 0 2)) else none
  | 2 => if (d &&& 0x3C#6) = 0 ∧ a = 0 ∧ o = .v 0 then some (.fenceFull sc (d.extractLsb' 0 2)) else none
  | 3 => if d = 0 then some (.flushv sc a o) else none
  | 4 => if d = 0 ∧ a = 0 ∧ o = .v 0 then some (.invl1 sc) else none
  | _ => none

/-- Major 0x19 (WCTR; R24, R48 to R51; R146). -/
def decWctr (sc : Scope) (d : Reg) (a : Reg) (o : Opb) (fn : Nat) : Option Instr :=
  match fn with
  | 0 => if a = 0 then some (.wcrd sc d o) else none
  | 1 => if d = 0 then some (.wcwait sc a o) else none
  | 2 => if d = 0 ∧ a = 0 then some (.wcrst sc o) else none
  | _ => none

/-- Major 0x1A (BR; R24, R48 to R51; R115). -/
def decBr (w : Word) (sc : Scope) : Option Instr :=
  some (.br sc (w.extractLsb' 21 3) (w.getLsbD 20) (w.extractLsb' 0 20))

/-- Major 0x1B (CTRL; R24, R48 to R51; R118, R119, R121). -/
def decCtrl (sc : Scope) (d : Reg) (a : Reg) (o : Opb) (fn : Nat) : Option Instr :=
  match fn with
  | 0 => if d = 0 ∧ a = 0 ∧ o = .v 0 then some (.nop sc) else none
  | 1 => if d = 0 ∧ a = 0 then some (.brx sc o) else none
  | 2 => if d = 0 ∧ a = 0 then some (.callx sc o) else none
  | 3 => if d = 0 ∧ a = 0 ∧ o = .v 0 then some (.ret sc) else none
  | 4 => if d = 0 ∧ a = 0 ∧ o = .v 0 then some (.exit sc) else none
  | 5 => if d = 0 ∧ a = 0 ∧ o = .v 0 then some (.yield sc) else none
  | _ => none

/-- Major 0x1C (SALU; R24, R48 to R51; R113). -/
def decSalu (sc : Scope) (d : Reg) (a : Reg) (o : Opb) (fn : Nat) : Option Instr :=
  match fn with
  | 0 => some (.sadd sc d a o)
  | 1 => some (.ssub sc d a o)
  | 2 => some (.smul sc d a o)
  | 3 => some (.sand sc d a o)
  | 4 => some (.sor sc d a o)
  | 5 => some (.sxor sc d a o)
  | 6 => some (.sshl sc d a o)
  | 7 => some (.sshr sc d a o)
  | 8 => some (.ssar sc d a o)
  | 9 => some (.smin sc d a o)
  | 10 => some (.smax sc d a o)
  | 11 => some (.sminu sc d a o)
  | 12 => some (.smaxu sc d a o)
  | 13 => if a = 0 then some (.smov sc d o) else none
  | 14 => some (.sadd64 sc d a o)
  | 15 => some (.slea sc d a o)
  | _ => none

/-- Major 0x1D (SCMP; R24, R48 to R51; R114). -/
def decScmp (sc : Scope) (d : Reg) (a : Reg) (o : Opb) (fn : Nat) : Option Instr :=
  match fn with
  | 0 => if (d &&& 0x20#6) = 0 ∧ d.extractLsb' 3 2 ≠ 3#2 then some (.scmpEq sc (d.extractLsb' 0 3) (d.extractLsb' 3 2) a o) else none
  | 1 => if (d &&& 0x20#6) = 0 ∧ d.extractLsb' 3 2 ≠ 3#2 then some (.scmpNe sc (d.extractLsb' 0 3) (d.extractLsb' 3 2) a o) else none
  | 2 => if (d &&& 0x20#6) = 0 ∧ d.extractLsb' 3 2 ≠ 3#2 then some (.scmpLt sc (d.extractLsb' 0 3) (d.extractLsb' 3 2) a o) else none
  | 3 => if (d &&& 0x20#6) = 0 ∧ d.extractLsb' 3 2 ≠ 3#2 then some (.scmpLe sc (d.extractLsb' 0 3) (d.extractLsb' 3 2) a o) else none
  | 4 => if (d &&& 0x20#6) = 0 ∧ d.extractLsb' 3 2 ≠ 3#2 then some (.scmpGt sc (d.extractLsb' 0 3) (d.extractLsb' 3 2) a o) else none
  | 5 => if (d &&& 0x20#6) = 0 ∧ d.extractLsb' 3 2 ≠ 3#2 then some (.scmpGe sc (d.extractLsb' 0 3) (d.extractLsb' 3 2) a o) else none
  | 6 => if (d &&& 0x20#6) = 0 ∧ d.extractLsb' 3 2 ≠ 3#2 then some (.scmpLtu sc (d.extractLsb' 0 3) (d.extractLsb' 3 2) a o) else none
  | 7 => if (d &&& 0x20#6) = 0 ∧ d.extractLsb' 3 2 ≠ 3#2 then some (.scmpLeu sc (d.extractLsb' 0 3) (d.extractLsb' 3 2) a o) else none
  | 8 => if (d &&& 0x20#6) = 0 ∧ d.extractLsb' 3 2 ≠ 3#2 then some (.scmpGtu sc (d.extractLsb' 0 3) (d.extractLsb' 3 2) a o) else none
  | 9 => if (d &&& 0x20#6) = 0 ∧ d.extractLsb' 3 2 ≠ 3#2 then some (.scmpGeu sc (d.extractLsb' 0 3) (d.extractLsb' 3 2) a o) else none
  | _ => none

/-- Major 0x1E (SHFL; R24, R48 to R51; R189). -/
def decShfl (sc : Scope) (d : Reg) (a : Reg) (o : Opb) (fn : Nat) : Option Instr :=
  match fn with
  | 0 => some (.shflIdx sc d a o)
  | 1 => some (.shflUp sc d a o)
  | 2 => some (.shflDown sc d a o)
  | 3 => some (.shflXor sc d a o)
  | 4 => some (.shflBcast sc d a o)
  | _ => none

/-- Major 0x1F (VOTE; R24, R48 to R51; R190). -/
def decVote (sc : Scope) (d : Reg) (a : Reg) (o : Opb) (fn : Nat) : Option Instr :=
  match fn with
  | 0 => if (d &&& 0x38#6) = 0 ∧ (a &&& 0x30#6) = 0 ∧ o = .v 0 then some (.vall sc (d.extractLsb' 0 3) (a.getLsbD 3) (a.extractLsb' 0 3)) else none
  | 1 => if (d &&& 0x38#6) = 0 ∧ (a &&& 0x30#6) = 0 ∧ o = .v 0 then some (.vany sc (d.extractLsb' 0 3) (a.getLsbD 3) (a.extractLsb' 0 3)) else none
  | 2 => if (a &&& 0x30#6) = 0 ∧ o = .v 0 then some (.vbal sc d (a.getLsbD 3) (a.extractLsb' 0 3)) else none
  | 3 => if (d &&& 0x38#6) = 0 ∧ (a &&& 0x30#6) = 0 ∧ o = .v 0 then some (.vuni sc (d.extractLsb' 0 3) (a.getLsbD 3) (a.extractLsb' 0 3)) else none
  | 4 => if (a &&& 0x30#6) = 0 ∧ o = .v 0 then some (.vcnt sc d (a.getLsbD 3) (a.extractLsb' 0 3)) else none
  | _ => none

/-- Major 0x20 (LRED; R24, R48 to R51; R94, R95, R192). -/
def decLred (w : Word) (sc : Scope) (d : Reg) (a : Reg) : Option Instr :=
  match (w.extractLsb' 0 6).toNat with
  | 0 => if (w.extractLsb' 6 6) = 0#6 then some (.lredIadd sc d a) else none
  | 1 => if (w.extractLsb' 6 6) = 0#6 then some (.lredImin sc d a) else none
  | 2 => if (w.extractLsb' 6 6) = 0#6 then some (.lredImax sc d a) else none
  | 3 => if (w.extractLsb' 6 6) = 0#6 then some (.lredAnd sc d a) else none
  | 4 => if (w.extractLsb' 6 6) = 0#6 then some (.lredOr sc d a) else none
  | 5 => if (w.extractLsb' 6 6) = 0#6 then some (.lredXor sc d a) else none
  | 6 => if (w.extractLsb' 6 6) = 0#6 then some (.lredFadd sc d a) else none
  | 7 => if (w.extractLsb' 6 6) = 0#6 then some (.lredFmin sc d a) else none
  | 8 => if (w.extractLsb' 6 6) = 0#6 then some (.lredFmax sc d a) else none
  | 16 => if (w.extractLsb' 6 6) = 0#6 then some (.lscanIadd sc d a) else none
  | 17 => if (w.extractLsb' 6 6) = 0#6 then some (.lscanImin sc d a) else none
  | 18 => if (w.extractLsb' 6 6) = 0#6 then some (.lscanImax sc d a) else none
  | 19 => if (w.extractLsb' 6 6) = 0#6 then some (.lscanAnd sc d a) else none
  | 20 => if (w.extractLsb' 6 6) = 0#6 then some (.lscanOr sc d a) else none
  | 21 => if (w.extractLsb' 6 6) = 0#6 then some (.lscanXor sc d a) else none
  | 22 => if (w.extractLsb' 6 6) = 0#6 then some (.lscanFadd sc d a) else none
  | 23 => if (w.extractLsb' 6 6) = 0#6 then some (.lscanFmin sc d a) else none
  | 24 => if (w.extractLsb' 6 6) = 0#6 then some (.lscanFmax sc d a) else none
  | 32 => if (w.extractLsb' 6 6) = 0#6 then some (.lscanExclIadd sc d a) else none
  | 33 => if (w.extractLsb' 6 6) = 0#6 then some (.lscanExclImin sc d a) else none
  | 34 => if (w.extractLsb' 6 6) = 0#6 then some (.lscanExclImax sc d a) else none
  | 35 => if (w.extractLsb' 6 6) = 0#6 then some (.lscanExclAnd sc d a) else none
  | 36 => if (w.extractLsb' 6 6) = 0#6 then some (.lscanExclOr sc d a) else none
  | 37 => if (w.extractLsb' 6 6) = 0#6 then some (.lscanExclXor sc d a) else none
  | 38 => if (w.extractLsb' 6 6) = 0#6 then some (.lscanExclFadd sc d a) else none
  | 39 => if (w.extractLsb' 6 6) = 0#6 then some (.lscanExclFmin sc d a) else none
  | 40 => if (w.extractLsb' 6 6) = 0#6 then some (.lscanExclFmax sc d a) else none
  | _ => none

/-- Major 0x21 (XCHG; R24, R48 to R51; R194). -/
def decXchg (sc : Scope) (d : Reg) (a : Reg) (o : Opb) (fn : Nat) : Option Instr :=
  match fn with
  | 0 => if a = 0 then some (.xchg sc d o) else none
  | 1 => if a = 0 then some (.xchgk sc d o) else none
  | _ => none

/-- Major 0x22 (TSHAPE; R24, R48 to R51; R258). -/
noncomputable def decTshape (sc : Scope) (d : Reg) (a : Reg) (o : Opb) (fn : Nat) : Option Instr :=
  match fn with
  | 0 => if (d &&& 0x30#6) = 0 then some (.hld sc (d.extractLsb' 0 4) a o) else none
  | 1 => if (d &&& 0x30#6) = 0 then some (.hst sc (d.extractLsb' 0 4) a o) else none
  | 2 => if (d &&& 0x30#6) = 0 then some (.hset sc (d.extractLsb' 0 4) a o) else none
  | 3 => if (d &&& 0x30#6) = 0 ∧ a = 0 then some (.hadv sc (d.extractLsb' 0 4) o) else none
  | _ => none

/-- Major 0x23 (MMLOOP; R24, R48 to R51; R260). -/
noncomputable def decMmloop (w : Word) (sc : Scope) : Option Instr :=
  some (.mmloop sc (w.extractLsb' 21 3) (w.extractLsb' 19 2) (w.extractLsb' 15 4) (w.extractLsb' 11 4) (w.extractLsb' 5 6) (w.extractLsb' 0 5))

/-- Major 0x24 (MMIDX; R24, R48 to R51; R263). -/
noncomputable def decMmidx (sc : Scope) (d : Reg) (a : Reg) (o : Opb) (fn : Nat) : Option Instr :=
  match fn with
  | 0 => if d = 0 then some (.mmidx sc a o) else none
  | _ => none

/-- Major 0x25 (ACC; R24, R48 to R51; R264). An ACCZ with a bk other than 0b10 decodes, whatever its b holds (DESIGN CHOICE, log 123). -/
noncomputable def decAcc (sc : Scope) (d : Reg) (a : Reg) (o : Opb) (fn : Nat) : Option Instr :=
  match fn with
  | 0 => if d = 0 ∧ (a &&& 0x20#6) = 0 ∧ o.zeroImm then some (.accz sc (a.extractLsb' 0 3) (a.extractLsb' 3 2) o) else none
  | 1 => if (a &&& 0x20#6) = 0 then some (.accrd sc d (a.extractLsb' 0 3) (a.extractLsb' 3 2) o) else none
  | 2 => if (a &&& 0x20#6) = 0 then some (.accwr sc d (a.extractLsb' 0 3) (a.extractLsb' 3 2) o) else none
  | 3 => if d = 0 ∧ (a &&& 0x20#6) = 0 then some (.accscl sc (a.extractLsb' 0 3) (a.extractLsb' 3 2) o) else none
  | 4 => if (d &&& 0x30#6) = 0 ∧ (a &&& 0x20#6) = 0 then some (.accdrn sc (d.extractLsb' 0 4) (a.extractLsb' 0 3) (a.extractLsb' 3 2) o) else none
  | 5 => if (d &&& 0x30#6) = 0 ∧ (a &&& 0x20#6) = 0 then some (.accdra sc (d.extractLsb' 0 4) (a.extractLsb' 0 3) (a.extractLsb' 3 2) o) else none
  | _ => none

/-- Major 0x26 (QSM; R24, R48 to R51; R156, R158). -/
noncomputable def decQsm (sc : Scope) (d : Reg) (a : Reg) (o : Opb) (fn : Nat) : Option Instr :=
  match fn with
  | 0 => some (.qsm sc d a o)
  | 1 => some (.qpack sc d a o)
  | 2 => some (.qunpk sc d a o)
  | _ => none

/-- Major 0x27 (QAPP; R24, R48 to R51; R286). -/
noncomputable def decQapp (sc : Scope) (d : Reg) (a : Reg) (o : Opb) (fn : Nat) : Option Instr :=
  match fn with
  | 0 => some (.qapp sc d a o)
  | _ => none

/-- Major 0x28 (TASK; R24, R48 to R51; R201, R297). -/
noncomputable def decTask (sc : Scope) (d : Reg) (a : Reg) (o : Opb) (fn : Nat) : Option Instr :=
  match fn with
  | 0 => if d = 0 then some (.tdec sc a o) else none
  | 1 => if d = 0 then some (.tinc sc a o) else none
  | 2 => if a = 0 then some (.trd sc d o) else none
  | 3 => some (.phq sc d a o)
  | _ => none

/-- Major 0x29 (WAIT; R24, R48 to R51; R145). -/
noncomputable def decWait (w : Word) (sc : Scope) (d : Reg) (a : Reg) : Option Instr :=
  some (.wait sc d a (w.extractLsb' 6 6) (w.extractLsb' 0 6))

/-- Major 0x2A (VIS; R24, R48 to R51; R344, R345). -/
noncomputable def decVis (sc : Scope) (d : Reg) (a : Reg) (o : Opb) (fn : Nat) : Option Instr :=
  match fn with
  | 0 => some (.visld sc d a o)
  | 1 => if o = .v 0 then some (.visdec sc d a) else none
  | _ => none

/-- Major 0x2B (ATTR; R24, R48 to R51; R347). -/
noncomputable def decAttr (sc : Scope) (d : Reg) (a : Reg) (o : Opb) (fn : Nat) : Option Instr :=
  match fn with
  | 0 => some (.bary sc d a o)
  | 1 => some (.attrf sc d a o)
  | _ => none

/-- Major 0x2C (ORD; R24, R48 to R51; R348). -/
noncomputable def decOrd (sc : Scope) (d : Reg) (a : Reg) (o : Opb) (fn : Nat) : Option Instr :=
  match fn with
  | 0 => if d = 0 then some (.ordwait sc a o) else none
  | 1 => if d = 0 ∧ o = .v 0 then some (.orddone sc a) else none
  | _ => none

/-- Major 0x2D (TEX; R24, R48 to R51; R350, R351). -/
noncomputable def decTex (sc : Scope) (d : Reg) (a : Reg) (o : Opb) (fn : Nat) : Option Instr :=
  match fn with
  | 0 => some (.texs sc d a o)
  | 1 => some (.texl sc d a o)
  | 2 => some (.texg sc d a o)
  | 3 => if a = 0 then some (.texq sc d a o) else none
  | _ => none

/-- Major 0x2E (TRAV; R24, R48 to R51; R358, R361). -/
noncomputable def decTrav (sc : Scope) (d : Reg) (a : Reg) (o : Opb) (fn : Nat) : Option Instr :=
  match fn with
  | 0 => some (.trav sc d a o)
  | 1 => some (.travrd sc d a o)
  | _ => none

/-- Major 0x30 (REFORM; R24, R48 to R51; R182, R365). -/
noncomputable def decReform (sc : Scope) (d : Reg) (a : Reg) (o : Opb) (fn : Nat) : Option Instr :=
  match fn with
  | 0 => some (.reform sc d a o)
  | 1 => some (.refill sc d a o)
  | _ => none

/-- Major 0x31 (POP; R24, R48 to R51; R370, R379). -/
noncomputable def decPop (sc : Scope) (d : Reg) (a : Reg) (o : Opb) (fn : Nat) : Option Instr :=
  match fn with
  | 0 => some (.rsmpl sc d a o)
  | 1 => some (.pstat sc d a o)
  | _ => none

/-- Major 0x32 (SREG; R24, R48 to R51; R122). -/
noncomputable def decSreg (w : Word) (sc : Scope) (d : Reg) (a : Reg) (fn : Nat) : Option Instr :=
  match fn with
  | 0 => if (a &&& 0x3E#6) = 0 ∧ (w.extractLsb' 4 2) = 2#2 ∧ sregNumbers.contains (w.extractLsb' 6 6).toNat then some (.sread sc d (a.getLsbD 0) (w.extractLsb' 6 6)) else none
  | 1 => if d = 0 ∧ (w.extractLsb' 4 2) = 2#2 ∧ sregNumbers.contains (w.extractLsb' 6 6).toNat then some (.swrite sc a (w.extractLsb' 6 6)) else none
  | _ => none

/-- Major 0x33 (FLOW; R24, R48 to R51; R175, R308, R310). -/
noncomputable def decFlow (sc : Scope) (d : Reg) (a : Reg) (o : Opb) (fn : Nat) : Option Instr :=
  match fn with
  | 0 => if (d &&& 0x38#6) = 0 ∧ a = 0 then some (.grow sc (d.extractLsb' 0 3) o) else none
  | 1 => some (.fork sc d a o)
  | 2 => if d = 0 ∧ a = 0 ∧ o = .v 0 then some (.join sc) else none
  | 3 => if d = 0 ∧ a = 0 ∧ o = .v 0 then some (.npre sc) else none
  | 4 => if d = 0 ∧ a = 0 ∧ o = .v 0 then some (.nprex sc) else none
  | _ => none

/-- Major 0x34 (SYS; R24, R48 to R51; R209). -/
noncomputable def decSys (w : Word) (sc : Scope) (d : Reg) (a : Reg) (o : Opb) (fn : Nat) : Option Instr :=
  match fn with
  | 0 => if d = 0 ∧ a = 0 ∧ (w.extractLsb' 4 2) = 2#2 then some (.trap sc (w.extractLsb' 6 6)) else none
  | 1 => if d = 0 ∧ a = 0 ∧ (w.extractLsb' 4 2) = 2#2 then some (.eret sc (w.extractLsb' 6 6)) else none
  | 2 => if d = 0 ∧ a = 0 ∧ (w.extractLsb' 4 2) = 2#2 then some (.bkpt sc (w.extractLsb' 6 6)) else none
  | 3 => if d = 0 ∧ a = 0 ∧ o = .v 0 then some (.halt sc) else none
  | _ => none

/-- Major 0x35 (CALL; R24, R48 to R51; R116). -/
noncomputable def decCall (w : Word) (sc : Scope) : Option Instr :=
  some (.call sc (w.extractLsb' 21 3) (w.getLsbD 20) (w.extractLsb' 0 20))

/-- Major 0x3E (HINT; R24, R48 to R51; R37, R38, R39). -/
noncomputable def decHint (w : Word) (sc : Scope) : Option Instr :=
  match (w.extractLsb' 20 4).toNat with
  | 0 => some (.ximm sc (w.extractLsb' 0 20))
  | 1 => if xregOk (w.extractLsb' 0 20) then some (.xreg sc (w.extractLsb' 0 20)) else none
  | 2 => if xmodOk (w.extractLsb' 0 20) then some (.xmod sc (w.extractLsb' 0 20)) else none
  | 3 => if xlowOk (w.extractLsb' 0 20) then some (.xsched sc (w.extractLsb' 0 20)) else none
  | 4 => if xlowOk (w.extractLsb' 0 20) then some (.xpred sc (w.extractLsb' 0 20)) else none
  | _ => none

/-- The instruction a word spells, with the word after it as its literal where b is 63 (R22 to R51, R44). `none` is
ILLEGAL_ENCODING (R24). -/
noncomputable def decodeWord (w lit : Word) : Option Instr :=
  let sc := Scope.ofBits (w.extractLsb' 24 2)
  let d := w.extractLsb' 18 6
  let a := w.extractLsb' 12 6
  let o := opbOf (w.extractLsb' 4 2) (w.extractLsb' 6 6) lit
  let fn := (w.extractLsb' 0 4).toNat
  match (w.extractLsb' 26 6).toNat with
  | 1 => decIalu sc d a o fn
  | 2 => decLogic sc d a o fn
  | 3 => decBitf sc d a o fn
  | 4 => decIcmp sc d a o fn
  | 5 => decImad sc d a o fn
  | 6 => decMovsel sc d a o fn
  | 7 => decCvt w sc d a
  | 8 => decFalu sc d a o fn
  | 9 => decFcmp sc d a o fn
  | 10 => decSfu sc d a o fn
  | 11 => decPk16 sc d a o fn
  | 12 => decDot sc d a o fn
  | 13 => decMovi w sc d
  | 14 => decSmovi w sc d
  | 16 => decLd w sc d a
  | 17 => decSt w sc d a
  | 18 => decLds w sc d a
  | 19 => decLdc sc d a o fn
  | 20 => decLdmc w sc d a
  | 21 => decAtom w sc d a
  | 22 => decRed w sc d a
  | 23 => decCbuf sc d a o fn
  | 24 => decFence sc d a o fn
  | 25 => decWctr sc d a o fn
  | 26 => decBr w sc
  | 27 => decCtrl sc d a o fn
  | 28 => decSalu sc d a o fn
  | 29 => decScmp sc d a o fn
  | 30 => decShfl sc d a o fn
  | 31 => decVote sc d a o fn
  | 32 => decLred w sc d a
  | 33 => decXchg sc d a o fn
  | 34 => decTshape sc d a o fn
  | 35 => decMmloop w sc
  | 36 => decMmidx sc d a o fn
  | 37 => decAcc sc d a o fn
  | 38 => decQsm sc d a o fn
  | 39 => decQapp sc d a o fn
  | 40 => decTask sc d a o fn
  | 41 => decWait w sc d a
  | 42 => decVis sc d a o fn
  | 43 => decAttr sc d a o fn
  | 44 => decOrd sc d a o fn
  | 45 => decTex sc d a o fn
  | 46 => decTrav sc d a o fn
  | 48 => decReform sc d a o fn
  | 49 => decPop sc d a o fn
  | 50 => decSreg w sc d a fn
  | 51 => decFlow sc d a o fn
  | 52 => decSys w sc d a o fn
  | 53 => decCall w sc
  | 62 => decHint w sc
  | _ => none

/-- Whether the word has b = 63 with bk = 0b11 in a decoded instruction, so that a literal follows it (R26, R44). -/
def Opb.isLit : Opb → Bool
  | .lit _ => true
  | _ => false

/-- The b operand of an instruction that has one. -/
def Instr.opb? : Instr → Option Opb
  | .iadd _ _ _ b => some b
  | .isub _ _ _ b => some b
  | .imul _ _ _ b => some b
  | .imulhi _ _ _ b => some b
  | .imulhiu _ _ _ b => some b
  | .imin _ _ _ b => some b
  | .imax _ _ _ b => some b
  | .iminu _ _ _ b => some b
  | .imaxu _ _ _ b => some b
  | .iabsd _ _ _ b => some b
  | .iaddsat _ _ _ b => some b
  | .isubsat _ _ _ b => some b
  | .iaddsatu _ _ _ b => some b
  | .isubsatu _ _ _ b => some b
  | .iavgu _ _ _ b => some b
  | .irsub _ _ _ b => some b
  | .and _ _ _ b => some b
  | .or _ _ _ b => some b
  | .xor _ _ _ b => some b
  | .andn _ _ _ b => some b
  | .orn _ _ _ b => some b
  | .xnor _ _ _ b => some b
  | .shl _ _ _ b => some b
  | .shr _ _ _ b => some b
  | .sar _ _ _ b => some b
  | .rotl _ _ _ b => some b
  | .rotr _ _ _ b => some b
  | .popc _ _ b => some b
  | .clz _ _ b => some b
  | .brev _ _ b => some b
  | .bfxu _ _ _ b => some b
  | .bfxs _ _ _ b => some b
  | .bfi _ _ _ b => some b
  | .bysel _ _ _ b => some b
  | .fshl _ _ _ b => some b
  | .fshr _ _ _ b => some b
  | .icmpEq _ _ _ _ b => some b
  | .icmpNe _ _ _ _ b => some b
  | .icmpLt _ _ _ _ b => some b
  | .icmpLe _ _ _ _ b => some b
  | .icmpGt _ _ _ _ b => some b
  | .icmpGe _ _ _ _ b => some b
  | .icmpLtu _ _ _ _ b => some b
  | .icmpLeu _ _ _ _ b => some b
  | .icmpGtu _ _ _ _ b => some b
  | .icmpGeu _ _ _ _ b => some b
  | .imac _ _ _ b => some b
  | .imad _ _ _ b => some b
  | .lea _ _ _ b => some b
  | .lea2 _ _ _ b => some b
  | .lea4 _ _ _ b => some b
  | .lea8 _ _ _ b => some b
  | .lea16 _ _ _ b => some b
  | .iadd64 _ _ _ b => some b
  | .isub64 _ _ _ b => some b
  | .imulw _ _ _ b => some b
  | .mov _ _ b => some b
  | .sel _ _ _ _ b => some b
  | .pand _ _ _ b => some b
  | .por _ _ _ b => some b
  | .pxor _ _ _ b => some b
  | .pnot _ _ _ => none
  | .p2v _ _ => none
  | .v2p _ _ => none
  | .cvt _ _ _ _ _ _ => none
  | .fadd _ _ _ b => some b
  | .fsub _ _ _ b => some b
  | .fmul _ _ _ b => some b
  | .fmac _ _ _ b => some b
  | .fmad _ _ _ b => some b
  | .fmns _ _ _ b => some b
  | .fmin _ _ _ b => some b
  | .fmax _ _ _ b => some b
  | .fabs _ _ b => some b
  | .fneg _ _ b => some b
  | .fsat _ _ b => some b
  | .ffloor _ _ b => some b
  | .fceil _ _ b => some b
  | .ftrunc _ _ b => some b
  | .frint _ _ b => some b
  | .fcsgn _ _ _ b => some b
  | .fcmpEq _ _ _ _ b => some b
  | .fcmpNe _ _ _ _ b => some b
  | .fcmpLt _ _ _ _ b => some b
  | .fcmpLe _ _ _ _ b => some b
  | .fcmpGt _ _ _ _ b => some b
  | .fcmpGe _ _ _ _ b => some b
  | .fcmpUn _ _ _ _ b => some b
  | .fcmpOr _ _ _ _ b => some b
  | .frcp _ _ b => some b
  | .frsq _ _ b => some b
  | .fsqrt _ _ b => some b
  | .fexp2 _ _ b => some b
  | .flog2 _ _ b => some b
  | .fsint _ _ b => some b
  | .fcost _ _ b => some b
  | .ftanh _ _ b => some b
  | .hpadd _ _ _ b => some b
  | .hpmul _ _ _ b => some b
  | .hpfma _ _ _ b => some b
  | .hpmin _ _ _ b => some b
  | .hpmax _ _ _ b => some b
  | .bpadd _ _ _ b => some b
  | .bpmul _ _ _ b => some b
  | .bpfma _ _ _ b => some b
  | .bpmin _ _ _ b => some b
  | .bpmax _ _ _ b => some b
  | .pk2 _ _ _ b => some b
  | .pkb2 _ _ _ b => some b
  | .upkl _ _ b => some b
  | .upkh _ _ b => some b
  | .idp4 _ _ _ b => some b
  | .idp4u _ _ _ b => some b
  | .bdp2 _ _ _ b => some b
  | .edp4 _ _ _ b => some b
  | .dsdp4 _ _ _ b => some b
  | .movi _ _ _ => none
  | .smovi _ _ _ => none
  | .ld _ _ _ _ _ _ _ => none
  | .st _ _ _ _ _ _ _ => none
  | .lds _ _ _ _ _ _ => none
  | .sts _ _ _ _ _ _ => none
  | .ldc _ _ _ b => some b
  | .cwin _ b => some b
  | .ldmc _ _ _ _ => none
  | .atomAadd _ _ _ _ _ => none
  | .atomAmin _ _ _ _ _ => none
  | .atomAmax _ _ _ _ _ => none
  | .atomAminu _ _ _ _ _ => none
  | .atomAmaxu _ _ _ _ _ => none
  | .atomAand _ _ _ _ _ => none
  | .atomAor _ _ _ _ _ => none
  | .atomAxor _ _ _ _ _ => none
  | .atomAexch _ _ _ _ _ => none
  | .atomAcas _ _ _ _ _ => none
  | .atomAinc _ _ _ _ _ => none
  | .atomAdec _ _ _ _ _ => none
  | .atomAfadd _ _ _ _ => none
  | .atomAfaddb _ _ _ _ => none
  | .atomAfadde _ _ _ _ => none
  | .atomAfmin _ _ _ _ => none
  | .atomAfmax _ _ _ _ => none
  | .redAadd _ _ _ _ => none
  | .redAmin _ _ _ _ => none
  | .redAmax _ _ _ _ => none
  | .redAminu _ _ _ _ => none
  | .redAmaxu _ _ _ _ => none
  | .redAand _ _ _ _ => none
  | .redAor _ _ _ _ => none
  | .redAxor _ _ _ _ => none
  | .redAinc _ _ _ _ => none
  | .redAdec _ _ _ _ => none
  | .redAfadd _ _ _ => none
  | .redAfaddb _ _ _ => none
  | .redAfadde _ _ _ => none
  | .redAfmin _ _ _ => none
  | .redAfmax _ _ _ => none
  | .cbwait _ _ b => some b
  | .cbpop _ b => some b
  | .cbrsv _ _ b => some b
  | .cbcmt _ b => some b
  | .cbinit _ _ b => some b
  | .cbqry _ _ b => some b
  | .fenceAcq _ _ => none
  | .fenceRel _ _ => none
  | .fenceFull _ _ => none
  | .flushv _ _ b => some b
  | .invl1 _ => none
  | .wcrd _ _ b => some b
  | .wcwait _ _ b => some b
  | .wcrst _ b => some b
  | .br _ _ _ _ => none
  | .nop _ => none
  | .brx _ b => some b
  | .callx _ b => some b
  | .ret _ => none
  | .exit _ => none
  | .yield _ => none
  | .sadd _ _ _ b => some b
  | .ssub _ _ _ b => some b
  | .smul _ _ _ b => some b
  | .sand _ _ _ b => some b
  | .sor _ _ _ b => some b
  | .sxor _ _ _ b => some b
  | .sshl _ _ _ b => some b
  | .sshr _ _ _ b => some b
  | .ssar _ _ _ b => some b
  | .smin _ _ _ b => some b
  | .smax _ _ _ b => some b
  | .sminu _ _ _ b => some b
  | .smaxu _ _ _ b => some b
  | .smov _ _ b => some b
  | .sadd64 _ _ _ b => some b
  | .slea _ _ _ b => some b
  | .scmpEq _ _ _ _ b => some b
  | .scmpNe _ _ _ _ b => some b
  | .scmpLt _ _ _ _ b => some b
  | .scmpLe _ _ _ _ b => some b
  | .scmpGt _ _ _ _ b => some b
  | .scmpGe _ _ _ _ b => some b
  | .scmpLtu _ _ _ _ b => some b
  | .scmpLeu _ _ _ _ b => some b
  | .scmpGtu _ _ _ _ b => some b
  | .scmpGeu _ _ _ _ b => some b
  | .shflIdx _ _ _ b => some b
  | .shflUp _ _ _ b => some b
  | .shflDown _ _ _ b => some b
  | .shflXor _ _ _ b => some b
  | .shflBcast _ _ _ b => some b
  | .vall _ _ _ _ => none
  | .vany _ _ _ _ => none
  | .vbal _ _ _ _ => none
  | .vuni _ _ _ _ => none
  | .vcnt _ _ _ _ => none
  | .lredIadd _ _ _ => none
  | .lredImin _ _ _ => none
  | .lredImax _ _ _ => none
  | .lredAnd _ _ _ => none
  | .lredOr _ _ _ => none
  | .lredXor _ _ _ => none
  | .lredFadd _ _ _ => none
  | .lredFmin _ _ _ => none
  | .lredFmax _ _ _ => none
  | .lscanIadd _ _ _ => none
  | .lscanImin _ _ _ => none
  | .lscanImax _ _ _ => none
  | .lscanAnd _ _ _ => none
  | .lscanOr _ _ _ => none
  | .lscanXor _ _ _ => none
  | .lscanFadd _ _ _ => none
  | .lscanFmin _ _ _ => none
  | .lscanFmax _ _ _ => none
  | .lscanExclIadd _ _ _ => none
  | .lscanExclImin _ _ _ => none
  | .lscanExclImax _ _ _ => none
  | .lscanExclAnd _ _ _ => none
  | .lscanExclOr _ _ _ => none
  | .lscanExclXor _ _ _ => none
  | .lscanExclFadd _ _ _ => none
  | .lscanExclFmin _ _ _ => none
  | .lscanExclFmax _ _ _ => none
  | .xchg _ _ b => some b
  | .xchgk _ _ b => some b
  | .hld _ _ _ b => some b
  | .hst _ _ _ b => some b
  | .hset _ _ _ b => some b
  | .hadv _ _ b => some b
  | .mmloop _ _ _ _ _ _ _ => none
  | .mmidx _ _ b => some b
  | .accz _ _ _ b => some b
  | .accrd _ _ _ _ b => some b
  | .accwr _ _ _ _ b => some b
  | .accscl _ _ _ b => some b
  | .accdrn _ _ _ _ b => some b
  | .accdra _ _ _ _ b => some b
  | .qsm _ _ _ b => some b
  | .qpack _ _ _ b => some b
  | .qunpk _ _ _ b => some b
  | .qapp _ _ _ b => some b
  | .tdec _ _ b => some b
  | .tinc _ _ b => some b
  | .trd _ _ b => some b
  | .phq _ _ _ b => some b
  | .wait _ _ _ _ _ => none
  | .visld _ _ _ b => some b
  | .visdec _ _ _ => none
  | .bary _ _ _ b => some b
  | .attrf _ _ _ b => some b
  | .ordwait _ _ b => some b
  | .orddone _ _ => none
  | .texs _ _ _ b => some b
  | .texl _ _ _ b => some b
  | .texg _ _ _ b => some b
  | .texq _ _ _ b => some b
  | .trav _ _ _ b => some b
  | .travrd _ _ _ b => some b
  | .reform _ _ _ b => some b
  | .refill _ _ _ b => some b
  | .rsmpl _ _ _ b => some b
  | .pstat _ _ _ b => some b
  | .sread _ _ _ _ => none
  | .swrite _ _ _ => none
  | .grow _ _ b => some b
  | .fork _ _ _ b => some b
  | .join _ => none
  | .npre _ => none
  | .nprex _ => none
  | .trap _ _ => none
  | .eret _ _ => none
  | .bkpt _ _ => none
  | .halt _ => none
  | .call _ _ _ _ => none
  | .ximm _ _ => none
  | .xreg _ _ => none
  | .xmod _ _ => none
  | .xsched _ _ => none
  | .xpred _ _ => none
  | .splitMerge _ _ _ => none
  | .rendezvousRelease _ => none
  | .waitEnd _ _ => none
  | .growGrant _ => none
  | .growFail _ => none
  | .handlerEntry _ _ _ _ => none
  | .loadComplete _ _ => none
  | .storeDrain _ => none
  | .storeApply _ => none
  | .proxyInvalidate _ _ => none
  | .storeAck _ => none
  | .l1Eviction _ _ _ => none
  | .sliceEviction _ _ => none
  | .atomicApply _ => none
  | .atomicReturn _ => none
  | .bankWriteApply _ _ => none
  | .multicastRequest _ => none
  | .multicastTimeout _ => none
  | .ldmcDelivery _ _ => none
  | .kstepApply _ => none
  | .drainComplete _ => none
  | .rayComplete _ _ => none
  | .xchgPair _ => none
  | .phaseSweepPair _ => none
  | .phqWake _ => none
  | .queueConsume _ _ => none
  | .launchAccept _ => none
  | .blockDispatch _ => none
  | .gangDispatch _ => none
  | .blockRetire _ _ => none
  | .launchComplete _ => none
  | .joinResume _ => none
  | .taskAppendRetry _ => none
  | .copyStart _ _ => none
  | .copyComplete _ => none
  | .reduceSessionClose _ _ => none
  | .rasterPacket _ => none
  | .graphValidate _ => none
  | .nodeIssue _ => none
  | .predicateEval _ => none
  | .instanceStart _ _ => none
  | .waitctrComplete _ _ => none
  | .graphComplete _ => none
  | .tileRelease _ _ _ => none
  | .tileRetire _ _ _ => none
  | .relqTake _ => none
  | .ringExhausted _ => none
  | .footprintPrefetch _ _ _ => none
  | .resample _ => none
  | .placementListAccept _ => none
  | .pageWalk _ _ _ => none
  | .frameCopyOnWrite _ _ _ => none
  | .vaultEccError _ _ _ => none
  | .contextSchedule _ _ => none
  | .preemptionStart _ _ _ => none
  | .drainLimitExpiry _ _ => none
  | .forcedSave _ _ => none
  | .regionLimitExpiry _ _ => none
  | .watchdog _ => none
  | .create _ _ _ => none
  | .destroy _ _ => none
  | .preempt _ _ => none
  | .kill _ _ => none
  | .stepFlag _ _ _ _ => none
  | .unstepFlag _ _ _ _ => none
  | .queueAttach _ _ _ _ => none
  | .queueDetach _ _ => none
  | .queueClosed _ _ => none
  | .invalidate _ _ _ _ => none
  | .fillResponse _ _ _ _ => none
  | .exportHandle _ _ _ _ _ => none
  | .revoke _ _ => none
  | .bind _ _ _ => none
  | .unbind _ _ _ => none
  | .revocationNotice _ _ => none
  | .drainMarker _ _ _ => none
  | .countDoorbell _ _ _ => none
  | .bar4Write _ _ _ => none
  | .bar4Read _ _ _ => none
  | .hostAtomicop _ _ _ _ _ _ => none
  | .flushingReadComplete _ _ => none
  | .registerWrite _ _ _ => none
  | .flitReceive _ _ _ _ => none
  | .negativeAck _ _ _ _ => none
  | .laneRepair _ _ _ => none
  | .crossingFailure _ => none
  | .lossNotice _ => none
  | .bringUp _ _ _ => none
  | .powerSample _ _ => none
  | .thermalSample _ _ _ _ => none
  | .machineCheck _ => none
  | .wearUpdate _ _ _ _ => none
  | .modulePowerRemoved => none

/-- The major opcodes whose words hold a b operand with its kind (R26). -/
def operandMajors : List Nat :=
  [1, 2, 3, 4, 5, 6, 8, 9, 10, 11, 12, 19, 23, 24, 25, 27, 28, 29, 30, 31, 33, 34, 36, 37, 38, 39, 40, 42, 43, 44, 45, 46, 48, 49, 51, 52]

/-- A word that decodes takes a literal, as its bits alone say (R26, R44). -/
def literalWord (w : Word) : Bool :=
  operandMajors.contains (w.extractLsb' 26 6).toNat && w.extractLsb' 4 2 == 3#2 && w.extractLsb' 6 6 == 63#6

/-- A word is a hint (R36). -/
def hintWord (w : Word) : Bool := w.extractLsb' 26 6 == 62#6

/-- The instruction takes the word after it as its literal (R44). -/
def Instr.hasLit (i : Instr) : Bool :=
  match i.opb? with
  | some b => b.isLit
  | none => false

/-- Little-endian word of four bytes (R21). -/
def wordOf (b0 b1 b2 b3 : Byte) : Word := b3 ++ b2 ++ b1 ++ b0

/-- Why the decoder refuses a byte string. -/
inductive Reject where
  /-- Fewer bytes than the instruction and its literal need. Raised by `decodeBytes` only. -/
  | truncated
  /-- A word that traps with ILLEGAL_ENCODING (R24). -/
  | illegalEncoding
  deriving DecidableEq, Repr

/-- The instruction at the head of a byte string and the bytes after it: total on any bytes (R21, R23, R44). -/
noncomputable def decodeBytes : List Byte → Except Reject (Instr × List Byte)
  | b0 :: b1 :: b2 :: b3 :: rest =>
    match decodeWord (wordOf b0 b1 b2 b3) 0 with
    | none => .error .illegalEncoding
    | some i =>
      if i.hasLit then
        match rest with
        | c0 :: c1 :: c2 :: c3 :: rest' =>
          match decodeWord (wordOf b0 b1 b2 b3) (wordOf c0 c1 c2 c3) with
          | some j => .ok (j, rest')
          | none => .error .illegalEncoding
        | _ => .error .truncated
      else .ok (i, rest)
  | _ => .error .truncated

/-- The bytes of a word as memory holds it, lowest address first (R21). -/
def bytesOfWord (w : Word) : List Byte :=
  [w.extractLsb' 0 8, w.extractLsb' 8 8, w.extractLsb' 16 8, w.extractLsb' 24 8]

/-- The instruction read from `nbits` bits numbered as spec/opcode_table.json numbers them: the first word is bits
31..0, a literal word bits 63..32, and every bit above `nbits` is 0. -/
noncomputable def decodeTableWord (nbits w : Nat) : Option Instr :=
  let v := w % 2 ^ nbits
  match decodeBytes (bytesOfWord (BitVec.ofNat 32 v) ++ bytesOfWord (BitVec.ofNat 32 (v / 2 ^ 32))) with
  | .ok (i, _) => some i
  | .error _ => none

/-! The encoder (R22 to R51). -/

/-- The header over a 24-bit body (R22). -/
def hdr (maj : BitVec 6) (sc : Scope) (body : BitVec 24) : Word := maj ++ sc.bits ++ body

/-- The literal word of a b operand, if it is one. -/
def Opb.tail : Opb → List Word
  | .lit w => [w]
  | _ => []

/-- The instruction word. Events have none. -/
def Instr.word? : Instr → Option Word
  | .iadd sc d a b => some (hdr 0x01#6 sc (d ++ a ++ b.bits ++ b.kind ++ 0#4))
  | .isub sc d a b => some (hdr 0x01#6 sc (d ++ a ++ b.bits ++ b.kind ++ 1#4))
  | .imul sc d a b => some (hdr 0x01#6 sc (d ++ a ++ b.bits ++ b.kind ++ 2#4))
  | .imulhi sc d a b => some (hdr 0x01#6 sc (d ++ a ++ b.bits ++ b.kind ++ 3#4))
  | .imulhiu sc d a b => some (hdr 0x01#6 sc (d ++ a ++ b.bits ++ b.kind ++ 4#4))
  | .imin sc d a b => some (hdr 0x01#6 sc (d ++ a ++ b.bits ++ b.kind ++ 5#4))
  | .imax sc d a b => some (hdr 0x01#6 sc (d ++ a ++ b.bits ++ b.kind ++ 6#4))
  | .iminu sc d a b => some (hdr 0x01#6 sc (d ++ a ++ b.bits ++ b.kind ++ 7#4))
  | .imaxu sc d a b => some (hdr 0x01#6 sc (d ++ a ++ b.bits ++ b.kind ++ 8#4))
  | .iabsd sc d a b => some (hdr 0x01#6 sc (d ++ a ++ b.bits ++ b.kind ++ 9#4))
  | .iaddsat sc d a b => some (hdr 0x01#6 sc (d ++ a ++ b.bits ++ b.kind ++ 10#4))
  | .isubsat sc d a b => some (hdr 0x01#6 sc (d ++ a ++ b.bits ++ b.kind ++ 11#4))
  | .iaddsatu sc d a b => some (hdr 0x01#6 sc (d ++ a ++ b.bits ++ b.kind ++ 12#4))
  | .isubsatu sc d a b => some (hdr 0x01#6 sc (d ++ a ++ b.bits ++ b.kind ++ 13#4))
  | .iavgu sc d a b => some (hdr 0x01#6 sc (d ++ a ++ b.bits ++ b.kind ++ 14#4))
  | .irsub sc d a b => some (hdr 0x01#6 sc (d ++ a ++ b.bits ++ b.kind ++ 15#4))
  | .and sc d a b => some (hdr 0x02#6 sc (d ++ a ++ b.bits ++ b.kind ++ 0#4))
  | .or sc d a b => some (hdr 0x02#6 sc (d ++ a ++ b.bits ++ b.kind ++ 1#4))
  | .xor sc d a b => some (hdr 0x02#6 sc (d ++ a ++ b.bits ++ b.kind ++ 2#4))
  | .andn sc d a b => some (hdr 0x02#6 sc (d ++ a ++ b.bits ++ b.kind ++ 3#4))
  | .orn sc d a b => some (hdr 0x02#6 sc (d ++ a ++ b.bits ++ b.kind ++ 4#4))
  | .xnor sc d a b => some (hdr 0x02#6 sc (d ++ a ++ b.bits ++ b.kind ++ 5#4))
  | .shl sc d a b => some (hdr 0x02#6 sc (d ++ a ++ b.bits ++ b.kind ++ 6#4))
  | .shr sc d a b => some (hdr 0x02#6 sc (d ++ a ++ b.bits ++ b.kind ++ 7#4))
  | .sar sc d a b => some (hdr 0x02#6 sc (d ++ a ++ b.bits ++ b.kind ++ 8#4))
  | .rotl sc d a b => some (hdr 0x02#6 sc (d ++ a ++ b.bits ++ b.kind ++ 9#4))
  | .rotr sc d a b => some (hdr 0x02#6 sc (d ++ a ++ b.bits ++ b.kind ++ 10#4))
  | .popc sc d b => some (hdr 0x02#6 sc (d ++ 0#6 ++ b.bits ++ b.kind ++ 11#4))
  | .clz sc d b => some (hdr 0x02#6 sc (d ++ 0#6 ++ b.bits ++ b.kind ++ 12#4))
  | .brev sc d b => some (hdr 0x02#6 sc (d ++ 0#6 ++ b.bits ++ b.kind ++ 13#4))
  | .bfxu sc d a b => some (hdr 0x03#6 sc (d ++ a ++ b.bits ++ b.kind ++ 0#4))
  | .bfxs sc d a b => some (hdr 0x03#6 sc (d ++ a ++ b.bits ++ b.kind ++ 1#4))
  | .bfi sc d a b => some (hdr 0x03#6 sc (d ++ a ++ b.bits ++ b.kind ++ 2#4))
  | .bysel sc d a b => some (hdr 0x03#6 sc (d ++ a ++ b.bits ++ b.kind ++ 3#4))
  | .fshl sc d a b => some (hdr 0x03#6 sc (d ++ a ++ b.bits ++ b.kind ++ 4#4))
  | .fshr sc d a b => some (hdr 0x03#6 sc (d ++ a ++ b.bits ++ b.kind ++ 5#4))
  | .icmpEq sc p comb a b => some (hdr 0x04#6 sc (0#1 ++ comb ++ p ++ a ++ b.bits ++ b.kind ++ 0#4))
  | .icmpNe sc p comb a b => some (hdr 0x04#6 sc (0#1 ++ comb ++ p ++ a ++ b.bits ++ b.kind ++ 1#4))
  | .icmpLt sc p comb a b => some (hdr 0x04#6 sc (0#1 ++ comb ++ p ++ a ++ b.bits ++ b.kind ++ 2#4))
  | .icmpLe sc p comb a b => some (hdr 0x04#6 sc (0#1 ++ comb ++ p ++ a ++ b.bits ++ b.kind ++ 3#4))
  | .icmpGt sc p comb a b => some (hdr 0x04#6 sc (0#1 ++ comb ++ p ++ a ++ b.bits ++ b.kind ++ 4#4))
  | .icmpGe sc p comb a b => some (hdr 0x04#6 sc (0#1 ++ comb ++ p ++ a ++ b.bits ++ b.kind ++ 5#4))
  | .icmpLtu sc p comb a b => some (hdr 0x04#6 sc (0#1 ++ comb ++ p ++ a ++ b.bits ++ b.kind ++ 6#4))
  | .icmpLeu sc p comb a b => some (hdr 0x04#6 sc (0#1 ++ comb ++ p ++ a ++ b.bits ++ b.kind ++ 7#4))
  | .icmpGtu sc p comb a b => some (hdr 0x04#6 sc (0#1 ++ comb ++ p ++ a ++ b.bits ++ b.kind ++ 8#4))
  | .icmpGeu sc p comb a b => some (hdr 0x04#6 sc (0#1 ++ comb ++ p ++ a ++ b.bits ++ b.kind ++ 9#4))
  | .imac sc d a b => some (hdr 0x05#6 sc (d ++ a ++ b.bits ++ b.kind ++ 0#4))
  | .imad sc d a b => some (hdr 0x05#6 sc (d ++ a ++ b.bits ++ b.kind ++ 1#4))
  | .lea sc d a b => some (hdr 0x05#6 sc (d ++ a ++ b.bits ++ b.kind ++ 2#4))
  | .lea2 sc d a b => some (hdr 0x05#6 sc (d ++ a ++ b.bits ++ b.kind ++ 3#4))
  | .lea4 sc d a b => some (hdr 0x05#6 sc (d ++ a ++ b.bits ++ b.kind ++ 4#4))
  | .lea8 sc d a b => some (hdr 0x05#6 sc (d ++ a ++ b.bits ++ b.kind ++ 5#4))
  | .lea16 sc d a b => some (hdr 0x05#6 sc (d ++ a ++ b.bits ++ b.kind ++ 6#4))
  | .iadd64 sc d a b => some (hdr 0x05#6 sc (d ++ a ++ b.bits ++ b.kind ++ 7#4))
  | .isub64 sc d a b => some (hdr 0x05#6 sc (d ++ a ++ b.bits ++ b.kind ++ 8#4))
  | .imulw sc d a b => some (hdr 0x05#6 sc (d ++ a ++ b.bits ++ b.kind ++ 9#4))
  | .mov sc d b => some (hdr 0x06#6 sc (d ++ 0#6 ++ b.bits ++ b.kind ++ 0#4))
  | .sel sc p d a b => some (hdr 0x06#6 sc (d ++ a ++ b.bits ++ b.kind ++ 0#1 ++ p))
  | .pand sc d a b => some (hdr 0x06#6 sc (0#3 ++ d ++ 0#3 ++ a ++ b.bits ++ b.kind ++ 8#4))
  | .por sc d a b => some (hdr 0x06#6 sc (0#3 ++ d ++ 0#3 ++ a ++ b.bits ++ b.kind ++ 9#4))
  | .pxor sc d a b => some (hdr 0x06#6 sc (0#3 ++ d ++ 0#3 ++ a ++ b.bits ++ b.kind ++ 10#4))
  | .pnot sc d a => some (hdr 0x06#6 sc (0#3 ++ d ++ 0#3 ++ a ++ 0#6 ++ 0#2 ++ 11#4))
  | .p2v sc d => some (hdr 0x06#6 sc (d ++ 0#6 ++ 0#6 ++ 0#2 ++ 12#4))
  | .v2p sc a => some (hdr 0x06#6 sc (0#6 ++ a ++ 0#6 ++ 0#2 ++ 13#4))
  | .cvt sc d a code sat rnd => some (hdr 0x07#6 sc (d ++ a ++ code ++ 2#2 ++ 0#1 ++ BitVec.ofBool sat ++ rnd))
  | .fadd sc d a b => some (hdr 0x08#6 sc (d ++ a ++ b.bits ++ b.kind ++ 0#4))
  | .fsub sc d a b => some (hdr 0x08#6 sc (d ++ a ++ b.bits ++ b.kind ++ 1#4))
  | .fmul sc d a b => some (hdr 0x08#6 sc (d ++ a ++ b.bits ++ b.kind ++ 2#4))
  | .fmac sc d a b => some (hdr 0x08#6 sc (d ++ a ++ b.bits ++ b.kind ++ 3#4))
  | .fmad sc d a b => some (hdr 0x08#6 sc (d ++ a ++ b.bits ++ b.kind ++ 4#4))
  | .fmns sc d a b => some (hdr 0x08#6 sc (d ++ a ++ b.bits ++ b.kind ++ 5#4))
  | .fmin sc d a b => some (hdr 0x08#6 sc (d ++ a ++ b.bits ++ b.kind ++ 6#4))
  | .fmax sc d a b => some (hdr 0x08#6 sc (d ++ a ++ b.bits ++ b.kind ++ 7#4))
  | .fabs sc d b => some (hdr 0x08#6 sc (d ++ 0#6 ++ b.bits ++ b.kind ++ 8#4))
  | .fneg sc d b => some (hdr 0x08#6 sc (d ++ 0#6 ++ b.bits ++ b.kind ++ 9#4))
  | .fsat sc d b => some (hdr 0x08#6 sc (d ++ 0#6 ++ b.bits ++ b.kind ++ 10#4))
  | .ffloor sc d b => some (hdr 0x08#6 sc (d ++ 0#6 ++ b.bits ++ b.kind ++ 11#4))
  | .fceil sc d b => some (hdr 0x08#6 sc (d ++ 0#6 ++ b.bits ++ b.kind ++ 12#4))
  | .ftrunc sc d b => some (hdr 0x08#6 sc (d ++ 0#6 ++ b.bits ++ b.kind ++ 13#4))
  | .frint sc d b => some (hdr 0x08#6 sc (d ++ 0#6 ++ b.bits ++ b.kind ++ 14#4))
  | .fcsgn sc d a b => some (hdr 0x08#6 sc (d ++ a ++ b.bits ++ b.kind ++ 15#4))
  | .fcmpEq sc p comb a b => some (hdr 0x09#6 sc (0#1 ++ comb ++ p ++ a ++ b.bits ++ b.kind ++ 0#4))
  | .fcmpNe sc p comb a b => some (hdr 0x09#6 sc (0#1 ++ comb ++ p ++ a ++ b.bits ++ b.kind ++ 1#4))
  | .fcmpLt sc p comb a b => some (hdr 0x09#6 sc (0#1 ++ comb ++ p ++ a ++ b.bits ++ b.kind ++ 2#4))
  | .fcmpLe sc p comb a b => some (hdr 0x09#6 sc (0#1 ++ comb ++ p ++ a ++ b.bits ++ b.kind ++ 3#4))
  | .fcmpGt sc p comb a b => some (hdr 0x09#6 sc (0#1 ++ comb ++ p ++ a ++ b.bits ++ b.kind ++ 4#4))
  | .fcmpGe sc p comb a b => some (hdr 0x09#6 sc (0#1 ++ comb ++ p ++ a ++ b.bits ++ b.kind ++ 5#4))
  | .fcmpUn sc p comb a b => some (hdr 0x09#6 sc (0#1 ++ comb ++ p ++ a ++ b.bits ++ b.kind ++ 6#4))
  | .fcmpOr sc p comb a b => some (hdr 0x09#6 sc (0#1 ++ comb ++ p ++ a ++ b.bits ++ b.kind ++ 7#4))
  | .frcp sc d b => some (hdr 0x0A#6 sc (d ++ 0#6 ++ b.bits ++ b.kind ++ 0#4))
  | .frsq sc d b => some (hdr 0x0A#6 sc (d ++ 0#6 ++ b.bits ++ b.kind ++ 1#4))
  | .fsqrt sc d b => some (hdr 0x0A#6 sc (d ++ 0#6 ++ b.bits ++ b.kind ++ 2#4))
  | .fexp2 sc d b => some (hdr 0x0A#6 sc (d ++ 0#6 ++ b.bits ++ b.kind ++ 3#4))
  | .flog2 sc d b => some (hdr 0x0A#6 sc (d ++ 0#6 ++ b.bits ++ b.kind ++ 4#4))
  | .fsint sc d b => some (hdr 0x0A#6 sc (d ++ 0#6 ++ b.bits ++ b.kind ++ 5#4))
  | .fcost sc d b => some (hdr 0x0A#6 sc (d ++ 0#6 ++ b.bits ++ b.kind ++ 6#4))
  | .ftanh sc d b => some (hdr 0x0A#6 sc (d ++ 0#6 ++ b.bits ++ b.kind ++ 7#4))
  | .hpadd sc d a b => some (hdr 0x0B#6 sc (d ++ a ++ b.bits ++ b.kind ++ 0#4))
  | .hpmul sc d a b => some (hdr 0x0B#6 sc (d ++ a ++ b.bits ++ b.kind ++ 1#4))
  | .hpfma sc d a b => some (hdr 0x0B#6 sc (d ++ a ++ b.bits ++ b.kind ++ 2#4))
  | .hpmin sc d a b => some (hdr 0x0B#6 sc (d ++ a ++ b.bits ++ b.kind ++ 3#4))
  | .hpmax sc d a b => some (hdr 0x0B#6 sc (d ++ a ++ b.bits ++ b.kind ++ 4#4))
  | .bpadd sc d a b => some (hdr 0x0B#6 sc (d ++ a ++ b.bits ++ b.kind ++ 5#4))
  | .bpmul sc d a b => some (hdr 0x0B#6 sc (d ++ a ++ b.bits ++ b.kind ++ 6#4))
  | .bpfma sc d a b => some (hdr 0x0B#6 sc (d ++ a ++ b.bits ++ b.kind ++ 7#4))
  | .bpmin sc d a b => some (hdr 0x0B#6 sc (d ++ a ++ b.bits ++ b.kind ++ 8#4))
  | .bpmax sc d a b => some (hdr 0x0B#6 sc (d ++ a ++ b.bits ++ b.kind ++ 9#4))
  | .pk2 sc d a b => some (hdr 0x0B#6 sc (d ++ a ++ b.bits ++ b.kind ++ 10#4))
  | .pkb2 sc d a b => some (hdr 0x0B#6 sc (d ++ a ++ b.bits ++ b.kind ++ 11#4))
  | .upkl sc d b => some (hdr 0x0B#6 sc (d ++ 0#6 ++ b.bits ++ b.kind ++ 12#4))
  | .upkh sc d b => some (hdr 0x0B#6 sc (d ++ 0#6 ++ b.bits ++ b.kind ++ 13#4))
  | .idp4 sc d a b => some (hdr 0x0C#6 sc (d ++ a ++ b.bits ++ b.kind ++ 0#4))
  | .idp4u sc d a b => some (hdr 0x0C#6 sc (d ++ a ++ b.bits ++ b.kind ++ 1#4))
  | .bdp2 sc d a b => some (hdr 0x0C#6 sc (d ++ a ++ b.bits ++ b.kind ++ 2#4))
  | .edp4 sc d a b => some (hdr 0x0C#6 sc (d ++ a ++ b.bits ++ b.kind ++ 3#4))
  | .dsdp4 sc d a b => some (hdr 0x0C#6 sc (d ++ a ++ b.bits ++ b.kind ++ 4#4))
  | .movi sc d imm => some (hdr 0x0D#6 sc (d ++ imm))
  | .smovi sc d imm => some (hdr 0x0E#6 sc (d ++ imm))
  | .ld sc d a pol size sx as => some (hdr 0x10#6 sc (d ++ a ++ pol ++ size ++ BitVec.ofBool sx ++ BitVec.ofBool as ++ 0#1))
  | .st sc d a pol size g as => some (hdr 0x11#6 sc (d ++ a ++ pol ++ size ++ BitVec.ofBool g ++ BitVec.ofBool as ++ 0#1))
  | .lds sc d off alloc size ok => some (hdr 0x12#6 sc (d ++ off ++ alloc ++ 0#1 ++ size ++ BitVec.ofBool ok ++ 0#4))
  | .sts sc d off alloc size ok => some (hdr 0x12#6 sc (d ++ off ++ alloc ++ 1#1 ++ size ++ BitVec.ofBool ok ++ 0#4))
  | .ldc sc d a b => some (hdr 0x13#6 sc (d ++ a ++ b.bits ++ b.kind ++ 0#4))
  | .cwin sc b => some (hdr 0x13#6 sc (0#6 ++ 0#6 ++ b.bits ++ b.kind ++ 1#4))
  | .ldmc sc d a c => some (hdr 0x14#6 sc (d ++ a ++ c ++ 0#6))
  | .atomAadd sc d a b w64 => some (hdr 0x15#6 sc (d ++ a ++ b ++ BitVec.ofBool w64 ++ 0#5))
  | .atomAmin sc d a b w64 => some (hdr 0x15#6 sc (d ++ a ++ b ++ BitVec.ofBool w64 ++ 1#5))
  | .atomAmax sc d a b w64 => some (hdr 0x15#6 sc (d ++ a ++ b ++ BitVec.ofBool w64 ++ 2#5))
  | .atomAminu sc d a b w64 => some (hdr 0x15#6 sc (d ++ a ++ b ++ BitVec.ofBool w64 ++ 3#5))
  | .atomAmaxu sc d a b w64 => some (hdr 0x15#6 sc (d ++ a ++ b ++ BitVec.ofBool w64 ++ 4#5))
  | .atomAand sc d a b w64 => some (hdr 0x15#6 sc (d ++ a ++ b ++ BitVec.ofBool w64 ++ 5#5))
  | .atomAor sc d a b w64 => some (hdr 0x15#6 sc (d ++ a ++ b ++ BitVec.ofBool w64 ++ 6#5))
  | .atomAxor sc d a b w64 => some (hdr 0x15#6 sc (d ++ a ++ b ++ BitVec.ofBool w64 ++ 7#5))
  | .atomAexch sc d a b w64 => some (hdr 0x15#6 sc (d ++ a ++ b ++ BitVec.ofBool w64 ++ 8#5))
  | .atomAcas sc d a b w64 => some (hdr 0x15#6 sc (d ++ a ++ b ++ BitVec.ofBool w64 ++ 9#5))
  | .atomAinc sc d a b w64 => some (hdr 0x15#6 sc (d ++ a ++ b ++ BitVec.ofBool w64 ++ 10#5))
  | .atomAdec sc d a b w64 => some (hdr 0x15#6 sc (d ++ a ++ b ++ BitVec.ofBool w64 ++ 11#5))
  | .atomAfadd sc d a b => some (hdr 0x15#6 sc (d ++ a ++ b ++ 0#1 ++ 12#5))
  | .atomAfaddb sc d a b => some (hdr 0x15#6 sc (d ++ a ++ b ++ 0#1 ++ 13#5))
  | .atomAfadde sc d a b => some (hdr 0x15#6 sc (d ++ a ++ b ++ 0#1 ++ 14#5))
  | .atomAfmin sc d a b => some (hdr 0x15#6 sc (d ++ a ++ b ++ 0#1 ++ 15#5))
  | .atomAfmax sc d a b => some (hdr 0x15#6 sc (d ++ a ++ b ++ 0#1 ++ 16#5))
  | .redAadd sc a b w64 => some (hdr 0x16#6 sc (0#6 ++ a ++ b ++ BitVec.ofBool w64 ++ 0#5))
  | .redAmin sc a b w64 => some (hdr 0x16#6 sc (0#6 ++ a ++ b ++ BitVec.ofBool w64 ++ 1#5))
  | .redAmax sc a b w64 => some (hdr 0x16#6 sc (0#6 ++ a ++ b ++ BitVec.ofBool w64 ++ 2#5))
  | .redAminu sc a b w64 => some (hdr 0x16#6 sc (0#6 ++ a ++ b ++ BitVec.ofBool w64 ++ 3#5))
  | .redAmaxu sc a b w64 => some (hdr 0x16#6 sc (0#6 ++ a ++ b ++ BitVec.ofBool w64 ++ 4#5))
  | .redAand sc a b w64 => some (hdr 0x16#6 sc (0#6 ++ a ++ b ++ BitVec.ofBool w64 ++ 5#5))
  | .redAor sc a b w64 => some (hdr 0x16#6 sc (0#6 ++ a ++ b ++ BitVec.ofBool w64 ++ 6#5))
  | .redAxor sc a b w64 => some (hdr 0x16#6 sc (0#6 ++ a ++ b ++ BitVec.ofBool w64 ++ 7#5))
  | .redAinc sc a b w64 => some (hdr 0x16#6 sc (0#6 ++ a ++ b ++ BitVec.ofBool w64 ++ 10#5))
  | .redAdec sc a b w64 => some (hdr 0x16#6 sc (0#6 ++ a ++ b ++ BitVec.ofBool w64 ++ 11#5))
  | .redAfadd sc a b => some (hdr 0x16#6 sc (0#6 ++ a ++ b ++ 0#1 ++ 12#5))
  | .redAfaddb sc a b => some (hdr 0x16#6 sc (0#6 ++ a ++ b ++ 0#1 ++ 13#5))
  | .redAfadde sc a b => some (hdr 0x16#6 sc (0#6 ++ a ++ b ++ 0#1 ++ 14#5))
  | .redAfmin sc a b => some (hdr 0x16#6 sc (0#6 ++ a ++ b ++ 0#1 ++ 15#5))
  | .redAfmax sc a b => some (hdr 0x16#6 sc (0#6 ++ a ++ b ++ 0#1 ++ 16#5))
  | .cbwait sc d b => some (hdr 0x17#6 sc (d ++ 0#6 ++ b.bits ++ b.kind ++ 0#4))
  | .cbpop sc b => some (hdr 0x17#6 sc (0#6 ++ 0#6 ++ b.bits ++ b.kind ++ 1#4))
  | .cbrsv sc d b => some (hdr 0x17#6 sc (d ++ 0#6 ++ b.bits ++ b.kind ++ 2#4))
  | .cbcmt sc b => some (hdr 0x17#6 sc (0#6 ++ 0#6 ++ b.bits ++ b.kind ++ 3#4))
  | .cbinit sc a b => some (hdr 0x17#6 sc (0#6 ++ a ++ b.bits ++ b.kind ++ 4#4))
  | .cbqry sc d b => some (hdr 0x17#6 sc (d ++ 0#6 ++ b.bits ++ b.kind ++ 5#4))
  | .fenceAcq sc ms => some (hdr 0x18#6 sc (0#4 ++ ms ++ 0#6 ++ 0#6 ++ 0#2 ++ 0#4))
  | .fenceRel sc ms => some (hdr 0x18#6 sc (0#4 ++ ms ++ 0#6 ++ 0#6 ++ 0#2 ++ 1#4))
  | .fenceFull sc ms => some (hdr 0x18#6 sc (0#4 ++ ms ++ 0#6 ++ 0#6 ++ 0#2 ++ 2#4))
  | .flushv sc a b => some (hdr 0x18#6 sc (0#6 ++ a ++ b.bits ++ b.kind ++ 3#4))
  | .invl1 sc => some (hdr 0x18#6 sc (0#6 ++ 0#6 ++ 0#6 ++ 0#2 ++ 4#4))
  | .wcrd sc d b => some (hdr 0x19#6 sc (d ++ 0#6 ++ b.bits ++ b.kind ++ 0#4))
  | .wcwait sc a b => some (hdr 0x19#6 sc (0#6 ++ a ++ b.bits ++ b.kind ++ 1#4))
  | .wcrst sc b => some (hdr 0x19#6 sc (0#6 ++ 0#6 ++ b.bits ++ b.kind ++ 2#4))
  | .br sc p n disp => some (hdr 0x1A#6 sc (p ++ BitVec.ofBool n ++ disp))
  | .nop sc => some (hdr 0x1B#6 sc (0#6 ++ 0#6 ++ 0#6 ++ 0#2 ++ 0#4))
  | .brx sc b => some (hdr 0x1B#6 sc (0#6 ++ 0#6 ++ b.bits ++ b.kind ++ 1#4))
  | .callx sc b => some (hdr 0x1B#6 sc (0#6 ++ 0#6 ++ b.bits ++ b.kind ++ 2#4))
  | .ret sc => some (hdr 0x1B#6 sc (0#6 ++ 0#6 ++ 0#6 ++ 0#2 ++ 3#4))
  | .exit sc => some (hdr 0x1B#6 sc (0#6 ++ 0#6 ++ 0#6 ++ 0#2 ++ 4#4))
  | .yield sc => some (hdr 0x1B#6 sc (0#6 ++ 0#6 ++ 0#6 ++ 0#2 ++ 5#4))
  | .sadd sc d a b => some (hdr 0x1C#6 sc (d ++ a ++ b.bits ++ b.kind ++ 0#4))
  | .ssub sc d a b => some (hdr 0x1C#6 sc (d ++ a ++ b.bits ++ b.kind ++ 1#4))
  | .smul sc d a b => some (hdr 0x1C#6 sc (d ++ a ++ b.bits ++ b.kind ++ 2#4))
  | .sand sc d a b => some (hdr 0x1C#6 sc (d ++ a ++ b.bits ++ b.kind ++ 3#4))
  | .sor sc d a b => some (hdr 0x1C#6 sc (d ++ a ++ b.bits ++ b.kind ++ 4#4))
  | .sxor sc d a b => some (hdr 0x1C#6 sc (d ++ a ++ b.bits ++ b.kind ++ 5#4))
  | .sshl sc d a b => some (hdr 0x1C#6 sc (d ++ a ++ b.bits ++ b.kind ++ 6#4))
  | .sshr sc d a b => some (hdr 0x1C#6 sc (d ++ a ++ b.bits ++ b.kind ++ 7#4))
  | .ssar sc d a b => some (hdr 0x1C#6 sc (d ++ a ++ b.bits ++ b.kind ++ 8#4))
  | .smin sc d a b => some (hdr 0x1C#6 sc (d ++ a ++ b.bits ++ b.kind ++ 9#4))
  | .smax sc d a b => some (hdr 0x1C#6 sc (d ++ a ++ b.bits ++ b.kind ++ 10#4))
  | .sminu sc d a b => some (hdr 0x1C#6 sc (d ++ a ++ b.bits ++ b.kind ++ 11#4))
  | .smaxu sc d a b => some (hdr 0x1C#6 sc (d ++ a ++ b.bits ++ b.kind ++ 12#4))
  | .smov sc d b => some (hdr 0x1C#6 sc (d ++ 0#6 ++ b.bits ++ b.kind ++ 13#4))
  | .sadd64 sc d a b => some (hdr 0x1C#6 sc (d ++ a ++ b.bits ++ b.kind ++ 14#4))
  | .slea sc d a b => some (hdr 0x1C#6 sc (d ++ a ++ b.bits ++ b.kind ++ 15#4))
  | .scmpEq sc p comb a b => some (hdr 0x1D#6 sc (0#1 ++ comb ++ p ++ a ++ b.bits ++ b.kind ++ 0#4))
  | .scmpNe sc p comb a b => some (hdr 0x1D#6 sc (0#1 ++ comb ++ p ++ a ++ b.bits ++ b.kind ++ 1#4))
  | .scmpLt sc p comb a b => some (hdr 0x1D#6 sc (0#1 ++ comb ++ p ++ a ++ b.bits ++ b.kind ++ 2#4))
  | .scmpLe sc p comb a b => some (hdr 0x1D#6 sc (0#1 ++ comb ++ p ++ a ++ b.bits ++ b.kind ++ 3#4))
  | .scmpGt sc p comb a b => some (hdr 0x1D#6 sc (0#1 ++ comb ++ p ++ a ++ b.bits ++ b.kind ++ 4#4))
  | .scmpGe sc p comb a b => some (hdr 0x1D#6 sc (0#1 ++ comb ++ p ++ a ++ b.bits ++ b.kind ++ 5#4))
  | .scmpLtu sc p comb a b => some (hdr 0x1D#6 sc (0#1 ++ comb ++ p ++ a ++ b.bits ++ b.kind ++ 6#4))
  | .scmpLeu sc p comb a b => some (hdr 0x1D#6 sc (0#1 ++ comb ++ p ++ a ++ b.bits ++ b.kind ++ 7#4))
  | .scmpGtu sc p comb a b => some (hdr 0x1D#6 sc (0#1 ++ comb ++ p ++ a ++ b.bits ++ b.kind ++ 8#4))
  | .scmpGeu sc p comb a b => some (hdr 0x1D#6 sc (0#1 ++ comb ++ p ++ a ++ b.bits ++ b.kind ++ 9#4))
  | .shflIdx sc d a b => some (hdr 0x1E#6 sc (d ++ a ++ b.bits ++ b.kind ++ 0#4))
  | .shflUp sc d a b => some (hdr 0x1E#6 sc (d ++ a ++ b.bits ++ b.kind ++ 1#4))
  | .shflDown sc d a b => some (hdr 0x1E#6 sc (d ++ a ++ b.bits ++ b.kind ++ 2#4))
  | .shflXor sc d a b => some (hdr 0x1E#6 sc (d ++ a ++ b.bits ++ b.kind ++ 3#4))
  | .shflBcast sc d a b => some (hdr 0x1E#6 sc (d ++ a ++ b.bits ++ b.kind ++ 4#4))
  | .vall sc d n p => some (hdr 0x1F#6 sc (0#3 ++ d ++ 0#2 ++ BitVec.ofBool n ++ p ++ 0#6 ++ 0#2 ++ 0#4))
  | .vany sc d n p => some (hdr 0x1F#6 sc (0#3 ++ d ++ 0#2 ++ BitVec.ofBool n ++ p ++ 0#6 ++ 0#2 ++ 1#4))
  | .vbal sc d n p => some (hdr 0x1F#6 sc (d ++ 0#2 ++ BitVec.ofBool n ++ p ++ 0#6 ++ 0#2 ++ 2#4))
  | .vuni sc d n p => some (hdr 0x1F#6 sc (0#3 ++ d ++ 0#2 ++ BitVec.ofBool n ++ p ++ 0#6 ++ 0#2 ++ 3#4))
  | .vcnt sc d n p => some (hdr 0x1F#6 sc (d ++ 0#2 ++ BitVec.ofBool n ++ p ++ 0#6 ++ 0#2 ++ 4#4))
  | .lredIadd sc d a => some (hdr 0x20#6 sc (d ++ a ++ 0#6 ++ 0#2 ++ 0#4))
  | .lredImin sc d a => some (hdr 0x20#6 sc (d ++ a ++ 0#6 ++ 0#2 ++ 1#4))
  | .lredImax sc d a => some (hdr 0x20#6 sc (d ++ a ++ 0#6 ++ 0#2 ++ 2#4))
  | .lredAnd sc d a => some (hdr 0x20#6 sc (d ++ a ++ 0#6 ++ 0#2 ++ 3#4))
  | .lredOr sc d a => some (hdr 0x20#6 sc (d ++ a ++ 0#6 ++ 0#2 ++ 4#4))
  | .lredXor sc d a => some (hdr 0x20#6 sc (d ++ a ++ 0#6 ++ 0#2 ++ 5#4))
  | .lredFadd sc d a => some (hdr 0x20#6 sc (d ++ a ++ 0#6 ++ 0#2 ++ 6#4))
  | .lredFmin sc d a => some (hdr 0x20#6 sc (d ++ a ++ 0#6 ++ 0#2 ++ 7#4))
  | .lredFmax sc d a => some (hdr 0x20#6 sc (d ++ a ++ 0#6 ++ 0#2 ++ 8#4))
  | .lscanIadd sc d a => some (hdr 0x20#6 sc (d ++ a ++ 0#6 ++ 1#2 ++ 0#4))
  | .lscanImin sc d a => some (hdr 0x20#6 sc (d ++ a ++ 0#6 ++ 1#2 ++ 1#4))
  | .lscanImax sc d a => some (hdr 0x20#6 sc (d ++ a ++ 0#6 ++ 1#2 ++ 2#4))
  | .lscanAnd sc d a => some (hdr 0x20#6 sc (d ++ a ++ 0#6 ++ 1#2 ++ 3#4))
  | .lscanOr sc d a => some (hdr 0x20#6 sc (d ++ a ++ 0#6 ++ 1#2 ++ 4#4))
  | .lscanXor sc d a => some (hdr 0x20#6 sc (d ++ a ++ 0#6 ++ 1#2 ++ 5#4))
  | .lscanFadd sc d a => some (hdr 0x20#6 sc (d ++ a ++ 0#6 ++ 1#2 ++ 6#4))
  | .lscanFmin sc d a => some (hdr 0x20#6 sc (d ++ a ++ 0#6 ++ 1#2 ++ 7#4))
  | .lscanFmax sc d a => some (hdr 0x20#6 sc (d ++ a ++ 0#6 ++ 1#2 ++ 8#4))
  | .lscanExclIadd sc d a => some (hdr 0x20#6 sc (d ++ a ++ 0#6 ++ 2#2 ++ 0#4))
  | .lscanExclImin sc d a => some (hdr 0x20#6 sc (d ++ a ++ 0#6 ++ 2#2 ++ 1#4))
  | .lscanExclImax sc d a => some (hdr 0x20#6 sc (d ++ a ++ 0#6 ++ 2#2 ++ 2#4))
  | .lscanExclAnd sc d a => some (hdr 0x20#6 sc (d ++ a ++ 0#6 ++ 2#2 ++ 3#4))
  | .lscanExclOr sc d a => some (hdr 0x20#6 sc (d ++ a ++ 0#6 ++ 2#2 ++ 4#4))
  | .lscanExclXor sc d a => some (hdr 0x20#6 sc (d ++ a ++ 0#6 ++ 2#2 ++ 5#4))
  | .lscanExclFadd sc d a => some (hdr 0x20#6 sc (d ++ a ++ 0#6 ++ 2#2 ++ 6#4))
  | .lscanExclFmin sc d a => some (hdr 0x20#6 sc (d ++ a ++ 0#6 ++ 2#2 ++ 7#4))
  | .lscanExclFmax sc d a => some (hdr 0x20#6 sc (d ++ a ++ 0#6 ++ 2#2 ++ 8#4))
  | .xchg sc d b => some (hdr 0x21#6 sc (d ++ 0#6 ++ b.bits ++ b.kind ++ 0#4))
  | .xchgk sc d b => some (hdr 0x21#6 sc (d ++ 0#6 ++ b.bits ++ b.kind ++ 1#4))
  | .hld sc h a b => some (hdr 0x22#6 sc (0#2 ++ h ++ a ++ b.bits ++ b.kind ++ 0#4))
  | .hst sc h a b => some (hdr 0x22#6 sc (0#2 ++ h ++ a ++ b.bits ++ b.kind ++ 1#4))
  | .hset sc h a b => some (hdr 0x22#6 sc (0#2 ++ h ++ a ++ b.bits ++ b.kind ++ 2#4))
  | .hadv sc h b => some (hdr 0x22#6 sc (0#2 ++ h ++ 0#6 ++ b.bits ++ b.kind ++ 3#4))
  | .mmloop sc acc span hA hB ks flags => some (hdr 0x23#6 sc (acc ++ span ++ hA ++ hB ++ ks ++ flags))
  | .mmidx sc a b => some (hdr 0x24#6 sc (0#6 ++ a ++ b.bits ++ b.kind ++ 0#4))
  | .accz sc acc span b => some (hdr 0x25#6 sc (0#6 ++ 0#1 ++ span ++ acc ++ b.bits ++ b.kind ++ 0#4))
  | .accrd sc d acc span b => some (hdr 0x25#6 sc (d ++ 0#1 ++ span ++ acc ++ b.bits ++ b.kind ++ 1#4))
  | .accwr sc d acc span b => some (hdr 0x25#6 sc (d ++ 0#1 ++ span ++ acc ++ b.bits ++ b.kind ++ 2#4))
  | .accscl sc acc span b => some (hdr 0x25#6 sc (0#6 ++ 0#1 ++ span ++ acc ++ b.bits ++ b.kind ++ 3#4))
  | .accdrn sc h acc span b => some (hdr 0x25#6 sc (0#2 ++ h ++ 0#1 ++ span ++ acc ++ b.bits ++ b.kind ++ 4#4))
  | .accdra sc h acc span b => some (hdr 0x25#6 sc (0#2 ++ h ++ 0#1 ++ span ++ acc ++ b.bits ++ b.kind ++ 5#4))
  | .qsm sc d a b => some (hdr 0x26#6 sc (d ++ a ++ b.bits ++ b.kind ++ 0#4))
  | .qpack sc d a b => some (hdr 0x26#6 sc (d ++ a ++ b.bits ++ b.kind ++ 1#4))
  | .qunpk sc d a b => some (hdr 0x26#6 sc (d ++ a ++ b.bits ++ b.kind ++ 2#4))
  | .qapp sc d a b => some (hdr 0x27#6 sc (d ++ a ++ b.bits ++ b.kind ++ 0#4))
  | .tdec sc a b => some (hdr 0x28#6 sc (0#6 ++ a ++ b.bits ++ b.kind ++ 0#4))
  | .tinc sc a b => some (hdr 0x28#6 sc (0#6 ++ a ++ b.bits ++ b.kind ++ 1#4))
  | .trd sc d b => some (hdr 0x28#6 sc (d ++ 0#6 ++ b.bits ++ b.kind ++ 2#4))
  | .phq sc d a b => some (hdr 0x28#6 sc (d ++ a ++ b.bits ++ b.kind ++ 3#4))
  | .wait sc ldn stn cpn ton => some (hdr 0x29#6 sc (ldn ++ stn ++ cpn ++ ton))
  | .visld sc d a b => some (hdr 0x2A#6 sc (d ++ a ++ b.bits ++ b.kind ++ 0#4))
  | .visdec sc d a => some (hdr 0x2A#6 sc (d ++ a ++ 0#6 ++ 0#2 ++ 1#4))
  | .bary sc d a b => some (hdr 0x2B#6 sc (d ++ a ++ b.bits ++ b.kind ++ 0#4))
  | .attrf sc d a b => some (hdr 0x2B#6 sc (d ++ a ++ b.bits ++ b.kind ++ 1#4))
  | .ordwait sc a b => some (hdr 0x2C#6 sc (0#6 ++ a ++ b.bits ++ b.kind ++ 0#4))
  | .orddone sc a => some (hdr 0x2C#6 sc (0#6 ++ a ++ 0#6 ++ 0#2 ++ 1#4))
  | .texs sc d a b => some (hdr 0x2D#6 sc (d ++ a ++ b.bits ++ b.kind ++ 0#4))
  | .texl sc d a b => some (hdr 0x2D#6 sc (d ++ a ++ b.bits ++ b.kind ++ 1#4))
  | .texg sc d a b => some (hdr 0x2D#6 sc (d ++ a ++ b.bits ++ b.kind ++ 2#4))
  | .texq sc d a b => some (hdr 0x2D#6 sc (d ++ a ++ b.bits ++ b.kind ++ 3#4))
  | .trav sc d a b => some (hdr 0x2E#6 sc (d ++ a ++ b.bits ++ b.kind ++ 0#4))
  | .travrd sc d a b => some (hdr 0x2E#6 sc (d ++ a ++ b.bits ++ b.kind ++ 1#4))
  | .reform sc d a b => some (hdr 0x30#6 sc (d ++ a ++ b.bits ++ b.kind ++ 0#4))
  | .refill sc d a b => some (hdr 0x30#6 sc (d ++ a ++ b.bits ++ b.kind ++ 1#4))
  | .rsmpl sc d a b => some (hdr 0x31#6 sc (d ++ a ++ b.bits ++ b.kind ++ 0#4))
  | .pstat sc d a b => some (hdr 0x31#6 sc (d ++ a ++ b.bits ++ b.kind ++ 1#4))
  | .sread sc d toS num => some (hdr 0x32#6 sc (d ++ 0#5 ++ BitVec.ofBool toS ++ num ++ 2#2 ++ 0#4))
  | .swrite sc a num => some (hdr 0x32#6 sc (0#6 ++ a ++ num ++ 2#2 ++ 1#4))
  | .grow sc p b => some (hdr 0x33#6 sc (0#3 ++ p ++ 0#6 ++ b.bits ++ b.kind ++ 0#4))
  | .fork sc d a b => some (hdr 0x33#6 sc (d ++ a ++ b.bits ++ b.kind ++ 1#4))
  | .join sc => some (hdr 0x33#6 sc (0#6 ++ 0#6 ++ 0#6 ++ 0#2 ++ 2#4))
  | .npre sc => some (hdr 0x33#6 sc (0#6 ++ 0#6 ++ 0#6 ++ 0#2 ++ 3#4))
  | .nprex sc => some (hdr 0x33#6 sc (0#6 ++ 0#6 ++ 0#6 ++ 0#2 ++ 4#4))
  | .trap sc code => some (hdr 0x34#6 sc (0#6 ++ 0#6 ++ code ++ 2#2 ++ 0#4))
  | .eret sc code => some (hdr 0x34#6 sc (0#6 ++ 0#6 ++ code ++ 2#2 ++ 1#4))
  | .bkpt sc code => some (hdr 0x34#6 sc (0#6 ++ 0#6 ++ code ++ 2#2 ++ 2#4))
  | .halt sc => some (hdr 0x34#6 sc (0#6 ++ 0#6 ++ 0#6 ++ 0#2 ++ 3#4))
  | .call sc p n disp => some (hdr 0x35#6 sc (p ++ BitVec.ofBool n ++ disp))
  | .ximm sc payload => some (hdr 0x3E#6 sc (0#4 ++ payload))
  | .xreg sc payload => some (hdr 0x3E#6 sc (1#4 ++ payload))
  | .xmod sc payload => some (hdr 0x3E#6 sc (2#4 ++ payload))
  | .xsched sc payload => some (hdr 0x3E#6 sc (3#4 ++ payload))
  | .xpred sc payload => some (hdr 0x3E#6 sc (4#4 ++ payload))
  | .splitMerge _ _ _ => none
  | .rendezvousRelease _ => none
  | .waitEnd _ _ => none
  | .growGrant _ => none
  | .growFail _ => none
  | .handlerEntry _ _ _ _ => none
  | .loadComplete _ _ => none
  | .storeDrain _ => none
  | .storeApply _ => none
  | .proxyInvalidate _ _ => none
  | .storeAck _ => none
  | .l1Eviction _ _ _ => none
  | .sliceEviction _ _ => none
  | .atomicApply _ => none
  | .atomicReturn _ => none
  | .bankWriteApply _ _ => none
  | .multicastRequest _ => none
  | .multicastTimeout _ => none
  | .ldmcDelivery _ _ => none
  | .kstepApply _ => none
  | .drainComplete _ => none
  | .rayComplete _ _ => none
  | .xchgPair _ => none
  | .phaseSweepPair _ => none
  | .phqWake _ => none
  | .queueConsume _ _ => none
  | .launchAccept _ => none
  | .blockDispatch _ => none
  | .gangDispatch _ => none
  | .blockRetire _ _ => none
  | .launchComplete _ => none
  | .joinResume _ => none
  | .taskAppendRetry _ => none
  | .copyStart _ _ => none
  | .copyComplete _ => none
  | .reduceSessionClose _ _ => none
  | .rasterPacket _ => none
  | .graphValidate _ => none
  | .nodeIssue _ => none
  | .predicateEval _ => none
  | .instanceStart _ _ => none
  | .waitctrComplete _ _ => none
  | .graphComplete _ => none
  | .tileRelease _ _ _ => none
  | .tileRetire _ _ _ => none
  | .relqTake _ => none
  | .ringExhausted _ => none
  | .footprintPrefetch _ _ _ => none
  | .resample _ => none
  | .placementListAccept _ => none
  | .pageWalk _ _ _ => none
  | .frameCopyOnWrite _ _ _ => none
  | .vaultEccError _ _ _ => none
  | .contextSchedule _ _ => none
  | .preemptionStart _ _ _ => none
  | .drainLimitExpiry _ _ => none
  | .forcedSave _ _ => none
  | .regionLimitExpiry _ _ => none
  | .watchdog _ => none
  | .create _ _ _ => none
  | .destroy _ _ => none
  | .preempt _ _ => none
  | .kill _ _ => none
  | .stepFlag _ _ _ _ => none
  | .unstepFlag _ _ _ _ => none
  | .queueAttach _ _ _ _ => none
  | .queueDetach _ _ => none
  | .queueClosed _ _ => none
  | .invalidate _ _ _ _ => none
  | .fillResponse _ _ _ _ => none
  | .exportHandle _ _ _ _ _ => none
  | .revoke _ _ => none
  | .bind _ _ _ => none
  | .unbind _ _ _ => none
  | .revocationNotice _ _ => none
  | .drainMarker _ _ _ => none
  | .countDoorbell _ _ _ => none
  | .bar4Write _ _ _ => none
  | .bar4Read _ _ _ => none
  | .hostAtomicop _ _ _ _ _ _ => none
  | .flushingReadComplete _ _ => none
  | .registerWrite _ _ _ => none
  | .flitReceive _ _ _ _ => none
  | .negativeAck _ _ _ _ => none
  | .laneRepair _ _ _ => none
  | .crossingFailure _ => none
  | .lossNotice _ => none
  | .bringUp _ _ _ => none
  | .powerSample _ _ => none
  | .thermalSample _ _ _ _ => none
  | .machineCheck _ => none
  | .wearUpdate _ _ _ _ => none
  | .modulePowerRemoved => none

/-- The words of an instruction: its word and, where b is 63, its literal; an event has none. -/
def encode (i : Instr) : List Word :=
  match i.word? with
  | none => []
  | some w =>
    match i.opb? with
    | some b => w :: b.tail
    | none => [w]

/-- The bytes of an instruction as memory holds them. -/
def encodeBytes (i : Instr) : List Byte := (encode i).flatMap bytesOfWord

end Sys2Proof
end

