-- ==== Sys2Proof/Machine/Bits.lean ====
section
/-! DEFINITION. Bit fields, byte strings and rows of lanes: the small helpers the meanings share. -/

namespace Sys2Proof.Machine

open Sys2Proof

/-- Bits hi..lo of a number. -/
def bitsOf (x hi lo : Nat) : Nat := x / 2 ^ lo % 2 ^ (hi + 1 - lo)

/-- Bit i of a number. -/
def bitOf (x i : Nat) : Bool := x / 2 ^ i % 2 == 1

/-- The value of bits read as two's complement. -/
def sintOf (w x : Nat) : Int := if x % 2 ^ w < 2 ^ (w - 1) then (x % 2 ^ w : Nat) else (x % 2 ^ w : Nat) - (2 ^ w : Nat)

/-- A 64-bit value from its low and high words (R100). -/
def pairOf (lo hi : Word) : Dword := hi ++ lo

/-- The low word of a pair. -/
def loWord (x : Dword) : Word := x.extractLsb' 0 32

/-- The high word of a pair. -/
def hiWord (x : Dword) : Word := x.extractLsb' 32 32

/-- A little-endian number from bytes, lowest address first (R21, R74, R381). -/
def leNat : List Byte → Nat
  | [] => 0
  | b :: bs => b.toNat + 256 * leNat bs

/-- The n low bytes of a number, lowest address first. -/
def leBytes : Nat → Nat → List Byte
  | 0, _ => []
  | n + 1, x => BitVec.ofNat 8 x :: leBytes n (x / 256)

/-- The lane numbers of a warp, ascending. -/
def lanes32 : List Nat := List.range 32

/-- The lanes of a mask, ascending. -/
def lanesOf (m : LaneMask) : List Nat := lanes32.filter fun i => m.getLsbD i

/-- The lowest lane of a mask, 0 for the empty mask. -/
def lowLane (m : LaneMask) : Nat := (lanesOf m).headD 0

/-- The mask of one lane. -/
def laneBit (i : Nat) : LaneMask := (1#32) <<< i

/-- The mask of the lanes that satisfy a predicate. -/
def maskOf (f : Nat → Bool) : LaneMask :=
  lanes32.foldl (fun m i => if f i then m ||| laneBit i else m) 0#32

/-- Lane i of a row. -/
def laneOf (r : Row) (i : Nat) : Word := (r[i]?).getD 0

/-- The row that holds the same value in every lane (R27). -/
def splat (x : Word) : Row := Vector.ofFn fun _ => x

/-- The row of a function of the lane number. -/
def rowOf (f : Nat → Word) : Row := Vector.ofFn fun i => f i.val

/-- The row that takes `new` in the live lanes and keeps `old` in the others (R5). -/
def mergeRow (live : LaneMask) (new old : Row) : Row :=
  Vector.ofFn fun i => if live.getLsbD i.val then new[i] else old[i]

/-- Lane i of a row of pairs. -/
def laneOf64 (r : Row64) (i : Nat) : Dword := (r[i]?).getD 0

/-- Replace lane i of a row. -/
def setLane (r : Row) (i : Nat) (x : Word) : Row := r.setIfInBounds i x

/-- Replace lane i of a row of pairs. -/
def setLane64 (r : Row64) (i : Nat) (x : Dword) : Row64 := r.setIfInBounds i x

/-- Insert into a list sorted by a number. -/
def insertBy {α : Type} (key : α → Nat) (x : α) : List α → List α
  | [] => [x]
  | y :: ys => if key x ≤ key y then x :: y :: ys else y :: insertBy key x ys

/-- A list sorted by a number, stable. -/
def sortBy {α : Type} (key : α → Nat) (xs : List α) : List α := xs.foldr (insertBy key) []

/-- Drop later repeats of a number. -/
def dedupNat : List Nat → List Nat
  | [] => []
  | x :: xs => x :: (dedupNat xs).filter (· != x)

/-- Replace the elements that satisfy a predicate. -/
def mapWhere {α : Type} (p : α → Bool) (f : α → α) (l : List α) : List α :=
  l.map fun x => if p x then f x else x

/-- The least element of a list of numbers. -/
def minNat? : List Nat → Option Nat
  | [] => none
  | x :: xs =>
    match minNat? xs with
    | none => some x
    | some y => some (min x y)

/-- A 64-bit address is canonical when bits 63:56 all equal bit 55 (R125). -/
def canonical (a : Dword) : Bool := decide (a.extractLsb' 55 9 = 0#9) || decide (a.extractLsb' 55 9 = 0x1FF#9)

/-- The 56-bit virtual address (R125). -/
def va56 (a : Dword) : Nat := a.toNat % 2 ^ 56

end Sys2Proof.Machine
end

