-- ==== Sys2Proof/Machine/Float.lean ====
section
/-! DEFINITION. Floating-point values, their formats and the one rounding (04_numbers.md, R74 to R79, R84 to R89). A value
is computed exactly, as a ratio times a power of two, and rounded once. -/

namespace Sys2Proof.Machine

open Sys2Proof

/-- The rounding modes (R84). -/
inductive Rnd where
  | rn
  | rz
  | rd
  | ru
  deriving DecidableEq, Repr

/-- A floating-point value: NaN, signalling or not, an infinity, or (-1)^neg × m × 2^e. -/
inductive FVal where
  | nan (sig : Bool)
  | inf (neg : Bool)
  | fin (neg : Bool) (m : Nat) (e : Int)
  deriving DecidableEq, Repr

/-- A format of R74: exponent bits, fraction bits, bias, whether it has infinities, its canonical NaN. -/
structure Fmt where
  eb : Nat
  fb : Nat
  bias : Int
  hasInf : Bool
  nanBits : Nat
  deriving DecidableEq, Repr

def fp32 : Fmt := { eb := 8, fb := 23, bias := 127, hasInf := true, nanBits := 0x7FC00000 }
def fp16 : Fmt := { eb := 5, fb := 10, bias := 15, hasInf := true, nanBits := 0x7E00 }
def bf16 : Fmt := { eb := 8, fb := 7, bias := 127, hasInf := true, nanBits := 0x7FC0 }
def e4m3 : Fmt := { eb := 4, fb := 3, bias := 7, hasInf := false, nanBits := 0x7F }
def e5m2 : Fmt := { eb := 5, fb := 2, bias := 15, hasInf := true, nanBits := 0x7E }

/-- The exceptions of R87 in the order of CAUSE FPX (R147): invalid, division by zero, overflow, underflow, inexact. -/
abbrev Fx := BitVec 5

def fxNone : Fx := 0
def fxInvalid : Fx := 1
def fxDivZero : Fx := 2
def fxOverflow : Fx := 4
def fxUnderflow : Fx := 8
def fxInexact : Fx := 16

/-- The position of the sign bit. -/
def Fmt.signPos (f : Fmt) : Nat := f.eb + f.fb

/-- The value of an encoding (R74). -/
def Fmt.decode (f : Fmt) (x : Nat) : FVal :=
  let neg := bitOf x f.signPos
  let ex := x / 2 ^ f.fb % 2 ^ f.eb
  let fr := x % 2 ^ f.fb
  if ex = 2 ^ f.eb - 1 ∧ f.hasInf then
    if fr = 0 then .inf neg else .nan (!bitOf fr (f.fb - 1))
  else if ex = 2 ^ f.eb - 1 ∧ fr = 2 ^ f.fb - 1 then .nan false
  else if ex = 0 then .fin neg fr (1 - f.bias - f.fb)
  else .fin neg (2 ^ f.fb + fr) (ex - f.bias - f.fb)

/-- The sign bit as a number. -/
def Fmt.signBits (f : Fmt) (neg : Bool) : Nat := if neg then 2 ^ f.signPos else 0

/-- The encoding of infinity without its sign; an E4M3 destination receives NaN instead (R85). -/
def Fmt.infBits (f : Fmt) : Nat := if f.hasInf then (2 ^ f.eb - 1) * 2 ^ f.fb else f.nanBits

/-- The largest finite encoding without its sign (R74). -/
def Fmt.maxBits (f : Fmt) : Nat :=
  if f.hasInf then (2 ^ f.eb - 1) * 2 ^ f.fb - 1 else 2 ^ (f.eb + f.fb) - 2

/-- An infinity of the format with its sign. -/
def Fmt.infOf (f : Fmt) (neg : Bool) : Nat := if f.hasInf then f.signBits neg + f.infBits else f.nanBits

/-- x / 2^k for an integer k as a ratio: numerator and denominator. -/
def scaleRat (n d : Nat) (k : Int) : Nat × Nat :=
  if k ≥ 0 then (n * 2 ^ k.toNat, d) else (n, d * 2 ^ (-k).toNat)

/-- The floor of log2 of n / d × 2^e, for n and d not 0. -/
def floorLog2 (n d : Nat) (e : Int) : Int :=
  let g : Int := (Nat.log2 n : Int) - (Nat.log2 d : Int)
  let sc := scaleRat n d (-g)
  if sc.1 < sc.2 then g - 1 + e else g + e

/-- Round the non-negative ratio n / d to an integer by the mode, for a value of the sign given (R84). -/
def roundNat (md : Rnd) (neg : Bool) (n d : Nat) : Nat :=
  let q := n / d
  let r := n % d
  if r = 0 then q
  else
    match md with
    | .rz => q
    | .rd => if neg then q + 1 else q
    | .ru => if neg then q else q + 1
    | .rn => if 2 * r < d then q else if 2 * r > d then q + 1 else q + q % 2

/-- The overflow result (R85). -/
def overflowBits (f : Fmt) (md : Rnd) (sat neg : Bool) : Nat :=
  let toInf :=
    match md with
    | .rn => true
    | .rz => false
    | .rd => neg
    | .ru => !neg
  if sat || !toInf then f.signBits neg + f.maxBits else f.infOf neg

/-- Round (-1)^neg × n / d × 2^e into a format: the encoding and the exceptions of the rounding (R84, R85, R87). The value
is not zero unless n is 0. `sat` is CVT's saturate bit. -/
def roundRat (f : Fmt) (md : Rnd) (sat neg : Bool) (n d : Nat) (e : Int) : Nat × Fx :=
  if n = 0 then (f.signBits neg, fxNone)
  else
    let l := floorLog2 n d e
    let emin := 1 - f.bias
    let qe := max l emin - f.fb
    let sc := scaleRat n d (e - qe)
    let i := roundNat md neg sc.1 sc.2
    let inexact := sc.1 % sc.2 != 0
    let j := if i = 2 ^ (f.fb + 1) then 2 ^ f.fb else i
    let qj := if i = 2 ^ (f.fb + 1) then qe + 1 else qe
    let bits := if j < 2 ^ f.fb then j else (qj + f.fb + f.bias).toNat * 2 ^ f.fb + (j - 2 ^ f.fb)
    if bits > f.maxBits then (overflowBits f md sat neg, fxOverflow ||| fxInexact)
    else
      let ue := l - f.fb
      let su := scaleRat n d (e - ue)
      let iu := roundNat md neg su.1 su.2
      let tiny := decide (l < emin) && !(decide (l = emin - 1) && decide (iu = 2 ^ (f.fb + 1)))
      (f.signBits neg + bits,
        (if inexact then fxInexact else fxNone) ||| (if inexact && tiny then fxUnderflow else fxNone))

/-- Round a value into a format; NaN gives the canonical NaN and infinities stay (R75, R85). -/
def roundVal (f : Fmt) (md : Rnd) (v : FVal) : Nat × Fx :=
  match v with
  | .nan _ => (f.nanBits, fxNone)
  | .inf neg => (f.infOf neg, fxNone)
  | .fin neg m e => roundRat f md false neg m 1 e

/-- Whether an encoding is subnormal and not zero. -/
def Fmt.isSubnormal (f : Fmt) (x : Nat) : Bool := x / 2 ^ f.fb % 2 ^ f.eb == 0 && x % 2 ^ f.fb != 0

/-- Flush a subnormal encoding to zero of its sign (R86). -/
def Fmt.flush (f : Fmt) (on : Bool) (x : Nat) : Nat :=
  if on && f.isSubnormal x then f.signBits (bitOf x f.signPos) else x

/-- Flush a result: a flushed result signals underflow and inexact (R86, R87). -/
def Fmt.flushResult (f : Fmt) (on : Bool) (r : Nat × Fx) : Nat × Fx :=
  if on && f.isSubnormal r.1 then (f.signBits (bitOf r.1 f.signPos), r.2 ||| fxUnderflow ||| fxInexact) else r

/-- Clamp to [+0, 1], NaN giving +0 (R39, R148). -/
def Fmt.satBits (f : Fmt) (on : Bool) (x : Nat) : Nat :=
  if on then
    let one := f.bias.toNat * 2 ^ f.fb
    match f.decode x with
    | .nan _ => 0
    | .inf neg => if neg then 0 else one
    | .fin neg _ _ => if neg then 0 else if x > one then one else x
  else x

/-- Invalid when an operand is a signalling NaN (R149 to R151). -/
def sigInvalid (vs : List FVal) : Fx :=
  if vs.any (fun v => match v with | .nan true => true | _ => false) then fxInvalid else fxNone

def FVal.isNan : FVal → Bool
  | .nan _ => true
  | _ => false

def FVal.neg : FVal → FVal
  | .nan q => .nan q
  | .inf n => .inf (!n)
  | .fin n m e => .fin (!n) m e

/-- m × 2^e as an integer in units of 2^u, for u at most e. -/
def scaledInt (neg : Bool) (m : Nat) (e u : Int) : Int :=
  let k : Int := (m * 2 ^ (e - u).toNat : Nat)
  if neg then -k else k

/-- The exact sum of two finite values; an exact zero of unlike signs takes the sign of the mode (R149). -/
def addFin (md : Rnd) (n1 : Bool) (m1 : Nat) (e1 : Int) (n2 : Bool) (m2 : Nat) (e2 : Int) : FVal :=
  if m1 = 0 ∧ m2 = 0 then .fin (if n1 = n2 then n1 else md == .rd) 0 0
  else
    let u := min e1 e2
    let t := scaledInt n1 m1 e1 u + scaledInt n2 m2 e2 u
    if t = 0 then .fin (md == .rd) 0 0 else .fin (decide (t < 0)) t.natAbs u

/-- The exact sum of two values and what it signals (R149). -/
def addVal (md : Rnd) (a b : FVal) : FVal × Fx :=
  match a, b with
  | .nan _, _ => (.nan false, sigInvalid [a, b])
  | _, .nan _ => (.nan false, sigInvalid [a, b])
  | .inf n1, .inf n2 => if n1 = n2 then (.inf n1, fxNone) else (.nan false, fxInvalid)
  | .inf n, _ => (.inf n, fxNone)
  | _, .inf n => (.inf n, fxNone)
  | .fin n1 m1 e1, .fin n2 m2 e2 => (addFin md n1 m1 e1 n2 m2 e2, fxNone)

/-- The exact product of two values and what it signals (R149). -/
def mulVal (a b : FVal) : FVal × Fx :=
  match a, b with
  | .nan _, _ => (.nan false, sigInvalid [a, b])
  | _, .nan _ => (.nan false, sigInvalid [a, b])
  | .inf n1, .inf n2 => (.inf (n1 != n2), fxNone)
  | .inf n1, .fin n2 m _ => if m = 0 then (.nan false, fxInvalid) else (.inf (n1 != n2), fxNone)
  | .fin n1 m _, .inf n2 => if m = 0 then (.nan false, fxInvalid) else (.inf (n1 != n2), fxNone)
  | .fin n1 m1 e1, .fin n2 m2 e2 => (.fin (n1 != n2) (m1 * m2) (e1 + e2), fxNone)

/-- a × b + c exactly (R149): a product of zero and infinity is invalid whatever the addend. -/
def fmaVal (md : Rnd) (a b c : FVal) : FVal × Fx :=
  let p := mulVal a b
  if a.isNan || b.isNan then (.nan false, sigInvalid [a, b, c])
  else
    match p.1 with
    | .nan _ => (.nan false, fxInvalid)
    | v =>
      let r := addVal md v c
      (r.1, p.2 ||| r.2)

/-- Compare two values that are not NaN: less, equal or greater; -0 equals +0 (R151). -/
def cmpVal (a b : FVal) : Option Ordering :=
  match a, b with
  | .nan _, _ => none
  | _, .nan _ => none
  | .inf n1, .inf n2 => some (if n1 = n2 then .eq else if n1 then .lt else .gt)
  | .inf n, _ => some (if n then .lt else .gt)
  | _, .inf n => some (if n then .gt else .lt)
  | .fin n1 m1 e1, .fin n2 m2 e2 =>
    let u := min e1 e2
    some (compare (scaledInt n1 m1 e1 u) (scaledInt n2 m2 e2 u))

/-- The sign of a value that is not NaN. -/
def FVal.isNeg : FVal → Bool
  | .nan _ => false
  | .inf n => n
  | .fin n _ _ => n

/-- FMIN (`big` false) and FMAX of two encodings: -0 is below +0, a NaN yields to a number (R150). -/
def minMaxBits (f : Fmt) (big : Bool) (x y : Nat) : Nat × Fx :=
  let a := f.decode x
  let b := f.decode y
  let fx := sigInvalid [a, b]
  match a.isNan, b.isNan with
  | true, true => (f.nanBits, fx)
  | true, false => (y, fx)
  | false, true => (x, fx)
  | false, false =>
    let less :=
      match cmpVal a b with
      | some .lt => true
      | some .eq => a.isNeg && !b.isNeg
      | _ => false
    (if less then (if big then y else x) else (if big then x else y), fx)

/-- Round a value to an integer by the mode; none for NaN and infinities. -/
def roundInt (md : Rnd) (v : FVal) : Option Int :=
  match v with
  | .fin neg m e =>
    let sc := scaleRat m 1 e
    let i : Int := roundNat md neg sc.1 sc.2
    some (if neg then -i else i)
  | _ => none

/-- An integral function of an FP32 encoding (R150): the sign of a zero result is kept, infinities are unchanged. -/
def integralBits (md : Rnd) (x : Nat) : Nat × Fx :=
  match fp32.decode x with
  | .nan q => (fp32.nanBits, sigInvalid [.nan q])
  | .inf _ => (x, fxNone)
  | .fin neg m e =>
    let sc := scaleRat m 1 e
    ((roundRat fp32 .rn false neg (roundNat md neg sc.1 sc.2) 1 0).1, fxNone)

/-- An exact integer as an FP32 encoding rounded by the mode. -/
def intToFp32 (md : Rnd) (i : Int) : Nat × Fx := roundRat fp32 md false (decide (i < 0)) i.natAbs 1 0

/-- The small immediates of a float family: an integer, exact in every format (R28). -/
def intBits (f : Fmt) (i : Int) : Nat := (roundRat f .rn false (decide (i < 0)) i.natAbs 1 0).1

/-! The dual-shift byte (R77 to R79), in units of 2^-6. -/

/-- One term of a DS8 code in units of 2^-6. -/
def ds8Term (s : Bool) (e : Nat) : Int := if e = 7 then 0 else if s then -((2 ^ (6 - e) : Nat) : Int) else ((2 ^ (6 - e) : Nat) : Int)

/-- The value of a DS8 byte in units of 2^-6 (R77). -/
def ds8Units (x : Nat) : Int := ds8Term (bitOf x 7) (bitsOf x 6 4) + ds8Term (bitOf x 3) (bitsOf x 2 0)

/-- The value of a DS8 byte; a zero sum is +0 (R77). -/
def ds8Decode (x : Nat) : FVal := .fin (decide (ds8Units x < 0)) (ds8Units x).natAbs (-6)

/-- A canonical DS8 code (R78). -/
def ds8Canonical (x : Nat) : Bool :=
  decide (bitsOf x 6 4 ≤ bitsOf x 2 0) &&
  !(bitsOf x 6 4 != 7 && bitsOf x 6 4 == bitsOf x 2 0 && bitOf x 7 != bitOf x 3)

/-- The lowest canonical code of a value in units of 2^-6 (R78). -/
def ds8CodeOf (u : Int) : Option Nat := (List.range 256).find? fun x => ds8Canonical x && ds8Units x == u

/-- The values a DS8 byte can take, in units of 2^-6, below and above a ratio: the largest value at most n/d and the least
value at least n/d. -/
def ds8Below (t : Int → Bool) : Int :=
  (List.range 256).foldl (fun acc x => let u := ds8Units x; if t u && decide (acc < u) then u else acc) (-128)

def ds8Above (t : Int → Bool) : Int :=
  (List.range 256).foldl (fun acc x => let u := ds8Units x; if t u && decide (u < acc) then u else acc) 128

/-- Quantise a value to DS8 (R79): the code and whether it is inexact or the source is NaN. -/
def ds8Quantise (md : Rnd) (v : FVal) : Nat × Fx :=
  match v with
  | .nan _ => (0x77, fxInvalid)
  | .inf neg => (if neg then 0x88 else 0x00, fxInexact)
  | .fin neg m e =>
    -- the value in units of 2^-6 is a / b
    let sc := scaleRat m 1 (e + 6)
    let a : Int := if neg then -(sc.1 : Int) else sc.1
    let b : Int := sc.2
    if a > 128 * b then (0x00, fxInexact)
    else if a < -128 * b then (0x88, fxInexact)
    else
      let lo := ds8Below fun u => decide (u * b ≤ a)
      let hi := ds8Above fun u => decide (a ≤ u * b)
      let pick :=
        if lo = hi then lo
        else
          match md with
          | .rd => lo
          | .ru => hi
          | .rz => if a < 0 then hi else lo
          | .rn =>
            if a - lo * b < hi * b - a then lo
            else if a - lo * b > hi * b - a then hi
            else if lo.natAbs ≤ hi.natAbs then lo else hi
      ((ds8CodeOf pick).getD 0x77, if pick * b = a then fxNone else fxInexact)

end Sys2Proof.Machine
end

