-- ==== Sys2Proof/Machine/State.lean ====
section
/-! DEFINITION. The state of the machine: every piece of state the manual names, as plain data (INVENTORY.md, State),
and the state right after reset. Tables are lists of records named by a unique number (`uid`) or by field, core or slot
numbers; the records appear by the events that the manual gives them (dispatch, CREATE, attach, EXPORT ...). -/

namespace Sys2Proof.Machine

open Sys2Proof

/-! ## Warps and lanes -/

/-- A pending hint word of a split (R42): its kind, payload and address. -/
structure Hint where
  kind : Nat
  payload : BitVec 20
  addr : Dword
  deriving DecidableEq, Repr

/-- What a split blocked by R160 waits for. -/
inductive WaitCond where
  /-- WAIT (R145): at most these many operations in the loads, stores, copies and tile-ops classes. -/
  | classes (ld st cp tl : Nat)
  /-- CBWAIT (R141) on a buffer. -/
  | filled (buf : Nat)
  /-- CBRSV (R141) on a buffer. -/
  | free (buf : Nat)
  /-- WCWAIT (R146) on a window slot's destination (true) or source counter. -/
  | window (slot : Nat) (dst : Bool) (value : Word)
  /-- GROW (R175): the result predicate, the live lanes, the scope of the group and the address after it. -/
  | grow (p : Nat) (live : LaneMask) (sc : Scope) (next : Dword)
  /-- XCHG and XCHGK (R194). -/
  | xchg
  /-- PHQ (R201). -/
  | phase
  /-- ORDWAIT (R348): per lane, the physical key of its order word and the value awaited. -/
  | order (words : List (Nat × Word))
  /-- TRAVRD (R361): the lanes whose rays must have completed. -/
  | rays (lanes : LaneMask)
  /-- JOIN (R310), waiting in place. -/
  | join
  /-- RSMPL (R371). -/
  | resample
  deriving DecidableEq, Repr

/-- A split of a warp (R163). `start` is the address of the first word of the group it is inside. `released` is the
scope of the rendezvous that has released it, until every part of the instruction has completed (R167, R195); `want` the scope of
the group at which it waits and the address after that group. -/
structure Split where
  pc : Dword
  mask : LaneMask
  waiting : Bool
  want : Option (Scope × Dword)
  blocked : Option WaitCond
  hints : List Hint
  start : Dword
  released : Option Scope
  deriving DecidableEq, Repr

/-- What kind of operation an entry of the loads class is (R144). -/
inductive LoadKind where
  /-- LD: the value is taken from memory when the load completes. -/
  | mem
  /-- HLD: 64 bytes into an h register. -/
  | hreg
  /-- An ATOM, completed by its returns (R244). -/
  | atom
  /-- ACCRD (R264). -/
  | acc
  /-- LDMC deliveries (R139). -/
  | delivery
  /-- Queued scratchpad writes made for the warp (R135). -/
  | bankq
  /-- The gather unit's reads for an MMLOOP, until the last step's are latched (R263). -/
  | gather
  /-- A TRAV, until its rays have completed (R358). -/
  | ray
  /-- An operation whose value was taken at issue. -/
  | taken
  deriving DecidableEq, Repr

/-- Loads whose destination is v or h registers (R103). -/
def LoadKind.writes : LoadKind → Bool
  | .mem => true
  | .hreg => true
  | .atom => true
  | .acc => true
  | _ => false

/-- One lane's access: the lane, the key of its first byte, the field of its home, whether the page is LOCAL (R387) and
non-temporal (R382), and its virtual address. -/
structure Access where
  lane : Nat
  key : Nat
  home : Nat
  isLocal : Bool
  nt : Bool
  va : Dword
  deriving DecidableEq, Repr

/-- An operation of the loads class: `seq` its place in the warp's issue order, `ord` its number in its class, `repl` and `nt` its
policy (R126), `early` the bytes that it has taken at their homes ahead of earlier loads (R226). -/
structure LoadOp where
  id : Nat
  seq : Nat
  ord : Nat
  kind : LoadKind
  dest : Nat
  nreg : Nat
  lanes : LaneMask
  size : Nat
  sext : Bool
  acqScope : Option (BitVec 3)
  repl : Bool
  nt : Bool
  accs : List Access
  early : List Host.Cell
  done : Bool
  deriving DecidableEq, Repr

/-- An operation of the stores, copies or tile-ops class (R130, R144). -/
structure EngOp where
  id : Nat
  seq : Nat
  ord : Nat
  done : Bool
  deriving DecidableEq, Repr

/-- Which operation an asynchronous cause arose from (R210). -/
inductive AsyncKind where
  | load
  | store
  | copy
  | tile
  | ray
  | cut
  deriving DecidableEq, Repr

/-- A pending asynchronous cause (R210, R211). `regs` are the registers a load wrote, `lanes` the affected lanes, `zero` the
lanes of each register that still read 0 once it is reported, `gmode` whether a lost store was .G, `kept` whether R232 kept bytes of a lost .F store from the proxy, `wins` the windows a lost
store wrote, `accs` the accumulators of a loop, `buf` the circular buffer of a copy. -/
structure AsyncCause where
  op : Nat
  ord : Nat
  code : Nat
  faddr : Dword
  lane : Nat
  kind : AsyncKind
  seq : Nat
  firstReg : Nat
  nreg : Nat
  lanes : LaneMask
  zero : List (Nat × LaneMask)
  gmode : Bool
  kept : Bool
  wins : List Nat
  accs : List Nat
  buf : Option Nat
  deriving DecidableEq, Repr

/-- One byte of a store: its key, value, the field and the slice of its home, the window it was stored through, whether it
allocates no L1 line (R126, R382) and whether its line may stand in a vault cache part (R382). -/
structure WByte where
  key : Nat
  byte : Byte
  home : Nat
  slice : Nat
  win : Option Nat
  nt : Bool
  vcache : Bool
  deriving DecidableEq, Repr

/-- An entry of a warp's store queue (R216, R217): the bytes that prevail, and the operations that must be performed at a
scope before it drains (R228, R230), as pairs of scope and operation; `rel` the scope of a release (R228), `flush` the key ranges of
a FLUSHV (R143), `va` and `lane` the address and the lane that a report names. -/
structure SqEntry where
  id : Nat
  seq : Nat
  gmode : Bool
  flush : List (Nat × Nat)
  bytes : List WByte
  deps : List (Nat × Nat)
  rel : Option Nat
  va : Dword
  lane : Nat
  deriving DecidableEq, Repr

/-- The state of a warp (R160, R369). -/
inductive Mode where
  | normal
  | handler
  | held
  | dormant
  | ended
  deriving DecidableEq, Repr

/-- A trap frame (R204): the split state at entry, the reporting slot, the word after the reporting group, and the scope
of the SET- or BLOCK-scope instruction whose member part faulted. `once` says that the instruction is
issued once for all members, `diverged` marks DIVERGED_RENDEZVOUS, `lost` names the lost store it reports (R237) and `pop`
marks a check of a population's rendezvous (R371). -/
structure Frame where
  slots : Vector (Option Split) 4
  parked : List Split
  slot : Nat
  next : Dword
  member : Option Scope
  once : Bool
  diverged : Bool
  lost : Option Nat
  pop : Bool
  deriving DecidableEq, Repr

/-! ### Causes (R205, R212) -/

/-- A cause with its detail. -/
structure Trap where
  code : Nat
  faddr : Dword
  lane : Nat
  fpx : BitVec 5
  code2 : Nat
  async : Bool
  deriving DecidableEq, Repr

/-- A cause to report: the warp, the slot of the reporting split, the group's first word and the word after it, the cause,
the scope of the instruction whose member part faulted and whether it is issued once for all members, whether it is
DIVERGED_RENDEZVOUS, the lost store it reports, whether it is a check of a population's rendezvous, and the pending asynchronous
cause that it delivers. -/
structure Report where
  u : Nat
  slot : Nat
  fpc : Dword
  next : Dword
  trap : Trap
  member : Option Scope
  once : Bool
  diverged : Bool
  lost : Option Nat
  pop : Bool := false
  cause : Option AsyncCause := none
  deriving DecidableEq, Repr

/-- The states of a rendezvous object (R195). -/
inductive RvState where
  | opened
  | gathering
  | released
  | faulted
  deriving DecidableEq, Repr

/-- A rendezvous object (R195): the member warps whose part is still to execute, in ascending index, and what the lowest
member's part decided for the others (a branch's target, R119). -/
structure Rv where
  state : RvState
  todo : List Nat
  memo : Option (Bool × Dword)
  deriving DecidableEq, Repr

/-- A ray of a lane (R358 to R362): the operation it belongs to and that operation's place in its warp's order, its block and
descriptor, the stores it waits for, by a release at `scope` (R238), and
once it is done its results and a cause that TRAVRD has not delivered. -/
structure Ray where
  id : Nat
  seq : Nat
  words : List Word
  desc : List Word
  deps : List (Nat × Nat)
  scope : Nat
  done : Bool
  result : List Word
  fault : Option (Nat × Dword)
  deriving DecidableEq, Repr

/-- What a member of a waiting side of an XCHG or (`keyed`) XCHGK offers: its scope, descriptor, first register and
contributors, and the addresses of its group and of the next word (R194). -/
structure XchgOffer where
  keyed : Bool
  setWide : Bool
  desc : Word
  reg : Nat
  live : LaneMask
  start : Dword
  next : Dword
  deriving DecidableEq, Repr

/-- A warp and its lanes (R100 to R124, R163, R204, R216, R369). `lostOps` are the lost .G and other stores not yet
reported, with the lines they wrote (R234, R237); `relDeps` what the warp's later stores wait for after a FENCE.REL, as
pairs of scope and operation (R228), and `fences` the place and scope of each FENCE.REL that an earlier load has yet to complete before;
`seen` the operations of other warps whose bytes it has read before they were
performed (R230), `issued` how many operations of each class it has issued (R144), `stepDue` the slot whose group was
stepped over (R213), `due` a cause that has been raised and waits for its handler entry (R204, log 17), `issuedAt` and `doneAt` the steps
(the model's own count, `fresh`) at which it last issued a group and an operation of it last completed (R313), and `orphan` the context of a
warp whose context has been killed and whose queue still drains (R266). -/
structure Warp where
  uid : Nat
  block : Nat
  core : Nat
  slot : Nat
  wid : Nat
  alloc : Nat
  v : Vector Row 128
  s : Vector Word 64
  bank : Vector Word 8
  p : Vector LaneMask 8
  h : Vector (BitVec 512) 16
  rstack : Vector (List Dword) 32
  mask : LaneMask
  cwin : Word
  cause : Word
  faddr : Dword
  fpc : Dword
  fpcWritten : Bool
  mode : Mode
  frame : Option Frame
  slots : Vector (Option Split) 4
  parked : List Split
  lastSlot : Nat
  inGroup : Option Nat
  exited : LaneMask
  logid : Row
  rank : Row
  lineage : Row64
  parent : Row
  rays : Vector (Option Ray) 32
  idxLatch : Vector Word 256
  region : Nat
  stepFlag : Bool
  stepDue : Option Nat
  due : Option Report
  growReq : Option Nat
  sq : List SqEntry
  loads : List LoadOp
  stores : List EngOp
  copies : List EngOp
  tileops : List EngOp
  issued : Vector Nat 4
  asyncs : List AsyncCause
  lostOps : List (Nat × List Nat)
  seq : Nat
  relDeps : List (Nat × Nat)
  fences : List (Nat × Nat)
  seen : List Nat
  rv : RvState
  xchg : Option XchgOffer
  issuedAt : Nat
  doneAt : Nat
  orphan : Option Nat
  deriving DecidableEq, Repr

/-- What a thread carries with it when it moves to another lane (R365, R374): its v registers, predicates and return stack,
its logical identifier, population registers and ray slot. -/
structure Thread where
  v : Vector Word 128
  p : BitVec 8
  stack : List Dword
  logid : Word
  rank : Word
  lineage : Dword
  parent : Word
  ray : Option Ray
  deriving DecidableEq, Repr

/-- What a block waits with at RSMPL (R370): the addresses of its group and of the next, the fields of the word and the
target. -/
structure Rsmpl where
  start : Dword
  next : Dword
  d : Nat
  a : Nat
  b : Opb
  target : Word
  deriving DecidableEq, Repr

/-! ## Accumulators (R252, R253) -/

/-- The issuer that holds an accumulator (R253). -/
inductive Holder where
  | warp (u : Nat)
  | set (block id : Nat)
  | block (b : Nat)
  deriving DecidableEq, Repr

/-- An accumulator that is not FREE (R252, R253): its elements that are not +0, by row x 128 + column. -/
structure Accum where
  core : Nat
  index : Nat
  holder : Holder
  elems : List (Nat × Word)
  deriving DecidableEq, Repr

/-! ### The matrix engine (R254 to R265) -/

/-- An MMLOOP as it issued (R259, R260), with its next K-step. -/
structure Loop where
  zero : Bool
  acc : Bool
  gath : Bool
  smooth : Bool
  gr : Nat
  gc : Nat
  n : Nat
  t : Nat
  ha : BitVec 512
  hb : BitVec 512
  idx : Vector Word 256
  deriving DecidableEq, Repr

/-- What an operation of the engine does (R260, R264). -/
inductive EngKind where
  | clear
  | read (dest : Nat) (lanes : LaneMask) (row col : Nat)
  | write (vals : Row) (lanes : LaneMask) (row col : Nat)
  | scale (y : Word)
  | loop (l : Loop)
  | drain (h : BitVec 512) (add free : Bool) (gr gc : Nat)
  deriving DecidableEq, Repr

/-- An operation queued at a core's matrix engine (R254): `first` and `span` name its group, `deps` are the stores it waits
for, by a release at `scope` (R238), `stamp` orders the turns of loops that share the engine (R265), `lines` are the
destination lines that a drain has written, `wrote` that it has made all its writes and `fault` the address of an element that it could not
write or whose write is lost (R264, R417). -/
structure EngJob where
  id : Nat
  core : Nat
  warp : Nat
  holder : Holder
  first : Nat
  span : Nat
  field : Nat
  ctx : Nat
  block : Nat
  launch : Nat
  seq : Nat
  ord : Nat
  deps : List (Nat × Nat)
  scope : Nat
  stamp : Nat
  lines : List Nat
  wrote : Bool := false
  fault : Option Nat := none
  kind : EngKind
  deriving DecidableEq, Repr

/-! ## Blocks, launches, populations -/

/-- The states of a block (R159). -/
inductive BlockState where
  | queued
  | resident
  | saved
  | swapped
  | retired
  deriving DecidableEq, Repr

/-- A circular buffer (R140): its record and counters; `claims` are the claimed slots in claim order, each a lane claim or
a copy claim, marked written or not. -/
structure Cbuf where
  init : Bool
  record : Word
  free : Nat
  resv : Nat
  filled : Nat
  rd : Nat
  wr : Nat
  claims : List (Bool × Bool)
  deriving DecidableEq, Repr

/-- A queued scratchpad write (R135): allocation, offset after the swizzle, bytes, the warp it counts for and the
operation of that warp's loads class; `run` is the copy or drain that made it, or 0, and `add` the format code of an element that is added
(R264). -/
structure BankWrite where
  alloc : Nat
  cells : List Host.Cell
  warp : Nat
  op : Nat
  run : Nat
  add : Option Nat := none
  deriving DecidableEq, Repr

/-- The tile a block runs (R123, R329 to R334). -/
structure BlockTile where
  graph : Nat
  inst : Nat
  tile : Nat
  tilex : Word
  tiley : Word
  passid : Word
  deriving DecidableEq, Repr

/-- A block (R159, R131 to R141, R195, R198, R308). `scratch` holds the bytes of each allocation that are not 0, by
allocation x 2^20 + offset after the swizzle, `accums` and `jobs` the accumulators
and engine operations of a block that is saved or swapped, `image` whether it holds an image in spawn memory, `rsmpl` what it waits with at RSMPL, and `watch` the step at which the watchdog last
found progress (R313). -/
structure Block where
  uid : Nat
  launch : Nat
  bid : Nat
  core : Nat
  state : BlockState
  scratch : List Host.Cell
  cbufs : Vector Cbuf 16
  bankq : List BankWrite
  setRvs : Vector Rv 16
  blockRv : Rv
  children : Nat
  sent : Dword
  recv : Dword
  passive : Bool
  phqMask : BitVec 4
  phqDst : Nat
  phqNext : Dword
  tile : Option BlockTile
  bind : Vector Word 32
  accums : List Accum
  jobs : List EngJob
  image : Bool
  rsmpl : Option Rsmpl
  watch : Option Nat
  deriving DecidableEq, Repr

/-- The states of a launch (R301). A launch that is COMPLETE, dropped or abandoned is not listed. -/
inductive LaunchState where
  | submitted
  | accepted
  | dispatching
  | running
  | complete
  deriving DecidableEq, Repr

/-- Where a launch came from: a queue of its field, a PASS instance of a graph, or a FORK of a block. -/
inductive Origin where
  | queue (q : Nat)
  | inst (graph inst : Nat)
  | fork (block : Nat)
  deriving DecidableEq, Repr

/-- A launch (R301 to R310), with its record (R303) as read at acceptance and memory as it stood then, for its
code (R21), and at its dispatch, for its constants (R138); `codeAt` and `constAt` are how many stored words were remembered then;
`dispatched` its place in the order of dispatch (R176); `writers` are the warps that have run for it and for its completed children
(R305). -/
structure Launch where
  uid : Nat
  field : Nat
  ctx : Nat
  origin : Origin
  state : LaunchState
  record : Dword
  kind : Nat
  griddim : Word
  entry : Dword
  warps : Nat
  regsInit : Nat
  regsMax : Nat
  sets : Nat
  group : BitVec 40
  scratch : Vector Word 8
  cbuf : Vector Word 16
  constAddr : Vector Dword 8
  constSize : Vector Nat 8
  itemq : Vector Dword 4
  args : Dword
  done : Dword
  task : Nat
  barrier : Bool
  depth : Nat
  next : Nat
  retired : Nat
  children : Nat
  code : List Host.Cell
  consts : List Host.Cell
  codeAt : Nat
  constAt : Nat
  order : Nat
  dispatched : Nat
  writers : List Nat
  deriving DecidableEq, Repr

/-- The states of a population (R367). -/
inductive PopState where
  | waiting
  | running
  | gathering
  | faulted
  | resampling
  | placing
  | ended
  deriving DecidableEq, Repr

/-- A clone record (R373 to R377): its rank, the warp of its original and the thread it will be. -/
structure Clone where
  rank : Nat
  warp : Nat
  thread : Thread
  deriving DecidableEq, Repr

/-- A population (R367 to R379), one to a launch of KIND 2. `post` is the operation that has written the entries of its placement list
(R377), once one has, and whether STATUS 1 has followed. -/
structure Population where
  launch : Nat
  state : PopState
  generation : Word
  cap : Nat
  n0 : Nat
  seed : Dword
  plist : Dword
  killed : Word
  clones : Word
  statS : List Word
  statU : Word
  target : Nat
  cloneCount : Nat
  pending : List Clone
  post : Option (Nat × Bool)
  deriving DecidableEq, Repr

/-! ## Contexts and fields -/

/-- The states of a context (R266). -/
inductive CtxState where
  | free
  | idle
  | running
  | draining
  | saving
  | saved
  | killed
  deriving DecidableEq, Repr

/-- A window slot of a context (R146, R421 to R425). `kind` 1 is IMPORT, 2 HOSTED. -/
structure WinSlot where
  slot : Nat
  kind : Nat
  handle : Dword
  len : Nat
  revoked : Bool
  src : Word
  srcOvf : Bool
  dst : Word
  dstOvf : Bool
  deriving DecidableEq, Repr

/-- A context of a field (R266 to R278): the record's fields as read at CREATE, the count of host-record entries and the
window slots. -/
structure Context where
  field : Nat
  ctxid : Nat
  state : CtxState
  prio : Nat
  modes : BitVec 8
  fpxen : BitVec 5
  coremask : BitVec 40
  waymask : BitVec 16
  vaultdir : Nat
  bwweight : Nat
  ptroot : Dword
  handler : Dword
  backing : Dword
  hostrec : Dword
  wintab : Dword
  drainlim : Nat
  regionlim : Nat
  wdoglim : Nat
  thermal : Bool
  nrec : Nat
  wins : List WinSlot
  deriving DecidableEq, Repr

/-- The states of a queue (R282). -/
inductive QueueState where
  | detached
  | attached
  | closing
  deriving DecidableEq, Repr

/-- An entry of a field's queue table (R282), with what its descriptor's KIND and TASKS were when it was attached (R280). A
detached entry is not listed. -/
structure Queue where
  field : Nat
  q : Nat
  state : QueueState
  ctx : Nat
  desc : Dword
  kind : Nat
  taskTab : Dword
  deriving DecidableEq, Repr

/-- A TLB entry (R390): a leaf entry (R382) of a context's page, in a core's own TLB or in the field's shared one. -/
structure TlbEntry where
  field : Nat
  core : Option Nat
  ctx : Nat
  page : Nat
  pte : Dword
  deriving DecidableEq, Repr

/-- An entry of a field's miss table, for a walk or for a host-assisted fill (R390, R393): the warps that have joined it, with 0 for a unit of the
part; `answered` once the walk or the host has found no valid entry (R394), until each has met it. -/
structure Miss where
  field : Nat
  ctx : Nat
  page : Nat
  kind : Nat
  joined : List Nat
  answered : Bool
  deriving DecidableEq, Repr

/-- A handle-table entry of a field (R420, R424). `state` 0 FREE, 1 EXPORTED, 2 REVOKING; `mask` the fields that have bound it,
`drains` those whose drain marker has not come, `byHost` whether REVOKE's status is still to be written, `modul` the module
number as it was at EXPORT (R421). -/
structure Handle where
  field : Nat
  index : Nat
  modul : Nat
  state : Nat
  gen : Word
  ctx : Nat
  target : Nat
  base : Nat
  len : Nat
  mask : BitVec 4
  drains : List Nat
  byHost : Bool
  deriving DecidableEq, Repr

/-- A field (R6 to R18, R429 to R431): its health, the healthy slices of bring-up, of which its tables of slices are made (`slices`, R387), BAR0 words, route table, clocks (in steps of 25 MHz above 400 MHz: R429's and R430's, of which the lower applies), the valves of its coolant
zones and their junction sensors, four to a zone (tenths of a degree), for how many samples in a row each zone has been at 105 °C or above (R430), the zones that take no blocks (R431), for each partition the queue that was chosen last
(R299), for each copy engine the queue that was served last (R291), and the vaults whose remap table and whose mirror of it hold an
uncorrectable error (R395). -/
structure Field where
  number : Nat
  fstate : Nat
  coremask : BitVec 40
  slicemask : BitVec 40
  slices : BitVec 40
  vaultmask : BitVec 40
  links : BitVec 4
  membytes : Nat
  caps : Word
  regs : List (Nat × Word)
  route : Vector Nat 4
  epoch : Nat
  clockStep : Nat
  heatStep : Nat
  stopped : Bool
  valves : Vector Nat 4
  sensors : Vector Nat 16
  hotFor : Vector Nat 4
  moduleNo : Nat
  peers : List (Nat × Word)
  hot : BitVec 4
  rotor : List (BitVec 40 × Nat)
  copyRotor : List (Nat × Nat)
  remapBad : BitVec 40
  mirrorBad : BitVec 40
  deriving DecidableEq, Repr

/-- A word in a core's constant cache (R136, R138): the core, the launch that read it, its virtual address and its key. -/
structure ConstWord where
  core : Nat
  launch : Nat
  va : Dword
  key : Nat
  deriving DecidableEq, Repr

/-- An item that a warp of a launch appended to an item queue bound by its record (R199): the key of the queue's descriptor
and the item's sequence number. -/
structure CountedItem where
  queue : Nat
  seq : Nat
  launch : Nat
  deriving DecidableEq, Repr

/-- A packet of a copy queue that counts in its issuer's copies class (R286): the key of the queue's descriptor, its sequence
number, the warp, the operation and the space it writes (R290). -/
structure PacketOp where
  queue : Nat
  seq : Nat
  warp : Nat
  op : Nat
  space : Nat
  deriving DecidableEq, Repr

/-- What the scheduler has yet to do for a ready task (R298). -/
inductive TaskWork where
  /-- Read the packet at an address. -/
  | fetch (a : Dword)
  /-- Append the packet. -/
  | append (packet : List Byte)
  deriving DecidableEq, Repr

/-- A ready task that waits to be appended to its launch queue (R298). -/
structure TaskRetry where
  field : Nat
  q : Nat
  work : TaskWork
  deriving DecidableEq, Repr

/-! ## Memory in motion -/

/-- A line copy in a core's L1 (R218, R229), or at the local home of a LOCAL page, where `core` is the field (R388): the field of the line's home and the bytes it holds; `filled` that an access has filled
it, with the REPL of that access (R403). -/
structure L1Line where
  core : Nat
  line : Nat
  home : Nat
  filled : Bool
  repl : Bool
  cells : List Host.Cell
  deriving DecidableEq, Repr

/-- A pending .G byte in a core's L1 (R233). -/
structure Pend where
  core : Nat
  key : Nat
  byte : Byte
  warp : Nat
  flight : Nat
  deriving DecidableEq, Repr

/-- A byte at a field's proxy (R232, R403), in the slice of R402, with the field of its home: held for a flight, or a replica. `past` are
the cores that have stored or made an atomic to a held byte since and read beyond it (R215, R218), `readers` those that have read it. -/
structure ProxyByte where
  field : Nat
  slice : Nat
  home : Nat
  key : Nat
  byte : Byte
  held : Option Nat
  past : List Nat
  readers : List Nat
  deriving DecidableEq, Repr

/-- A store's access to one line on its way to its home (R218, R225 to R237). `kept` says that R232 kept some of its bytes
from the proxy; `peer` that its home is in another module (R427), `slice` is its home slice and `vcache` whether the line may stand in a
vault cache part (R382), and `nt` whether it allocates no L1 line (R126); `accepted` are the crossings whose far end has accepted it (R237), `passed` the warps of its core that have had an
atomic applied to its line after it (R215); `appliedAt` is the record number at which its home applied it (R399); `broken` is 1 once another access of its item is lost, and 2 once one is discarded (R236, R417). -/
structure Flight where
  id : Nat
  op : Nat
  seq : Nat
  warp : Nat
  core : Nat
  ctx : Nat
  src : Nat
  dst : Nat
  line : Nat
  slice : Nat
  vcache : Bool
  nt : Bool
  cells : List Host.Cell
  gmode : Bool
  leaving : Bool
  kept : Bool
  peer : Bool
  applied : Bool
  appliedAt : Nat
  accepted : List Nat
  epoch : Nat
  win : Option Nat
  handle : Dword
  offset : Nat
  lost : Bool
  passed : List Nat
  va : Dword
  lane : Nat
  broken : Nat
  deriving DecidableEq, Repr

/-- One lane's access of an atomic request (R243, R247), with the window and the handle that it goes through, if any. -/
structure AtomAcc where
  lane : Nat
  key : Nat
  y : Dword
  z : Dword
  win : Option Nat := none
  handle : Dword := 0
  deriving DecidableEq, Repr

/-- An atomic request to one line (R243) and, once applied, its old values (R244).
`slice` is its home slice; `rel` its release scope (R250); `epoch` and `left` the route epoch and the record number at which it
left its core, 0 before (R251); `win` and `handle` the first window that it goes through; `appliedAt`, `accepted`, `vcache` and `broken` as for
a store's access. -/
structure AtomReq where
  id : Nat
  op : Nat
  warp : Nat
  core : Nat
  ctx : Nat
  src : Nat
  dst : Nat
  line : Nat
  fn : Nat
  wide : Bool
  returns : Bool
  slice : Nat
  accs : List AtomAcc
  olds : List (Nat × Dword)
  deps : List (Nat × Nat)
  rel : Option Nat
  seq : Nat
  dest : Nat
  applied : Bool
  appliedAt : Nat
  accepted : List Nat
  epoch : Nat
  left : Nat
  vcache : Bool
  leaving : Bool
  peer : Bool
  win : Option Nat
  handle : Dword
  lost : Bool
  va : Dword
  broken : Nat
  deriving DecidableEq, Repr

/-- An atomic shadow (R96): the element's key, format (13 BF16, 14 E4M3), FP32 value and add count. -/
structure Shadow where
  key : Nat
  fmt : Nat
  value : Word
  count : Nat
  deriving DecidableEq, Repr

/-- The sequence state of one module of a crossing in one direction (R412, R413): the sender's next SEQ, the flits that it keeps, from
the SEQ `acked` on, the place among them of the next that it sends again, and the payloads that come to it from a disabled module and go
before any other (R414); the next SEQ the receiver expects, whether a negative acknowledgement of it is on its way, the negative
acknowledgements in a row for one SEQ, and the credits that the receiver has returned for each channel. -/
structure FlitSeq where
  dir : Nat
  modul : Nat
  nextSend : Nat
  expect : Nat
  acked : Nat
  replay : List (List Byte)
  again : Option Nat
  moved : List (List Byte)
  nackDue : Bool
  nacks : Nat
  credits : Vector Nat 9
  deriving DecidableEq, Repr

/-- A stitch crossing (R410 to R416): the fields it joins, state 0 RESET, 1 TRAINING, 2 UP, 3 DEGRADED, 4 FAILED, its healthy
modules, those that lane repair works on (R413), the sequence state of its flits, and the module that carries the packets of each
direction, source router, class and destination field (R413). -/
structure Crossing where
  index : Nat
  fa : Nat
  fb : Nat
  cstate : Nat
  healthy : BitVec 16
  repairing : BitVec 16
  seqs : List FlitSeq
  lanes : List (Nat × Nat)
  deriving DecidableEq, Repr

/-! ## Multicast (R406 to R409) -/

/-- Where a multicast request stands (R407). -/
inductive McState where
  /-- On its way to its slice. -/
  | sent
  /-- Recorded in a session of its slice, and served by its reply. -/
  | joined (session : Nat)
  /-- Recorded in a session whose reply had left, and served by a unicast reply of its own. -/
  | late (session : Nat)
  /-- Served by a unicast reply of its own, in no session. -/
  | unicast
  deriving DecidableEq, Repr

/-- A request of an LDMC to one home slice (R406): `beats` are its 64-byte units still to be delivered, with the keys of
their first bytes, `lines` the lines that a unicast reply has read and `bad` those of them that were uncorrectable or poisoned then (R408). -/
structure McReq where
  id : Nat
  op : Nat
  warp : Nat
  core : Nat
  block : Nat
  launch : Nat
  field : Nat
  ctx : Nat
  slice : Nat
  rank : Nat
  members : BitVec 16
  len : Nat
  src : Dword
  alloc : Nat
  offset : Nat
  seq : Nat
  deps : List (Nat × Nat)
  scope : Nat
  mergeable : Bool
  state : McState
  beats : List (Nat × Access)
  lines : List (Nat × List Byte)
  bad : List Nat
  deriving DecidableEq, Repr

/-- A multicast session of a slice (R407): its key, whether its reply has left, the members recorded and those served, and
the lines its reply has read, with those that were uncorrectable or poisoned then (R408). One that is `freed` is in no table any more: its
reply goes on to the members that were recorded before it left. -/
structure McSession where
  id : Nat
  slice : Nat
  field : Nat
  ctx : Nat
  src : Dword
  len : Nat
  members : BitVec 16
  sent : Bool
  recorded : BitVec 16
  served : BitVec 16
  lines : List (Nat × List Byte)
  bad : List Nat
  freed : Bool
  deriving DecidableEq, Repr

/-- A line held dirty in a slice or in a vault cache part (R143, R395, R419), with its home slice, whether it may stand in a vault
cache part (R382) and the bytes that GDDR-7 still holds. -/
structure DirtyLine where
  line : Nat
  slice : Nat
  vcache : Bool
  old : List Host.Cell
  deriving DecidableEq, Repr

/-! ## Copies, graphs and frames -/

/-- A copy packet that a copy engine runs (R291, R339), with where its slot lay, its operation in its issuer's copies class
(R286), `pos` how many of its elements it has written and `before` what stood in the bytes that it has overwritten (R275, R293), `done`
once its writes are made, `windows` the slots and handles that it has written through (R236), and `fault` once it is a faulted copy: its
address. -/
structure CopyRun where
  id : Nat
  field : Nat
  engine : Nat
  ctx : Nat
  queue : Option Nat
  order : Nat
  inst : Option (Nat × Nat)
  packet : List Byte
  desc : List Byte
  tq : Nat
  task : Nat
  warp : Option Nat
  op : Nat
  block : Nat
  claimed : Option (Nat × Nat)
  session : Option Nat
  pos : Nat
  before : List Host.Cell
  windows : List (Nat × Dword) := []
  done : Bool
  fault : Option Dword
  deriving DecidableEq, Repr

/-- A reduction session of a field (R294): the exact sum of each destination word, as contributions; `cells` are the bytes of its range
from before its opening (R295), and it is `closed` once its results are written. -/
structure Session where
  field : Nat
  index : Nat
  ctx : Nat
  dst : Dword
  len : Nat
  expect : Nat
  words : List (List Word)
  runs : List Nat
  cells : List Host.Cell
  closed : Bool
  deriving DecidableEq, Repr

/-- The states of a tile (R330). -/
inductive TileState where
  | waiting
  | ready
  | running
  | retired
  deriving DecidableEq, Repr

/-- A tile of a PASS instance (R329 to R335): its wait count, and the slots it claimed, by resource and slot number. -/
structure Tile where
  index : Nat
  state : TileState
  wait : Nat
  slots : List (Nat × Nat)
  block : Nat
  deriving DecidableEq, Repr

/-- The states of an instance (R323). -/
inductive InstState where
  | issued
  | started
  | complete
  deriving DecidableEq, Repr

/-- An instance of a node (R322, R323): `turn` counts the earlier instances of the node, `producers` names per binding the
instance whose data it reads. -/
structure Inst where
  index : Nat
  node : Nat
  turn : Nat
  state : InstState
  tiles : List Tile
  producers : List (Option Nat)
  launch : Nat
  copy : Nat
  deriving DecidableEq, Repr

/-- A claimed slot of a Saggar (R319, R320): overflow slots follow the ring slots. -/
structure Slot where
  res : Nat
  slot : Nat
  inst : Nat
  tile : Nat
  count : Nat
  deriving DecidableEq, Repr

/-- The states of a graph (R314). -/
inductive GraphState where
  | submitted
  | running
  | complete
  deriving DecidableEq, Repr

/-- A graph (R314 to R327): its header, node and resource records as read at validation, each PASS node with its KINFO record and each
COPY node with its packet and tensor descriptor, the cursor, the loop counters, its instances and claimed slots, its STATUS bits, its places in RELQ and RETQ, and the warps and copies that have written for its completed
instances (R317, R323). -/
structure Graph where
  uid : Nat
  field : Nat
  ctx : Nat
  queue : Nat
  order : Nat
  task : Nat
  barrier : Bool
  state : GraphState
  addr : Dword
  header : List Byte
  nodes : List (List Byte)
  kinfos : List (List Byte)
  ress : List (List Byte)
  cursor : Nat
  loops : List Nat
  insts : List Inst
  slots : List Slot
  status : Word
  relIdx : Nat
  retIdx : Nat
  writers : List Nat
  deriving DecidableEq, Repr

/-- A 64 KiB frame of directly addressed vault storage (R276): its owner, whether it is clean, and the contexts whose copy was
written out. -/
structure VFrame where
  field : Nat
  frame : Nat
  owner : Nat
  clean : Bool
  out : List Nat
  deriving DecidableEq, Repr

/-- Who holds spawn memory (R363): a block for its JOIN image, or a population for the clone records of its launch. -/
inductive SpawnOwner where
  | image (block : Nat)
  | clones (launch : Nat)
  deriving DecidableEq, Repr

/-- Spawn memory of a column that is held (R310, R363, R377), slot tables aside. -/
structure SpawnHold where
  field : Nat
  column : Nat
  bytes : Nat
  owner : SpawnOwner
  deriving DecidableEq, Repr

/-- A revocation notice on its way to a field, or a drain marker on its way from one (R424). -/
structure Notice where
  field : Nat
  handle : Dword
  marker : Bool
  deriving DecidableEq, Repr

/-- A wear record (R434): remaining life in months, hours powered and corrected errors. -/
structure Wear where
  field : Nat
  life : Nat
  hours : Nat
  corrected : Nat
  deriving DecidableEq, Repr

/-- A firmware image's or the fuses' key digest and security version (R428). -/
structure Firmware where
  keyDigest : Nat
  version : Nat
  deriving DecidableEq, Repr

/-- A posted write on its way to another module (R427): the field that sent it, the handle, the offset and the bytes, or the count doorbell
that follows an item. -/
structure Post where
  field : Nat
  flight : Nat
  handle : Dword
  offset : Nat
  bytes : List Byte
  doorbell : Bool
  deriving DecidableEq, Repr

/-! ## The whole -/

/-- The ordering code of the module (R1), fused in it. -/
inductive Variant where
  | lk4160
  | lk2080
  | lk2080n
  deriving DecidableEq, Repr

/-- Who moves next: an issue turn of a warp, an event of the opcode table, an error that the part corrects, or the end of bring-up (log 3). -/
inductive Turn where
  | issue (warp : Nat)
  | event (ev : Instr)
  /-- A corrected ECC error: its field, its core, slice or vault, and its physical address (R433). -/
  | corrected (field unit addr : Nat)
  /-- The crossings have been trained: the self-test report of each field, and how many modules of each crossing trained (R428). -/
  | trained (report : List (Bool × BitVec 40 × BitVec 40 × BitVec 40)) (modules : List Nat)
  deriving DecidableEq, Repr

/-- What the fetch of the current word gave the instruction (R46): the slot of its split, the group's first word, the
word's own address and the address after it and its literal. -/
structure Fetch where
  slot : Nat
  start : Dword
  addr : Dword
  next : Dword
  deriving DecidableEq, Repr

/-- The machine. -/
structure State where
  /-- Turns still to come, read from the front (the model's own, log 3). -/
  agenda : List Turn
  /-- The warp that issues (the model's own, log 4). -/
  cur : Nat
  /-- What the fetch gave the current word (the model's own, log 4). -/
  fetch : Fetch
  /-- The argument of the opaque free values (the model's own, log 5). -/
  fresh : Nat
  /-- The next unused record number (the model's own). -/
  nextUid : Nat
  /-- The ordering code (R1). -/
  variant : Variant
  fields : List Field
  contexts : List Context
  queues : List Queue
  tlb : List TlbEntry
  misses : List Miss
  counted : List CountedItem
  packetOps : List PacketOp
  taskRetry : List TaskRetry
  handles : List Handle
  launches : List Launch
  populations : List Population
  blocks : List Block
  warps : List Warp
  /-- Bytes as the homes hold them, in canonical form (R125, R225). -/
  mem : List Host.Cell
  /-- The words stored while launches run, newest first, by the key of their first byte (R21, R138). -/
  stored : List (Nat × Word)
  constCache : List ConstWord
  l1 : List L1Line
  pend : List Pend
  proxy : List ProxyByte
  /-- The homes' field masks: the fields to whose proxies a line has been sent (R401). -/
  sharers : List (Nat × BitVec 4)
  localHome : List L1Line
  slices : List DirtyLine
  vaultDirty : List DirtyLine
  flights : List Flight
  areqs : List AtomReq
  /-- Writes to host memory that no flushing read has covered yet, by number, operation and warp (R227). -/
  hostWrites : List (Nat × Nat × Nat)
  shadows : List Shadow
  poison : List Nat
  badLines : List Nat
  crossings : List Crossing
  accums : List Accum
  engine : List EngJob
  mcReqs : List McReq
  mcSessions : List McSession
  cycles : List (Nat × Dword)
  copies : List CopyRun
  sessions : List Session
  graphs : List Graph
  frames : List VFrame
  spawn : List SpawnHold
  /-- Ranges of keys of save regions and spawn memory that hold what the part has written there for itself (R275, R310, R363). -/
  ownRanges : List (Nat × Nat)
  notices : List Notice
  /-- Contexts whose DESTROY waits for its handles (R424). -/
  destroying : List (Nat × Nat)
  /-- The error log of BAR2 and its count (R433). -/
  errorLog : List (List Byte)
  errorCount : Word
  wear : List Wear
  /-- The power samples of the last 1 ms, newest first, in mW, and for how many samples in a row their mean has been below 800 W (R429). -/
  power : List Nat
  powerLow : Nat
  /-- The fused key digest and security version, and those of the image in flash (R428). -/
  fuses : Firmware
  flash : Firmware
  /-- The host link has been started, and the functions that the module presents (R18, R428). -/
  hostLink : Bool
  functions : BitVec 4
  /-- Writes on their way to other modules (R427). -/
  posts : List Post
  /-- The firmware image passed its check (R428). -/
  up : Bool
  /-- The bytes that the part last returned to the host (R284, R419). -/
  hostData : List Byte
  deriving DecidableEq, Repr

/-! ## Reset -/

/-- The stitch crossings of an ordering code (R6, R14): index and fields. -/
def Variant.links (v : Variant) : List (Nat × Nat × Nat) :=
  if v = .lk4160 then [(0, 0, 1), (1, 2, 3), (2, 0, 2), (3, 1, 3)] else [(0, 0, 1)]

/-- A crossing before training (R410). -/
def resetCrossing (x : Nat × Nat × Nat) : Crossing where
  index := x.1
  fa := x.2.1
  fb := x.2.2
  cstate := 0
  healthy := 0
  repairing := 0
  seqs := []
  lanes := []

/-- The machine right after power-on, before BRING_UP (R428): no table has a row but that of the crossings, which are in RESET (R410). Which of the three ordering codes of R1 the module is stays
open in the rules; that it is an LK-4160 here is the model's choice (DESIGN CHOICE, log 2). -/
def State.reset : State where
  agenda := []
  cur := 0
  fetch := { slot := 0, start := 0, addr := 0, next := 0 }
  fresh := 0
  nextUid := 1
  variant := .lk4160
  fields := []
  contexts := []
  queues := []
  tlb := []
  misses := []
  counted := []
  packetOps := []
  taskRetry := []
  handles := []
  launches := []
  populations := []
  blocks := []
  warps := []
  mem := []
  stored := []
  constCache := []
  l1 := []
  pend := []
  proxy := []
  sharers := []
  localHome := []
  slices := []
  vaultDirty := []
  flights := []
  areqs := []
  hostWrites := []
  shadows := []
  poison := []
  badLines := []
  crossings := Variant.lk4160.links.map resetCrossing
  accums := []
  engine := []
  mcReqs := []
  mcSessions := []
  cycles := []
  copies := []
  sessions := []
  graphs := []
  frames := []
  spawn := []
  ownRanges := []
  notices := []
  destroying := []
  errorLog := []
  errorCount := 0
  wear := []
  power := []
  powerLow := 0
  fuses := { keyDigest := 0, version := 0 }
  flash := { keyDigest := 0, version := 0 }
  hostLink := false
  functions := 0
  posts := []
  up := false
  hostData := []

/-- Why a step stops with a fault. -/
inductive Fault where
  /-- An instruction was executed with `cur` naming no warp, or no split in the fetched slot. Raised by every
  instruction's issue; `step` never reaches it, since it only executes for the warp it has fetched for. Safe: the
  hardware has no such step. -/
  | noIssuer
  deriving DecidableEq, Repr

/-- Why a step is refused. -/
inductive Refusal where
  /-- An arm of `exec` with no meaning yet, by the mnemonic of the opcode table. Safe: nothing is claimed of it. -/
  | notModelled (mnemonic : String)
  deriving DecidableEq, Repr

end Sys2Proof.Machine
end

