-- ==== Sys2Proof/Machine/Mem.lean ====
section
/-! DEFINITION. Memory as the homes hold it, the tables of records, translation (24_page.md) and the homes of lines
(R386 to R388). -/

namespace Sys2Proof.Machine

open Sys2Proof

/-! ## Byte memory -/

/-- What a byte that is not listed reads as (log 1). -/
def unlisted : Byte := 0

/-- The byte at a key. -/
def memGet : List Host.Cell → Nat → Byte
  | [], _ => unlisted
  | (a, b) :: t, k => if a = k then b else if k < a then unlisted else memGet t k

/-- Write one byte, keeping the canonical form: keys strictly rising and no cell equal to what is unlisted. -/
def memSet : List Host.Cell → Nat → Byte → List Host.Cell
  | [], k, b => if b = unlisted then [] else [(k, b)]
  | (a, x) :: t, k, b =>
    if k < a then (if b = unlisted then (a, x) :: t else (k, b) :: (a, x) :: t)
    else if k = a then (if b = unlisted then t else (k, b) :: t)
    else (a, x) :: memSet t k b

/-- Whether a cell list is listed with keys strictly above a bound (exclusive when given) and no unlisted value. -/
def cellsAbove : Option Nat → List Host.Cell → Bool
  | _, [] => true
  | lo, (a, b) :: t =>
    (match lo with
      | none => true
      | some l => decide (l < a)) && decide (b ≠ unlisted) && cellsAbove (some a) t

/-- The canonical form of a byte memory. -/
def Memory.wf (m : List Host.Cell) : Bool := cellsAbove none m

/-- Bytes k, k + 1, ... -/
def memRead (m : List Host.Cell) (k n : Nat) : List Byte := (List.range n).map fun i => memGet m (k + i)

/-- Write bytes from k upward. -/
def memWrite (m : List Host.Cell) (k : Nat) : List Byte → List Host.Cell
  | [] => m
  | b :: bs => memWrite (memSet m k b) (k + 1) bs

/-- Write a list of cells. -/
def memCells (m : List Host.Cell) (cs : List Host.Cell) : List Host.Cell :=
  cs.foldl (fun m c => memSet m c.1 c.2) m

/-- A cell of an unordered cell list, if it is there. -/
def cellGet? (cs : List Host.Cell) (k : Nat) : Option Byte := (cs.find? fun c => c.1 == k).map (·.2)

/-- Add a cell to an unordered cell list, replacing one of the same key. -/
def cellPut (cs : List Host.Cell) (k : Nat) (b : Byte) : List Host.Cell := (k, b) :: cs.filter fun c => c.1 != k

/-! ## Keys -/

/-- The key of a byte: its target (0 local memory, 1 vault, 2 host, 3 peer window), its field and its physical address
(R382). Host memory has field 0. -/
def physKey (target field pa : Nat) : Nat := (target * 4 + field) * 2 ^ 52 + pa

def keyTarget (k : Nat) : Nat := k / 2 ^ 52 / 4
def keyField (k : Nat) : Nat := k / 2 ^ 52 % 4
def keyPa (k : Nat) : Nat := k % 2 ^ 52

/-- The line of a key: 128 bytes (R386). -/
def lineOf (k : Nat) : Nat := k / 128

/-- A free bit and a free word of this step, by number (log 5). -/
def State.someBit (s : State) (j : Nat) : Bool := Config.freeBit (s.fresh * 65536 + j)
def State.someWord (s : State) (j : Nat) : Word := Config.freeWord (s.fresh * 65536 + j)

/-- A byte as the homes hold it. -/
def State.readByte (s : State) (k : Nat) : Byte := memGet s.mem k

/-- n bytes as a little-endian number. -/
def State.readNat (s : State) (k n : Nat) : Nat := leNat (memRead s.mem k n)

/-- Write the n low bytes of a number at the homes. -/
def State.writeNat (s : State) (k n x : Nat) : State := { s with mem := memWrite s.mem k (leBytes n x) }

/-! ## Tables of records -/

def State.field? (s : State) (f : Nat) : Option Field := s.fields.find? (·.number == f)
def State.ctx? (s : State) (f c : Nat) : Option Context := s.contexts.find? fun x => x.field == f && x.ctxid == c
def State.warp? (s : State) (u : Nat) : Option Warp := s.warps.find? (·.uid == u)
def State.block? (s : State) (u : Nat) : Option Block := s.blocks.find? (·.uid == u)
def State.launch? (s : State) (u : Nat) : Option Launch := s.launches.find? (·.uid == u)
def State.pop? (s : State) (u : Nat) : Option Population := s.populations.find? (·.launch == u)
def State.queue? (s : State) (f q : Nat) : Option Queue := s.queues.find? fun x => x.field == f && x.q == q
def State.handle? (s : State) (f i : Nat) : Option Handle := s.handles.find? fun x => x.field == f && x.index == i

def State.modField (s : State) (f : Nat) (g : Field → Field) : State :=
  { s with fields := mapWhere (fun x => x.number == f) g s.fields }
def State.modCtx (s : State) (f c : Nat) (g : Context → Context) : State :=
  { s with contexts := mapWhere (fun x => x.field == f && x.ctxid == c) g s.contexts }
def State.modWarp (s : State) (u : Nat) (g : Warp → Warp) : State :=
  { s with warps := mapWhere (fun x => x.uid == u) g s.warps }
/-- An operation of a warp has come one step further (R313). -/
def State.noteDone (s : State) (u : Nat) : State := s.modWarp u fun w => { w with doneAt := s.fresh }

def State.modBlock (s : State) (u : Nat) (g : Block → Block) : State :=
  { s with blocks := mapWhere (fun x => x.uid == u) g s.blocks }
def State.modLaunch (s : State) (u : Nat) (g : Launch → Launch) : State :=
  { s with launches := mapWhere (fun x => x.uid == u) g s.launches }
def State.modPop (s : State) (u : Nat) (g : Population → Population) : State :=
  { s with populations := mapWhere (fun x => x.launch == u) g s.populations }
def State.modQueue (s : State) (f q : Nat) (g : Queue → Queue) : State :=
  { s with queues := mapWhere (fun x => x.field == f && x.q == q) g s.queues }
def State.modHandle (s : State) (f i : Nat) (g : Handle → Handle) : State :=
  { s with handles := mapWhere (fun x => x.field == f && x.index == i) g s.handles }

/-- The field of a core (R8). -/
def fieldOfCore (core : Nat) : Nat := core / 40

/-- A warp's field. -/
def Warp.field (w : Warp) : Nat := fieldOfCore w.core

/-- The launch a warp belongs to. -/
def State.launchOf (s : State) (w : Warp) : Option Launch := (s.block? w.block).bind fun b => s.launch? b.launch

/-- The context number of a warp (R123); one of a killed context whose queue still drains keeps it (R266). -/
def State.ctxidOf (s : State) (w : Warp) : Nat := w.orphan.getD (((s.launchOf w).map (·.ctx)).getD 0)

/-- The context of a warp. -/
def State.ctxOf (s : State) (w : Warp) : Option Context := s.ctx? w.field (s.ctxidOf w)

/-- A word of BAR0 (R419); a word never written reads 0 (log 9). -/
def State.reg (s : State) (f off : Nat) : Word :=
  (((s.field? f).bind fun x => x.regs.find? (·.1 == off)).map (·.2)).getD 0

/-- The bits that a word of BAR0 has (R267, R282, R392 to R394, R421, R426): any others are reserved, and take no write (R4). -/
def regMask (off : Nat) : Word :=
  let word := off / 4
  if off < 0x1000 then 0
  else if off < 0x1200 then (if off % 0x100 < 0x14 ∨ off = 0x1120 then 0xFFFFFFFF#32 else 0)
  else if off < 0x2000 then (if off ≤ 0x1220 ∨ off = 0x1228 ∨ off = 0x122C then 0xFFFFFFFF#32 else 0)
  else if off < 0x2400 then (if word % 4 = 2 then 0xFFFF#32 else if word % 4 = 3 then 0x301#32 else 0xFFFFFFFF#32)
  else if off < 0x3000 then 0
  else if off < 0x3014 then 0xFFFFFFFF#32
  else if 0x3100 ≤ off ∧ off < 0x311C then (if off = 0x310C then 0 else 0xFFFFFFFF#32)
  else if 0x5000 ≤ off ∧ off < 0x5200 then 0xFFFFFFFF#32
  else if off = 0x5400 then 0xF#32
  else 0

/-- Write a word of BAR0. -/
def State.setReg (s : State) (f off : Nat) (v : Word) : State :=
  s.modField f fun x => { x with regs := (off, v &&& regMask off) :: x.regs.filter (·.1 != off) }

/-! ## Shadows at the home (R96) -/

/-- The bytes of a shadow's element. -/
def Shadow.size (h : Shadow) : Nat := if h.fmt = 13 then 2 else 1

/-- The stored form of a shadow: RN; E4M3 saturates to 448 and keeps NaN as 0x7F (R96). -/
def Shadow.stored (h : Shadow) : Nat :=
  let v := fp32.decode h.value.toNat
  if h.fmt = 13 then (roundVal bf16 .rn v).1
  else
    match v with
    | .nan _ => 0x7F
    | .inf neg => e4m3.signBits neg + e4m3.maxBits
    | .fin neg m e => (roundRat e4m3 .rn true neg m 1 e).1

/-- Whether a shadow's element stands in the line of one of the keys (R96). -/
def Shadow.touches (h : Shadow) (keys : List Nat) : Bool := keys.any fun k => lineOf k == lineOf h.key

/-- Remember the words that a write has touched, as they are now, while any launch is listed (R21, R138). -/
def State.remember (s : State) (keys : List Nat) : State :=
  if s.launches.isEmpty then s
  else
    let words := dedupNat (keys.map fun k => k / 4 * 4)
    { s with stored := (words.map fun k => (k, (BitVec.ofNat 32 (s.readNat k 4) : Word))) ++ s.stored }

/-- Whether a shadow's element has a byte among the keys. -/
def Shadow.meets (h : Shadow) (keys : List Nat) : Bool := keys.any fun k => decide (h.key ≤ k ∧ k < h.key + h.size)

/-- Round some shadows: the stored element is written, and the shadow, reloaded from it with its count cleared, is the stored
value again (R96). -/
def State.roundThose (s : State) (hits : Shadow → Bool) : State :=
  let hit := s.shadows.filter hits
  ({ s with
    mem := hit.foldl (fun m h => memWrite m h.key (leBytes h.size h.stored)) s.mem
    shadows := s.shadows.filter fun h => !hits h } : State).remember (hit.map (·.key))

/-- Round the shadows of the lines that a non-atomic access reaches (R96). -/
def State.roundShadows (s : State) (keys : List Nat) : State := s.roundThose (·.touches keys)

/-! ## Homes -/

/-- The fields that are present (R16, R18). -/
def State.present (s : State) (f : Nat) : Bool :=
  match s.field? f with
  | some x => x.fstate == 1
  | none => false

/-- The healthy slices of a field by global number, ascending; the table is fixed at bring-up (R387). -/
def State.slicesOf (s : State) (f : Nat) : List Nat :=
  match s.field? f with
  | some x => ((List.range 40).filter fun n => x.slices.getLsbD n).map (40 * f + ·)
  | none => []

/-- Every healthy slice of every present field (R387). -/
def State.allSlices (s : State) : List Nat := (List.range 4).flatMap s.slicesOf

/-- The hash of a line (R386). -/
def lineHash (target pa : Nat) : Nat :=
  let y := (target * 2 ^ 52 + pa) / 128 % 2 ^ 64
  let z := y * 0x9E3779B97F4A7C15 % 2 ^ 64
  let z := z ^^^ (z / 2 ^ 29)
  z / 2 ^ 32 % 2 ^ 32

/-- Entry (H × N) >> 32 of a table of slices (R387, R402). -/
def pickSlice (table : List Nat) (h : Nat) : Nat := table.getD (h * table.length / 2 ^ 32) 0

/-- Page-table entry fields (R382). -/
def pteTarget (p : Dword) : Nat := (p.extractLsb' 62 2).toNat
def ptePslice (p : Dword) : Nat := (p.extractLsb' 54 8).toNat
def pteSmode (p : Dword) : Nat := (p.extractLsb' 52 2).toNat
def ptePfn (p : Dword) : Nat := (p.extractLsb' 12 40).toNat
def pteCclass (p : Dword) : Nat := (p.extractLsb' 10 2).toNat
def pteCow (p : Dword) : Bool := p.getLsbD 9
def pteX (p : Dword) : Bool := p.getLsbD 8
def pteW (p : Dword) : Bool := p.getLsbD 7
def pteR (p : Dword) : Bool := p.getLsbD 6
def pteSize (p : Dword) : Nat := (p.extractLsb' 3 3).toNat
def pteLeaf (p : Dword) : Bool := p.getLsbD 2
def pteVcache (p : Dword) : Bool := p.getLsbD 1
def pteV (p : Dword) : Bool := p.getLsbD 0

/-- log2 of the page size of a SIZE code (R381, R382). -/
def pageBits (size : Nat) : Nat :=
  match size with
  | 0 => 12
  | 1 => 16
  | 2 => 21
  | 3 => 25
  | _ => 30

/-- The leaf sizes of a level (R381). -/
def leafSizeOk (level size : Nat) : Bool :=
  match level with
  | 0 => size == 0 || size == 1
  | 1 => size == 2 || size == 3
  | 2 => size == 4
  | _ => false

/-- A malformed leaf entry (R383), the 16-entry groups aside. -/
def leafMalformed (membytes vaultdir : Nat) (coremask : BitVec 40) (level : Nat) (p : Dword) : Bool :=
  let pa := ptePfn p * 2 ^ 12
  let size := 2 ^ pageBits (pteSize p)
  pteSmode p == 3 || decide (2 ≤ pteCclass p) || !leafSizeOk level (pteSize p) ||
  pa % size != 0 ||
  (pteTarget p == 0 && decide (membytes < pa + size)) ||
  (pteSmode p == 1 && pteW p) || (ptePslice p != 0 && pteSmode p != 2) ||
  (pteTarget p == 1 &&
    (decide (2 < pteSize p) || pteSmode p != 0 || pteVcache p || !coremask.getLsbD (pa / 2 ^ 25) ||
      decide ((vaultdir - 2) * 2 ^ 20 < pa % 2 ^ 25 + size))) ||
  (pteTarget p == 3 && (pteR p || pteX p || pteSmode p != 0 || pteVcache p))

/-- A malformed non-leaf entry (R382, R383): only V, LEAF and PFN may be set. -/
def pointerMalformed (level : Nat) (p : Dword) : Bool :=
  level == 0 || decide (p &&& 0xFFF0000000000FFE#64 ≠ 0)

/-- The bits of a virtual address that index a level, from the level's lowest bit (R381). -/
def levelIndex (level va : Nat) : Nat :=
  match level with
  | 3 => bitsOf va 55 43
  | 2 => bitsOf va 42 30
  | 1 => bitsOf va 29 21
  | _ => bitsOf va 20 12

/-- The keys of an entry's bytes. -/
def tableKeys (k : Nat) : List Nat := (List.range 8).map (k + ·)

/-- An entry as a walk reads it, the shadows of its line rounded as by a load (R96, R381). -/
def State.tableNat (s : State) (k : Nat) : Nat := if s.shadows.isEmpty then s.readNat k 8 else (s.roundShadows (tableKeys k)).readNat k 8

/-- Walk from a level downward (R381, R383, R384): the leaf entry, or none for TRANSLATION_MISS. -/
def State.walkFrom (s : State) (f : Nat) (c : Context) (va : Nat) : Nat → Nat → Option Dword
  | fuel, table =>
    let membytes := ((s.field? f).map (·.membytes)).getD 0
    let idx := levelIndex fuel va
    let p : Dword := BitVec.ofNat 64 (s.tableNat (physKey 0 f (table + 8 * idx)))
    if !pteV p then none
    else if pteLeaf p then
      if leafMalformed membytes c.vaultdir c.coremask fuel p then none
      else if (pteSize p == 1 || pteSize p == 3) &&
          !((List.range 16).all fun i => s.tableNat (physKey 0 f (table + 8 * (idx / 16 * 16 + i))) == p.toNat) then none
      else some p
    else if pointerMalformed fuel p then none
    else
      match fuel with
      | 0 => none
      | fuel + 1 => s.walkFrom f c va fuel (ptePfn p * 2 ^ 12)

/-- The walk of a context's tables (R381, R384). -/
def State.walk (s : State) (c : Context) (va : Nat) : Option Dword := s.walkFrom c.field c va 3 c.ptroot.toNat

/-- The base of the read-only mapping of spawn memory, as a 56-bit address (R363). -/
def spawnBase : Nat := 0xFFFF0000000000

/-- The physical address of byte `off` of a column's spawn memory: the upper 512 KiB of its save region (R363). -/
def spawnPa (vaultdir column off : Nat) : Nat := column * 2 ^ 25 + vaultdir * 2 ^ 20 - 2 ^ 19 + off

/-- The keys of the entries that a walk from a level downward reads. -/
def State.walkKeysFrom (s : State) (f va : Nat) : Nat → Nat → List Nat
  | level, table =>
    let k := physKey 0 f (table + 8 * levelIndex level va)
    let p : Dword := BitVec.ofNat 64 (s.tableNat k)
    tableKeys k ++
      if !pteV p || pteLeaf p || pointerMalformed level p then []
      else
        match level with
        | 0 => []
        | level + 1 => s.walkKeysFrom f va level (ptePfn p * 2 ^ 12)

/-- The keys that a walk of a context's tables reads. -/
def State.walkKeys (s : State) (c : Context) (va : Nat) : List Nat := s.walkKeysFrom c.field va 3 c.ptroot.toNat

/-- What an access needs (R385). -/
inductive AccKind where
  | load
  | store
  | atom
  | red
  | fetch
  deriving DecidableEq, Repr

/-- The kind recorded in a fault record (R393). -/
def AccKind.code : AccKind → Nat
  | .load => 0
  | .store => 1
  | .fetch => 2
  | .atom => 3
  | .red => 3

/-- A translated place: the key of the byte, the field and the slice of its home, whether the page is LOCAL or non-temporal, whether vault cache
parts may hold the line (VCACHE, unless the page is non-temporal), and the window slot and handle it is stored through. -/
structure Place where
  key : Nat
  home : Nat
  slice : Nat
  isLocal : Bool
  nt : Bool
  vcache : Bool
  win : Option Nat
  handle : Dword
  offset : Nat
  peer : Bool
  deriving DecidableEq, Repr

/-- The outcome of checking one access: a place, a cause of R212, or a wait for a walk or a host-assisted fill. -/
inductive AccResult where
  | ok (p : Place)
  | trap (code : Nat)
  | wait
  deriving DecidableEq, Repr

/-- A field's clock runs: it is present, and the PMC has not stopped it (R429, R432). -/
def State.clocked (s : State) (f : Nat) : Bool := (s.field? f).any fun x => x.fstate == 1 && !x.stopped

/-- The field g can be reached from f (R415): route 0 is none. -/
def State.reachable (s : State) (f g : Nat) : Bool :=
  f == g ||
    match s.field? f with
    | some x => ((x.route[g]?).getD 0) != 0 && s.present g
    | none => false

/-- The module answers configuration requests for a field's function (R18, R428). -/
def State.presents (s : State) (f : Nat) : Bool := s.hostLink && s.functions.getLsbD f

/-- The host reaches a field's function: traffic enters at F0 and is relayed (R418). -/
def State.hostReach (s : State) (f : Nat) : Bool := s.presents f && s.present f && s.reachable 0 f

/-- The vault of a column is online (R17, R395). -/
def State.vaultOnline (s : State) (f column : Nat) : Bool :=
  match s.field? f with
  | some x => x.vaultmask.getLsbD column
  | none => false

def Context.win? (c : Context) (slot : Nat) : Option WinSlot := c.wins.find? (·.slot == slot)

/-- The fields of a handle (R420). -/
def handleModule (h : Dword) : Nat := (h.extractLsb' 60 4).toNat
def handleField (h : Dword) : Nat := (h.extractLsb' 58 2).toNat
def handleEntry (h : Dword) : Nat := (h.extractLsb' 48 8).toNat
def handleGen (h : Dword) : Word := h.extractLsb' 0 32

/-- The module number word of a field (R426). -/
def State.moduleOf (s : State) (f : Nat) : Nat := ((s.field? f).map (·.moduleNo)).getD 0

/-- The bus address of the peer field a handle names, 0 for none (R426). -/
def State.peerAddr (s : State) (f : Nat) (h : Dword) : Nat :=
  let i := 4 * handleModule h + handleField h
  match s.field? f with
  | some x =>
    let g : Nat → Nat := fun k => (((x.peers.find? fun (e : Nat × Word) => e.1 == k).map fun (e : Nat × Word) => e.2).getD 0).toNat
    g (2 * i) + 2 ^ 32 * g (2 * i + 1)
  | none => 0

/-- The checks of a window access at issue and its place (R423). The pages of TARGET 3 name slot and page index. -/
def State.windowPlace (s : State) (f : Nat) (c : Context) (p : Dword) (va : Nat) : AccResult :=
  let pf := ptePfn p + va % 2 ^ pageBits (pteSize p) / 2 ^ 12
  let slot := pf / 2 ^ 32 % 256
  let off := pf % 2 ^ 32 * 2 ^ 12 + va % 2 ^ 12
  match c.win? slot with
  | none => .trap 32
  | some w =>
    if w.kind ≠ 1 ∨ w.len * 2 ^ 12 ≤ off then .trap 32
    else if w.revoked then .trap 38
    else
      let peer := handleModule w.handle != s.moduleOf f
      if peer && s.peerAddr f w.handle == 0 then .trap 37
      else if !peer && !s.reachable f (handleField w.handle) then .trap 39
      else
        let g := handleField w.handle
        -- slots with one handle name the same bytes: the lowest of them stands for all
        let same := (List.range slot).find? fun i => (c.win? i).any fun x => x.kind == 1 && x.handle == w.handle
        let key :=
          if peer then physKey 3 f (same.getD slot * 2 ^ 44 + off)
          else
            match s.handle? g (handleEntry w.handle) with
            | some h => physKey h.target g (h.base + off)
            | none => physKey 3 f (slot * 2 ^ 44 + off)
        let slice := if keyTarget key = 1 then 40 * g + keyPa key / 2 ^ 25 else pickSlice (s.slicesOf g) (lineHash (keyTarget key) (keyPa key))
        if keyTarget key = 1 && !s.vaultOnline g (keyPa key / 2 ^ 25) then .trap 36
        else .ok { key := key, home := g, slice := slice, isLocal := false, nt := pteCclass p == 1, vcache := false, win := some slot,
                   handle := w.handle, offset := off, peer := peer }

/-- The place of a byte of a leaf that passed R385, with the issue checks of R389, R395 and R417. -/
def State.leafPlace (s : State) (f : Nat) (c : Context) (p : Dword) (va : Nat) : AccResult :=
  let pa := ptePfn p * 2 ^ 12 + va % 2 ^ pageBits (pteSize p)
  if pteTarget p = 3 then s.windowPlace f c p va
  else if pteTarget p = 1 then
    if !s.vaultOnline f (pa / 2 ^ 25) then .trap 36
    else .ok { key := physKey 1 f pa, home := f, slice := 40 * f + pa / 2 ^ 25, isLocal := false, nt := pteCclass p == 1, vcache := false, win := none,
               handle := 0, offset := 0, peer := false }
  else
    let h := lineHash (pteTarget p) pa
    let key := physKey (pteTarget p) (if pteTarget p = 2 then 0 else f) pa
    let mk := fun slice home isLocal =>
      if !s.reachable f home then AccResult.trap 39
      else .ok { key := key, home := home, slice := slice, isLocal := isLocal, nt := pteCclass p == 1, vcache := pteVcache p && pteCclass p != 1, win := none,
                 handle := 0, offset := 0, peer := false }
    match pteSmode p with
    | 0 => mk (pickSlice s.allSlices h) (pickSlice s.allSlices h / 40) false
    | 1 => mk (pickSlice (s.slicesOf f) h) f true
    | _ =>
      if ptePslice p < 160 ∧ s.allSlices.contains (ptePslice p) then mk (ptePslice p) (ptePslice p / 40) false else .trap 27

/-- The permission check of R385: the cause, if it fails. -/
def permFault (k : AccKind) (p : Dword) : Option Nat :=
  match k with
  | .load => if pteR p then none else some 19
  | .store => if pteW p && !pteCow p then none else some 20
  | .red => if pteW p && !pteCow p then none else some 20
  | .atom => if !pteR p then some 19 else if pteW p && !pteCow p then none else some 20
  | .fetch => if pteX p then none else some 21

/-- The translation of a page: a cached entry if one is held (R380, R390), a miss once a walk or the host has found no valid one, else a wait for
a walk, or for the host under host-assisted fill (R393). -/
inductive Trans where
  | leaf (p : Dword)
  | miss
  | wait
  deriving DecidableEq, Repr

/-- The core of the warp that issues; none for a unit of the part. -/
def State.curCore (s : State) : Option Nat := (s.warp? s.cur).map (·.core)

/-- The entry of a page that a TLB holds: the issuing core's own, else the field's shared one (R390). -/
def State.cachedPte (s : State) (c : Context) (page : Nat) : Option Dword :=
  let mine : Option Nat → TlbEntry → Bool := fun core e => e.core == core && e.field == c.field && e.ctx == c.ctxid && e.page == page
  ((s.tlb.find? fun e => e.core.isSome && mine s.curCore e).or (s.tlb.find? (mine none))).map (·.pte)

/-- A field's miss table is full (R390). -/
def State.missFull (s : State) (f : Nat) : Bool := decide (64 ≤ (s.misses.filter fun m => m.field == f && !m.answered).length)

/-- The translation of a page (see `Trans`): the access that misses both TLBs waits for the walk or the fill that it joins (R390). -/
def State.translate (s : State) (c : Context) (va : Nat) : Trans :=
  match s.cachedPte c (va / 2 ^ 12) with
  | some p => .leaf p
  | none =>
    if s.misses.any fun m => m.field == c.field && m.ctx == c.ctxid && m.page == va / 2 ^ 12 && m.answered && m.joined.contains s.cur then
      .miss
    else .wait

/-- The entry of the page at an address where a check looks at the page alone: a cached one, else what the context's tables hold now, which the host's
answers hold too (R20, R394, log 135). -/
def State.leafNow (s : State) (c : Context) (a : Dword) : Option Dword :=
  if spawnBase ≤ va56 a ∧ va56 a < spawnBase + 40 * 2 ^ 19 then none
  else (s.cachedPte c (va56 a / 2 ^ 12)).or (s.walk c (va56 a))

/-- The TARGET of the page at an address, whatever its permissions: none where it has no valid entry. -/
def State.leafTarget (s : State) (c : Context) (a : Dword) : Option Nat := (s.leafNow c a).map pteTarget

/-- The key of the byte at an address, whatever its page's permissions. -/
def State.keyNow (s : State) (c : Context) (a : Dword) : Option Nat :=
  (s.leafNow c a).bind fun p =>
    match s.leafPlace c.field c p (va56 a) with
    | .ok q => some q.key
    | _ => none

/-- A byte of directly addressed vault storage stands in a frame that a context does not own: its touch waits for the frame (R276). -/
def State.frameLost (s : State) (ctx k : Nat) : Bool :=
  keyTarget k == 1 && match s.frames.find? fun x => x.field == keyField k && x.frame == keyPa k / 2 ^ 16 with
    | some x => x.owner != ctx
    | none => true

/-- The context whose vault storage an access touches: the exporter's through a window (R421). -/
def State.toucher (s : State) (ctx home : Nat) (win : Option Nat) (h : Dword) : Nat :=
  if win.isNone then ctx else ((s.handle? home (handleEntry h)).map (·.ctx)).getD 0

/-- A place whose frame is another context's, or none's. -/
def State.frameAway (s : State) (c : Context) (p : Place) : Bool := s.frameLost (s.toucher c.ctxid p.home p.win p.handle) p.key

/-- An access that has passed its checks, or the wait for its frame. -/
def State.touch (s : State) (c : Context) (r : AccResult) : AccResult :=
  match r with
  | .ok p => if s.frameAway c p then .wait else .ok p
  | x => x

/-- Check one access of a context at a canonical address (R363, R385, R389, R395, R423). -/
def State.access (s : State) (c : Context) (k : AccKind) (a : Dword) : AccResult :=
  let va := va56 a
  if spawnBase ≤ va ∧ va < spawnBase + 40 * 2 ^ 19 then
    let column := (va - spawnBase) / 2 ^ 19
    match k with
    | .fetch => .trap 21
    | .load =>
      if !s.vaultOnline c.field column then .trap 36
      else s.touch c (.ok { key := physKey 1 c.field (spawnPa c.vaultdir column ((va - spawnBase) % 2 ^ 19)), home := c.field,
                            slice := 40 * c.field + column, isLocal := false, nt := false, vcache := false, win := none,
                            handle := 0, offset := 0, peer := false })
    | _ => .trap 20
  else
    match s.translate c va with
    | .wait => .wait
    | .miss => .trap 18
    | .leaf p =>
      match permFault k p with
      | some code => .trap code
      | none => s.touch c (s.leafPlace c.field c p va)

/-- A field's fault ring has no room for a record: its indices run modulo 2^32 (R393). -/
def State.ringFull (s : State) (f : Nat) : Bool :=
  decide (2 ^ (s.reg f 0x3008).toNat ≤ (s.reg f 0x300C - s.reg f 0x3010).toNat)

/-- Write the record of a miss into the field's fault ring, SEQ last (R393). -/
def State.missRecord (s : State) (f : Nat) (m : Miss) : State :=
  let log := (s.reg f 0x3008).toNat
  let wr := (s.reg f 0x300C).toNat
  let base := (s.reg f 0x3000).toNat + 2 ^ 32 * (s.reg f 0x3004).toNat
  let addr := physKey 2 0 (base + 16 * (wr % 2 ^ log))
  let s := s.writeNat addr 8 (m.page * 2 ^ 12 + m.kind)
  let s := s.writeNat (addr + 8) 2 m.ctx
  let s := s.writeNat (addr + 10) 2 (if m.joined = [0] then 0 else 1)
  let s := s.writeNat (addr + 12) 4 (wr + 1)
  s.setReg f 0x300C (BitVec.ofNat 32 (wr + 1))

/-- Record a miss for the warp `cur`, or for a unit where that is 0 (R390, R393): it joins the pending entry of its page, or claims a new
miss-table entry, for a walk or, under host-assisted fill, with its record in the field's fault ring; nothing when the table or the ring is
full. -/
def State.noteMiss (s : State) (c : Context) (k : AccKind) (a : Dword) : State :=
  let f := c.field
  let page := va56 a / 2 ^ 12
  let here_ : Miss → Bool := fun m => m.field == f && m.ctx == c.ctxid && m.page == page && !m.answered
  if s.translate c (va56 a) ≠ .wait then s
  else if s.misses.any here_ then
    let join : Miss → Miss := fun m => { m with joined := if m.joined.contains s.cur then m.joined else s.cur :: m.joined }
    { s with misses := mapWhere here_ join s.misses }
  else
    let m : Miss := { field := f, ctx := c.ctxid, page := page, kind := k.code, joined := [s.cur], answered := false }
    let hosted := c.modes.getLsbD 0
    if s.missFull f || (hosted && s.ringFull f) then s
    else
      let s := { s with misses := s.misses ++ [m] }
      if hosted then s.missRecord f m else s

end Sys2Proof.Machine
end

