-- ==== Sys2Proof/Machine/Order.lean ====
section
/-! DEFINITION. Memory order: what a load reads and when it completes, how a store-queue entry drains, and how its bytes
reach their homes and are acknowledged (12_order_core.md, 13_order_fabric.md, 25_network.md). -/

namespace Sys2Proof.Machine

open Sys2Proof

/-- The leaf entry that a walk finds, and the machine once the shadows of the lines that it reads are rounded (R96, R381). -/
def State.walkNow (s : State) (c : Context) (va : Nat) : State × Option Dword :=
  let s := s.roundShadows (s.walkKeys c va)
  (s, s.walk c va)

/-! ## Performing (R227) -/

/-- Add operations to a list of numbers without repeats. -/
def addNats (l : List Nat) (xs : List Nat) : List Nat := l ++ (dedupNat xs).filter fun x => !l.contains x

/-- Whether an operation of the stores class still stands in some warp's queue. -/
def State.queued (s : State) (op : Nat) : Bool := s.warps.any fun w => w.sq.any fun e => e.id == op

/-- A store's line access is performed at a scope, 0 CORE to 3 SYSTEM (R227); it has drained. -/
def Flight.performed (f : Flight) (scope : Nat) : Bool :=
  match scope with
  | 0 => true
  | 1 => if f.peer then f.applied else f.leaving && !f.gmode && !f.kept
  | 2 => f.peer && f.applied
  | _ => false

/-- A write of an operation to host memory has no flushing read behind it yet (R227). -/
def State.hostOpen (s : State) (op : Nat) : Bool := s.hostWrites.any fun (x : Nat × Nat × Nat) => x.2.1 == op

/-- A store, RED or FLUSHV is performed at a scope (R227): drained, and each of its line accesses performed. A line access
that its home has applied, or that has been acknowledged where that is needed, is no longer in flight; one that is lost waits for nothing
(R237). At SYSTEM scope a flushing read must have covered its writes to host memory. -/
def State.performed (s : State) (scope op : Nat) : Bool :=
  !s.queued op && !(decide (3 ≤ scope) && s.hostOpen op) && (s.flights.all fun f => f.op != op || f.lost || f.performed scope) &&
  (s.areqs.all fun r => r.op != op || r.returns || r.lost || (r.applied && !r.leaving))

/-- Nothing of an operation is left in motion but what is lost; a RED that its home has applied has left (R237, R244). -/
def State.settled (s : State) (op : Nat) : Bool :=
  !s.queued op && (s.flights.all fun f => f.op != op || f.lost) &&
  s.areqs.all fun r => r.op != op || r.lost || (!r.returns && r.applied && !r.peer)

/-! ## L1, proxies and what a load reads -/

/-- The bytes of an L1 line of a core. -/
def State.l1Line? (s : State) (core line : Nat) : Option L1Line := s.l1.find? fun x => x.core == core && x.line == line

/-- The slice that is a line's proxy in a field (R402). -/
def State.proxySlice (s : State) (f line : Nat) : Nat :=
  pickSlice (s.slicesOf f) (lineHash (keyTarget (line * 128)) (keyPa (line * 128)))

/-- A line's home slice and whether the line may stand in a vault cache part (R382, R387). -/
abbrev HomeOf := Nat → Nat × Bool

/-- The home of a line of local memory that a unit of the part reaches by its address: SPREAD, and in no vault cache part (log 86). -/
def State.spreadHome (s : State) : HomeOf := fun line =>
  (pickSlice s.allSlices (lineHash (keyTarget (line * 128)) (keyPa (line * 128))), false)

/-- A vault cache part may take a line: its page lets it, and a vault of the field is online (R17, R382, R395); which vault takes it is the
part's own (log 71). -/
def State.cacheable (s : State) (d : DirtyLine) : Bool := d.vcache && (List.range 40).any (s.vaultOnline (d.slice / 40))

/-- A dirty line leaves its slice, for its vault cache part or for GDDR-7, and its shadows are rounded (R96). -/
def State.evictDirty (s : State) (d : DirtyLine) (toVault : Bool) : State :=
  let s := s.roundShadows ((List.range 128).map (d.line * 128 + ·))
  let rest := s.vaultDirty.filter fun e => e.line != d.line
  { s with
    slices := s.slices.filter fun e => e.line != d.line
    vaultDirty := if toVault && s.cacheable d then rest ++ [d] else rest }

/-- The lines that a slice of 2 MiB holds apart from clean lines at their home: dirty ones (0), replicas and forwarded lines (1) and the copies of LOCAL
lines (2) (R11, R388, R403). -/
def State.sliceLines (s : State) (slice : Nat) : List (Nat × Nat) :=
  let proxies := dedupNat ((s.proxy.filter fun p => p.field == slice / 40 && p.slice == slice).map fun p => lineOf p.key)
  let locals := (s.localHome.filter fun x => x.core == slice / 40 && s.proxySlice x.core x.line == slice).map (·.line)
  ((s.slices.filter fun d => d.slice == slice).map fun d => (0, d.line)) ++ proxies.map (fun l => (1, l)) ++ locals.map fun l => (2, l)

/-- A line leaves a slice. -/
def State.evictFrom (s : State) (slice : Nat) (x : Nat × Nat) : State :=
  match x.1 with
  | 0 =>
    match s.slices.find? fun d => d.line == x.2 with
    | some d => s.evictDirty d (s.someBit 60002)
    | none => s
  | 1 => { s with proxy := s.proxy.filter fun p => !(p.field == slice / 40 && lineOf p.key == x.2) }
  | _ => { s with localHome := s.localHome.filter fun y => !(y.core == slice / 40 && y.line == x.2) }

/-- A slice of 2 MiB holds 16,384 lines (R11): a full one evicts a line without held bytes, which one and whereto is free (log 111). -/
def State.roomSlice (s : State) (slice : Nat) : State :=
  let mine := s.sliceLines slice
  if mine.length < 16384 then s
  else
    let out := mine.filter fun x => x.1 != 1 || !s.proxy.any fun p => p.field == slice / 40 && lineOf p.key == x.2 && p.held.isSome
    match out[(s.someWord 60001).toNat % out.length]? with
    | some x => s.evictFrom slice x
    | none => s

/-- The fields in a home's mask for a line (R401). -/
def State.sharersOf (s : State) (line : Nat) : BitVec 4 :=
  ((s.sharers.find? fun (x : Nat × BitVec 4) => x.1 == line).map fun (x : Nat × BitVec 4) => x.2).getD 0

/-- Set a home's mask for a line; an empty mask is not listed. -/
def State.setSharers (s : State) (line : Nat) (m : BitVec 4) : State :=
  let rest := s.sharers.filter fun (x : Nat × BitVec 4) => x.1 != line
  { s with sharers := if m = 0 then rest else (line, m) :: rest }

/-- An invalidation reaches a field's proxy: every byte that is not held goes, and the acknowledgement takes the field out of the home's
mask (R401, R403). -/
def State.invalProxy (s : State) (field line : Nat) : State :=
  { s with proxy := s.proxy.filter fun p => !(p.field == field && lineOf p.key == line && p.held.isNone) }.setSharers line
    (s.sharersOf line &&& ~~~(1#4 <<< field))

/-- Invalidate every replica of a line (R225, R401). -/
def State.invalReplicas (s : State) (line : Nat) : State := (List.range 4).foldl (fun s f => s.invalProxy f line) s

/-- A clean line evicted with REPL becomes a replica where its proxy is ABSENT, as the home has it, and the home adds the field to its
mask (R401, R403). -/
def State.fillProxy (s : State) (field line home : Nat) : State :=
  if s.proxy.any fun p => p.field == field && lineOf p.key == line then s
  else
    let keys := (List.range 128).map (line * 128 + ·)
    let s := s.roundShadows keys
    let slice := s.proxySlice field line
    let put : Nat → ProxyByte := fun k =>
      { field := field, slice := slice, home := home, key := k, byte := s.readByte k, held := none, past := [], readers := [] }
    let s := s.roomSlice slice
    { s with proxy := s.proxy ++ keys.map put }.setSharers line (s.sharersOf line ||| (1#4 <<< field))

/-- A line leaves a core's L1; one filled with REPL becomes a replica where `repl` (R403). -/
def State.evictL1 (s : State) (x : L1Line) (repl : Bool) : State :=
  let f := fieldOfCore x.core
  let s := { s with l1 := s.l1.filter fun y => !(y.core == x.core && y.line == x.line) }
  if repl && x.filled && x.repl && x.home != f && s.reachable f x.home then s.fillProxy f x.line x.home else s

/-- The lines of a core's L1 with pending bytes, and all its lines. -/
def State.pendLines (s : State) (core : Nat) : List Nat := dedupNat ((s.pend.filter fun p => p.core == core).map fun p => lineOf p.key)
def State.l1Lines (s : State) (core : Nat) : List Nat := addNats ((s.l1.filter fun x => x.core == core).map (·.line)) (s.pendLines core)

/-- An L1 of 128 KiB holds 1,024 lines (R11): a full one evicts a line without pending bytes, which one is free (log 111). -/
def State.roomL1 (s : State) (core : Nat) : State :=
  if (s.l1Lines core).length < 1024 then s
  else
    let out := s.l1.filter fun x => x.core == core && !(s.pendLines core).contains x.line
    match out[(s.someWord 60000).toNat % out.length]? with
    | some x => s.evictL1 x true
    | none => s

/-- Put bytes of one line into a core's L1; `fill` is the REPL of an access that fills the line, and none for a store's bytes. -/
def State.putL1 (s : State) (core line home : Nat) (fill : Option Bool) (cs : List Host.Cell) : State :=
  match s.l1Line? core line with
  | some x =>
    let y : L1Line :=
      { x with cells := cs.foldl (fun a c => cellPut a c.1 c.2) x.cells, filled := x.filled || fill.isSome,
               repl := if x.filled then x.repl else fill.getD false }
    { s with l1 := mapWhere (fun z => z.core == core && z.line == line) (fun _ => y) s.l1 }
  | none =>
    let s := s.roomL1 core
    if 1024 ≤ (s.l1Lines core).length && !(s.pendLines core).contains line then s
    else { s with l1 := s.l1 ++ [{ core := core, line := line, home := home, filled := fill.isSome, repl := fill.getD false, cells := cs }] }

/-- Remove bytes from a core's L1. -/
def State.cutL1 (s : State) (core : Nat) (keys : List Nat) : State :=
  { s with l1 := s.l1.map fun x =>
      if x.core == core then { x with cells := x.cells.filter fun c => !keys.contains c.1 } else x }

/-- Discard every L1 line of a core that holds no pending bytes (R229, R142). -/
def State.invalL1 (s : State) (core : Nat) : State :=
  { s with l1 := s.l1.filter fun x => !(x.core == core &&
      !(s.pend.any fun p => p.core == core && lineOf p.key == x.line)) }

/-- A byte of a reduction session's range from before its opening, while the session is open (R295). -/
def State.sessionByte? (s : State) (k : Nat) : Option Byte := s.sessions.findSome? fun x => if x.closed then none else cellGet? x.cells k

/-- A byte of a save region or of spawn memory that the part has written for itself: what it holds is left open (R275, R310, R363, log 87). -/
def State.ownByte? (s : State) (k : Nat) : Option Byte :=
  if s.ownRanges.any fun (r : Nat × Nat) => decide (r.1 ≤ k ∧ k < r.2) then some ((s.someWord (40000 + k % 8192)).extractLsb' 0 8) else none

/-- The byte a field's home or LOCAL copy holds. -/
def State.homeByte (s : State) (f : Nat) (isLocal : Bool) (k : Nat) : Byte :=
  match s.sessionByte? k, s.ownByte? k with
  | some b, _ => b
  | none, some b => b
  | none, none =>
  if isLocal then
    match s.localHome.find? fun x => x.core == f && x.line == lineOf k with
    | some x => (cellGet? x.cells k).getD (s.readByte k)
    | none => s.readByte k
  else s.readByte k

/-- Where a byte beyond L1 comes from: a store of the core still on its way, the proxy unless the core has gone past the byte that it holds
(R214, R215, R218), or the home (R404). True when the home serves it. A byte of an open session's range is as it was before (R295). -/
def State.beyondL1 (s : State) (core : Nat) (a : Access) (k : Nat) : Byte × Bool :=
  match s.sessionByte? k with
  | some b => (b, false)
  | none =>
  match s.flights.reverse.find? fun f => f.core == core && !f.applied && !f.lost && f.cells.any fun c => c.1 == k with
  | some f => ((cellGet? f.cells k).getD 0, false)
  | none =>
    let f := fieldOfCore core
    match if a.home == f then none else s.proxy.find? fun p => p.field == f && p.key == k && !p.past.contains core with
    | some p => (p.byte, false)
    | none => (s.homeByte f a.isLocal k, true)

/-- A byte stands in a core's L1. -/
def State.inL1 (s : State) (core k : Nat) : Bool := (s.l1Line? core (lineOf k)).any fun x => (cellGet? x.cells k).isSome

/-- A byte as a load of a warp reads it (R219, R220, R225, R232, R233, R404): its own queue, pending bytes, L1 where it serves the whole access,
and beyond. None when it must wait for another warp's .G store. True when the home serves it. -/
def State.loadByte (s : State) (w : Warp) (seq : Nat) (a : Access) (whole : Bool) (k : Nat) : Option (Byte × Bool) :=
  match s.sessionByte? k with
  | some b => some (b, false)
  | none =>
  match w.sq.reverse.find? fun e => decide (e.seq < seq) && e.bytes.any fun b => b.key == k with
  | some e => (e.bytes.find? fun b => b.key == k).map fun b => (b.byte, false)
  | none =>
    let ps := s.pend.filter fun p => p.core == w.core && p.key == k
    if ps.any fun p => p.warp != w.uid then none
    else
      -- an atomic of the warp has gone past its own pending byte (R215)
      let passed : Pend → Bool := fun p => s.flights.any fun f => f.id == p.flight && f.passed.contains w.uid
      match (ps.filter fun p => !passed p).getLast? with
      | some p => some (p.byte, false)
      | none =>
        match if whole then (s.l1Line? w.core (lineOf k)).bind fun x => cellGet? x.cells k else none with
        | some b => some (b, false)
        | none => some (s.beyondL1 w.core a k)

/-- The bytes of one access: no part of it comes from an L1 line that holds less than all of it, so that a store or an atomic to the whole is
seen whole (R243). -/
def State.loadBytes (s : State) (w : Warp) (seq : Nat) (a : Access) (size : Nat) : List (Option (Byte × Bool)) :=
  let keys := (List.range size).map (a.key + ·)
  let whole := keys.all (s.inL1 w.core)
  keys.map (s.loadByte w seq a whole)

/-- The same for an operation of the loads class, which may have taken an access's bytes early (R226). -/
def State.opBytes (s : State) (w : Warp) (op : LoadOp) (a : Access) : List (Option (Byte × Bool)) :=
  let early := ((List.range op.size).map (a.key + ·)).map (cellGet? op.early)
  if early.all Option.isSome then early.map fun o => o.map fun b => (b, false) else s.loadBytes w op.seq a op.size

/-- A core has read bytes of its field's proxy (R232). -/
def State.noteReaders (s : State) (core : Nat) (keys : List Nat) : State :=
  let f := fieldOfCore core
  let note : ProxyByte → ProxyByte := fun p => { p with readers := addNats p.readers [core] }
  { s with proxy := mapWhere (fun p => p.field == f && p.held.isSome && !p.past.contains core && keys.contains p.key) note s.proxy }

/-- A thread moves from one core to another: what its core has read of held bytes, and gone past, holds for it where it goes (R214, R223). -/
def State.carryReads (s : State) (src dst : Nat) : State :=
  let carry : List Nat → List Nat := fun l => if l.contains src then addNats l [dst] else l
  let put : ProxyByte → ProxyByte := fun p => { p with past := carry p.past, readers := carry p.readers }
  { s with proxy := mapWhere (fun p => p.field == fieldOfCore dst && p.field == fieldOfCore src) put s.proxy }

/-- Fetch a LOCAL line into its field's own home (R388). -/
def State.fetchLocal (s : State) (f : Nat) (isLocal : Bool) (line : Nat) : State :=
  if isLocal && !(s.localHome.any fun x => x.core == f && x.line == line) then
    let s := (s.roundShadows [line * 128]).roomSlice (s.proxySlice f line)
    let cells := (List.range 128).map fun i => (line * 128 + i, s.readByte (line * 128 + i))
    { s with localHome := s.localHome ++ [{ core := f, line := line, home := f, filled := true, repl := false, cells := cells }] }
  else s

/-- The keys of a line that an access may touch: it is naturally aligned and no wider than 64 bytes. -/
def Access.span (a : Access) (line : Nat) : List Nat :=
  ((List.range 64).map (a.key + ·)).filter fun k => lineOf k == line

/-- The lines an access of `size` bytes touches. -/
def Access.lines (a : Access) (size : Nat) : List Nat := dedupNat [lineOf a.key, lineOf (a.key + size - 1)]

/-- The keys an access touches. -/
def Access.keys (a : Access) (size : Nat) : List Nat := (List.range size).map (a.key + ·)

/-- Fill a core's L1 with a line of which it does not hold every byte that is not pending: all of them are read at one moment (R404), and the
home rounds the line's shadows (R96); a non-temporal access allocates no line (R126, R382). -/
def State.fillL1 (s : State) (core : Nat) (repl nt : Bool) (a : Access) (line : Nat) : State :=
  if nt || a.nt then s.noteReaders core (Access.span a line)
  else
    let keys := ((List.range 128).map (line * 128 + ·)).filter fun k => !(s.pend.any fun p => p.core == core && p.key == k)
    if keys.all (s.inL1 core) then s.putL1 core line a.home (some repl) []
    else
      let s := if keys.any fun k => (s.beyondL1 core a k).2 then s.roundShadows [line * 128] else s
      (s.noteReaders core keys).putL1 core line a.home (some repl) (keys.map fun k => (k, (s.beyondL1 core a k).1))

/-- The asynchronous cause of reading a line, if it is uncorrectable or poisoned (R210, R251, R395). -/
def State.lineFault (s : State) (lines : List Nat) : Option Nat :=
  if lines.any s.badLines.contains then some 30 else if lines.any s.poison.contains then some 31 else none

/-- Mark an entry of a class done and drop the completed prefix: an operation leaves its class only when it and every
earlier one have completed (R144). -/
def leaveClass {α : Type} (done : α → Bool) : List α → List α
  | [] => []
  | x :: xs => if done x then leaveClass done xs else x :: xs

def EngOp.finish (op : Nat) (l : List EngOp) : List EngOp :=
  leaveClass EngOp.done (mapWhere (fun x => x.id == op) (fun x => { x with done := true }) l)

def LoadOp.finish (op : Nat) (l : List LoadOp) : List LoadOp :=
  leaveClass LoadOp.done (mapWhere (fun x => x.id == op) (fun x => { x with done := true }) l)

/-- Let an operation of the stores class leave it once nothing of it is in motion. -/
def State.closeStore (s : State) (op : Nat) : State :=
  if s.settled op then
    let open_ := s.hostOpen op
    -- a release at SYSTEM scope still waits for the flushing read behind a write to host memory
    let seen : Warp → List Nat := fun w =>
      if !open_ then w.seen.filter (· != op) else if w.stores.any fun e => e.id == op then addNats w.seen [op] else w.seen
    let done_ : Warp → Nat := fun w => if w.stores.any fun e => e.id == op then s.fresh else w.doneAt
    { s with warps := s.warps.map fun w => { w with stores := EngOp.finish op w.stores, seen := seen w, doneAt := done_ w } }
  else s

/-- The register word j of a loaded value: 8- and 16-bit values are extended (R30). -/
def loadWord (size : Nat) (sext : Bool) (bytes : List Byte) (j : Nat) : Word :=
  if size = 1 then (if sext then (BitVec.ofNat 8 (leNat bytes)).signExtend 32 else BitVec.ofNat 32 (leNat bytes))
  else if size = 2 then (if sext then (BitVec.ofNat 16 (leNat bytes)).signExtend 32 else BitVec.ofNat 32 (leNat bytes))
  else BitVec.ofNat 32 (leNat ((bytes.drop (4 * j)).take 4))

/-- Lanes of a register that a later write keeps from being zeroed with a faulted load's report (R103, R210). -/
def AsyncCause.overwritten (r : Nat) (live : LaneMask) (a : AsyncCause) : AsyncCause :=
  { a with zero := mapWhere (fun z => z.1 == r) (fun z => (z.1, z.2 &&& ~~~live)) a.zero }

/-- The number under which an h register stands among the registers of a faulted load that are to read 0. -/
def hZero (h : Nat) : Nat := 128 + h

/-- Write an h register: a faulted load's report leaves it alone from then on (R103, R210). -/
def Warp.writeH (w : Warp) (h : Nat) (x : BitVec 512) : Warp :=
  { w with h := w.h.setIfInBounds h x, asyncs := w.asyncs.map fun a => a.overwritten (hZero h) 1 }

/-- Write register rows of a warp in some lanes: row j of the list to register d + j. -/
def Warp.writeRows (w : Warp) (live : LaneMask) (d : Nat) (rows : List Row) : Warp :=
  let put : Vector Row 128 → Row × Nat → Vector Row 128 := fun v r =>
    v.setIfInBounds (d + r.2) (mergeRow live r.1 ((v[d + r.2]?).getD (splat 0)))
  { w with
    v := rows.zipIdx.foldl put w.v
    asyncs := w.asyncs.map fun a => (List.range rows.length).foldl (fun a k => a.overwritten (d + k) live) a }

/-- The own and other warps' line accesses that a load of a warp may have read before they are performed (R230). -/
def State.readOps (s : State) (w : Warp) (keys : List Nat) : List Nat :=
  (s.flights.filter fun f => f.core == w.core && f.warp != w.uid && !f.lost && f.cells.any fun c => keys.contains c.1).map (·.op)

/-- The lanes and causes of a load's faulted accesses. -/
def State.loadFaults (s : State) (op : LoadOp) : List (Access × Nat) :=
  op.accs.filterMap fun a => (s.lineFault (a.lines op.size)).map fun c => (a, c)

/-- An atomic that acquires and has not returned stands before a place in the warp's order (R229, R250). -/
def Warp.acquiring (w : Warp) (seq : Nat) : Bool :=
  w.loads.any fun o => o.kind == .atom && o.acqScope.isSome && !o.done && decide (o.seq < seq)

/-- A load waits for an older atomic of its warp to the same bytes, or one that acquires (R215, R229). -/
def State.atomicAhead (s : State) (w : Warp) (op : LoadOp) : Bool :=
  w.acquiring op.seq || s.areqs.any fun r => r.warp == w.uid && decide (r.seq < op.seq) && !r.applied &&
    op.accs.any fun a => (a.lines op.size).contains r.line

/-- A later load takes bytes again that it took before an earlier load of its warp, or a store of its core (R214, R220). -/
def LoadOp.retake (keys : List Nat) (op : LoadOp) : LoadOp :=
  let hit := op.accs.flatMap fun a => if (a.keys op.size).any keys.contains then a.keys op.size else []
  { op with early := op.early.filter fun c => !hit.contains c.1 }

/-- A load of a warp has read bytes of some operations of other warps before they are performed: the warp's releases that stand after it
in issue order, and the reads of units that come after a release, wait for them too (R230, R238). -/
def State.lateSeen (s : State) (u seq : Nat) (ops : List Nat) : State :=
  if ops.isEmpty then s
  else
    let at_ : Nat → List (Nat × Nat) := fun sc => ops.map fun op => (sc, op)
    let fences := ((s.warp? u).map (·.fences)).getD []
    let behind : Nat → Option Nat → List (Nat × Nat) := fun q rel =>
      (match rel with
        | some sc => if seq < q then at_ sc else []
        | none => []) ++ (fences.filter fun x => decide (seq < x.1) && decide (x.1 ≤ q)).flatMap fun x => at_ x.2
    let entry : SqEntry → SqEntry := fun e => { e with deps := e.deps ++ behind e.seq e.rel }
    let atom : AtomReq → AtomReq := fun r => { r with deps := r.deps ++ behind r.seq r.rel }
    let unit : EngJob → EngJob := fun e => if seq < e.seq then { e with deps := e.deps ++ at_ e.scope } else e
    let mc : McReq → McReq := fun r => if seq < r.seq then { r with deps := r.deps ++ at_ r.scope } else r
    let ray : Ray → Ray := fun r => if seq < r.seq then { r with deps := r.deps ++ at_ r.scope } else r
    let s := s.modWarp u fun w =>
      { w with
        seen := addNats w.seen ops
        sq := w.sq.map entry
        relDeps := w.relDeps ++ (fences.filter fun x => decide (seq < x.1)).flatMap fun x => at_ x.2
        rays := w.rays.map fun (o : Option Ray) => o.map ray }
    { s with
      areqs := mapWhere (fun r => r.warp == u && !r.applied) atom s.areqs
      engine := mapWhere (fun e => e.warp == u) unit s.engine
      mcReqs := mapWhere (fun r => r.warp == u) mc s.mcReqs }

/-- An earlier load that acquires has yet to take its value (R229). -/
def Warp.acquireAhead (w : Warp) (seq : Nat) : Bool :=
  w.loads.any fun o => o.acqScope.isSome && !o.done && decide (o.seq < seq)

/-- A load takes the bytes that its homes serve ahead of the loads before it (R226); the others it takes in its turn. -/
def State.fetchEarly (s : State) (w : Warp) (op : LoadOp) : State :=
  if s.atomicAhead w op || w.acquireAhead op.seq || op.accs.any (fun a => s.frameLost (s.ctxidOf w) a.key) then s
  else
    let s := s.roundShadows (op.accs.flatMap fun a => a.keys op.size)
    let got : List Host.Cell := op.accs.flatMap fun a =>
      let bytes := s.opBytes w op a
      if bytes.all fun o => o.any fun (x : Byte × Bool) => x.2 then (a.keys op.size).zip (bytes.map fun o => (o.getD (0, false)).1) else []
    let put : LoadOp → LoadOp := fun o => { o with early := got ++ o.early }
    s.modWarp w.uid fun w => { w with loads := mapWhere (fun o => o.id == op.id) put w.loads }

/-- Complete one LD or HLD: its value is taken now, at one point, by every lane (R220). The affected lane of a faulted HLD is lane 0 (DEDUCED, log 134). None when it must wait, for an atomic or for a
frame (R276). -/
def State.completeLoad (s : State) (w : Warp) (op : LoadOp) : Option State :=
  if s.atomicAhead w op || op.accs.any (fun a => s.frameLost (s.ctxidOf w) a.key) then none
  else
    let got := op.accs.map fun a => (a, s.opBytes w op a)
    if got.any fun g => g.2.any Option.isNone then none
    else
      let homeKeys := got.flatMap fun g =>
        ((g.1.keys op.size).zip g.2).filterMap fun kb => if (kb.2.getD (0, false)).2 then some kb.1 else none
      let s := s.roundShadows homeKeys
      let faults := s.loadFaults op
      let bytesOf : Access → List Byte := fun a => (s.opBytes w op a).map fun o => (o.getD (0, false)).1
      let okAccs := op.accs.filter fun a => !(faults.any fun f => f.1.lane == a.lane)
      let byLane := okAccs.map fun a => (a.lane, bytesOf a)
      let laneBytes : Nat → List Byte := fun i => ((byLane.find? fun x => x.1 == i).map (·.2)).getD []
      let w' : Warp :=
        match op.kind with
        | .hreg =>
          match byLane.head? with
          | some x => w.writeH op.dest (BitVec.ofNat 512 (leNat x.2))
          | none => w
        | _ =>
          let mask := maskOf fun i => op.lanes.getLsbD i && okAccs.any fun a => a.lane == i
          w.writeRows mask op.dest ((List.range op.nreg).map fun j => rowOf fun i => loadWord op.size op.sext (laneBytes i) j)
      let newAsyncs : List AsyncCause := (faults.map (·.2)).eraseDups.map fun code =>
        let fs := faults.filter fun f => f.2 == code
        { op := op.id, ord := op.ord, code := code, faddr := ((fs.head?).map fun f => f.1.va).getD 0, lane := ((fs.head?).map fun f => f.1.lane).getD 0,
          kind := .load, seq := op.seq, firstReg := op.dest, nreg := op.nreg,
          lanes := maskOf fun i => fs.any fun f => f.1.lane == i,
          zero := if op.kind == .hreg then [(hZero op.dest, 1)]
            else (List.range op.nreg).map fun k => (op.dest + k, maskOf fun i => fs.any fun f => f.1.lane == i),
          gmode := false, kept := false, wins := [], accs := [],
          buf := none }
      let keys := op.accs.flatMap fun a => a.keys op.size
      let ops := s.readOps w keys
      let f := w.field
      let s := op.accs.foldl (fun s a => (a.lines op.size).foldl (fun s l => (s.fetchLocal f a.isLocal l).fillL1 w.core op.repl op.nt a l) s) s
      let s := s.modWarp w.uid fun _ =>
        { w' with loads := (LoadOp.finish op.id w.loads).map (LoadOp.retake keys), asyncs := w'.asyncs ++ newAsyncs, doneAt := s.fresh }
      let s := s.lateSeen w.uid op.seq ops
      some (if op.acqScope.any fun c => decide (1 ≤ c.toNat) then s.invalL1 w.core else s)

/-- An LD or HLD that has not completed. -/
def LoadOp.pendingMem (op : LoadOp) : Bool := !op.done && (op.kind == .mem || op.kind == .hreg)

/-- Complete a warp's loads in issue order up to and including a sequence number (R103, R220). None when one waits. -/
def State.settleTo (s : State) (u seq : Nat) : Nat → Option State
  | 0 => some s
  | fuel + 1 =>
    match s.warp? u with
    | none => some s
    | some w =>
      match w.loads.find? fun op => op.pendingMem && decide (op.seq ≤ seq) with
      | none => some s
      | some op =>
        match s.completeLoad w op with
        | none => none
        | some s' => s'.settleTo u seq fuel

/-- A load may take its value before the loads ahead of it (R226): none of them acquires or reads one of its bytes, and no atomic that it waits
for is ahead. Whether it does is free. -/
def State.mayOvertake (s : State) (w : Warp) (op : LoadOp) : Bool :=
  let mine := op.accs.flatMap fun a => a.keys op.size
  op.pendingMem && !s.atomicAhead w op && !w.acquireAhead op.seq &&
  (w.loads.all fun o => !(o.pendingMem && decide (o.seq < op.seq)) || o.accs.all fun a => (a.keys o.size).all fun k => !mine.contains k) &&
  s.someBit (51000 + op.id % 4096)

/-- Complete a load that a group needs, in its turn or ahead of it (R103, R226). None when it must wait. -/
def State.settleOne (s : State) (u : Nat) (op : LoadOp) : Option State :=
  match s.warp? u with
  | none => some s
  | some w =>
    match if s.mayOvertake w op then s.completeLoad w op else none with
    | some s' => some s'
    | none => s.settleTo u op.seq 256

/-- The loads of a warp that a later load has overtaken: a store of the core to their bytes waits for them, so that the loads keep their order
among the core's stores (R220). -/
def Warp.overtaken (w : Warp) : List LoadOp :=
  w.loads.filter fun op => op.pendingMem && w.loads.any fun o => o.done && (o.kind == .mem || o.kind == .hreg) && decide (op.seq < o.seq)

/-- Complete every load of a warp that can complete, in order. -/
def State.settleAll (s : State) (u : Nat) : Nat → State
  | 0 => s
  | fuel + 1 =>
    match s.warp? u with
    | none => s
    | some w =>
      match w.loads.find? LoadOp.pendingMem with
      | none => s
      | some op =>
        match s.completeLoad w op with
        | none => s
        | some s' => s'.settleAll u fuel

/-! ## Draining (R218, R226, R228, R230, R233, R234) -/

/-- The lines a queue entry writes. -/
def SqEntry.lines (e : SqEntry) : List Nat := dedupNat (e.bytes.map fun b => lineOf b.key)

/-- The core's L1 and, for a .F store that leaves its field, its field's proxy slices have room for an entry: pending lines and held bytes are
never evicted (R11, R232, R233). -/
def State.roomFor? (s : State) (w : Warp) (e : SqEntry) : Bool :=
  let away := dedupNat ((e.bytes.filter fun b => !e.gmode && b.win.isNone && b.home != w.field).map fun b => lineOf b.key)
  let heldIn : Nat → List Nat := fun sl =>
    dedupNat ((s.proxy.filter fun p => p.field == w.field && p.slice == sl && p.held.isSome).map fun p => lineOf p.key)
  decide ((addNats (s.pendLines w.core) e.lines).length ≤ 1024) &&
  away.all fun l => decide ((addNats (heldIn (s.proxySlice w.field l)) away).length ≤ 16384)

/-- The head entry of a warp's queue may drain: every earlier load has taken its value, and so has a load of another warp of the core that a
later one has overtaken, what it releases is performed, no earlier .G entry of the warp to its lines is unacknowledged or lost and
unreported, no other warp's pending bytes are among its own, and there is room. -/
def State.mayDrain (s : State) (w : Warp) (e : SqEntry) : Bool :=
  (w.loads.all fun op => op.done || decide (e.seq ≤ op.seq) ||
    !(op.kind == .mem || op.kind == .hreg ||
      (op.kind == .atom && (op.acqScope.isSome || s.areqs.any fun r => r.op == op.id && !r.applied)))) &&
  (e.deps.all fun d => s.performed d.1 d.2) &&
  (s.flights.all fun f => !(f.warp == w.uid && f.gmode && f.leaving && !f.lost && e.lines.contains f.line)) &&
  (w.lostOps.all fun l => !(l.2.any e.lines.contains)) &&
  (s.pend.all fun p => !(p.core == w.core && p.warp != w.uid && e.bytes.any fun b => b.key == p.key)) &&
  (s.warps.all fun v => v.core != w.core || v.overtaken.all fun op => op.accs.all fun a =>
    (a.keys op.size).all fun k => !e.bytes.any fun b => b.key == k) &&
  s.roomFor? w e

/-- The line accesses of an entry: bytes of one line, home and window. -/
def SqEntry.groups (e : SqEntry) : List (List WByte) :=
  let keys := e.bytes.map fun b => (lineOf b.key, b.home, b.win)
  keys.eraseDups.map fun k => e.bytes.filter fun b => lineOf b.key == k.1 && b.home == k.2.1 && b.win == k.2.2

/-- An atomic request may leave its core (R215, R226, R250): what it waits for is performed, and earlier entries and stores of the warp to the
line are applied; every earlier load of the warp has taken its value, an ATOM too where it releases. -/
def State.atomMayLeave (s : State) (r : AtomReq) : Bool :=
  (r.deps.all fun d => s.performed d.1 d.2) &&
  (s.flights.all fun f => !(f.warp == r.warp && decide (f.seq < r.seq) && f.line == r.line && !f.applied && !f.lost)) &&
  (r.rel.isNone || s.areqs.all fun q => !(q.warp == r.warp && q.returns && decide (q.seq < r.seq) && !q.applied)) &&
  match s.warp? r.warp with
  | none => true
  | some w =>
    (w.sq.all fun e => decide (r.seq ≤ e.seq) || !(e.lines.contains r.line)) && !w.acquiring r.seq &&
    w.loads.all fun op => op.done || decide (r.seq ≤ op.seq) || !op.pendingMem

/-- A field's route EPOCH (R415). -/
def State.epochOf (s : State) (f : Nat) : Nat := ((s.field? f).map (·.epoch)).getD 0

/-- The atomics of a core that may leave for where a store of it goes, a field or a slice of its own, leave ahead of it, or not: which is free
(R251, R399). -/
def State.atomsLeave (s : State) (core : Nat) (leaving : Bool) (dst slice : Nat) : State :=
  let way : AtomReq → Bool := fun r => r.core == core && r.leaving == leaving && r.dst == dst && (leaving || r.slice == slice)
  let go : AtomReq → AtomReq := fun r =>
    if way r && r.left == 0 && s.atomMayLeave r && s.someBit (50000 + r.id % 8192) then
      { r with left := s.nextUid, epoch := s.epochOf r.src }
    else r
  { s with areqs := s.areqs.map go }

/-- The loads of a core take bytes again that a store of the core has written since (R220). -/
def State.retakeAll (s : State) (core : Nat) (keys : List Nat) : State :=
  { s with warps := mapWhere (fun w => w.core == core) (fun w => { w with loads := w.loads.map (LoadOp.retake keys) }) s.warps }

/-- Send one line access of an entry on its way: L1, the proxy or pending marks (R218, R232, R233). -/
def State.launchFlight (s : State) (w : Warp) (ctx : Nat) (e : SqEntry) (g : List WByte) : State :=
  match g with
  | [] => s
  | b0 :: _ =>
    let f := w.field
    let line := lineOf b0.key
    let cells := g.map fun b => (b.key, b.byte)
    let leaving := b0.home != f || b0.win.isSome
    let peer := keyTarget b0.key == 3 && b0.win.isSome
    let s := (s.atomsLeave w.core leaving b0.home b0.slice).retakeAll w.core (cells.map fun (c : Host.Cell) => c.1)
    let held := s.proxy.filter fun p => p.field == f && p.held.isSome && cells.any fun c => c.1 == p.key
    let toProxy := leaving && !e.gmode && b0.win.isNone
    let id := s.nextUid
    let handle := ((b0.win.bind fun x => (s.ctx? f ctx).bind fun c => c.win? x).map (·.handle)).getD 0
    let fl : Flight :=
      { id := id, op := e.id, seq := e.seq, warp := w.uid, core := w.core, ctx := ctx, src := f, dst := b0.home, line := line,
        slice := b0.slice, vcache := b0.vcache, nt := b0.nt,
        cells := cells, gmode := e.gmode, leaving := leaving, kept := toProxy && !held.isEmpty, peer := peer,
        applied := false, appliedAt := 0, accepted := [], epoch := s.epochOf f, win := b0.win, handle := handle,
        offset := 0, lost := false, passed := [], va := e.va, lane := e.lane, broken := 0 }
    let past : ProxyByte → ProxyByte := fun p => { p with past := addNats p.past [w.core] }
    let s := { s with
      nextUid := id + 1
      flights := s.flights ++ [fl]
      proxy := if leaving && b0.win.isNone then mapWhere (fun p => held.contains p) past s.proxy else s.proxy }
    let ps : List Pend := cells.map fun c => { core := w.core, key := c.1, byte := c.2, warp := w.uid, flight := id }
    let hold : State → State := fun s =>
      let s := if (s.l1Lines w.core).contains line then s else s.roomL1 w.core
      { s with pend := s.pend ++ ps }
    if b0.win.isSome then (if e.gmode then hold s else s)
    else if leaving && e.gmode then hold (s.cutL1 w.core (cells.map (·.1)))
    else
      let s := if b0.nt && (s.l1Line? w.core line).isNone then s else s.putL1 w.core line b0.home none cells
      if toProxy then
        let fresh := cells.filter fun c => !(held.any fun p => p.key == c.1)
        let slice := s.proxySlice f line
        let ps : List ProxyByte := fresh.map fun c =>
          { field := f, slice := slice, home := b0.home, key := c.1, byte := c.2, held := some id, past := [], readers := [] }
        let s := if s.proxy.any fun p => p.field == f && lineOf p.key == line then s else s.roomSlice slice
        { s with proxy := (s.proxy.filter fun p => !(p.field == f && fresh.any fun c => c.1 == p.key)) ++ ps }
      else s

/-- Drain the oldest entry of a warp's queue, in one step (R218). None when there is none or it may not drain. -/
def State.drainOne (s : State) (u : Nat) : Option State :=
  match s.warp? u with
  | none => none
  | some w =>
    match w.sq with
    | [] => none
    | e :: rest =>
      if !s.mayDrain w e then none
      else
        let ctx := s.ctxidOf w
        let s := s.modWarp u fun w => { w with sq := rest }
        let s :=
          if !e.flush.isEmpty then
            { s with vaultDirty := s.vaultDirty.filter fun d => d.slice / 40 != w.field ||
                !(e.flush.any fun r => decide (r.1 / 128 ≤ d.line) && decide (d.line ≤ (r.1 + r.2 - 1) / 128)) }
          else e.groups.foldl (fun s g => s.launchFlight w ctx e g) s
        some (s.closeStore e.id)

/-- Drain a warp's queue as far as it goes (R204, R223). -/
def State.drainAll (s : State) (u : Nat) : Nat → State
  | 0 => s
  | fuel + 1 =>
    match s.drainOne u with
    | none => s
    | some s' => s'.drainAll u fuel

/-- Loads complete and the queue drains, as far as both go: at a handler entry, a save, a kill, JOIN, REFORM, REFILL and
RSMPL (R204, R223, R266). -/
def State.quiesce (s : State) (u : Nat) : State := ((s.settleAll u 256).drainAll u 40).settleAll u 256

/-! ## At the home (R225, R231, R235, R236) -/

/-- Two line accesses of a core keep their order at their homes: to one line (R218, R225), to one home slice in the field (R226, R399), or to
one field over one route (R235). -/
def Flight.inOrder (g f : Flight) : Bool :=
  g.line == f.line || (!g.leaving && !f.leaving && g.slice == f.slice) ||
  (g.leaving && f.leaving && g.dst == f.dst && g.peer == f.peer && g.epoch == f.epoch)

/-- An atomic that has left its core travels as a store does (R251, R399). -/
def AtomReq.inOrder (r : AtomReq) (f : Flight) : Bool :=
  r.core == f.core && r.left != 0 && (r.line == f.line || (!r.leaving && !f.leaving && r.slice == f.slice) ||
    (r.leaving && f.leaving && r.dst == f.dst && r.peer == f.peer && r.epoch == f.epoch))

/-- The core has read the field's held bytes among some keys before their store is applied: its own access to them comes after (R214). -/
def State.readAhead (s : State) (core id : Nat) (hit : Nat → Bool) : Bool :=
  s.proxy.any fun p => p.field == fieldOfCore core && p.readers.contains core && hit p.key &&
    p.held.any fun h => decide (h < id) && s.flights.any fun g => g.id == h && !g.applied && !g.lost

/-- A handle entry accepts items: EXPORTED or REVOKING, with the same GEN (R424). -/
def State.handleLive (s : State) (h : Dword) : Bool :=
  match s.handle? (handleField h) (handleEntry h) with
  | some x => x.state != 0 && x.gen == handleGen h
  | none => false

/-- A line access or an atomic touches a frame that its context, or its window's, does not own (R276). -/
def State.lineAway (s : State) (ctx home line : Nat) (win : Option Nat) (h : Dword) : Bool :=
  (win.isNone || s.handleLive h) && s.frameLost (s.toucher ctx home win h) (128 * line)

/-- A line access may be applied now: its order among the accesses of its core (R218, R225, R235), older atomics of its
warp to the line (R214), and every replica invalidated and acknowledged (R225, R401). -/
def State.mayApply (s : State) (f : Flight) : Bool :=
  !f.applied && (f.peer || (s.present f.dst && s.reachable f.src f.dst)) &&
  ((s.flights.takeWhile fun g => g.id != f.id).all fun g => g.applied || g.lost || g.core != f.core || !g.inOrder f) &&
  (s.areqs.all fun r => !(r.warp == f.warp && decide (r.seq < f.seq) && r.line == f.line && !r.applied)) &&
  (s.areqs.all fun r => r.applied || r.lost || f.id < r.left || !r.inOrder f) &&
  !(f.leaving && s.readAhead f.core f.id fun k => (cellGet? f.cells k).isSome) &&
  !s.lineAway f.ctx f.dst f.line f.win f.handle && s.sharersOf f.line == 0

/-- A write to a vault frame leaves it not clean (R276). -/
def State.soilFrame (s : State) (line : Nat) : State :=
  let k := line * 128
  if keyTarget k = 1 then
    let soil : VFrame → VFrame := fun x => { x with clean := false }
    { s with frames := mapWhere (fun x => x.field == keyField k && x.frame == keyPa k / 2 ^ 16) soil s.frames }
  else s

/-- Mark a line dirty in its home slice, remembering what GDDR-7 holds (R419). -/
def State.dirtySlice (s : State) (home : HomeOf) (line : Nat) : State :=
  let s := s.soilFrame line
  if keyTarget (line * 128) != 0 || s.slices.any fun d => d.line == line then s
  else
    let old :=
      match s.vaultDirty.find? fun d => d.line == line with
      | some d => d.old
      | none => (List.range 128).map fun i => (line * 128 + i, s.readByte (line * 128 + i))
    let s := s.roomSlice (home line).1
    { s with slices := s.slices ++ [{ line := line, slice := (home line).1, vcache := (home line).2, old := old }] }

/-- Ranges without the keys from lo up to hi. -/
def cutRanges (rs : List (Nat × Nat)) (lo hi : Nat) : List (Nat × Nat) :=
  rs.flatMap fun (r : Nat × Nat) =>
    ([(r.1, min r.2 lo), (max r.1 hi, r.2)] : List (Nat × Nat)).filter fun (x : Nat × Nat) => decide (x.1 < x.2)

/-- Put bytes into memory: what the part had put there for itself is gone, and running launches remember the words (R21, R138). -/
def State.putCells (s : State) (cells : List Host.Cell) : State :=
  let own := cells.foldl (fun rs (c : Host.Cell) => cutRanges rs c.1 (c.1 + 1)) s.ownRanges
  ({ s with mem := memCells s.mem cells, ownRanges := own } : State).remember (cells.map fun (c : Host.Cell) => c.1)

/-- Write cells at their homes, as a non-atomic write (R96, R225). -/
def State.writeHome (s : State) (home : HomeOf) (cells : List Host.Cell) : State :=
  let s := (dedupNat (cells.map fun c => lineOf c.1)).foldl (State.dirtySlice · home) s
  (s.roundShadows (cells.map (·.1))).putCells cells

/-- Add 1 to a window counter; at its limit the overflow flag is set instead (R146). -/
def bumpCounter (v : Word) (o : Bool) : Word × Bool := if v = 0xFFFFFFFF#32 then (v, true) else (v + 1, o)

def Context.modWin (c : Context) (slot : Nat) (g : WinSlot → WinSlot) : Context :=
  { c with wins := mapWhere (fun w => w.slot == slot) g c.wins }

/-- Count one item in the destination counter of the HOSTED slots bound to a handle (R236, R425). -/
def State.countDst (s : State) (h : Dword) : State :=
  let f := handleField h
  { s with contexts := s.contexts.map fun c =>
      if c.field == f then
        { c with wins := c.wins.map fun w =>
            if w.kind == 2 && w.handle == h then
              { w with dst := (bumpCounter w.dst w.dstOvf).1, dstOvf := (bumpCounter w.dst w.dstOvf).2 }
            else w }
      else c }

/-- Count one item in the source counter of a slot (R236). -/
def State.countSrc (s : State) (f ctx slot : Nat) : State :=
  s.modCtx f ctx fun c => c.modWin slot fun w =>
    { w with src := (bumpCounter w.src w.srcOvf).1, srcOvf := (bumpCounter w.src w.srcOvf).2 }

/-- The windows, with their handles, that an atomic request goes through (R236, R243). -/
def AtomReq.windows (r : AtomReq) : List (Nat × Dword) := (r.accs.filterMap fun a => a.win.map fun x => (x, a.handle)).eraseDups

/-- A request goes through a window slot, and by a handle. -/
def AtomReq.bySlot (r : AtomReq) (slot : Option Nat) : Bool := r.windows.any fun (x : Nat × Dword) => some x.1 == slot
def AtomReq.byHandle (r : AtomReq) (h : Dword) : Bool := r.windows.any fun (x : Nat × Dword) => x.2 == h

/-- A copy packet has not made all its writes yet (R236, R275). -/
def State.sending (s : State) (op : Nat) : Bool := s.copies.any fun r => r.id == op && !r.done

/-- The item an access belongs to has other accesses to the same window that are not applied yet. -/
def State.itemOpen (s : State) (op : Nat) (h : Dword) (id : Nat) : Bool :=
  s.queued op || s.sending op || (s.flights.any fun g => g.op == op && g.handle == h && g.id != id && (!g.applied || g.lost)) ||
  s.areqs.any fun r => r.op == op && r.byHandle h && r.id != id && (!r.applied || r.lost)

/-- Bytes in the order of a store, as runs at rising addresses. -/
def cellRuns : List Host.Cell → List (Nat × List Byte)
  | [] => []
  | (k, b) :: rest =>
    match cellRuns rest with
    | (i, bs) :: more => if i = k + 1 then (k, b :: bs) :: more else (k, [b]) :: (i, bs) :: more
    | [] => [(k, [b])]

/-- The posted writes of an access to a peer module (R427). -/
def Flight.posts (f : Flight) : List Post :=
  (cellRuns f.cells).map fun (x : Nat × List Byte) =>
    { field := f.src, flight := f.id, handle := f.handle, offset := keyPa x.1 % 2 ^ 44, bytes := x.2, doorbell := false }

/-- A posted write of 1 to the peer's count doorbell, behind the writes of an item (R427). -/
def State.doorbell (s : State) (f id : Nat) (h : Dword) : State :=
  { s with posts := s.posts ++ [{ field := f, flight := id, handle := h, offset := 0, bytes := [], doorbell := true }] }

/-- An access to a peer module leaves, with the doorbell write behind the last of its item. -/
def State.postFlight (s : State) (f : Flight) : State :=
  let s := { s with posts := s.posts ++ f.posts }
  if f.broken < 2 && !s.itemOpen f.op f.handle f.id then s.doorbell f.src f.id f.handle else s

/-- The home applies a line access, and for one that leaves its field sends the acknowledgement in the same step (R225,
R231). A peer module's access leaves the module instead (R427). -/
def State.applyFlight (s : State) (f : Flight) : State :=
  let drop := f.win.isSome && !f.peer && !s.handleLive f.handle
  -- the core's own store comes after the held bytes whose stores are applied: it reads beyond them from now on (R214, R220)
  let past : ProxyByte → ProxyByte := fun p => { p with past := addNats p.past [f.core] }
  let old : ProxyByte → Bool := fun p =>
    p.held.any fun h => h != f.id && s.flights.all fun g => g.id != h || g.applied
  let s := if f.peer then s.postFlight f else if drop then s else
    let s := s.writeHome (fun _ => (f.slice, f.vcache)) f.cells
    { s with proxy := mapWhere (fun p => p.field == f.src && (cellGet? f.cells p.key).isSome && old p) past s.proxy }
  let s := if keyTarget (f.line * 128) = 2 then { s with hostWrites := s.hostWrites ++ [(f.id, f.op, f.warp)] } else s
  let s := if f.win.isSome && !drop && !f.peer && f.broken < 2 && !s.itemOpen f.op f.handle f.id then s.countDst f.handle else s
  if f.lost then { s with flights := s.flights.filter (·.id != f.id) }
  else if f.leaving then
    ({ s with flights := mapWhere (fun g => g.id == f.id) (fun g => { g with applied := true, appliedAt := s.fresh }) s.flights } : State).noteDone f.warp
  else { s with flights := s.flights.filter (·.id != f.id) }.closeStore f.op

/-- Bytes held for a line access cease to be held; a proxy line with no held store left is ABSENT (R403). -/
def State.unhold (s : State) (f : Flight) : State :=
  let rest := s.proxy.filter fun p => p.held != some f.id
  let mine : ProxyByte → Bool := fun p => p.field == f.src && lineOf p.key == f.line
  let was := s.proxy.any fun p => p.held == some f.id
  { s with proxy := if was && !rest.any fun p => mine p && p.held.isSome then rest.filter fun p => !mine p else rest }

/-- The acknowledgement of a line access returns: held bytes cease to be held, pending marks clear, the source counter
counts a finished item and the store leaves its class (R231 to R233, R236). Bytes that an atomic of the core has gone past stay out of
L1 (R215). -/
def State.ackFlight (s : State) (f : Flight) : State :=
  let mine := s.pend.filter fun p => p.flight == f.id
  let s := ({ s with
    flights := s.flights.filter (·.id != f.id)
    pend := s.pend.filter fun p => p.flight != f.id } : State).unhold f
  let s := if mine.isEmpty || f.win.isSome || !f.passed.isEmpty || (f.nt && (s.l1Line? f.core f.line).isNone) then s
    else s.putL1 f.core f.line f.dst none (mine.map fun p => (p.key, p.byte))
  let more := s.queued f.op || s.sending f.op || (s.flights.any fun g => g.op == f.op && g.win == f.win) ||
    s.areqs.any fun r => r.op == f.op && r.bySlot f.win
  let s :=
    match f.win with
    | some x => if more || 0 < f.broken then s else s.countSrc f.src f.ctx x
    | none => s
  s.closeStore f.op

end Sys2Proof.Machine
end

