-- ==== Sys2Proof/Machine/Ops.lean ====
section
/-! DEFINITION. The named operations over registers, scratchpad, constants and the host record, the rendezvous objects
(R195), taking an exception (R204 to R208) and returning from one (R209). -/

namespace Sys2Proof.Machine

open Sys2Proof

/-! ## Registers -/

/-- A v register of a warp over its lanes. -/
def Warp.row (w : Warp) (r : Nat) : Row := (w.v[r]?).getD (splat 0)

/-- A v pair of a warp: the low word in the even register (R100). -/
def Warp.row64 (w : Warp) (r : Nat) : Row64 := Vector.ofFn fun i => pairOf (laneOf (w.row r) i) (laneOf (w.row (r + 1)) i)

/-- Write a v register in the live lanes (R5). -/
def Warp.setRow (w : Warp) (live : LaneMask) (r : Nat) (x : Row) : Warp :=
  { w with
    v := w.v.setIfInBounds r (mergeRow live x (w.row r))
    asyncs := w.asyncs.map fun a => a.overwritten r live }

/-- Write a v pair in the live lanes. -/
def Warp.setRow64 (w : Warp) (live : LaneMask) (r : Nat) (x : Row64) : Warp :=
  (w.setRow live r (rowOf fun i => loWord (laneOf64 x i))).setRow live (r + 1) (rowOf fun i => hiWord (laneOf64 x i))

/-- An s register; in handler mode s56 to s63 name the warp's bank (R207). -/
def Warp.sreg (w : Warp) (r : Nat) : Word :=
  if w.mode = .handler ∧ 56 ≤ r then (w.bank[r - 56]?).getD 0 else (w.s[r]?).getD 0

/-- Write an s register. -/
def Warp.setS (w : Warp) (r : Nat) (x : Word) : Warp :=
  if w.mode = .handler ∧ 56 ≤ r then { w with bank := w.bank.setIfInBounds (r - 56) x }
  else { w with s := w.s.setIfInBounds r x }

/-- An s pair. -/
def Warp.sreg64 (w : Warp) (r : Nat) : Dword := pairOf (w.sreg r) (w.sreg (r + 1))

/-- Write an s pair. -/
def Warp.setS64 (w : Warp) (r : Nat) (x : Dword) : Warp := (w.setS r (loWord x)).setS (r + 1) (hiWord x)

/-- A predicate over the lanes; p0 reads true (R100). -/
def Warp.pred (w : Warp) (q : Nat) : LaneMask := if q = 0 then 0xFFFFFFFF#32 else (w.p[q]?).getD 0

/-- Write a predicate in the live lanes; a write to p0 is ignored (R100). -/
def Warp.setPred (w : Warp) (live : LaneMask) (q : Nat) (x : LaneMask) : Warp :=
  if q = 0 then w else { w with p := w.p.setIfInBounds q ((x &&& live) ||| (w.pred q &&& ~~~live)) }

/-- The lanes of a warp that have not exited (R163). -/
def Warp.here (w : Warp) : LaneMask := ~~~w.exited

/-- A split in a slot. -/
def Warp.split? (w : Warp) (slot : Nat) : Option Split := (w.slots[slot]?).join

/-- Change the split in a slot. -/
def Warp.modSplit (w : Warp) (slot : Nat) (g : Split → Split) : Warp :=
  { w with slots := w.slots.setIfInBounds slot ((w.split? slot).map g) }

/-- The slots that hold a split, ascending. -/
def Warp.heldSlots (w : Warp) : List Nat := (List.range 4).filter fun i => (w.split? i).isSome

/-- Change every split of a warp, parked or not. -/
def Warp.mapSplits (w : Warp) (g : Split → Split) : Warp :=
  { w with slots := w.slots.map fun (o : Option Split) => o.map g, parked := w.parked.map g }

/-- A split at a group boundary (R42). -/
def Split.atGroup (x : Split) (pc : Dword) : Split :=
  { x with pc := pc, start := pc, hints := [], waiting := false, want := none, blocked := none }

/-- A new split at a group boundary. -/
def Split.fresh (pc : Dword) (m : LaneMask) : Split :=
  { pc := pc, mask := m, waiting := false, want := none, blocked := none, hints := [], start := pc, released := none }

/-- Parked splits take slots as soon as slots are free, first in first out (R164). -/
def Warp.unpark (w : Warp) : Warp :=
  (List.range 4).foldl (fun w i =>
    match w.split? i, w.parked with
    | none, x :: rest => { w with slots := w.slots.setIfInBounds i (some x), parked := rest }
    | _, _ => w) w

/-- Give a new split the lowest free slot, or park it (R164). -/
def Warp.addSplit (w : Warp) (x : Split) : Warp :=
  match (List.range 4).find? fun i => (w.split? i).isNone with
  | some i => { w with slots := w.slots.setIfInBounds i (some x) }
  | none => { w with parked := w.parked ++ [x] }

/-- Remove a split whose lanes have all gone. -/
def Warp.dropSplit (w : Warp) (slot : Nat) : Warp := ({ w with slots := w.slots.setIfInBounds slot none } : Warp).unpark

/-- The return stack of a lane, top first. -/
def Warp.stack (w : Warp) (i : Nat) : List Dword := (w.rstack[i]?).getD []

/-- The new number of an operation in its warp's issue order (R214). -/
def Warp.bumpSeq (w : Warp) : Warp := { w with seq := w.seq + 1 }

/-- How many operations of a class the warp has issued (R144): 0 loads, 1 stores, 2 copies, 3 tile ops. -/
def Warp.ordOf (w : Warp) (cls : Nat) : Nat := (w.issued[cls]?).getD 0

/-- Count a new operation in its class. -/
def Warp.bumpOrd (w : Warp) (cls : Nat) : Warp := { w with issued := w.issued.setIfInBounds cls (w.ordOf cls + 1) }

/-- Add an operation to the loads class. -/
def Warp.addLoad (w : Warp) (op : LoadOp) : Warp :=
  let op : LoadOp := { op with seq := w.seq, ord := w.ordOf 0 }
  (({ w with loads := leaveClass LoadOp.done (w.loads ++ [op]) } : Warp).bumpOrd 0).bumpSeq

/-- Add an operation to the stores class. -/
def Warp.addStore (w : Warp) (id : Nat) : Warp :=
  let op : EngOp := { id := id, seq := w.seq, ord := w.ordOf 1, done := false }
  (({ w with stores := w.stores ++ [op] } : Warp).bumpOrd 1).bumpSeq

/-- Add an operation to the copies class. -/
def Warp.addCopy (w : Warp) (id : Nat) : Warp :=
  let op : EngOp := { id := id, seq := w.seq, ord := w.ordOf 2, done := false }
  (({ w with copies := w.copies ++ [op] } : Warp).bumpOrd 2).bumpSeq

/-- Add an operation to the tile-ops class. -/
def Warp.addTile (w : Warp) (id : Nat) : Warp :=
  let op : EngOp := { id := id, seq := w.seq, ord := w.ordOf 3, done := false }
  (({ w with tileops := w.tileops ++ [op] } : Warp).bumpOrd 3).bumpSeq

/-- An operation whose value was taken at issue counts in the loads class behind the earlier ones (R144, log 14). -/
def LoadOp.taken (id : Nat) : LoadOp :=
  { id := id, seq := 0, ord := 0, kind := .taken, dest := 0, nreg := 0, lanes := 0, size := 0, sext := false, acqScope := none,
    repl := false, nt := false, accs := [], early := [], done := true }

/-- Take an operation out of the loads class (R144). -/
def State.finishLoad (s : State) (u id : Nat) : State :=
  s.modWarp u fun w => { w with loads := LoadOp.finish id w.loads, doneAt := s.fresh }

/-- A TRAV of a warp leaves the loads class once each of its rays has completed or is gone with its lane (R358). -/
def State.closeRays (s : State) (u : Nat) : State :=
  match s.warp? u with
  | none => s
  | some w =>
    let finished := w.loads.filter fun op => op.kind == .ray && !op.done && w.rays.all fun (r : Option Ray) => r.all fun x => x.id != op.id || x.done
    finished.foldl (fun s op => s.finishLoad u op.id) s

/-- A gang launch is one of KIND 1 (R306). -/
def Launch.gang (l : Launch) : Bool := l.kind == 1

/-! ## Scratchpad (R131 to R134) -/

/-- The size of an allocation of a launch (R303); 0 when it is not declared. -/
def Launch.scratchSize (l : Launch) (alloc : Nat) : Nat := (((l.scratch[alloc]?).getD 0).extractLsb' 0 19).toNat

/-- The swizzle code of an allocation (R303). -/
def Launch.swizzle (l : Launch) (alloc : Nat) : Nat := (((l.scratch[alloc]?).getD 0).extractLsb' 24 3).toNat

/-- The physical offset of an offset (R133). -/
def swizzled (code o : Nat) : Nat :=
  if 6 ≤ code then o else o ^^^ (o / 2 ^ (4 + code) % 2 ^ code * 16)

/-- The scratchpad key of byte `o` of an allocation. -/
def Launch.scratchKey (l : Launch) (alloc o : Nat) : Nat := alloc * 2 ^ 20 + swizzled (l.swizzle alloc) o

/-- n bytes of a block's allocation from offset o. -/
def Block.scratchRead (b : Block) (l : Launch) (alloc o n : Nat) : List Byte :=
  (List.range n).map fun i => memGet b.scratch (l.scratchKey alloc (o + i))

/-- The cells of bytes written to an allocation from offset o. -/
def Launch.scratchCells (l : Launch) (alloc o : Nat) (bytes : List Byte) : List Host.Cell :=
  bytes.zipIdx.map fun b => (l.scratchKey alloc (o + b.2), b.1)

/-- Write bytes of a block's allocation. -/
def Block.scratchWrite (b : Block) (l : Launch) (alloc o : Nat) (bytes : List Byte) : Block :=
  { b with scratch := memCells b.scratch (l.scratchCells alloc o bytes) }

/-! ## Causes (R205, R212) -/

/-- A precise cause with an address and a lane. -/
def Trap.at (code : Nat) (faddr : Dword) (lane : Nat) : Trap :=
  { code := code, faddr := faddr, lane := lane, fpx := 0, code2 := 0, async := false }

/-- A precise cause without address or lane. -/
def Trap.plain (code : Nat) : Trap := Trap.at code 0 0

/-- The CAUSE word (R205). -/
def Trap.word (t : Trap) : Word :=
  (if t.async then 0x80000000#32 else 0#32) |||
  BitVec.ofNat 32 (t.code2 % 64 * 2 ^ 16 + t.fpx.toNat * 2 ^ 11 + t.lane % 32 * 2 ^ 6 + t.code % 64)

/-- The causes whose default resume is replay (R212). -/
def replayCodes : List Nat := [8, 12, 18, 19, 20, 21, 26, 30, 31, 33, 35, 43, 44, 46, 47, 48, 60]

/-- The causes that are delivered to the handler (R212). -/
def handlerCodes : List Nat :=
  (List.range 61).filter fun c => !([16, 55, 57, 58, 59].contains c)

/-! ## Writes by the part itself -/

/-- Cells written at their homes by a unit of the part: every replica of the lines is invalidated first (R225, R238). -/
def State.engineWriteAt (s : State) (home : HomeOf) (cells : List Host.Cell) : State :=
  ((dedupNat (cells.map fun c => lineOf c.1)).foldl State.invalReplicas s).writeHome home cells

/-- The same of lines that the unit names by their addresses. -/
def State.engineWrite (s : State) (cells : List Host.Cell) : State := s.engineWriteAt s.spreadHome cells

/-- The homes of some places. -/
def homesOf (ps : List Place) : HomeOf := fun line =>
  ((ps.find? fun p => lineOf p.key == line).map fun p => (p.slice, p.vcache)).getD (0, false)

/-- Bytes written at places that a unit has translated. -/
def State.placeWrite (s : State) (ps : List (Place × Byte)) : State :=
  s.engineWriteAt (homesOf (ps.map fun x => x.1)) (ps.map fun x => (x.1.key, x.2))

/-- The n low bytes of a number written from a place on. -/
def State.placeNat (s : State) (p : Place) (n x : Nat) : State :=
  s.placeWrite ((leBytes n x).zipIdx.map fun b => ({ p with key := p.key + b.2 }, b.1))

/-- The n low bytes of a number written at a key by a unit of the part. -/
def State.putNat (s : State) (k n x : Nat) : State :=
  s.engineWrite ((leBytes n x).zipIdx.map fun b => (k + b.2, b.1))

/-- Bytes read at their homes by a unit of the part: shadows that the read reaches are rounded (R96). -/
def State.engineRead (s : State) (keys : List Nat) : State × List Byte :=
  let s := s.roundShadows keys
  (s, keys.map s.readByte)

/-- n bytes read from a place on. -/
def State.placeRead (s : State) (p : Place) (n : Nat) : State × List Byte := s.engineRead ((List.range n).map (p.key + ·))

/-- Write the next entry of a context's host record (R278): its ring is in the field's local memory at HOSTREC, whatever
address that is (log 16). -/
def State.hostRecord (s : State) (f c : Nat) (cause : Word) (faddr fpc : Dword) (core slot : Nat) : State :=
  match s.ctx? f c with
  | none => s
  | some x =>
    let k := physKey 0 f (x.hostrec.toNat + 32 * (x.nrec % 64))
    let s := s.modCtx f c fun x => { x with nrec := x.nrec + 1 }
    let s := s.putNat k 4 cause.toNat
    let s := s.putNat (k + 8) 8 faddr.toNat
    let s := s.putNat (k + 16) 8 fpc.toNat
    let s := s.putNat (k + 24) 2 core
    let s := s.putNat (k + 26) 1 slot
    let s := s.putNat (k + 27) 5 0
    s.putNat (k + 4) 4 (x.nrec + 1)

/-- A warp, or with 0 a unit of the part, has met the host's answer that its page has no valid entry (R394). -/
def State.metMiss (s : State) (f c u page : Nat) : State :=
  let mine : Miss → Bool := fun m => m.field == f && m.ctx == c && m.page == page && m.answered
  let met : Miss → Miss := fun m => { m with joined := m.joined.filter (· != u) }
  { s with misses := (mapWhere mine met s.misses).filter fun m => !(m.answered && m.joined.isEmpty) }

/-- A unit of the part has met the host's answer for an address. -/
def State.unitMet (s : State) (f c : Nat) (a : Dword) : State := s.metMiss f c 0 (va56 a / 2 ^ 12)

/-- A host-record entry of the part with no warp (R278): CORE 0xFFFF and WARP 0xFF. -/
def State.kilnRecord (s : State) (f c code : Nat) (faddr : Dword) : State :=
  (s.unitMet f c faddr).hostRecord f c (BitVec.ofNat 32 code) faddr 0 0xFFFF 0xFF

/-! ## Rendezvous groups (R161, R169) -/

/-- The sets of a warp's launch (R161). -/
def State.setsOf (s : State) (w : Warp) : Nat := ((s.launchOf w).map (·.sets)).getD 0

/-- The set of a warp within its block (R123, R161). -/
def State.setIdOf (s : State) (w : Warp) : Nat := if s.setsOf w = 0 then w.wid else w.wid / s.setsOf w

/-! ## Accumulators (R253) -/

/-- A warp that has not ended; a dormant one has not (R369). -/
def Warp.alive (w : Warp) : Bool := w.mode == .dormant || (w.mode != .ended && w.here != 0)

/-- The issuer that holds an accumulator has not ended (R253). -/
def State.holderAlive (s : State) (h : Holder) : Bool :=
  match h with
  | .warp u => s.warps.any fun w => w.uid == u && w.alive
  | .set b i => s.warps.any fun w => w.block == b && s.setIdOf w == i && w.alive
  | .block b => s.warps.any fun w => w.block == b && w.alive

/-- A job names an accumulator. -/
def EngJob.names (e : EngJob) (i : Nat) : Bool := decide (e.first ≤ i) && decide (i < e.first + e.span)

/-- Two register ranges share a register. -/
def overlap (a na b nb : Nat) : Bool := decide (a < b + nb) && decide (b < a + na)

/-- Two jobs share an accumulator. -/
def EngJob.meets (e g : EngJob) : Bool := e.core == g.core && overlap e.first e.span g.first g.span

/-- No earlier job of the queue shares an accumulator with a job. -/
def State.engReady (s : State) (e : EngJob) : Bool := (s.engine.takeWhile fun g => g.id != e.id).all fun g => !g.meets e

/-- The accumulators of an ended issuer become FREE once no queued operation names them (R253). -/
def State.freeAccums (s : State) : State :=
  { s with accums := s.accums.filter fun a =>
      s.holderAlive a.holder || s.engine.any fun e => e.core == a.core && e.names a.index }

/-! ## The queue table and handles, as a killed context leaves them (R282, R424) -/

/-- The BAR0 offset of a word of queue-table entry q. -/
def queueReg (q word : Nat) : Nat := 0x2000 + 16 * q + 4 * word

/-- The part writes the status of an entry: word 3 bits [9:8], with ENABLE as the host left it. -/
def State.queueStatus (s : State) (f q status : Nat) : State :=
  let on := if (s.reg f (queueReg q 3)).getLsbD 0 then 1 else 0
  s.setReg f (queueReg q 3) (BitVec.ofNat 32 (status * 2 ^ 8 + on))

/-- The entry is detached, with status 1. -/
def State.detach (s : State) (f q : Nat) : State :=
  ({ s with queues := s.queues.filter fun x => !(x.field == f && x.q == q) } : State).queueStatus f q 1

/-- The fields of a mask. -/
def maskFields (m : BitVec 4) : List Nat := (List.range 4).filter fun g => m.getLsbD g

/-- A handle's value (R420). -/
def handleOf (modul field entry : Nat) (gen : Word) : Dword :=
  BitVec.ofNat 64 (modul % 16 * 2 ^ 60 + field % 4 * 2 ^ 58 + entry % 256 * 2 ^ 48 + gen.toNat)

/-- A handle entry whose drain markers have all come, or will never come, is FREE, and REVOKE's status is written (R421, R424). -/
def State.freeEntry (s : State) (f i : Nat) : State :=
  match s.handle? f i with
  | none => s
  | some h =>
    if h.state = 2 ∧ h.drains.isEmpty then
      let free : Handle → Handle := fun x => { x with state := 0, mask := 0, byHost := false }
      let s := s.modHandle f i free
      if h.byHost then s.setReg f 0x1220 0 else s
    else s

/-- An EXPORTED entry becomes REVOKING, and a notice goes to each field that has bound it and can be reached (R424). -/
def State.revokeEntry (s : State) (f i : Nat) (byHost : Bool) : State :=
  match s.handle? f i with
  | none => s
  | some h =>
    if h.state ≠ 1 then s
    else
      let gs := (maskFields h.mask).filter fun g => s.reachable f g && s.reachable g f
      let go : Handle → Handle := fun x => { x with state := 2, drains := gs, byHost := byHost }
      let ns := gs.map fun g => ({ field := g, handle := handleOf h.modul f i h.gen, marker := false } : Notice)
      ({ s with notices := s.notices ++ ns }.modHandle f i go).freeEntry f i

/-- The handles that a context has exported are revoked (R424). -/
def State.revokeAll (s : State) (f c : Nat) : State :=
  (s.handles.filter fun h => h.field == f && h.ctx == c && h.state == 1).foldl (fun s h => s.revokeEntry f h.index false) s

/-! ## Killing a context (R266) -/

/-- The warps of a context. -/
def State.ctxWarps (s : State) (f c : Nat) : List Warp := s.warps.filter fun w => w.field == f && s.ctxidOf w == c

/-- Nothing is left of a warp's queue but entries held behind a lost store (R223, R266). -/
def Warp.drained (w : Warp) : Bool :=
  match w.sq.head? with
  | none => true
  | some e => w.lostOps.any fun l => l.2.any e.lines.contains

/-- A killed warp, of which only its queue goes on. -/
def Warp.orphaned (c : Nat) (w : Warp) : Warp :=
  { w with mode := .ended, slots := Vector.ofFn fun _ => none, parked := [], inGroup := none, asyncs := [], due := none, orphan := some c }

/-- A drain whose turn in its accumulators has come (R253, R264). -/
def State.startedDrain (s : State) (e : EngJob) : Bool :=
  match e.kind with
  | .drain _ _ _ _ _ => s.engReady e
  | _ => false

/-- The launches of a context and everything of them are abandoned (R266, R301), with its graphs (R314), its packets (R282), its
reduction sessions (R295) and its multicast sessions and deliveries (R407). A warp whose queue has yet to drain stays for that, and a drain that
has started goes on; every entry held behind a lost store is dropped with its warp. -/
def State.abandon (s : State) (f c : Nat) : State :=
  let ws := (s.ctxWarps f c).map (·.uid)
  let ls := (s.launches.filter fun l => l.field == f && l.ctx == c).map (·.uid)
  let bs := (s.blocks.filter fun b => ls.contains b.launch).map (·.uid)
  let qs := (s.queues.filter fun q => q.field == f && q.ctx == c).map (·.q)
  let holds : SpawnHold → Bool := fun h => match h.owner with
    | .image b => bs.contains b
    | .clones l => ls.contains l
  { s with
    warps := (s.warps.filter fun w => !(ws.contains w.uid && w.drained)).map fun w => if ws.contains w.uid then w.orphaned c else w
    blocks := s.blocks.filter fun b => !ls.contains b.launch
    populations := s.populations.filter fun p => !ls.contains p.launch
    launches := s.launches.filter fun l => !ls.contains l.uid
    counted := s.counted.filter fun x => !ls.contains x.launch
    constCache := s.constCache.filter fun x => !ls.contains x.launch
    spawn := s.spawn.filter fun h => !holds h
    packetOps := s.packetOps.filter fun p => !ws.contains p.warp
    taskRetry := s.taskRetry.filter fun t => !(t.field == f && qs.contains t.q)
    misses := s.misses.filter fun m => !(m.field == f && m.ctx == c)
    graphs := s.graphs.filter fun g => !(g.field == f && g.ctx == c)
    copies := s.copies.filter fun r => !(r.field == f && r.ctx == c)
    sessions := s.sessions.filter fun x => !(x.field == f && x.ctx == c)
    engine := s.engine.filter fun e => !(e.field == f && e.ctx == c) || s.startedDrain e
    mcReqs := s.mcReqs.filter fun r => !(r.field == f && r.ctx == c)
    mcSessions := s.mcSessions.filter fun r => !(r.field == f && r.ctx == c) }

/-- Something of a killed context's warps has yet to drain. -/
def State.hasOrphans (s : State) (f c : Nat) : Bool := s.warps.any fun w => w.field == f && w.orphan == some c

/-- The context is killed: its warps stop at their group boundaries, their queues drain and their loads complete, nothing
is saved, its launches are abandoned, its accumulators are freed, its queues are detached (R282), the handles it has exported are
revoked and its window slots hold no window (R424), once no store of it has still to leave through one. -/
def State.killCtx (s : State) (f c : Nat) : State :=
  let s := ((s.ctxWarps f c).map (·.uid)).foldl State.quiesce s
  let qs := (s.queues.filter fun q => q.field == f && q.ctx == c).map (·.q)
  let s := (s.abandon f c).freeAccums
  let s := qs.foldl (fun s q => s.detach f q) s
  (s.revokeAll f c).modCtx f c fun x => { x with state := .killed, wins := if s.hasOrphans f c then x.wins else [] }

/-! ### DESTROY (R266, R424) -/

/-- The part writes the status of a context command. -/
def State.commandStatus (s : State) (f x : Nat) : State := s.setReg f 0x1010 (BitVec.ofNat 32 x)

/-- A handle of a context is still EXPORTED or REVOKING. -/
def State.holdsHandles (s : State) (f c : Nat) : Bool := s.handles.any fun h => h.field == f && h.ctx == c && h.state != 0

/-- The queues of a context are detached and its launches are gone (R266, R282). -/
def State.emptyCtx (s : State) (f c : Nat) : State :=
  let qs := (s.queues.filter fun q => q.field == f && q.ctx == c).map (·.q)
  qs.foldl (fun s q => s.detach f q) (s.abandon f c).freeAccums

/-- The context is FREE: nothing of it is left, its frames have no owner and its pages no translation (R276, R380). -/
def State.freeCtx (s : State) (f c : Nat) : State :=
  let s := s.emptyCtx f c
  let lone : VFrame → VFrame := fun x =>
    { x with owner := if x.owner = c then 0 else x.owner, clean := x.clean || x.owner == c, out := x.out.filter (· != c) }
  { s with
    contexts := s.contexts.filter fun x => !(x.field == f && x.ctxid == c)
    tlb := s.tlb.filter fun e => !(e.field == f && e.ctx == c)
    misses := s.misses.filter fun m => !(m.field == f && m.ctx == c)
    frames := mapWhere (fun x => x.field == f) lone s.frames
    destroying := s.destroying.filter fun (x : Nat × Nat) => x != (f, c) }

/-- Something that a context's warps have started has yet to come to its end. -/
def State.ctxMoves (s : State) (f c : Nat) : Bool :=
  s.hasOrphans f c || (s.engine.any fun e => e.field == f && e.ctx == c) ||
  (s.flights.any fun g => g.src == f && g.ctx == c && !g.applied && !g.lost) ||
  s.areqs.any fun r => r.src == f && r.ctx == c && !r.applied && !r.lost

/-- Killed warps whose queues have drained are gone, and with the last of a context its windows. -/
def State.dropOrphans (s : State) : State :=
  let s : State := { s with warps := s.warps.filter fun w => !(w.orphan.isSome && w.drained) }
  { s with contexts := mapWhere (fun c => c.state == .killed && !s.hasOrphans c.field c.ctxid) (fun c => { c with wins := [] }) s.contexts }

/-- A DESTROY whose context's handles are all FREE, and of which nothing is in motion, is done, and its status is written (R424). -/
def State.settleDestroys (s : State) : State :=
  s.destroying.foldl (fun s (x : Nat × Nat) =>
    if s.holdsHandles x.1 x.2 || s.ctxMoves x.1 x.2 then s else (s.freeCtx x.1 x.2).commandStatus x.1 0) s

/-- What ends with a context that is gone, once something of it has come to its end. -/
def State.settleGone (s : State) : State := s.dropOrphans.settleDestroys

/-! ## Rendezvous objects (R167 to R171, R195) -/

/-- The warps of a block that still have a non-exited lane, by ascending index. -/
def State.blockWarps (s : State) (block : Nat) : List Warp :=
  sortBy (·.wid) (s.warps.filter fun w => w.block == block && w.mode != .ended && w.here != 0)

/-- The counted members of a warp's group at a scope (R169, R171). -/
def State.members (s : State) (w : Warp) (sc : Scope) : List Warp :=
  match sc with
  | .lane => [w]
  | .warp => [w]
  | .set => (s.blockWarps w.block).filter fun x => s.setIdOf x == s.setIdOf w
  | .block => s.blockWarps w.block

/-- The rendezvous object of a warp's set or block. -/
def State.rvOf (s : State) (w : Warp) (sc : Scope) : Rv :=
  match s.block? w.block with
  | none => { state := .opened, todo := [], memo := none }
  | some b => if sc = .block then b.blockRv else (b.setRvs[s.setIdOf w]?).getD b.blockRv

/-- Change the rendezvous object of a warp's set or block. -/
def State.modRv (s : State) (w : Warp) (sc : Scope) (g : Rv → Rv) : State :=
  s.modBlock w.block fun b =>
    if sc = .block then { b with blockRv := g b.blockRv }
    else { b with setRvs := b.setRvs.setIfInBounds (s.setIdOf w) (g ((b.setRvs[s.setIdOf w]?).getD b.blockRv)) }

/-- A wide scope gathers more than one warp. -/
def gathers (sc : Scope) : Bool :=
  match sc with
  | .lane => false
  | .warp => false
  | .set => true
  | .block => true

/-- The scope that CAUSE bits [7:6] hold for DIVERGED_RENDEZVOUS (R205). -/
def causeScope (c : Word) : Scope :=
  if bitsOf c.toNat 7 6 = 3 then .block else if bitsOf c.toNat 7 6 = 2 then .set else .warp

/-- Change every split that a warp's trap frame holds. -/
def Warp.mapFrame (w : Warp) (g : Split → Split) : Warp :=
  let put : Frame → Frame := fun fr => { fr with slots := fr.slots.map fun (o : Option Split) => o.map g, parked := fr.parked.map g }
  { w with frame := w.frame.map put }

/-- Forget that a rendezvous released the splits of the members, those in trap frames too (R196, R213). -/
def State.unrelease (s : State) (w : Warp) (sc : Scope) : State :=
  let us := (s.members w sc).map (·.uid)
  let clear : Split → Split := fun y => { y with released := none }
  { s with warps := mapWhere (fun x => us.contains x.uid) (fun x => (x.mapSplits clear).mapFrame clear) s.warps }

/-- Set the state of a warp's own rendezvous object. In the handler it changes between OPEN and RELEASED only: where the stopped splits have left
it GATHERING or FAULTED it stays so (R195, R207, log 122). -/
def Warp.setRv (w : Warp) (x : RvState) : Warp :=
  if w.mode == .handler && (w.rv == .gathering || w.rv == .faulted) then w else { w with rv := x }

/-- The part of one member has completed or is dropped; with the last the object is OPEN again (R195, R196). -/
def State.partDone (s : State) (w : Warp) (sc : Scope) : State :=
  match sc with
  | .lane => s
  | .warp =>
    let clear : Split → Split := fun y => { y with released := none }
    s.modWarp w.uid fun x => (x.mapSplits clear).setRv .opened
  | _ =>
    let todo := (s.rvOf w sc).todo.filter (· != w.uid)
    if todo.isEmpty then
      (s.modRv w sc fun _ => { state := .opened, todo := [], memo := none }).unrelease w sc
    else s.modRv w sc fun r => { r with todo := todo }

/-- The state of the object of a warp at a scope. -/
def State.setRvState (s : State) (w : Warp) (sc : Scope) (x : RvState) : State :=
  match sc with
  | .lane => s
  | .warp => s.modWarp w.uid fun y => { y with rv := x }
  | _ => s.modRv w sc fun r => { r with state := x }

/-- The other members of a faulted SET- or BLOCK-scope instruction are HELD, or go on (R196, R160). -/
def State.holdOthers (s : State) (w : Warp) (sc : Scope) (old new : Mode) : State :=
  let us := (s.members w sc).map (·.uid)
  let put : Warp → Warp := fun x => { x with mode := new }
  { s with warps := mapWhere (fun x => us.contains x.uid && x.uid != w.uid && x.mode == old) put s.warps }

/-! ## Taking an exception (R204 to R208) -/

/-- Every outstanding load of the warp has written its destination, and its queue is empty but for entries held behind a
lost store (R204, R206). -/
def State.quiet (s : State) (u : Nat) : Bool :=
  match s.warp? u with
  | none => true
  | some w =>
    (w.loads.all fun op => op.done || !op.kind.writes) &&
    (match w.sq.head? with
      | none => true
      | some e => w.lostOps.any fun l => l.2.any e.lines.contains)

/-- Stand at the group's first word again, with no hint pending (R46, R160). -/
def State.backToGroup (s : State) (u slot : Nat) (pc : Dword) : State :=
  s.modWarp u fun w => { (w.modSplit slot fun x => { x with pc := pc, start := pc, hints := [] }) with inGroup := none }

/-- The warp enters handler mode (R204). -/
def Warp.enterHandler (w : Warp) (r : Report) (handler : Dword) : Warp :=
  let w := w.modSplit r.slot fun x => { x with pc := r.fpc, start := r.fpc, hints := [] }
  let mask := ((w.split? r.slot).map (·.mask)).getD 0
  let fr : Frame :=
    { slots := w.slots, parked := w.parked, slot := r.slot, next := r.next, member := r.member, once := r.once,
      diverged := r.diverged, lost := r.lost, pop := r.pop }
  { w with
    frame := some fr
    slots := (Vector.ofFn fun _ => none).setIfInBounds 0 (some (Split.fresh handler mask))
    parked := []
    lastSlot := 3
    inGroup := none
    stepDue := none
    due := none
    cause := r.trap.word
    faddr := r.trap.faddr
    fpc := r.fpc
    fpcWritten := false
    mode := .handler }

/-- The destination of a faulted load reads 0 in the affected lanes once it is reported (R210). -/
def Warp.zeroFaulted (w : Warp) (a : AsyncCause) : Warp :=
  let put : Warp → Nat × LaneMask → Warp := fun w z =>
    if hZero 0 ≤ z.1 then (if z.2 = 0 then w else { w with h := w.h.setIfInBounds (z.1 - hZero 0) 0 })
    else { w with v := w.v.setIfInBounds z.1 (mergeRow z.2 (splat 0) (w.row z.1)) }
  a.zero.foldl put w

/-- A ray's cause has been delivered (R361). -/
def Warp.rayTold (w : Warp) (lane : Nat) : Warp :=
  let told : Ray → Ray := fun r => { r with fault := none }
  { w with rays := w.rays.setIfInBounds lane (((w.rays[lane]?).getD none).map told) }

/-- An asynchronous cause has been delivered: it is no longer pending (R210, R211). -/
def Warp.deliver (w : Warp) (a : AsyncCause) : Warp :=
  if a.kind = .ray then w.rayTold a.lane
  else { (w.zeroFaulted a) with asyncs := w.asyncs.filter fun b => decide (b ≠ a) }

/-- A check of a population's rendezvous is reported: the population is FAULTED and every other of its warps with a thread is
HELD (R371). -/
def State.holdPopulation (s : State) (w : Warp) : State :=
  match s.launchOf w with
  | none => s
  | some l =>
    let bs := (s.blocks.filter fun b => b.launch == l.uid).map (·.uid)
    let hold : Warp → Warp := fun x => { x with mode := .held }
    let fault : Population → Population := fun x => { x with state := .faulted }
    ({ s with warps := mapWhere (fun x => bs.contains x.block && x.uid != w.uid && x.here != 0 && x.mode == .normal) hold s.warps }
      : State).modPop l.uid fault

/-- The handler entry of a warp that is quiet (R204): the object of a member's fault is FAULTED and the other members are HELD
(R195, R196), the object of a divergence is FAULTED (R168), and an asynchronous cause is no longer pending. -/
def State.enter (s : State) (w : Warp) (r : Report) (handler : Dword) : State :=
  let s := s.modWarp r.u fun w => w.enterHandler r handler
  let s := match r.cause with
    | some a => s.modWarp r.u fun w => w.deliver a
    | none => s
  let s := if r.pop then s.holdPopulation w else s
  if r.diverged then s.setRvState w (causeScope r.trap.word) .faulted
  else
    match r.member with
    | none => s
    | some sc => (s.setRvState w sc .faulted).holdOthers w sc .normal .held

/-- Take an exception: a cause in handler mode kills the context with HANDLER_FAULT (R208); a context with no handler is
killed (R204); otherwise the warp drains and enters its handler. While loads or the queue cannot finish yet, the group stands at
its first word, the cause is due, and nothing else changes (log 17). -/
def State.report (s : State) (r : Report) : State :=
  match s.warp? r.u with
  | none => s
  | some w =>
    let f := w.field
    let c := s.ctxidOf w
    match s.ctx? f c with
    | none => s
    | some ctx =>
      if w.mode = .handler then
        let rec_ : Trap := { Trap.plain 16 with code2 := r.trap.code }
        (s.hostRecord f c rec_.word r.trap.faddr r.fpc w.core w.slot).killCtx f c
      else if ctx.handler = 0#64 then
        let rec_ : Trap := { r.trap with code := 61, code2 := r.trap.code }
        (s.hostRecord f c rec_.word r.trap.faddr r.fpc w.core w.slot).killCtx f c
      else
        let s := (s.backToGroup r.u r.slot r.fpc).quiesce r.u
        if !s.quiet r.u then s.modWarp r.u fun w => { w with due := some r }
        else
          let s := if r.trap.code = 18 then s.metMiss f c r.u (va56 r.trap.faddr / 2 ^ 12) else s
          s.enter w r ctx.handler

/-! ## Asynchronous causes (R210, R211) -/

/-- The cause of an asynchronous fault (R210). -/
def AsyncCause.trap (a : AsyncCause) : Trap := { Trap.at a.code a.faddr a.lane with async := true }

/-- The report names the lost store, whose held entries drain after the ERET (R237). -/
def AsyncCause.lost (a : AsyncCause) : Option Nat := if a.code = 33 ∨ a.code = 35 then some a.op else none

/-! ## Returning from an exception (R209, R168, R196) -/

/-- How ERET resumes: by replay, by skip, or at a written FPC. -/
inductive Resume where
  | replay
  | skip
  | written
  deriving DecidableEq, Repr

/-- A split whose part of a rendezvous was done when another cause was reported stays behind the other members' parts (R196). -/
def Frame.keeps (fr : Frame) (x : Split) : Option Scope := if fr.member.isSome || fr.pop then none else x.released

/-- The warp leaves handler mode with the splits of its frame (R209): lanes that exited in the handler are gone. -/
def Warp.leaveHandler (w : Warp) (fr : Frame) (how : Resume) : Warp :=
  let keep : Split → Split := fun x => { x with mask := x.mask &&& w.here, hints := [] }
  let w := { w with
    slots := fr.slots.map fun (o : Option Split) => o.map keep
    parked := fr.parked.map keep
    frame := none
    mode := .normal
    inGroup := none
    lastSlot := fr.slot
    lostOps := match fr.lost with
      | some op => w.lostOps.filter fun l => l.1 != op
      | none => w.lostOps }
  let w :=
    match how with
    | .replay => w.modSplit fr.slot fun x =>
        { x.atGroup w.fpc with
          waiting := fr.diverged
          want := if fr.diverged then some (causeScope w.cause, fr.next) else none
          released := fr.member.or x.released }
    | .skip => w.modSplit fr.slot fun x => { x.atGroup fr.next with released := fr.keeps x }
    | .written => w.modSplit fr.slot fun x => { x.atGroup w.fpc with released := fr.keeps x }
  let full : Option Split → Option Split := fun o => o.bind fun x => if x.mask = 0 then none else some x
  let w : Warp := { w with slots := w.slots.map full }
  ({ w with parked := w.parked.filter fun x => x.mask != 0 }).unpark

/-- Every other member of an instruction that was issued once passes its group when it is skipped (R196). -/
def State.passMembers (s : State) (w : Warp) (sc : Scope) (next : Dword) : State :=
  let us := ((s.members w sc).map (·.uid)).filter (· != w.uid)
  let pass : Split → Split := fun y => if y.released.isSome then y.atGroup next else y
  { s with warps := mapWhere (fun x => us.contains x.uid) (fun x => x.mapSplits pass) s.warps }

/-- ERET of a warp with its trap frame (R209): the splits return, and the rendezvous object goes on as R168 and R196
give. -/
def State.eret (s : State) (w : Warp) (fr : Frame) (how : Resume) : State :=
  let s := s.modWarp w.uid fun w => w.leaveHandler fr how
  match fr.member with
  | none => if fr.diverged then s.setRvState w (causeScope w.cause) .gathering else s
  | some sc =>
    let s := s.holdOthers w sc .held .normal
    match how with
    | .replay => s.setRvState w sc .released
    | _ =>
      if fr.once && gathers sc then
        ((s.passMembers w sc fr.next).modRv w sc fun _ => { state := .opened, todo := [], memo := none }).unrelease w sc
      else
        let s := (s.setRvState w sc .released).partDone w sc
        -- it issues nothing past the group while other parts remain
        if gathers sc && !(s.rvOf w sc).todo.isEmpty then
          s.modWarp w.uid fun x => x.modSplit fr.slot fun y => { y with released := some sc }
        else s

/-! ### The return from a check of a population's rendezvous (R371) -/

/-- Stand at a group, waiting for its block's rendezvous again. -/
def Split.regather (pc next : Dword) (x : Split) : Split :=
  { x with pc := pc, start := pc, hints := [], waiting := true, want := some (.block, next), blocked := none, released := none }

/-- Every split of a warp changes with `g`; one that was HELD goes on. -/
def Warp.resumeWith (g : Split → Split) (w : Warp) : Warp :=
  { w.mapSplits g with mode := if w.mode = .held then .normal else w.mode }

/-- The warps of a block that waits at RSMPL, the reporting warp aside where `spare`, wait for their block's rendezvous again, or
go on after it. -/
def State.popResume (s : State) (reporter : Nat) (spare replay : Bool) (b : Block) : State :=
  let go : Warp → Warp := match b.rsmpl with
    | none => fun w => w.resumeWith id
    | some r => fun w =>
      if replay then w.resumeWith (Split.regather r.start r.next)
      else w.resumeWith fun x => { x.atGroup r.next with released := none }
  let rv : Rv := { state := if replay then .gathering else .opened, todo := [], memo := none }
  let clear : Block → Block := fun x => if x.rsmpl.isSome then { x with rsmpl := none, blockRv := rv } else x
  ({ s with warps := mapWhere (fun x => x.block == b.uid && !(spare && x.uid == reporter) && x.here != 0) go s.warps } : State).modBlock
    b.uid clear

/-- ERET of a warp that reports a check of its population (R371, R209): with replay the population gathers again, with skip every
warp goes on after its RSMPL; the mode rules the others when the handler has written FPC. -/
def State.popEret (s : State) (w : Warp) (fr : Frame) (how mode : Resume) : State :=
  let replay := mode == .replay
  let s := s.modWarp w.uid fun w => w.leaveHandler fr how
  match s.launchOf w with
  | none => s
  | some l =>
    let spare := how != .replay
    let s := (s.blocks.filter fun b => b.launch == l.uid).foldl (fun s b => s.popResume w.uid spare replay b) s
    let put : Population → Population := fun p => { p with state := if replay then .gathering else .running }
    s.modPop l.uid put

end Sys2Proof.Machine
end

