-- ==== Sys2Proof/Machine/Operands.lean ====
section
/-! DEFINITION. What an issued instruction works on: its warp, its lanes and its hints (R5, R37 to R41), and the operand
forms of R26 to R28, the constant window among them (R136). -/

namespace Sys2Proof.Machine

open Sys2Proof

/-- An instruction that has passed the checks before its effect: its warp, the slot of its split, the addresses of its
group, of its own word and of the word after the group, its scope, its lanes, its hint payloads, the numbers of its d, a and
b registers with the XREG bits, the context, and for an instruction issued once the members of its group. -/
structure Job where
  w : Warp
  slot : Nat
  start : Dword
  addr : Dword
  next : Dword
  scope : Scope
  live : LaneMask
  ximm : Option (BitVec 20)
  xmod : BitVec 20
  xpred : Option (BitVec 20)
  d : Nat
  a : Nat
  b : Nat
  ctx : Context
  launch : Launch
  block : Block
  members : List Warp
  deriving DecidableEq, Repr

/-- The lanes of a warp that an XPRED hint leaves (R41). -/
def xpredMask (w : Warp) (x : Option (BitVec 20)) : LaneMask :=
  match x with
  | none => 0xFFFFFFFF#32
  | some p =>
    let q := w.pred (p.extractLsb' 0 3).toNat
    if p.getLsbD 3 then ~~~q else q

/-- The lanes of the one split of a member warp that take part (R167, R5). -/
def Job.liveOf (j : Job) (w : Warp) : LaneMask :=
  if w.uid = j.w.uid then j.live
  else ((w.heldSlots.head?.bind w.split?).map (·.mask)).getD 0 &&& xpredMask w j.xpred

/-- The lowest live lane. -/
def Job.low (j : Job) : Nat := lowLane j.live

/-- The byte offset of a pending XIMM (R37). -/
def Job.offset (j : Job) : Dword := (j.ximm.map (·.signExtend 64)).getD 0

/-- The rounding mode of XMOD RND (R39). -/
def Job.rnd (j : Job) : Rnd :=
  match (j.xmod.extractLsb' 0 3).toNat with
  | 2 => .rz
  | 3 => .rd
  | 4 => .ru
  | _ => .rn

/-- Whether flushing applies (R86). -/
def Job.ftz (j : Job) : Bool :=
  match (j.xmod.extractLsb' 3 2).toNat with
  | 0 => j.ctx.modes.getLsbD 3
  | 2 => true
  | _ => false

/-- Flushing under the context's default setting alone (R154). -/
def Job.ftzDefault (j : Job) : Bool := j.ctx.modes.getLsbD 3

/-- XMOD SAT. -/
def Job.sat (j : Job) : Bool := j.xmod.getLsbD 5

/-- XMOD AORDER (R39). -/
def Job.aorder (j : Job) : Nat := (j.xmod.extractLsb' 6 3).toNat

/-- The scope of XMOD ASCOPE, 0 CORE to 3 SYSTEM (R39). -/
def Job.ascope (j : Job) : Nat :=
  match (j.xmod.extractLsb' 9 3).toNat with
  | 0 => 2
  | 1 => 0
  | 2 => 1
  | _ => 3

/-- A value, a cause, or a wait at issue with the state in which it waits. -/
inductive Got (α : Type) where
  | ok (x : α)
  | trap (t : Trap)
  | wait (s : State)

/-- Go on with a value. -/
def Got.bind {α β : Type} (g : Got α) (k : α → Got β) : Got β :=
  match g with
  | .ok x => k x
  | .trap t => .trap t
  | .wait s => .wait s

/-- The values that a cache which does not observe stores may hold of a word (R21, R138): as memory stood when the launch took it, and
any value stored since. -/
def State.wordValues (s : State) (old : List Host.Cell) (mark k : Nat) : List Word :=
  let since := (s.stored.take (s.stored.length - mark)).filterMap fun (x : Nat × Word) => if x.1 = k then some x.2 else none
  (BitVec.ofNat 32 (leNat (memRead old k 4)) :: since).eraseDups

/-- A cache takes a word from its home now (R21, R138, log 6). -/
def State.refetches (s : State) (k : Nat) : Bool := s.someBit (16384 + k / 4 % 16384)

/-- The word at a key as its home gives it: a read that reaches its line rounds the line's shadows (R96). -/
def State.homeWord (s : State) (k : Nat) : Word := BitVec.ofNat 32 ((if s.shadows.isEmpty then s else s.roundShadows [k]).readNat k 4)

/-- The word at a key as a constant or code cache gives it: one of those values or the home's, whichever (R21, R138, log 6). -/
def State.cachedWord (s : State) (old : List Host.Cell) (mark k : Nat) : Word :=
  let xs := s.wordValues old mark k
  if xs = [s.homeWord k] then s.homeWord k
  else if s.refetches k then s.homeWord k
  else xs.getD ((s.someWord (16384 + k / 4 % 16384)).toNat % xs.length) 0

/-- The homes round the shadows of the words that a cache takes from them (R96). -/
def State.noteCached (s : State) (keys : List Nat) : State :=
  let ks := keys.filter s.refetches
  if s.shadows.isEmpty || ks.isEmpty then s else s.roundShadows ks

/-- The failing word's place, as CONST_RANGE reports it (R136). -/
def constFaddr (bank word : Nat) : Dword := BitVec.ofNat 64 (bank * 2 ^ 32 + word)

/-- The address of word `word` of a bank. -/
def Launch.constWordAddr (l : Launch) (bank word : Nat) : Dword := (l.constAddr[bank]?).getD 0 + BitVec.ofNat 64 (4 * word)

/-- The key of a word that the core's constant cache holds for the launch: it is translated only when it is first read (R136). -/
def State.constCached (s : State) (j : Job) (a : Dword) : Option Nat :=
  (s.constCache.find? fun x => x.core == j.w.core && x.launch == j.launch.uid && x.va == a).map (·.key)

/-- Words of a constant bank that have been read stay in the core's constant cache (R136). -/
def State.cacheConsts (s : State) (j : Job) (bank : Nat) (words : List Nat) : State :=
  let read := words.eraseDups.filterMap fun n =>
    let a := j.launch.constWordAddr bank n
    let word : Nat → ConstWord := fun k => { core := j.w.core, launch := j.launch.uid, va := a, key := k }
    if (j.launch.constSize[bank]?).getD 0 ≤ n then none
    else
      match s.constCached j a, s.access j.ctx .load a with
      | some k, _ => some (word k)
      | none, .ok p => some (word p.key)
      | none, _ => none
  let new := read.filter fun x => (s.constCached j x.va).isNone
  (if new.isEmpty then s else { s with constCache := s.constCache ++ new }).noteCached (read.map (·.key))

/-- Read word `word` of a constant bank for a lane (R136); bank 7 of a tile's block is its binding table (R324). Of a bank that runs across
2^55 the words beyond it are translated by the low 56 bits of their address, without a check of its form (DESIGN CHOICE, log 124). -/
def State.constWord (s : State) (j : Job) (bank word lane : Nat) : Got Word :=
  let table := j.block.tile.isSome && decide (bank = 7)
  let size := if table then 32 else (j.launch.constSize[bank]?).getD 0
  if size ≤ word then .trap (Trap.at 25 (constFaddr bank word) lane)
  else if table then .ok ((j.block.bind[word]?).getD 0)
  else
    let a := j.launch.constWordAddr bank word
    match s.constCached j a with
    | some k => .ok (s.cachedWord j.launch.consts j.launch.constAt k)
    | none =>
      match s.access j.ctx .load a with
      | .wait => .wait (s.noteMiss j.ctx .load a)
      | .trap c => .trap (Trap.at c a lane)
      | .ok p => .ok (s.cachedWord j.launch.consts j.launch.constAt p.key)

/-- The bank and the first word of the constant window (R136). -/
def cwinBank (c : Word) : Nat := (c.extractLsb' 16 3).toNat
def cwinWord (c : Word) : Nat := (c.extractLsb' 0 14).toNat

/-- The operand c[b] (R136); with no live lane it is not read. -/
def State.constOp (s : State) (j : Job) (b : Nat) : Got Word :=
  if j.live = 0 then .ok 0
  else s.constWord j (cwinBank j.w.cwin) (cwinWord j.w.cwin + b) j.low

/-- Which row of R28 a family reads its immediates by. -/
inductive ImmRow where
  | int
  | fp32
  | packed (f : Fmt)
  deriving DecidableEq, Repr

/-- A 6-bit immediate (R28). -/
def ImmRow.small (k : ImmRow) (i : BitVec 6) : Word :=
  match k with
  | .int => i.signExtend 32
  | .fp32 => BitVec.ofNat 32 (intBits Sys2Proof.Machine.fp32 i.toInt)
  | .packed f => let h : BitVec 16 := BitVec.ofNat 16 (intBits f i.toInt); h ++ h

/-- An XIMM payload as the b operand (R28). -/
def ImmRow.payload (k : ImmRow) (p : BitVec 20) : Word :=
  match k with
  | .int => p.signExtend 32
  | .fp32 => p ++ 0#12
  | .packed _ => p.extractLsb' 0 16 ++ p.extractLsb' 0 16

/-- The b operand as one word alike in every lane: every form but a v register. -/
def State.uniform (s : State) (j : Job) (k : ImmRow) (b : Opb) : Got Word :=
  match b with
  | .v _ => .ok 0
  | .s r => .ok (j.w.sreg r.toNat)
  | .imm i => .ok (k.small i)
  | .const i => s.constOp j i.toNat
  | .resv _ => .ok 0
  | .ximm => .ok (k.payload (j.ximm.getD 0))
  | .lit w => .ok w

/-- The b operand in every lane (R26 to R28). -/
def State.operand (s : State) (j : Job) (k : ImmRow) (b : Opb) : Got Row :=
  match b with
  | .v _ => .ok (j.w.row j.b)
  | _ => (s.uniform j k b).bind fun x => .ok (splat x)

/-- The 64-bit b operand, alike in every lane: every form but a v pair (R27, R28). -/
def State.uniform64 (s : State) (j : Job) (b : Opb) : Got Dword :=
  match b with
  | .v _ => .ok 0
  | .s r => .ok (j.w.sreg64 r.toNat)
  | .imm i => .ok (i.signExtend 64)
  | .const i => (s.constOp j i.toNat).bind fun lo => (s.constOp j (i.toNat + 1)).bind fun hi => .ok (pairOf lo hi)
  | .resv _ => .ok 0
  | .ximm => .ok ((j.ximm.getD 0).signExtend 64)
  | .lit w => .ok (w.signExtend 64)

/-- The 64-bit b operand in every lane. -/
def State.operand64 (s : State) (j : Job) (b : Opb) : Got Row64 :=
  match b with
  | .v _ => .ok (j.w.row64 j.b)
  | _ => (s.uniform64 j b).bind fun x => .ok (Vector.ofFn fun _ => x)

/-! ## Addresses -/

/-- The first failing lane of a per-lane check, with its cause. -/
def firstFail {α : Type} (lanes : List Nat) (check : Nat → Got α) : Got (List (Nat × α)) :=
  match lanes with
  | [] => .ok []
  | i :: is => (check i).bind fun x => (firstFail is check).bind fun xs => .ok ((i, x) :: xs)

/-- Check one lane's access (R125, R129): canonical form, alignment, translation and permission. -/
def State.checkLane (s : State) (c : Context) (k : AccKind) (size : Nat) (ea : Dword) (lane : Nat) : Got Place :=
  if !canonical ea then .trap (Trap.at 22 ea lane)
  else if ea.toNat % size ≠ 0 then .trap (Trap.at 23 ea lane)
  else
    match s.access c k ea with
    | .ok p => .ok p
    | .trap code => .trap (Trap.at code ea lane)
    | .wait => .wait (s.noteMiss c k ea)

/-- Check the accesses of the live lanes in ascending order: the places, or the lowest failing lane's cause (R129). -/
def State.checkLanes (s : State) (j : Job) (k : AccKind) (size : Nat) (ea : Nat → Dword) : Got (List (Nat × Place)) :=
  firstFail (lanesOf j.live) fun i => s.checkLane j.ctx k size (ea i) i

/-- The access of a lane that passed its check. -/
def Place.acc (p : Place) (lane : Nat) (va : Dword) : Access :=
  { lane := lane, key := p.key, home := p.home, isLocal := p.isLocal, nt := p.nt, va := va }

end Sys2Proof.Machine
end

