-- ==== Sys2Proof/Machine/Flags.lean ====
section
/-! DEFINITION. Predicates and exceptions: the integer and float conditions and the combine rules (R109, R151), and the trap
that a float exception takes (R147). -/

namespace Sys2Proof.Machine

open Sys2Proof

/-- The combine rules of a compare on a lane's predicate bit (R109). -/
def combined (comb : BitVec 2) (old c : Bool) : Bool :=
  match comb.toNat with
  | 1 => old && c
  | 2 => old || c
  | _ => c

/-- Combine an outcome per lane into predicate q of a warp (R109). -/
def Warp.combine (w : Warp) (live : LaneMask) (q : Nat) (comb : BitVec 2) (c : Nat → Bool) : Warp :=
  w.setPred live q (maskOf fun i => combined comb ((w.pred q).getLsbD i) (c i))

/-- Signed comparisons of words (R109). -/
def ltS (x y : Word) : Bool := decide (x.toInt < y.toInt)
def leS (x y : Word) : Bool := decide (x.toInt ≤ y.toInt)

/-- Unsigned comparisons of words (R109). -/
def ltU (x y : Word) : Bool := decide (x.toNat < y.toNat)
def leU (x y : Word) : Bool := decide (x.toNat ≤ y.toNat)

/-- The float conditions of R151: the outcome and what it signals. `sig` says that any NaN signals; `nan` is the outcome when
an operand is NaN. -/
def floatCond (ftz sig nan : Bool) (c : Ordering → Bool) (x y : Word) : Bool × Fx :=
  let a := fp32.decode (fp32.flush ftz x.toNat)
  let b := fp32.decode (fp32.flush ftz y.toNat)
  match cmpVal a b with
  | none => (nan, if sig then fxInvalid else sigInvalid [a, b])
  | some o => (c o, fxNone)

/-- The trap of a float instruction, if an exception that the context enables arises in a live lane (R147): the lowest such
lane, with every exception of that lane. -/
def Job.floatTrap (j : Job) (fx : Nat → Fx) : Option Trap :=
  match (lanesOf j.live).find? fun i => fx i &&& j.ctx.fpxen != 0 with
  | none => none
  | some i => some { Trap.at 17 0 i with fpx := fx i }

end Sys2Proof.Machine
end

