-- ==== Sys2Proof/Machine/Issue.lean ====
section
/-! DEFINITION. How an instruction issues: the decode causes in their order (R47), the asynchronous causes its group
depends on (R210, R211), the registers it waits for (R103), its rendezvous (R167 to R170), PARTIAL_MASK (R41), and what
becomes of its group afterwards (R46, R164). Every meaning of an instruction word is one call of `issue`. -/

namespace Sys2Proof

/-- The number of v registers that b names: `n` when it is a v register. -/
def Opb.vcount (b : Opb) (n : Nat) : Nat :=
  match b with
  | .v _ => n
  | _ => 0

/-- The 6-bit number in the b field. -/
def Opb.num (b : Opb) : Nat := b.bits.toNat

def Opb.isResv : Opb → Bool
  | .resv _ => true
  | _ => false

def Opb.isImm : Opb → Bool
  | .imm _ => true
  | _ => false

def Opb.isV : Opb → Bool
  | .v _ => true
  | _ => false

def Opb.isXimm : Opb → Bool
  | .ximm => true
  | _ => false

/-- A 64-bit b operand that names an odd register or constant, or the last constant word without a partner (R27). -/
def Opb.badPair (b : Opb) : Bool :=
  match b with
  | .v r => r.getLsbD 0
  | .s r => r.getLsbD 0
  | .const i => i.getLsbD 0
  | _ => false

end Sys2Proof

namespace Sys2Proof.Machine

open Sys2Proof

/-! ## What the manual says of an instruction before it executes -/

/-- The classes of R53; `gathered` are JOIN and PHQ, which require BLOCK scope (R53, R200). -/
inductive Cls where
  | laneWise
  | crossLane
  | exchange
  | engine
  | rsmpl
  | scalar
  | branch
  | laneOnly
  | gathered
  deriving DecidableEq, Repr

/-- The scopes of a class (R52). -/
def Cls.scopeOk : Cls → Scope → Bool
  | .laneWise, _ => true
  | .crossLane, sc => sc != .lane
  | .exchange, sc => sc == .warp || sc == .set
  | .engine, sc => sc != .lane
  | .rsmpl, sc => sc == .block
  | .scalar, _ => true
  | .branch, _ => true
  | .laneOnly, sc => sc == .lane
  | .gathered, sc => sc == .block

/-- A class whose instructions are issued once for every member of the group (R196, R52). -/
def Cls.once : Cls → Bool
  | .crossLane => true
  | .exchange => true
  | .engine => true
  | .rsmpl => true
  | .gathered => true
  | _ => false

/-- XMOD fields as masks of the payload (R39). -/
def xmSat : BitVec 20 := 0x20
def xmFtz : BitVec 20 := 0x18
def xmRnd : BitVec 20 := 0x7
def xmOrder : BitVec 20 := 0xFC0
def xmClass : BitVec 20 := 0x3000

/-- An instruction's class and scope, its register fields with how many v registers each names (0 when it names none) and
whether d is read and written, its b operand and whether it is 64 bits wide, the h registers it reads and those it only writes, the hints it accepts (R43), its
operand checks, and what it depends on: the lanes in which it reads its register field k (0 d, 1 a, 2 b), pending causes by a
rule of its own, and causes that its operands themselves hold. -/
structure Meta where
  cls : Cls
  scope : Scope
  d : Nat := 0
  nd : Nat := 0
  readD : Bool := false
  a : Nat := 0
  na : Nat := 0
  b : Nat := 0
  nb : Nat := 0
  opb : Option Opb := none
  wide : Bool := false
  hs : List Nat := []
  hw : List Nat := []
  ximm : Bool := false
  xreg : Bool := false
  xmod : BitVec 20 := 0
  xpred : Bool := false
  noPartial : Bool := false
  rasterOnly : Bool := false
  privileged : Bool := false
  bad : Bool := false
  badPayload : BitVec 20 → Bool := fun _ => false
  reach : State → Job → Nat → LaneMask := fun _ j _ => j.live
  dep : State → Job → AsyncCause → Bool := fun _ _ _ => false
  own : Job → List AsyncCause := fun _ => []

/-! ## Hints (R37 to R43) -/

def hintOf (hs : List Hint) (k : Nat) : Option (BitVec 20) := (hs.find? (·.kind == k)).map (·.payload)

/-- The v-field bits an instruction accepts in XREG (R38). -/
def Meta.xregMask (m : Meta) : BitVec 20 :=
  (if m.nd = 0 then 0#20 else 1#20) ||| (if m.na = 0 then 0#20 else 2#20) ||| (if m.nb = 0 then 0#20 else 4#20)

/-- A pending hint word that the instruction does not accept (R42, R43). -/
def Meta.refusesHint (m : Meta) (h : Hint) : Bool :=
  match h.kind with
  | 0 => !m.ximm
  | 1 => !m.xreg || decide (h.payload &&& ~~~m.xregMask ≠ 0)
  | 2 => decide (m.xmod = 0) || decide (h.payload &&& ~~~m.xmod ≠ 0)
  | 3 => false
  | _ => !m.xpred

/-- The hints that repeat an earlier kind (R42). -/
def repeated : List Nat → List Hint → List Hint
  | _, [] => []
  | seen, h :: hs => if seen.contains h.kind then h :: repeated seen hs else repeated (h.kind :: seen) hs

/-- The address that HINT_ORPHAN reports, if the group is orphaned: the lowest hint word that carries a fault, whether it repeats
a kind or is refused, and the instruction word, for b = 62 with no XIMM, only where no hint word does (R42; DESIGN CHOICE, log 126). -/
def Meta.orphan (m : Meta) (hs : List Hint) (addr : Dword) : Option Dword :=
  let bad := repeated [] hs ++ hs.filter m.refusesHint
  match (sortBy (fun h => h.addr.toNat) bad).head? with
  | some h => some h.addr
  | none => if (m.opb.any Opb.isXimm) && (hintOf hs 0).isNone then some addr else none

/-- An XREG bit as 64. -/
def xregBit (x : Option (BitVec 20)) (k : Nat) : Nat := if (x.getD 0).getLsbD k then 64 else 0

/-! ## The decode causes (R47) -/

/-- A register field with its v registers beyond the allocation (R27). -/
def beyond (alloc r n : Nat) : Bool := decide (n ≠ 0) && decide (alloc < r + n)

/-- The first decode cause of the group, after ILLEGAL_ENCODING (R47), with the address it reports. -/
def Meta.decodeCause (m : Meta) (s : State) (w : Warp) (hs : List Hint) (addr : Dword) : Option (Nat × Dword) :=
  let x := hintOf hs 1
  if !m.cls.scopeOk m.scope || (gathers m.scope && w.mode == .handler) || (m.scope == .set && s.setsOf w == 0) then
    some (2, addr)
  else if m.privileged && w.mode != .handler then some (5, addr)
  else if m.rasterOnly && s.variant == .lk2080n then some (6, addr)
  else
    match m.orphan hs addr with
    | some a => some (3, a)
    | none =>
      if (m.opb.any Opb.isLit) && addr.toNat % 64 == 0x3C then some (4, addr)
      else if m.bad || (m.opb.any Opb.isResv) || (hintOf hs 0).any m.badPayload then some (1, addr)
      else if beyond w.alloc (m.d + xregBit x 0) m.nd || beyond w.alloc (m.a + xregBit x 1) m.na ||
          beyond w.alloc (m.b + xregBit x 2) m.nb then some (9, addr)
      else none

/-! ## Registers with writes outstanding (R103) and asynchronous causes (R210) -/

/-- The v registers an instruction reads, each range with its field. -/
def Meta.vreads (m : Meta) (x : Option (BitVec 20)) : List (Nat × Nat × Nat) :=
  (if m.readD then [(0, m.d + xregBit x 0, m.nd)] else []) ++ [(1, m.a + xregBit x 1, m.na), (2, m.b + xregBit x 2, m.nb)]

/-- The v registers an instruction reads or writes. -/
def Meta.vuses (m : Meta) (x : Option (BitVec 20)) : List (Nat × Nat) :=
  [(m.d + xregBit x 0, m.nd), (m.a + xregBit x 1, m.na), (m.b + xregBit x 2, m.nb)]

/-- A load whose destination an instruction reads or writes. -/
def Meta.waitsFor (m : Meta) (x : Option (BitVec 20)) (op : LoadOp) : Bool :=
  !op.done &&
  match op.kind with
  | .hreg => m.hs.contains op.dest || m.hw.contains op.dest
  | .mem => (m.vuses x).any fun r => overlap r.1 r.2 op.dest op.nreg
  | .atom => (m.vuses x).any fun r => overlap r.1 r.2 op.dest op.nreg
  | .acc => (m.vuses x).any fun r => overlap r.1 r.2 op.dest op.nreg
  | _ => false

/-- Complete the loads the instruction depends on, each in its turn or ahead of earlier ones (R226): none while it must wait (R103). -/
def State.settleFor (s : State) (m : Meta) (w : Warp) (x : Option (BitVec 20)) : Option State :=
  let one : Option State → LoadOp → Option State := fun o op => o.bind fun s => s.settleOne w.uid op
  match (w.loads.filter (m.waitsFor x)).foldl one (some s) with
  | none => none
  | some s' =>
    match s'.warp? w.uid with
    | none => none
    | some w' => if w'.loads.any (m.waitsFor x) then none else some s'

/-- The group depends on a pending asynchronous cause (R210): a load's registers read in an affected lane, the first group
after a cut region, or what its own rule says. -/
def Meta.dependsOn (m : Meta) (s : State) (j : Job) (x : Option (BitVec 20)) (a : AsyncCause) : Bool :=
  m.dep s j a ||
  match a.kind with
  | .load =>
    if a.nreg = 0 then m.hs.contains a.firstReg
    else (m.vreads x).any fun r => decide (m.reach s j r.1 &&& a.lanes ≠ 0) && overlap r.2.1 r.2.2 a.firstReg a.nreg
  | .cut => true
  | _ => false

/-- The oldest of the causes that a group depends on (R211). -/
def oldest (as_ : List AsyncCause) : Option AsyncCause := (sortBy (·.seq) as_).head?

/-! ## Effects -/

/-- What executing an instruction comes to: the split goes on after the group; the live lanes go to their targets; a
cause, in the issuing warp or in a member of an instruction issued once; a block (R160); a wait at issue; or everything is
done already. -/
inductive Eff where
  | next (s : State)
  | jump (s : State) (first : Option Dword) (targets : List (Nat × Dword))
  | trap (t : Trap)
  | trapIn (w : Nat) (t : Trap)
  | block (s : State) (c : WaitCond)
  | stall (s : State)
  | done (s : State)

/-- Go on with a value, or with its cause or wait. -/
def Got.eff {α : Type} (g : Got α) (k : α → Eff) : Eff :=
  match g with
  | .ok x => k x
  | .trap t => .trap t
  | .wait s => .stall s

/-- A member's own part of an instruction that is issued once (R196). -/
def Job.onWarp (j : Job) (w : Warp) : Job := { j with w := w, live := j.liveOf w }

/-- A value for each member, or the first member's cause or wait. -/
def eachMember {α : Type} (j : Job) (ms : List Warp) (f : Job → Got α) (k : List (Warp × α) → Eff) : Eff :=
  match ms with
  | [] => k []
  | w :: rest =>
    match f (j.onWarp w) with
    | .ok x => eachMember j rest f fun xs => k ((w, x) :: xs)
    | .trap t => if w.uid = j.w.uid then .trap t else .trapIn w.uid t
    | .wait s => .stall s

/-- The oldest cause that a warp's part of the group depends on, with those of the instruction's own operands once it executes
(`runs`, R361); none is reported in handler mode (R208, R211). -/
def Meta.causeIn (m : Meta) (s : State) (j : Job) (x : Option (BitVec 20)) (runs : Bool) : Option AsyncCause :=
  if j.w.mode = .handler then none else oldest ((j.w.asyncs.filter (m.dependsOn s j x)) ++ if runs then m.own j else [])

/-- The instruction reads and writes registers of every member (R186 to R194). -/
def Cls.spans : Cls → Bool
  | .crossLane => true
  | .exchange => true
  | _ => false

/-- The group depends on a cause of another member of an instruction that is issued once: on its registers only where the
instruction reads them (R196, R210). -/
def Meta.memberDep (m : Meta) (s : State) (j : Job) (x : Option (BitVec 20)) (a : AsyncCause) : Bool :=
  if m.cls.spans then m.dependsOn s j x a else m.dep s j a || a.kind == .cut

/-- The first other member with a cause that an instruction issued once depends on, and its oldest such cause. -/
def Job.memberCause (j : Job) (s : State) (m : Meta) (x : Option (BitVec 20)) : Option (Warp × AsyncCause) :=
  if !(m.cls.once && gathers m.scope) then none
  else
    (j.members.filterMap fun w =>
      if w.uid = j.w.uid ∨ w.mode = .handler then none
      else (oldest (w.asyncs.filter (m.memberDep s (j.onWarp w) x))).map fun a => (w, a)).head?

/-- The issuing warp, the hints of its split and the low 64 of its XREG bits, as an instruction's checks see them. -/
def State.issuer (s : State) : Option Warp := s.warp? s.cur
def State.issuerHint (s : State) (k : Nat) : Option (BitVec 20) :=
  (s.issuer.bind fun w => w.split? s.fetch.slot).bind fun x => hintOf x.hints k
def State.issuerS (s : State) (r : Reg) : Word := (s.issuer.map fun w => w.sreg r.toNat).getD 0
def State.issuerXreg (s : State) (k : Nat) : Nat := xregBit (s.issuerHint 1) k

/-- What the checks before the effect come to. -/
inductive Verdict where
  | go (s : State) (j : Job)
  | wait (s : State)
  | lost

/-- The group has completed in a warp: the split goes on at an address, its part of the rendezvous is done, and a set step
flag falls due (R46, R213, R196). -/
def State.finishAt (s : State) (w : Warp) (slot : Nat) (sc : Scope) (pc : Dword) : State :=
  let s := s.modWarp w.uid fun w =>
    let w := w.modSplit slot fun x => x.atGroup pc
    { w with
      inGroup := none
      lastSlot := slot
      issuedAt := s.fresh
      stepDue := if w.stepFlag && w.mode == .normal && (w.split? slot).isSome then some slot else none }
  s.partDone w sc

/-- The slot of the one split of a warp that a rendezvous released. -/
def Warp.onlySlot (w : Warp) : Nat := w.heldSlots.headD 0

/-- The group has completed, in the issuing warp or in every member of an instruction issued once. -/
def State.finish (s : State) (m : Meta) (j : Job) : State :=
  if m.cls.once && gathers m.scope then
    j.members.foldl (fun s w => s.finishAt w (if w.uid = j.w.uid then j.slot else w.onlySlot) m.scope j.next) s
  else s.finishAt j.w j.slot m.scope j.next

/-- Lanes of a split go to their targets (R115, R118, R164): they divide by target in ascending order; the lanes of
`first`, or else of the lowest target, keep the slot. -/
def Warp.divide (w : Warp) (slot : Nat) (first : Option Dword) (targets : List (Nat × Dword)) : Warp :=
  let all := (targets.map fun t => t.2).eraseDups
  let sorted := sortBy BitVec.toNat all
  let order :=
    match first with
    | some f => if sorted.contains f then f :: sorted.filter (· != f) else sorted
    | none => sorted
  let maskFor : Dword → LaneMask := fun t => maskOf fun i => targets.any fun x => x.1 == i && x.2 == t
  match order with
  | [] => w
  | t0 :: rest =>
    let w := w.modSplit slot fun x => { x.atGroup t0 with mask := maskFor t0 }
    rest.foldl (fun w t => w.addSplit (Split.fresh t (maskFor t))) w

/-- A warp has issued a group (R313). -/
def State.noteIssue (s : State) (u : Nat) : State := s.modWarp u fun w => { w with issuedAt := s.fresh }

/-- Put the effect of an instruction in place. -/
def State.conclude (s : State) (m : Meta) (j : Job) (e : Eff) : State :=
  match e with
  | .next s' => s'.finish m j
  | .jump s' first targets =>
    let s' := s'.modWarp j.w.uid fun w => w.divide j.slot first targets
    let pc := ((s'.warp? j.w.uid).bind fun w => w.split? j.slot).map (·.pc)
    s'.finishAt j.w j.slot m.scope (pc.getD j.next)
  | .trap t =>
    (s.noteIssue j.w.uid).report
      { u := j.w.uid, slot := j.slot, fpc := j.start, next := j.next, trap := t,
        member := if m.scope = .lane then none else some m.scope, once := m.cls.once, diverged := false, lost := none }
  | .trapIn u t =>
    let slot := ((j.members.find? (·.uid == u)).map Warp.onlySlot).getD j.slot
    ((s.noteIssue j.w.uid).backToGroup j.w.uid j.slot j.start).report
      { u := u, slot := if u = j.w.uid then j.slot else slot, fpc := j.start, next := j.next, trap := t,
        member := some m.scope, once := m.cls.once, diverged := false, lost := none }
  | .block s' c =>
    (s'.backToGroup j.w.uid j.slot j.start).modWarp j.w.uid fun w =>
      { (w.modSplit j.slot fun x => { x with blocked := some c }) with lastSlot := j.slot }
  | .stall s' => s'.backToGroup j.w.uid j.slot j.start
  | .done s' => s'.noteIssue j.w.uid

/-! ## The checks -/

/-- The warp has gathered at a WARP-scope group by itself: one split and nothing parked (R167); in handler mode the stopped
splits do not count (R207). -/
def Warp.gathered (w : Warp) : Bool := w.heldSlots.length == 1 && w.parked.isEmpty

/-- The split waits at its rendezvous (R167). -/
def State.arrive (s : State) (w : Warp) (slot : Nat) (start : Dword) (sc : Scope) : State :=
  let s := (s.backToGroup w.uid slot start).modWarp w.uid fun w =>
    let w := w.modSplit slot fun x => { x with waiting := true, want := some (sc, s.fetch.next) }
    { (if sc = .warp then w.setRv .gathering else w) with lastSlot := slot }
  if gathers sc then s.modRv w sc fun r => { r with state := if r.state = .opened then .gathering else r.state } else s

/-- A warp's one split at a WARP-scope group has gathered by itself, and is released in the same step (R167, R195). -/
def State.passWarp (s : State) (m : Meta) (u slot : Nat) : State :=
  if m.scope = .warp then
    let free : Split → Split := fun x => { x with released := some .warp }
    s.modWarp u fun w => (w.modSplit slot free).setRv .released
  else s

/-- A population gathers from the arrival of its first warp at RSMPL (R367). -/
def State.populationArrives (s : State) (cls : Cls) (launch : Nat) : State :=
  let gather : Population → Population := fun p => if p.state = .running then { p with state := .gathering } else p
  if cls = .rsmpl then s.modPop launch gather else s

/-- Complete the loads that the other members' parts of an instruction issued once depend on: none while one must wait (R103). -/
def State.settleMembers (s : State) (m : Meta) (x : Option (BitVec 20)) : List Nat → Option State
  | [] => some s
  | u :: us =>
    match s.warp? u with
    | none => s.settleMembers m x us
    | some w =>
      match s.settleFor m w x with
      | none => none
      | some s' => s'.settleMembers m x us

/-- The other members whose registers an instruction issued once reads or writes. -/
def Meta.partners (m : Meta) (ws : List Warp) (u : Nat) : List Nat :=
  if m.cls.spans && gathers m.scope then (ws.map (·.uid)).filter (· != u) else []

/-- The report of a cause in a member, at the slot of its own split. -/
def Job.reportOf (j : Job) (m : Meta) (w : Warp) (a : AsyncCause) : Report :=
  { u := w.uid, slot := if w.uid = j.w.uid then j.slot else w.onlySlot, fpc := j.start, next := j.next, trap := a.trap,
    member := some m.scope, once := m.cls.once, diverged := false, lost := a.lost, cause := some a }

/-- A c[] operand that the instruction reads is in the core's constant cache from then on (R136). -/
def State.cacheOperand (s : State) (m : Meta) (j : Job) : State :=
  match m.opb with
  | some (.const i) =>
    if j.live = 0 then s
    else
      let n := cwinWord j.w.cwin + i.toNat
      s.cacheConsts j (cwinBank j.w.cwin) (if m.wide then [n, n + 1] else [n])
  | _ => s

/-- What is left of the checks once the members' loads have landed: the members' pending causes, then PARTIAL_MASK (R211,
R41). -/
def State.judgeMembers (s : State) (m : Meta) (j : Job) (x : Option (BitVec 20)) (mask : LaneMask) : Verdict :=
  match j.memberCause s m x with
  | some c => .wait ((s.backToGroup j.w.uid j.slot j.start).report (j.reportOf m c.1 c.2))
  | none =>
    let full : Warp → LaneMask := fun y => if y.uid = j.w.uid then mask else ((y.split? y.onlySlot).map (·.mask)).getD 0
    if m.noPartial && j.members.any fun y => decide (j.liveOf y ≠ full y) then
      .wait ((s.noteIssue j.w.uid).report
        { u := j.w.uid, slot := j.slot, fpc := j.start, next := j.next, trap := Trap.plain 7,
          member := if m.scope = .lane then none else some m.scope, once := m.cls.once, diverged := false, lost := none })
    else .go (s.cacheOperand m j) j

/-- The checks between the fetch of an instruction word and its effect. -/
def State.judge (s : State) (m : Meta) : Verdict :=
  match s.warp? s.cur with
  | none => .lost
  | some w =>
    match w.split? s.fetch.slot, s.ctxOf w, s.launchOf w, s.block? w.block with
    | some sp, some ctx, some launch, some block =>
      let slot := s.fetch.slot
      let start := s.fetch.start
      let addr := s.fetch.addr
      let next := s.fetch.next
      let x := hintOf sp.hints 1
      let rep : Trap → Option AsyncCause → Report := fun t a =>
        { u := w.uid, slot := slot, fpc := start, next := next, trap := t, member := sp.released, once := m.cls.once,
          diverged := false, lost := a.bind AsyncCause.lost, cause := a }
      match m.decodeCause s w sp.hints addr with
      | some c => .wait (s.report (rep (Trap.at c.1 c.2 0) none))
      | none =>
        match s.settleFor m w x with
        | none => .wait (s.backToGroup w.uid slot start)
        | some s =>
          match s.warp? w.uid with
          | none => .lost
          | some w =>
            let live := sp.mask &&& xpredMask w (hintOf sp.hints 4)
            let job : State → Warp → Job := fun s w =>
              { w := w, slot := slot, start := start, addr := addr, next := next, scope := m.scope, live := live,
                ximm := hintOf sp.hints 0, xmod := (hintOf sp.hints 2).getD 0, xpred := hintOf sp.hints 4,
                d := m.d + xregBit x 0, a := m.a + xregBit x 1, b := m.b + xregBit x 2, ctx := ctx, launch := launch,
                block := (s.block? w.block).getD block, members := s.members w m.scope }
            let j := job s w
            let gathering := sp.released.isNone && (gathers m.scope || (m.scope == .warp && !w.gathered))
            match m.causeIn s j x (!gathering) with
            | some a => .wait (s.report { rep a.trap (some a) with member := if a.kind = .ray ∧ m.scope = .warp then some .warp else sp.released })
            | none =>
              if gathering then .wait ((s.arrive w slot start m.scope).populationArrives m.cls launch.uid)
              else
                let s := s.passWarp m w.uid slot
                match s.settleMembers m x (m.partners j.members w.uid) with
                | none => .wait (s.backToGroup w.uid slot start)
                | some s =>
                  match s.warp? w.uid with
                  | none => .lost
                  | some w => s.judgeMembers m (job s w) x sp.mask
    | _, _, _, _ => .lost

/-- Issue an instruction word: the checks, then its effect. -/
def issue (m : Meta) (s : State) (body : State → Job → Eff) : Host.Outcome State Fault Refusal :=
  match s.judge m with
  | .lost => .fault .noIssuer
  | .wait s' => .next s'
  | .go s' j => .next (s'.conclude m j (body s' j))

end Sys2Proof.Machine
end

