-- ==== Sys2Proof/Machine/LaneOps.lean ====
section
/-! DEFINITION. The shapes that the lane-wise and scalar families share: what such an instruction names, and how its result
is written. -/

namespace Sys2Proof.Machine

open Sys2Proof

/-! ## What an instruction names -/

/-- A lane-wise R-format instruction: v registers in d and a, any b (R25 to R28, R43). -/
def vecMeta (sc : Scope) (d a : Reg) (b : Opb) : Meta :=
  { cls := .laneWise, scope := sc, d := d.toNat, nd := 1, a := a.toNat, na := 1, b := b.num, nb := b.vcount 1, opb := some b,
    ximm := true, xreg := true, xpred := true }

/-- The same without an a operand. -/
def vecMeta1 (sc : Scope) (d : Reg) (b : Opb) : Meta :=
  { cls := .laneWise, scope := sc, d := d.toNat, nd := 1, b := b.num, nb := b.vcount 1, opb := some b, ximm := true,
    xreg := true, xpred := true }

/-- The same with the old value of d as a third operand. -/
def vecMeta3 (sc : Scope) (d a : Reg) (b : Opb) : Meta := { vecMeta sc d a b with readD := true }

/-- A lane-wise compare: a names a v register, d a predicate (R109). -/
def cmpMeta (sc : Scope) (a : Reg) (b : Opb) : Meta :=
  { cls := .laneWise, scope := sc, a := a.toNat, na := 1, b := b.num, nb := b.vcount 1, opb := some b, ximm := true,
    xreg := true, xpred := true }

/-- A lane-wise function of predicates (R112). -/
def predMeta (sc : Scope) : Meta := { cls := .laneWise, scope := sc, xreg := true, xpred := true, ximm := true }

/-- A scalar R-format instruction: s registers in d and a, and no v form of b (R27, R113). -/
def scalarMeta (sc : Scope) (b : Opb) : Meta :=
  { cls := .scalar, scope := sc, b := b.num, opb := some b, ximm := true, bad := b.isV }

/-! ## What becomes of the result -/

/-- Change the issuing warp. -/
def State.put (s : State) (j : Job) (g : Warp → Warp) : State := s.modWarp j.w.uid g

/-- Write the live lanes of v[d]. -/
def State.putRow (s : State) (j : Job) (x : Row) : State := s.put j fun w => w.setRow j.live j.d x

/-- Write the live lanes of the pair at d. -/
def State.putRow64 (s : State) (j : Job) (x : Row64) : State := s.put j fun w => w.setRow64 j.live j.d x

/-- v[d] of each live lane from x = v[a], y = operand b and z = old v[d] (R106, R108). -/
def laneOp (k : ImmRow) (b : Opb) (f : Word → Word → Word → Word) (s : State) (j : Job) : Eff :=
  (s.operand j k b).eff fun y =>
    .next (s.putRow j (rowOf fun i => f (laneOf (j.w.row j.a) i) (laneOf y i) (laneOf (j.w.row j.d) i)))

/-- The pair at d of each live lane from the pair at a and a 64-bit operand b (R110). -/
def laneOp64 (b : Opb) (f : Dword → Dword → Dword) (s : State) (j : Job) : Eff :=
  (s.operand64 j b).eff fun y =>
    .next (s.putRow64 j (Vector.ofFn fun i => f (laneOf64 (j.w.row64 j.a) i) (laneOf64 y i)))

/-- The pair at d of each live lane from the pair at a and a 32-bit operand b sign-extended (R110). -/
def laneLea (b : Opb) (f : Dword → Dword → Dword) (s : State) (j : Job) : Eff :=
  (s.operand j .int b).eff fun y =>
    .next (s.putRow64 j (Vector.ofFn fun i => f (laneOf64 (j.w.row64 j.a) i) ((laneOf y i).signExtend 64)))

/-- Combine a condition of v[a] and operand b into a predicate in each live lane (R109). -/
def laneCmp (b : Opb) (q : BitVec 3) (comb : BitVec 2) (c : Word → Word → Bool) (s : State) (j : Job) : Eff :=
  (s.operand j .int b).eff fun y =>
    .next (s.put j fun w => w.combine j.live q.toNat comb fun i => c (laneOf (j.w.row j.a) i) (laneOf y i))

/-- v[d] of each live lane with the exceptions of its computation (R147). -/
def laneFloat (k : ImmRow) (b : Opb) (f : Word → Word → Word → Word × Fx) (s : State) (j : Job) : Eff :=
  (s.operand j k b).eff fun y =>
    let r : Nat → Word × Fx := fun i => f (laneOf (j.w.row j.a) i) (laneOf y i) (laneOf (j.w.row j.d) i)
    match j.floatTrap fun i => (r i).2 with
    | some t => .trap t
    | none => .next (s.putRow j (rowOf fun i => (r i).1))

/-- Combine a float condition into a predicate in each live lane, with its exceptions (R151). -/
def laneFcmp (b : Opb) (q : BitVec 3) (comb : BitVec 2) (c : Word → Word → Bool × Fx) (s : State) (j : Job) : Eff :=
  (s.operand j .fp32 b).eff fun y =>
    let r : Nat → Bool × Fx := fun i => c (laneOf (j.w.row j.a) i) (laneOf y i)
    match j.floatTrap fun i => (r i).2 with
    | some t => .trap t
    | none => .next (s.put j fun w => w.combine j.live q.toNat comb fun i => (r i).1)

/-- s[d] from s[a] and operand b (R113). -/
def scalarOp (d a : Reg) (b : Opb) (f : Word → Word → Word) (s : State) (j : Job) : Eff :=
  (s.uniform j .int b).eff fun y => .next (s.put j fun w => w.setS d.toNat (f (j.w.sreg a.toNat) y))

/-- Combine a condition of s[a] and operand b into a predicate of every live lane (R114). -/
def scalarCmp (a : Reg) (b : Opb) (q : BitVec 3) (comb : BitVec 2) (c : Word → Word → Bool) (s : State) (j : Job) : Eff :=
  (s.uniform j .int b).eff fun y =>
    .next (s.put j fun w => w.combine j.live q.toNat comb fun _ => c (j.w.sreg a.toNat) y)

end Sys2Proof.Machine
end

