-- ==== Sys2Proof/Machine/LoadStore.lean ====
section
/-! DEFINITION. LD and ST (R126 to R130, R216 to R219, R228), LDS and STS (R132 to R134), LDC and CWIN (R137). -/

namespace Sys2Proof.Machine

open Sys2Proof

/-! ## The policy operand (R126, R127) -/

def polOrder (p : Word) : Nat := (p.extractLsb' 16 3).toNat
def polScope (p : Word) : Nat := (p.extractLsb' 19 3).toNat
def polNt (p : Word) : Bool := p.getLsbD 22
def polRepl (p : Word) : Bool := p.getLsbD 23

/-- An invalid policy operand (R127). -/
def polBad (store : Bool) (p : Word) : Bool :=
  decide (p.extractLsb' 24 8 ≠ 0) || decide (4 ≤ polScope p) || decide (4 ≤ polOrder p) ||
  (if store then polOrder p == 1 || polOrder p == 3 else polOrder p == 2 || polOrder p == 3)

/-! ## Sizes (R30) -/

/-- The bytes of a size code. -/
def sizeBytes (size : BitVec 3) : Nat := 2 ^ size.toNat

/-- The registers of a size code: one, a pair or a quad. -/
def sizeRegs (size : BitVec 3) : Nat := if size.toNat ≤ 2 then 1 else sizeBytes size / 4

/-- A register that does not suit the size: pairs are even and quads a multiple of 4 (R27). -/
def misplaced (r : Reg) (n : Nat) : Bool := decide (r.toNat % n ≠ 0)

/-- The low bytes of the registers at r in a lane (R129). -/
def Warp.laneBytes (w : Warp) (r size lane : Nat) : List Byte :=
  let n := if size ≤ 4 then 1 else size / 4
  ((List.range n).flatMap fun k => leBytes 4 (laneOf (w.row (r + k)) lane).toNat).take size

/-! ## Addresses -/

/-- The address of a lane: an s pair or a v pair plus the XIMM offset (R129). -/
def Job.addrOf (j : Job) (as : Bool) (a : Reg) (lane : Nat) : Dword :=
  (if as then j.w.sreg64 a.toNat else laneOf64 (j.w.row64 j.a) lane) + j.offset

/-- What LD and ST name (R30, R43). -/
def memMeta (sc : Scope) (d a : Reg) (size : BitVec 3) (as : Bool) : Meta :=
  { cls := .laneWise, scope := sc, d := d.toNat, nd := sizeRegs size, a := a.toNat, na := if as then 0 else 2,
    ximm := true, xreg := true, xmod := xmClass, xpred := true,
    bad := misplaced d (sizeRegs size) || a.getLsbD 0 || decide (5 ≤ size.toNat) }

/-! ## Loads -/

/-- A class may hold 255 operations (R144). -/
def classFull {α : Type} (l : List α) : Bool := decide (255 ≤ l.length)

/-- LD (R129): every lane is checked before any accesses, and with no live lane nothing is, the policy included (DEDUCED, log 97); the values are taken when the load completes (R130, R220). -/
def execLd (sc : Scope) (d a pol : Reg) (size : BitVec 3) (sx : Bool) (as : Bool) (s : State) :
    Host.Outcome State Fault Refusal :=
  issue (memMeta sc d a size as) s fun s j =>
    let p := j.w.sreg pol.toNat
    if j.live = 0 then .next s
    else if polBad false p then .trap (Trap.plain 26)
    else if classFull j.w.loads then .stall s
    else
      let n := sizeBytes size
      (s.checkLanes j .load n (j.addrOf as a)).eff fun ps =>
        let op : LoadOp :=
          { id := s.nextUid, seq := 0, ord := 0, kind := .mem, dest := j.d, nreg := sizeRegs size, lanes := j.live, size := n,
            sext := sx, acqScope := if polOrder p = 1 then some (p.extractLsb' 19 3) else none, repl := polRepl p,
            nt := polNt p, accs := ps.map fun x => x.2.acc x.1 (j.addrOf as a x.1), early := [], done := false }
        .next ({ s with nextUid := s.nextUid + 1 }.put j fun w => w.addLoad op)

/-! ## Stores -/

/-- The bytes of an entry: where lanes overlap, the highest prevails (R217). -/
def entryBytes (ws : List WByte) : List WByte :=
  ws.foldl (fun acc b => (acc.filter fun x => x.key != b.key) ++ [b]) []

/-- Byte o of a store at a place. -/
def Place.wbyte (p : Place) (o : Nat) (b : Byte) (nt : Bool) : WByte :=
  { key := p.key + o, byte := b, home := p.home, slice := p.slice, win := p.win, nt := nt || p.nt, vcache := p.vcache }

/-- What a release at a scope waits for: the warp's own stores that have not left their class and the stores of other warps
that it has read (R228, R230). -/
def Warp.released (w : Warp) (scope : Nat) : List (Nat × Nat) :=
  ((w.stores.filter fun e => !e.done).map fun e => (scope, e.id)) ++ w.seen.map fun op => (scope, op)

/-- A queue that is full (R216). -/
def Warp.sqFull (w : Warp) : Bool := decide (32 ≤ w.sq.length)

/-- An entry stands behind a lost store that has not been reported (R234, R237). -/
def Warp.heldBehind (w : Warp) (op : Nat) : Bool :=
  w.lostOps.any fun l => l.1 == op && w.sq.any fun e => l.2.any e.lines.contains

/-- A group that acts as a release at a scope depends on a lost store that is performed there only once acknowledged
(R210). -/
def releaseDep (scope : Nat) (a : AsyncCause) : Bool :=
  a.kind == .store && (if a.gmode then decide (1 ≤ scope) else decide (2 ≤ scope) || (decide (1 ≤ scope) && a.kept))

/-- Add an entry to a warp's queue (R216). -/
def Warp.enqueue (w : Warp) (e : SqEntry) : Warp :=
  let w1 : Warp := { w with sq := w.sq ++ [{ e with seq := w.seq, deps := e.deps ++ w.relDeps }] }
  w1.addStore e.id

/-- What ST names. -/
def stMeta (sc : Scope) (d : Reg) (a : Reg) (pol : Reg) (size : BitVec 3) (as : Bool) : Meta :=
  let dep : State → Job → AsyncCause → Bool := fun _ j c =>
    let p := j.w.sreg pol.toNat
    decide (j.live ≠ 0) && ((polOrder p == 2 && releaseDep (polScope p) c) ||
      (c.kind == .store && j.w.sqFull && j.w.heldBehind c.op))
  { memMeta sc d a size as with readD := true, dep := dep }

/-- ST (R129): every lane is checked before any accesses; then one entry holds every live lane's data (R216). -/
def execSt (sc : Scope) (d a pol : Reg) (size : BitVec 3) (g : Bool) (as : Bool) (s : State) :
    Host.Outcome State Fault Refusal :=
  issue (stMeta sc d a pol size as) s fun s j =>
    let p := j.w.sreg pol.toNat
    if j.live = 0 then .next s
    else if polBad true p then .trap (Trap.plain 26)
    else
      let n := sizeBytes size
      (s.checkLanes j .store n (j.addrOf as a)).eff fun ps =>
        if j.w.sqFull || classFull j.w.stores then .stall s
        else
          let bytes := ps.flatMap fun x => (j.w.laneBytes j.d n x.1).zipIdx.map fun b =>
            x.2.wbyte b.2 b.1 (polNt p)
          let e : SqEntry :=
            { id := s.nextUid, seq := 0, gmode := g, flush := [], bytes := entryBytes bytes,
              deps := if polOrder p = 2 then j.w.released (polScope p) else [], rel := if polOrder p = 2 then some (polScope p) else none,
              va := j.addrOf as a j.low, lane := j.low }
          .next ({ s with nextUid := s.nextUid + 1 }.put j fun w => w.enqueue e)

/-! ## Scratchpad -/

/-- What LDS and STS name (R31). -/
def scratchMeta (sc : Scope) (d off : Reg) (size : BitVec 3) (ok : Bool) : Meta :=
  { cls := .laneWise, scope := sc, d := d.toNat, nd := sizeRegs size, a := off.toNat, na := if ok then 0 else 1,
    ximm := true, xreg := true, xpred := true, bad := misplaced d (sizeRegs size) || decide (5 ≤ size.toNat) }

/-- The offset of a lane (R132). -/
def Job.offOf (j : Job) (ok : Bool) (off : Reg) (lane : Nat) : Word :=
  (if ok then j.w.sreg off.toNat else laneOf (j.w.row j.a) lane) + loWord j.offset

/-- Check one lane's scratchpad access (R132). -/
def scratchCheck (l : Launch) (alloc n : Nat) (o : Word) (lane : Nat) : Got Nat :=
  if l.scratchSize alloc < o.toNat + n then .trap (Trap.at 24 (o.zeroExtend 64) lane)
  else if o.toNat % n ≠ 0 then .trap (Trap.at 23 (o.zeroExtend 64) lane)
  else .ok o.toNat

/-- The offsets of the live lanes, or the lowest failing lane's cause (R132). -/
def Job.offsets (j : Job) (alloc : BitVec 3) (n : Nat) (ok : Bool) (off : Reg) : Got (List (Nat × Nat)) :=
  firstFail (lanesOf j.live) fun i => scratchCheck j.launch alloc.toNat n (j.offOf ok off i) i

/-- An operation of the loads class whose value the warp has taken (R134, R137, log 14). -/
def State.countTaken (s : State) (j : Job) : State :=
  { s with nextUid := s.nextUid + 1 }.put j fun w => w.addLoad (LoadOp.taken s.nextUid)

/-- Registers d, d + 1, ... of the live lanes from each lane's bytes, zero-extended. -/
def Warp.setBytes (w : Warp) (live : LaneMask) (d size n : Nat) (bytes : Nat → List Byte) : Warp :=
  (List.range n).foldl (fun w k => w.setRow live (d + k) (rowOf fun i => loadWord size false (bytes i) k)) w

/-- LDS (R132): 8- and 16-bit values are zero-extended. -/
def execLds (sc : Scope) (d off : Reg) (alloc : BitVec 3) (size : BitVec 3) (ok : Bool) (s : State) :
    Host.Outcome State Fault Refusal :=
  issue (scratchMeta sc d off size ok) s fun s j =>
    let n := sizeBytes size
    if j.live = 0 then .next s
    else if classFull j.w.loads then .stall s
    else
      (j.offsets alloc n ok off).eff fun os =>
        let at_ : Nat → Nat := fun i => ((os.find? fun x => x.1 == i).map fun x => x.2).getD 0
        let s := s.put j fun w =>
          w.setBytes j.live j.d n (sizeRegs size) fun i => j.block.scratchRead j.launch alloc.toNat (at_ i) n
        .next (s.countTaken j)

/-- STS (R132), lanes in ascending order (log 18). -/
def execSts (sc : Scope) (d off : Reg) (alloc : BitVec 3) (size : BitVec 3) (ok : Bool) (s : State) :
    Host.Outcome State Fault Refusal :=
  issue { scratchMeta sc d off size ok with readD := true } s fun s j =>
    let n := sizeBytes size
    (j.offsets alloc n ok off).eff fun os =>
      .next (s.modBlock j.block.uid fun b =>
        os.foldl (fun b x => b.scratchWrite j.launch alloc.toNat x.2 (j.w.laneBytes j.d n x.1)) b)

/-! ## Constants -/

/-- LDC (R137): word WORD + v[a] + y of the window's bank, in 32-bit arithmetic. -/
def execLdc (sc : Scope) (d a : Reg) (b : Opb) (s : State) : Host.Outcome State Fault Refusal :=
  issue (vecMeta sc d a b) s fun s j =>
    if j.live = 0 then .next s
    else if classFull j.w.loads then .stall s
    else
      (s.operand j .int b).eff fun y =>
        let index : Nat → Nat := fun i =>
          (BitVec.ofNat 32 (cwinWord j.w.cwin) + laneOf (j.w.row j.a) i + laneOf y i : Word).toNat
        (firstFail (lanesOf j.live) fun i => s.constWord j (cwinBank j.w.cwin) (index i) i).eff fun ws =>
          let val : Nat → Word := fun i => ((ws.find? fun x => x.1 == i).map fun x => x.2).getD 0
          .next (((s.cacheConsts j (cwinBank j.w.cwin) ((lanesOf j.live).map index)).putRow j (rowOf val)).countTaken j)

/-- The reserved bits of CWIN (R136). -/
def cwinReserved : Word := 0xFFF8C000#32

/-- CWIN (R137): a reserved bit of y, known only when it executes, is an execution fault (log 15). -/
def execCwin (sc : Scope) (b : Opb) (s : State) : Host.Outcome State Fault Refusal :=
  issue (scalarMeta sc b) s fun s j =>
    (s.uniform j .int b).eff fun y =>
      if y &&& cwinReserved ≠ 0 then .trap (Trap.plain 1) else .next (s.put j fun w => { w with cwin := y })

end Sys2Proof.Machine
end

