-- ==== Sys2Proof/Machine/Atomic.lean ====
section
/-! DEFINITION. ATOM and RED at issue (R245 to R250), and the new values of R246. -/

namespace Sys2Proof.Machine

open Sys2Proof

/-! ## Operations (R246) -/

/-- The bytes of a location. -/
def atomSize (fn : Nat) (wide : Bool) : Nat :=
  match fn with
  | 13 => 2
  | 14 => 1
  | _ => if wide then 8 else 4

/-- The new value of an integer operation on n bits. -/
def atomInt (fn n old y z : Nat) : Nat :=
  match fn with
  | 0 => (old + y) % 2 ^ n
  | 1 => if sintOf n y < sintOf n old then y else old
  | 2 => if sintOf n old < sintOf n y then y else old
  | 3 => min old y
  | 4 => max old y
  | 5 => old &&& y
  | 6 => old ||| y
  | 7 => old ^^^ y
  | 8 => y
  | 9 => if old = y then z else old
  | 10 => if y ≤ old then 0 else (old + 1) % 2 ^ n
  | _ => if old = 0 ∨ y < old then y else old - 1

/-- The new value of an FP32 operation: nothing is flushed and no exception arises. -/
def atomFloat (fn old y : Nat) : Nat :=
  match fn with
  | 12 => (roundVal fp32 .rn (addVal .rn (fp32.decode old) (fp32.decode y)).1).1
  | 15 => (minMaxBits fp32 false old y).1
  | _ => (minMaxBits fp32 true old y).1

/-- The new value of a location that is no shadow's element. -/
def atomNew (fn : Nat) (wide : Bool) (old y z : Nat) : Nat :=
  if fn ≤ 11 then atomInt fn (8 * atomSize fn wide) old y z else atomFloat fn old y

/-! ## Issue (R247, R248) -/

/-- The registers that b names: a pair with W64, and ACAS takes two operands. -/
def atomRegs (fn : Nat) (wide : Bool) : Nat := (if fn = 9 then 2 else 1) * if wide then 2 else 1

/-- What ATOM names. -/
def atomMeta (fn : Nat) (sc : Scope) (d a b : Reg) (wide : Bool) : Meta :=
  { cls := .laneWise, scope := sc, d := d.toNat, nd := if wide then 2 else 1, a := a.toNat, na := 2, b := b.toNat,
    nb := atomRegs fn wide, ximm := true, xreg := true, xmod := xmOrder ||| xmClass, xpred := true,
    bad := a.getLsbD 0 || (wide && (d.getLsbD 0 || b.getLsbD 0)) ||
      (decide (fn = 9) && decide (b.toNat % (if wide then 4 else 2) ≠ 0)) }

/-- What RED names. -/
def redMeta (fn : Nat) (sc : Scope) (a b : Reg) (wide : Bool) : Meta :=
  { cls := .laneWise, scope := sc, a := a.toNat, na := 2, b := b.toNat, nb := atomRegs fn wide, ximm := true, xreg := true,
    xmod := xmOrder ||| xmClass, xpred := true, bad := a.getLsbD 0 || (wide && b.getLsbD 0) }

/-- AORDER asks for an acquire, and for a release (R58, R250). -/
def Job.acquires (j : Job) : Bool := j.aorder == 1 || j.aorder == 3
def Job.releases (j : Job) : Bool := j.aorder == 2 || j.aorder == 3

/-- A release depends on a lost store (R210). -/
def atomDep (_ : State) (j : Job) (c : AsyncCause) : Bool := decide (j.live ≠ 0) && j.releases && releaseDep j.ascope c

/-- A place that takes no atomic of this kind (R248, R427). -/
def atomRefused (fn : Nat) (p : Place) : Bool :=
  keyTarget p.key == 2 || ((fn == 13 || fn == 14) && p.nt) || (p.peer && fn != 0)

/-- The check of one lane: canonical form, alignment, translation, permission, and ATOMIC_TYPE (R247, R248). -/
def State.atomCheck (s : State) (j : Job) (k : AccKind) (fn : Nat) (wide : Bool) (lane : Nat) : Got Place :=
  let ea := j.addrOf false 0 lane
  (s.checkLane j.ctx k (atomSize fn wide) ea lane).bind fun p =>
    if atomRefused fn p then .trap (Trap.at 28 ea lane) else .ok p

/-- A lane's operands. -/
def Job.atomAcc (j : Job) (fn : Nat) (wide : Bool) (lane : Nat) (p : Place) : AtomAcc :=
  let reg : Nat → Dword := fun k =>
    if wide then laneOf64 (j.w.row64 (j.b + 2 * k)) lane else (laneOf (j.w.row (j.b + k)) lane).zeroExtend 64
  { lane := lane, key := p.key, y := reg 0, z := if fn = 9 then reg 1 else 0, win := p.win, handle := p.handle }

/-- The requests of a slice's quadrant among some (R242); one to a peer module is in no queue of this module. -/
def quadrantLoad (rs : List AtomReq) (slice : Nat) : Nat := (rs.filter fun r => !r.applied && !r.peer && r.slice / 10 == slice / 10).length

/-- A request queue holds no more than its 1,024 entries: it has room for an instruction's requests to its quadrant, or the instruction waits
(R242). -/
def State.quadrantsFull (s : State) (rs : List AtomReq) : Bool :=
  rs.any fun r => !r.peer && decide (1024 < quadrantLoad s.areqs r.slice + quadrantLoad rs r.slice)

/-- The requests of an instruction: one for each line its live lanes touch (R243). -/
def Job.atomReqs (j : Job) (id fn : Nat) (wide returns : Bool) (acc : Nat → Place → AtomAcc) (epoch : Nat)
    (ps : List (Nat × Place)) : List AtomReq :=
  let f := j.w.field
  let lines := dedupNat (ps.map fun x => lineOf x.2.key)
  lines.zipIdx.filterMap fun l =>
    let mine := ps.filter fun x => lineOf x.2.key == l.1
    let away := (mine.find? fun x => x.2.win.isSome).map fun x => x.2
    match mine with
    | [] => none
    | (lane, p) :: _ =>
      some { id := id + 1 + l.2, op := id, warp := j.w.uid, core := j.w.core, ctx := j.ctx.ctxid, src := f, dst := p.home, line := l.1, fn := fn,
             wide := wide, returns := returns, slice := p.slice,
             accs := mine.map fun x => acc x.1 x.2, olds := [],
             deps := j.w.relDeps ++ (if j.releases then j.w.released j.ascope else []),
             rel := if j.releases then some j.ascope else none, seq := j.w.seq, dest := j.d,
             applied := false, appliedAt := 0, accepted := [], epoch := epoch, left := 0, vcache := p.vcache,
             leaving := p.home != f || away.isSome, peer := p.peer, win := away.bind (·.win), handle := (away.map (·.handle)).getD 0,
             lost := false, va := j.addrOf false 0 lane, broken := 0 }

/-- Send the requests of an ATOM or RED, each lane's access with its operands given by `acc`: every lane is checked before any is
sent; a full class or request queue waits (R242, R247). -/
def State.sendAtoms (s : State) (j : Job) (k : AccKind) (fn : Nat) (wide returns : Bool) (acc : Nat → Place → AtomAcc) : Eff :=
  if j.live = 0 then .next s
  else
    (firstFail (lanesOf j.live) (s.atomCheck j k fn wide)).eff fun ps =>
      let id := s.nextUid
      let rs := j.atomReqs id fn wide returns acc (((s.field? j.w.field).map (·.epoch)).getD 0) ps
      if (if returns then classFull j.w.loads else classFull j.w.stores) ||
          s.quadrantsFull rs then .stall s
      else
        let op : LoadOp :=
          { id := id, seq := 0, ord := 0, kind := .atom, dest := j.d, nreg := if wide then 2 else 1, lanes := j.live,
            size := atomSize fn wide, sext := false,
            acqScope := if j.acquires then some (BitVec.ofNat 3 j.ascope) else none, repl := false, nt := false, accs := [],
            early := [], done := false }
        let s := { s with
          nextUid := id + 1 + rs.length
          areqs := s.areqs ++ rs
          l1 := s.l1.filter fun x => !(x.core == j.w.core && rs.any fun r => r.line == x.line) }
        .next (s.put j fun w => if returns then w.addLoad op else w.addStore id)

/-- An ATOM. -/
def atom (fn : Nat) (sc : Scope) (d a b : Reg) (wide : Bool) (s : State) : Host.Outcome State Fault Refusal :=
  issue { atomMeta fn sc d a b wide with dep := atomDep } s fun s j => s.sendAtoms j .atom fn wide true (j.atomAcc fn wide)

/-- A RED. -/
def red (fn : Nat) (sc : Scope) (a b : Reg) (wide : Bool) (s : State) : Host.Outcome State Fault Refusal :=
  issue { redMeta fn sc a b wide with dep := atomDep } s fun s j => s.sendAtoms j .red fn wide false (j.atomAcc fn wide)

/-! ## The instructions -/

/-- ATOM.AADD (R246, R247). -/
def execAtomAadd (sc : Scope) (d a b : Reg) (w64 : Bool) (s : State) : Host.Outcome State Fault Refusal :=
  atom 0 sc d a b w64 s

/-- ATOM.AMIN (R246, R247). -/
def execAtomAmin (sc : Scope) (d a b : Reg) (w64 : Bool) (s : State) : Host.Outcome State Fault Refusal :=
  atom 1 sc d a b w64 s

/-- ATOM.AMAX (R246, R247). -/
def execAtomAmax (sc : Scope) (d a b : Reg) (w64 : Bool) (s : State) : Host.Outcome State Fault Refusal :=
  atom 2 sc d a b w64 s

/-- ATOM.AMINU (R246, R247). -/
def execAtomAminu (sc : Scope) (d a b : Reg) (w64 : Bool) (s : State) : Host.Outcome State Fault Refusal :=
  atom 3 sc d a b w64 s

/-- ATOM.AMAXU (R246, R247). -/
def execAtomAmaxu (sc : Scope) (d a b : Reg) (w64 : Bool) (s : State) : Host.Outcome State Fault Refusal :=
  atom 4 sc d a b w64 s

/-- ATOM.AAND (R246, R247). -/
def execAtomAand (sc : Scope) (d a b : Reg) (w64 : Bool) (s : State) : Host.Outcome State Fault Refusal :=
  atom 5 sc d a b w64 s

/-- ATOM.AOR (R246, R247). -/
def execAtomAor (sc : Scope) (d a b : Reg) (w64 : Bool) (s : State) : Host.Outcome State Fault Refusal :=
  atom 6 sc d a b w64 s

/-- ATOM.AXOR (R246, R247). -/
def execAtomAxor (sc : Scope) (d a b : Reg) (w64 : Bool) (s : State) : Host.Outcome State Fault Refusal :=
  atom 7 sc d a b w64 s

/-- ATOM.AEXCH (R246, R247). -/
def execAtomAexch (sc : Scope) (d a b : Reg) (w64 : Bool) (s : State) : Host.Outcome State Fault Refusal :=
  atom 8 sc d a b w64 s

/-- ATOM.ACAS (R246, R247). -/
def execAtomAcas (sc : Scope) (d a b : Reg) (w64 : Bool) (s : State) : Host.Outcome State Fault Refusal :=
  atom 9 sc d a b w64 s

/-- ATOM.AINC (R246, R247). -/
def execAtomAinc (sc : Scope) (d a b : Reg) (w64 : Bool) (s : State) : Host.Outcome State Fault Refusal :=
  atom 10 sc d a b w64 s

/-- ATOM.ADEC (R246, R247). -/
def execAtomAdec (sc : Scope) (d a b : Reg) (w64 : Bool) (s : State) : Host.Outcome State Fault Refusal :=
  atom 11 sc d a b w64 s

/-- ATOM.AFADD (R246, R247). -/
def execAtomAfadd (sc : Scope) (d a b : Reg) (s : State) : Host.Outcome State Fault Refusal :=
  atom 12 sc d a b false s

/-- ATOM.AFADDB (R246, R247). -/
def execAtomAfaddb (sc : Scope) (d a b : Reg) (s : State) : Host.Outcome State Fault Refusal :=
  atom 13 sc d a b false s

/-- ATOM.AFADDE (R246, R247). -/
def execAtomAfadde (sc : Scope) (d a b : Reg) (s : State) : Host.Outcome State Fault Refusal :=
  atom 14 sc d a b false s

/-- ATOM.AFMIN (R246, R247). -/
def execAtomAfmin (sc : Scope) (d a b : Reg) (s : State) : Host.Outcome State Fault Refusal :=
  atom 15 sc d a b false s

/-- ATOM.AFMAX (R246, R247). -/
def execAtomAfmax (sc : Scope) (d a b : Reg) (s : State) : Host.Outcome State Fault Refusal :=
  atom 16 sc d a b false s

/-- RED.AADD (R246, R247). -/
def execRedAadd (sc : Scope) (a b : Reg) (w64 : Bool) (s : State) : Host.Outcome State Fault Refusal :=
  red 0 sc a b w64 s

/-- RED.AMIN (R246, R247). -/
def execRedAmin (sc : Scope) (a b : Reg) (w64 : Bool) (s : State) : Host.Outcome State Fault Refusal :=
  red 1 sc a b w64 s

/-- RED.AMAX (R246, R247). -/
def execRedAmax (sc : Scope) (a b : Reg) (w64 : Bool) (s : State) : Host.Outcome State Fault Refusal :=
  red 2 sc a b w64 s

/-- RED.AMINU (R246, R247). -/
def execRedAminu (sc : Scope) (a b : Reg) (w64 : Bool) (s : State) : Host.Outcome State Fault Refusal :=
  red 3 sc a b w64 s

/-- RED.AMAXU (R246, R247). -/
def execRedAmaxu (sc : Scope) (a b : Reg) (w64 : Bool) (s : State) : Host.Outcome State Fault Refusal :=
  red 4 sc a b w64 s

/-- RED.AAND (R246, R247). -/
def execRedAand (sc : Scope) (a b : Reg) (w64 : Bool) (s : State) : Host.Outcome State Fault Refusal :=
  red 5 sc a b w64 s

/-- RED.AOR (R246, R247). -/
def execRedAor (sc : Scope) (a b : Reg) (w64 : Bool) (s : State) : Host.Outcome State Fault Refusal :=
  red 6 sc a b w64 s

/-- RED.AXOR (R246, R247). -/
def execRedAxor (sc : Scope) (a b : Reg) (w64 : Bool) (s : State) : Host.Outcome State Fault Refusal :=
  red 7 sc a b w64 s

/-- RED.AINC (R246, R247). -/
def execRedAinc (sc : Scope) (a b : Reg) (w64 : Bool) (s : State) : Host.Outcome State Fault Refusal :=
  red 10 sc a b w64 s

/-- RED.ADEC (R246, R247). -/
def execRedAdec (sc : Scope) (a b : Reg) (w64 : Bool) (s : State) : Host.Outcome State Fault Refusal :=
  red 11 sc a b w64 s

/-- RED.AFADD (R246, R247). -/
def execRedAfadd (sc : Scope) (a b : Reg) (s : State) : Host.Outcome State Fault Refusal :=
  red 12 sc a b false s

/-- RED.AFADDB (R246, R247). -/
def execRedAfaddb (sc : Scope) (a b : Reg) (s : State) : Host.Outcome State Fault Refusal :=
  red 13 sc a b false s

/-- RED.AFADDE (R246, R247). -/
def execRedAfadde (sc : Scope) (a b : Reg) (s : State) : Host.Outcome State Fault Refusal :=
  red 14 sc a b false s

/-- RED.AFMIN (R246, R247). -/
def execRedAfmin (sc : Scope) (a b : Reg) (s : State) : Host.Outcome State Fault Refusal :=
  red 15 sc a b false s

/-- RED.AFMAX (R246, R247). -/
def execRedAfmax (sc : Scope) (a b : Reg) (s : State) : Host.Outcome State Fault Refusal :=
  red 16 sc a b false s

end Sys2Proof.Machine
end

