-- ==== Sys2Proof/Machine/Special.lean ====
section
/-! DEFINITION. The special functions of R99 and R152, each the exact value rounded once. Reciprocal and the square roots
are computed exactly; the transcendental functions are computed to more than 300 bits, with a sticky bit below them
(log 8), except where the value is exact. -/

namespace Sys2Proof.Machine

open Sys2Proof

/-- The fixed-point precision of the transcendental functions. -/
def fxPrec : Nat := 352

/-- The floor of 2^352 × ln 2. -/
def ln2Fix : Nat := 0xB17217F7D1CF79ABC9E3B39803F2F6AF40F343267298B62D8A0D175B8BAAFA2BE7B876206DEBAC98559552FB

/-- The floor of 2^352 × π. -/
def piFix : Nat := 0x3243F6A8885A308D313198A2E03707344A4093822299F31D0082EFA98EC4E6C89452821E638D01377BE5466CF

/-- The square root of n rounded down, from bit `b` of the root downward. -/
def isqrtFrom : Nat → Nat → Nat → Nat
  | 0, _, acc => acc
  | b + 1, n, acc =>
    let t := acc + 2 ^ b
    isqrtFrom b n (if t * t ≤ n then t else acc)

/-- A quotient or root q with a sticky bit: 2q, plus 1 when it is inexact. -/
def sticky (q : Nat) (inexact : Bool) : Nat := 2 * q + (if inexact then 1 else 0)

/-- The exponential series: the sum of terms t, t·x/k, ... in fixed point. -/
def expTerms : Nat → Nat → Nat → Nat → Nat → Nat
  | 0, _, _, _, acc => acc
  | fuel + 1, x, k, t, acc => expTerms fuel x (k + 1) (t * x / 2 ^ fxPrec / k) (acc + t)

/-- e^x in fixed point, for x below 1. -/
def expFix (x : Nat) : Nat := expTerms 90 x 1 (2 ^ fxPrec) 0

/-- The series of atanh: z + z³/3 + z⁵/5 + ... in fixed point; z2 is z². -/
def atanhTerms : Nat → Nat → Nat → Nat → Nat → Nat
  | 0, _, _, _, acc => acc
  | fuel + 1, z2, k, t, acc => atanhTerms fuel z2 (k + 2) (t * z2 / 2 ^ fxPrec) (acc + t / k)

/-- ln m in fixed point, for m / 2^p between 1 and 2. -/
def lnFix (m p : Nat) : Nat :=
  let z := (m - 2 ^ p) * 2 ^ fxPrec / (m + 2 ^ p)
  2 * atanhTerms 120 (z * z / 2 ^ fxPrec) 1 z 0

/-- An alternating series t - t·x2/(k(k+1)) + ... in fixed point. -/
def sinTerms : Nat → Int → Nat → Int → Int → Int
  | 0, _, _, _, acc => acc
  | fuel + 1, x2, k, t, acc => sinTerms fuel x2 (k + 2) (-(t * x2 / 2 ^ fxPrec / (k * (k + 1) : Nat))) (acc + t)

/-- sin x in fixed point, for x below 2. -/
def sinFix (x : Nat) : Nat := (sinTerms 60 (x * x / 2 ^ fxPrec : Nat) 2 x 0).toNat

/-- cos x in fixed point, for x below 2. -/
def cosFix (x : Nat) : Nat := (sinTerms 60 (x * x / 2 ^ fxPrec : Nat) 1 (2 ^ fxPrec : Nat) 0).toNat

/-- Round a positive fixed-point value with a sticky bit. -/
def roundFix (md : Rnd) (neg : Bool) (n : Nat) : Nat × Fx :=
  roundRat fp32 md false neg (sticky n true) 1 (-(fxPrec : Int) - 1)

/-- One with a sign. -/
def oneBits (neg : Bool) : Nat := fp32.signBits neg + 0x3F800000

/-- FRCP (R152). -/
def sfuRcp (md : Rnd) (v : FVal) : Nat × Fx :=
  match v with
  | .nan q => (fp32.nanBits, sigInvalid [.nan q])
  | .inf n => (fp32.signBits n, fxNone)
  | .fin n m e => if m = 0 then (fp32.infOf n, fxDivZero) else roundRat fp32 md false n 1 m (-e)

/-- FSQRT (R152). -/
def sfuSqrt (md : Rnd) (v : FVal) : Nat × Fx :=
  match v with
  | .nan q => (fp32.nanBits, sigInvalid [.nan q])
  | .inf n => if n then (fp32.nanBits, fxInvalid) else (fp32.infBits, fxNone)
  | .fin n m e =>
    if m = 0 then (fp32.signBits n, fxNone)
    else if n then (fp32.nanBits, fxInvalid)
    else
      let m' := if e % 2 = 0 then m * 2 ^ 64 else m * 2 ^ 65
      let e' := if e % 2 = 0 then e - 64 else e - 65
      let q := isqrtFrom 48 m' 0
      roundRat fp32 md false false (sticky q (q * q != m')) 1 (e' / 2 - 1)

/-- FRSQ (R152). -/
def sfuRsq (md : Rnd) (v : FVal) : Nat × Fx :=
  match v with
  | .nan q => (fp32.nanBits, sigInvalid [.nan q])
  | .inf n => if n then (fp32.nanBits, fxInvalid) else (0, fxNone)
  | .fin n m e =>
    if m = 0 then (fp32.infOf n, fxDivZero)
    else if n then (fp32.nanBits, fxInvalid)
    else
      let m' := if e % 2 = 0 then m else 2 * m
      let e' := if e % 2 = 0 then e else e - 1
      let p := 2 ^ 160 / m'
      let q := isqrtFrom 81 p 0
      roundRat fp32 md false false (sticky q (q * q * m' != 2 ^ 160)) 1 (-(e' / 2) - 81)

/-- FEXP2 (R152). -/
def sfuExp2 (md : Rnd) (v : FVal) : Nat × Fx :=
  match v with
  | .nan q => (fp32.nanBits, sigInvalid [.nan q])
  | .inf n => if n then (0, fxNone) else (fp32.infBits, fxNone)
  | .fin n m e =>
    let sc := scaleRat m 1 e
    let a : Int := if n then -(sc.1 : Int) else sc.1
    let i := a / (sc.2 : Int)
    let r := (a % (sc.2 : Int)).toNat
    if i ≥ 128 then roundRat fp32 md false false 1 1 128
    else if i < -300 then roundRat fp32 md false false 1 1 (-300)
    else if r = 0 then roundRat fp32 md false false 1 1 i
    else
      let y := r * ln2Fix / sc.2
      roundRat fp32 md false false (sticky (expFix y) true) 1 (i - fxPrec - 1)

/-- FLOG2 (R152). -/
def sfuLog2 (md : Rnd) (v : FVal) : Nat × Fx :=
  match v with
  | .nan q => (fp32.nanBits, sigInvalid [.nan q])
  | .inf n => if n then (fp32.nanBits, fxInvalid) else (fp32.infBits, fxNone)
  | .fin n m e =>
    if m = 0 then (fp32.infOf true, fxDivZero)
    else if n then (fp32.nanBits, fxInvalid)
    else
      let p := Nat.log2 m
      let k : Int := e + p
      if m = 2 ^ p then intToFp32 md k
      else
        let f : Int := (lnFix m p * 2 ^ fxPrec / ln2Fix : Nat)
        let t : Int := k * (2 ^ fxPrec : Nat) + f
        if t < 0 then roundRat fp32 md false true (sticky ((-t).toNat - 1) true) 1 (-(fxPrec : Int) - 1)
        else roundFix md false t.toNat

/-- |x| mod 2 as a ratio over a power of two. -/
def mod2Rat (m : Nat) (e : Int) : Nat × Nat :=
  let sc := scaleRat m 1 e
  (sc.1 % (2 * sc.2), sc.2)

/-- FSINT, sin πx (R99, R152). -/
def sfuSin (md : Rnd) (v : FVal) : Nat × Fx :=
  match v with
  | .nan q => (fp32.nanBits, sigInvalid [.nan q])
  | .inf _ => (fp32.nanBits, fxInvalid)
  | .fin n m e =>
    let r := mod2Rat m e
    if r.1 % r.2 = 0 then (fp32.signBits n, fxNone)
    else
      let upper := decide (r.1 > r.2)
      let a := if upper then r.1 - r.2 else r.1
      let b := if 2 * a > r.2 then r.2 - a else a
      if 2 * b = r.2 then (oneBits (n != upper), fxNone)
      else roundFix md (n != upper) (sinFix (b * piFix / r.2))

/-- FCOST, cos πx (R99, R152). -/
def sfuCos (md : Rnd) (v : FVal) : Nat × Fx :=
  match v with
  | .nan q => (fp32.nanBits, sigInvalid [.nan q])
  | .inf _ => (fp32.nanBits, fxInvalid)
  | .fin _ m e =>
    let r := mod2Rat m e
    let a := if r.1 > r.2 then 2 * r.2 - r.1 else r.1
    let neg := decide (2 * a > r.2)
    let b := if neg then r.2 - a else a
    if b = 0 then (oneBits neg, fxNone)
    else if 2 * b = r.2 then (0, fxNone)
    else roundFix md neg (cosFix (b * piFix / r.2))

/-- FTANH (R152). -/
def sfuTanh (md : Rnd) (v : FVal) : Nat × Fx :=
  match v with
  | .nan q => (fp32.nanBits, sigInvalid [.nan q])
  | .inf n => (oneBits n, fxNone)
  | .fin n m e =>
    if m = 0 then (fp32.signBits n, fxNone)
    else
      let k : Int := e + Nat.log2 m
      if k ≥ 6 then roundRat fp32 md false n (2 ^ 200 - 1) 1 (-200)
      else if k < -40 then roundRat fp32 md false n (m * 2 ^ 100 - 1) 1 (e - 100)
      else
        let sc := scaleRat (2 * m) 1 e
        let y := sc.1 * 2 ^ fxPrec / sc.2
        let i := y / ln2Fix
        let ex := expFix (y % ln2Fix) * 2 ^ i
        roundRat fp32 md false n (ex - 2 ^ fxPrec) (ex + 2 ^ fxPrec) 0

end Sys2Proof.Machine
end

