-- ==== Sys2Proof/Machine/FloatOps.lean ====
section
/-! DEFINITION. The float functions of a lane with their exceptions (R85 to R89, R93, R148 to R155). -/

namespace Sys2Proof.Machine

open Sys2Proof

/-- How an instruction rounds, flushes and saturates (R84, R86, R148). -/
structure FMode where
  rnd : Rnd
  ftz : Bool
  sat : Bool
  deriving DecidableEq, Repr

/-- The modes of a FALU, SFU or PK16 instruction (R39). -/
def Job.fmode (j : Job) : FMode := { rnd := j.rnd, ftz := j.ftz, sat := j.sat }

/-- An input of a format, flushed (R86). -/
def FMode.input (m : FMode) (f : Fmt) (x : Nat) : FVal := f.decode (f.flush m.ftz x)

/-- Round an exact value with what its computation signals; flush; saturate (R148). -/
def FMode.result (m : FMode) (f : Fmt) (v : FVal × Fx) : Nat × Fx :=
  let r := roundVal f m.rnd v.1
  let r := f.flushResult m.ftz (r.1, r.2 ||| v.2)
  (f.satBits m.sat r.1, r.2)

/-- Saturate a finished encoding (R148). -/
def FMode.clamp (m : FMode) (f : Fmt) (r : Nat × Fx) : Nat × Fx := (f.satBits m.sat r.1, r.2)

/-- A result as a word. -/
def wordFx (r : Nat × Fx) : Word × Fx := (BitVec.ofNat 32 r.1, r.2)

/-! ## FALU and packed elements (R148 to R150) -/

def FMode.add (m : FMode) (f : Fmt) (x y : Nat) : Nat × Fx := m.result f (addVal m.rnd (m.input f x) (m.input f y))
def FMode.sub (m : FMode) (f : Fmt) (x y : Nat) : Nat × Fx := m.result f (addVal m.rnd (m.input f x) (m.input f y).neg)
def FMode.mul (m : FMode) (f : Fmt) (x y : Nat) : Nat × Fx := m.result f (mulVal (m.input f x) (m.input f y))

/-- x × y + z, rounded once. -/
def FMode.fma (m : FMode) (f : Fmt) (x y z : Nat) : Nat × Fx :=
  m.result f (fmaVal m.rnd (m.input f x) (m.input f y) (m.input f z))

/-- z - x × y, rounded once. -/
def FMode.fms (m : FMode) (f : Fmt) (x y z : Nat) : Nat × Fx :=
  m.result f (fmaVal m.rnd (m.input f x).neg (m.input f y) (m.input f z))

def FMode.minMax (m : FMode) (f : Fmt) (big : Bool) (x y : Nat) : Nat × Fx :=
  m.clamp f (minMaxBits f big (f.flush m.ftz x) (f.flush m.ftz y))

/-- FSAT: the input flushed and clamped; only a signalling NaN signals (R150). -/
def FMode.satOf (m : FMode) (y : Nat) : Nat × Fx :=
  (fp32.satBits true (fp32.flush m.ftz y), sigInvalid [m.input fp32 y])

/-- An integral function in a mode of its own (R150). -/
def FMode.integral (m : FMode) (rnd : Rnd) (y : Nat) : Nat × Fx := m.clamp fp32 (integralBits rnd (fp32.flush m.ftz y))

/-- A special function of the flushed input, flushed and saturated after its rounding (R152). -/
def FMode.special (m : FMode) (g : Rnd → FVal → Nat × Fx) (y : Nat) : Nat × Fx :=
  m.clamp fp32 (fp32.flushResult m.ftz (g m.rnd (m.input fp32 y)))

/-- FABS, FNEG and FCSGN act on bits (R150). -/
def absBits (y : Word) : Word := y &&& 0x7FFFFFFF#32
def negBits (y : Word) : Word := y ^^^ 0x80000000#32
def copySign (x y : Word) : Word := (x &&& 0x7FFFFFFF#32) ||| (y &&& 0x80000000#32)

/-! ## Packed pairs (R153) -/

/-- Element i of a packed pair. -/
def half (x : Word) (i : Nat) : Nat := (x.extractLsb' (16 * i) 16).toNat

/-- A packed pair from two elements with the exceptions of both (R153). -/
def packPair (lo hi : Nat × Fx) : Word × Fx :=
  ((BitVec.ofNat 16 hi.1 ++ BitVec.ofNat 16 lo.1 : Word), lo.2 ||| hi.2)

/-- A function of elements, on both (R153). -/
def onHalves (g : Nat → Nat → Nat → Nat × Fx) (x y z : Word) : Word × Fx :=
  packPair (g (half x 0) (half y 0) (half z 0)) (g (half x 1) (half y 1) (half z 1))

/-- An FP32 source rounded into a 16-bit format (R153): NaN is canonical and an infinity stays. -/
def FMode.narrow (m : FMode) (f : Fmt) (x : Word) : Nat × Fx :=
  let v := m.input fp32 x.toNat
  m.result f (v, sigInvalid [v])

/-- An FP16 element widened to FP32 (R153). -/
def FMode.widen (m : FMode) (x : Nat) : Word × Fx :=
  let v := m.input fp16 x
  wordFx (m.clamp fp32 ((roundVal fp32 .rn v).1, sigInvalid [v]))

/-! ## Exact sums of products (R92, R93) -/

/-- The exact sum of products: NaN when one is, or when infinities of both signs meet; an exact zero is +0 (R92). Beside a NaN factor infinities
of both signs signal nothing (DESIGN CHOICE, log 128). -/
def sumProducts (ps : List (FVal × Fx)) : FVal × Fx :=
  let fx := ps.foldl (fun a p => a ||| p.2) fxNone
  let vs := ps.map (·.1)
  if vs.any FVal.isNan then (.nan false, fx)
  else
    let pos := vs.any fun v => v == .inf false
    let neg := vs.any fun v => v == .inf true
    if pos && neg then (.nan false, fx ||| fxInvalid)
    else if pos then (.inf false, fx)
    else if neg then (.inf true, fx)
    else
      let add : FVal → FVal → FVal := fun a b =>
        match a, b with
        | .fin n1 m1 e1, .fin n2 m2 e2 => addFin .rn n1 m1 e1 n2 m2 e2
        | _, _ => a
      let t := vs.foldl add (.fin false 0 0)
      match t with
      | .fin _ 0 _ => (.fin false 0 0, fx)
      | v => (v, fx)

/-- A signalling NaN as a quiet one: where a quiet NaN signals nothing, a signalling one does not either (R75). -/
def FVal.quiet (v : FVal) : FVal :=
  match v with
  | .nan _ => .nan false
  | v => v

/-- z plus a sum of products, one RN rounding, flushed under the default setting (R93, R154). -/
def dotFloat (ftz : Bool) (ps : List (FVal × Fx)) (z : Word) : Word × Fx :=
  let p := sumProducts ps
  let r := addVal .rn p.1 (fp32.decode (fp32.flush ftz z.toNat)).quiet
  wordFx (({ rnd := .rn, ftz := ftz, sat := false } : FMode).result fp32 (r.1, r.2 ||| p.2))

/-- Byte i of a word. -/
def byteNat (x : Word) (i : Nat) : Nat := (x.extractLsb' (8 * i) 8).toNat

/-- The exact products of bytes (R154). -/
def byteProducts (f g : Nat → FVal) (x y : Word) : List (FVal × Fx) :=
  [0, 1, 2, 3].map fun i => mulVal (f (byteNat x i)).quiet (g (byteNat y i)).quiet

/-- The exact products of BF16 halves, flushed under the default setting (R154). -/
def halfProducts (ftz : Bool) (x y : Word) : List (FVal × Fx) :=
  [0, 1].map fun i => mulVal (bf16.decode (bf16.flush ftz (half x i))).quiet (bf16.decode (bf16.flush ftz (half y i))).quiet

/-- An exact integer sum, wrapped or clamped (R93). -/
def dotInt (sat : Bool) (i : Int) : Word := BitVec.ofInt 32 (if sat then max (-2147483648) (min i 2147483647) else i)

def dotSum (f : Nat → Int) (x y z : Word) : Int :=
  [0, 1, 2, 3].foldl (fun t i => t + f (byteNat x i) * f (byteNat y i)) z.toInt

/-! ## Conversions (R88, R89) -/

/-- The rounding field of CVT (R155). -/
def cvtRnd (r : BitVec 2) : Rnd :=
  match r.toNat with
  | 1 => .rz
  | 2 => .rd
  | 3 => .ru
  | _ => .rn

/-- FP32 to a narrower float (R89). -/
def cvtNarrow (f : Fmt) (flushes : Bool) (md : Rnd) (sat : Bool) (v : FVal) : Nat × Fx :=
  match v with
  | .nan q => (f.nanBits, sigInvalid [.nan q])
  | .inf neg =>
    if sat then (f.signBits neg + f.maxBits, fxInvalid)
    else (f.infOf neg, if f.hasInf then fxNone else fxInvalid)
  | .fin neg m e =>
    let r := roundRat f md sat neg m 1 e
    let toNan := !f.hasInf && r.1 == f.nanBits
    f.flushResult flushes (r.1, if toNan then r.2 ||| fxInvalid else r.2)

/-- A narrow float to FP32, exactly (R89). -/
def cvtWiden (v : FVal) : Nat × Fx := ((roundVal fp32 .rn v).1, sigInvalid [v])

/-- FP32 to an integer range (R89). -/
def cvtToInt (md : Rnd) (lo hi : Int) (v : FVal) : Int × Fx :=
  match v with
  | .nan _ => (0, fxInvalid)
  | .inf neg => (if neg then lo else hi, fxInvalid)
  | .fin _ _ _ =>
    let i := (roundInt md v).getD 0
    if i < lo then (lo, fxInvalid) else if i > hi then (hi, fxInvalid) else (i, fxNone)

/-- Integer narrowing to n bits (R89): clamped or wrapped, then extended by the destination's sign. -/
def cvtInt (n : Nat) (sign sat : Bool) (i : Int) : Dword :=
  let lo : Int := if sign then -((2 ^ (n - 1) : Nat) : Int) else 0
  let hi : Int := if sign then ((2 ^ (n - 1) : Nat) : Int) - 1 else ((2 ^ n : Nat) : Int) - 1
  let k := if sat then max lo (min i hi) else i
  let bits := (k % ((2 ^ n : Nat) : Int)).toNat
  (BitVec.ofInt 32 (if sign then sintOf n bits else (bits : Int))).zeroExtend 64

/-- One conversion (R88): the source as a 64-bit value whose high word is used only by 64-bit sources, and the result
likewise. -/
def cvtOf (code : Nat) (ftz sat : Bool) (md : Rnd) (x : Dword) : Dword × Fx :=
  let lo := loWord x
  let f32 : FVal := fp32.decode (fp32.flush ftz lo.toNat)
  let small : Nat × Fx → Dword × Fx := fun r => (BitVec.ofNat 64 r.1, r.2)
  let toInt : Int → Int → Dword × Fx := fun a b => let r := cvtToInt md a b f32; (BitVec.ofInt 64 r.1, r.2)
  match code with
  | 0x01 => small (cvtNarrow fp16 ftz md sat f32)
  | 0x02 => small (cvtNarrow bf16 ftz md sat f32)
  | 0x03 => small (cvtWiden (fp16.decode (fp16.flush ftz (half lo 0))))
  | 0x04 => small (cvtWiden (bf16.decode (bf16.flush ftz (half lo 0))))
  | 0x05 => small (cvtNarrow e4m3 false md sat f32)
  | 0x06 => small (cvtNarrow e5m2 false md sat f32)
  | 0x07 => small (cvtWiden (e4m3.decode (byteNat lo 0)))
  | 0x08 => small (cvtWiden (e5m2.decode (byteNat lo 0)))
  | 0x09 => small (ds8Quantise md f32)
  | 0x0A => small (cvtWiden (ds8Decode (byteNat lo 0)))
  | 0x10 => toInt (-2147483648) 2147483647
  | 0x11 => toInt 0 4294967295
  | 0x12 => small (intToFp32 md lo.toInt)
  | 0x13 => small (intToFp32 md lo.toNat)
  | 0x14 => toInt (-9223372036854775808) 9223372036854775807
  | 0x15 => toInt 0 18446744073709551615
  | 0x16 => small (intToFp32 md x.toInt)
  | 0x17 => small (intToFp32 md x.toNat)
  | 0x20 => (cvtInt 8 true sat lo.toInt, fxNone)
  | 0x21 => (cvtInt 8 false sat lo.toInt, fxNone)
  | 0x22 => (cvtInt 16 true sat lo.toInt, fxNone)
  | 0x23 => (cvtInt 16 false sat lo.toInt, fxNone)
  | 0x24 => (cvtInt 4 true sat lo.toInt, fxNone)
  | 0x25 => (cvtInt 8 false sat lo.toNat, fxNone)
  | _ => (cvtInt 16 false sat lo.toNat, fxNone)

/-- The conversions with a 64-bit source and with a 64-bit result (R88). -/
def cvtWideSource (code : Nat) : Bool := code == 0x16 || code == 0x17
def cvtWideResult (code : Nat) : Bool := code == 0x14 || code == 0x15

end Sys2Proof.Machine
end

