-- ==== Sys2Proof/Machine/Blocks.lean ====
section
/-! DEFINITION. Self-describing blocks (R80 to R83) and QSM, QPACK and QUNPK (R156 to R158). -/

namespace Sys2Proof.Machine

open Sys2Proof

/-! ## Element formats (R81) -/

/-- Multiply exactly by 2^k. -/
def FVal.scale (v : FVal) (k : Int) : FVal :=
  match v with
  | .fin n m e => .fin n m (e + k)
  | x => x

/-- The elements of a block of a code; 0 for a code that is none (R81). -/
def blockCount (code : Nat) : Nat :=
  match code with
  | 1 => 62
  | 2 => 62
  | 3 => 62
  | 4 => 62
  | 5 => 124
  | 6 => 31
  | _ => 0

/-- A small two's complement integer as a value. -/
def intVal (i : Int) : FVal := .fin (decide (i < 0)) i.natAbs 0

/-- An element value of a format code (R74, R76, R77). -/
def elemDecode (code x : Nat) : FVal :=
  match code with
  | 1 => e4m3.decode x
  | 2 => e5m2.decode x
  | 3 => ds8Decode x
  | 4 => intVal (sintOf 8 x)
  | 5 => intVal (sintOf 4 x)
  | _ => bf16.decode x

/-- Fmax of a format code (R83). -/
def blockMax (code : Nat) : Nat :=
  match code with
  | 1 => 448
  | 2 => 57344
  | 3 => 2
  | 4 => 127
  | _ => 7

/-- The bits of element j of a block's bytes. -/
def blockBits (code : Nat) (bytes : List Byte) (j : Nat) : Nat :=
  let at_ : Nat → Nat := fun k => (bytes.getD k 0).toNat
  match code with
  | 5 => at_ (2 + j / 2) / (if j % 2 = 0 then 1 else 16) % 16
  | 6 => at_ (2 + 2 * j) + 256 * at_ (3 + 2 * j)
  | _ => at_ (2 + j)

/-- The value of element j of a block (R82); a zero block's is +0. -/
def blockElem (bytes : List Byte) (j : Nat) : FVal :=
  let code := (bytes.getD 0 0).toNat
  let s := (bytes.getD 1 0).toNat
  if code = 16 then .fin false 0 0
  else if s = 255 then .nan false
  else (elemDecode code (blockBits code bytes j)).scale ((s : Int) - 127)

/-- A magnitude m × 2^e at most an integer. -/
def magLe (m : Nat) (e : Int) (f : Nat) : Bool :=
  let sc := scaleRat m 1 e
  decide (sc.1 ≤ f * sc.2)

/-- The encoding of an element with its exceptions: rounded by the mode, DS8 by R79, and beyond Fmax clamped without an
exception (R158). A rounding that changes the value signals inexact in every format (DEDUCED, log 101). -/
def elemEncode (code : Nat) (md : Rnd) (v : FVal) : Nat × Fx :=
  let big := blockMax code
  let top : Bool → Nat × Fx := fun neg =>
    match code with
    | 1 => (e4m3.signBits neg + e4m3.maxBits, fxNone)
    | 2 => (e5m2.signBits neg + e5m2.maxBits, fxNone)
    | 3 => (if neg then 0x88 else 0x00, fxNone)
    | 4 => (if neg then 0x81 else 0x7F, fxNone)
    | _ => (if neg then 0x9 else 0x7, fxNone)
  match v with
  | .nan _ => (match code with
    | 1 => 0x7F
    | 2 => 0x7E
    | 3 => 0x77
    | _ => 0, fxInvalid)
  | .inf neg => top neg
  | .fin neg m e =>
    if !magLe m e big then top neg
    else
      match code with
      | 1 => roundRat e4m3 md false neg m 1 e
      | 2 => roundRat e5m2 md false neg m 1 e
      | 3 => ds8Quantise md v
      | _ =>
        let i := (roundInt md v).getD 0
        let w := if code = 4 then 8 else 4
        let exact : Bool := match cmpVal v (intVal i) with
          | some .eq => true
          | _ => false
        ((i % ((2 ^ w : Nat) : Int)).toNat, if exact then fxNone else fxInexact)

/-! ## Quantising a block (R83) -/

/-- The payload bytes of element bits (R81). -/
def blockPayload (code : Nat) (es : List Nat) : List Byte :=
  let at_ : Nat → Nat := fun k => es.getD k 0
  match code with
  | 5 => (List.range 62).map fun k => BitVec.ofNat 8 (at_ (2 * k) % 16 + 16 * (at_ (2 * k + 1) % 16))
  | 6 => (List.range 31).flatMap fun k => leBytes 2 (at_ k)
  | _ => (List.range 62).map fun k => BitVec.ofNat 8 (at_ k)

/-- The scale of finite FP32 values not all zero (R83). -/
def blockScale (code : Nat) (xs : List Nat) : Nat :=
  if code = 6 then 127
  else
    match fp32.decode ((xs.map fun x => x % 2 ^ 31).foldl max 0) with
    | .fin _ m e => ((List.range 255).find? fun (k : Nat) => magLe m (e + 127 - (k : Int)) (blockMax code)).getD 254
    | _ => 254

/-- The block of FP32 encodings, and whether it is a NaN block (R83). -/
def quantise (code : Nat) (md : Rnd) (xs : List Nat) : List Byte × Bool :=
  let vs := xs.map fp32.decode
  let finite : FVal → Bool := fun v => match v with
    | .fin _ _ _ => true
    | _ => false
  if !vs.all finite then (BitVec.ofNat 8 code :: 0xFF#8 :: List.replicate 62 0, true)
  else if xs.all fun x => x % 2 ^ 31 == 0 then (0x10#8 :: List.replicate 63 0, false)
  else
    let s := blockScale code xs
    let es :=
      if code = 6 then vs.map fun v => (roundVal bf16 md v).1
      else vs.map fun v => (elemEncode code md (v.scale (127 - (s : Int)))).1
    (BitVec.ofNat 8 code :: BitVec.ofNat 8 s :: blockPayload code es, false)

/-! ## Smoothing (R90, R91) -/

/-- A smoothing entry: NaN unless positive, finite and normal (R90). -/
def smoothVal (m : Nat) : FVal :=
  match fp32.decode m with
  | .fin false k e => if fp32.isSubnormal m || k == 0 then .nan false else .fin false k e
  | _ => .nan false

/-- x / m rounded once by the mode (R91). -/
def smoothDiv (md : Rnd) (x m : Nat) : Nat :=
  match fp32.decode x, smoothVal m with
  | .nan _, _ => fp32.nanBits
  | _, .nan _ => fp32.nanBits
  | .inf neg, _ => fp32.infOf neg
  | .fin neg a ea, .fin _ b eb => (roundRat fp32 md false neg a b (ea - eb)).1
  | .fin neg _ _, .inf _ => fp32.signBits neg

/-! ## QSM -/

def qsmFmt (y : Word) : Nat := (y.extractLsb' 25 3).toNat
def qsmSmooth (y : Word) : Bool := y.getLsbD 24
def qsmSrc (y : Word) : Nat := (y.extractLsb' 21 3).toNat
def qsmDst (y : Word) : Nat := (y.extractLsb' 18 3).toNat
def qsmVec (y : Word) : Nat := (y.extractLsb' 15 3).toNat
def qsmOff (y : Word) : Nat := 8 * (y.extractLsb' 0 15).toNat

/-- The checks of one lane (R157). -/
def qsmCheck (l : Launch) (y src dst : Word) (lane : Nat) : Got Unit :=
  let n := blockCount (qsmFmt y)
  let range : Nat → Nat → Nat → Bool := fun alloc o k => decide (l.scratchSize alloc < o + k)
  let fail : Nat → Nat → Got Unit := fun code o => .trap (Trap.at code (BitVec.ofNat 64 o) lane)
  if y.extractLsb' 28 4 ≠ 0 ∨ qsmFmt y = 0 ∨ qsmFmt y = 7 then fail 1 0
  else if src.toNat % 4 ≠ 0 then fail 23 src.toNat
  else if dst.toNat % 64 ≠ 0 then fail 23 dst.toNat
  else if range (qsmSrc y) src.toNat (4 * n) then fail 24 src.toNat
  else if range (qsmDst y) dst.toNat 64 then fail 24 dst.toNat
  else if qsmSmooth y && range (qsmVec y) (qsmOff y) (4 * n) then fail 24 (qsmOff y)
  else .ok ()

/-- n FP32 words of an allocation. -/
def Block.scratchWords (b : Block) (l : Launch) (alloc o n : Nat) : List Nat :=
  (List.range n).map fun k => leNat (b.scratchRead l alloc (o + 4 * k) 4)

/-- One lane of QSM on a block's scratchpad: the scratchpad after it, the word for v[d] and the exceptions (R156). -/
def Job.qsmLane (j : Job) (b : Block) (y src dst : Word) : Block × Word × Fx :=
  let n := blockCount (qsmFmt y)
  let flush := fp32.flush j.ftz
  let xs := (b.scratchWords j.launch (qsmSrc y) src.toNat n).map flush
  let ms := b.scratchWords j.launch (qsmVec y) (qsmOff y) n
  let xs := if qsmSmooth y then (xs.zip ms).map fun p => flush (smoothDiv j.rnd p.1 p.2) else xs
  let q := quantise (qsmFmt y) j.rnd xs
  let w : Word := BitVec.ofNat 32 ((q.1.getD 0 0).toNat * 256 + (q.1.getD 1 0).toNat)
  (b.scratchWrite j.launch (qsmDst y) dst.toNat q.1, w, if q.2 then fxInvalid else fxNone)

/-- What the block conversions name (R156, R158). -/
def blockMeta (sc : Scope) (d nd a na : Nat) (b : Opb) : Meta :=
  { cls := .laneWise, scope := sc, d := d, nd := nd, a := a, na := na, b := b.num, nb := b.vcount 1, opb := some b,
    xreg := true, xmod := xmRnd ||| xmFtz, xpred := true,
    bad := b.isImm || decide (a % na ≠ 0) || decide (d % nd ≠ 0) }

/-- QSM (R156, R157): lanes in ascending order, each complete before the next begins. -/
def execQsm (sc : Scope) (d a : Reg) (b : Opb) (s : State) : Host.Outcome State Fault Refusal :=
  issue (blockMeta sc d.toNat 1 a.toNat 2 b) s fun s j =>
    if j.live = 0 then .next s
    else if classFull j.w.loads then .stall s
    else
      (s.operand j .int b).eff fun ys =>
        let src : Nat → Word := fun i => laneOf (j.w.row j.a) i
        let dst : Nat → Word := fun i => laneOf (j.w.row (j.a + 1)) i
        (firstFail (lanesOf j.live) fun i => qsmCheck j.launch (laneOf ys i) (src i) (dst i) i).eff fun _ =>
          let run := (lanesOf j.live).foldl (fun (acc : Block × List (Nat × Word × Fx)) i =>
            let r := j.qsmLane acc.1 (laneOf ys i) (src i) (dst i)
            (r.1, acc.2 ++ [(i, r.2)])) (j.block, [])
          let res : Nat → Word × Fx := fun i => ((run.2.find? fun x => x.1 == i).map fun x => x.2).getD (0, 0)
          match j.floatTrap fun i => (res i).2 with
          | some t => .trap t
          | none =>
            .next (((s.modBlock j.block.uid fun x => { x with scratch := run.1.scratch }).putRow j
              (rowOf fun i => (res i).1)).countTaken j)

/-! ## QPACK and QUNPK (R158) -/

def qpCode (y : Word) : Nat := (y.extractLsb' 0 3).toNat
def qpScale (y : Word) : Nat := (y.extractLsb' 8 8).toNat

/-- A control word that QPACK, or QUNPK, refuses. -/
def qpBad (pack : Bool) (y : Word) : Bool :=
  decide (y &&& 0xFFFF00F8#32 ≠ 0) || decide (qpCode y = 0) || decide (5 < qpCode y) || (pack && decide (qpScale y = 255))

/-- The control words are good in every live lane. -/
def Job.qpCheck (j : Job) (pack : Bool) (ys : Row) : Got (List (Nat × Unit)) :=
  firstFail (lanesOf j.live) fun i => if qpBad pack (laneOf ys i) then .trap (Trap.at 1 0 i) else .ok ()

/-- Where element i stands in a packed word: its first bit and its bits. -/
def packWidth (code : Nat) : Nat := if code = 5 then 4 else 8

/-- QPACK in one lane. -/
def qpack (j : Job) (y : Word) (xs : List Word) : Word × Fx :=
  let es := xs.map fun x =>
    elemEncode (qpCode y) j.rnd ((fp32.decode (fp32.flush j.ftz x.toNat)).scale (127 - (qpScale y : Int)))
  let w := packWidth (qpCode y)
  let n := es.zipIdx.foldl (fun acc e => acc + e.1.1 % 2 ^ w * 2 ^ (w * e.2)) 0
  (BitVec.ofNat 32 n, es.foldl (fun acc e => acc ||| e.2) fxNone)

/-- QPACK. -/
def execQpack (sc : Scope) (d a : Reg) (b : Opb) (s : State) : Host.Outcome State Fault Refusal :=
  issue (blockMeta sc d.toNat 1 a.toNat 4 b) s fun s j =>
    (s.operand j .int b).eff fun ys =>
      (j.qpCheck true ys).eff fun _ =>
        let r : Nat → Word × Fx := fun i => qpack j (laneOf ys i) ([0, 1, 2, 3].map fun k => laneOf (j.w.row (j.a + k)) i)
        match j.floatTrap fun i => (r i).2 with
        | some t => .trap t
        | none => .next (s.putRow j (rowOf fun i => (r i).1))

/-- Element k of QUNPK in one lane. -/
def qunpk (j : Job) (y x : Word) (k : Nat) : Word × Fx :=
  let w := packWidth (qpCode y)
  let v := elemDecode (qpCode y) (x.toNat / 2 ^ (w * k) % 2 ^ w)
  if qpScale y = 255 then (0x7FC00000#32, fxNone)
  else
    match v with
    | .fin neg m e =>
      wordFx (fp32.flushResult j.ftz (roundRat fp32 j.rnd false neg m 1 (e + (qpScale y : Int) - 127)))
    | v => wordFx ((roundVal fp32 j.rnd v).1, fxNone)

/-- QUNPK. -/
def execQunpk (sc : Scope) (d a : Reg) (b : Opb) (s : State) : Host.Outcome State Fault Refusal :=
  issue (blockMeta sc d.toNat 4 a.toNat 1 b) s fun s j =>
    (s.operand j .int b).eff fun ys =>
      (j.qpCheck false ys).eff fun _ =>
        let r : Nat → Nat → Word × Fx := fun k i => qunpk j (laneOf ys i) (laneOf (j.w.row j.a) i) k
        match j.floatTrap fun i => (r 0 i).2 ||| (r 1 i).2 ||| (r 2 i).2 ||| (r 3 i).2 with
        | some t => .trap t
        | none =>
          .next (s.put j fun w => [0, 1, 2, 3].foldl (fun w k => w.setRow j.live (j.d + k) (rowOf fun i => (r k i).1)) w)

end Sys2Proof.Machine
end

