-- ==== Sys2Proof/Machine/Arith.lean ====
section
/-! DEFINITION. The integer functions of the lane and scalar families (R106 to R110). -/

namespace Sys2Proof.Machine

open Sys2Proof

/-- Bits [63:32] of a product of integers (R106). -/
def highWord (p : Int) : Word := BitVec.ofInt 32 (p / 2 ^ 32)

def mulHiS (x y : Word) : Word := highWord (x.toInt * y.toInt)
def mulHiU (x y : Word) : Word := highWord ((x.toNat * y.toNat : Nat) : Int)
def minS (x y : Word) : Word := if x.toInt ≤ y.toInt then x else y
def maxS (x y : Word) : Word := if x.toInt ≤ y.toInt then y else x
def minU (x y : Word) : Word := if x.toNat ≤ y.toNat then x else y
def maxU (x y : Word) : Word := if x.toNat ≤ y.toNat then y else x

/-- |sx - sy| as an unsigned value (R106). -/
def absDiff (x y : Word) : Word := BitVec.ofNat 32 (x.toInt - y.toInt).natAbs

/-- Clamp to the signed range of n bits. -/
def clampS (n : Nat) (i : Int) : Int := max (-(2 ^ (n - 1) : Nat)) (min i ((2 ^ (n - 1) : Nat) - 1))

/-- Clamp to the unsigned range of n bits. -/
def clampU (n : Nat) (i : Int) : Int := max 0 (min i ((2 ^ n : Nat) - 1))

def addSatS (x y : Word) : Word := BitVec.ofInt 32 (clampS 32 (x.toInt + y.toInt))
def subSatS (x y : Word) : Word := BitVec.ofInt 32 (clampS 32 (x.toInt - y.toInt))
def addSatU (x y : Word) : Word := BitVec.ofNat 32 (min (x.toNat + y.toNat) (2 ^ 32 - 1))
def subSatU (x y : Word) : Word := BitVec.ofNat 32 (x.toNat - y.toNat)
def avgU (x y : Word) : Word := BitVec.ofNat 32 ((x.toNat + y.toNat + 1) / 2)

/-! Shifts take the whole unsigned word as their count (R107). -/

def shlW (x y : Word) : Word := if y.toNat < 32 then x <<< y.toNat else 0
def shrW (x y : Word) : Word := if y.toNat < 32 then x >>> y.toNat else 0
def sarW (x y : Word) : Word := x.sshiftRight (min y.toNat 31)
def rotlW (x y : Word) : Word := x.rotateLeft (y.toNat % 32)
def rotrW (x y : Word) : Word := x.rotateRight (y.toNat % 32)

/-- The number of set bits. -/
def popcount (y : Word) : Nat := (List.range 32).foldl (fun n i => if y.getLsbD i then n + 1 else n) 0

/-- The number of leading zero bits (R107). -/
def leadingZeros (y : Word) : Nat := if y = 0 then 32 else 31 - Nat.log2 y.toNat

/-- Bit i moved to bit 31 - i (R107). -/
def bitReverse (y : Word) : Word := maskOf fun i => y.getLsbD (31 - i)

/-! Bit fields (R108). -/

def fieldStart (y : Word) : Nat := (y.extractLsb' 0 5).toNat
def fieldLen (y : Word) : Nat := min (min (y.extractLsb' 8 6).toNat 32) (32 - fieldStart y)
def fieldMask (y : Word) : Word := BitVec.ofNat 32 ((2 ^ fieldLen y - 1) * 2 ^ fieldStart y)
def bfxu (x y : Word) : Word := (x &&& fieldMask y) >>> fieldStart y

def bfxs (x y : Word) : Word :=
  if fieldLen y = 0 then 0 else BitVec.ofInt 32 (sintOf (fieldLen y) (bfxu x y).toNat)

def bfi (x y z : Word) : Word := (z &&& ~~~fieldMask y) ||| ((x <<< fieldStart y) &&& fieldMask y)

/-- Byte k of the pool of eight bytes of BYSEL: d0's four and x's four. -/
def poolByte (x z : Word) (k : Nat) : Byte := (x ++ z).extractLsb' (8 * k) 8

/-- One result byte of BYSEL, from the byte below it (R108). -/
def byselByte (x y z : Word) (below : Byte) (i : Nat) : Byte :=
  if y.getLsbD (12 + i) then (if y.getLsbD 16 && below.getLsbD 7 then 0xFF else 0x00)
  else poolByte x z (y.extractLsb' (3 * i) 3).toNat

def bysel (x y z : Word) : Word :=
  let b0 := byselByte x y z 0 0
  let b1 := byselByte x y z b0 1
  let b2 := byselByte x y z b1 2
  let b3 := byselByte x y z b2 3
  b3 ++ b2 ++ b1 ++ b0

def fshl (x y z : Word) : Word := hiWord ((x ++ z) <<< fieldStart y)
def fshr (x y z : Word) : Word := loWord ((x ++ z) >>> fieldStart y)

end Sys2Proof.Machine
end

