-- ==== Sys2Proof/Machine/Compare.lean ====
section
/-! DEFINITION. The meanings of ICMP, SCMP and FCMP (R109, R114, R151). -/

namespace Sys2Proof.Machine

open Sys2Proof

/-- ICMP.EQ (R109). -/
def execIcmpEq (sc : Scope) (p : BitVec 3) (comb : BitVec 2) (a : Reg) (b : Opb) (s : State) : Host.Outcome State Fault Refusal :=
  issue (cmpMeta sc a b) s
    (laneCmp b p comb fun x y => x == y)

/-- ICMP.NE (R109). -/
def execIcmpNe (sc : Scope) (p : BitVec 3) (comb : BitVec 2) (a : Reg) (b : Opb) (s : State) : Host.Outcome State Fault Refusal :=
  issue (cmpMeta sc a b) s
    (laneCmp b p comb fun x y => x != y)

/-- ICMP.LT (R109). -/
def execIcmpLt (sc : Scope) (p : BitVec 3) (comb : BitVec 2) (a : Reg) (b : Opb) (s : State) : Host.Outcome State Fault Refusal :=
  issue (cmpMeta sc a b) s
    (laneCmp b p comb fun x y => ltS x y)

/-- ICMP.LE (R109). -/
def execIcmpLe (sc : Scope) (p : BitVec 3) (comb : BitVec 2) (a : Reg) (b : Opb) (s : State) : Host.Outcome State Fault Refusal :=
  issue (cmpMeta sc a b) s
    (laneCmp b p comb fun x y => leS x y)

/-- ICMP.GT (R109). -/
def execIcmpGt (sc : Scope) (p : BitVec 3) (comb : BitVec 2) (a : Reg) (b : Opb) (s : State) : Host.Outcome State Fault Refusal :=
  issue (cmpMeta sc a b) s
    (laneCmp b p comb fun x y => ltS y x)

/-- ICMP.GE (R109). -/
def execIcmpGe (sc : Scope) (p : BitVec 3) (comb : BitVec 2) (a : Reg) (b : Opb) (s : State) : Host.Outcome State Fault Refusal :=
  issue (cmpMeta sc a b) s
    (laneCmp b p comb fun x y => leS y x)

/-- ICMP.LTU (R109). -/
def execIcmpLtu (sc : Scope) (p : BitVec 3) (comb : BitVec 2) (a : Reg) (b : Opb) (s : State) : Host.Outcome State Fault Refusal :=
  issue (cmpMeta sc a b) s
    (laneCmp b p comb fun x y => ltU x y)

/-- ICMP.LEU (R109). -/
def execIcmpLeu (sc : Scope) (p : BitVec 3) (comb : BitVec 2) (a : Reg) (b : Opb) (s : State) : Host.Outcome State Fault Refusal :=
  issue (cmpMeta sc a b) s
    (laneCmp b p comb fun x y => leU x y)

/-- ICMP.GTU (R109). -/
def execIcmpGtu (sc : Scope) (p : BitVec 3) (comb : BitVec 2) (a : Reg) (b : Opb) (s : State) : Host.Outcome State Fault Refusal :=
  issue (cmpMeta sc a b) s
    (laneCmp b p comb fun x y => ltU y x)

/-- ICMP.GEU (R109). -/
def execIcmpGeu (sc : Scope) (p : BitVec 3) (comb : BitVec 2) (a : Reg) (b : Opb) (s : State) : Host.Outcome State Fault Refusal :=
  issue (cmpMeta sc a b) s
    (laneCmp b p comb fun x y => leU y x)

/-- SCMP.EQ (R114): once, into every live lane. -/
def execScmpEq (sc : Scope) (p : BitVec 3) (comb : BitVec 2) (a : Reg) (b : Opb) (s : State) : Host.Outcome State Fault Refusal :=
  issue (scalarMeta sc b) s
    (scalarCmp a b p comb fun x y => x == y)

/-- SCMP.NE (R114): once, into every live lane. -/
def execScmpNe (sc : Scope) (p : BitVec 3) (comb : BitVec 2) (a : Reg) (b : Opb) (s : State) : Host.Outcome State Fault Refusal :=
  issue (scalarMeta sc b) s
    (scalarCmp a b p comb fun x y => x != y)

/-- SCMP.LT (R114): once, into every live lane. -/
def execScmpLt (sc : Scope) (p : BitVec 3) (comb : BitVec 2) (a : Reg) (b : Opb) (s : State) : Host.Outcome State Fault Refusal :=
  issue (scalarMeta sc b) s
    (scalarCmp a b p comb fun x y => ltS x y)

/-- SCMP.LE (R114): once, into every live lane. -/
def execScmpLe (sc : Scope) (p : BitVec 3) (comb : BitVec 2) (a : Reg) (b : Opb) (s : State) : Host.Outcome State Fault Refusal :=
  issue (scalarMeta sc b) s
    (scalarCmp a b p comb fun x y => leS x y)

/-- SCMP.GT (R114): once, into every live lane. -/
def execScmpGt (sc : Scope) (p : BitVec 3) (comb : BitVec 2) (a : Reg) (b : Opb) (s : State) : Host.Outcome State Fault Refusal :=
  issue (scalarMeta sc b) s
    (scalarCmp a b p comb fun x y => ltS y x)

/-- SCMP.GE (R114): once, into every live lane. -/
def execScmpGe (sc : Scope) (p : BitVec 3) (comb : BitVec 2) (a : Reg) (b : Opb) (s : State) : Host.Outcome State Fault Refusal :=
  issue (scalarMeta sc b) s
    (scalarCmp a b p comb fun x y => leS y x)

/-- SCMP.LTU (R114): once, into every live lane. -/
def execScmpLtu (sc : Scope) (p : BitVec 3) (comb : BitVec 2) (a : Reg) (b : Opb) (s : State) : Host.Outcome State Fault Refusal :=
  issue (scalarMeta sc b) s
    (scalarCmp a b p comb fun x y => ltU x y)

/-- SCMP.LEU (R114): once, into every live lane. -/
def execScmpLeu (sc : Scope) (p : BitVec 3) (comb : BitVec 2) (a : Reg) (b : Opb) (s : State) : Host.Outcome State Fault Refusal :=
  issue (scalarMeta sc b) s
    (scalarCmp a b p comb fun x y => leU x y)

/-- SCMP.GTU (R114): once, into every live lane. -/
def execScmpGtu (sc : Scope) (p : BitVec 3) (comb : BitVec 2) (a : Reg) (b : Opb) (s : State) : Host.Outcome State Fault Refusal :=
  issue (scalarMeta sc b) s
    (scalarCmp a b p comb fun x y => ltU y x)

/-- SCMP.GEU (R114): once, into every live lane. -/
def execScmpGeu (sc : Scope) (p : BitVec 3) (comb : BitVec 2) (a : Reg) (b : Opb) (s : State) : Host.Outcome State Fault Refusal :=
  issue (scalarMeta sc b) s
    (scalarCmp a b p comb fun x y => leU y x)

/-- FCMP.EQ (R151). -/
def execFcmpEq (sc : Scope) (p : BitVec 3) (comb : BitVec 2) (a : Reg) (b : Opb) (s : State) : Host.Outcome State Fault Refusal :=
  issue { cmpMeta sc a b with xmod := xmFtz } s fun s j =>
    laneFcmp b p comb (floatCond j.ftz false false (fun o => o == .eq)) s j

/-- FCMP.NE (R151). -/
def execFcmpNe (sc : Scope) (p : BitVec 3) (comb : BitVec 2) (a : Reg) (b : Opb) (s : State) : Host.Outcome State Fault Refusal :=
  issue { cmpMeta sc a b with xmod := xmFtz } s fun s j =>
    laneFcmp b p comb (floatCond j.ftz false true (fun o => o != .eq)) s j

/-- FCMP.LT (R151). -/
def execFcmpLt (sc : Scope) (p : BitVec 3) (comb : BitVec 2) (a : Reg) (b : Opb) (s : State) : Host.Outcome State Fault Refusal :=
  issue { cmpMeta sc a b with xmod := xmFtz } s fun s j =>
    laneFcmp b p comb (floatCond j.ftz true false (fun o => o == .lt)) s j

/-- FCMP.LE (R151). -/
def execFcmpLe (sc : Scope) (p : BitVec 3) (comb : BitVec 2) (a : Reg) (b : Opb) (s : State) : Host.Outcome State Fault Refusal :=
  issue { cmpMeta sc a b with xmod := xmFtz } s fun s j =>
    laneFcmp b p comb (floatCond j.ftz true false (fun o => o != .gt)) s j

/-- FCMP.GT (R151). -/
def execFcmpGt (sc : Scope) (p : BitVec 3) (comb : BitVec 2) (a : Reg) (b : Opb) (s : State) : Host.Outcome State Fault Refusal :=
  issue { cmpMeta sc a b with xmod := xmFtz } s fun s j =>
    laneFcmp b p comb (floatCond j.ftz true false (fun o => o == .gt)) s j

/-- FCMP.GE (R151). -/
def execFcmpGe (sc : Scope) (p : BitVec 3) (comb : BitVec 2) (a : Reg) (b : Opb) (s : State) : Host.Outcome State Fault Refusal :=
  issue { cmpMeta sc a b with xmod := xmFtz } s fun s j =>
    laneFcmp b p comb (floatCond j.ftz true false (fun o => o != .lt)) s j

/-- FCMP.UN (R151). -/
def execFcmpUn (sc : Scope) (p : BitVec 3) (comb : BitVec 2) (a : Reg) (b : Opb) (s : State) : Host.Outcome State Fault Refusal :=
  issue { cmpMeta sc a b with xmod := xmFtz } s fun s j =>
    laneFcmp b p comb (floatCond j.ftz false true (fun _ => false)) s j

/-- FCMP.OR (R151). -/
def execFcmpOr (sc : Scope) (p : BitVec 3) (comb : BitVec 2) (a : Reg) (b : Opb) (s : State) : Host.Outcome State Fault Refusal :=
  issue { cmpMeta sc a b with xmod := xmFtz } s fun s j =>
    laneFcmp b p comb (floatCond j.ftz false false (fun _ => true)) s j

end Sys2Proof.Machine
end

