-- ==== Sys2Proof/Machine/Convert.lean ====
section
/-! DEFINITION. The meaning of CVT (R155). -/

namespace Sys2Proof.Machine

open Sys2Proof

/-- What CVT names. -/
def cvtMeta (sc : Scope) (d : Reg) (a : Reg) (code : BitVec 6) : Meta :=
  let c := code.toNat
  let nd := if cvtWideResult c then 2 else 1
  let na := if cvtWideSource c then 2 else 1
  { cls := .laneWise, scope := sc, d := d.toNat, nd := nd, a := a.toNat, na := na, xreg := true, xmod := xmFtz,
          xpred := true, bad := (nd == 2 && d.getLsbD 0) || (na == 2 && a.getLsbD 0) }

/-- CVT (R155): each side names a pair when it is 64 bits wide. -/
def execCvt (sc : Scope) (d a : Reg) (code : BitVec 6) (sat : Bool) (rnd : BitVec 2) (s : State) :
    Host.Outcome State Fault Refusal :=
  let c := code.toNat
  issue (cvtMeta sc d a code) s fun s j =>
    let r : Nat → Dword × Fx := fun i => cvtOf c j.ftz sat (cvtRnd rnd) (laneOf64 (j.w.row64 j.a) i)
    match j.floatTrap fun i => (r i).2 with
    | some t => .trap t
    | none =>
      if cvtWideResult c then .next (s.putRow64 j (Vector.ofFn fun i => (r i).1))
      else .next (s.putRow j (rowOf fun i => loWord (r i).1))

end Sys2Proof.Machine
end

