-- ==== Sys2Proof/Machine/Ctrl.lean ====
section
/-! DEFINITION. Branches, the return stack, EXIT, NOP and YIELD (R115 to R121), and the hint words (R36 to R42). -/

namespace Sys2Proof.Machine

open Sys2Proof

/-! ## Decisions of wide branches (R115, R119) -/

/-- A wide branch decides once: at SET and BLOCK scope the first part that executes decides for the rest. -/
def State.decide_ (s : State) (j : Job) (compute : Bool × Dword) : State × (Bool × Dword) :=
  if gathers j.scope then
    match (s.rvOf j.w j.scope).memo with
    | some m => (s, m)
    | none => (s.modRv j.w j.scope fun r => { r with memo := some compute }, compute)
  else (s, compute)

/-- The target of a B-format word (R33). -/
def branchTarget (addr : Dword) (disp : BitVec 20) : Dword := addr + 4 + 4 * disp.signExtend 64

/-- The lanes of a warp whose condition is true: p XOR N (R33). -/
def condLanes (w : Warp) (p : BitVec 3) (n : Bool) : LaneMask := if n then ~~~w.pred p.toNat else w.pred p.toNat

/-- The lanes that a B-format branch sends to its target: those whose condition is true at LANE scope; all or none at wider
scope (R115). -/
def State.goers (s : State) (j : Job) (p : BitVec 3) (n : Bool) : State × LaneMask :=
  if j.scope = .lane then (s, j.live &&& condLanes j.w p n)
  else
    let any := j.members.any fun w => decide (j.liveOf w &&& condLanes w p n ≠ 0)
    let r := s.decide_ j (any, 0)
    (r.1, if r.2.1 then j.live else 0)

/-- The live lanes with their targets: those of `go` to t, the others to the next word. -/
def Job.spread (j : Job) (go : LaneMask) (t : Dword) : List (Nat × Dword) :=
  (lanesOf j.live).map fun i => (i, if go.getLsbD i then t else j.next)

/-- Push a return address in some lanes (R116). -/
def Warp.pushAll (w : Warp) (m : LaneMask) (a : Dword) : Warp :=
  { w with rstack := Vector.ofFn fun i => if m.getLsbD i.val then a :: w.rstack[i] else w.rstack[i] }

/-- Pop the return stacks of some lanes (R119). -/
def Warp.popAll (w : Warp) (m : LaneMask) : Warp :=
  { w with rstack := Vector.ofFn fun i => if m.getLsbD i.val then w.rstack[i].tail else w.rstack[i] }

/-- A lane of the mask whose return stack is full (R116). -/
def Warp.fullStack (w : Warp) (m : LaneMask) : Option Nat := (lanesOf m).find? fun i => decide (16 ≤ (w.stack i).length)

/-- BR (R115). -/
def execBr (sc : Scope) (p : BitVec 3) (n : Bool) (disp : BitVec 20) (s : State) : Host.Outcome State Fault Refusal :=
  issue { cls := .branch, scope := sc } s fun s j =>
    let t := branchTarget j.addr disp
    let r := s.goers j p n
    .jump r.1 (some t) (j.spread r.2 t)

/-- CALL (R116). -/
def execCall (sc : Scope) (p : BitVec 3) (n : Bool) (disp : BitVec 20) (s : State) : Host.Outcome State Fault Refusal :=
  issue { cls := .branch, scope := sc } s fun s j =>
    let t := branchTarget j.addr disp
    let r := s.goers j p n
    match j.w.fullStack r.2 with
    | some _ => .trap (Trap.plain 13)
    | none => .jump (r.1.put j fun w => w.pushAll r.2 (j.addr + 4)) (some t) (j.spread r.2 t)

/-! ## Targets in registers (R118, R119) -/

/-- What BRX and CALLX name. -/
def brxMeta (sc : Scope) (b : Opb) : Meta :=
  { cls := .branch, scope := sc, b := b.num, nb := b.vcount 2, opb := some b, wide := true,
    bad := b.isImm || b.isXimm || b.isLit || b.badPair }

/-- The targets of a warp's lanes from a 64-bit operand. -/
def State.targetsOf (s : State) (j : Job) (w : Warp) (b : Opb) : Got Row64 := s.operand64 { j with w := w } b

/-- Checks 1 and 2 of R118 on the targets of some lanes, each over every lane before the next. -/
def badTarget (ts : List (Nat × Dword)) : Option Trap :=
  match ts.find? fun t => !canonical t.2 with
  | some t => some (Trap.at 22 t.2 t.1)
  | none =>
    match ts.find? fun t => t.2.toNat % 4 != 0 with
    | some t => some (Trap.at 23 t.2 t.1)
    | none => none

/-- The checked lanes with their targets: each live lane's own at LANE scope; at wider scope the one target, of the lowest
live lane of the lowest member (R118, R119). -/
def State.routes (s : State) (j : Job) (own : Warp → Got Row64) : Got (State × List (Nat × Dword)) :=
  if j.scope = .lane then
    (own j.w).bind fun ts => .ok (s, (lanesOf j.live).map fun i => (i, laneOf64 ts i))
  else
    let w0 := j.members.headD j.w
    (own w0).bind fun ts =>
      let r := s.decide_ j (true, laneOf64 ts (lowLane (j.liveOf w0)))
      .ok (r.1, (lanesOf j.live).map fun i => (i, r.2.2))

/-- BRX (R118). -/
def execBrx (sc : Scope) (b : Opb) (s : State) : Host.Outcome State Fault Refusal :=
  issue (brxMeta sc b) s fun s j =>
    (s.routes j fun w => s.targetsOf j w b).eff fun r =>
      match badTarget r.2 with
      | some t => .trap t
      | none => .jump r.1 none r.2

/-- CALLX (R118): every live lane pushes. -/
def execCallx (sc : Scope) (b : Opb) (s : State) : Host.Outcome State Fault Refusal :=
  issue (brxMeta sc b) s fun s j =>
    (s.routes j fun w => s.targetsOf j w b).eff fun r =>
      match badTarget r.2 with
      | some t => .trap t
      | none =>
        match j.w.fullStack j.live with
        | some i => .trap (Trap.at 13 (((r.2.find? fun x => x.1 == i).map fun x => x.2).getD 0) i)
        | none => .jump (r.1.put j fun w => w.pushAll j.live (j.addr + 4)) none r.2

/-- The tops of a warp's return stacks; that of an empty stack, which only a member whose part trapped and was skipped can show, is 0 (DESIGN
CHOICE, log 95). -/
def Warp.tops (w : Warp) : Row64 := Vector.ofFn fun i => w.rstack[i].headD 0

/-- RET (R119): every live lane pops. An entry holds the 64 bits of the address after the CALL, and RET traps on one that is not canonical
(DESIGN CHOICE, log 96). -/
def execRet (sc : Scope) (s : State) : Host.Outcome State Fault Refusal :=
  issue { cls := .branch, scope := sc } s fun s j =>
    if (lanesOf j.live).any fun i => (j.w.stack i).isEmpty then .trap (Trap.plain 13)
    else
      (s.routes j fun w => .ok w.tops).eff fun r =>
        match badTarget r.2 with
        | some t => .trap t
        | none => .jump (r.1.put j fun w => w.popAll j.live) none r.2

/-! ## EXIT, NOP and YIELD (R117, R121) -/

/-- NOP (R121): its rendezvous alone. -/
def execNop (sc : Scope) (s : State) : Host.Outcome State Fault Refusal :=
  issue { cls := .laneWise, scope := sc } s fun s _ => .next s

/-- YIELD (R121): timing only. -/
def execYield (sc : Scope) (s : State) : Host.Outcome State Fault Refusal :=
  issue { cls := .scalar, scope := sc } s fun s _ => .next s

/-- An outstanding load no longer writes the lanes that have exited (R121, R183). -/
def LoadOp.forget (m : LaneMask) (op : LoadOp) : LoadOp :=
  if op.kind = .hreg then op
  else { op with lanes := op.lanes &&& ~~~m, accs := op.accs.filter fun a => !m.getLsbD a.lane }

/-- Lanes of a warp end (R121): their loads are discarded, their stacks are empty, their rays are forgotten. -/
def Warp.exitLanes (w : Warp) (m : LaneMask) : Warp :=
  { w with
    exited := w.exited ||| m
    loads := w.loads.map fun op => op.forget m
    rstack := Vector.ofFn fun i => if m.getLsbD i.val then [] else w.rstack[i]
    rays := Vector.ofFn fun i => if m.getLsbD i.val then none else w.rays[i] }

/-- A rendezvous whose members have all ended is OPEN, with no effect (R171, R195). -/
def State.reopen (s : State) (w : Warp) : State :=
  let one : State → Scope → State := fun s sc =>
    if (s.rvOf w sc).state = .gathering ∧ (s.members w sc).isEmpty then s.setRvState w sc .opened else s
  ([Scope.set, Scope.block].foldl one s).setRvState w .warp .opened

/-- The last lane of a warp has exited: the warp ends, its region closes, and a lost store it has not reported goes to the
host record (R121, R237, R312). -/
def State.endWarp (s : State) (w : Warp) : State :=
  let f := w.field
  let c := s.ctxidOf w
  let lost := w.asyncs.filter fun a => a.kind == .store
  let s := lost.foldl (fun s a => s.hostRecord f c a.trap.word a.faddr 0 w.core w.slot) s
  (s.modWarp w.uid fun w =>
    { w with mode := .ended, region := 0, frame := none, slots := Vector.ofFn fun _ => none, parked := [], inGroup := none,
             stepDue := none, due := none, growReq := none, lostOps := [], asyncs := [] }).freeAccums.reopen w

/-- A population without a thread is ENDED: every warp of its blocks ends (R367, R369). -/
def State.endPopulation (s : State) (launch : Nat) : State :=
  let bs := (s.blocks.filter fun b => b.launch == launch).map (·.uid)
  if s.warps.any fun w => bs.contains w.block && w.here != 0 then s
  else
    let ended : Population → Population := fun p => { p with state := .ended }
    (s.warps.filter fun w => bs.contains w.block).foldl State.endWarp (s.modPop launch ended)

/-- A warp of a population without a thread is dormant: it issues nothing, and its region is closed (R369, R312). -/
def Warp.sleep (w : Warp) : Warp :=
  { w with mode := .dormant, slots := Vector.ofFn fun _ => none, parked := [], inGroup := none, stepDue := none, due := none,
           growReq := none, region := 0 }

/-- The last lane of a warp is gone: it ends, or in a population it is dormant (R121, R171, R369). -/
def State.vacate (s : State) (w : Warp) : State :=
  match s.launchOf w with
  | some l =>
    if l.kind = 2 then
      ((s.modWarp w.uid Warp.sleep).reopen w).endPopulation l.uid
    else s.endWarp w
  | none => s.endWarp w

/-- The lanes of a split end; the split leaves the warp, and the warp ends with its last lane (R121, R171). -/
def State.exitSplit (s : State) (w : Warp) (slot : Nat) (m : LaneMask) : State :=
  let s := s.modWarp w.uid fun w =>
    { ((w.exitLanes m).dropSplit slot) with inGroup := none, lastSlot := slot }
  let s := s.closeRays w.uid
  match s.warp? w.uid with
  | none => s
  | some w => if w.here = 0 then s.vacate w else s

/-- What EXIT names: the loads whose affected lanes exit, lane 0 for an HLD (log 134). -/
def exitMeta (sc : Scope) : Meta :=
  { cls := .laneWise, scope := sc,
          dep := fun _ j a => a.kind == .load && decide (j.live &&& a.lanes ≠ 0) }

/-- EXIT (R121). -/
def execExit (sc : Scope) (s : State) : Host.Outcome State Fault Refusal :=
  issue (exitMeta sc) s fun s j =>
    .done ((s.exitSplit j.w j.slot j.live).partDone j.w sc)

/-! ## Hint words (R36 to R42) -/

/-- A hint word: LANE scope only (R53); it joins the split's pending hints, and the group goes on at the next word (R42,
R46). -/
def joinHint (kind : Nat) (payload : BitVec 20) (sc : Scope) (s : State) : Host.Outcome State Fault Refusal :=
  match s.warp? s.cur with
  | none => .fault .noIssuer
  | some w =>
    if sc ≠ .lane then
      .next (s.report { u := w.uid, slot := s.fetch.slot, fpc := s.fetch.start, next := s.fetch.next,
                        trap := Trap.at 2 s.fetch.addr 0, member := none, once := false, diverged := false, lost := none })
    else
      let h : Hint := { kind := kind, payload := payload, addr := s.fetch.addr }
      .next (s.modWarp w.uid fun w =>
        { (w.modSplit s.fetch.slot fun x => { x with pc := s.fetch.next, start := s.fetch.start, hints := x.hints ++ [h] }) with
          inGroup := some s.fetch.slot })

/-- XIMM (R37). -/
def execXimm (sc : Scope) (payload : BitVec 20) (s : State) : Host.Outcome State Fault Refusal := joinHint 0 payload sc s

/-- XREG (R38). -/
def execXreg (sc : Scope) (payload : BitVec 20) (s : State) : Host.Outcome State Fault Refusal := joinHint 1 payload sc s

/-- XMOD (R39). -/
def execXmod (sc : Scope) (payload : BitVec 20) (s : State) : Host.Outcome State Fault Refusal := joinHint 2 payload sc s

/-- XSCHED (R40): timing only. -/
def execXsched (sc : Scope) (payload : BitVec 20) (s : State) : Host.Outcome State Fault Refusal := joinHint 3 payload sc s

/-- XPRED (R41). -/
def execXpred (sc : Scope) (payload : BitVec 20) (s : State) : Host.Outcome State Fault Refusal := joinHint 4 payload sc s

end Sys2Proof.Machine
end

