-- ==== Sys2Proof/Machine/Engine.lean ====
section
/-! DEFINITION. The matrix engine (15_tensor.md): accumulators, shape records, its queue, K-steps and drains; and one atomic
at its home (R96, R246, R249). -/

namespace Sys2Proof.Machine

open Sys2Proof

/-! ## One atomic at the home -/

/-- One access of the atomic service: the old value it returns and the state after it (R246, R249). BF16 and E4M3 adds go to
the element's shadow; any other shadow of the bytes is rounded first. -/
def State.atomicAt (s : State) (home : HomeOf) (fn : Nat) (wide : Bool) (key y z : Nat) : State × Nat :=
  let n := atomSize fn wide
  let keys := (List.range n).map (key + ·)
  let s := s.dirtySlice home (lineOf key)
  if fn = 13 ∨ fn = 14 then
    let fmt := if fn = 13 then bf16 else e4m3
    let own : Shadow → Bool := fun h => h.key == key && h.fmt == fn
    let s := s.roundThose fun h => h.meets keys && !own h
    let old : Shadow :=
      match s.shadows.find? own with
      | some h => h
      | none => { key := key, fmt := fn, value := BitVec.ofNat 32 (cvtWiden (fmt.decode (s.readNat key n))).1, count := 0 }
    let sum := addVal .rn (fp32.decode old.value.toNat) (fmt.decode (y % 2 ^ (8 * n)))
    let new : Shadow := { old with value := BitVec.ofNat 32 (roundVal fp32 .rn sum.1).1, count := old.count + 1 }
    ({ s with shadows := new :: s.shadows.filter fun h => !own h }, old.value.toNat)
  else
    let s := s.roundThose (·.meets keys)
    let old := s.readNat key n
    ({ s with mem := memWrite s.mem key (leBytes n (atomNew fn wide old (y % 2 ^ (8 * n)) (z % 2 ^ (8 * n)))) }.remember keys, old)

/-! ## Accumulator contents -/

/-- An element of a list of elements that are not +0. -/
def elemGet (l : List (Nat × Word)) (k : Nat) : Word := ((l.find? fun (e : Nat × Word) => e.1 == k).map fun (e : Nat × Word) => e.2).getD 0

/-- Put an element, in rising order of position, leaving out +0. -/
def elemSet : List (Nat × Word) → Nat → Word → List (Nat × Word)
  | [], k, x => if x = 0 then [] else [(k, x)]
  | (a, y) :: t, k, x =>
    if k < a then (if x = 0 then (a, y) :: t else (k, x) :: (a, y) :: t)
    else if k = a then (if x = 0 then t else (k, x) :: t)
    else (a, y) :: elemSet t k x

/-- The accumulators of a span code, and its tile columns (R252). -/
def spanOf (span : BitVec 2) : Nat := 2 ^ span.toNat
def tileCols (span : Nat) : Nat :=
  match span with
  | 1 => 1
  | 8 => 4
  | _ => 2
def tileRows (span : Nat) : Nat := if span ≤ 2 then 1 else 2

/-- The size of a group (R252). -/
def groupRows (span : Nat) : Nat := 128 * tileRows span
def groupCols (span : Nat) : Nat := 128 * tileCols span

/-- The accumulator of element (i, j) within its group, and the element's place in it. -/
def tileOf (span i j : Nat) : Nat := i / 128 * tileCols span + j / 128
def placeOf (i j : Nat) : Nat := i % 128 * 128 + j % 128

/-- Element (i, j) of a group of a core; a FREE accumulator reads +0. -/
def State.accGet (s : State) (core first span i j : Nat) : Word :=
  ((s.accums.find? fun a => a.core == core && a.index == first + tileOf span i j).map
    fun a => elemGet a.elems (placeOf i j)).getD 0

/-- Put element (i, j) of a group. -/
def State.accPut (s : State) (core first span i j : Nat) (x : Word) : State :=
  let put : Accum → Accum := fun a => { a with elems := elemSet a.elems (placeOf i j) x }
  { s with accums := mapWhere (fun a => a.core == core && a.index == first + tileOf span i j) put s.accums }

/-- The elements of a group, by rows. -/
def groupElems (span : Nat) : List (Nat × Nat) :=
  (List.range (groupRows span)).flatMap fun i => (List.range (groupCols span)).map fun j => (i, j)

/-- Every element of a group reads +0. -/
def State.accClear (s : State) (core first span : Nat) : State :=
  let put : Accum → Accum := fun a => { a with elems := [] }
  { s with accums := mapWhere (fun a => a.core == core && decide (first ≤ a.index) && decide (a.index < first + span)) put s.accums }

/-- Another issuer holds an accumulator of the group (R254). -/
def State.accConflict (s : State) (core first span : Nat) (h : Holder) : Bool :=
  s.accums.any fun a => a.core == core && decide (first ≤ a.index) && decide (a.index < first + span) && a.holder != h

/-- The issuer claims the FREE accumulators of a group (R253). -/
def State.accClaim (s : State) (core first span : Nat) (h : Holder) : State :=
  let free := ((List.range span).map (first + ·)).filter fun i => !s.accums.any fun a => a.core == core && a.index == i
  { s with accums := s.accums ++ free.map fun i => ({ core := core, index := i, holder := h, elems := [] } : Accum) }

/-! ## Shape records (R256, R257) -/

/-- n bytes of a record from byte o. -/
def shapeField (h : BitVec 512) (o n : Nat) : Nat := h.toNat / 2 ^ (8 * o) % 2 ^ (8 * n)

def shapeBase (h : BitVec 512) : Nat := shapeField h 0 8
def shapeOdim (h : BitVec 512) : Nat := shapeField h 8 4
def shapeKdim (h : BitVec 512) : Nat := shapeField h 12 4
def shapeStride (h : BitVec 512) : Nat := shapeField h 16 4
def shapeTileo (h : BitVec 512) : Nat := shapeField h 20 4
def shapeTilek (h : BitVec 512) : Nat := shapeField h 24 4
def shapeOinc (h : BitVec 512) : Nat := shapeField h 28 4
def shapeKinc (h : BitVec 512) : Nat := shapeField h 32 4
def shapeFmt (h : BitVec 512) : Nat := shapeField h 36 1
def shapeFlags (h : BitVec 512) : Nat := shapeField h 37 1
def shapeSpace (h : BitVec 512) : Bool := bitOf (shapeFlags h) 0
def shapeAlloc (h : BitVec 512) : Nat := bitsOf (shapeFlags h) 3 1
def shapeBlk4 (h : BitVec 512) : Bool := bitOf (shapeFlags h) 4
def shapeSmv (h : BitVec 512) : Bool := bitOf (shapeFlags h) 5
def shapeGcols (h : BitVec 512) : Nat := shapeField h 38 1
def shapeSmoff (h : BitVec 512) : Nat := shapeField h 40 4
def shapeSmalloc (h : BitVec 512) : Nat := shapeField h 44 1 % 8

/-- The bytes of a plain element, and what BASE and OSTRIDE are multiples of. -/
def shapeElt (h : BitVec 512) : Nat := if shapeFmt h = 2 then 4 else if shapeFmt h = 3 then 64 else 2

/-- The elements of a self-describing block (R256). -/
def shapeBlock (h : BitVec 512) : Nat := if shapeBlk4 h then 124 else 62

/-- The K-step size (R259). -/
def stepSize (h : BitVec 512) : Nat := if shapeFmt h = 3 then shapeBlock h else 32

/-- How a record is used (R257). -/
inductive Role where
  | opA (gath : Bool)
  | opB (fold : Bool)
  | drain (add : Bool)
  deriving DecidableEq, Repr

/-- An invalid record (R257). -/
def shapeInvalid (l : Launch) (gang : Bool) (r : Role) (h : BitVec 512) : Bool :=
  decide (shapeFlags h / 64 ≠ 0) || decide (shapeField h 39 1 ≠ 0) || decide (shapeField h 44 1 / 8 ≠ 0) ||
  decide (shapeField h 45 19 ≠ 0) || decide (4 ≤ shapeFmt h) ||
  decide (shapeOdim h = 0) || decide (shapeKdim h = 0) ||
  decide (shapeStride h % shapeElt h ≠ 0) || decide (shapeBase h % shapeElt h ≠ 0) ||
  (if shapeSpace h then decide (2 ^ 32 ≤ shapeBase h) || decide (l.scratchSize (shapeAlloc h) = 0)
   else !canonical (BitVec.ofNat 64 (shapeBase h))) ||
  (shapeFmt h == 3 && (decide (shapeTilek h % shapeBlock h ≠ 0) || decide (sintOf 32 (shapeKinc h) % (shapeBlock h : Int) ≠ 0))) ||
  (shapeBlk4 h && shapeFmt h != 3) ||
  (gang && !([1, 2, 4, 8, 16].contains (shapeGcols h) && l.griddim.toNat % shapeGcols h == 0)) ||
  match r with
  | .opA gath => shapeFmt h == 2 || (gath && !shapeSpace h)
  | .opB fold => shapeFmt h == 2 || (fold && !shapeSmv h)
  | .drain add => shapeFmt h == 3 || (add && shapeFmt h == 1)

/-- The elements of K that a step starting at k0 covers and that exist, as runs (R256, R260). -/
def kRuns (h : BitVec 512) (k0 size : Nat) : List (Nat × Nat) :=
  (if k0 < shapeKdim h then [(k0, min size (shapeKdim h - k0))] else []) ++
  (if 2 ^ 32 < k0 + size then [(0, min (k0 + size - 2 ^ 32) (shapeKdim h))] else [])

/-- The byte offset of element (o, k), or of its block. -/
def eltOffset (h : BitVec 512) (o k : Nat) : Nat :=
  shapeBase h + o * shapeStride h + if shapeFmt h = 3 then 64 * (k / shapeBlock h) else k * shapeElt h

/-- The bytes of a run of elements of an outer line, as an offset and a length. -/
def runBytes (h : BitVec 512) (o : Nat) (run : Nat × Nat) : Nat × Nat :=
  if shapeFmt h = 3 then
    let q0 := run.1 / shapeBlock h
    let q1 := (run.1 + run.2 - 1) / shapeBlock h
    (eltOffset h o run.1, 64 * (q1 + 1 - q0))
  else (eltOffset h o run.1, run.2 * shapeElt h)

/-- The byte ranges of some outer lines over some K positions. -/
def footprint (h : BitVec 512) (os : List Nat) (ks : List Nat) (size : Nat) : List (Nat × Nat) :=
  (os.filter fun o => decide (o < shapeOdim h)).flatMap fun o =>
    ks.flatMap fun k0 => (kRuns h k0 size).map (runBytes h o)

/-- The outer lines from a tile origin (R260). -/
def outerLines (h : BitVec 512) (off n : Nat) : List Nat := (List.range n).map fun i => (shapeTileo h + off + i) % 2 ^ 32

/-- The K positions of a loop's steps (R260). -/
def stepStarts (h : BitVec 512) (n : Nat) : List Nat := (List.range n).map fun t => (shapeTilek h + t * shapeKinc h) % 2 ^ 32

/-- The offset of the first range beyond an allocation. -/
def beyondAlloc (l : Launch) (alloc : Nat) (rs : List (Nat × Nat)) : Option Nat :=
  minNat? ((rs.filter fun r => decide (l.scratchSize alloc < r.1 + r.2)).map fun r => r.1)

/-- The first address of a range and the page starts inside it. -/
def pageStarts (r : Nat × Nat) : List Nat :=
  r.1 :: ((List.range (r.2 / 4096 + 1)).map fun i => (r.1 / 4096 + 1 + i) * 4096).filter fun a => decide (a < r.1 + r.2)

/-- Check every page of some ranges, the lowest address first (R259, R264). -/
def State.checkRanges (s : State) (c : Context) (k : AccKind) (refuse : Place → Bool) (rs : List (Nat × Nat)) :
    Got (List (Nat × Place)) :=
  firstFail (sortBy (fun a => a) (dedupNat (rs.flatMap pageStarts))) fun a =>
    (s.checkLane c k 1 (BitVec.ofNat 64 a) 0).bind fun p =>
      if refuse p then .trap (Trap.at 28 (BitVec.ofNat 64 a) 0) else .ok p

/-! ## What the engine reads (R238, R261) -/

/-- A byte beyond L1 as a unit of a field reads it for a core (none: `noCore`): at the proxy, where the core has not gone past it, then at the
home. -/
def State.unitByte (s : State) (f core : Nat) (p : Place) (k : Nat) : Byte :=
  match s.sessionByte? k with
  | some b => b
  | none =>
  match if p.home == f then none else s.proxy.find? fun (x : ProxyByte) => x.field == f && x.key == k && !x.past.contains core with
  | some x => x.byte
  | none => s.homeByte f p.isLocal k

/-- The key of a byte that a unit reads. -/
def State.unitKey (s : State) (c : Context) (a : Nat) : Option Nat := s.keyNow c (BitVec.ofNat 64 a)

/-- Stands for no cause: the read waits for the host or for a frame. -/
def waitCode : Nat := 64

/-- The core of a unit that reads for none. -/
def noCore : Nat := 0xFFFF

/-- Bytes of memory as a unit of the part reads them: a cause with its address, or the bytes. -/
def State.unitRead (s : State) (c : Context) (core a : Nat) : Nat → Except (Nat × Nat) (List Byte)
  | 0 => .ok []
  | n + 1 =>
    match s.access c .load (BitVec.ofNat 64 a) with
    | .trap code => .error (code, a)
    | .wait => .error (waitCode, a)
    | .ok p =>
      match s.lineFault [lineOf p.key] with
      | some _ => .error (31, a)
      | none =>
        match s.unitRead c core (a + 1) n with
        | .error e => .error e
        | .ok bs => .ok (s.unitByte c.field core p p.key :: bs)

/-- Bytes of an operand: of memory, or of the block's scratchpad through the swizzle (R133, R261). -/
def State.operandBytes (s : State) (e : EngJob) (h : BitVec 512) (o n : Nat) : Except (Nat × Nat) (List Byte) :=
  if shapeSpace h then
    match s.block? e.block, s.launch? e.launch with
    | some b, some l => .ok (b.scratchRead l (shapeAlloc h) o n)
    | _, _ => .ok (List.replicate n 0)
  else
    match s.ctx? e.field e.ctx with
    | some c => s.unitRead c e.core o n
    | none => .ok (List.replicate n 0)

/-- A block of a code that the engine takes with the elements of its record (R261). -/
def blockFits (h : BitVec 512) (bytes : List Byte) : Bool :=
  let code := (bytes.getD 0 0).toNat
  code == 16 || (code != 6 && blockCount code == shapeBlock h)

/-- Element (o, k) of an operand (R256, R260); a cause names its block's or its row's address (R261). -/
def State.operandElem (s : State) (e : EngJob) (h : BitVec 512) (o k : Nat) : Except (Nat × Nat) FVal :=
  if shapeOdim h ≤ o ∨ shapeKdim h ≤ k then .ok (.fin false 0 0)
  else
    let a := eltOffset h o k
    if shapeFmt h = 3 then
      match s.operandBytes e h a 64 with
      | .error x => .error (x.1, if x.1 = waitCode then x.2 else a)
      | .ok bs => if blockFits h bs then .ok (blockElem bs (k % shapeBlock h)) else .error (44, a)
    else
      match s.operandBytes e h a (shapeElt h) with
      | .error x => .error (x.1, if x.1 = waitCode then x.2 else shapeBase h + o * shapeStride h)
      | .ok bs => .ok ((if shapeFmt h = 0 then bf16 else fp16).decode (leNat bs))

/-- A list of values, or the first error. -/
def allOk {α β ε : Type} (f : α → Except ε β) : List α → Except ε (List β)
  | [] => .ok []
  | x :: xs =>
    match f x with
    | .error e => .error e
    | .ok y =>
      match allOk f xs with
      | .error e => .error e
      | .ok ys => .ok (y :: ys)

/-- The elements of an outer line over a step. -/
def State.operandLine (s : State) (e : EngJob) (h : BitVec 512) (o k0 size : Nat) : Except (Nat × Nat) (List FVal) :=
  allOk (fun u => s.operandElem e h o ((k0 + u) % 2 ^ 32)) (List.range size)

/-- A row of A under the gather latch (R260, R263): GATHER_RANGE with the row's address. -/
def State.gatherLine (s : State) (e : EngJob) (h : BitVec 512) (o : Word) (k0 size : Nat) : Except (Nat × Nat) (List FVal) :=
  if o = 0xFFFFFFFF#32 then .ok (List.replicate size (.fin false 0 0))
  else
    let row := shapeBase h + o.toNat * shapeStride h
    let l := ((s.launch? e.launch).map fun l => l.scratchSize (shapeAlloc h)).getD 0
    if shapeOdim h ≤ o.toNat ∨ (footprint h [o.toNat] [k0] size).any fun r => decide (l < r.1 + r.2) then .error (43, row)
    else s.operandLine e h o.toNat k0 size

/-- The smoothing factors of a step (R90, R91, R260). -/
def State.foldFactors (s : State) (e : EngJob) (l : Loop) (k0 size : Nat) : List FVal :=
  if !l.smooth then List.replicate size (.fin false 1 0)
  else
    match s.block? e.block, s.launch? e.launch with
    | some b, some x =>
      (List.range size).map fun u =>
        let k := (k0 + u) % 2 ^ 32
        if shapeKdim l.hb ≤ k then .fin false 1 0
        else smoothVal (leNat (b.scratchRead x (shapeSmalloc l.hb) (shapeSmoff l.hb + 4 * k) 4))
    | _, _ => List.replicate size (.fin false 1 0)

/-- The exact sum of one element's step (R92, R260). -/
def stepSum (as_ bs ms : List FVal) : FVal :=
  (sumProducts ((as_.zip (bs.zip ms)).map fun x => mulVal (mulVal x.1 x.2.1).1 x.2.2)).1

/-! ## The queue of a core (R254) -/

/-- A job that is over as soon as its turn comes: all but a drain and a loop with steps left. -/
def EngJob.instant (e : EngJob) : Bool :=
  match e.kind with
  | .drain _ _ _ _ _ => false
  | .loop l => decide (l.n ≤ l.t)
  | _ => true

/-- An operation of a class of the issuing warp has completed. -/
def State.finishTile (s : State) (u id : Nat) : State :=
  s.modWarp u fun w => { w with tileops := EngOp.finish id w.tileops, doneAt := s.fresh }
def State.finishCopy (s : State) (u id : Nat) : State :=
  s.modWarp u fun w => { w with copies := EngOp.finish id w.copies, doneAt := s.fresh }

/-- A loop is over: its tile operation, and with a gather the unit's reads, leave their classes (R263). -/
def State.finishLoop (s : State) (e : EngJob) : State := (s.finishTile e.warp e.id).finishLoad e.warp e.id

/-- Every earlier load of a warp has taken its value: a unit then reads as a later load of the warp would (R214, R238). -/
def State.loadsBefore (s : State) (u seq : Nat) : Bool :=
  (s.warp? u).all fun w => w.loads.all fun op => op.done || decide (seq ≤ op.seq) || !(op.pendingMem || op.kind == .atom)

/-- What a unit's reads or writes wait for has come (R238). -/
def State.unitReady (s : State) (u seq : Nat) (deps : List (Nat × Nat)) : Bool :=
  s.loadsBefore u seq && deps.all fun d => s.performed d.1 d.2

/-- The job leaves the queue. -/
def State.dropJob (s : State) (e : EngJob) : State := { s with engine := s.engine.filter fun g => g.id != e.id }

/-- Do a job that is over at once (R260, R264). -/
def State.doInstant (s : State) (e : EngJob) : State :=
  let s := s.dropJob e
  match e.kind with
  | .clear => (s.accClear e.core e.first e.span).finishTile e.warp e.id
  | .read dest lanes r c =>
    let row := rowOf fun i => s.accGet e.core e.first e.span r (c + i)
    (s.modWarp e.warp fun w =>
      let live := ((w.loads.find? fun o => o.id == e.id).map fun o => o.lanes).getD lanes
      w.writeRows live dest [row]).finishLoad e.warp e.id
  | .write vals lanes r c =>
    ((lanesOf lanes).foldl (fun s i => s.accPut e.core e.first e.span r (c + i) (laneOf vals i)) s).finishTile e.warp e.id
  | .scale y =>
    let f := fp32.decode y.toNat
    ((groupElems e.span).foldl (fun s p =>
      let x := s.accGet e.core e.first e.span p.1 p.2
      s.accPut e.core e.first e.span p.1 p.2 (BitVec.ofNat 32 (roundVal fp32 .rn (mulVal (fp32.decode x.toNat) f).1).1)) s)
      |>.finishTile e.warp e.id
  | .loop l => (if l.zero && decide (l.t = 0) then s.accClear e.core e.first e.span else s).finishLoop e
  | .drain _ _ _ _ _ => s

/-- Do every job of a core that is over at once and whose turn has come, in issue order. -/
def State.engineRun (s : State) (core : Nat) : Nat → State
  | 0 => s
  | fuel + 1 =>
    match s.engine.find? fun e => e.core == core && e.instant && s.engReady e with
    | none => s.freeAccums
    | some e => (s.doInstant e).engineRun core fuel

/-- Queue a job and let the engine go on. -/
def State.pushJob (s : State) (e : EngJob) : State :=
  let s := { s with engine := s.engine ++ [e] }
  s.engineRun e.core (s.engine.length + 1)

/-! ## K-steps (R260) -/

/-- The loop that takes the next turn of a core: among the loops whose turn has come and whose reads may be made, the one
that has waited longest (R238, R265). -/
def State.nextLoop (s : State) (core : Nat) : Option (EngJob × Loop) :=
  let ok := s.engine.filterMap fun e =>
    match e.kind with
    | .loop l => if e.core == core && !e.instant && s.engReady e && s.unitReady e.warp e.seq e.deps then some (e, l) else none
    | _ => none
  (sortBy (fun x => x.1.stamp) ok).head?

/-- The keys of the memory bytes that a step reads at homes, whose shadows are rounded (R96). -/
def State.stepKeys (s : State) (e : EngJob) (h : BitVec 512) (os : List Nat) (k0 : Nat) : List Nat :=
  if shapeSpace h then []
  else
    match s.ctx? e.field e.ctx with
    | none => []
    | some c => (footprint h os [k0] (stepSize h)).flatMap fun r => (List.range r.2).filterMap fun i => s.unitKey c (r.1 + i)

/-- The A lines of a loop's step. -/
def State.loopRows (s : State) (e : EngJob) (l : Loop) (k0 : Nat) : Except (Nat × Nat) (List (List FVal)) :=
  let n := groupRows e.span
  if l.gath then allOk (fun i => s.gatherLine e l.ha ((l.idx[i]?).getD 0xFFFFFFFF#32) k0 (stepSize l.ha)) (List.range n)
  else allOk (fun o => s.operandLine e l.ha o k0 (stepSize l.ha)) (outerLines l.ha (l.gr * n) n)

/-- Apply one K-step of a loop to its group, or stop it with a cause (R260, R261). -/
def State.stepOf (s : State) (e : EngJob) (l : Loop) : Except (Nat × Nat) State :=
  let kA := (shapeTilek l.ha + l.t * shapeKinc l.ha) % 2 ^ 32
  let kB := (shapeTilek l.hb + l.t * shapeKinc l.hb) % 2 ^ 32
  let n := groupRows e.span
  let m := groupCols e.span
  let linesA := if l.gath then [] else outerLines l.ha (l.gr * n) n
  let linesB := outerLines l.hb (l.gc * m) m
  let s := s.roundShadows (s.stepKeys e l.ha linesA kA ++ s.stepKeys e l.hb linesB kB)
  match s.loopRows e l kA with
  | .error x => .error x
  | .ok as_ =>
    match allOk (fun o => s.operandLine e l.hb o kB (stepSize l.hb)) linesB with
    | .error x => .error x
    | .ok bs =>
      let ms := s.foldFactors e l kB (stepSize l.hb)
      let old : Nat → Nat → FVal := fun i j =>
        if l.zero && decide (l.t = 0) then .fin false 0 0 else fp32.decode (s.accGet e.core e.first e.span i j).toNat
      .ok ((groupElems e.span).foldl (fun (r : State) p =>
        let sum := stepSum (as_.getD p.1 []) (bs.getD p.2 []) ms
        let v := if decide (l.t = 0) && !l.acc && !l.zero then sum else (addVal .rn (old p.1 p.2) sum).1
        r.accPut e.core e.first e.span p.1 p.2 (BitVec.ofNat 32 (roundVal fp32 .rn v).1)) s)

/-- The asynchronous cause of a stopped loop or drain (R210). -/
def EngJob.cause (e : EngJob) (kind : AsyncKind) (code addr : Nat) : AsyncCause :=
  { op := e.id, ord := e.ord, code := code, faddr := BitVec.ofNat 64 addr, lane := 0, kind := kind, seq := e.seq,
    firstReg := 0, nreg := 0, lanes := 0, zero := [], gmode := false, kept := false, wins := [],
    accs := if kind = .tile then (List.range e.span).map (e.first + ·) else [], buf := none }

/-- Add a pending cause to the issuing warp; a unit that has met an answered miss has it no longer (R394). -/
def State.addAsync (s : State) (u : Nat) (a : AsyncCause) : State :=
  let s := match s.warp? u with
    | some w => s.unitMet w.field (s.ctxidOf w) a.faddr
    | none => s
  s.modWarp u fun w => { w with asyncs := w.asyncs ++ [a] }

/-- A unit's access waits: the miss is recorded under host-assisted fill (R393). -/
def State.unitWait (s : State) (f c : Nat) (k : AccKind) (a : Nat) : State :=
  match s.ctx? f c with
  | some x => s.noteMiss x k (BitVec.ofNat 64 a)
  | none => s

/-- A loop stops at a K-step with a cause (R261). -/
def State.stopLoop (s : State) (e : EngJob) (l : Loop) (x : Nat × Nat) : State :=
  let s := if l.zero && decide (l.t = 0) then s.accClear e.core e.first e.span else s
  let s := ((s.dropJob e).addAsync e.warp (e.cause .tile x.1 x.2)).finishLoop e
  s.engineRun e.core (s.engine.length + 1)

/-- One K-step of a core's engine (R260, R261). -/
def State.kstep (s : State) (core : Nat) : State :=
  match s.nextLoop core with
  | none => s
  | some (e, l) =>
    match s.stepOf e l with
    | .error x =>
      if x.1 = waitCode then s.unitWait e.field e.ctx .load x.2 else s.stopLoop e l x
    | .ok s' =>
      let next : EngJob → EngJob := fun g => { g with kind := .loop { l with t := l.t + 1 }, stamp := s.fresh + 1 }
      let s' := { s' with engine := mapWhere (fun g => g.id == e.id) next s'.engine }.noteDone e.warp
      s'.engineRun core (s'.engine.length + 1)

/-! ## Drains (R264) -/

/-- The destination element of (i, j): its byte offset, if it is not clipped. -/
def drainOffset (h : BitVec 512) (span gr gc i j : Nat) : Option Nat :=
  let r := (shapeTileo h + gr * groupRows span + i) % 2 ^ 32
  let c := (shapeTilek h + gc * groupCols span + j) % 2 ^ 32
  if shapeOdim h ≤ r ∨ shapeKdim h ≤ c then none else some (eltOffset h r c)

/-- An element converted into the destination's format, RN (R264). -/
def drainBits (h : BitVec 512) (x : Word) : Nat :=
  let f := match shapeFmt h with
    | 0 => bf16
    | 1 => fp16
    | _ => fp32
  (roundVal f .rn (fp32.decode x.toNat)).1

/-- A line access of a unit of the part that leaves its field (R227, R427); one to a peer module leaves the module at once. Its `core` is no
core's: the accesses of one operation keep their order among themselves (R293). -/
def unitFlight (id op warp epoch : Nat) (c : Context) (gmode : Bool) (p : Place) (cells : List Host.Cell) (va : Dword) : Flight :=
  { id := id, op := op, seq := 0, warp := warp, core := 65536 + op, ctx := c.ctxid, src := c.field, dst := p.home, line := lineOf p.key,
    slice := p.slice, vcache := p.vcache, nt := true,
    cells := cells, gmode := gmode, leaving := true, kept := false, peer := p.peer, applied := p.peer, appliedAt := 0, accepted := [], epoch := epoch,
    win := p.win, handle := p.handle, offset := p.offset, lost := false, passed := [], va := va, lane := 0,
    broken := 0 }

/-- The doorbell writes behind the accesses of an item to peer modules (R427): a copy packet's follow its last write, and a drain is no item. -/
def State.ring (s : State) (op : Nat) : State :=
  if s.sending op || s.engine.any fun e => e.id == op then s
  else
    let out := s.flights.filter fun f => f.op == op && f.peer
    let last : Dword → Nat := fun h => ((out.filter fun f => f.handle == h).map (·.id)).foldl max 0
    (out.map (·.handle)).eraseDups.foldl (fun s h => s.doorbell ((out.head?.map (·.src)).getD 0) (last h) h) s

/-- Put bytes at places for an operation of a unit of the part. In its own field they are at their homes at once, and a write to host memory has
no flushing read behind it yet (R227); any others are on their way, by line, home and window (R225, R236). -/
def State.unitPut (s : State) (c : Context) (op : Nat) (gmode : Bool) (ps : List Place) (bytes : List Byte) (va : Dword) : State :=
  let cells := ps.zip bytes
  let far : Place → Bool := fun p => p.win.isSome || p.home != c.field
  let away := cells.filter fun (x : Place × Byte) => far x.1
  let here_ := cells.filter fun (x : Place × Byte) => !far x.1
  let s := if here_.isEmpty then s else s.placeWrite here_
  let s := if here_.any fun (x : Place × Byte) => keyTarget x.1.key == 2 then
      { s with nextUid := s.nextUid + 1, hostWrites := s.hostWrites ++ [(s.nextUid, op, 0)] }
    else s
  let key : Place × Byte → Nat × Nat × Option Nat := fun x => (lineOf x.1.key, x.1.home, x.1.win)
  ((away.map key).eraseDups.foldl (fun s g =>
    match away.filter fun (x : Place × Byte) => key x == g with
    | [] => s
    | x :: xs =>
      let fl := unitFlight s.nextUid op 0 (s.epochOf c.field) c gmode x.1 ((x :: xs).map fun (x : Place × Byte) => (x.1.key, x.2)) va
      { s with nextUid := s.nextUid + 1, flights := s.flights ++ [fl], posts := if fl.peer then s.posts ++ fl.posts else s.posts }) s).ring op

/-- An atomic request of a unit of the part that leaves its field (R236, R251); one to a peer module leaves the module at once (R427). -/
def State.unitAtom (s : State) (c : Context) (op : Nat) (p : Place) (fn : Nat) (accs : List AtomAcc) (va : Dword) (broken : Nat) : State :=
  let r : AtomReq :=
    { id := s.nextUid, op := op, warp := 0, core := 65536 + op, ctx := c.ctxid, src := c.field, dst := p.home, line := lineOf p.key,
      fn := fn, wide := false, returns := false, slice := p.slice, accs := accs, olds := [], deps := [], rel := none, seq := 0,
      dest := 0, applied := p.peer, appliedAt := 0, accepted := [], epoch := s.epochOf c.field, left := s.nextUid, vcache := p.vcache,
      leaving := true, peer := p.peer, win := p.win, handle := p.handle, lost := false, va := va, broken := broken }
  { s with nextUid := s.nextUid + 1, areqs := s.areqs ++ [r] }

/-- An element of a drain and its destination: its row and column in the group, its address and its place. -/
structure DrainElem where
  row : Nat
  col : Nat
  addr : Nat
  place : Place

/-- A drain's access leaves its field: by a window, or to another field's home (R231). -/
def DrainElem.far (x : DrainElem) (field : Nat) : Bool := x.place.win.isSome || x.place.home != field

/-- The element that a drain writes, in its destination's format. -/
def State.drainValue (s : State) (e : EngJob) (h : BitVec 512) (x : DrainElem) : Nat :=
  drainBits h (s.accGet e.core e.first e.span x.row x.col)

/-- The function that a drain's adds are for the atomic service (R264). -/
def drainFn (h : BitVec 512) : Nat := if shapeFmt h = 0 then 13 else 12

/-- A drain is no item of R236: its accesses count in no window's counter. -/
def State.uncount (s : State) (op : Nat) : State :=
  let put : Flight → Flight := fun f => { f with broken := 2 }
  { s with flights := mapWhere (fun f => f.op == op) put s.flights }

/-- Put one element of a drain at a place of memory: a store, or in the drain's own field an add by the atomic service (R264). -/
def State.drainPut (s : State) (c : Context) (e : EngJob) (h : BitVec 512) (add : Bool) (x : DrainElem) : State :=
  let p := x.place
  let bits := s.drainValue e h x
  if add then ((s.invalReplicas (lineOf p.key)).atomicAt (homesOf [p]) (drainFn h) false p.key bits 0).1
  else
    let ps : List Place := (List.range (shapeElt h)).map fun k => { p with key := p.key + k, offset := p.offset + k }
    (s.unitPut c e.id false ps (leBytes (shapeElt h) bits) (BitVec.ofNat 64 x.addr)).uncount e.id

/-- The adds of a drain to one line of another field are one request, which has left for the line's home (R243, R251, R264). -/
def State.drainRequest (s : State) (c : Context) (e : EngJob) (h : BitVec 512) (xs : List DrainElem) : State :=
  match xs with
  | [] => s
  | x :: _ =>
    let accs : List AtomAcc := xs.zipIdx.map fun y =>
      { lane := y.2, key := y.1.place.key, y := BitVec.ofNat 64 (s.drainValue e h y.1), z := 0, win := y.1.place.win, handle := y.1.place.handle }
    s.unitAtom c e.id x.place (drainFn h) accs (BitVec.ofNat 64 x.addr) 2

/-- One element of a drain to scratchpad as a queued write (R135): its offset and its value. -/
def Launch.drainCells (l : Launch) (h : BitVec 512) (o x : Nat) : List Host.Cell := l.scratchCells (shapeAlloc h) o (leBytes (shapeElt h) x)

/-- A queued write reaches its bytes: it replaces them, or is added to them in its format (R135, R264, log 28). -/
def Block.bankApply (b : Block) (q : BankWrite) : Block :=
  match q.add, q.cells with
  | some fmt, (k, _) :: _ =>
    let f := if fmt = 0 then bf16 else if fmt = 1 then fp16 else fp32
    let n := q.cells.length
    let old := f.decode (leNat (memRead b.scratch k n))
    let new := (roundVal f .rn (addVal .rn old (f.decode (leNat (q.cells.map fun (c : Host.Cell) => c.2)))).1).1
    { b with scratch := memWrite b.scratch k (leBytes n new) }
  | _, _ => { b with scratch := memCells b.scratch q.cells }

/-- The elements that a drain has yet to write to memory, up to the first that cannot be written, with its address; none when an access must wait, for
the address it waits at (R264, R276, R393). -/
def State.drainElems (s : State) (c : Context) (e : EngJob) (h : BitVec 512) (add : Bool) (gr gc : Nat) :
    List (Nat × Nat) → Except Nat (List DrainElem × Option Nat)
  | [] => .ok ([], none)
  | (i, j) :: rest =>
    match drainOffset h e.span gr gc i j with
    | none => s.drainElems c e h add gr gc rest
    | some o =>
      match s.access c (if add then .red else .store) (BitVec.ofNat 64 o) with
      | .wait => .error o
      | .trap _ => .ok ([], some o)
      | .ok p =>
        match s.drainElems c e h add gr gc rest with
        | .error a => .error a
        | .ok r => .ok (if e.lines.contains (lineOf p.key) then r else ({ row := i, col := j, addr := o, place := p } :: r.1, r.2))

/-- Lines are no longer in a core's L1, those with pending bytes aside (R229). -/
def State.dropL1Lines (s : State) (core : Nat) (lines : List Nat) : State :=
  { s with l1 := s.l1.filter fun x => !(x.core == core && lines.contains x.line &&
      !(s.pend.any fun p => p.core == core && lineOf p.key == x.line)) }

/-- Write some elements of a drain, whose lines the core's L1 no longer holds (R238). -/
def State.drainWrite (s : State) (c : Context) (e : EngJob) (h : BitVec 512) (add : Bool) (xs : List DrainElem) : State :=
  let lines := dedupNat (xs.map fun x => lineOf x.place.key)
  let live := xs.filter fun x => x.place.peer || x.place.win.isNone || s.handleLive x.place.handle
  let asked : DrainElem → Bool := fun x => add && x.far e.field
  let s := (live.filter fun x => !asked x).foldl (fun s x => s.drainPut c e h add x) s
  let s := lines.foldl (fun s l => s.drainRequest c e h (live.filter fun x => asked x && lineOf x.place.key == l)) s
  s.dropL1Lines e.core lines

/-- The next drain of a core: its turn has come, and the stores it waits for are performed. -/
def State.nextDrain (s : State) (core : Nat) : Option EngJob :=
  s.engine.find? fun e => e.core == core && s.engReady e && s.unitReady e.warp e.seq e.deps &&
    match e.kind with
    | .drain _ _ _ _ _ => true
    | _ => false

/-- After a drain with FREE the accumulators are FREE, or +0 for an operation queued behind it (R253). -/
def State.drainFree (s : State) (e : EngJob) : State :=
  let s := s.accClear e.core e.first e.span
  { s with accums := s.accums.filter fun a =>
      !(a.core == e.core && e.names a.index) || s.engine.any fun g => g.core == e.core && g.names a.index }

/-- A drain is over: it leaves the copies class, with COPY_FAULT where an element could not be written or a write of it is lost (R210, R264,
R417). -/
def State.drainEnd (s : State) (e : EngJob) (free : Bool) : State :=
  let s := s.dropJob e
  let s := match e.fault with
    | some a => s.addAsync e.warp (e.cause .copy 46 a)
    | none => s
  let s := (if free then s.drainFree e else s).finishCopy e.warp e.id
  s.engineRun e.core (s.engine.length + 1)

/-- Change a job. -/
def State.modJob (s : State) (id : Nat) (g : EngJob → EngJob) : State := { s with engine := mapWhere (fun e => e.id == id) g s.engine }

/-- Every write of a drain has been made, but for what is on its way: the drain is over once that is performed at DEVICE scope (R238), and in
scratchpad applied (R135). -/
def State.drainWait (s : State) (e : EngJob) (free : Bool) : State :=
  let queued := (s.block? e.block).any fun b => b.bankq.any fun q => q.run == e.id
  if queued || !s.performed 2 e.id then s.modJob e.id fun g => { g with wrote := true, fault := e.fault }
  else s.drainEnd e free

/-- A drain to scratchpad queues its writes, which count as one operation of the warp's loads class (R135, log 125). -/
def State.drainQueue (s : State) (e : EngJob) (h : BitVec 512) (add free : Bool) (gr gc : Nat) : State :=
  match s.warp? e.warp, s.launch? e.launch with
  | some w, some l =>
    let op := s.nextUid
    let qs : List BankWrite := (groupElems e.span).filterMap fun p =>
      (drainOffset h e.span gr gc p.1 p.2).map fun o =>
        { alloc := shapeAlloc h, cells := l.drainCells h o (drainBits h (s.accGet e.core e.first e.span p.1 p.2)), warp := w.uid, op := op,
          run := e.id, add := if add then some (shapeFmt h) else none }
    if qs.isEmpty then s.drainEnd e free
    else if 255 ≤ w.loads.length then s
    else
      let s := ({ s with nextUid := op + 1 } : State).modWarp w.uid fun w => w.addLoad { LoadOp.taken op with kind := .bankq, done := false }
      (s.modBlock e.block fun b => { b with bankq := b.bankq ++ qs }).drainWait e free
  | _, _ => s.drainEnd e free

/-- A drain of a core goes on (R264): it writes one more destination line, which one is free, or with a free choice all that are left; each line is
one request of the atomic service. With the last line, once every write is performed, it is over. A page or frame that must be waited for is waited
for first. -/
def State.drainDone (s : State) (core : Nat) : State :=
  match s.nextDrain core with
  | none => s
  | some e =>
    match e.kind, s.ctx? e.field e.ctx with
    | .drain h add free gr gc, some c =>
      if e.wrote then s.drainWait e free
      else if shapeSpace h then s.drainQueue e h add free gr gc
      else
        match s.drainElems c e h add gr gc (groupElems e.span) with
        | .error a => s.unitWait e.field e.ctx (if add then .red else .store) a
        | .ok (xs, fault) =>
          let lines := dedupNat (xs.map fun x => lineOf x.place.key)
          let last : EngJob := { e with fault := e.fault.or fault }
          match lines[(s.someWord 1).toNat % lines.length]? with
          | none => s.drainWait last free
          | some l =>
            if lines.length = 1 ∨ s.someBit 2 then (s.drainWrite c e h add xs).drainWait last free
            else (s.drainWrite c e h add (xs.filter fun x => lineOf x.place.key == l)).modJob e.id fun g => { g with lines := l :: g.lines }
    | _, _ => s.dropJob e

end Sys2Proof.Machine
end

