-- ==== Sys2Proof/Machine/Sync.lean ====
section
/-! DEFINITION. FENCE, FLUSHV and INVL1 (R142, R143, R221, R228, R229), WAIT (R145), the window counters (R146) and the
circular buffers (R140, R141). -/

namespace Sys2Proof.Machine

open Sys2Proof

/-! ## Fences -/

/-- Complete the warp's loads and atomic returns: none while one must wait (R229). -/
def State.awaitLoads (s : State) (u : Nat) : State × Bool :=
  let s := s.settleAll u 256
  match s.warp? u with
  | none => (s, true)
  | some w => (s, w.loads.all fun op => op.done || !op.kind.writes)

/-- An acquire at a scope, once the loads before it have their values (R229). -/
def State.acquire (s : State) (core scope : Nat) : State := if 1 ≤ scope then s.invalL1 core else s

/-- What every later store of a warp waits for after a release fence (R228). -/
def State.releaseFence (s : State) (u scope : Nat) : State :=
  s.modWarp u fun w =>
    let open_ := w.loads.any fun op => op.pendingMem
    { w with
      relDeps := (w.relDeps ++ w.released scope).filter fun d => !s.performed d.1 d.2
      -- a load before the fence may yet read another warp's store (R230)
      fences := if open_ then w.fences ++ [(w.seq, scope)] else [] }

/-- FENCE accepts XSCHED only (R43). -/
def fenceMeta (sc : Scope) (ms : BitVec 2) (rel : Bool) : Meta :=
  { cls := .scalar, scope := sc, dep := fun _ _ a => rel && releaseDep ms.toNat a }

/-- FENCE.ACQ (R142, R229). -/
def execFenceAcq (sc : Scope) (ms : BitVec 2) (s : State) : Host.Outcome State Fault Refusal :=
  issue (fenceMeta sc ms false) s fun s j =>
    let r := s.awaitLoads j.w.uid
    if r.2 then .next (r.1.acquire j.w.core ms.toNat) else .stall r.1

/-- The warp's queue has drained; entries held behind a lost store have not (R197, R234). -/
def State.drained (s : State) (u : Nat) : Bool := (s.warp? u).all fun w => w.sq.isEmpty

/-- FENCE.REL (R142, R228). At SET or BLOCK scope the member's part ends once its stores have drained, so that every member reads them after the
fence (R197). -/
def execFenceRel (sc : Scope) (ms : BitVec 2) (s : State) : Host.Outcome State Fault Refusal :=
  issue (fenceMeta sc ms true) s fun s j =>
    if gathers sc then
      let s := (s.settleAll j.w.uid 256).drainAll j.w.uid 40
      if s.drained j.w.uid then .next (s.releaseFence j.w.uid ms.toNat) else .stall s
    else .next (s.releaseFence j.w.uid ms.toNat)

/-- The warp's queue has drained and its earlier stores are performed at a scope (R221, R229). -/
def State.storesDone (s : State) (u scope : Nat) : Bool :=
  match s.warp? u with
  | none => true
  | some w =>
    w.sq.isEmpty && (w.stores.all fun e => e.done || s.performed scope e.id) &&
    -- a write to host memory is performed at SYSTEM scope once a flushing read has covered it (R227)
    !(decide (3 ≤ scope) && s.hostWrites.any fun (x : Nat × Nat × Nat) => x.2.2 == u)

/-- FENCE.FULL (R142, R221, R229): it waits at issue until the earlier stores are performed, then acts as a release and an
acquire (log 19). -/
def execFenceFull (sc : Scope) (ms : BitVec 2) (s : State) : Host.Outcome State Fault Refusal :=
  issue (fenceMeta sc ms true) s fun s j =>
    let r := s.awaitLoads j.w.uid
    let s := r.1.drainAll j.w.uid 40
    if r.2 && s.storesDone j.w.uid ms.toNat then
      .next ((s.releaseFence j.w.uid ms.toNat).acquire j.w.core ms.toNat)
    else .stall s

/-- The first bytes of the 4 KiB pages of a range, as addresses (R143). -/
def pagesOf (start : Dword) (count : Nat) : List Dword :=
  let first := start.toNat / 4096
  let last := (start.toNat + count - 1) / 4096
  (List.range (last + 1 - first)).map fun i => if i = 0 then start else BitVec.ofNat 64 ((first + i) * 4096)

/-- FLUSHV (R143): the range is checked as a store of its pages would be (R385); one queue entry, counted in the stores
class until it has drained. -/
def execFlushv (sc : Scope) (a : Reg) (b : Opb) (s : State) : Host.Outcome State Fault Refusal :=
  issue { scalarMeta sc b with bad := b.isV || a.getLsbD 0 } s fun s j =>
    (s.uniform j .int b).eff fun y =>
      let start := j.w.sreg64 a.toNat
      if y = 0 then .next s
      else
        let pages := pagesOf start y.toNat
        (firstFail (List.range pages.length) fun i => s.checkLane j.ctx .store 1 (pages.getD i 0) 0).eff fun ps =>
          if j.w.sqFull || classFull j.w.stores then .stall s
          else
            let stop := start.toNat + y.toNat
            let ranges := ps.map fun x =>
              let va := (pages.getD x.1 0).toNat
              (x.2.key, min (stop - va) (4096 - va % 4096))
            let e : SqEntry :=
              { id := s.nextUid, seq := 0, gmode := false, flush := ranges, bytes := [], deps := [], rel := none, va := start, lane := 0 }
            .next ({ s with nextUid := s.nextUid + 1 }.put j fun w => w.enqueue e)

/-- INVL1 (R142): every line of the core's L1; bytes on their way and pending bytes are not in it (R218, R233). -/
def execInvl1 (sc : Scope) (s : State) : Host.Outcome State Fault Refusal :=
  issue { cls := .scalar, scope := sc } s fun s j =>
    .next { s with l1 := s.l1.filter fun x => x.core != j.w.core }

/-! ## WAIT (R145) -/

/-- Each waited class holds at most its number of operations; 63 is not waited on (R145). -/
def Warp.waitOver (w : Warp) (ldn stn cpn ton : Nat) : Bool :=
  (ldn == 63 || decide (w.loads.length ≤ ldn)) && (stn == 63 || decide (w.stores.length ≤ stn)) &&
  (cpn == 63 || decide (w.copies.length ≤ cpn)) && (ton == 63 || decide (w.tileops.length ≤ ton))

/-- A WAIT covers an operation of a class: it is not among the n most recently issued (R145, R210). -/
def Warp.covered (w : Warp) (cls n ord : Nat) : Bool := n != 63 && decide (ord + n < w.ordOf cls)

/-- The asynchronous causes a WAIT depends on (R210). -/
def waitDep (ldn stn cpn ton : BitVec 6) (w : Warp) (a : AsyncCause) : Bool :=
  match a.kind with
  | .load => w.covered 0 ldn.toNat a.ord
  | .store => w.covered 1 stn.toNat a.ord
  | .copy => w.covered 2 cpn.toNat a.ord
  | .tile => w.covered 3 ton.toNat a.ord
  | _ => false

/-- What WAIT names. -/
def waitMeta (sc : Scope) (ldn : BitVec 6) (stn : BitVec 6) (cpn : BitVec 6) (ton : BitVec 6) : Meta :=
  { cls := .scalar, scope := sc, dep := fun _ j a => waitDep ldn stn cpn ton j.w a }

/-- WAIT (R145): a WAIT on loads completes every load that can complete, also those that its count would leave (DESIGN CHOICE, log 100); a cause of one that faulted is reported at the WAIT itself (R210). -/
def execWait (sc : Scope) (ldn stn cpn ton : BitVec 6) (s : State) : Host.Outcome State Fault Refusal :=
  issue (waitMeta sc ldn stn cpn ton) s fun s j =>
    let s := if ldn = 63 then s else s.settleAll j.w.uid 256
    match s.warp? j.w.uid with
    | none => .next s
    | some w =>
      if w.asyncs.any (waitDep ldn stn cpn ton w) && w.mode != .handler then .stall s
      else if w.waitOver ldn.toNat stn.toNat cpn.toNat ton.toNat then .next s
      else .block s (.classes ldn.toNat stn.toNat cpn.toNat ton.toNat)

/-! ## Window counters (R146, R425) -/

/-- The reserved bits of a selector (R146). -/
def selBad (y : Word) : Bool := decide (y &&& 0xFFFEFF00#32 ≠ 0)
def selSlot (y : Word) : Nat := (y.extractLsb' 0 8).toNat
def selDst (y : Word) : Bool := y.getLsbD 16

/-- A counter of a slot and its overflow flag: an IMPORT's destination counter and a HOSTED slot's source counter read 0
(R425). -/
def WinSlot.counter (x : WinSlot) (dst : Bool) : Word × Bool :=
  if dst then (if x.kind = 2 then (x.dst, x.dstOvf) else (0, false))
  else if x.kind = 1 then (x.src, x.srcOvf) else (0, false)

/-- The counter that reads 0 (R425). -/
def WinSlot.blind (x : WinSlot) (dst : Bool) : Bool := if dst then x.kind != 2 else x.kind != 1

/-- The slot that a selector names, or its cause (R146). -/
def State.selected (s : State) (j : Job) (b : Opb) : Got (Word × WinSlot) :=
  (s.uniform j .int b).bind fun y =>
    if selBad y then .trap (Trap.plain 1)
    else
      match j.ctx.win? (selSlot y) with
      | none => .trap (Trap.plain 32)
      | some x => .ok (y, x)

/-- WCRD (R146). -/
def execWcrd (sc : Scope) (d : Reg) (b : Opb) (s : State) : Host.Outcome State Fault Refusal :=
  issue (scalarMeta sc b) s fun s j =>
    (s.selected j b).eff fun r =>
      let c := r.2.counter (selDst r.1)
      if c.2 then .trap (Trap.plain 34) else .next (s.put j fun w => w.setS d.toNat c.1)

/-- A b operand that is alike in every lane, if it can be read. -/
def State.peek (s : State) (j : Job) (b : Opb) : Option Word :=
  match s.uniform j .int b with
  | .ok y => some y
  | _ => none

/-- A WCWAIT on the source counter of a window that a lost store wrote depends on that store (R210). -/
def wcwaitDep (b : Opb) (s : State) (j : Job) (a : AsyncCause) : Bool :=
  a.kind == .store && (s.peek j b).any fun y => !selDst y && a.wins.contains (selSlot y)

/-- WCWAIT (R146): one that ends acts as an acquire at DEVICE scope (R236). -/
def execWcwait (sc : Scope) (a : Reg) (b : Opb) (s : State) : Host.Outcome State Fault Refusal :=
  issue { scalarMeta sc b with dep := wcwaitDep b } s fun s j =>
    (s.selected j b).eff fun r =>
      let c := r.2.counter (selDst r.1)
      if r.2.blind (selDst r.1) then .trap (Trap.plain 1)
      else if c.2 then .trap (Trap.plain 34)
      else if c.1.toNat < (j.w.sreg a.toNat).toNat then
        .block s (.window (selSlot r.1) (selDst r.1) (j.w.sreg a.toNat))
      else
        let q := s.awaitLoads j.w.uid
        if q.2 then .next (q.1.acquire j.w.core 2) else .stall q.1

/-- WCRST (R146). -/
def execWcrst (sc : Scope) (b : Opb) (s : State) : Host.Outcome State Fault Refusal :=
  issue (scalarMeta sc b) s fun s j =>
    (s.selected j b).eff fun r =>
      let clear : WinSlot → WinSlot := fun x =>
        if selDst r.1 then { x with dst := 0, dstOvf := false } else { x with src := 0, srcOvf := false }
      .next (s.modCtx j.ctx.field j.ctx.ctxid fun c => c.modWin (selSlot r.1) clear)

/-! ## Circular buffers (R140, R141) -/

def cbSlots (r : Word) : Nat := (r.extractLsb' 24 8).toNat
def cbAlloc (r : Word) : Nat := (r.extractLsb' 21 3).toNat
def cbSlotSize (r : Word) : Nat := (r.extractLsb' 12 9).toNat
def cbBase (r : Word) : Nat := (r.extractLsb' 0 12).toNat

/-- An invalid record (R140). -/
def cbInvalid (l : Launch) (r : Word) : Bool :=
  cbSlots r == 0 || cbSlotSize r == 0 ||
  decide (l.scratchSize (cbAlloc r) < 64 * (cbBase r + cbSlots r * cbSlotSize r))

/-- A buffer as it is initialised (R140). -/
def cbInit (r : Word) : Cbuf :=
  { init := true, record := r, free := cbSlots r, resv := 0, filled := 0, rd := 0, wr := 0, claims := [] }

/-- The byte offset of slot i (R140). -/
def Cbuf.slotOffset (c : Cbuf) (i : Nat) : Nat := 64 * (cbBase c.record + i * cbSlotSize c.record)

/-- Slots marked written move to FILLED in claim order (R141). -/
def cbFilled (c : Cbuf) : List (Bool × Bool) → Cbuf
  | [] => { c with claims := [] }
  | (lane, written) :: rest =>
    if written then cbFilled { c with resv := c.resv - 1, filled := c.filled + 1 } rest
    else { c with claims := (lane, written) :: rest }

/-- Claim the next slot, for a lane or for a copy (R141). -/
def Cbuf.claim (c : Cbuf) (lane : Bool) : Cbuf :=
  { c with free := c.free - 1, resv := c.resv + 1, wr := (c.wr + 1) % cbSlots c.record, claims := c.claims ++ [(lane, false)] }

/-- Mark the oldest unmarked claim of a kind written (R141). -/
def markOldest (lane : Bool) : List (Bool × Bool) → List (Bool × Bool)
  | [] => []
  | (l, w) :: rest => if l == lane && !w then (l, true) :: rest else (l, w) :: markOldest lane rest

def Cbuf.commit (c : Cbuf) (lane : Bool) : Cbuf := cbFilled c (markOldest lane c.claims)

/-- Change a buffer of a block. -/
def State.modCbuf (s : State) (block buf : Nat) (g : Cbuf → Cbuf) : State :=
  s.modBlock block fun b => { b with cbufs := b.cbufs.setIfInBounds buf (((b.cbufs[buf]?).map g).getD { init := false, record := 0, free := 0, resv := 0, filled := 0, rd := 0, wr := 0, claims := [] }) }

/-- What a CBUF function names (R141); a trailing literal is taken as b, as it is elsewhere (DEDUCED, log 98). -/
def cbMeta (sc : Scope) (b : Opb) : Meta :=
  { cls := .laneWise, scope := sc, b := b.num, opb := some b, ximm := true, xreg := true, xpred := true, bad := b.isV }

/-- The buffer that b names, initialised, or CBUF_INVALID (R141). -/
def State.cbuf (s : State) (j : Job) (b : Opb) : Got (Nat × Cbuf) :=
  (s.uniform j .int b).bind fun y =>
    match j.block.cbufs[y.toNat]? with
    | none => .trap (Trap.plain 29)
    | some c => if c.init then .ok (y.toNat, c) else .trap (Trap.plain 29)

/-- A copy fault on a buffer is reported at a CBWAIT of it (R210). -/
def cbwaitDep (b : Opb) (s : State) (j : Job) (a : AsyncCause) : Bool :=
  a.kind == .copy && a.buf.any fun k => (s.peek j b).any fun y => y.toNat == k

/-- CBWAIT (R141): its end acts as an acquire at FIELD scope (R238). -/
def execCbwait (sc : Scope) (d : Reg) (b : Opb) (s : State) : Host.Outcome State Fault Refusal :=
  issue { cbMeta sc b with d := d.toNat, nd := 1, dep := cbwaitDep b } s fun s j =>
    if j.live = 0 then .next s
    else
      (s.cbuf j b).eff fun r =>
        if r.2.filled = 0 then .block s (.filled r.1)
        else
          let q := s.awaitLoads j.w.uid
          if q.2 then
            .next ((q.1.acquire j.w.core 1).putRow j (splat (BitVec.ofNat 32 (r.2.slotOffset r.2.rd))))
          else .stall q.1

/-- CBPOP (R141): with no live lane it does nothing and raises nothing (DEDUCED, log 24). -/
def execCbpop (sc : Scope) (b : Opb) (s : State) : Host.Outcome State Fault Refusal :=
  issue (cbMeta sc b) s fun s j =>
    if j.live = 0 then .next s
    else
      (s.cbuf j b).eff fun r =>
        if r.2.filled = 0 then .trap (Trap.plain 29)
        else .next (s.modCbuf j.block.uid r.1 fun c =>
          { c with filled := c.filled - 1, free := c.free + 1, rd := (c.rd + 1) % cbSlots c.record })

/-- CBRSV (R141). -/
def execCbrsv (sc : Scope) (d : Reg) (b : Opb) (s : State) : Host.Outcome State Fault Refusal :=
  issue { cbMeta sc b with d := d.toNat, nd := 1 } s fun s j =>
    if j.live = 0 then .next s
    else
      (s.cbuf j b).eff fun r =>
        if r.2.free = 0 then .block s (.free r.1)
        else
          .next ((s.modCbuf j.block.uid r.1 fun c => c.claim true).putRow j
            (splat (BitVec.ofNat 32 (r.2.slotOffset r.2.wr))))

/-- CBCMT (R141). -/
def execCbcmt (sc : Scope) (b : Opb) (s : State) : Host.Outcome State Fault Refusal :=
  issue (cbMeta sc b) s fun s j =>
    if j.live = 0 then .next s
    else
      (s.cbuf j b).eff fun r =>
        if r.2.claims.any fun x => x.1 && !x.2 then .next (s.modCbuf j.block.uid r.1 fun c => c.commit true)
        else .trap (Trap.plain 29)

/-- CBINIT (R140, R141): a copy's claim that is marked written but stands behind an unwritten claim is outstanding still (DEDUCED, log 99). -/
def execCbinit (sc : Scope) (a : Reg) (b : Opb) (s : State) : Host.Outcome State Fault Refusal :=
  issue (cbMeta sc b) s fun s j =>
    if j.live = 0 then .next s
    else
      (s.uniform j .int b).eff fun y =>
        let rec_ := j.w.sreg a.toNat
        match j.block.cbufs[y.toNat]? with
        | none => .trap (Trap.plain 29)
        | some c =>
          if cbInvalid j.launch rec_ || c.claims.any fun x => !x.1 then .trap (Trap.plain 29)
          else .next (s.modCbuf j.block.uid y.toNat fun _ => cbInit rec_)

/-- CBQRY (R141). -/
def execCbqry (sc : Scope) (d : Reg) (b : Opb) (s : State) : Host.Outcome State Fault Refusal :=
  issue { cbMeta sc b with d := d.toNat, nd := 1 } s fun s j =>
    if j.live = 0 then .next s
    else
      (s.cbuf j b).eff fun r =>
        .next (s.putRow j (splat (BitVec.ofNat 32
          (r.2.rd * 2 ^ 24 + r.2.resv * 2 ^ 16 + r.2.free * 2 ^ 8 + r.2.filled))))

end Sys2Proof.Machine
end

