-- ==== Sys2Proof/Machine/Queue.lean ====
section
/-! DEFINITION. Queue descriptors and appends (R280 to R287), and dependence counters (R296 to R298), as the parts of the
machine that use them share them. -/

namespace Sys2Proof.Machine

open Sys2Proof

/-! ## Fields of byte strings -/

/-- n bytes of a record from byte o, as a number. -/
def recNat (b : List Byte) (o n : Nat) : Nat := leNat ((b.drop o).take n)

/-- A 64-bit field of a record. -/
def recAddr (b : List Byte) (o : Nat) : Dword := BitVec.ofNat 64 (recNat b o 8)

/-! ## What the part reads and writes in a context's address space -/

/-- Check n units of 64 bytes from an address. -/
def State.checkUnits (s : State) (c : Context) (k : AccKind) (a : Dword) (n : Nat) : Got (List (Nat × Place)) :=
  firstFail (List.range n) fun i => s.checkLane c k 64 (a + BitVec.ofNat 64 (64 * i)) 0

/-- The bytes of checked units, at their homes. -/
def State.readUnits (s : State) (ps : List (Nat × Place)) : State × List Byte :=
  s.engineRead (ps.flatMap fun p => (List.range 64).map (p.2.key + ·))

/-- The places of n bytes of a context's memory. -/
def State.checkBytes (s : State) (c : Context) (k : AccKind) (a : Dword) (n : Nat) : Got (List Place) :=
  (firstFail (List.range n) fun i => s.checkLane c k 1 (a + BitVec.ofNat 64 i) 0).bind fun ps => .ok (ps.map fun (p : Nat × Place) => p.2)

/-- The places of several runs of bytes, each an address and a length. -/
def State.checkRuns (s : State) (c : Context) (k : AccKind) : List (Dword × Nat) → Got (List Place)
  | [] => .ok []
  | (a, n) :: rest => (s.checkBytes c k a n).bind fun ps => (s.checkRuns c k rest).bind fun qs => .ok (ps ++ qs)

/-- Bytes read at their homes by a load of a unit: those of an open session's range are as they were before (R295). -/
def State.unitLoad (s : State) (keys : List Nat) : State × List Byte :=
  let r := s.engineRead keys
  (r.1, (keys.zip r.2).map fun (x : Nat × Byte) => (s.sessionByte? x.1).getD x.2)

/-- Read bytes of a context's memory as a unit of the part. -/
def State.getVirt (s : State) (c : Context) (a : Dword) (n : Nat) : Got (State × List Byte) :=
  (s.checkBytes c .load a n).bind fun ps => .ok (s.unitLoad (ps.map (·.key)))

/-- Write bytes of a context's memory as a unit of the part, as a .G store where `gmode` and where they leave the field (R427). -/
def State.putVirt (s : State) (c : Context) (gmode : Bool) (a : Dword) (bytes : List Byte) : Got State :=
  (s.checkBytes c .store a bytes.length).bind fun ps =>
    .ok (({ s with nextUid := s.nextUid + 1 } : State).unitPut c s.nextUid gmode ps bytes a)

/-- Read n units of 64 bytes of a context's memory. -/
def State.readRecord (s : State) (c : Context) (a : Dword) (n : Nat) : Got (State × List Byte) :=
  (s.checkUnits c .load a n).bind fun ps => .ok (s.unitLoad (ps.flatMap fun p => (List.range 64).map (p.2.key + ·)))

/-! ## Descriptors (R280, R281) -/

/-- A queue descriptor as read, with the key of its first byte. -/
structure QDesc where
  key : Nat
  base : Dword
  stamps : Dword
  wr : Nat
  rd : Nat
  kind : Nat
  logn : Nat
  engine : Nat
  tq : Nat
  quantum : Nat
  deficit : Nat
  tasks : Dword
  resv : Nat
  deriving DecidableEq, Repr

def qdescOf (key : Nat) (b : List Byte) : QDesc :=
  { key := key, base := recAddr b 0, stamps := recAddr b 8, wr := recNat b 16 8, rd := recNat b 24 8, kind := recNat b 32 1,
    logn := recNat b 33 1, engine := recNat b 34 1, tq := recNat b 35 1, quantum := recNat b 36 4, deficit := recNat b 40 4,
    tasks := recAddr b 48, resv := recNat b 44 4 + recNat b 56 8 }

/-- The slots, and the bytes of a slot. -/
def QDesc.size (d : QDesc) : Nat := 2 ^ d.logn
def QDesc.slotBytes (d : QDesc) : Nat := if d.kind = 2 then 16 else 64

/-- The address of slot i and of its stamp. -/
def QDesc.slotAddr (d : QDesc) (i : Nat) : Dword := d.base + BitVec.ofNat 64 (d.slotBytes * (i % d.size))
def QDesc.stampAddr (d : QDesc) (i : Nat) : Dword := d.stamps + BitVec.ofNat 64 (4 * (i % d.size))

/-- A descriptor is invalid (R281), a copy queue's TQ aside. -/
def QDesc.bad (d : QDesc) : Bool :=
  decide (d.resv ≠ 0) || decide (3 ≤ d.kind) || decide (d.logn < 4) || decide (16 < d.logn) ||
  !canonical d.base || !canonical d.stamps || !canonical d.tasks ||
  decide (d.base.toNat % 64 ≠ 0) || decide (d.stamps.toNat % 64 ≠ 0) ||
  (if d.kind = 0 then decide (d.quantum = 0) || decide (2 ^ 31 ≤ d.quantum)
   else decide (d.quantum ≠ 0) || decide (d.deficit ≠ 0) || decide (d.tasks ≠ 0)) ||
  (if d.kind = 1 then decide (4 ≤ d.engine) else decide (d.engine ≠ 0) || decide (d.tq ≠ 0))

/-- A copy queue's TQ names no attached launch queue of the same context (R281). -/
def State.tqBad (s : State) (f ctx : Nat) (d : QDesc) : Bool :=
  d.kind == 1 && !(s.queues.any fun q => q.field == f && q.q == d.tq && q.ctx == ctx && q.kind == 0 && q.state == .attached)

/-- A descriptor lies in the field's local memory or in one of its directly addressed vaults (R280). -/
def descPlaceOk (f : Nat) (p : Place) : Bool := (keyTarget p.key == 0 || keyTarget p.key == 1) && keyField p.key == f

/-- What stands at a descriptor's address, with its place; none where the address is misaligned. -/
def State.rawDesc (s : State) (c : Context) (k : AccKind) (a : Dword) : Got (State × Option (Place × QDesc)) :=
  if !canonical a then .trap (Trap.at 22 a 0)
  else if a.toNat % 64 ≠ 0 then .ok (s, none)
  else
    (s.checkLane c k 64 a 0).bind fun p =>
      let r := s.readUnits [(0, p)]
      .ok (r.1, some (p, qdescOf p.key r.2))

/-- Read the descriptor of a queue that is attached: its cause, or none when it is invalid or out of place. Whether its TQ is still attached is
not judged again (R282, R283). -/
def State.readQueue (s : State) (c : Context) (k : AccKind) (a : Dword) : Got (State × Option QDesc) :=
  (s.rawDesc c k a).bind fun r => .ok (r.1, r.2.bind fun (x : Place × QDesc) =>
    if descPlaceOk c.field x.1 && !x.2.bad then some x.2 else none)

/-- A descriptor as R281 judges it. -/
def State.judgeTq (s : State) (c : Context) (d : Option QDesc) : Option QDesc := d.filter fun d => !s.tqBad c.field c.ctxid d

/-- Read a descriptor of a context: its cause, or none when it is invalid (R281) or out of place. -/
def State.readDesc (s : State) (c : Context) (k : AccKind) (a : Dword) : Got (State × Option QDesc) :=
  (s.readQueue c k a).bind fun r => .ok (r.1, r.1.judgeTq c r.2)

/-- Read and write permission of every slot and of the stamp array (R286). -/
def State.checkRing (s : State) (c : Context) (d : QDesc) : Got (List (Nat × Place)) :=
  let starts : Dword → Nat → List Dword := fun a n =>
    a :: ((List.range (n / 4096 + 1)).map fun i => BitVec.ofNat 64 ((a.toNat / 4096 + 1 + i) * 4096)).filter fun x =>
      decide (x.toNat < a.toNat + n)
  let as_ := starts d.base (d.slotBytes * d.size) ++ starts d.stamps (4 * d.size)
  firstFail (List.range as_.length) fun i => s.checkLane c .atom 1 (as_.getD i 0) 0

/-- A descriptor gives a ring: the number of its slots and the addresses of both arrays (R280). -/
def QDesc.rings (d : QDesc) : Bool := decide (4 ≤ d.logn) && decide (d.logn ≤ 16) && canonical d.base && canonical d.stamps

/-- The descriptor that QAPP names: its slots and stamp array are checked first, where it gives any (R286, log 88); none when it is invalid
or out of place. -/
def State.appendDesc (s : State) (c : Context) (a : Dword) : Got (State × Option QDesc) :=
  (s.rawDesc c .atom a).bind fun r =>
    (match r.2 with
      | some x => if x.2.rings then s.checkRing c x.2 else .ok []
      | none => .ok []).bind fun _ => s.readDesc c .atom a

/-! ## Appends (R284, R286) -/

/-- The queue has room. -/
def QDesc.room (d : QDesc) : Bool := decide (d.wr - d.rd < d.size)

/-- Claim the next slot, write it and stamp it (R286), once its pages can be written. The caller has seen that there is room. -/
def State.appendSlot (s : State) (c : Context) (d : QDesc) (bytes : List Byte) : Got State :=
  (s.checkBytes c .store (d.slotAddr d.wr) bytes.length).bind fun ps =>
    (s.checkBytes c .store (d.stampAddr d.wr) 4).bind fun qs =>
      let s := s.putNat (d.key + 16) 8 (d.wr + 1)
      let s := s.placeWrite (ps.zip bytes)
      .ok (s.placeWrite (qs.zip (leBytes 4 (d.wr + 1))))

/-- Slot RDIDX is stamped (R283). -/
def State.slotReady (s : State) (c : Context) (d : QDesc) : Got (State × Bool) :=
  if d.wr ≤ d.rd then .ok (s, false)
  else (s.getVirt c (d.stampAddr d.rd) 4).bind fun r => .ok (r.1, leNat r.2 == (d.rd + 1) % 2 ^ 32)

/-- The space that a packet writes (R290): REDUCE and RASTER write memory. -/
def packetSpace (b : List Byte) : Nat := if recNat b 0 1 = 3 ∨ recNat b 0 1 = 4 then recNat b 28 4 % 4 else 0

/-- Replace bytes 4 to 7 of a packet: word 1, ISSUER (R288). -/
def withIssuer (x : Word) (bytes : List Byte) : List Byte := bytes.take 4 ++ leBytes 4 x.toNat ++ bytes.drop 8

/-! ## Dependence counters (R296 to R298) -/

/-- An attached launch queue of a context with a task table. -/
def State.taskQueue? (s : State) (f ctx q : Nat) : Option Queue :=
  (s.queue? f q).bind fun x => if x.state = .attached ∧ x.kind = 0 ∧ x.ctx = ctx ∧ x.taskTab ≠ 0 then some x else none

/-- The address of a counter's entry. -/
def Queue.taskAddr (x : Queue) (counter : Nat) : Dword := x.taskTab + BitVec.ofNat 64 (16 * counter)

/-- Hold what is left to do for a ready task (R298). -/
def State.holdTask (s : State) (f q : Nat) (w : TaskWork) : State := { s with taskRetry := s.taskRetry ++ [{ field := f, q := q, work := w }] }

/-- Append a ready task's packet to its launch queue, or hold it until that can be done (R298). -/
def State.appendTask (s : State) (c : Context) (f q : Nat) (packet : List Byte) : State :=
  match s.queue? f q with
  | none => s
  | some x =>
    match s.readDesc c .atom x.desc with
    | .ok (t, some d) =>
      if d.room then
        match t.appendSlot c d packet with
        | .ok t => t
        | .wait t => t.holdTask f q (.append packet)
        | .trap m => (t.unitMet f c.ctxid m.faddr).holdTask f q (.append packet)
      else t.holdTask f q (.append packet)
    | .ok (t, none) => t.holdTask f q (.append packet)
    | .wait t => t.holdTask f q (.append packet)
    | .trap m => (s.unitMet f c.ctxid m.faddr).holdTask f q (.append packet)

/-- Read a ready task's packet and append it, as a unit of the part (R298). -/
def State.fireTask (s : State) (c : Context) (f q : Nat) (a : Dword) : State :=
  match s.getVirt c a 64 with
  | .ok r => r.1.appendTask c f q (withIssuer 0 r.2)
  | .wait t => t.holdTask f q (.fetch a)
  | .trap m => (s.unitMet f c.ctxid m.faddr).holdTask f q (.fetch a)

/-- The new COUNT of a decrement by k, and whether it underflows (R298). -/
def taskMinus (count k : Nat) : Nat × Bool := if count < k then (0, true) else (count - k, false)

/-- Decrement a counter by k in one atomic step: at 0 from above, an armed entry's packet is appended (R298). A page of the table that must
be waited for is waited for first. -/
def State.taskDec (s : State) (f q counter k : Nat) : Got State :=
  match s.queue? f q with
  | none => .ok s
  | some x =>
    match s.ctx? f x.ctx with
    | none => .ok s
    | some c =>
      if x.taskTab = 0 then .ok s
      else
        (s.checkBytes c .atom (x.taskAddr counter) 16).bind fun ps =>
          let r := s.engineRead (ps.map (·.key))
          let count := recNat r.2 0 4
          let word1 := recNat r.2 4 4
          let n := taskMinus count k
          let fire := decide (count ≠ 0) && decide (n.1 = 0) && bitOf word1 0
          let word1 := (if n.2 && !bitOf word1 1 then word1 + 2 else word1) - if fire then 1 else 0
          let s := r.1.placeWrite ((ps.take 8).zip (leBytes 4 n.1 ++ leBytes 4 word1))
          .ok (if fire then { ({ s with cur := 0 } : State).fireTask c f q (recAddr r.2 8) with cur := s.cur } else s)

/-- A unit decrements a counter, 0xFF naming none (R288): none when it must wait; a table that cannot be reached takes no decrement (log 89). -/
def State.unitDec (s : State) (f q counter : Nat) : State × Bool :=
  if counter = 0xFF then (s, true)
  else
    match s.taskDec f q counter 1 with
    | .ok s => (s, true)
    | .wait s => (s, false)
    | .trap t => (((s.queue? f q).map fun x => s.unitMet f x.ctx t.faddr).getD s, true)

end Sys2Proof.Machine
end

