-- ==== Sys2Proof/Machine/Spawn.lean ====
section
/-! DEFINITION. Save regions and spawn memory (R271, R275, R363): what holds them, what the part writes there for itself, and the frames that
this touches (R276). -/

namespace Sys2Proof.Machine

open Sys2Proof

/-- The columns of a context's partition, ascending. -/
def Context.columns (c : Context) : List Nat := (List.range 40).filter fun n => c.coremask.getLsbD n

/-! ## What is held -/

/-- The 64-byte units of a column's spawn memory that a block's slot tables hold (R334). -/
def Block.tables (b : Block) (column : Nat) : List Nat :=
  let base := 2 ^ 64 - 2 ^ 56 + spawnBase + column * 2 ^ 19
  (List.range 8).flatMap fun j =>
    let a := ((b.bind[4 * j]?).getD 0).toNat + 2 ^ 32 * ((b.bind[4 * j + 1]?).getD 0).toNat
    if ((b.bind[4 * j + 3]?).getD 0).toNat % 4 = 2 ∧ base ≤ a ∧ a < base + 2 ^ 19 then (List.range 4).map ((a - base) / 64 + ·) else []

/-- The units that the slot tables of unretired blocks hold (R324, R334). -/
def State.tableUnits (s : State) (f column : Nat) : List Nat :=
  (s.blocks.filter fun b => b.tile.isSome && b.state != .retired && fieldOfCore b.core == f).flatMap fun b => b.tables column

/-- The free spawn memory of a column: 512 KiB less its slot tables, JOIN images and clone records, and none where its vault is offline (R396). -/
def State.spawnRoom (s : State) (f column : Nat) : Nat :=
  let holds := s.spawn.filter fun h => h.field == f && h.column == column
  if !s.vaultOnline f column then 0
  else 2 ^ 19 - 64 * (s.tableUnits f column).length - (holds.map (·.bytes)).foldl (· + ·) 0

/-- Hold n bytes in some columns, as much as each has, in their order; none where they have too little. -/
def State.holdSpawn (s : State) (f : Nat) (owner : SpawnOwner) (n : Nat) : List Nat → Option State
  | [] => if n = 0 then some s else none
  | c :: cs =>
    let k := min n (s.spawnRoom f c)
    let s : State := if k = 0 then s else { s with spawn := s.spawn ++ [{ field := f, column := c, bytes := k, owner := owner }] }
    s.holdSpawn f owner (n - k) cs

/-- What an owner holds is free again. -/
def State.freeSpawn (s : State) (owner : SpawnOwner) : State := { s with spawn := s.spawn.filter fun h => h.owner != owner }

/-- The columns that an owner holds. -/
def State.spawnColumns (s : State) (owner : SpawnOwner) : List Nat := (s.spawn.filter fun h => h.owner == owner).map (·.column)

/-- The columns of a partition from a free choice on: where the part puts what it writes is its own (R363). -/
def State.spawnOrder (s : State) (c : Context) (j : Nat) : List Nat :=
  let cs := c.columns
  let k := (s.someWord j).toNat % cs.length
  cs.drop k ++ cs.take k

/-! ## What the part writes there -/

/-- The keys of a column's spawn memory, and of the save image below it (R271, R363). -/
def spawnRange (c : Context) (column : Nat) : Nat × Nat :=
  let k := physKey 1 c.field (spawnPa c.vaultdir column 0)
  (k, k + 2 ^ 19)
def imageRange (c : Context) (column : Nat) : Nat × Nat :=
  let k := physKey 1 c.field (spawnPa c.vaultdir column 0)
  (k - 3 * 2 ^ 19, k)

/-- The bytes of a slot table are a program's to read: the part's own leave them (R334). -/
def State.clearOwn (s : State) (lo hi : Nat) : State := { s with ownRanges := cutRanges s.ownRanges lo hi }

/-- The part writes into a range of a column for itself, slot tables aside; the frames of the range that the context owns are no longer
clean (R276). -/
def State.writeOwn (s : State) (c : Context) (column : Nat) (r : Nat × Nat) : State :=
  let tables := s.tableUnits c.field column
  let base := (spawnRange c column).1
  let own := tables.foldl (fun rs u => cutRanges rs (base + 64 * u) (base + 64 * u + 64)) [r]
  let soil : VFrame → VFrame := fun x => { x with clean := false }
  let mine : VFrame → Bool := fun x => x.field == c.field && x.owner == c.ctxid && decide (keyPa r.1 ≤ x.frame * 2 ^ 16) &&
    decide (x.frame * 2 ^ 16 < keyPa r.1 + (r.2 - r.1))
  { s with ownRanges := (cutRanges s.ownRanges r.1 r.2) ++ own, frames := mapWhere mine soil s.frames }

/-- The first frame of a range is the context's: what the part writes or reads there touches it (R276, log 87). -/
def State.ownsRange (s : State) (c : Context) (r : Nat × Nat) : Bool := !s.frameLost c.ctxid r.1

end Sys2Proof.Machine
end

