-- ==== Sys2Proof/Machine/Fetch.lean ====
section
/-! DEFINITION. Which split of a warp issues next (R160, R165, R195, R196) and the bytes of its next word (R21, R44, R46). -/

namespace Sys2Proof.Machine

open Sys2Proof

/-! ## Merging (R166) -/

/-- The split at an index: 0 to 3 the slots, 4 and above the parked list. -/
def Warp.splitAt (w : Warp) (i : Nat) : Option Split := if i < 4 then w.split? i else w.parked[i - 4]?

/-- Two splits that merge at an issue opportunity: the first holds a slot, both stand at a group boundary with one program
counter. -/
def Warp.mergeable (w : Warp) (i j : Nat) : Bool :=
  decide (i < 4) && decide (i < j) && w.growReq.isNone && w.inGroup != some i && w.inGroup != some j &&
  match w.splitAt i, w.splitAt j with
  | some x, some y => x.pc == y.pc
  | _, _ => false

/-- The merged split: the union of the lanes, waiting when either was; a blocking instruction issues again for all of them. -/
def Split.join (x y : Split) : Split :=
  { x with mask := x.mask ||| y.mask, waiting := x.waiting || y.waiting, want := x.want.or y.want, blocked := none }

/-- Merge the splits at two indices; the freed slot goes to the first parked split. A step that is due in the freed slot falls due
for the merged split (R213). -/
def Warp.merge (w : Warp) (i j : Nat) : Warp :=
  match w.splitAt j with
  | none => w
  | some y =>
    let w : Warp := { (w.modSplit i fun x => x.join y) with stepDue := if w.stepDue = some j then some i else w.stepDue }
    if j < 4 then w.dropSplit j else { w with parked := w.parked.eraseIdx (j - 4) }

/-- The first pair of a warp that merges. -/
def Warp.mergePair (w : Warp) : Option (Nat × Nat) :=
  let n := 4 + w.parked.length
  ((List.range 4).flatMap fun i => (List.range n).map fun j => (i, j)).find? fun (p : Nat × Nat) => w.mergeable p.1 p.2

/-- A split that its rendezvous has released issues when its warp is the next member (R196). -/
def State.itsTurn (s : State) (w : Warp) (x : Split) : Bool :=
  match x.released with
  | none => true
  | some sc =>
    if gathers sc then (s.rvOf w sc).state == .released && (s.rvOf w sc).todo.head? == some w.uid else true

/-- A split that can issue (R160, R165): neither waiting nor blocked. -/
def State.canIssue (s : State) (w : Warp) (slot : Nat) : Bool :=
  match w.split? slot with
  | some x => !x.waiting && x.blocked.isNone && s.itsTurn w x
  | none => false

/-- The split that issues next: the one inside a group, else round-robin in slot order after the last (R165). A pending
GROW request stops every split of the warp (R175). -/
def State.pickSlot (s : State) (w : Warp) : Option Nat :=
  if w.growReq.isSome then none
  else
    match w.inGroup with
    | some i => some i
    | none => ([1, 2, 3, 4].map fun k => (w.lastSlot + k) % 4).find? (s.canIssue w)

/-- A warp may issue: it runs, its block is resident, its context runs or drains (a warp inside a region runs on while its
context is saved), and its field's clock is not stopped (R160, R159, R266, R274, R429). -/
def State.mayRun (s : State) (w : Warp) : Bool :=
  (w.mode == .normal || w.mode == .handler) &&
  (match s.block? w.block with
    | some b => b.state == .resident
    | none => false) &&
  (match s.ctxOf w with
    | some c => c.state == .running || c.state == .draining || (c.state == .saving && decide (0 < w.region))
    | none => false) &&
  match s.field? w.field with
  | some f => f.fstate == 1 && !f.stopped
  | none => false

/-- One word of code: its value, or the fault of fetching it (R21, R125), or a wait for the host. -/
def State.fetchWordAt (s : State) (w : Warp) (pc : Dword) : Got Word :=
  match s.ctxOf w, s.launchOf w with
  | some c, some l =>
    if !canonical pc then .trap (Trap.at 22 pc 0)
    else
      match s.access c .fetch pc with
      | .ok p => .ok (s.cachedWord l.code l.codeAt p.key)
      | .trap code => .trap (Trap.at code pc 0)
      | .wait => .wait (s.noteMiss c .fetch pc)
  | _, _ => .wait s

/-- The homes of code words that the code cache takes now round their lines' shadows (R21, R96). -/
def State.noteFetch (s : State) (w : Warp) (pcs : List Dword) : State :=
  if s.shadows.isEmpty then s
  else
    match s.ctxOf w with
    | none => s
    | some c =>
      s.noteCached (pcs.filterMap fun pc => match s.access c .fetch pc with
        | .ok p => some p.key
        | _ => none)

/-- The word takes a literal that is fetched with it: b is 63 and the literal lies in the word's fetch line (R44). -/
noncomputable def takesLiteral (w : Word) : Bool :=
  match decodeWord w 0 with
  | some i => i.hasLit
  | none => false

/-- What an issue turn finds: nothing to execute, in the state it leaves, or the bytes of a word with its literal. -/
inductive Fetched where
  | idle (s : State)
  | code (s : State) (bytes : List Byte)

/-- The scope of the rendezvous that released a split whose part is still to execute: its fault is a member's (R195, R196). -/
def State.partOf (s : State) (w : Warp) (x : Split) : Option Scope :=
  x.released.bind fun sc => if gathers sc && !(s.rvOf w sc).todo.contains w.uid then none else some sc

/-- The report of a fault that a fetch or a decode raises for the split in a slot (R46, R212). -/
def State.fetchReport (s : State) (w : Warp) (slot : Nat) (start next : Dword) (t : Trap) : Report :=
  { u := w.uid, slot := slot, fpc := start, next := next, trap := t, member := (w.split? slot).bind (s.partOf w), once := false,
    diverged := false, lost := none }

/-- The word after the group at an address: hint words, and the word behind them with its literal. A word that cannot be fetched, or that is
no instruction, counts as the group's last (R24, R46, log 83). -/
noncomputable def State.groupEnd (s : State) (w : Warp) : Nat → Dword → Got Dword
  | 0, pc => .ok pc
  | fuel + 1, pc =>
    match s.fetchWordAt w pc with
    | .wait s' => .wait s'
    | .trap _ => .ok (pc + 4)
    | .ok word => if hintWord word && (decodeWord word 0).isSome then s.groupEnd w fuel (pc + 4) else .ok (if takesLiteral word then pc + 8 else pc + 4)

/-- DEBUG_STEP for the split in a slot (R213): it stands behind its group, whose part is done, at a group that ends at `next` (R209). -/
def Warp.stepReport (w : Warp) (slot : Nat) (next : Dword) : Report :=
  { u := w.uid, slot := slot, fpc := ((w.split? slot).map (·.pc)).getD 0, next := next, trap := Trap.plain 12, member := none, once := false,
    diverged := false, lost := none }

/-- A step falls due: its report, once the end of the group that comes next is known. -/
noncomputable def State.takeStep (s : State) (w : Warp) (slot : Nat) : State :=
  match s.groupEnd w 64 (((w.split? slot).map (·.pc)).getD 0) with
  | .wait s' => s'
  | .ok next => s.report (w.stepReport slot next)
  | .trap _ => s

/-- The next word of the split in a slot with its literal. Where a word of the group cannot be fetched, the group's extent is not
known: the word after the one that failed counts as the word after the group (log 83). The literal of a word at the end of its fetch line is not fetched
(R44). -/
noncomputable def State.fetchSlot (s : State) (w : Warp) (slot : Nat) (x : Split) : Fetched :=
  let start := if w.inGroup = some slot then x.start else x.pc
  match s.fetchWordAt w x.pc with
  | .wait s' => .idle s'
  | .trap t => .idle (s.report (s.fetchReport w slot start (x.pc + 4) t))
  | .ok word =>
    if takesLiteral word then
      let at_ : Fetch := { slot := slot, start := start, addr := x.pc, next := x.pc + 8 }
      if x.pc.toNat % 64 = 0x3C then .code { s.noteFetch w [x.pc] with fetch := at_ } (bytesOfWord word ++ bytesOfWord 0)
      else
        match s.fetchWordAt w (x.pc + 4) with
        | .wait s' => .idle s'
        | .trap t => .idle (s.report (s.fetchReport w slot start (x.pc + 8) t))
        | .ok lit => .code { s.noteFetch w [x.pc, x.pc + 4] with fetch := at_ } (bytesOfWord word ++ bytesOfWord lit)
    else
      let at_ : Fetch := { slot := slot, start := start, addr := x.pc, next := x.pc + 4 }
      .code { s.noteFetch w [x.pc] with fetch := at_ } (bytesOfWord word)

/-- An issue turn of a warp that may run: a cause that is due (R204), a merge (R166), a step that is due (R213), or the next word
of a split (R46, R165). -/
noncomputable def State.fetchWarp (s : State) (w : Warp) : Fetched :=
  match w.due, w.mergePair, w.stepDue, s.pickSlot w with
  | some r, _, _, _ => .idle (s.report r)
  | none, some (i, k), _, _ => .idle (s.modWarp w.uid fun w => w.merge i k)
  | none, none, some slot, _ => .idle (s.takeStep w slot)
  | none, none, none, none => .idle s
  | none, none, none, some slot =>
    match w.split? slot with
    | none => .idle s
    | some x => s.fetchSlot w slot x

/-- An issue turn of the warp `cur` up to the bytes it executes (R46, R213). -/
noncomputable def State.fetchTurn (s : State) : Fetched :=
  match s.warp? s.cur with
  | none => .idle s
  | some w => if s.mayRun w then s.fetchWarp w else .idle s

/-- A word that does not decode traps with ILLEGAL_ENCODING; it is its group's last (R24, R46). -/
def State.illegal (s : State) : State :=
  match s.warp? s.cur with
  | none => s
  | some w => s.report (s.fetchReport w s.fetch.slot s.fetch.start (s.fetch.addr + 4) (Trap.at 0 s.fetch.addr 0))

end Sys2Proof.Machine
end

