-- ==== Sys2Proof/Machine/Start.lean ====
section
/-! DEFINITION. A warp at its start (R102, R123, R304), and the smallest machine that fetches one given instruction, for the
host's question whether `step` runs it (log 2). -/

namespace Sys2Proof.Machine

open Sys2Proof

/-- A warp as it starts (R102, R304): registers 0, predicates false, empty stacks, MASK all ones, one split of 32 lanes in
slot 0 (R163), and the logical identifiers of its lanes (R123). -/
def newWarp (uid block core slot wid alloc : Nat) (pc : Dword) (s : Vector Word 64) (logid : Row) : Warp where
  uid := uid
  block := block
  core := core
  slot := slot
  wid := wid
  alloc := alloc
  v := Vector.ofFn fun _ => splat 0
  s := s
  bank := Vector.ofFn fun _ => 0
  p := Vector.ofFn fun _ => 0
  h := Vector.ofFn fun _ => 0
  rstack := Vector.ofFn fun _ => []
  mask := 0xFFFFFFFF#32
  cwin := 0
  cause := 0
  faddr := 0
  fpc := 0
  fpcWritten := false
  mode := .normal
  frame := none
  slots := (Vector.ofFn fun _ => none).setIfInBounds 0 (some (Split.fresh pc 0xFFFFFFFF#32))
  parked := []
  lastSlot := 3
  inGroup := none
  exited := 0
  logid := logid
  rank := splat 0xFFFFFFFF#32
  lineage := Vector.ofFn fun _ => 0xFFFFFFFFFFFFFFFF#64
  parent := splat 0xFFFFFFFF#32
  rays := Vector.ofFn fun _ => none
  idxLatch := Vector.ofFn fun _ => 0xFFFFFFFF#32
  region := 0
  stepFlag := false
  stepDue := none
  due := none
  growReq := none
  sq := []
  loads := []
  stores := []
  copies := []
  tileops := []
  issued := Vector.ofFn fun _ => 0
  asyncs := []
  lostOps := []
  seq := 0
  relDeps := []
  fences := []
  seen := []
  rv := .opened
  xchg := none
  issuedAt := 0
  doneAt := 0
  orphan := none

/-- The scalars of a warp at its start (R304). -/
def startScalars (args : Dword) (bid griddim wid : Nat) : Vector Word 64 :=
  (((((Vector.ofFn fun _ => (0 : Word)).setIfInBounds 0 (loWord args)).setIfInBounds 1 (hiWord args)).setIfInBounds 2
    (BitVec.ofNat 32 bid)).setIfInBounds 3 (BitVec.ofNat 32 griddim)).setIfInBounds 4 (BitVec.ofNat 32 wid)

/-- The logical identifiers of a warp's lanes at launch (R123). -/
def startLogid (bid warps wid : Nat) : Row := rowOf fun i => BitVec.ofNat 32 (bid * (32 * warps) + 32 * wid + i)

/-- A rendezvous object at its start (R195). -/
def openRv : Rv := { state := .opened, todo := [], memo := none }

/-- A circular buffer that is not initialised (R140). -/
def noCbuf : Cbuf := { init := false, record := 0, free := 0, resv := 0, filled := 0, rd := 0, wr := 0, claims := [] }

/-- A block as it is dispatched, its circular buffers aside (R159, R198). -/
def newBlock (uid launch bid core : Nat) : Block where
  uid := uid
  launch := launch
  bid := bid
  core := core
  state := .resident
  scratch := []
  cbufs := Vector.ofFn fun _ => noCbuf
  bankq := []
  setRvs := Vector.ofFn fun _ => openRv
  blockRv := openRv
  children := 0
  sent := 0
  recv := 0
  passive := false
  phqMask := 0
  phqDst := 0
  phqNext := 0
  tile := none
  bind := Vector.ofFn fun _ => 0xFFFFFFFF#32
  accums := []
  jobs := []
  image := false
  rsmpl := none
  watch := none

/-! ## The smallest machine that fetches one instruction -/

/-- A field with every core and slice healthy. -/
def probeField : Field where
  number := 0
  fstate := 1
  coremask := 0xFFFFFFFFFF#40
  slicemask := 0xFFFFFFFFFF#40
  slices := 0xFFFFFFFFFF#40
  vaultmask := 0xFFFFFFFFFF#40
  links := 0
  membytes := 24 * 2 ^ 30
  caps := 0
  regs := []
  route := Vector.ofFn fun _ => 0
  epoch := 0
  clockStep := 0
  heatStep := 52
  stopped := false
  valves := Vector.ofFn fun _ => 0
  sensors := Vector.ofFn fun _ => 0
  hotFor := Vector.ofFn fun _ => 0
  moduleNo := 0
  peers := []
  hot := 0
  rotor := []
  copyRotor := []
  remapBad := 0
  mirrorBad := 0

/-- A running context of field 0. -/
def probeCtx : Context where
  field := 0
  ctxid := 1
  state := .running
  prio := 0
  modes := 0
  fpxen := 0
  coremask := 1
  waymask := 1
  vaultdir := 2
  bwweight := 1
  ptroot := 0
  handler := 0
  backing := 0
  hostrec := 0
  wintab := 0
  drainlim := 0
  regionlim := 0
  wdoglim := 0
  thermal := false
  nrec := 0
  wins := []

/-- The address of the instruction, virtual and physical. -/
def probePc : Nat := 0x1000

/-- A running launch of one warp with 128 registers. -/
def probeLaunch (uid : Nat) (code : List Host.Cell) : Launch where
  uid := uid
  field := 0
  ctx := 1
  origin := .queue 0
  state := .running
  record := 0
  kind := 0
  griddim := 1
  entry := BitVec.ofNat 64 probePc
  warps := 1
  regsInit := 128
  regsMax := 128
  sets := 0
  group := 1
  scratch := Vector.ofFn fun _ => 0
  cbuf := Vector.ofFn fun _ => 0
  constAddr := Vector.ofFn fun _ => 0
  constSize := Vector.ofFn fun _ => 0
  itemq := Vector.ofFn fun _ => 0
  args := 0
  done := 0
  task := 0
  barrier := false
  depth := 0
  next := 1
  retired := 0
  children := 0
  code := code
  consts := code
  codeAt := 0
  constAt := 0
  order := 0
  dispatched := uid
  writers := [uid]

/-- The leaf entry of the probe's page: local memory, LOCAL, executable (R382). -/
def probePte : Dword := BitVec.ofNat 64 (2 ^ 52 + probePc / 2 ^ 12 * 2 ^ 12 + 0x145)

/-- Store the two words of an instruction at the probe's address and make a warp that fetches it next the issuing warp. -/
def State.withCode (s : State) (bytes : List Byte) : State :=
  let u := s.nextUid
  let mem := memWrite s.mem (physKey 0 0 probePc) bytes
  let w := newWarp u u 0 0 0 128 (BitVec.ofNat 64 probePc) (startScalars 0 0 1 0) (startLogid 0 1 0)
  let e : TlbEntry := { field := 0, core := none, ctx := 1, page := probePc / 2 ^ 12, pte := probePte }
  { s with
    agenda := []
    cur := u
    nextUid := u + 1
    fields := probeField :: s.fields.filter fun f => f.number != 0
    contexts := probeCtx :: s.contexts.filter fun c => !(c.field == 0 && c.ctxid == 1)
    tlb := e :: s.tlb
    launches := probeLaunch u mem :: s.launches
    blocks := newBlock u u 0 0 :: s.blocks
    warps := w :: s.warps
    mem := mem }

end Sys2Proof.Machine
end

