-- ==== Sys2Proof/Machine/Kernel.lean ====
section
/-! DEFINITION. The launch record (R303), the population fields (R368), room on cores and the placing of a block (R304), as
FORK, the Kiln and the passes of graphs share them. -/

namespace Sys2Proof.Machine

open Sys2Proof

/-! ## The record (R303, R368) -/

/-- An allocation's size breaks R131, or its word has other bits set. -/
def scratchBad (x : Word) : Bool :=
  let size := (x.extractLsb' 0 19).toNat
  let code := (x.extractLsb' 24 3).toNat
  decide (x &&& 0xF8F80000#32 ≠ 0) || decide (size % 16 ≠ 0) ||
  (decide (code ≤ 5) && decide (size % (16 * 2 ^ code) ≠ 0))

/-- A field of vectors of a record: entry i of `w` bytes from byte `o`. -/
def recVec (n w : Nat) (b : List Byte) (o : Nat) : Vector Nat n := Vector.ofFn fun i => recNat b (o + w * i.val) w

/-- The launch that a record describes, in the state SUBMITTED. -/
def launchOfRecord (b : List Byte) (c : Context) (uid : Nat) (origin : Origin) (addr : Dword) : Launch where
  uid := uid
  field := c.field
  ctx := c.ctxid
  origin := origin
  state := .submitted
  record := addr
  kind := recNat b 2 1
  griddim := BitVec.ofNat 32 (recNat b 4 4)
  entry := recAddr b 8
  warps := recNat b 16 1
  regsInit := recNat b 17 1 % 16 * 16
  regsMax := recNat b 17 1 / 16 * 16
  sets := recNat b 18 1
  group := if recNat b 20 5 = 0 then c.coremask else BitVec.ofNat 40 (recNat b 20 5)
  scratch := (recVec 8 4 b 32).map fun x => BitVec.ofNat 32 x
  cbuf := (recVec 16 4 b 64).map fun x => BitVec.ofNat 32 x
  constAddr := (recVec 8 8 b 128).map fun x => BitVec.ofNat 64 x
  constSize := recVec 8 2 b 192
  itemq := if recNat b 2 1 = 2 then Vector.ofFn fun _ => 0 else (recVec 4 8 b 208).map fun x => BitVec.ofNat 64 x
  args := recAddr b 240
  done := recAddr b 248
  task := 0xFF
  barrier := false
  depth := 0
  next := 0
  retired := 0
  children := 0
  code := []
  consts := []
  codeAt := 0
  constAt := 0
  order := 0
  dispatched := 0
  writers := []

/-- The bytes of scratchpad that a block of a launch takes. -/
def Launch.scratchTotal (l : Launch) : Nat := ((List.range 8).map l.scratchSize).foldl (· + ·) 0

/-- The population fields of a record of KIND 2 break R368. -/
def popBad (b : List Byte) (c : Context) : Bool :=
  let threads := recNat b 4 4 * recNat b 16 1 * 32
  let cap := recNat b 208 4
  decide (cap = 0) || decide (min threads (2 ^ 24) < cap) || decide (recNat b 212 4 = 0) || decide (cap < recNat b 212 4) ||
  decide (recNat b 232 8 ≠ 0) || decide (40 < recNat b 4 4) ||
  (c.modes.getLsbD 2 && (decide (recNat b 224 8 = 0) || decide (recNat b 224 8 % 64 ≠ 0) || !canonical (recAddr b 224)))

/-- A reserved field is set, or VERSION or KIND breaks the table; `kinds` are the kinds allowed. -/
def recordReserved (b : List Byte) (kinds : List Nat) : Bool :=
  decide (recNat b 0 2 ≠ 1) || !kinds.contains (recNat b 2 1) || decide (recNat b 3 1 ≠ 0) || decide (recNat b 19 1 ≠ 0) ||
  decide (recNat b 25 7 ≠ 0)

/-- A field of a record is out of the table's range. -/
def recordRange (b : List Byte) : Bool :=
  let init := recNat b 17 1 % 16
  let top := recNat b 17 1 / 16
  let warps := recNat b 16 1
  let sets := recNat b 18 1
  decide (recNat b 4 4 = 0) || decide (2 ^ 31 < recNat b 4 4) || (recNat b 2 1 == 1 && decide (16 < recNat b 4 4)) ||
  decide (warps = 0) || decide (32 < warps) || decide (init = 0) || decide (8 < top) || decide (top < init) ||
  !([0, 2, 4, 8, 16].contains sets) || (decide (sets ≠ 0) && decide (warps % sets ≠ 0)) || decide (4096 < warps * init * 16)

/-- An address of a record is non-canonical or misaligned. -/
def recordAddrs (b : List Byte) (l : Launch) : Bool :=
  let addrBad : Dword → Nat → Bool := fun a n => !canonical a || decide (a.toNat % n ≠ 0)
  addrBad l.entry 64 || !canonical l.args || (decide (l.done ≠ 0) && addrBad l.done 4) ||
  ((List.range 8).any fun k => decide (recNat b (192 + 2 * k) 2 ≠ 0) && addrBad ((l.constAddr[k]?).getD 0) 4) ||
  ((List.range 4).any fun q => decide ((l.itemq[q]?).getD 0 ≠ 0) && addrBad ((l.itemq[q]?).getD 0) 64)

/-- A record is invalid, its item-queue descriptors aside (R303). -/
def State.recordBad (s : State) (c : Context) (kinds : List Nat) (b : List Byte) : Bool :=
  let l := launchOfRecord b c 0 (.queue 0) 0
  let healthy := c.coremask &&& ((s.field? c.field).map (·.coremask)).getD 0
  recordReserved b kinds || recordRange b || recordAddrs b l ||
  decide (l.group &&& ~~~healthy ≠ 0) || decide (l.group = 0) ||
  (l.scratch.any scratchBad) || decide (2 ^ 18 < l.scratchTotal) ||
  (l.cbuf.any fun x => decide (x ≠ 0) && cbInvalid l x) ||
  ((List.range 8).any fun k => decide (16384 < recNat b (192 + 2 * k) 2)) ||
  (recNat b 2 1 == 2 && popBad b c)

/-- An item-queue binding that is valid and of KIND 2 (R303). -/
def State.itemqCheck (s : State) (c : Context) (a : Dword) : Got Bool :=
  if a = 0 then .ok true
  else
    (s.readDesc c .load a).bind fun r => .ok (match r.2 with
      | some d => d.kind == 2
      | none => false)

/-- Every item-queue binding of a launch is valid. -/
def State.itemqsOk (s : State) (c : Context) : List Dword → Got Bool
  | [] => .ok true
  | a :: rest => (s.itemqCheck c a).bind fun x => if x then s.itemqsOk c rest else .ok false

/-- The bytes of a launch record that has been read, and whether it is valid (R303). -/
def State.judgeRecord (s : State) (c : Context) (kinds : List Nat) (addr : Dword) (b : List Byte) : Got (State × List Byte × Bool) :=
  if s.recordBad c kinds b then .ok (s, b, false)
  else (s.itemqsOk c (launchOfRecord b c 0 (.queue 0) addr).itemq.toList).bind fun ok => .ok (s, b, ok)

/-- Read a launch record as a unit of the part: its bytes, and whether it is valid (R303). -/
def State.readLaunch (s : State) (c : Context) (kinds : List Nat) (addr : Dword) : Got (State × List Byte × Bool) :=
  (s.readRecord c addr 4).bind fun r => r.1.judgeRecord c kinds addr r.2

/-- Memory as a non-atomic read of any line finds it, its shadows rounded (R96). -/
def State.roundedMem (s : State) : List Host.Cell := (s.roundThose fun _ => true).mem

/-- A launch is ACCEPTED (R301): its code is what memory holds now (R21). -/
def State.addLaunch (s : State) (l : Launch) : State :=
  let new : Launch := { l with uid := s.nextUid, state := .accepted, code := s.roundedMem, codeAt := s.stored.length }
  { s with nextUid := s.nextUid + 1, launches := s.launches ++ [new] }

/-- The population of an accepted launch of KIND 2, PENDING (R367). -/
def newPopulation (uid : Nat) (b : List Byte) : Population where
  launch := uid
  state := .waiting
  generation := 0
  cap := recNat b 208 4
  n0 := recNat b 212 4
  seed := recAddr b 216
  plist := recAddr b 224
  killed := 0
  clones := 0
  statS := [0, 0, 0]
  statU := 0
  target := 0
  cloneCount := 0
  pending := []
  post := none

/-! ## Room on cores (R304) -/

/-- The warps that hold a slot of a core: those of its resident blocks that have not ended. -/
def State.coreWarps (s : State) (core : Nat) : List Warp :=
  s.warps.filter fun w => w.core == core && w.mode != .ended && (s.block? w.block).any fun b => b.state == .resident

/-- The free registers of a core. -/
def State.freeRegs (s : State) (core : Nat) : Nat := 4096 - ((s.coreWarps core).map (·.alloc)).foldl (· + ·) 0

/-- The free scratchpad of a core. -/
def State.freeScratch (s : State) (core : Nat) : Nat :=
  2 ^ 18 - ((s.blocks.filter fun b => b.core == core && b.state == .resident).map
    fun b => ((s.launch? b.launch).map Launch.scratchTotal).getD 0).foldl (· + ·) 0

/-- A core takes no blocks while its zone is hot (R431). -/
def State.coreOpen (s : State) (core : Nat) : Bool :=
  match s.field? (fieldOfCore core) with
  | some f => f.coremask.getLsbD (core % 40) && !f.hot.getLsbD (core % 40 / 10)
  | none => false

/-- A core has room for n warps of a launch with so many registers in all (R304). -/
def State.roomFor (s : State) (l : Launch) (core n regs : Nat) : Bool :=
  s.coreOpen core && decide ((s.coreWarps core).length + n ≤ 64) && decide (regs ≤ s.freeRegs core) &&
  decide (l.scratchTotal ≤ s.freeScratch core)

/-- A core has room for a new block of a launch. -/
def State.hasRoom (s : State) (l : Launch) (core : Nat) : Bool := s.roomFor l core l.warps (l.warps * l.regsInit)

/-- The cores of a launch's group with room, by local number. -/
def openCores (l : Launch) (ok : Nat → Bool) : List Nat :=
  ((List.range 40).filter fun n => l.group.getLsbD n && ok (40 * l.field + n)).map (40 * l.field + ·)

/-- The core with the fewest resident warps, the lowest number on a tie (R304). -/
def State.emptiest (s : State) (cores : List Nat) : Option Nat :=
  (sortBy (fun c => (s.coreWarps c).length) cores).head?

/-! ## Placing a block (R102, R140, R304) -/

/-- The lowest free warp slots of a core. -/
def State.freeSlots (s : State) (core : Nat) : List Nat :=
  (List.range 64).filter fun i => !(s.coreWarps core).any fun w => w.slot == i

/-- The circular buffers of a new block (R140). -/
def startCbufs (l : Launch) : Vector Cbuf 16 := l.cbuf.map fun x => if x = 0 then noCbuf else cbInit x

/-- Dispatch block `bid` of a launch to a core: RESIDENT, with its warps at their start; its first instruction sees what a release has
made visible, as after an acquire (R238, R239, R308). -/
def State.placeBlock (s : State) (l : Launch) (bid core : Nat) : State :=
  let b := s.nextUid
  let slots := s.freeSlots core
  let ws := (List.range l.warps).map fun i =>
    newWarp (b + 1 + i) b core (slots.getD i 0) i l.regsInit l.entry (startScalars l.args bid l.griddim.toNat i)
      (startLogid bid l.warps i)
  let blk : Block := { newBlock b l.uid bid core with cbufs := startCbufs l }
  let mine : Launch → Launch := fun x => { x with writers := x.writers ++ ws.map (·.uid) }
  { (s.invalL1 core).modLaunch l.uid mine with
    nextUid := b + 1 + l.warps
    blocks := s.blocks ++ [blk]
    warps := s.warps ++ ws }

/-- A launch that dispatches: its constants are what memory holds now (R138). -/
def State.beginDispatch (s : State) (uid : Nat) : State :=
  ({ s with nextUid := s.nextUid + 1 } : State).modLaunch uid fun l =>
    if l.state = .accepted then { l with state := .dispatching, consts := s.roundedMem, constAt := s.stored.length, dispatched := s.nextUid } else l

end Sys2Proof.Machine
end

