-- ==== Sys2Proof/Machine/Tensor.lean ====
section
/-! DEFINITION. TSHAPE (R258), MMLOOP (R259), MMIDX (R263) and the ACC family (R264) at issue. -/

namespace Sys2Proof.Machine

open Sys2Proof

/-! ## TSHAPE (R258) -/

/-- What TSHAPE names. -/
def shapeMeta (sc : Scope) (h : BitVec 4) : Meta := { cls := .scalar, scope := sc, hs := [h.toNat] }

/-- An h register. -/
def Warp.hreg (w : Warp) (h : BitVec 4) : BitVec 512 := (w.h[h.toNat]?).getD 0

/-- Write an h register. -/
def Warp.setH (w : Warp) (h : BitVec 4) (x : BitVec 512) : Warp := w.writeH h.toNat x

/-- A b field that is no s register. -/
def notS (b : Opb) : Bool :=
  match b with
  | .s _ => false
  | _ => true

/-- HLD: a load of 64 bytes into an h register. -/
def execHld (sc : Scope) (h : BitVec 4) (a : Reg) (b : Opb) (s : State) : Host.Outcome State Fault Refusal :=
  issue { shapeMeta sc h with hs := [], hw := [h.toNat], opb := some b, bad := a.getLsbD 0 || notS b } s fun s j =>
    let p := j.w.sreg b.num
    if polBad false p then .trap (Trap.plain 26)
    else if classFull j.w.loads then .stall s
    else
      let ea := j.w.sreg64 a.toNat
      match s.checkLane j.ctx .load 64 ea 0 with
      | .trap t => .trap t
      | .wait s' => .stall s'
      | .ok q =>
        let op : LoadOp :=
          { id := s.nextUid, seq := 0, ord := 0, kind := .hreg, dest := h.toNat, nreg := 0, lanes := 1, size := 64, sext := false,
            acqScope := if polOrder p = 1 then some (p.extractLsb' 19 3) else none, repl := polRepl p,
            nt := polNt p, accs := [q.acc 0 ea], early := [], done := false }
        .next ({ s with nextUid := s.nextUid + 1 }.put j fun w => w.addLoad op)

/-- HST depends on a lost store as ST does (R210). -/
def hstDep (b : Opb) (_ : State) (j : Job) (c : AsyncCause) : Bool :=
  let p := j.w.sreg b.num
  (polOrder p == 2 && releaseDep (polScope p) c) || (c.kind == .store && j.w.sqFull && j.w.heldBehind c.op)

/-- What HST names. -/
def hstMeta (sc : Scope) (h : BitVec 4) (a : Reg) (b : Opb) : Meta :=
  { shapeMeta sc h with opb := some b, bad := a.getLsbD 0 || notS b, dep := hstDep b }

/-- HST: one entry of the store queue, .F mode. -/
def execHst (sc : Scope) (h : BitVec 4) (a : Reg) (b : Opb) (s : State) : Host.Outcome State Fault Refusal :=
  issue (hstMeta sc h a b) s fun s j =>
    let p := j.w.sreg b.num
    if polBad true p then .trap (Trap.plain 26)
    else
      let ea := j.w.sreg64 a.toNat
      match s.checkLane j.ctx .store 64 ea 0 with
      | .trap t => .trap t
      | .wait s' => .stall s'
      | .ok q =>
        if j.w.sqFull || classFull j.w.stores then .stall s
        else
          let bytes := (leBytes 64 (j.w.hreg h).toNat).zipIdx.map fun x => q.wbyte x.2 x.1 (polNt p)
          let e : SqEntry :=
            { id := s.nextUid, seq := 0, gmode := false, flush := [], bytes := bytes,
              deps := if polOrder p = 2 then j.w.released (polScope p) else [],
              rel := if polOrder p = 2 then some (polScope p) else none, va := ea, lane := 0 }
          .next ({ s with nextUid := s.nextUid + 1 }.put j fun w => w.enqueue e)

/-- What HSET names. -/
def hsetMeta (sc : Scope) (h : BitVec 4) (a : Reg) (b : Opb) : Meta :=
  { shapeMeta sc h with opb := some b, bad := a.getLsbD 0 || !b.isImm || decide (7 < b.num) }

/-- HSET: one doubleword of an h register. -/
def execHset (sc : Scope) (h : BitVec 4) (a : Reg) (b : Opb) (s : State) : Host.Outcome State Fault Refusal :=
  issue (hsetMeta sc h a b) s fun s j =>
    let k := 64 * b.num
    let keep : BitVec 512 := ~~~((0xFFFFFFFFFFFFFFFF#64).zeroExtend 512 <<< k)
    .next (s.put j fun w => w.setH h ((w.hreg h &&& keep) ||| ((j.w.sreg64 a.toNat).zeroExtend 512 <<< k)))

/-- Replace a 32-bit field of a record at byte o. -/
def setShapeWord (x : BitVec 512) (o : Nat) (v : Word) : BitVec 512 :=
  (x &&& ~~~((0xFFFFFFFF#32).zeroExtend 512 <<< (8 * o))) ||| (v.zeroExtend 512 <<< (8 * o))

/-- HADV: the tile origin moves by y increments, modulo 2^32. -/
def execHadv (sc : Scope) (h : BitVec 4) (b : Opb) (s : State) : Host.Outcome State Fault Refusal :=
  issue { shapeMeta sc h with b := b.num, opb := some b, bad := b.isV } s fun s j =>
    (s.uniform j .int b).eff fun y =>
      let x := j.w.hreg h
      let add : Nat → Nat → Word := fun o k => BitVec.ofNat 32 (shapeField x o 4) + y * BitVec.ofNat 32 (shapeField x k 4)
      .next (s.put j fun w => w.setH h (setShapeWord (setShapeWord x 20 (add 20 28)) 24 (add 24 32)))

/-! ## Issuers and groups (R252 to R254) -/

/-- The issuer of an engine instruction (R253). -/
def State.holderOf (s : State) (j : Job) : Holder :=
  match j.scope with
  | .set => .set j.block.uid (s.setIdOf j.w)
  | .block => .block j.block.uid
  | _ => .warp j.w.uid

/-- A group that is not aligned to its span (R34, R264). -/
def groupBad (acc : BitVec 3) (span : BitVec 2) : Bool := decide (acc.toNat % spanOf span ≠ 0)

/-- An MMLOOP or ACC depends on a faulted loop that names its accumulators (R210). -/
def accDep (acc : BitVec 3) (span : BitVec 2) (_ : State) (_ : Job) (c : AsyncCause) : Bool :=
  c.kind == .tile && c.accs.any fun i => decide (acc.toNat ≤ i) && decide (i < acc.toNat + spanOf span)

/-- The launch of the issuing warp is a gang. -/
def State.issuerGang (s : State) : Bool := ((s.issuer.bind s.launchOf).map Launch.gang).getD false

/-- A job of the issuing warp for the engine, whose reads come after a release at a scope (R238). -/
def State.newJob (s : State) (j : Job) (cls : Nat) (acc : BitVec 3) (span : BitVec 2) (scope : Nat) (k : EngKind) :
    EngJob :=
  { id := s.nextUid, core := j.w.core, warp := j.w.uid, holder := s.holderOf j, first := acc.toNat, span := spanOf span,
    field := j.w.field, ctx := j.ctx.ctxid, block := j.block.uid, launch := j.launch.uid, seq := j.w.seq, ord := j.w.ordOf cls,
    deps := if scope = 0 then [] else j.w.released scope, scope := scope, stamp := s.fresh, lines := [], kind := k }

/-- Queue a job: the accumulators it names are claimed unless it drains, and it counts in its class. -/
def State.jobStarted (s : State) (j : Job) (e : EngJob) (claim : Bool) (count : Warp → Warp) : State :=
  let s := if claim then s.accClaim e.core e.first e.span e.holder else s
  ({ s with nextUid := s.nextUid + 1 }.put j count).pushJob e

/-- Go on once a job is queued. -/
def State.startJob (s : State) (j : Job) (e : EngJob) (claim : Bool) (count : Warp → Warp) : Eff :=
  .next (s.jobStarted j e claim count)

/-! ## MMLOOP (R259) -/

/-- The scratchpad ranges of a loop's operands and smoothing vector (R259). -/
def loopScratch (l : Loop) (h : BitVec 512) (rs : List (Nat × Nat)) (isB : Bool) : List (Nat × List (Nat × Nat)) :=
  (if shapeSpace h then [(shapeAlloc h, rs)] else []) ++
  (if isB && l.smooth then [(shapeSmalloc h, [(shapeSmoff h, 4 * shapeKdim h)])] else [])

/-- SCRATCH_RANGE at the first range beyond its allocation. -/
def scratchFail (l : Launch) (xs : List (Nat × List (Nat × Nat))) : Option Trap :=
  (xs.findSome? fun x => beyondAlloc l x.1 x.2).map fun o => Trap.at 24 (BitVec.ofNat 64 o) 0

/-- What MMLOOP names. -/
def mmloopMeta (s : State) (sc : Scope) (acc : BitVec 3) (span : BitVec 2) (hA : BitVec 4) (hB : BitVec 4) (flags : BitVec 5) : Meta :=
  let gath := flags.getLsbD 0
  let keep := flags.getLsbD 2
  let gang := flags.getLsbD 3
  let zero := flags.getLsbD 4
  { cls := .engine, scope := sc, hs := [hA.toNat, hB.toNat], xreg := true, xpred := true, noPartial := true,
          bad := groupBad acc span || (zero && keep) || (gang && (gath || !s.issuerGang)), dep := accDep acc span }

/-- MMLOOP (R259): copies of its records and index latch, the checks in their order, then the queue. -/
def execMmloop (sc : Scope) (acc : BitVec 3) (span : BitVec 2) (hA hB : BitVec 4) (ks : Reg) (flags : BitVec 5) (s : State) :
    Host.Outcome State Fault Refusal :=
  let gath := flags.getLsbD 0
  let smooth := flags.getLsbD 1
  let keep := flags.getLsbD 2
  let gang := flags.getLsbD 3
  let zero := flags.getLsbD 4
  issue (mmloopMeta s sc acc span hA hB flags) s fun s j =>
    let ha := j.w.hreg hA
    let hb := j.w.hreg hB
    let sp := spanOf span
    let gcols := shapeGcols hb
    let l : Loop :=
      { zero := zero, acc := keep, gath := gath, smooth := smooth, gr := if gang then j.block.bid / gcols else 0,
        gc := if gang then j.block.bid % gcols else 0, n := (j.w.sreg ks.toNat).toNat, t := 0, ha := ha, hb := hb,
        idx := j.w.idxLatch }
    if shapeInvalid j.launch false (.opA gath) ha || shapeInvalid j.launch gang (.opB smooth) hb then .trap (Trap.plain 41)
    else if shapeKdim ha ≠ shapeKdim hb ∨ stepSize ha ≠ stepSize hb then .trap (Trap.plain 40)
    else if s.accConflict j.w.core acc.toNat sp (s.holderOf j) then .trap (Trap.plain 42)
    else if classFull j.w.tileops || (gath && classFull j.w.loads) then .stall s
    else
      let rA := if gath then [] else footprint ha (outerLines ha (l.gr * groupRows sp) (groupRows sp)) (stepStarts ha l.n) (stepSize ha)
      let rB := footprint hb (outerLines hb (l.gc * groupCols sp) (groupCols sp)) (stepStarts hb l.n) (stepSize hb)
      match scratchFail j.launch (loopScratch l ha rA false ++ loopScratch l hb rB true) with
      | some t => .trap t
      | none =>
        let rs := (if shapeSpace ha then [] else rA) ++ if shapeSpace hb then [] else rB
        (s.checkRanges j.ctx .load (fun _ => false) rs).eff fun ps =>
          let far := ps.any fun p => p.2.home != j.w.field
          s.startJob j (s.newJob j 3 acc span (if far then 2 else 1) (.loop l)) true fun w =>
            let w := w.addTile s.nextUid
            if gath then w.addLoad { LoadOp.taken s.nextUid with kind := .gather, done := false } else w

/-! ## MMIDX (R263) -/

/-- What MMIDX names. -/
def mmidxMeta (sc : Scope) (a : Reg) (b : Opb) : Meta :=
  { cls := .engine, scope := sc, a := a.toNat, na := 1, b := b.num, opb := some b, xreg := true, xpred := true,
          noPartial := true, bad := b.isV }

/-- MMIDX: 32 entries of the warp's index latch. -/
def execMmidx (sc : Scope) (a : Reg) (b : Opb) (s : State) : Host.Outcome State Fault Refusal :=
  issue (mmidxMeta sc a b) s fun s j =>
    (s.uniform j .int b).eff fun y =>
      if 7 < y.toNat then .trap (Trap.plain 1)
      else
        .next (s.put j fun w =>
          { w with idxLatch := Vector.ofFn fun k =>
              if k.val / 32 = y.toNat then
                (if w.exited.getLsbD (k.val % 32) then 0xFFFFFFFF#32 else laneOf (w.row j.a) (k.val % 32))
              else w.idxLatch[k] })

/-! ## ACC (R264) -/

/-- What an ACC function names. -/
def accMeta (sc : Scope) (acc : BitVec 3) (span : BitVec 2) : Meta :=
  { cls := .engine, scope := sc, xreg := true, xpred := true, noPartial := true, bad := groupBad acc span, dep := accDep acc span }

/-- The checks that every ACC function makes of its group and class, then its job. -/
def accIssue (acc : BitVec 3) (span : BitVec 2) (full : Warp → Bool) (s : State) (j : Job) (k : Eff) : Eff :=
  if s.accConflict j.w.core acc.toNat (spanOf span) (s.holderOf j) then .trap (Trap.plain 42)
  else if full j.w then .stall s
  else k

/-- What ACCZ names: a bk other than 0b10 is ILLEGAL_OPERAND whatever b holds (DESIGN CHOICE, log 123). -/
def acczMeta (sc : Scope) (acc : BitVec 3) (span : BitVec 2) (b : Opb) : Meta :=
  let m := accMeta sc acc span
  { m with opb := some b, bad := m.bad || !b.isImm }

/-- ACCZ. -/
def execAccz (sc : Scope) (acc : BitVec 3) (span : BitVec 2) (b : Opb) (s : State) : Host.Outcome State Fault Refusal :=
  issue (acczMeta sc acc span b) s fun s j =>
    accIssue acc span (fun w => classFull w.tileops) s j
      (s.startJob j (s.newJob j 3 acc span 0 .clear) true fun w => w.addTile s.nextUid)

/-- The row and column of a position, refused where R264 refuses them. -/
def accPosition (span : BitVec 2) (y : Word) : Option (Nat × Nat) :=
  let r := (y.extractLsb' 16 9).toNat
  let c := (y.extractLsb' 0 9).toNat
  if y &&& 0xFE00FE00#32 ≠ 0 ∨ groupRows (spanOf span) ≤ r ∨ groupCols (spanOf span) ≤ c + 31 then none else some (r, c)

/-- What ACCRD names. -/
def accrdMeta (sc : Scope) (d : Reg) (acc : BitVec 3) (span : BitVec 2) (b : Opb) : Meta :=
  let m := accMeta sc acc span
  { m with d := d.toNat, nd := 1, b := b.num, opb := some b, bad := m.bad || b.isV }

/-- ACCRD: the lanes are those of the warp that have not exited, in the handler those of stopped splits too. -/
def execAccrd (sc : Scope) (d : Reg) (acc : BitVec 3) (span : BitVec 2) (b : Opb) (s : State) : Host.Outcome State Fault Refusal :=
  issue (accrdMeta sc d acc span b) s fun s j =>
    (s.uniform j .int b).eff fun y =>
      match accPosition span y with
      | none => .trap (Trap.plain 1)
      | some (r, c) =>
        accIssue acc span (fun w => classFull w.loads) s j
          (let op : LoadOp := { LoadOp.taken s.nextUid with kind := .acc, dest := j.d, nreg := 1, lanes := j.w.here, done := false }
           s.startJob j (s.newJob j 0 acc span 0 (.read j.d j.w.here r c)) true fun w => w.addLoad op)

/-- What ACCWR names. -/
def accwrMeta (sc : Scope) (d : Reg) (acc : BitVec 3) (span : BitVec 2) (b : Opb) : Meta :=
  let m := accMeta sc acc span
  { m with d := d.toNat, nd := 1, readD := true, b := b.num, opb := some b, bad := m.bad || b.isV }

/-- ACCWR. -/
def execAccwr (sc : Scope) (d : Reg) (acc : BitVec 3) (span : BitVec 2) (b : Opb) (s : State) : Host.Outcome State Fault Refusal :=
  issue (accwrMeta sc d acc span b) s fun s j =>
    (s.uniform j .int b).eff fun y =>
      match accPosition span y with
      | none => .trap (Trap.plain 1)
      | some (r, c) =>
        accIssue acc span (fun w => classFull w.tileops) s j
          (s.startJob j (s.newJob j 3 acc span 0 (.write (j.w.row j.d) j.w.here r c)) true fun w => w.addTile s.nextUid)

/-- What ACCSCL names. -/
def accsclMeta (sc : Scope) (acc : BitVec 3) (span : BitVec 2) (b : Opb) : Meta :=
  let m := accMeta sc acc span
  { m with b := b.num, opb := some b, bad := m.bad || b.isV }

/-- ACCSCL: the factor is read by the FALU row of R28. -/
def execAccscl (sc : Scope) (acc : BitVec 3) (span : BitVec 2) (b : Opb) (s : State) : Host.Outcome State Fault Refusal :=
  issue (accsclMeta sc acc span b) s fun s j =>
    (s.uniform j .fp32 b).eff fun y =>
      accIssue acc span (fun w => classFull w.tileops) s j
        (s.startJob j (s.newJob j 3 acc span 0 (.scale y)) true fun w => w.addTile s.nextUid)

/-- What a drain names: b is its flags, GANG only in a gang launch. -/
def drainMeta (s : State) (sc : Scope) (h : BitVec 4) (acc : BitVec 3) (span : BitVec 2) (b : Opb) : Meta :=
  let m := accMeta sc acc span
  { m with hs := [h.toNat], opb := some b,
           bad := m.bad || !b.isImm || decide (3 < b.num) || (bitOf b.num 1 && !s.issuerGang) }

/-- A drain at issue: the destination's record, its holder, and every page of its footprint are checked before any effect. -/
def drain (add : Bool) (h : BitVec 4) (acc : BitVec 3) (span : BitVec 2) (b : Opb) (s : State) (j : Job) : Eff :=
  let x := j.w.hreg h
  let gang := bitOf b.num 1
  let sp := spanOf span
  let gr := if gang then j.block.bid / shapeGcols x else 0
  let gc := if gang then j.block.bid % shapeGcols x else 0
  if shapeInvalid j.launch gang (.drain add) x then .trap (Trap.plain 41)
  else
    accIssue acc span (fun w => classFull w.copies) s j
      (let rs := (outerLines x (gr * groupRows sp) (groupRows sp)).flatMap fun o =>
          if shapeOdim x ≤ o then []
          else (kRuns x ((shapeTilek x + gc * groupCols sp) % 2 ^ 32) (groupCols sp)).map (runBytes x o)
       match scratchFail j.launch (if shapeSpace x then [(shapeAlloc x, rs)] else []) with
       | some t => .trap t
       | none =>
         let fn := if shapeFmt x = 0 then 13 else 12
         (s.checkRanges j.ctx (if add then .red else .store) (fun p => add && atomRefused fn p)
            (if shapeSpace x then [] else rs)).eff fun ps =>
           -- an add reads its destination: where that lies in another field, after a release at DEVICE scope (R238)
           let far := add && ps.any fun p => p.2.home != j.w.field
           s.startJob j (s.newJob j 2 acc span (if far then 2 else 1) (.drain x add (bitOf b.num 0) gr gc)) false
             fun w => w.addCopy s.nextUid)

/-- ACCDRN. -/
def execAccdrn (sc : Scope) (h : BitVec 4) (acc : BitVec 3) (span : BitVec 2) (b : Opb) (s : State) :
    Host.Outcome State Fault Refusal :=
  issue (drainMeta s sc h acc span b) s (drain false h acc span b)

/-- ACCDRA. -/
def execAccdra (sc : Scope) (h : BitVec 4) (acc : BitVec 3) (span : BitVec 2) (b : Opb) (s : State) :
    Host.Outcome State Fault Refusal :=
  issue (drainMeta s sc h acc span b) s (drain true h acc span b)

end Sys2Proof.Machine
end

