-- ==== Sys2Proof/Machine/Tasks.lean ====
section
/-! DEFINITION. QAPP (R285 to R287), TDEC, TINC and TRD (R297), and PHQ (R200, R201). -/

namespace Sys2Proof.Machine

open Sys2Proof

/-! ## Releases that wait (R228) -/

/-- Everything a release of a warp at a scope waits for is done. -/
def State.releaseMet (s : State) (u scope : Nat) : Bool :=
  match s.warp? u with
  | none => true
  | some w => (w.released scope).all fun d => s.performed d.1 d.2

/-- A release at a scope that completes before the instruction goes on: the warp's loads complete and its queue drains; the
state and whether it is met (R228). -/
def State.awaitRelease (s : State) (u scope : Nat) : State × Bool :=
  let r := s.awaitLoads u
  let s := r.1.drainAll u 40
  (s, r.2 && s.releaseMet u scope)

/-- A group that releases depends on a lost store (R210). -/
def releaseAt (scope : Nat) (_ : State) (_ : Job) (a : AsyncCause) : Bool := releaseDep scope a

/-! ## QAPP (R285, R286) -/

/-- ISSUER of a warp (R288). -/
def issuerWord (w : Warp) : Word := 0x80000000#32 ||| BitVec.ofNat 32 (w.core % 40 * 256 + w.slot)

/-- The payload of an append: the low s registers from a. -/
def Warp.payload (w : Warp) (a n : Nat) : List Byte := (List.range (n / 4)).flatMap fun k => leBytes 4 (w.sreg (a + k)).toNat

/-- The launch record binds the item queue whose descriptor stands at a key. -/
def State.bindsQueue (s : State) (j : Job) (key : Nat) : Bool :=
  (List.range 4).any fun q =>
    let a : Dword := (j.launch.itemq[q]?).getD 0
    decide (a ≠ 0) && s.keyNow j.ctx a == some key

/-- The counters and classes that a successful append moves (R199, R286). -/
def State.countAppend (s : State) (j : Job) (d : QDesc) (bytes : List Byte) : State :=
  if d.kind = 1 then
    let id := s.nextUid
    let op : PacketOp := { queue := d.key, seq := d.wr, warp := j.w.uid, op := id, space := packetSpace bytes }
    { s with nextUid := id + 1, packetOps := s.packetOps ++ [op] }.put j fun w => w.addCopy id
  else if d.kind = 2 && j.launch.gang && s.bindsQueue j d.key then
    let item : CountedItem := { queue := d.key, seq := d.wr, launch := j.launch.uid }
    { s with counted := s.counted ++ [item] }.modBlock j.block.uid fun b => { b with sent := b.sent + 1 }
  else s

/-- What QAPP names. -/
def qappMeta (sc : Scope) (d : Reg) (a : Reg) (b : Opb) : Meta :=
  { cls := .scalar, scope := sc, opb := some b,
          bad := decide (8 ≤ d.toNat) || decide (a.toNat % 16 ≠ 0) || notS b || decide (b.num % 2 ≠ 0),
          dep := releaseAt 2 }

/-- QAPP (R286): the checks, the release, then claim, write and stamp in one step (log 29). -/
def execQapp (sc : Scope) (d a : Reg) (b : Opb) (s : State) : Host.Outcome State Fault Refusal :=
  issue (qappMeta sc d a b) s fun s j =>
    (s.appendDesc j.ctx (j.w.sreg64 b.num)).eff fun r =>
      match r.2 with
      | none => .trap (Trap.plain 45)
      | some q =>
        if q.kind == 1 && classFull j.w.copies then .stall s
        else
          let m := r.1.awaitRelease j.w.uid 2
          if !m.2 then .stall m.1
          else
            -- the descriptor as it stands once the release is met
            match m.1.readDesc j.ctx .atom (j.w.sreg64 b.num) with
            | .ok (s, some q) =>
              let give : State → State := fun s => s.put j fun w => w.setPred j.live d.toNat (if q.room then 0xFFFFFFFF#32 else 0)
              if !q.room then .next (give s)
              else
                let bytes := j.w.payload a.toNat q.slotBytes
                let bytes := if q.kind = 2 then bytes else withIssuer (issuerWord j.w) bytes
                (s.appendSlot j.ctx q bytes).eff fun s => .next (give (s.countAppend j q bytes))
            | _ => .stall m.1

/-! ## TASK (R297) -/

/-- What TDEC, TINC and TRD name. -/
def taskMeta (sc : Scope) (b : Opb) : Meta := { cls := .scalar, scope := sc, opb := some b, bad := b.isV }

def taskCounter (y : Word) : Nat := (y.extractLsb' 0 8).toNat
def taskIndex (y : Word) : Nat := (y.extractLsb' 8 6).toNat

/-- The queue and counter of a selector, or their cause (R297). -/
def State.taskOf (s : State) (j : Job) (b : Opb) : Got (Queue × Nat) :=
  (s.uniform j .int b).bind fun y =>
    if y &&& 0xFFFFC000#32 ≠ 0 ∨ taskCounter y = 0xFF then .trap (Trap.plain 1)
    else
      match s.taskQueue? j.w.field j.ctx.ctxid (taskIndex y) with
      | none => .trap (Trap.plain 45)
      | some q => .ok (q, taskCounter y)

/-- TDEC: a release at DEVICE scope, then the decrement. -/
def execTdec (sc : Scope) (a : Reg) (b : Opb) (s : State) : Host.Outcome State Fault Refusal :=
  issue { taskMeta sc b with dep := releaseAt 2 } s fun s j =>
    (s.taskOf j b).eff fun t =>
      (s.checkLane j.ctx .atom 4 (t.1.taskAddr t.2) 0).eff fun _ =>
        let m := s.awaitRelease j.w.uid 2
        if m.2 then (m.1.taskDec j.w.field t.1.q t.2 (j.w.sreg a.toNat).toNat).eff fun s => .next s else .stall m.1

/-- TINC: modulo 2^32, relaxed. -/
def execTinc (sc : Scope) (a : Reg) (b : Opb) (s : State) : Host.Outcome State Fault Refusal :=
  issue (taskMeta sc b) s fun s j =>
    (s.taskOf j b).eff fun t =>
      (s.checkLane j.ctx .atom 4 (t.1.taskAddr t.2) 0).eff fun p =>
        let r := s.placeRead p 4
        .next (r.1.placeNat p 4 (leNat r.2 + (j.w.sreg a.toNat).toNat))

/-- TRD. -/
def execTrd (sc : Scope) (d : Reg) (b : Opb) (s : State) : Host.Outcome State Fault Refusal :=
  issue (taskMeta sc b) s fun s j =>
    (s.taskOf j b).eff fun t =>
      (s.checkLane j.ctx .load 4 (t.1.taskAddr t.2) 0).eff fun p =>
        let r := s.placeRead p 4
        .next (r.1.put j fun w => w.setS d.toNat (BitVec.ofNat 32 (leNat r.2)))

/-! ## PHQ (R200, R201) -/

/-- A watched queue that the launch record does not bind. -/
def State.phqUnbound (s : State) (b : Opb) : Bool :=
  match s.issuer.bind s.launchOf with
  | none => true
  | some l => !l.gang || (List.range 4).any fun q => bitOf b.num q && (l.itemq[q]?).getD 0 == 0

/-- What PHQ names. -/
def phqMeta (s : State) (sc : Scope) (a : Reg) (b : Opb) : Meta :=
  { cls := .gathered, scope := sc, opb := some b,
          bad := decide (a ≠ 0) || !b.isImm || decide (16 ≤ b.num) || s.phqUnbound b }

/-- PHQ: the node becomes PASSIVE and its block waits. -/
def execPhq (sc : Scope) (d a : Reg) (b : Opb) (s : State) : Host.Outcome State Fault Refusal :=
  issue (phqMeta s sc a b) s fun s j =>
    let put : Block → Block := fun x =>
      { x with passive := true, phqMask := BitVec.ofNat 4 b.num, phqDst := d.toNat, phqNext := j.next }
    .block (s.modBlock j.block.uid put) .phase

/-- The wait of a PASSIVE block ends: s[d] in every member warp, and every member goes on (R201). -/
def State.phqEnd (s : State) (b : Block) (value : Word) (reset : Bool) : State :=
  let wake : Block → Block := fun x =>
    { x with passive := false, sent := if reset then 0 else x.sent, recv := if reset then 0 else x.recv }
  let ws := s.blockWarps b.uid
  let s := s.modBlock b.uid wake
  ws.foldl (fun s w => (s.modWarp w.uid fun x => x.setS b.phqDst value).finishAt w w.onlySlot .block b.phqNext) s

/-- Some queue of a list has an item; a page that must be waited for is recorded (R393). -/
def State.itemIn (s : State) (c : Context) : List Dword → State × Bool
  | [] => (s, false)
  | a :: rest =>
    match (s.readDesc c .atom a).bind fun r => match r.2 with
      | some d => r.1.slotReady c d
      | none => .ok (r.1, false) with
    | .ok (t, true) => (t, true)
    | .ok (t, false) => t.itemIn c rest
    | .wait t => t.itemIn c rest
    | .trap t => (s.unitMet c.field c.ctxid t.faddr).itemIn c rest

/-- Whether an item is available in a watched queue of a waiting block (R201). -/
def State.phqItem (s : State) (b : Block) : State × Bool :=
  match s.launch? b.launch with
  | none => (s, false)
  | some l =>
    match s.ctx? l.field l.ctx with
    | none => (s, false)
    | some c => s.itemIn c (((List.range 4).filter fun q => b.phqMask.getLsbD q).map fun q => (l.itemq[q]?).getD 0)

/-- The nodes of a gang are all PASSIVE and their counts balance (R202). -/
def State.phaseOver (s : State) (launch : Nat) : Bool :=
  let nodes := s.blocks.filter fun b => b.launch == launch
  let total : (Block → Dword) → Dword := fun f => nodes.foldl (fun t b => t + f b) 0
  decide (nodes ≠ []) && (nodes.all fun b => b.passive || b.state == .retired) && total Block.sent == total Block.recv

end Sys2Proof.Machine
end

