-- ==== Sys2Proof/Machine/EvQueue.lean ====
section
/-! DEFINITION. The queue table (R282), the consumption of launch queues (R283, R288, R289) and the retries of ready tasks (R298).
An event that is not enabled changes nothing. -/

namespace Sys2Proof.Machine

open Sys2Proof

/-! ## Packets (R288, R289) -/

/-- A word of a packet. -/
def pkWord (b : List Byte) (i : Nat) : Nat := recNat b (4 * i) 4

def pkKind (b : List Byte) : Nat := pkWord b 0 % 256
def pkTask (b : List Byte) : Nat := bitsOf (pkWord b 0) 23 16
def pkOrder (b : List Byte) : Bool := bitOf (pkWord b 0) 9

/-- The 64-bit address in words i and i + 1. -/
def pkAddr (b : List Byte) (i : Nat) : Dword := recAddr b (4 * i)

/-- The header or ISSUER breaks R288. -/
def pkHeadBad (b : List Byte) : Bool :=
  decide (pkWord b 0 / 2 ^ 24 ≠ 0) || decide (bitsOf (pkWord b 0) 15 10 ≠ 0) || bitOf (pkWord b 0) 8 ||
  !(decide (pkWord b 1 = 0) ||
    (bitOf (pkWord b 1) 31 && decide (bitsOf (pkWord b 1) 30 14 = 0) && decide (bitsOf (pkWord b 1) 7 6 = 0)))

/-- A word that the kind does not name is not 0 (R289); `used` are the words it names. -/
def pkRestBad (b : List Byte) (used : List Nat) : Bool :=
  ((List.range 16).drop 2).any fun i => !used.contains i && decide (pkWord b i ≠ 0)

/-! ## Attaching and detaching (R282) -/

/-- The host's write of an entry, ENABLE in word 3. -/
def State.queueWords (s : State) (f q ctx : Nat) (desc : Dword) (on : Bool) : State :=
  let s := s.setReg f (queueReg q 0) (loWord desc)
  let s := s.setReg f (queueReg q 1) (hiWord desc)
  let s := s.setReg f (queueReg q 2) (BitVec.ofNat 32 ctx)
  s.setReg f (queueReg q 3) (if on then 1 else 0)

/-- A detached entry is written with ENABLE 1: it is attached when its descriptor and CTXID are valid. Where the descriptor's page must be
waited for the write waits with it. -/
def State.attach (s : State) (f q ctx : Nat) (desc : Dword) : State :=
  let refuse : State → State := fun s => (s.queueWords f q ctx desc true).queueStatus f q 2
  match s.ctx? f ctx with
  | none => refuse s
  | some c =>
    match s.readDesc c .load desc with
    | .ok (s, some d) =>
      if 2 ≤ d.kind then refuse s
      else
        let x : Queue := { field := f, q := q, state := .attached, ctx := ctx, desc := desc, kind := d.kind, taskTab := d.tasks }
        ({ s with queues := s.queues ++ [x] } : State).queueWords f q ctx desc true |>.queueStatus f q 0
    | .ok (s, none) => refuse s
    | .wait s => s
    | .trap t => refuse (s.unitMet f ctx t.faddr)

/-- QUEUE_ATTACH. -/
def execQueueAttach (field q ctx : Nat) (desc : Dword) (s : State) : Host.Outcome State Fault Refusal :=
  if 64 ≤ q ∨ !s.hostReach field ∨ (s.queue? field q).isSome then .next s else .next (s.attach field q ctx desc)

/-- QUEUE_DETACH: the consumer starts no further packet. -/
def execQueueDetach (field q : Nat) (s : State) : Host.Outcome State Fault Refusal :=
  match s.queue? field q with
  | none => .next s
  | some x =>
    if x.state = .attached ∧ s.hostReach field then
      let off := s.reg field (queueReg q 3) &&& 0xFFFFFFFE#32
      let close : Queue → Queue := fun y => { y with state := .closing }
      .next ((s.setReg field (queueReg q 3) off).modQueue field q close)
    else .next s

/-- A packet of the queue has started and has not completed. -/
def State.queueBusy (s : State) (f q : Nat) : Bool :=
  (s.copies.any fun c => c.field == f && c.queue == some q) ||
  (s.launches.any fun l => l.field == f && l.origin == .queue q) ||
  s.graphs.any fun g => g.field == f && g.queue == q

/-- QUEUE_CLOSED. -/
def execQueueClosed (field q : Nat) (s : State) : Host.Outcome State Fault Refusal :=
  match s.queue? field q with
  | none => .next s
  | some x => .next (if x.state == .closing && !s.queueBusy field q then s.detach field q else s)

/-! ## Consuming (R283) -/

/-- The consumer moves past a slot: RDIDX + 1 (R283). -/
def State.freeSlot (s : State) (d : QDesc) : State := s.putNat (d.key + 24) 8 (d.rd + 1)

/-- A slot that a consumer takes next, with its bytes; `none` for bytes that cannot be read. -/
structure Head where
  s : State
  c : Context
  d : QDesc
  bytes : Option (List Byte)

/-- The descriptor of a queue whose next slot is stamped. -/
def State.readyDesc (s : State) (c : Context) (x : Queue) : Got (State × Option QDesc) :=
  (s.readQueue c .atom x.desc).bind fun r =>
    match r.2 with
    | some d => (r.1.slotReady c d).bind fun y => .ok (y.1, if y.2 then some d else none)
    | none => .ok (r.1, none)

/-- The next stamped slot of an attached queue, if there is one (R283); a page that must be waited for is recorded (R393). -/
def State.head (s : State) (f q : Nat) : State × Option (Queue × Head) :=
  match s.queue? f q with
  | none => (s, none)
  | some x =>
    match s.ctx? f x.ctx with
    | none => (s, none)
    | some c =>
      if x.state ≠ .attached ∨ c.state = .killed then (s, none)
      else
        match s.readyDesc c x with
        | .wait s => (s, none)
        | .trap t => (s.unitMet f x.ctx t.faddr, none)
        | .ok (s, none) => (s, none)
        | .ok (s, some d) =>
          match s.readRecord c (d.slotAddr d.rd) 1 with
          | .ok r => (r.1, some (x, { s := r.1, c := c, d := d, bytes := some r.2 }))
          | .trap t => (s, some (x, { s := s.unitMet f x.ctx t.faddr, c := c, d := d, bytes := none }))
          | .wait s => (s, none)

/-- A packet of a launch queue is dropped, with QUEUE_RECORD in the host record (R291). -/
def Head.drop (h : Head) : State := (h.s.freeSlot h.d).kilnRecord h.c.field h.c.ctxid 45 0

/-- A launch as its packet is read, SUBMITTED (R301). -/
def Head.launch (h : Head) (x : Queue) (b : List Byte) : State :=
  let s := h.s.freeSlot h.d
  let l : Launch := { launchOfRecord [] h.c s.nextUid (.queue x.q) (pkAddr b 2) with
    task := pkTask b, barrier := pkOrder b, order := h.d.rd }
  { s with nextUid := s.nextUid + 1, launches := s.launches ++ [l] }

/-- A graph as its packet is read, SUBMITTED (R314). -/
def Head.graph (h : Head) (x : Queue) (b : List Byte) : State :=
  let s := h.s.freeSlot h.d
  let g : Graph :=
    { uid := s.nextUid, field := x.field, ctx := x.ctx, queue := x.q, order := h.d.rd, task := pkTask b, barrier := pkOrder b,
      state := .submitted, addr := pkAddr b 2, header := [], nodes := [], kinfos := [], ress := [], cursor := 0, loops := [],
      insts := [], slots := [], status := 0, relIdx := 0, retIdx := 0, writers := [] }
  { s with nextUid := s.nextUid + 1, graphs := s.graphs ++ [g] }

/-- A NOP of a launch queue completes at once (R289), after the packets before it where it has ORDER (R288), and once its TASK counter can
be decremented. -/
def Head.nop (h : Head) (x : Queue) (b : List Byte) : State :=
  let r := h.s.unitDec x.field x.q (pkTask b)
  if r.2 then r.1.freeSlot h.d else r.1

/-- The Kiln reads the next packet of a launch queue. -/
def State.consume (s : State) (f q : Nat) : State :=
  match s.head f q with
  | (s, none) => s
  | (s, some (x, h)) =>
    if x.kind ≠ 0 then s
    else
      match h.bytes with
      | none => h.drop
      | some b =>
        if pkHeadBad b then h.drop
        else
          match pkKind b with
          | 0 => if pkRestBad b [] then h.drop else if pkOrder b && s.queueBusy f q then s else h.nop x b
          | 1 => if pkRestBad b [2, 3] then h.drop else h.launch x b
          | 2 => if pkRestBad b [2, 3] then h.drop else h.graph x b
          | _ => h.drop

/-- QUEUE_CONSUME: the Kiln takes the next packet of a launch queue; a copy queue's slot is freed when its packet starts, and an item
queue's by REFILL (R283). -/
def execQueueConsume (field q : Nat) (s : State) : Host.Outcome State Fault Refusal := .next (s.consume field q)

/-- TASK_APPEND_RETRY: what is left to do for the k-th waiting task is tried again (R298). -/
def execTaskAppendRetry (k : Nat) (s : State) : Host.Outcome State Fault Refusal :=
  match s.taskRetry[k]? with
  | none => .next s
  | some t =>
    match (s.queue? t.field t.q).bind fun x => s.ctx? x.field x.ctx with
    | none => .next s
    | some c =>
      let s : State := { s with taskRetry := s.taskRetry.eraseIdx k }
      match t.work with
      | .fetch a => .next (s.fireTask c t.field t.q a)
      | .append packet => .next (s.appendTask c t.field t.q packet)

end Sys2Proof.Machine
end

