-- ==== Sys2Proof/Machine/Reader.lean ====
section
/-! DEFINITION. Loads that complete as their instruction issues: those of VISLD, VISDEC and IMGLD (R344 to R350), and FORK's read of its
record (R308). -/

namespace Sys2Proof.Machine

open Sys2Proof

/-! ## Loads that complete as they issue -/

/-- What the lanes of such an instruction have read so far: the state, and the lanes that met a faulty line (R210). -/
structure Reader where
  s : State
  faults : List (Nat × Nat × Dword)

/-- Read n bytes at an address for a lane, as a relaxed load of the warp that completes now (R214, R219, R220). -/
def Reader.load (r : Reader) (j : Job) (lane n : Nat) (a : Dword) : Got (Reader × List Byte) :=
  (r.s.checkLane j.ctx .load n a lane).bind fun p =>
    match r.s.warp? j.w.uid with
    | none => .wait r.s
    | some w =>
      let acc := p.acc lane a
      let ls := acc.lines n
      let got := r.s.loadBytes w w.seq acc n
      if (r.s.areqs.any fun q => q.warp == w.uid && !q.applied && ls.contains q.line) || got.any Option.isNone then .wait r.s
      else
        let homeKeys := ((acc.keys n).zip got).filterMap fun kb => if (kb.2.getD (0, false)).2 then some kb.1 else none
        let s := r.s.roundShadows homeKeys
        let bytes := (s.loadBytes w w.seq acc n).map fun o => (o.getD (0, false)).1
        let see : Warp → Warp := fun w => { w with seen := addNats w.seen (s.readOps w (acc.keys n)) }
        let s' := ls.foldl (fun s l => (s.fetchLocal w.field acc.isLocal l).fillL1 w.core false false acc l) s
        let bad := match s.lineFault ls with
          | some c => [(lane, c, a)]
          | none => []
        .ok ({ s := s'.modWarp w.uid see, faults := r.faults ++ bad }, bytes)

/-- Read a little-endian number. -/
def Reader.nat (r : Reader) (j : Job) (lane n : Nat) (a : Dword) : Got (Reader × Nat) :=
  (r.load j lane n a).bind fun x => .ok (x.1, leNat x.2)

/-- Read k words at an address. -/
def Reader.words (r : Reader) (j : Job) (lane : Nat) (a : Dword) : Nat → Got (Reader × List Word)
  | 0 => .ok (r, [])
  | k + 1 =>
    (r.nat j lane 4 a).bind fun x =>
      (x.1.words j lane (a + 4) k).bind fun y => .ok (y.1, BitVec.ofNat 32 x.2 :: y.2)

/-- Every lane in ascending order. -/
def Reader.lanes (r : Reader) (f : Reader → Nat → Got (Reader × List Word)) : List Nat → Got (Reader × List (Nat × List Word))
  | [] => .ok (r, [])
  | i :: rest =>
    (f r i).bind fun x => (x.1.lanes f rest).bind fun y => .ok (y.1, (i, x.2) :: y.2)

/-- Write n registers from d in the lanes that met no faulty line, and count one operation of the loads class (R144); the faulty
lanes give asynchronous causes, one for each code (R210). -/
def Reader.finish (r : Reader) (j : Job) (n : Nat) (vals : List (Nat × List Word)) : State :=
  let bad := maskOf fun i => r.faults.any fun f => f.1 == i
  let id := r.s.nextUid
  let word : Nat → Nat → Word := fun k i => ((vals.find? fun x => x.1 == i).map fun x => x.2.getD k 0).getD 0
  let lost : Warp → List AsyncCause := fun w => (r.faults.map fun f => f.2.1).eraseDups.map fun code =>
    let fs := r.faults.filter fun f => f.2.1 == code
    let m := maskOf fun i => fs.any fun f => f.1 == i
    { op := id, ord := w.ordOf 0, code := code, faddr := ((fs.head?).map fun f => f.2.2).getD 0, lane := ((fs.head?).map fun f => f.1).getD 0,
      kind := .load, seq := w.seq, firstReg := j.d, nreg := n, lanes := m, zero := (List.range n).map fun k => (j.d + k, m),
      gmode := false, kept := false, wins := [], accs := [], buf := none }
  { r.s with nextUid := id + 1 }.put j fun w =>
    let w' := (List.range n).foldl (fun (w : Warp) k => w.setRow (j.live &&& ~~~bad) (j.d + k) (rowOf (word k))) w
    { w'.addLoad (LoadOp.taken id) with asyncs := w'.asyncs ++ lost w }

/-- The cause that an instruction meets which depends on its own reads: the first faulty line (R210). -/
def Reader.lost (r : Reader) : Option Trap := (r.faults.head?).map fun f => { Trap.at f.2.1 f.2.2 f.1 with async := true }

/-- The reads of an instruction begin once the loads before it have taken their values. -/
def State.readsOf (s : State) (j : Job) (go : Reader → Eff) : Eff :=
  let s := s.settleAll j.w.uid 256
  match s.warp? j.w.uid with
  | none => .next s
  | some w => if w.loads.any LoadOp.pendingMem || w.acquiring w.seq then .stall s else go { s := s, faults := [] }

/-- An instruction that loads in every live lane, once the class has room. -/
def State.laneLoads (s : State) (j : Job) (n : Nat) (f : Reader → Nat → Got (Reader × List Word)) : Eff :=
  if j.live = 0 then .next s
  else if classFull j.w.loads then .stall s
  else s.readsOf j fun r => (r.lanes f (lanesOf j.live)).eff fun x => .next (x.1.finish j n x.2)

/-- Read k units of 64 bytes at an address, in lane 0. -/
def Reader.units (r : Reader) (j : Job) (a : Dword) : Nat → Got (Reader × List Byte)
  | 0 => .ok (r, [])
  | k + 1 => (r.load j 0 64 a).bind fun x => (x.1.units j (a + 64) k).bind fun y => .ok (y.1, x.2 ++ y.2)

end Sys2Proof.Machine
end

