-- ==== Sys2Proof/Machine/Flow.lean ====
section
/-! DEFINITION. GROW (R174 to R178), FORK (R307 to R309), JOIN (R310) and the regions of NPRE and NPREX (R312). -/

namespace Sys2Proof.Machine

open Sys2Proof

/-! ## GROW -/

/-- The registers a warp holds from one number to another read 0 (R102). -/
def Warp.zeroRegs (w : Warp) (lo hi : Nat) : Warp :=
  { w with v := Vector.ofFn fun i => if lo ≤ i.val ∧ i.val < hi then splat 0 else w.v[i] }

/-- The allocation of a warp becomes n: new registers read 0 (R175). -/
def Warp.setAlloc (w : Warp) (n : Nat) : Warp := { w.zeroRegs w.alloc n with alloc := n }

/-- The outstanding loads into the registers that a warp gives up. -/
def LoadOp.intoTop (n alloc : Nat) (op : LoadOp) : Bool :=
  !op.done && op.kind != .hreg && op.kind.writes && overlap n (alloc - n) op.dest op.nreg

/-- Complete the loads into registers that a warp gives up: none while it must wait (R175). -/
def State.settleTop (s : State) (w : Warp) (n : Nat) : Option State :=
  match (w.loads.filter (LoadOp.intoTop n w.alloc)).getLast? with
  | none => some s
  | some op =>
    match s.settleTo w.uid op.seq 256 with
    | none => none
    | some s' =>
      match s'.warp? w.uid with
      | none => none
      | some w' => if w'.loads.any (LoadOp.intoTop n w.alloc) then none else some s'

/-- GROW (R174, R175). A bad n is found at execution, after any rendezvous, with FADDR 0, for an immediate or literal n too (DEDUCED, log 129). -/
def execGrow (sc : Scope) (p : BitVec 3) (b : Opb) (s : State) : Host.Outcome State Fault Refusal :=
  issue { cls := .scalar, scope := sc, opb := some b, bad := b.isV } s fun s j =>
    (s.uniform j .int b).eff fun y =>
      let n := y.toNat
      if n % 16 ≠ 0 ∨ n < 16 ∨ 128 < n then .trap (Trap.plain 1)
      else if j.launch.regsMax < n then .trap (Trap.plain 15)
      else if n ≤ j.w.alloc then
        match s.settleTop j.w n with
        | none => .stall s
        | some s => .next (s.put j fun w => (w.setAlloc n).setPred j.live p.toNat 0xFFFFFFFF#32)
      else .block (s.put j fun w => { w with growReq := some n }) (.grow p.toNat j.live j.scope j.next)

/-! ## FORK -/

/-- The outstanding children of a field (R308). -/
def State.childCount (s : State) (f : Nat) : Nat :=
  (s.launches.filter fun l => l.field == f && match l.origin with
    | .fork _ => true
    | _ => false).length

/-- The child's launch (R308): a depth more than its parent's, charged to its parent's queue. -/
def Job.childOf (j : Job) (bytes : List Byte) (addr : Dword) : Launch :=
  { launchOfRecord bytes j.ctx 0 (.fork j.block.uid) addr with depth := j.launch.depth + 1 }

/-- What FORK names. -/
def forkMeta (sc : Scope) (d : Reg) (a : Reg) (b : Opb) : Meta :=
  { cls := .scalar, scope := sc, opb := some b,
          bad := decide (8 ≤ d.toNat) || a.getLsbD 0 || decide (b ≠ .v 0), dep := releaseAt 1 }

/-- FORK (R307, R308): the record, read as a load of the warp that FORK itself depends on (R210, log 40), its checks and the limits, the release, then the child is ACCEPTED if
the child table has room. -/
def execFork (sc : Scope) (d a : Reg) (b : Opb) (s : State) : Host.Outcome State Fault Refusal :=
  issue (forkMeta sc d a b) s fun s j => s.readsOf j fun x =>
    ((x.units j (j.w.sreg64 a.toNat) 4).bind fun y =>
      match y.1.lost with
      | some t => .trap t
      | none => y.1.s.judgeRecord j.ctx [0] (j.w.sreg64 a.toNat) y.2).eff fun r =>
      if !r.2.2 then .trap (Trap.plain 45)
      else if 16 ≤ j.block.children ∨ 8 < j.launch.depth + 1 then .trap (Trap.plain 14)
      else
        let m := r.1.awaitRelease j.w.uid 1
        if !m.2 then .stall m.1
        else
          let s := m.1
          let ok := decide (s.childCount j.w.field < 1024)
          let s := if ok then
              (s.addLaunch (j.childOf r.2.1 (j.w.sreg64 a.toNat))).modBlock j.block.uid fun x => { x with children := x.children + 1 }
            else s
          .next (s.put j fun w => w.setPred j.live d.toNat (if ok then 0xFFFFFFFF#32 else 0))

/-! ## Groups that wait for everything their warps have started -/

/-- A lost store of a warp, for the groups that depend on any (R210). -/
def lostStoreDep (_ : State) (_ : Job) (a : AsyncCause) : Bool := a.kind == .store

/-- Loads, rays and returns are complete and the queue is empty (R223). -/
def Warp.idle (w : Warp) : Bool := w.sq.isEmpty && w.loads.all fun op => op.done

/-- Drain and settle the members of a group; whether nothing of theirs is left outstanding (R223, R365, R370). -/
def State.quiesceAll (s : State) (ws : List Warp) : State × Bool :=
  let s := ws.foldl (fun s w => s.quiesce w.uid) s
  (s, ws.all fun w => match s.warp? w.uid with
    | some x => x.idle
    | none => true)

/-- Nothing of a block is queued for its scratchpad, in a copy queue or at its banks, or runs in an engine (R310). -/
def State.blockSettled (s : State) (b : Nat) : Bool :=
  let us := (s.warps.filter fun w => w.block == b).map (·.uid)
  (s.engine.all fun e => e.block != b) && (s.copies.all fun c => c.block != b || c.fault.isSome) &&
  (s.packetOps.all fun p => !us.contains p.warp || p.space == 0) &&
  match s.block? b with
  | some x => x.bankq.isEmpty
  | none => true

/-! ## JOIN -/

/-- The accumulators of a block leave its core with its image, and so do the engine operations that wait (R255, R275, R310). -/
def State.stowAccums (s : State) (b : Block) : State :=
  let us := (s.warps.filter fun w => w.block == b.uid).map (·.uid)
  let mine : Accum → Bool := fun a => match a.holder with
    | .warp u => us.contains u
    | .set k _ => k == b.uid
    | .block k => k == b.uid
  let keep := s.accums.filter mine
  let jobs := s.engine.filter fun e => e.block == b.uid
  ({ s with accums := s.accums.filter fun a => !mine a, engine := s.engine.filter fun e => e.block != b.uid }).modBlock b.uid
    fun x => { x with accums := keep, jobs := jobs }

/-- The accumulators and engine operations of a block return, on the core it now has. -/
def State.unstowAccums (s : State) (b : Block) (core : Nat) : State :=
  let back := b.accums.map fun a => { a with core := core }
  let jobs := b.jobs.map fun e => { e with core := core }
  ({ s with accums := s.accums ++ back, engine := s.engine ++ jobs }).modBlock b.uid fun x => { x with accums := [], jobs := [] }

/-- JOIN (R310). The image goes into the context's spawn memory, in columns that the part chooses; its size is left open (log 87), and where
the spawn memory that is free cannot hold it the block waits in place. -/
def execJoin (sc : Scope) (s : State) : Host.Outcome State Fault Refusal :=
  issue { cls := .gathered, scope := sc, dep := lostStoreDep } s fun s j =>
    if j.block.children = 0 then .next s
    else
      let r := s.quiesceAll j.members
      if !r.2 || !r.1.blockSettled j.block.uid then .stall r.1
      else
        let owner : SpawnOwner := .image j.block.uid
        match r.1.holdSpawn j.w.field owner ((r.1.someWord 0).toNat + 1) (r.1.spawnOrder j.ctx 1) with
        | none => .block r.1 .join
        | some s =>
          let cs := s.spawnColumns owner
          if !cs.all fun c => s.ownsRange j.ctx (spawnRange j.ctx c) then .stall r.1
          else
            let swap : Block → Block := fun x => { x with state := .swapped, image := true }
            let s := cs.foldl (fun s c => s.writeOwn j.ctx c (spawnRange j.ctx c)) s
            .next ((s.stowAccums j.block).modBlock j.block.uid swap)

/-! ## Regions (R312) -/

/-- NPRE. -/
def execNpre (sc : Scope) (s : State) : Host.Outcome State Fault Refusal :=
  issue { cls := .scalar, scope := sc } s fun s j =>
    if 15 ≤ j.w.region then .trap (Trap.plain 1) else .next (s.put j fun w => { w with region := w.region + 1 })

/-- NPREX. -/
def execNprex (sc : Scope) (s : State) : Host.Outcome State Fault Refusal :=
  issue { cls := .scalar, scope := sc } s fun s j => .next (s.put j fun w => { w with region := w.region - 1 })

end Sys2Proof.Machine
end

