-- ==== Sys2Proof/Machine/Threads.lean ====
section
/-! DEFINITION. Threads that move between lanes: REFORM (R364 to R366), REFILL (R181 to R183) and the packing of a block that
resumes after JOIN (R311). -/

namespace Sys2Proof.Machine

open Sys2Proof

/-! ## Threads (R365, R374) -/

/-- Bits of a function. -/
def bits8 (f : Nat → Bool) : BitVec 8 := (List.range 8).foldl (fun m i => if f i then m ||| ((1#8) <<< i) else m) 0#8

/-- The thread in a lane. -/
def Warp.thread (w : Warp) (i : Nat) : Thread :=
  { v := Vector.ofFn fun r => laneOf w.v[r] i
    p := bits8 fun q => ((w.p[q]?).getD 0).getLsbD i
    stack := w.stack i
    logid := laneOf w.logid i
    rank := laneOf w.rank i
    lineage := laneOf64 w.lineage i
    parent := laneOf w.parent i
    ray := (w.rays[i]?).getD none }

/-- Change one lane of a mask. -/
def maskPut (m : LaneMask) (i : Nat) (x : Bool) : LaneMask := if x then m ||| laneBit i else m &&& ~~~laneBit i

/-- Put a thread in a lane, which is then no exited lane. -/
def Warp.putThread (w : Warp) (i : Nat) (t : Thread) : Warp :=
  { w with
    v := Vector.ofFn fun r => setLane w.v[r] i t.v[r]
    p := Vector.ofFn fun q => if q.val = 0 then w.p[q] else maskPut w.p[q] i (t.p.getLsbD q.val)
    rstack := w.rstack.setIfInBounds i t.stack
    logid := setLane w.logid i t.logid
    rank := setLane w.rank i t.rank
    lineage := setLane64 w.lineage i t.lineage
    parent := setLane w.parent i t.parent
    rays := w.rays.setIfInBounds i t.ray
    exited := w.exited &&& ~~~laneBit i }

/-- A thread with nothing in it: what REFILL starts a lane with (R182, R183). -/
def Thread.empty (logid : Word) : Thread :=
  { v := Vector.ofFn fun _ => 0, p := 0, stack := [], logid := logid, rank := 0xFFFFFFFF#32, lineage := 0xFFFFFFFFFFFFFFFF#64,
    parent := 0xFFFFFFFF#32, ray := none }

/-- The non-exited threads of some warps with a sort key. -/
def threadsOf (ws : List Warp) (key : Warp → Nat → Nat) : List (Nat × Thread) :=
  ws.flatMap fun w => (lanesOf w.here).map fun i => (key w i, w.thread i)

/-- Put up to 32 threads in a warp, from lane 0; every other lane is exited, and the one split that is left holds the placed
lanes. -/
def Warp.seat (w : Warp) (slot : Nat) (ts : List Thread) : Warp :=
  let w : Warp := { w with exited := 0xFFFFFFFF#32, rstack := Vector.ofFn fun _ => [], rays := Vector.ofFn fun _ => none }
  let w := ts.zipIdx.foldl (fun (w : Warp) (t : Thread × Nat) => w.putThread t.2 t.1) w
  w.modSplit slot fun x => { x with mask := w.here }

/-! ## REFORM (R364, R365) -/

/-- The columns of a partition in a core's quadrant. -/
def quadrantColumns (c : Context) (core : Nat) : List Nat :=
  ((List.range 10).map fun k => core % 40 / 10 * 10 + k).filter fun n => c.coremask.getLsbD n

/-- Free spawn memory is too small for a REFORM of t threads with n registers (R364). -/
def State.reformFull (s : State) (j : Job) (t n : Nat) : Bool :=
  decide (((quadrantColumns j.ctx j.w.core).map (s.spawnRoom j.w.field)).foldl (· + ·) 0 < t * (4 * n + 128))

/-- Place the sorted threads in the members, 32 to each, and give each member that has any the count (R365). A faulted load that is still
pending does not follow its thread (log 133). -/
def State.reseat (s : State) (j : Job) (d t : Nat) : List Warp → List Thread → State
  | [], _ => s
  | w :: rest, ts =>
    let slot := if w.uid = j.w.uid then j.slot else w.onlySlot
    let mine := ts.take 32
    let s := s.modWarp w.uid fun x =>
      let x := x.seat slot mine
      if mine.isEmpty then x else x.setS d (BitVec.ofNat 32 t)
    s.reseat j d t rest (ts.drop 32)

/-- What REFORM names. -/
def reformMeta (sc : Scope) (a : Reg) (b : Opb) : Meta :=
  { cls := .engine, scope := sc, a := a.toNat, na := 1, opb := some b, xreg := true, xpred := true, noPartial := true,
          bad := decide (b ≠ .imm 0), dep := lostStoreDep }

/-- REFORM. -/
def execReform (sc : Scope) (d a : Reg) (b : Opb) (s : State) : Host.Outcome State Fault Refusal :=
  issue (reformMeta sc a b) s fun s j =>
    if j.members.any fun w => w.alloc != j.w.alloc then .trap (Trap.plain 1)
    else
      let ts := threadsOf j.members fun w i => (laneOf (w.row j.a) i).toNat * 2 ^ 32 + (laneOf w.logid i).toNat
      if s.reformFull j ts.length j.w.alloc then .trap (Trap.plain 49)
      else
        let r := s.quiesceAll j.members
        let us := j.members.map (·.uid)
        let queued := match s.block? j.block.uid with
          | some b => b.bankq.any fun q => us.contains q.warp
          | none => false
        if !r.2 || queued then .stall r.1
        else
          let ms := j.members.filterMap fun w => r.1.warp? w.uid
          let ts := threadsOf ms fun w i => (laneOf (w.row j.a) i).toNat * 2 ^ 32 + (laneOf w.logid i).toNat
          let sorted := (sortBy (fun (x : Nat × Thread) => x.1) ts).map fun (x : Nat × Thread) => x.2
          let s := r.1.reseat j d.toNat sorted.length ms sorted
          let s := s.finish { cls := .engine, scope := sc } j
          .done (ms.foldl (fun s w => match s.warp? w.uid with
            | some x => if x.here = 0 then s.vacate x else s
            | none => s) s)

/-! ## REFILL (R181 to R183) -/

/-- A queue number that the launch record does not bind, or a population launch. -/
def State.refillBad (s : State) (b : Opb) : Bool :=
  match s.issuer.bind s.launchOf with
  | none => true
  | some l => l.kind == 2 || (l.itemq[b.num]?).getD 0 == 0

/-- Pop the oldest item of a queue: its words and sequence number; none when it holds no item whose append has completed. -/
def State.popItem (s : State) (j : Job) (a : Dword) : Option (State × List Word × Nat) :=
  match s.readDesc j.ctx .atom a with
  | .ok (s, some q) =>
    match (s.slotReady j.ctx q).bind fun r => if r.2 then (r.1.getVirt j.ctx (q.slotAddr q.rd) 16).bind fun x => .ok (some x) else .ok none with
    | .ok (some r) =>
      let s := r.1.putNat (q.key + 24) 8 (q.rd + 1)
      let mine : CountedItem → Bool := fun x => x.queue == q.key && x.seq == q.rd
      let counts := j.launch.gang && s.counted.any fun x => mine x && x.launch == j.launch.uid
      let s : State := { s with counted := s.counted.filter fun x => !mine x }
      let s := if counts then s.modBlock j.block.uid fun x => { x with recv := x.recv + 1 } else s
      some (s, (List.range 4).map fun k => BitVec.ofNat 32 (recNat r.2 (4 * k) 4), q.rd)
    | _ => none
  | _ => none

/-- The thread that an item starts in a lane. -/
def Job.refillThread (j : Job) (words : List Word) (seq : Nat) : Thread :=
  let t := Thread.empty (BitVec.ofNat 32 (j.launch.griddim.toNat * (32 * j.launch.warps) + seq))
  { t with v := Vector.ofFn fun r => if j.d ≤ r.val ∧ r.val < j.d + 4 then words.getD (r.val - j.d) 0 else 0 }

/-- Fill the vacant lanes of a list of (warp, slot, lane); the lanes filled. -/
def State.refillLanes (s : State) (j : Job) (q : Dword) : List (Nat × Nat × Nat) → State × List (Nat × Nat)
  | [] => (s, [])
  | (u, slot, i) :: rest =>
    match s.popItem j q with
    | none => (s, [])
    | some (s, words, seq) =>
      let put : Warp → Warp := fun w =>
        (w.putThread i (j.refillThread words seq)).modSplit slot fun x => { x with mask := x.mask ||| laneBit i }
      let r := (s.modWarp u put).refillLanes j q rest
      (r.1, (u, i) :: r.2)

/-- What REFILL names. A bk that names no immediate raises ILLEGAL_OPERAND (log 131). -/
def refillMeta (s : State) (sc : Scope) (d : Reg) (b : Opb) : Meta :=
  { cls := .engine, scope := sc, d := d.toNat, nd := 4, opb := some b, xreg := true, xpred := true, noPartial := true,
          bad := decide (d.toNat % 4 ≠ 0) || !b.isImm || decide (4 ≤ b.num) || s.refillBad b, dep := lostStoreDep }

/-- REFILL (R182): s[a] receives the lanes filled, in a warp that filled any, and 0 in one that filled none. -/
def execRefill (sc : Scope) (d a : Reg) (b : Opb) (s : State) : Host.Outcome State Fault Refusal :=
  issue (refillMeta s sc d b) s fun s j =>
    let q : Dword := (j.launch.itemq[b.num]?).getD 0
    (s.readDesc j.ctx .atom q).eff fun r =>
      match r.2 with
      | none => .trap (Trap.plain 45)
      | some qd =>
        (s.checkRing j.ctx qd).eff fun _ =>
          let m := s.quiesceAll j.members
          if !m.2 then .stall m.1
          else
            let spots := j.members.flatMap fun w =>
              (lanesOf w.exited).map fun i => (w.uid, (if w.uid = j.w.uid then j.slot else w.onlySlot), i)
            let f := m.1.refillLanes j q spots
            let give : State → Warp → State := fun s w =>
              let n := if f.2.any fun x => x.1 == w.uid then f.2.length else 0
              s.modWarp w.uid fun x => x.setS a.toNat (BitVec.ofNat 32 n)
            -- a slot is read as an acquire at DEVICE scope (R283)
            .next (j.members.foldl give (if f.2.isEmpty then f.1 else f.1.acquire j.w.core 2))

/-! ## Resuming after JOIN (R311) -/

/-- What a warp takes from the former warp of its lowest thread: scalar state, h registers, MASK, CWIN and index latch (and
handler bank and region depth, log 30). -/
def Warp.takeScalars (w : Warp) (x : Warp) : Warp :=
  { w with s := x.s, h := x.h, mask := x.mask, cwin := x.cwin, idxLatch := x.idxLatch, bank := x.bank, region := x.region,
           stepFlag := x.stepFlag, stepDue := x.stepDue.map fun _ => 0 }

/-- The former warps of a block by index, each with the threads, and their former warps, that are packed into it in ascending LOGID (R311). -/
def State.packPlan (s : State) (b : Block) : List (Warp × List (Warp × Thread)) :=
  let old := sortBy (·.wid) (s.warps.filter fun w => w.block == b.uid)
  let ts := old.flatMap fun w => (lanesOf w.here).map fun i => ((laneOf w.logid i).toNat, w, w.thread i)
  let sorted := (sortBy (fun (x : Nat × Warp × Thread) => x.1) ts).map fun (x : Nat × Warp × Thread) => x.2
  old.map fun w => (w, (sorted.drop (32 * w.wid)).take 32)

/-- The registers that each packed warp of a block takes: the largest allocation of its threads' former warps (log 30); an empty one of a population
is dormant, and keeps its slot and its own (R369). -/
def State.packAllocs (s : State) (b : Block) : List Nat :=
  let sleeps := (s.launch? b.launch).any fun l => l.kind == 2
  (s.packPlan b).filterMap fun x =>
    if x.2.isEmpty then (if sleeps then some x.1.alloc else none) else some ((x.2.map fun (y : Warp × Thread) => y.1.alloc).foldl max 0)

/-- Pack the threads of a block's former warps, in ascending LOGID, into its warps on a core. A warp left empty counts as ended,
or is dormant in a population (R369). A warp's allocation is the largest of its threads' former ones; a thread keeps in the registers
above its own former allocation what they last held (log 85), and no faulted load that is still pending follows it (log 133). -/
def State.packBlock (s : State) (b : Block) (core : Nat) : State :=
  let plan := s.packPlan b
  let slots := s.freeSlots core
  let pc := (((plan.map (·.1)).filter fun w => w.here != 0).head?.bind fun w => (w.split? w.onlySlot).map (·.pc)).getD 0
  let new := plan.map fun p =>
    let w := p.1
    match p.2 with
    | [] =>
      if (s.launch? b.launch).any fun l => l.kind == 2 then
        { w.sleep with core := core, slot := slots.getD w.wid 0, exited := 0xFFFFFFFF#32 }
      else { w with mode := .ended, slots := Vector.ofFn fun _ => none, exited := 0xFFFFFFFF#32 }
    | (x, _) :: _ =>
      let alloc := (p.2.map fun (y : Warp × Thread) => y.1.alloc).foldl max 0
      let w : Warp := { w.takeScalars x with
        alloc := alloc
        core := core
        slot := slots.getD w.wid 0
        mode := if x.mode = .held then .held else .normal
        slots := (Vector.ofFn fun _ => none).setIfInBounds 0 (some (Split.fresh pc 0))
        parked := []
        lastSlot := 3
        inGroup := none
        due := none }
      w.seat 0 (p.2.map fun (y : Warp × Thread) => y.2)
  let s := (dedupNat (plan.map fun p => p.1.core)).foldl (fun s c => s.carryReads c core) s
  let s : State := { s with warps := s.warps.map fun w => (new.find? fun (x : Warp) => x.uid == w.uid).getD w }
  let back : Block → Block := fun x =>
    { x with core := core, state := .resident, image := false, setRvs := Vector.ofFn fun _ => openRv, blockRv := openRv }
  ((s.freeSpawn (.image b.uid)).modBlock b.uid back).unstowAccums b core

end Sys2Proof.Machine
end

