-- ==== Sys2Proof/Machine/Ray.lean ====
section
/-! DEFINITION. TRAV and TRAVRD (R353 to R362). Times and coordinates are exact: rationals and the two infinities. -/

namespace Sys2Proof.Machine

open Sys2Proof

/-! ## Exact values -/

/-- A rational or an infinity. -/
inductive Ext where
  | ninf
  | fin (x : Rat)
  | pinf
  deriving DecidableEq, Repr

def Ext.le : Ext → Ext → Bool
  | .ninf, _ => true
  | _, .pinf => true
  | .fin a, .fin b => decide (a ≤ b)
  | _, _ => false

def Ext.lt (a b : Ext) : Bool := !b.le a
def Ext.max (a b : Ext) : Ext := if a.le b then b else a
def Ext.min (a b : Ext) : Ext := if a.le b then a else b

/-- A finite value as a rational. -/
def ratOf (neg : Bool) (m : Nat) (e : Int) : Rat :=
  let x : Rat := if e ≥ 0 then ((m * 2 ^ e.toNat : Nat) : Rat) else (m : Rat) / ((2 ^ (-e).toNat : Nat) : Rat)
  if neg then -x else x

/-- An FP32 word exactly; none for NaN. -/
def extOf (x : Word) : Option Ext :=
  match fp32.decode x.toNat with
  | .nan _ => none
  | .inf neg => some (if neg then .ninf else .pinf)
  | .fin neg m e => some (.fin (ratOf neg m e))

/-- An FP32 word as a rational; none for NaN and the infinities. -/
def finOf (x : Word) : Option Rat :=
  match extOf x with
  | some (.fin r) => some r
  | _ => none

/-- RN of a rational to FP32. -/
def rnRat (x : Rat) : Word := BitVec.ofNat 32 (roundRat fp32 .rn false (decide (x < 0)) x.num.natAbs x.den 0).1

/-- A vector of three. -/
structure V3 where
  x : Rat
  y : Rat
  z : Rat
  deriving DecidableEq, Repr

def V3.sub (a b : V3) : V3 := { x := a.x - b.x, y := a.y - b.y, z := a.z - b.z }
def V3.dot (a b : V3) : Rat := a.x * b.x + a.y * b.y + a.z * b.z
def V3.cross (a b : V3) : V3 :=
  { x := a.y * b.z - a.z * b.y, y := a.z * b.x - a.x * b.z, z := a.x * b.y - a.y * b.x }

/-- Word i of a list of bytes. -/
def wordAt (b : List Byte) (o : Nat) : Word := BitVec.ofNat 32 (recNat b o 4)

/-- Three FP32 words of a record as a vector, if they are finite. -/
def v3At (b : List Byte) (o : Nat) : Option V3 :=
  match finOf (wordAt b o), finOf (wordAt b (o + 4)), finOf (wordAt b (o + 8)) with
  | some x, some y, some z => some { x := x, y := y, z := z }
  | _, _, _ => none

/-! ## Descriptors and links (R353, R354) -/

def rayRoot (d : List Word) : Dword := pairOf (d.getD 0 0) (d.getD 1 0)
def rayBase (d : List Word) : Dword := pairOf (d.getD 2 0) (d.getD 3 0)
def rayLen (d : List Word) : Nat := (d.getD 4 0).toNat
def rayCtl (d : List Word) : Word := d.getD 5 0
def rayBudget (d : List Word) : Nat := if (rayCtl d).extractLsb' 0 16 = 0 then 4096 else ((rayCtl d).extractLsb' 0 16).toNat
def raySeed (d : List Word) : Dword := pairOf (d.getD 6 0) (d.getD 7 0)

/-- A descriptor that traps (R358). -/
def rayDescBad (d : List Word) : Bool :=
  decide (rayCtl d &&& 0xFFE00000#32 ≠ 0) || !canonical (rayBase d) || decide ((rayBase d).toNat % 128 ≠ 0) ||
  decide (rayLen d = 0) || decide (rayLen d % 128 ≠ 0)

def linkKind (w : Dword) : Nat := (w.extractLsb' 62 2).toNat
def linkCount (w : Dword) : Nat := (w.extractLsb' 56 6).toNat
def linkAddr (w : Dword) : Dword := (w.extractLsb' 0 56).signExtend 64

/-- The bytes of what a link names, and their alignment. -/
def linkSize (w : Dword) : Nat :=
  match linkKind w with
  | 1 => 128
  | 2 => 48 * (linkCount w + 1)
  | _ => 64
def linkAlign (w : Dword) : Nat :=
  match linkKind w with
  | 1 => 128
  | 2 => 16
  | _ => 64

/-- A link of a KIND that is not 0 is sound, its set record aside (R354). -/
def linkSound (d : List Word) (w : Dword) : Bool :=
  let a := (linkAddr w).toNat
  let base := (rayBase d).toNat
  (linkKind w == 2 || linkCount w == 0) && a % linkAlign w == 0 && decide (base ≤ a) && decide (a + linkSize w ≤ base + rayLen d)

/-- The thresholds of a set record (R356). -/
def setTh (b : List Byte) (k : Nat) : Word := wordAt b (8 + 4 * k)
def setLink (b : List Byte) (k : Nat) : Dword := recAddr b (24 + 8 * k)
def setLevels (b : List Byte) : Nat := recNat b 0 4

/-- A set record keeps the table (R356). -/
def setSound (b : List Byte) : Bool :=
  let n := setLevels b
  decide (2 ≤ n) && decide (n ≤ 4) && recNat b 4 4 == 0 &&
  ((List.range n).all fun k => (finOf (setTh b k)).isSome && (linkKind (setLink b k) == 1 || linkKind (setLink b k) == 2)) &&
  ((List.range (n - 1)).all fun k => match finOf (setTh b k), finOf (setTh b (k + 1)) with
    | some x, some y => decide (x < y)
    | _, _ => false) &&
  (List.range 4).all fun k => decide (k < n) || (setTh b k == 0 && setLink b k == 0)

/-! ## Tests (R360) -/

/-- A ray as its tests see it (R357): finite origin and direction, tmin, tmax, w0, s and the pixel key. -/
structure RayIn where
  o : V3
  d : V3
  tmin : Ext
  tmax : Ext
  w0 : Ext
  spread : Ext
  pixel : Nat
  deriving DecidableEq, Repr

/-- The ray of eleven words; none when it misses at once (R357). -/
def rayIn (w : List Word) : Option RayIn :=
  let e : Nat → Option Ext := fun k => extOf (w.getD k 0)
  let f : Nat → Option Rat := fun k => finOf (w.getD k 0)
  match f 0, f 1, f 2, e 3, f 4, f 5, f 6, e 7, e 8, e 9 with
  | some ox, some oy, some oz, some t0, some dx, some dy, some dz, some t1, some w0, some sp =>
    if (dx = 0 ∧ dy = 0 ∧ dz = 0) ∨ t1.lt t0 then none
    else some { o := { x := ox, y := oy, z := oz }, d := { x := dx, y := dy, z := dz }, tmin := t0, tmax := t1, w0 := w0,
                spread := sp, pixel := (w.getD 10 0).toNat }
  | _, _, _, _, _, _, _, _, _, _ => none

/-- (b - o) / d for a bound of a box. -/
def slabEnd (b : Ext) (o d : Rat) : Ext :=
  match b with
  | .fin x => .fin ((x - o) / d)
  | .pinf => if d < 0 then .ninf else .pinf
  | .ninf => if d < 0 then .pinf else .ninf

/-- The interval of an axis; none when it is empty. -/
def slab (lo hi : Ext) (o d : Rat) : Option (Ext × Ext) :=
  if d = 0 then if lo.le (.fin o) && (Ext.fin o).le hi then some (.ninf, .pinf) else none
  else
    let a := slabEnd lo o d
    let b := slabEnd hi o d
    if d < 0 then some (b, a) else some (a, b)

/-- The entry distance of a box, if it is entered: its bounds are the 24 bytes at `off` of a node pair (R355, R360). -/
def boxEntry (r : RayIn) (bound : Ext) (b : List Byte) (off : Nat) : Option Ext :=
  let lo : Nat → Option Ext := fun k => extOf (wordAt b (off + 4 * k))
  let hi : Nat → Option Ext := fun k => extOf (wordAt b (off + 12 + 4 * k))
  match lo 0, lo 1, lo 2, hi 0, hi 1, hi 2 with
  | some x0, some y0, some z0, some x1, some y1, some z1 =>
    if x1.lt x0 || y1.lt y0 || z1.lt z0 then none
    else
      match slab x0 x1 r.o.x r.d.x, slab y0 y1 r.o.y r.d.y, slab z0 z1 r.o.z r.d.z with
      | some a, some b, some c =>
        let t0 := ((a.1.max b.1).max c.1).max r.tmin
        let t1 := ((a.2.min b.2).min c.2).min bound
        if t0.le t1 then some t0 else none
      | _, _, _ => none
  | _, _, _, _, _, _ => none

/-- A hit: t, u, v, its primitive, whether it is a back face, and the address of its record. -/
structure Hit where
  t : Rat
  u : Rat
  v : Rat
  prim : Word
  back : Bool
  addr : Nat
  deriving DecidableEq, Repr

/-- One hit beats another (R360). -/
def Hit.beats (a : Hit) (best : Option Hit) : Bool :=
  match best with
  | none => true
  | some b =>
    decide (a.t < b.t) || (decide (a.t = b.t) && (decide (a.prim.toNat < b.prim.toNat) ||
      (a.prim == b.prim && decide (a.addr < b.addr))))

/-- The hit of a triangle record, if there is one (R360). -/
def triHit (r : RayIn) (cullBack cullFront : Bool) (bound : Ext) (b : List Byte) (off addr : Nat) : Option Hit :=
  match v3At b off, v3At b (off + 12), v3At b (off + 24) with
  | some v0, some v1, some v2 =>
    let e1 := v1.sub v0
    let e2 := v2.sub v0
    let n := e1.cross e2
    let dn := r.d.dot n
    if dn = 0 then none
    else
      let t := (v0.sub r.o).dot n / dn
      let q : V3 := { x := r.o.x + t * r.d.x - v0.x, y := r.o.y + t * r.d.y - v0.y, z := r.o.z + t * r.d.z - v0.z }
      let nn := n.dot n
      let u := (q.cross e2).dot n / nn
      let v := (e1.cross q).dot n / nn
      let back := decide (0 < dn)
      if 0 ≤ u ∧ 0 ≤ v ∧ u + v ≤ 1 ∧ r.tmin.le (.fin t) = true ∧ (Ext.fin t).le bound = true then
        if (back && cullBack) || (!back && cullFront) then none
        else some { t := t, u := u, v := v, prim := wordAt b (off + 36), back := back, addr := addr }
      else none
  | _, _, _ => none

/-! ## Level choice (R359) -/

/-- The Shaker's z for a seed and a key. -/
def shaker (seed g : Nat) : Nat :=
  let m := 2 ^ 64
  let x := seed ^^^ (g * 0x9E3779B97F4A7C15 % m)
  let z := (x + 0x9E3779B97F4A7C15) % m
  let z := (z ^^^ (z / 2 ^ 30)) * 0xBF58476D1CE4E5B9 % m
  let z := (z ^^^ (z / 2 ^ 27)) * 0x94D049BB133111EB % m
  z ^^^ (z / 2 ^ 31)

/-- W = w0 + s × te; none where the sum or product of infinities is undefined. -/
def coneWidth (r : RayIn) (te : Ext) : Option Ext :=
  let prod : Option Ext :=
    match r.spread, te with
    | .fin a, .fin b => some (.fin (a * b))
    | a, b =>
      if a = .fin 0 ∨ b = .fin 0 then none
      else some (if (a.lt (.fin 0)) == (b.lt (.fin 0)) then .pinf else .ninf)
  match r.w0, prod with
  | .fin a, some (.fin b) => some (.fin (a + b))
  | .fin _, some x => some x
  | x, some (.fin _) => some x
  | x, some y => if x = y then some x else none
  | _, none => none

/-- The level of a set record for a width W. -/
def levelFor (r : RayIn) (seed addr : Nat) (b : List Byte) (w : Ext) : Nat :=
  let n := setLevels b
  let th : Nat → Rat := fun k => (finOf (setTh b k)).getD 0
  let z := shaker seed ((r.pixel * 2 ^ 32 + addr / 2 ^ 6 % 2 ^ 32) % 2 ^ 64)
  let h : Rat := ((z / 2 ^ 32 : Nat) : Rat) / ((2 ^ 32 : Nat) : Rat)
  match w with
  | .ninf => 0
  | .pinf => n - 1
  | .fin x =>
    if x ≤ th 0 then 0
    else if th (n - 1) ≤ x then n - 1
    else
      match (List.range (n - 1)).find? fun k => decide (th k ≤ x) && decide (x < th (k + 1)) with
      | some k => if h < (x - th k) / (th (k + 1) - th k) then k + 1 else k
      | none => 0

/-! ## The walk (R359) -/

/-- How a ray ends: its status, the address of its cause, its best hit and its visits; or it waits for a page. -/
inductive RayEnd where
  | ended (status : Nat) (faddr : Nat) (best : Option Hit) (visits : Nat)
  | waits (addr : Nat)

/-- What a ray carries between visits. -/
structure Walk where
  best : Option Hit
  visits : Nat
  last : Nat
  deriving DecidableEq, Repr

def Walk.bound (k : Walk) (r : RayIn) : Ext :=
  match k.best with
  | some h => .fin h.t
  | none => r.tmax

/-- Stop with a status. -/
def Walk.stop (k : Walk) (status faddr : Nat) : RayEnd := .ended status faddr k.best k.visits

/-- The entered slots of a node pair, in the order of their pops: ascending (te, i). -/
def enteredSlots (r : RayIn) (bound : Ext) (b : List Byte) : List (Dword × Ext) :=
  let raw := (List.range 4).filterMap fun i =>
    let w := recAddr b (96 + 8 * i)
    if linkKind w = 0 then none else (boxEntry r bound b (24 * i)).map fun t => (w, t)
  raw.foldr (fun x acc => (acc.takeWhile fun y => y.2.lt x.2) ++ [x] ++ acc.dropWhile fun y => y.2.lt x.2) []

/-- Test the triangles of a leaf in order, until ANYHIT is satisfied. -/
def testLeaf (r : RayIn) (ctl : Word) (b : List Byte) (addr : Nat) : Nat → Nat → Walk → Walk
  | 0, _, k => k
  | n + 1, i, k =>
    match triHit r (ctl.getLsbD 19) (ctl.getLsbD 20) (k.bound r) b (48 * i) (addr + 48 * i) with
    | some h => if h.beats k.best then testLeaf r ctl b addr n (i + 1) { k with best := some h } else testLeaf r ctl b addr n (i + 1) k
    | none => testLeaf r ctl b addr n (i + 1) k

/-- Walk a stack of links with their entry distances. `read` gives the bytes of memory, `pick` the level where a width is
undefined. -/
def walkRay (r : RayIn) (d : List Word) (read : Nat → Nat → Except (Nat × Nat) (List Byte)) (pick : Nat) :
    Nat → List (Dword × Ext) → Walk → RayEnd
  | 0, _, k => k.stop 3 k.last
  | _, [], k => k.stop (if k.best.isSome then 1 else 0) 0
  | fuel + 1, (w, te) :: stack, k =>
    if (k.bound r).lt te || linkKind w == 0 then walkRay r d read pick fuel stack k
    else
      let a := (linkAddr w).toNat
      if !linkSound d w then k.stop 2 a
      else if linkKind w != 3 && k.visits == rayBudget d then k.stop 3 k.last
      else
        match read a (linkSize w) with
        | .error e => if e.1 = waitCode then .waits e.2 else k.stop 2 e.2
        | .ok b =>
          if linkKind w == 3 && !setSound b then k.stop 2 a
          else if k.visits = rayBudget d then k.stop 3 k.last
          else
            let k := { k with visits := k.visits + 1, last := a }
            match linkKind w with
            | 1 =>
              let new := enteredSlots r (k.bound r) b
              if 256 < stack.length + new.length then
                k.stop 2 (linkAddr ((new.getD (stack.length + new.length - 257) (w, te)).1)).toNat
              else walkRay r d read pick fuel (new ++ stack) k
            | 2 =>
              let k := testLeaf r (rayCtl d) b a (linkCount w + 1) 0 k
              if (rayCtl d).getLsbD 18 && k.best.isSome then k.stop 1 0 else walkRay r d read pick fuel stack k
            | _ =>
              let level := match coneWidth r te with
                | some x => levelFor r (raySeed d).toNat a b x
                | none => pick % setLevels b
              walkRay r d read pick fuel ((setLink b level, te) :: stack) k

/-- The whole of a ray. -/
def rayEnd (words d : List Word) (read : Nat → Nat → Except (Nat × Nat) (List Byte)) (pick : Nat) : RayEnd :=
  match rayIn words with
  | none => .ended 0 0 none 0
  | some r => walkRay r d read pick (5 * rayBudget d + 2) [(rayRoot d, r.tmin)] { best := none, visits := 0, last := 0 }

/-- The eight words of TRAVRD (R361). -/
def rayResult (status visits : Nat) (best : Option Hit) : List Word :=
  let w4 := BitVec.ofNat 32 (status + 2 ^ 16 * (visits % 2 ^ 16))
  match best with
  | some h => [rnRat h.t, h.prim, rnRat h.u, rnRat h.v, w4, if h.back then 1 else 0, BitVec.ofNat 32 h.addr,
               BitVec.ofNat 32 (h.addr / 2 ^ 32)]
  | none => [0x7F800000#32, 0xFFFFFFFF#32, 0, 0, w4, 0, 0, 0]

/-! ## TRAV (R357, R358) -/

/-- The eight s registers from b. -/
def Warp.octet (w : Warp) (b : Nat) : List Word := (List.range 8).map fun k => w.sreg (b + k)

/-- b names an s register. -/
def opbIsS : Opb → Bool
  | .s _ => true
  | _ => false

/-- A ray as it starts. -/
def Job.newRay (j : Job) (id : Nat) (desc : List Word) (lane : Nat) : Ray :=
  { id := id, seq := j.w.seq, words := (List.range 11).map fun k => laneOf (j.w.row (j.a + k)) lane, desc := desc, deps := j.w.released 1, scope := 1,
    done := false, result := [], fault := none }

/-- A live lane's ray still runs. -/
def Warp.raysRun (w : Warp) (live : LaneMask) : Bool := (lanesOf live).any fun i => ((w.rays[i]?).getD none).any fun r => !r.done

/-- What TRAV names. -/
def travMeta (sc : Scope) (d : Reg) (a : Reg) (b : Opb) : Meta :=
  { cls := .engine, scope := sc, a := a.toNat, na := 11, opb := some b, xreg := true, xpred := true, noPartial := true,
          rasterOnly := true,
          bad := decide (d ≠ 0) || decide (a.toNat % 4 ≠ 0) || !opbIsS b || decide (b.num % 8 ≠ 0) }

/-- TRAV. -/
def execTrav (sc : Scope) (d a : Reg) (b : Opb) (s : State) : Host.Outcome State Fault Refusal :=
  issue (travMeta sc d a b)
    s fun s j =>
      if rayDescBad (j.w.octet b.num) then .trap (Trap.plain 1)
      else if j.live = 0 then .next s
      else if j.w.raysRun j.live || classFull j.w.loads then .stall s
      else
        let id := s.nextUid
        let desc := j.w.octet b.num
        let op : LoadOp := { LoadOp.taken id with kind := .ray, done := false }
        .next ({ s with nextUid := id + 1 }.put j fun w =>
          { w.addLoad op with rays := Vector.ofFn fun i =>
              if j.live.getLsbD i.val then some (j.newRay id desc i.val) else w.rays[i] })
/-- The cause that TRAVRD delivers for an end, where the descriptor asks for one (R361). -/
def rayFault (d : List Word) (status faddr : Nat) : Option (Nat × Dword) :=
  if status = 2 ∧ (rayCtl d).getLsbD 16 then some (47, BitVec.ofNat 64 faddr)
  else if status = 3 ∧ (rayCtl d).getLsbD 17 then some (48, BitVec.ofNat 64 faddr)
  else none

/-- A unit's read for a ray: one of another field waits until the stores before the ray are performed at DEVICE scope (R238). -/
def State.rayRead (s : State) (c : Context) (core : Nat) (r : Ray) (a n : Nat) : Except (Nat × Nat) (List Byte) :=
  let far : Nat → Bool := fun a => match s.access c .load (BitVec.ofNat 64 a) with
    | .ok p => p.home != c.field
    | _ => false
  -- one of its lines may have its home there when its ends do not (R387)
  if ((List.range (n / 128 + 2)).any fun i => far (min (a + 128 * i) (a + n - 1))) && !(r.deps.all fun d => s.performed 2 d.2) then .error (waitCode, a) else s.unitRead c core a n

/-- A ray of a lane ends (R359), once the stores it reads after are performed (R238). -/
def State.rayDone (s : State) (u lane : Nat) : State :=
  match s.warp? u with
  | none => s
  | some w =>
    match (w.rays[lane]?).getD none, s.ctxOf w with
    | some r, some c =>
      if r.done || !s.unitReady u r.seq r.deps then s
      else
        match rayEnd r.words r.desc (fun a n => s.rayRead c w.core r a n) (s.someWord lane).toNat with
        | .waits a => s.unitWait c.field c.ctxid .load a
        | .ended status faddr best visits =>
          let r : Ray := { r with done := true, result := rayResult status visits best, fault := rayFault r.desc status faddr }
          let s := if status = 2 then s.unitMet c.field c.ctxid (BitVec.ofNat 64 faddr) else s
          ((s.modWarp u fun w => { w with rays := w.rays.setIfInBounds lane (some r) }).noteDone u).closeRays u
    | _, _ => s

/-! ## TRAVRD (R361) -/

/-- The words that TRAVRD writes for a ray slot. -/
def rayWords (o : Option Ray) : List Word :=
  match o with
  | some r => r.result
  | none => rayResult 0xFF 0 none

/-- The cause that the lowest of the named lanes' rays has to deliver, as an asynchronous one of its TRAV (R361, R210). -/
def Job.rayCauses (j : Job) : List AsyncCause :=
  if j.w.raysRun j.live then []
  else
    (((lanesOf j.live).filterMap fun i => ((j.w.rays[i]?).getD none).bind fun r => r.fault.map fun f =>
      ({ op := r.id, ord := 0, code := f.1, faddr := f.2, lane := i, kind := .ray, seq := r.seq, firstReg := 0, nreg := 0,
         lanes := laneBit i, zero := [], gmode := false, kept := false, wins := [], accs := [], buf := none } : AsyncCause)).head?).toList

/-- What TRAVRD names. -/
def travrdMeta (sc : Scope) (d : Reg) (a : Reg) (b : Opb) : Meta :=
  { cls := .engine, scope := sc, d := d.toNat, nd := 8, opb := some b, xreg := true, xpred := true, noPartial := true,
          rasterOnly := true, bad := decide (d.toNat % 8 ≠ 0) || decide (a ≠ 0) || decide (b ≠ .v 0), own := Job.rayCauses }

/-- TRAVRD. -/
def execTravrd (sc : Scope) (d a : Reg) (b : Opb) (s : State) : Host.Outcome State Fault Refusal :=
  issue (travrdMeta sc d a b) s fun s j =>
    if j.w.raysRun j.live then .block s (.rays j.live)
    else
      let word : Nat → Nat → Word := fun k i => (rayWords ((j.w.rays[i]?).getD none)).getD k 0
      let s := s.put j fun w =>
        (List.range 8).foldl (fun w k => w.setRow j.live (j.d + k) (rowOf (word k))) w
      .next (s.acquire j.w.core 1)

end Sys2Proof.Machine
end

