-- ==== Sys2Proof/Machine/Surface.lean ====
section
/-! DEFINITION. The visibility buffer (R343 to R347), pixel order (R348) and images (R349 to R351), with the geometry that the
rasteriser shares (R340, R341). -/

namespace Sys2Proof.Machine

open Sys2Proof

/-! ## VISLD and VISDEC (R343 to R345) -/

/-- No primitive (R342). -/
def noPrim : Dword := 0xFFFFFFFFFFFFFFFF#64

def idDraw (x : Dword) : Nat := (x.extractLsb' 44 20).toNat
def idPrim (x : Dword) : Nat := (x.extractLsb' 12 32).toNat
def idInst (x : Dword) : Nat := (x.extractLsb' 0 12).toNat

/-- Samples to a pixel of a SAMPLES code. -/
def samplesOf (code : Nat) : Nat := if code = 1 then 4 else 1

/-- SIZE is out of range (R339). -/
def sizeBad (x : Word) : Bool :=
  let w := (x.extractLsb' 0 16).toNat
  let h := (x.extractLsb' 16 16).toNat
  decide (w = 0) || decide (16384 < w) || decide (h = 0) || decide (16384 < h)

/-- The coordinate word. -/
def coordX (x : Word) : Nat := (x.extractLsb' 0 14).toNat
def coordS (x : Word) : Nat := (x.extractLsb' 14 2).toNat
def coordY (x : Word) : Nat := (x.extractLsb' 16 14).toNat

/-- The address of a sample's record (R343). -/
def visAddr (vbase : Dword) (width samples x y k : Nat) : Dword :=
  vbase + BitVec.ofNat 64 (16 * ((y * width + x) * samples + k))

/-- A page of a visibility buffer lies elsewhere than in local memory or in a directly addressed vault region (R339), whatever its
permissions; a page with no valid entry lies nowhere. -/
def State.visPageBad (s : State) (c : Context) (a : Nat) : Bool := (s.leafTarget c (BitVec.ofNat 64 a)).any fun t => decide (2 ≤ t)

/-- The bytes of a visibility buffer (R343). -/
def visBytes (size : Word) (samples : Nat) : Nat := 16 * ((size.extractLsb' 0 16).toNat * (size.extractLsb' 16 16).toNat * samples)

/-- A visibility buffer of n bytes that breaks R339's placement or alignment. -/
def State.visPlaceBad (s : State) (c : Context) (a : Dword) (n : Nat) : Bool :=
  decide (a.toNat % 64 ≠ 0) || !canonical a ||
  (List.range ((n + 4095) / 4096 + 1)).any fun i =>
    let p := va56 a / 4096 * 4096 + 4096 * i
    decide (p < va56 a + n) && s.visPageBad c (max p (va56 a))

/-- One lane of VISLD. -/
def visldLane (j : Job) (vbase : Dword) (size : Word) (samples : Nat) (r : Reader) (i : Nat) : Got (Reader × List Word) :=
  let c := laneOf (j.w.row j.a) i
  let width := (size.extractLsb' 0 16).toNat
  if width ≤ coordX c ∨ (size.extractLsb' 16 16).toNat ≤ coordY c then
    .ok (r, [0xFFFFFFFF#32, 0xFFFFFFFF#32, 0x7F800000#32, c])
  else
    let a := visAddr vbase width samples (coordX c) (coordY c) (coordS c)
    (r.nat j i 8 a).bind fun x =>
      (x.1.nat j i 4 (a + 8)).bind fun y =>
        .ok (y.1, [BitVec.ofNat 32 x.2, BitVec.ofNat 32 (x.2 / 2 ^ 32), BitVec.ofNat 32 y.2, c])

/-- b names no s quad. -/
def notQuad (b : Opb) : Bool := !opbIsS b || decide (b.num % 4 ≠ 0)

/-- What VISLD names. -/
def visldMeta (sc : Scope) (d : Reg) (a : Reg) (b : Opb) : Meta :=
  { cls := .laneWise, scope := sc, d := d.toNat, nd := 4, a := a.toNat, na := 1, opb := some b, xreg := true, xpred := true,
          rasterOnly := true, bad := decide (d.toNat % 4 ≠ 0) || notQuad b }

/-- VISLD (R344). -/
def execVisld (sc : Scope) (d a : Reg) (b : Opb) (s : State) : Host.Outcome State Fault Refusal :=
  issue (visldMeta sc d a b) s fun s j =>
    let vbase := j.w.sreg64 b.num
    let size := j.w.sreg (b.num + 2)
    let code := j.w.sreg (b.num + 3)
    let samples := samplesOf code.toNat
    let wrong : Nat → Bool := fun i =>
      let c := laneOf (j.w.row j.a) i
      decide (c.extractLsb' 30 2 ≠ 0) || decide (samples ≤ coordS c)
    if sizeBad size || decide (2 ≤ code.toNat) || s.visPlaceBad j.ctx vbase (visBytes size samples) then .trap (Trap.plain 51)
    else
      match (lanesOf j.live).find? wrong with
      | some i => .trap (Trap.at 51 0 i)
      | none => s.laneLoads j 4 (visldLane j vbase size samples)

/-- What VISDEC names. -/
def visdecMeta (sc : Scope) (d : Reg) (a : Reg) : Meta :=
  { cls := .laneWise, scope := sc, d := d.toNat, nd := 4, a := a.toNat, na := 2, xreg := true, xpred := true,
          rasterOnly := true, bad := decide (d.toNat % 4 ≠ 0) || a.getLsbD 0 }

/-- VISDEC (R345). -/
def execVisdec (sc : Scope) (d a : Reg) (s : State) : Host.Outcome State Fault Refusal :=
  issue (visdecMeta sc d a) s fun s j =>
    let id : Nat → Dword := fun i => laneOf64 (j.w.row64 j.a) i
    let word : Nat → Nat → Word := fun k i =>
      match k with
      | 0 => BitVec.ofNat 32 (idDraw (id i))
      | 1 => BitVec.ofNat 32 (idPrim (id i))
      | 2 => BitVec.ofNat 32 (idInst (id i))
      | _ => if id i = noPrim then 0 else 1
    .next (s.put j fun w => (List.range 4).foldl (fun w k => w.setRow j.live (j.d + k) (rowOf (word k))) w)

/-! ## Draws and triangles (R340, R341) -/

/-- The position of a sample within its pixel (R341), in 64ths. -/
def sampleSpot (code k : Nat) : Nat × Nat :=
  match code, k with
  | 1, 0 => (24, 8)
  | 1, 1 => (56, 24)
  | 1, 2 => (8, 40)
  | 1, _ => (40, 56)
  | _, _ => (32, 32)

/-- The sample point of a pixel. -/
def samplePoint (code x y k : Nat) : Rat × Rat :=
  let at_ := sampleSpot code k
  (((64 * x + at_.1 : Nat) : Rat) / ((64 : Nat) : Rat), ((64 * y + at_.2 : Nat) : Rat) / ((64 : Nat) : Rat))

/-- A triangle's vertices: x, y, z and q. -/
structure Corner where
  x : Rat
  y : Rat
  z : Rat
  q : Rat
  deriving DecidableEq, Repr

/-- Twice the signed area of a, b and a point. -/
def areaOf (a b : Corner) (px py : Rat) : Rat := (b.x - a.x) * (py - a.y) - (b.y - a.y) * (px - a.x)

/-- A of R341. -/
def triArea (v0 v1 v2 : Corner) : Rat := (v1.x - v0.x) * (v2.y - v0.y) - (v2.x - v0.x) * (v1.y - v0.y)

/-- The exact screen barycentrics of a point, for A not 0. -/
def screenBary (v0 v1 v2 : Corner) (px py : Rat) : List Rat :=
  let a := triArea v0 v1 v2
  [areaOf v1 v2 px py / a, areaOf v2 v0 px py / a, areaOf v0 v1 px py / a]

/-! ## BARY and ATTRF (R346, R347) -/

/-- The address of a draw table entry. -/
def drawAddr (draws : Dword) (d : Nat) : Dword := draws + BitVec.ofNat 64 (64 * d)

/-- The primitive of a lane exists: its draw, its primitive and its instance (R346). -/
def Reader.hasPrim (r : Reader) (j : Job) (draws : Dword) (id : Dword) (i : Nat) : Got (Reader × Bool) :=
  if id = noPrim then .ok (r, false)
  else
    let e := drawAddr draws (idDraw id)
    (r.nat j i 4 (e + 24)).bind fun np =>
      (np.1.nat j i 2 (e + 28)).bind fun ni => .ok (ni.1, decide (idPrim id < np.2) && decide (idInst id < ni.2))

/-- The index of vertex k of a primitive (R340). -/
def Reader.vertexIndex (r : Reader) (j : Job) (draws : Dword) (id : Dword) (i k : Nat) : Got (Reader × Nat) :=
  (r.nat j i 8 (drawAddr draws (idDraw id) + 8)).bind fun x =>
    if x.2 = 0 then .ok (x.1, 3 * idPrim id + k)
    else x.1.nat j i 4 (BitVec.ofNat 64 (x.2 + 12 * idPrim id + 4 * k))

/-- The position words of vertex k of a primitive. -/
def Reader.vertex (r : Reader) (j : Job) (draws : Dword) (id : Dword) (i k : Nat) : Got (Reader × List Word) :=
  let e := drawAddr draws (idDraw id)
  (r.vertexIndex j draws id i k).bind fun n =>
    (n.1.nat j i 8 e).bind fun pos =>
      (pos.1.nat j i 4 (e + 32)).bind fun st =>
        st.1.words j i (BitVec.ofNat 64 (pos.2 + st.2 * idInst id + 16 * n.2)) 4

/-- A corner from its words; the depth is not an input of BARY. -/
def cornerOf (ftz : Bool) (ws : List Word) : Option Corner :=
  let f : Nat → Option Rat := fun k => finOf (BitVec.ofNat 32 (fp32.flush ftz (ws.getD k 0).toNat))
  match f 0, f 1, f 3 with
  | some x, some y, some q => some { x := x, y := y, z := 0, q := q }
  | _, _, _ => none

/-- The canonical NaN. -/
def nanWord : Word := BitVec.ofNat 32 fp32.nanBits

/-- RN of a rational, flushed. -/
def Job.rnFlush (j : Job) (x : Rat) : Word :=
  BitVec.ofNat 32 (fp32.flushResult j.ftz ((rnRat x).toNat, fxNone)).1

/-- The four results of BARY for three corners. -/
def Job.baryOf (j : Job) (vs : List (Option Corner)) (code : Nat) (coord : Word) : List Word :=
  let nan := List.replicate 4 nanWord
  match vs with
  | [some v0, some v1, some v2] =>
    let p := samplePoint code (coordX coord) (coordY coord) (coordS coord)
    if triArea v0 v1 v2 = 0 then nan
    else
      let ls := screenBary v0 v1 v2 p.1 p.2
      let num := (ls.zip [v0.q, v1.q, v2.q]).map fun (x : Rat × Rat) => x.1 * x.2
      let den := num.foldl (· + ·) 0
      if den = 0 then nan else (num.map fun x => j.rnFlush (x / den)) ++ [j.rnFlush den]
  | _ => nan

/-- One lane of BARY. -/
def baryLane (j : Job) (draws : Dword) (code : Nat) (r : Reader) (i : Nat) : Got (Reader × List Word) :=
  let id := pairOf (laneOf (j.w.row j.a) i) (laneOf (j.w.row (j.a + 1)) i)
  (r.hasPrim j draws id i).bind fun h =>
    if !h.2 then .ok (h.1, List.replicate 4 nanWord)
    else
      (h.1.vertex j draws id i 0).bind fun v0 =>
        (v0.1.vertex j draws id i 1).bind fun v1 =>
          (v1.1.vertex j draws id i 2).bind fun v2 =>
            .ok (v2.1, j.baryOf ([v0.2, v1.2, v2.2].map (cornerOf j.ftz)) code (laneOf (j.w.row (j.a + 3)) i))

/-- What BARY and ATTRF name. -/
def attrMeta (sc : Scope) (d a : Reg) (b : Opb) (n : Nat) : Meta :=
  { cls := .laneWise, scope := sc, d := d.toNat, nd := n, a := a.toNat, na := 4, opb := some b, xreg := true, xmod := xmFtz,
    xpred := true, rasterOnly := true, bad := decide (d.toNat % 4 ≠ 0) || decide (a.toNat % 4 ≠ 0) || notQuad b }

/-- DRAWS is misaligned (R339, R346). -/
def drawsBad (draws : Dword) : Bool := decide (draws.toNat % 64 ≠ 0)

/-- BARY. -/
def execBary (sc : Scope) (d a : Reg) (b : Opb) (s : State) : Host.Outcome State Fault Refusal :=
  issue (attrMeta sc d a b 4) s fun s j =>
    let code := j.w.sreg (b.num + 2)
    if j.w.sreg (b.num + 3) ≠ 0 ∨ 2 ≤ code.toNat ∨ drawsBad (j.w.sreg64 b.num) then .trap (Trap.plain 1)
    else s.laneLoads j 4 (baryLane j (j.w.sreg64 b.num) code.toNat)

/-- The fields of ATTRF's third word. -/
def attrOffset (x : Word) : Nat := (x.extractLsb' 0 16).toNat
def attrVertex (x : Word) : Nat := (x.extractLsb' 16 2).toNat
def attrCount (x : Word) : Nat := (x.extractLsb' 18 3).toNat + 1

/-- One lane of ATTRF. -/
def attrfLane (j : Job) (draws : Dword) (x : Word) (r : Reader) (i : Nat) : Got (Reader × List Word) :=
  let id := pairOf (laneOf (j.w.row j.a) i) (laneOf (j.w.row (j.a + 1)) i)
  let e := drawAddr draws (idDraw id)
  (r.hasPrim j draws id i).bind fun h =>
    if !h.2 then .ok (h.1, List.replicate (attrCount x) 0)
    else
      (h.1.vertexIndex j draws id i (attrVertex x)).bind fun n =>
        (n.1.nat j i 8 (e + 16)).bind fun base =>
          (base.1.nat j i 4 (e + 36)).bind fun ist =>
            (ist.1.nat j i 2 (e + 40)).bind fun st =>
              let at_ := base.2 + ist.2 * idInst id + st.2 * n.2 + 4 * attrOffset x
              st.1.words j i (BitVec.ofNat 64 at_) (attrCount x)

/-- The number of registers ATTRF writes, as the issuing warp's word gives it. -/
def State.attrRegs (s : State) (b : Opb) : Nat :=
  attrCount (((s.issuer.map fun w => w.sreg (b.num + 2)).getD 0))

/-- ATTRF. -/
def execAttrf (sc : Scope) (d a : Reg) (b : Opb) (s : State) : Host.Outcome State Fault Refusal :=
  issue (attrMeta sc d a b (s.attrRegs b)) s fun s j =>
    let x := j.w.sreg (b.num + 2)
    if j.w.sreg (b.num + 3) ≠ 0 ∨ attrVertex x = 3 ∨ x.extractLsb' 21 11 ≠ 0 ∨ drawsBad (j.w.sreg64 b.num) then .trap (Trap.plain 1)
    else s.laneLoads j (attrCount x) (attrfLane j (j.w.sreg64 b.num) x)

/-! ## Pixel order (R348) -/

/-- The word an ORDWAIT lane reads, at its home. -/
def State.orderWord (s : State) (k : Nat) : Word := BitVec.ofNat 32 (s.readNat k 4)

/-- An older store of the warp to one of the words has not been applied (R215). -/
def State.orderBusy (s : State) (u : Nat) (keys : List Nat) : Bool :=
  match s.warp? u with
  | none => false
  | some w =>
    (w.sq.any fun e => e.bytes.any fun b => keys.any fun k => decide (k ≤ b.key) && decide (b.key < k + 4)) ||
    (s.flights.any fun f => f.warp == u && !f.applied && !f.lost && keys.any fun k => f.line == lineOf k) ||
    s.areqs.any fun r => r.warp == u && !r.applied && keys.any fun k => r.line == lineOf k

/-- The lowest lane that PIXEL_ORDER names: its word is past its sequence, or another lane names the word. -/
def orderFault (s : State) (ps : List (Nat × Place)) (y : Nat → Word) : Option Nat :=
  (ps.find? fun x => decide ((y x.1).toNat < (s.orderWord x.2.key).toNat) ||
    ps.any fun z => z.1 != x.1 && z.2.key == x.2.key).map fun x => x.1

/-- What ORDWAIT names. -/
def ordwaitMeta (sc : Scope) (a : Reg) (b : Opb) : Meta :=
  { cls := .laneWise, scope := sc, a := a.toNat, na := 2, b := b.num, nb := b.vcount 1, opb := some b, xreg := true,
          xpred := true, rasterOnly := true, bad := a.getLsbD 0 }

/-- ORDWAIT. -/
def execOrdwait (sc : Scope) (a : Reg) (b : Opb) (s : State) : Host.Outcome State Fault Refusal :=
  issue (ordwaitMeta sc a b) s fun s j =>
    if j.live = 0 then .next s
    else
      (s.operand j .int b).eff fun ys =>
        (firstFail (lanesOf j.live) (s.atomCheck j .atom 0 false)).eff fun ps =>
          let s := s.drainAll j.w.uid 40
          if s.orderBusy j.w.uid (ps.map fun x => x.2.key) then .stall s
          else
            let s := s.roundShadows (ps.flatMap fun x => (List.range 4).map (x.2.key + ·))
            match orderFault s ps (laneOf ys) with
            | some i => .trap (Trap.at 50 0 i)
            | none =>
              let words := ps.map fun x => (x.2.key, laneOf ys x.1)
              if words.all fun w => s.orderWord w.1 == w.2 then
                let r := s.awaitLoads j.w.uid
                if r.2 then .next (r.1.acquire j.w.core 2) else .stall r.1
              else .block s (.order words)

/-- What ORDDONE names. -/
def orddoneMeta (sc : Scope) (a : Reg) : Meta :=
  { cls := .laneWise, scope := sc, a := a.toNat, na := 2, xreg := true, xpred := true, rasterOnly := true, bad := a.getLsbD 0,
          dep := fun _ j c => decide (j.live ≠ 0) && releaseDep 2 c }

/-- ORDDONE: a release at DEVICE scope, then RED.AADD of 1, checked as an ATOM is. -/
def execOrddone (sc : Scope) (a : Reg) (s : State) : Host.Outcome State Fault Refusal :=
  issue (orddoneMeta sc a) s fun s j =>
    let one : Nat → Place → AtomAcc := fun lane p => { lane := lane, key := p.key, y := 1, z := 0, win := p.win, handle := p.handle }
    s.sendAtoms { j with xmod := 0x80#20 } .atom 0 false false one

/-! ## Images (R349 to R351) -/

/-- An image descriptor. -/
structure Image where
  base : Dword
  width : Nat
  height : Nat
  pitch : Nat
  fmt : Nat
  bilinear : Bool
  wrapX : Nat
  wrapY : Nat
  deriving DecidableEq, Repr

def texelBytes (fmt : Nat) : Nat := if fmt = 1 then 8 else 4

def imageOf (ws : List Word) : Image where
  base := pairOf (ws.getD 0 0) (ws.getD 1 0)
  width := ((ws.getD 2 0).extractLsb' 0 16).toNat
  height := ((ws.getD 2 0).extractLsb' 16 16).toNat
  pitch := (ws.getD 3 0).toNat
  fmt := ((ws.getD 4 0).extractLsb' 0 8).toNat
  bilinear := (ws.getD 4 0).getLsbD 8
  wrapX := ((ws.getD 4 0).extractLsb' 9 2).toNat
  wrapY := ((ws.getD 4 0).extractLsb' 11 2).toNat

/-- A descriptor that breaks R349. -/
def imageBad (ws : List Word) : Bool :=
  let m := imageOf ws
  sizeBad (ws.getD 2 0) || decide (3 ≤ m.fmt) || decide (2 ≤ m.wrapX) || decide (2 ≤ m.wrapY) ||
  decide ((ws.getD 4 0) &&& 0xFFFFE000#32 ≠ 0) || (ws.drop 5).any (· != 0) ||
  decide (m.base.toNat % texelBytes m.fmt ≠ 0) || decide (m.pitch % texelBytes m.fmt ≠ 0)

/-- Wrap an index (R351). -/
def wrapIndex (mode size : Nat) (i : Int) : Nat :=
  if mode = 1 then (i % (size : Int)).toNat else if i < 0 then 0 else min i.toNat (size - 1)

/-- A channel value: a number, which for a zero may be the negative one, an infinity or NaN. -/
inductive Chan where
  | nan
  | ninf
  | pinf
  | negZero
  | fin (x : Rat)
  deriving DecidableEq, Repr

/-- A channel is a number, and which. -/
def Chan.number : Chan → Option Rat
  | .nan => none
  | .ninf => none
  | .pinf => none
  | .negZero => some 0
  | .fin x => some x

/-- A channel of a format's encoding. -/
def chanOf (f : Fmt) (x : Nat) : Chan :=
  match f.decode x with
  | .nan _ => .nan
  | .inf neg => if neg then .ninf else .pinf
  | .fin neg m e => if neg && decide (m = 0) then .negZero else .fin (ratOf neg m e)

/-- The four channels of a texel. -/
def texelChans (fmt : Nat) (bytes : List Byte) : List Chan :=
  match fmt with
  | 0 => (List.range 4).map fun k => .fin (((bytes.getD k 0).toNat : Rat) / ((255 : Nat) : Rat))
  | 1 => (List.range 4).map fun k => chanOf fp16 (recNat bytes (2 * k) 2)
  | _ => [chanOf fp32 (recNat bytes 0 4), .fin 0, .fin 0, .fin 1]

/-- Read a texel, wrapped. -/
def Reader.texel (r : Reader) (j : Job) (m : Image) (lane : Nat) (x y : Int) : Got (Reader × List Chan) :=
  let i := wrapIndex m.wrapX m.width x
  let k := wrapIndex m.wrapY m.height y
  (r.load j lane (texelBytes m.fmt) (m.base + BitVec.ofNat 64 (k * m.pitch + i * texelBytes m.fmt))).bind fun b =>
    .ok (b.1, texelChans m.fmt b.2)

/-- The weighted sum of channel values: exact, or an infinity, or NaN (R75); none where an infinity or NaN has weight 0, whose
product the manual does not state. A sum of negative zeros alone is one (log 94). -/
def chanSum (xs : List (Rat × Chan)) : Option Chan :=
  if xs.any fun x => decide (x.1 = 0) && x.2.number.isNone then none
  else
    let has : Chan → Bool := fun c => xs.any fun x => decide (x.2 = c)
    if has .nan || (has .pinf && has .ninf) then some .nan
    else if has .pinf then some .pinf
    else if has .ninf then some .ninf
    else if xs.all fun x => decide (x.2 = .negZero) then some .negZero
    else some (.fin ((xs.map fun x => x.1 * (x.2.number.getD 0)).foldl (· + ·) 0))

/-- A result channel: rounded once, then flushed. -/
def Job.chanWord (j : Job) (c : Chan) : Word :=
  match c with
  | .nan => nanWord
  | .pinf => 0x7F800000#32
  | .ninf => 0xFF800000#32
  | .negZero => 0x80000000#32
  | .fin x => j.rnFlush x

/-- A coordinate: NaN and the infinities read as 0. -/
def Job.texCoord (j : Job) (x : Word) : Rat := (finOf (BitVec.ofNat 32 (fp32.flush j.ftz x.toNat))).getD 0

/-- Where bilinear filtering stands on an axis: the lower index and the fraction in 256ths. -/
def bilinearAt (u : Rat) (size : Nat) : Int × Rat :=
  let x := u * ((size : Nat) : Rat) - 1 / 2
  (x.floor, (((x - (x.floor : Rat)) * ((256 : Nat) : Rat)).floor : Rat) / ((256 : Nat) : Rat))

/-- The four texels of bilinear filtering at a lower corner, in the order of TEXG. -/
def Reader.quad (r : Reader) (j : Job) (m : Image) (lane : Nat) (x y : Int) : Got (Reader × List (List Chan)) :=
  (r.texel j m lane x y).bind fun a =>
    (a.1.texel j m lane (x + 1) y).bind fun b =>
      (b.1.texel j m lane x (y + 1)).bind fun c =>
        (c.1.texel j m lane (x + 1) (y + 1)).bind fun d => .ok (d.1, [a.2, b.2, c.2, d.2])

/-- One lane of TEXS. -/
def texsLane (j : Job) (m : Image) (r : Reader) (i : Nat) : Got (Reader × List Word) :=
  let u := j.texCoord (laneOf (j.w.row j.a) i)
  let v := j.texCoord (laneOf (j.w.row (j.a + 1)) i)
  if m.bilinear then
    let p := bilinearAt u m.width
    let q := bilinearAt v m.height
    (r.quad j m i p.1 q.1).bind fun t =>
      let ws : List Rat := [(1 - p.2) * (1 - q.2), p.2 * (1 - q.2), (1 - p.2) * q.2, p.2 * q.2]
      .ok (t.1, (List.range 4).map fun k =>
        match chanSum (ws.zip (t.2.map fun c => c.getD k .nan)) with
        | some c => j.chanWord c
        | none => t.1.s.someWord (4 * i + k))
  else
    (r.texel j m i (u * ((m.width : Nat) : Rat)).floor (v * ((m.height : Nat) : Rat)).floor).bind fun t =>
      .ok (t.1, t.2.map j.chanWord)

/-- One lane of TEXL. -/
def texlLane (j : Job) (m : Image) (r : Reader) (i : Nat) : Got (Reader × List Word) :=
  (r.texel j m i (laneOf (j.w.row j.a) i).toInt (laneOf (j.w.row (j.a + 1)) i).toInt).bind fun t => .ok (t.1, t.2.map j.chanWord)

/-- One lane of TEXG. -/
def texgLane (j : Job) (m : Image) (r : Reader) (i : Nat) : Got (Reader × List Word) :=
  let p := bilinearAt (j.texCoord (laneOf (j.w.row j.a) i)) m.width
  let q := bilinearAt (j.texCoord (laneOf (j.w.row (j.a + 1)) i)) m.height
  (r.quad j m i p.1 q.1).bind fun t => .ok (t.1, t.2.map fun c => j.chanWord (c.getD 0 .nan))

/-- What the TEX functions name. -/
def texMeta (sc : Scope) (d a : Reg) (b : Opb) (na : Nat) : Meta :=
  { cls := .laneWise, scope := sc, d := d.toNat, nd := 4, a := a.toNat, na := na, opb := some b, xreg := true, xmod := xmFtz,
    xpred := true,
    bad := decide (d.toNat % 4 ≠ 0) || decide (na ≠ 0) && a.getLsbD 0 || !opbIsS b || decide (b.num % 8 ≠ 0) }

/-- A TEX function that reads texels. -/
def texLoad (sc : Scope) (d a : Reg) (b : Opb) (f : Job → Image → Reader → Nat → Got (Reader × List Word)) (s : State) :
    Host.Outcome State Fault Refusal :=
  issue (texMeta sc d a b 2) s fun s j =>
    let ws := j.w.octet b.num
    if imageBad ws then .trap (Trap.plain 1) else s.laneLoads j 4 (f j (imageOf ws))

/-- TEXS. -/
def execTexs (sc : Scope) (d a : Reg) (b : Opb) (s : State) : Host.Outcome State Fault Refusal := texLoad sc d a b texsLane s

/-- TEXL. -/
def execTexl (sc : Scope) (d a : Reg) (b : Opb) (s : State) : Host.Outcome State Fault Refusal := texLoad sc d a b texlLane s

/-- TEXG. -/
def execTexg (sc : Scope) (d a : Reg) (b : Opb) (s : State) : Host.Outcome State Fault Refusal := texLoad sc d a b texgLane s

/-- TEXQ. -/
def execTexq (sc : Scope) (d a : Reg) (b : Opb) (s : State) : Host.Outcome State Fault Refusal :=
  issue (texMeta sc d a b 0) s fun s j =>
    let ws := j.w.octet b.num
    let m := imageOf ws
    if imageBad ws then .trap (Trap.plain 1)
    else
      let inv : Nat → Word := fun n => rnRat (1 / ((n : Nat) : Rat))
      let vals := [BitVec.ofNat 32 m.width, BitVec.ofNat 32 m.height, inv m.width, inv m.height]
      .next (s.put j fun w => (List.range 4).foldl (fun w k => w.setRow j.live (j.d + k) (splat (vals.getD k 0))) w)

end Sys2Proof.Machine
end

