-- ==== Sys2Proof/Machine/EvCopy.lean ====
section
/-! DEFINITION. The copy engines (R290 to R295), the rasteriser (R339 to R343) and the completion of copies. An event that is not
enabled changes nothing. -/

namespace Sys2Proof.Machine

open Sys2Proof

/-! ## What a packet asks for -/

/-- DST (R290). -/
def dstSpace (b : List Byte) : Nat := pkWord b 7 % 4
def dstAlloc (b : List Byte) : Nat := bitsOf (pkWord b 7) 4 2
def dstBuf (b : List Byte) : Nat := bitsOf (pkWord b 7) 8 5
def dstBad (b : List Byte) : Bool := dstSpace b == 3 || decide (pkWord b 7 / 2 ^ 9 ≠ 0)

/-- One element of a copy: its source, its destination address or offset, and its bytes. -/
structure Elem where
  src : Int
  dst : Int
  n : Nat
  deriving DecidableEq, Repr

/-- LINEAR, byte by byte (R289); a circular-buffer copy starts at its slot's offset (R290). -/
def linearElems (b : List Byte) : List Elem :=
  let src : Int := (recNat b 8 8 : Nat)
  let dst : Int := if dstSpace b = 0 then ((recNat b 16 8 : Nat) : Int) else if dstSpace b = 1 then ((pkWord b 4 : Nat) : Int) else 0
  (List.range (pkWord b 6)).map fun (i : Nat) => { src := src + (i : Int), dst := dst + (i : Int), n := 1 }

/-- Dimension k of a tensor descriptor: its extent and its two strides (R292). -/
def tensorDim (d : List Byte) (k : Nat) : Nat × Int × Int :=
  (recNat d (32 + 16 * k) 4, sintOf 48 (recNat d (36 + 16 * k) 6), sintOf 48 (recNat d (42 + 16 * k) 6))

/-- The offsets of the elements, in ascending linear index: the first dimension varies fastest (R293). -/
def tensorOffsets : List (Nat × Int × Int) → List (Int × Int)
  | [] => [(0, 0)]
  | (e, ss, ds) :: rest =>
    (tensorOffsets rest).flatMap fun (o : Int × Int) => (List.range e).map fun (i : Nat) => (o.1 + (i : Int) * ss, o.2 + (i : Int) * ds)

def tensorDims (d : List Byte) : Nat := recNat d 16 1
def tensorSize (d : List Byte) : Nat := 2 ^ recNat d 17 1

/-- A tensor descriptor breaks R292; its reserved bytes are not looked at (R4). -/
def tensorBad (b d : List Byte) : Bool :=
  let n := tensorDims d
  let size := (tensorSize d : Int)
  decide (n = 0) || decide (14 < n) || decide (4 < recNat d 17 1) ||
  ((List.range n).any fun k => decide ((tensorDim d k).1 = 0) || decide ((tensorDim d k).2.1 % size ≠ 0) ||
    decide ((tensorDim d k).2.2 % size ≠ 0)) ||
  ((List.range 14).any fun k => decide (n ≤ k) && decide (recNat d (32 + 16 * k) 16 ≠ 0)) ||
  decide (recNat d 0 8 % tensorSize d ≠ 0) ||
  decide ((if dstSpace b = 0 then recNat d 8 8 else recNat d 8 4) % tensorSize d ≠ 0)

/-- TENSOR (R293). -/
def tensorElems (b d : List Byte) : List Elem :=
  let src : Int := (recNat d 0 8 : Nat)
  let dst : Int := if dstSpace b = 0 then ((recNat d 8 8 : Nat) : Int) else ((recNat d 8 4 : Nat) : Int)
  (tensorOffsets ((List.range (tensorDims d)).map (tensorDim d))).map fun (o : Int × Int) =>
    { src := src + o.1, dst := dst + o.2, n := tensorSize d }

/-- The elements of a LINEAR or TENSOR packet. -/
def copyElems (b d : List Byte) : List Elem := if pkKind b = 3 then linearElems b else tensorElems b d

/-- SIZE, MODE and the tiles of a RASTER packet (R339). -/
def rasterWidth (b : List Byte) : Nat := pkWord b 8 % 2 ^ 16
def rasterHeight (b : List Byte) : Nat := pkWord b 8 / 2 ^ 16
def rasterCode (b : List Byte) : Nat := pkWord b 9 % 4
def rasterClear (b : List Byte) : Bool := bitOf (pkWord b 9) 2

/-- A RASTER packet breaks R339, its place aside. -/
def rasterBad (b : List Byte) : Bool :=
  decide (recNat b 8 8 % 64 ≠ 0) || decide (pkWord b 5 = 0) || decide (2 ^ 20 < pkWord b 4 + pkWord b 5) ||
  sizeBad (BitVec.ofNat 32 (pkWord b 8)) || decide (2 ≤ rasterCode b) || decide (pkWord b 9 / 8 ≠ 0) ||
  decide (pkWord b 12 % 2 ^ 16 = 0) || decide (pkWord b 12 / 2 ^ 16 = 0) || !canonical (pkAddr b 2)

/-- A packet breaks R289, R290 or R339 by itself. -/
def packetBodyBad (b : List Byte) : Bool :=
  match pkKind b with
  | 0 => pkRestBad b []
  | 3 => pkRestBad b [2, 3, 4, 5, 6, 7] || decide (pkWord b 6 = 0) || dstBad b
  | 4 => pkRestBad b [2, 3, 7] || dstBad b || decide (recNat b 8 8 % 64 ≠ 0)
  | 5 => pkRestBad b [2, 3, 4, 5, 6, 8, 9] || decide (recNat b 16 8 % 4 ≠ 0) || decide (pkWord b 6 % 4 ≠ 0) ||
      decide (pkWord b 6 = 0) || decide (2 ^ 18 < pkWord b 6) || decide (64 ≤ pkWord b 8) || decide (pkWord b 9 = 0) ||
      decide (2 ^ 16 < pkWord b 9)
  | 6 => pkRestBad b [2, 3, 4, 5, 6, 7, 8, 9, 10, 11, 12] || rasterBad b
  | _ => true

/-- A packet breaks R288 to R290 or R339 by itself. -/
def packetBad (b : List Byte) : Bool := pkHeadBad b || packetBodyBad b

/-! ## Reading and writing elements (R238, R293) -/

/-- A number as an address. -/
def addrOf (x : Int) : Dword := BitVec.ofInt 64 x

/-- Read n bytes at an address of a context, as a unit of the part; an address that is not canonical cannot be read. -/
def State.copyRead (s : State) (c : Context) (a : Dword) (n : Nat) : Except (Nat × Nat) (List Byte) :=
  if !canonical a then .error (22, a.toNat) else s.unitRead c noCore a.toNat n

/-- The places of the bytes of a store. -/
def State.copyPlaces (s : State) (c : Context) (a : Dword) : Nat → Except (Nat × Nat) (List Place)
  | 0 => .ok []
  | n + 1 =>
    if !canonical a then .error (22, a.toNat)
    else
      match s.access c .store a with
      | .trap code => .error (code, a.toNat)
      | .wait => .error (waitCode, a.toNat)
      | .ok p =>
        match s.copyPlaces c (a + 1) n with
        | .error e => .error e
        | .ok ps => .ok (p :: ps)

/-- What a copy's writing has come to: it waits for a page, it met a fault after what it had written, or it is written, with what stood in the
bytes that it has overwritten. -/
inductive Wrote where
  | waits (k : AccKind) (a : Nat)
  | fault (s : State) (a : Nat)
  | ok (s : State) (before : List Host.Cell)

/-- The moves of a copy to memory, byte by byte: the key that it writes, and the key and the address that it reads. -/
def State.copyMoves (s : State) (c : Context) (es : List Elem) : List (Nat × Nat × Dword) :=
  es.flatMap fun e => (List.range e.n).filterMap fun (i : Nat) =>
    match s.keyNow c (addrOf (e.dst + (i : Int))), s.keyNow c (addrOf (e.src + (i : Int))) with
    | some d, some r => some (d, r, addrOf (e.src + (i : Int)))
    | _, _ => none

/-- A byte whose value from before the copy stands, by the copy's own moves, in a byte that it writes: which is free, from the choices numbered
from `j` on. -/
def State.copyFrom (s : State) (moves : List (Nat × Nat × Dword)) (j : Nat) : Nat → Nat × Dword → Nat × Dword
  | 0, x => x
  | fuel + 1, x =>
    let ws := moves.filter fun (m : Nat × Nat × Dword) => m.1 == x.1
    match if s.someBit j then none else ws[(s.someWord (j + 1)).toNat % ws.length]? with
    | some w => s.copyFrom (moves.erase w) (j + 2) fuel w.2
    | none => x

/-- The bytes of a source as the copy takes them: one that the copy writes too reads as it was, or a value that the copy wrote or is yet to write
there, which is free (R293, log 12); `j` numbers the choices. -/
def State.copySource (s : State) (c : Context) (moves : List (Nat × Nat × Dword)) (before : List Host.Cell) (j : Nat) (e : Elem)
    (bs : List Byte) : List Byte :=
  let others := (s.copyMoves c [e]).foldl List.erase moves
  bs.zipIdx.map fun (x : Byte × Nat) =>
    match s.unitKey c (addrOf (e.src + (x.2 : Int))).toNat with
    | none => x.1
    | some k =>
      if (!others.any fun (m : Nat × Nat × Dword) => m.1 == k) || s.someBit (j + x.2) then x.1
      else
        let o := s.copyFrom others (70000 + 64 * (j + x.2)) others.length (k, addrOf (e.src + (x.2 : Int)))
        match before.find? fun (y : Host.Cell) => y.1 == o.1, s.copyRead c o.2 1 with
        | some y, _ => y.2
        | none, .ok [b] => b
        | none, _ => x.1

/-- What stands in the bytes that are about to be overwritten, for those that are not remembered yet. -/
def State.keepBefore (s : State) (c : Context) (before : List Host.Cell) (ps : List Place) : List Host.Cell :=
  before ++ (ps.filter fun p => !before.any fun (y : Host.Cell) => y.1 == p.key).map fun p => (p.key, s.unitByte c.field noCore p p.key)

/-- Copy elements to memory in ascending order. -/
def State.copyMem (s : State) (c : Context) (op : Nat) (moves : List (Nat × Nat × Dword)) (before : List Host.Cell) (j : Nat) :
    List Elem → Wrote
  | [] => .ok s before
  | e :: rest =>
    match s.copyRead c (addrOf e.src) e.n, s.copyPlaces c (addrOf e.dst) e.n with
    | .error x, _ => if x.1 = waitCode then .waits .load x.2 else .fault s x.2
    | _, .error x => if x.1 = waitCode then .waits .store x.2 else .fault s x.2
    | .ok bs, .ok ps =>
      (s.unitPut c op false ps (s.copySource c moves before j e bs) (addrOf e.dst)).copyMem c op moves (s.keepBefore c before ps)
        (j + e.n) rest

/-- The writes of a copy to scratchpad, read now, with the offsets they go to; the base is the slot's for a circular buffer. -/
def State.copyScratch (s : State) (c : Context) (base : Nat) : List Elem → Except (Nat × Nat) (List (Nat × List Byte))
  | [] => .ok []
  | e :: rest =>
    match s.copyRead c (addrOf e.src) e.n with
    | .error x => .error x
    | .ok bs =>
      match s.copyScratch c base rest with
      | .error x => .error x
      | .ok ws => .ok ((base + e.dst.toNat, bs) :: ws)

/-- The keys of a copy's sources, whose shadows are rounded as they are read (R96). -/
def State.copyKeys (s : State) (c : Context) (es : List Elem) : List Nat :=
  es.flatMap fun e => (List.range e.n).filterMap fun (i : Nat) => s.unitKey c (addrOf (e.src + (i : Int))).toNat

/-- The samples of a packet's tiles, as pixel and sample number (R343). -/
def rasterSamples (b : List Byte) : List (Nat × Nat × Nat) :=
  let x0 := 32 * (pkWord b 11 % 2 ^ 16)
  let y0 := 32 * (pkWord b 11 / 2 ^ 16)
  let xs := ((List.range (32 * (pkWord b 12 % 2 ^ 16))).map (x0 + ·)).filter fun x => decide (x < rasterWidth b)
  let ys := ((List.range (32 * (pkWord b 12 / 2 ^ 16))).map (y0 + ·)).filter fun y => decide (y < rasterHeight b)
  ys.flatMap fun y => xs.flatMap fun x => (List.range (samplesOf (rasterCode b))).map fun k => (x, y, k)

/-- A record of the visibility buffer (R343). -/
def sampleBytes (v : Word × Nat) : List Byte := leBytes 8 v.2 ++ leBytes 4 v.1.toNat ++ leBytes 4 0

/-- The starting value that CLEAR gives: no primitive, at CLEARZ (R342). -/
def rasterStart (b : List Byte) : Word × Nat := (BitVec.ofNat 32 (pkWord b 10), 2 ^ 64 - 1)

/-- The writes of a field's rasterisers keep their order at each line, as those of one agent: packets may overlap (R343). -/
def rasterAgent : Nat := 65536

/-- Write a sample's record. -/
def State.rasterPut (s : State) (c : Context) (op : Nat) (ps : List Place) (v : Word × Nat) (a : Dword) : State :=
  let s := s.unitPut c op false ps (sampleBytes v) a
  { s with flights := mapWhere (fun f => f.op == op) (fun f => { f with core := rasterAgent }) s.flights }

/-- The record of a sample as it stands once every write of a rasteriser that is on its way has come to it (R343). -/
def State.rasterOld (s : State) (c : Context) (ps : List Place) (bs : List Byte) : List Byte :=
  (ps.zip bs).map fun (x : Place × Byte) =>
    ((s.flights.reverse.find? fun f => f.core == rasterAgent && f.src == c.field && !f.applied && !f.lost && (cellGet? f.cells x.1.key).isSome).bind
      fun f => cellGet? f.cells x.1.key).getD x.2

/-- The samples of a faulted packet take the starting value that CLEAR gives, as far as the buffer can be written (R342, R343). -/
def State.clearSamples (s : State) (c : Context) (op : Nat) (b : List Byte) : List (Nat × Nat × Nat) → Wrote
  | [] => .ok s []
  | x :: rest =>
    let a := visAddr (pkAddr b 6) (rasterWidth b) (samplesOf (rasterCode b)) x.1 x.2.1 x.2.2
    match s.copyPlaces c a 16 with
    | .ok ps => (if ps.any fun p => decide (2 ≤ keyTarget p.key) then s else s.rasterPut c op ps (rasterStart b) a).clearSamples c op b rest
    | .error e => if e.1 = waitCode then .waits .store e.2 else s.clearSamples c op b rest

/-! ## The issuer of a packet (R286, R288, R290) -/

/-- The warp whose packet it is, its operation and its block. -/
def State.copyIssuer (s : State) (f ctx key seq : Nat) (word : Nat) : Option (Nat × Nat × Nat) :=
  if !bitOf word 31 then none
  else
    match s.packetOps.find? fun p => p.queue == key && p.seq == seq with
    | some p => (s.warp? p.warp).map fun w => (w.uid, p.op, w.block)
    | none =>
      (s.warps.find? fun w => w.core == 40 * f + bitsOf word 13 8 && w.slot == word % 64 && w.alive && s.ctxidOf w == ctx).map
        fun w => (w.uid, 0, w.block)

/-! ## Completion (R291) -/

/-- COPY_FAULT for the issuer, or in the host record (R210, R291). -/
def State.copyFaulted (s : State) (r : CopyRun) (a : Dword) : State :=
  match r.warp.bind s.warp? with
  | some w =>
    if w.mode = .ended then s.kilnRecord r.field r.ctx 46 a
    else
      let op := w.copies.find? fun o => o.id == r.op
      let x : AsyncCause :=
        { op := r.op, ord := (op.map (·.ord)).getD 0, code := 46, faddr := a, lane := 0, kind := .copy, seq := (op.map (·.seq)).getD 0,
          firstReg := 0, nreg := 0, lanes := 0, zero := [], gmode := false, kept := false, wins := [], accs := [],
          buf := if packetSpace r.packet = 2 then some (dstBuf r.packet) else none }
      (s.addAsync w.uid x).finishCopy w.uid r.op
  | none => s.kilnRecord r.field r.ctx 46 a

/-- Mark claim i of a buffer written (R141). -/
def Cbuf.markAt (c : Cbuf) (i : Nat) : Cbuf :=
  cbFilled c (c.claims.zipIdx.map fun (x : (Bool × Bool) × Nat) => if x.2 = i then (x.1.1, true) else x.1)

/-- The slot that a copy claimed is marked written (R141). -/
def State.fillSlot (s : State) (r : CopyRun) : State :=
  match r.claimed with
  | none => s
  | some (buf, slot) => s.modCbuf r.block buf fun c =>
      let n := cbSlots c.record
      c.markAt ((slot + 2 * n - c.rd - c.filled) % n)

/-- The instance of a COPY node has completed (R323); `bit` goes into STATUS, and the copy is one that has written for the graph (R317). -/
def State.copyNodeDone (s : State) (g k : Nat) (bit : Word) : State :=
  let complete : Inst → Inst := fun i => { i with state := .complete }
  let put : Graph → Graph := fun x =>
    { x with
      status := x.status ||| bit
      insts := mapWhere (fun i => i.index == k) complete x.insts
      writers := x.writers ++ ((x.insts.filter fun i => i.index == k).map (·.copy)).filter (· != 0) }
  { s with graphs := mapWhere (fun x => x.uid == g) put s.graphs }

/-- A COPY producer has completed: each consumer tile that waits on it loses 1 (R331). -/
def State.copyNodeTiles (s : State) (g k : Nat) : State :=
  let less : Inst → Inst := fun i =>
    let n := (i.producers.filter fun (p : Option Nat) => p == some k).length
    let dec : Tile → Tile := fun t =>
      let w := t.wait - n
      { t with wait := w, state := if t.state = .waiting ∧ w = 0 ∧ i.state = .started then .ready else t.state }
    if n = 0 then i else { i with tiles := i.tiles.map dec }
  let put : Graph → Graph := fun x => { x with insts := x.insts.map less }
  { s with graphs := mapWhere (fun x => x.uid == g) put s.graphs }

/-- The lines that a copy has written. -/
def CopyRun.lines (r : CopyRun) : List Nat := dedupNat (r.before.map fun (x : Host.Cell) => lineOf x.1)

/-- Lines are no longer held in the L1 of the core of a copy's issuer, which acquires at its completion (R238). -/
def State.copyDropL1 (s : State) (r : CopyRun) (lines : List Nat) : State :=
  match r.warp.bind s.warp? with
  | some w => s.dropL1Lines w.core lines
  | none => s

/-- A run is gone: its packet leaves its issuer's class, and a node's instance is complete. -/
def State.copyGone (s : State) (r : CopyRun) (bit : Word) : State :=
  let s : State := { s with
    copies := s.copies.filter fun x => x.id != r.id
    packetOps := s.packetOps.filter fun p => p.op != r.op || r.op == 0 }
  match r.inst with
  | none => s
  | some (g, k) => (s.copyNodeDone g k bit).copyNodeTiles g k

/-- A copy is over: with a fault, or complete, when its TASK is decremented, its packet leaves its issuer's class and its slot is
marked (R141, R291). A task table that must be waited for is waited for. -/
def State.copyOver (s : State) (r : CopyRun) : State :=
  match r.fault with
  | some a => (s.copyFaulted r a).copyGone r 2
  | none =>
    let d := s.unitDec r.field r.tq r.task
    if !d.2 then d.1
    else
      let s := match r.warp with
        | some u => d.1.finishCopy u r.op
        | none => d.1
      ((s.fillSlot r).copyDropL1 r r.lines).copyGone r 0

/-! ## Starting (R291, R294) -/

/-- Start a packet's run: how it goes on is known, or it waits. -/
inductive Started where
  | waits (s : State)
  | run (s : State) (r : CopyRun)

def CopyRun.failed (r : CopyRun) (a : Dword) : CopyRun := { r with fault := some a, done := true }

/-- The wait of a unit for a page. -/
def State.startWait (s : State) (r : CopyRun) (k : AccKind) (a : Nat) : Started := .waits (s.unitWait r.field r.ctx k a)

/-- Where a copy to scratchpad goes: the allocation, the offset that it starts from and the bytes it may take (R290). -/
def CopyRun.target (r : CopyRun) (b : Block) (l : Launch) : Nat × Nat × Nat :=
  if dstSpace r.packet = 2 then
    let buf := (b.cbufs[dstBuf r.packet]?).getD noCbuf
    let slot := (r.claimed.map fun (c : Nat × Nat) => c.2).getD buf.wr
    (cbAlloc buf.record, buf.slotOffset slot, 64 * cbSlotSize buf.record)
  else (dstAlloc r.packet, 0, l.scratchSize (dstAlloc r.packet))

/-- A copy to scratchpad or to a circular buffer: it must fit, and it claims a slot of a buffer, which it waits for (R141, R290). -/
def State.startScratch (s : State) (r : CopyRun) : Started :=
  match s.block? r.block with
  | none => .run s (r.failed 0)
  | some b =>
    match s.launch? b.launch with
    | none => .run s (r.failed 0)
    | some l =>
      let buf := (b.cbufs[dstBuf r.packet]?).getD noCbuf
      let to_ := r.target b l
      if dstSpace r.packet = 2 ∧ !buf.init then .run s (r.failed 0)
      else
        match (copyElems r.packet r.desc).find? fun e => decide (e.dst < 0) || decide (to_.2.2 < e.dst.toNat + e.n) with
        | some e => .run s (r.failed (BitVec.ofNat 64 (to_.2.1 + e.dst.toNat)))
        | none =>
          if dstSpace r.packet ≠ 2 then .run s r
          else if buf.free = 0 then .waits s
          else .run (s.modCbuf b.uid (dstBuf r.packet) fun c => c.claim false) { r with claimed := some (dstBuf r.packet, buf.wr) }

/-- The words of a range of memory, as a unit reads them. -/
def State.unitWords (s : State) (c : Context) (a : Dword) : Nat → Except (Nat × Nat) (List Word)
  | 0 => .ok []
  | n + 1 =>
    match s.copyRead c a 4 with
    | .error e => .error e
    | .ok bs =>
      match s.unitWords c (a + 4) n with
      | .error e => .error e
      | .ok ws => .ok (BitVec.ofNat 32 (leNat bs) :: ws)

/-- The keys of a range of a context's memory. -/
def State.rangeKeys (s : State) (f ctx : Nat) (a : Dword) (len : Nat) : List Nat :=
  match s.ctx? f ctx with
  | none => []
  | some c => (List.range len).filterMap fun i => s.unitKey c (a.toNat + i)

/-- Add a contribution to a session's words. -/
def Session.add (x : Session) (ws : List Word) (run : Nat) : Session :=
  { x with words := (x.words.zip ws).map fun (p : List Word × Word) => p.2 :: p.1, runs := x.runs ++ [run] }

/-- A REDUCE packet opens its session or adds to it; one that finds its session full waits for a free one (R294). -/
def State.startReduce (s : State) (c : Context) (r : CopyRun) : Started :=
  let b := r.packet
  let n := pkWord b 6 / 4
  let dst := pkAddr b 4
  let mine := s.rangeKeys r.field r.ctx dst (4 * n)
  let src : Elem := { src := ((recNat b 8 8 : Nat) : Int), dst := 0, n := 4 * n }
  let old := s.sessions.find? fun x => x.field == r.field && x.index == pkWord b 8
  let clash := s.sessions.any fun x => x.field == r.field && x.index != pkWord b 8 &&
    (s.rangeKeys x.field x.ctx x.dst x.len).any mine.contains
  let differs := old.any fun x => x.ctx != r.ctx || x.dst != dst || x.len != 4 * n || x.expect != pkWord b 9
  if differs || clash then .run s (r.failed dst)
  else if old.any fun x => x.runs.length == x.expect then .waits s
  else
    let s := s.roundShadows (s.copyKeys c [src] ++ if old.isNone then mine else [])
    match s.unitWords c (pkAddr b 2) n, s.copyPlaces c dst (4 * n), s.unitWords c dst n with
    | .error x, _, _ => if x.1 = waitCode then s.startWait r .load x.2 else .run s (r.failed (BitVec.ofNat 64 x.2))
    | _, .error x, _ => if x.1 = waitCode then s.startWait r .store x.2 else .run s (r.failed (BitVec.ofNat 64 x.2))
    | _, _, .error x => if x.1 = waitCode then s.startWait r .load x.2 else .run s (r.failed (BitVec.ofNat 64 x.2))
    | .ok ws, .ok ps, .ok ds =>
      let x : Session := old.getD
        { field := r.field, index := pkWord b 8, ctx := r.ctx, dst := dst, len := 4 * n, expect := pkWord b 9,
          words := ds.map fun d => [d], runs := [], closed := false,
          cells := (ps.map (·.key)).zip (ds.flatMap fun d => leBytes 4 d.toNat) }
      let rest := s.sessions.filter fun y => !(y.field == x.field && y.index == x.index)
      .run { s with sessions := rest ++ [x.add ws r.id] } { r with session := some x.index }

/-- What a packet that has no fault of its own starts. -/
def State.startKind (s : State) (c : Context) (r : CopyRun) : Started :=
  match pkKind r.packet with
  | 0 => .run s { r with done := true }
  | 5 => s.startReduce c r
  | 6 =>
    if s.variant == .lk2080n || s.visPlaceBad c (pkAddr r.packet 6) (visBytes (BitVec.ofNat 32 (pkWord r.packet 8)) (samplesOf (rasterCode r.packet))) then .run s (r.failed (pkAddr r.packet 6)) else .run s r
  | _ => if dstSpace r.packet = 0 then .run s r else s.startScratch r

/-- Start a packet: a TENSOR's descriptor is read first. -/
def State.startRun (s : State) (c : Context) (r : CopyRun) : Started :=
  if packetBad r.packet || (decide (packetSpace r.packet ≠ 0) && r.warp.isNone) then .run s (r.failed 0)
  else if pkKind r.packet = 4 then
    let a := pkAddr r.packet 2
    match s.readRecord c a 4 with
    | .trap _ => .run s (r.failed a)
    | .wait s => .waits s
    | .ok (s, d) => if tensorBad r.packet d then .run s (r.failed a) else s.startKind c { r with desc := d }
  else s.startKind c r

/-- A RASTER packet with CLEAR that is faulted as it starts leaves its samples at their starting value (R343). -/
def Started.cleared (c : Context) : Started → Started
  | .waits s => .waits s
  | .run s r =>
    if r.fault.isNone || pkKind r.packet ≠ 6 || !rasterClear r.packet then .run s r
    else
      match s.clearSamples c r.id r.packet (rasterSamples r.packet) with
      | .waits k a => s.startWait r k a
      | .fault s _ => .run s r
      | .ok s _ => .run s r

/-- The run is registered; a faulted copy is over at once. -/
def Started.state (x : Started) : State :=
  match x with
  | .waits s => s
  | .run s r => if r.fault.isSome then s.copyOver r else { s with copies := s.copies ++ [r] }

/-- An engine runs at most eight packets. -/
def State.engineFree (s : State) (f e : Nat) : Bool := decide ((s.copies.filter fun r => r.field == f && r.engine == e).length < 8)

/-- Copies of a context may start and complete: it is not stopped, saved or gone (R275). -/
def Context.copying (c : Context) : Bool :=
  match c.state with
  | .idle => true
  | .running => true
  | .draining => true
  | _ => false

/-- The next packet of a copy queue may start, in the engine that its descriptor names (R283, R288, R291). -/
def State.copyReady (s : State) (f q : Nat) : Option Nat :=
  match (s.head f q).2 with
  | none => none
  | some (x, h) => if x.kind = 1 ∧ h.c.copying ∧ !(pkOrder (h.bytes.getD []) && s.queueBusy f q) then some h.d.engine else none

/-- The queue that an engine serves next: the first one with a packet to start after the one it served last (R291). -/
def State.copyTurn (s : State) (f e : Nat) : Option Nat :=
  let last := ((s.field? f).bind fun x => x.copyRotor.find? fun (y : Nat × Nat) => y.1 == e).map fun (y : Nat × Nat) => y.2
  ((List.range 64).map fun i => (last.getD 63 + 1 + i) % 64).find? fun q => s.copyReady f q == some e

/-- An engine has served a queue. -/
def State.copyServed (s : State) (f e q : Nat) : State :=
  s.modField f fun x => { x with copyRotor := (e, q) :: x.copyRotor.filter fun (y : Nat × Nat) => y.1 != e }

/-- Start the next packet of a copy queue: its slot is freed as it starts (R283, R291). -/
def State.startNext (s : State) (f q : Nat) : State :=
  match s.head f q with
  | (s, none) => s
  | (_, some (x, h)) =>
    let e := h.d.engine
    if x.kind ≠ 1 ∨ !s.engineFree f e ∨ s.copyTurn f e ≠ some q then s
    else
      let b := h.bytes.getD []
      let who := h.s.copyIssuer f x.ctx h.d.key h.d.rd (pkWord b 1)
      let r : CopyRun :=
        { id := h.s.nextUid, field := f, engine := e, ctx := x.ctx, queue := some q, order := h.d.rd, inst := none, packet := b,
          desc := [], tq := h.d.tq, task := pkTask b, warp := who.map fun (w : Nat × Nat × Nat) => w.1,
          op := (who.map fun (w : Nat × Nat × Nat) => w.2.1).getD 0, block := (who.map fun (w : Nat × Nat × Nat) => w.2.2).getD 0,
          claimed := none, session := none, pos := 0, before := [], done := false, fault := none }
      let s1 := { h.s with nextUid := h.s.nextUid + 1 }.copyServed f e q
      let start := if h.bytes.isNone then Started.run s1 (r.failed (h.d.slotAddr h.d.rd)) else (s1.startRun h.c r).cleared h.c
      match start with
      | .waits s2 => s2
      | .run s2 r => (Started.run (s2.freeSlot h.d) r).state

/-- COPY_START. -/
def execCopyStart (field q : Nat) (s : State) : Host.Outcome State Fault Refusal := .next (s.startNext field q)

/-! ## Going on (R275, R291) -/

/-- Keep a run as it now stands. -/
def State.putRun (s : State) (r : CopyRun) : State := { s with copies := mapWhere (fun x => x.id == r.id) (fun _ => r) s.copies }

/-- The elements of the next 4 KiB of a copy's destination (R275). -/
def CopyRun.chunk (r : CopyRun) : List Elem :=
  let es := (copyElems r.packet r.desc).drop r.pos
  es.take (4096 / ((es.head?.map (·.n)).getD 1))

/-- Nothing of a copy is left to write, to be applied or to be performed at DEVICE scope (R135, R291). -/
def State.copyDone (s : State) (r : CopyRun) : Bool :=
  r.done && s.performed 2 r.id && !(s.block? r.block).any fun b => b.bankq.any fun q => q.run == r.id

/-- A packet that has made all its writes counts, in the counters of each window whose accesses have all come to their homes, or been acknowledged,
by then (R236); the others count it as the last of them does. At a peer module its doorbell write counts it (R427). -/
def State.countRun (s : State) (r : CopyRun) : State :=
  let mine : Flight → Bool := fun f => f.op == r.id
  let dst : State → Dword → State := fun s h =>
    if handleModule h != s.moduleOf r.field || s.flights.any fun f => mine f && f.handle == h && (!f.applied || f.lost) then s else s.countDst h
  let src : State → Nat × Dword → State := fun s x =>
    if s.flights.any fun f => mine f && f.win == some x.1 then s else s.countSrc r.field r.ctx x.1
  let bell : State → Dword → State := fun s h =>
    if handleModule h != s.moduleOf r.field then s.doorbell r.field (((s.flights.filter mine).map (·.id)).foldl max 0) h else s
  let s := (r.windows.map fun (x : Nat × Dword) => x.2).eraseDups.foldl bell s
  r.windows.foldl src ((r.windows.map fun (x : Nat × Dword) => x.2).eraseDups.foldl dst s)

/-- A copy has written a chunk: it goes on with the next, or is over. -/
def State.copyNext (s : State) (r : CopyRun) (n : Nat) : State :=
  let through := (s.flights.filter fun f => f.op == r.id).filterMap fun f => f.win.map fun x => (x, f.handle)
  let r := { r with
    pos := r.pos + n
    done := decide ((copyElems r.packet r.desc).length ≤ r.pos + n)
    windows := (r.windows ++ through).eraseDups }
  let s := s.putRun r
  let s := if r.done then s.countRun r else s
  if s.copyDone r then s.copyOver r else s

/-- The next chunk of a copy to memory. Whether what it had written of the chunk before a fault stands is free. -/
def State.copyChunk (s : State) (c : Context) (r : CopyRun) : State :=
  let es := r.chunk
  let s := s.roundShadows (s.copyKeys c es)
  match s.copyMem c r.id (s.copyMoves c (copyElems r.packet r.desc)) r.before 0 es with
  | .waits k a => s.unitWait r.field r.ctx k a
  | .fault t a => (if s.someBit 65000 then t else s).copyOver (r.failed (BitVec.ofNat 64 a))
  | .ok s before => s.copyNext { r with before := before } es.length

/-- Where the writes of one copy meet, the later one prevails (R293): the bytes of an earlier one are no longer queued. -/
def queueOver (run : Nat) (qs : List BankWrite) (q : BankWrite) : List BankWrite :=
  let cut : BankWrite → BankWrite := fun x =>
    { x with cells := x.cells.filter fun (y : Host.Cell) => !q.cells.any fun (z : Host.Cell) => z.1 == y.1 }
  mapWhere (fun x => x.run == run) cut qs ++ [q]

/-- The next chunk of a copy to scratchpad queues its writes, which count as one operation of the issuer's loads class (R135; DEDUCED, log 125). -/
def State.scratchChunk (s : State) (c : Context) (r : CopyRun) : State :=
  match r.warp.bind s.warp?, s.block? r.block with
  | some w, some b =>
    match s.launch? b.launch with
    | none => s.copyOver (r.failed 0)
    | some l =>
      if b.state ≠ .resident ∨ classFull w.loads then s
      else
        let es := r.chunk
        let s := s.roundShadows (s.copyKeys c es)
        let to_ := r.target b l
        match s.copyScratch c to_.2.1 es with
        | .error x => if x.1 = waitCode then s.unitWait r.field r.ctx .load x.2 else s.copyOver (r.failed (BitVec.ofNat 64 x.2))
        | .ok ws =>
          let op := s.nextUid
          let qs := ws.map fun (x : Nat × List Byte) =>
            ({ alloc := to_.1, cells := l.scratchCells to_.1 x.1 x.2, warp := w.uid, op := op, run := r.id } : BankWrite)
          let s : State := { s with nextUid := op + 1 }
          let s := s.modWarp w.uid fun w => w.addLoad { LoadOp.taken op with kind := .bankq, done := false }
          let s := s.modBlock b.uid fun b => { b with bankq := qs.foldl (queueOver r.id) b.bankq }
          s.copyNext r es.length
  | _, _ => s.copyOver (r.failed 0)

/-- COPY_COMPLETE: a copy writes its next 4 KiB, and completes once all it has written is applied and performed; a RASTER packet once it is
resolved. -/
def execCopyComplete (id : Nat) (s : State) : Host.Outcome State Fault Refusal :=
  match s.copies.find? fun r => r.id == id with
  | none => .next s
  | some r =>
    match s.ctx? r.field r.ctx with
    | none => .next s
    | some c =>
      if !c.copying || r.session.isSome then .next s
      else if r.fault.isSome || s.copyDone r then .next (s.copyOver r)
      else if r.done || pkKind r.packet = 6 then .next s
      else if dstSpace r.packet = 0 then .next (s.copyChunk c r)
      else .next (s.scratchChunk c r)

/-! ## Reduction sessions (R98, R294) -/

/-- What a contribution adds to the fixed-point sum, in units of 2^-64, and its flags: +infinity, -infinity, NaN (R98). -/
def fixedPart (x : Word) : Int × Bool × Bool × Bool :=
  match fp32.decode x.toNat with
  | .nan _ => (0, false, false, true)
  | .inf neg => (0, !neg, neg, false)
  | .fin neg m e =>
    let mag : Nat := if 0 ≤ e + 64 then m * 2 ^ (e + 64).toNat else m / 2 ^ (-(e + 64)).toNat
    if 2 ^ 128 ≤ mag then (0, !neg, neg, false) else (if neg then -(mag : Int) else (mag : Int), false, false, false)

/-- The result of a session for one word (R98). -/
def fixedResult (ws : List Word) : Word :=
  let ps := ws.map fixedPart
  let sum := (ps.map fun (p : Int × Bool × Bool × Bool) => p.1).foldl (· + ·) 0
  let pos := ps.any fun (p : Int × Bool × Bool × Bool) => p.2.1
  let neg := ps.any fun (p : Int × Bool × Bool × Bool) => p.2.2.1
  let nan := ps.any fun (p : Int × Bool × Bool × Bool) => p.2.2.2
  if nan || (pos && neg) then BitVec.ofNat 32 fp32.nanBits
  else if pos then BitVec.ofNat 32 (fp32.infOf false)
  else if neg then BitVec.ofNat 32 (fp32.infOf true)
  else if 2 ^ 128 ≤ sum.natAbs then BitVec.ofNat 32 (fp32.infOf (decide (sum < 0)))
  else if sum = 0 then 0
  else BitVec.ofNat 32 (roundVal fp32 .rn (.fin (decide (sum < 0)) sum.natAbs (-64))).1

/-- The keys of the buffers that a session names: its destination and its packets' sources. -/
def State.sessionKeys (s : State) (x : Session) : List Nat :=
  s.rangeKeys x.field x.ctx x.dst x.len ++
    (s.copies.filter fun r => x.runs.contains r.id).flatMap fun r => s.rangeKeys r.field r.ctx (pkAddr r.packet 2) x.len

/-- The participants' stores and atomics to those buffers, and the stores there whose bytes they have read, are performed at DEVICE scope (R230,
R240). -/
def State.sessionStores (s : State) (x : Session) : Bool :=
  let keys := s.sessionKeys x
  let us := (s.copies.filter fun r => x.runs.contains r.id).filterMap (·.warp)
  let seen := (s.warps.filter fun w => us.contains w.uid).flatMap (·.seen)
  (s.warps.all fun w => !us.contains w.uid || w.sq.all fun e => !e.bytes.any fun b => keys.contains b.key) &&
  (s.flights.all fun f => !(us.contains f.warp || seen.contains f.op) || f.lost || f.performed 2 ||
    !f.cells.any fun (y : Host.Cell) => keys.contains y.1) &&
  s.areqs.all fun r => !(us.contains r.warp || seen.contains r.op) || r.lost || (r.applied && !r.leaving) || !keys.any fun k => lineOf k == r.line

/-- A session is over: its packets go on to complete, with an acquire of the buffers by each participant (R240), or they fail. -/
def State.endSession (s : State) (x : Session) (fault : Option Dword) : State :=
  let lines := dedupNat ((s.sessionKeys x).map lineOf)
  let s : State := { s with sessions := s.sessions.filter fun y => !(y.field == x.field && y.index == x.index) }
  (s.copies.filter fun r => x.runs.contains r.id).foldl (fun s r =>
    let r : CopyRun := { r with session := none, done := true, fault := fault }
    ((s.putRun r).copyDropL1 r lines).copyOver r) s

/-- A session that has its contributions writes its results, and is over once they are performed at DEVICE scope. -/
def State.closeSession (s : State) (c : Context) (x : Session) : State :=
  let op := (x.runs.head?).getD 0
  if x.closed then
    if s.performed 2 op && s.sessionStores x then
      s.endSession x ((s.copies.find? fun r => r.id == op).bind (·.fault))
    else s
  else
    match s.copyPlaces c x.dst x.len with
    | .error e =>
      if e.1 = waitCode then s.unitWait x.field x.ctx .store e.2 else s.endSession x (some (BitVec.ofNat 64 e.2))
    | .ok ps =>
      let s := s.unitPut c op false ps (x.words.flatMap fun ws => leBytes 4 (fixedResult ws).toNat) x.dst
      let x : Session := { x with closed := true }
      let s : State := { s with sessions := mapWhere (fun y => y.field == x.field && y.index == x.index) (fun _ => x) s.sessions }
      if s.performed 2 op && s.sessionStores x then s.endSession x none else s

/-- REDUCE_SESSION_CLOSE: every contribution of session k has come, and then its results are performed. -/
def execReduceSessionClose (field k : Nat) (s : State) : Host.Outcome State Fault Refusal :=
  match s.sessions.find? fun x => x.field == field && x.index == k with
  | none => .next s
  | some x =>
    match s.ctx? x.field x.ctx with
    | none => .next s
    | some c => .next (if x.runs.length = x.expect && c.copying then s.closeSession c x else s)

/-! ## The rasteriser (R340 to R343) -/

/-- A draw table entry, as read. -/
structure Draw where
  pos : Nat
  idx : Nat
  nprim : Nat
  ninst : Nat
  flags : Nat
  ipstride : Nat
  deriving DecidableEq, Repr

def drawOf (b : List Byte) : Draw :=
  { pos := recNat b 0 8, idx := recNat b 8 8, nprim := recNat b 24 4, ninst := recNat b 28 2, flags := recNat b 30 1,
    ipstride := recNat b 32 4 }

/-- A draw entry has a reserved field set (R340, R343). -/
def drawBad (b : List Byte) : Bool := decide (4 ≤ recNat b 30 1) || decide (recNat b 31 1 ≠ 0) || decide (recNat b 42 22 ≠ 0)

/-- A triangle as the rasteriser takes it: its identifier and corners. -/
structure Tri where
  id : Nat
  flags : Nat
  v0 : Corner
  v1 : Corner
  v2 : Corner
  deriving DecidableEq, Repr

/-- Where the index of vertex k of primitive p stands, and where vertex n of instance i does (R340). -/
def Draw.indexAddr (d : Draw) (p k : Nat) : Dword := BitVec.ofNat 64 (d.idx + 12 * p + 4 * k)
def Draw.vertexAddr (d : Draw) (i n : Nat) : Dword := BitVec.ofNat 64 (d.pos + d.ipstride * i + 16 * n)

/-- The index of vertex k of primitive p (R340). -/
def State.rasterIndex (s : State) (c : Context) (d : Draw) (p k : Nat) : Except (Nat × Nat) Nat :=
  if d.idx = 0 then .ok (3 * p + k)
  else
    match s.copyRead c (d.indexAddr p k) 4 with
    | .error e => .error e
    | .ok bs => .ok (leNat bs)

/-- The corner of a vertex, none where x, y or z is not finite (R341). -/
def State.rasterCorner (s : State) (c : Context) (d : Draw) (p i k : Nat) : Except (Nat × Nat) (Option Corner) :=
  match s.rasterIndex c d p k with
  | .error e => .error e
  | .ok n =>
    match s.copyRead c (d.vertexAddr i n) 16 with
    | .error e => .error e
    | .ok bs =>
      let f : Nat → Option Rat := fun j => finOf (BitVec.ofNat 32 (recNat bs (4 * j) 4))
      .ok (match f 0, f 1, f 2 with
        | some x, some y, some z => some { x := x, y := y, z := z, q := 0 }
        | _, _, _ => none)

/-- The triangle of primitive p of instance i of draw n, unless it covers nothing (R341, R342). -/
def State.rasterTri (s : State) (c : Context) (d : Draw) (n p i : Nat) : Except (Nat × Nat) (Option Tri) :=
  match s.rasterCorner c d p i 0, s.rasterCorner c d p i 1, s.rasterCorner c d p i 2 with
  | .error e, _, _ => .error e
  | _, .error e, _ => .error e
  | _, _, .error e => .error e
  | .ok (some v0), .ok (some v1), .ok (some v2) =>
    let a := triArea v0 v1 v2
    let hidden := decide (a = 0) || (decide (0 < a) && bitOf d.flags 1) || (decide (a < 0) && bitOf d.flags 0)
    .ok (if hidden then none else some { id := (n * 2 ^ 44) ||| (p * 2 ^ 12) ||| i, flags := d.flags, v0 := v0, v1 := v1, v2 := v2 })
  | .ok _, .ok _, .ok _ => .ok none

/-- Every triangle of a draw. -/
def State.drawTris (s : State) (c : Context) (b : List Byte) (n : Nat) : Except (Nat × Nat) (List Tri) :=
  match s.copyRead c (drawAddr (pkAddr b 2) n) 64 with
  | .error e => .error e
  | .ok bs =>
    if drawBad bs then .error (46, (drawAddr (pkAddr b 2) n).toNat)
    else
      let d := drawOf bs
      let ps := (List.range d.ninst).flatMap fun i => (List.range d.nprim).map fun p => (p, i)
      match allOk (fun (x : Nat × Nat) => s.rasterTri c d n x.1 x.2) ps with
      | .error e => .error e
      | .ok ts => .ok (ts.filterMap fun t => t)

/-- The keys of what the rasteriser reads for a draw. -/
def State.drawKeys (s : State) (c : Context) (b : List Byte) (n : Nat) : List Nat :=
  let at_ : Dword → Nat → List Nat := fun a n => (List.range n).filterMap fun (i : Nat) => s.unitKey c (a.toNat + i)
  let a := drawAddr (pkAddr b 2) n
  at_ a 64 ++
    match s.copyRead c a 64 with
    | .error _ => []
    | .ok bs =>
      if drawBad bs then []
      else
        let d := drawOf bs
        (List.range d.ninst).flatMap fun i => (List.range d.nprim).flatMap fun p => (List.range 3).flatMap fun k =>
          (if d.idx = 0 then [] else at_ (d.indexAddr p k) 4) ++
            match s.rasterIndex c d p k with
            | .error _ => []
            | .ok v => at_ (d.vertexAddr i v) 16

/-- A zero edge function counts for a top or left edge of the triangle turned so that its area is positive, y growing downward
(R341). -/
def edgeIn (a b : Corner) (e : Rat) : Bool :=
  decide (0 < e) || (decide (e = 0) && ((decide (b.y = a.y) && decide (a.x < b.x)) || decide (b.y < a.y)))

/-- The triangle covers a sample point. -/
def Tri.covers (t : Tri) (p : Rat × Rat) : Bool :=
  let v1 := if 0 < triArea t.v0 t.v1 t.v2 then t.v1 else t.v2
  let v2 := if 0 < triArea t.v0 t.v1 t.v2 then t.v2 else t.v1
  edgeIn t.v0 v1 (areaOf t.v0 v1 p.1 p.2) && edgeIn v1 v2 (areaOf v1 v2 p.1 p.2) && edgeIn v2 t.v0 (areaOf v2 t.v0 p.1 p.2)

/-- The depth at a sample point, RN of the exact interpolation, where it lies in [0, 1]. -/
def Tri.depth (t : Tri) (p : Rat × Rat) : Option Word :=
  match screenBary t.v0 t.v1 t.v2 p.1 p.2 with
  | [l0, l1, l2] =>
    let z := rnRat (l0 * t.v0.z + l1 * t.v1.z + l2 * t.v2.z)
    match finOf z with
    | some x => if 0 ≤ x ∧ x ≤ 1 then some z else none
    | none => none
  | _ => none

/-- Depth and identifier order (R342): the depth as a number, -0 as +0. -/
def depthKey (z : Word) : Nat := if z = 0x80000000#32 then 0 else z.toNat
def nearer (a b : Word × Nat) : Bool :=
  decide (depthKey a.1 < depthKey b.1) || (decide (depthKey a.1 = depthKey b.1) && decide (a.2 < b.2))

/-- FP32 order of a starting depth and a covering one; the rules give no order for a starting depth that is a NaN, and `free` decides. -/
def closer (free : Bool) (new old : Word × Nat) : Bool :=
  match fp32.decode old.1.toNat with
  | .nan _ => free
  | .inf neg => !neg
  | .fin neg m _ => !(neg && decide (m ≠ 0)) && nearer new old

/-- The final value of a sample (R342). -/
def resolveSample (free : Bool) (ts : List Tri) (p : Rat × Rat) (start : Word × Nat) : Word × Nat :=
  ts.foldl (fun best t =>
    if t.covers p then
      match t.depth p with
      | some z => if closer free (z, t.id) best then (z, t.id) else best
      | none => best
    else best) start

/-- Write the samples one by one: each is written where its value differs from its start, or with CLEAR (R342). -/
def State.rasterWrite (s : State) (c : Context) (b : List Byte) (op : Nat) (ts : List Tri) (i : Nat)
    (before : List Host.Cell) : List (Nat × Nat × Nat) → Wrote
  | [] => .ok s before
  | (x, y, k) :: rest =>
    let a := visAddr (pkAddr b 6) (rasterWidth b) (samplesOf (rasterCode b)) x y k
    let s := if rasterClear b then s else s.roundShadows ((List.range 16).filterMap fun (i : Nat) => s.unitKey c (a.toNat + i))
    match (if rasterClear b then .ok [] else s.copyRead c a 16), s.copyPlaces c a 16 with
    | .error e, _ => if e.1 = waitCode then .waits .load e.2 else .fault s e.2
    | _, .error e => if e.1 = waitCode then .waits .store e.2 else .fault s e.2
    | .ok old, .ok ps =>
      if ps.any fun p => decide (2 ≤ keyTarget p.key) then .fault s a.toNat
      else
      let old := s.rasterOld c ps old
      let start : Word × Nat := if rasterClear b then rasterStart b else (BitVec.ofNat 32 (recNat old 8 4), recNat old 0 8)
      let v := resolveSample (s.someBit i) ts (samplePoint (rasterCode b) x y k) start
      let written := v ≠ start ∨ rasterClear b
      (if written then s.rasterPut c op ps v a else s).rasterWrite c b op ts (i + 1)
        (if written then s.keepBefore c before ps else before) rest

/-- Every sample of a faulted packet holds its starting value, which with CLEAR is written as far as the buffer can be (R343). -/
def State.rasterFault (s : State) (c : Context) (r : CopyRun) (a : Nat) : State :=
  let over_ : State → State := fun s => s.copyOver (r.failed (BitVec.ofNat 64 a))
  if !rasterClear r.packet then over_ s
  else
    match s.clearSamples c r.id r.packet (rasterSamples r.packet) with
    | .waits k a => s.unitWait r.field r.ctx k a
    | .fault s _ => over_ s
    | .ok s _ => over_ s

/-- Resolve a packet. -/
def State.raster (s : State) (c : Context) (r : CopyRun) : State :=
  let b := r.packet
  let draws := (List.range (pkWord b 5)).map (pkWord b 4 + ·)
  -- the reads find every shadow rounded (R96)
  let t : State := { s with mem := s.roundedMem, shadows := [] }
  match allOk (fun n => t.drawTris c b n) draws with
  | .error e => if e.1 = waitCode then s.unitWait r.field r.ctx .load e.2 else s.rasterFault c r e.2
  | .ok tss =>
    let s := s.roundShadows (draws.flatMap (t.drawKeys c b))
    match s.rasterWrite c b r.id (tss.flatMap fun ts => ts) 0 [] (rasterSamples b) with
    | .waits k a => s.unitWait r.field r.ctx k a
    | .fault _ a => s.rasterFault c r a
    | .ok s before => s.putRun { r with done := true, before := before }

/-- RASTER_PACKET. -/
def execRasterPacket (id : Nat) (s : State) : Host.Outcome State Fault Refusal :=
  match s.copies.find? fun r => r.id == id with
  | none => .next s
  | some r =>
    match s.ctx? r.field r.ctx with
    | none => .next s
    | some c => .next (if pkKind r.packet = 6 && !r.done && c.copying then s.raster c r else s)

end Sys2Proof.Machine
end

