-- ==== Sys2Proof/Machine/Population.lean ====
section
/-! DEFINITION. RSMPL, the resampling and placing of a population (R370 to R378), and PSTAT (R379). -/

namespace Sys2Proof.Machine

open Sys2Proof

/-! ## RSMPL at issue (R370) -/

/-- What RSMPL names. -/
def rsmplMeta (sc : Scope) (a : Reg) (b : Opb) : Meta :=
  { cls := .rsmpl, scope := sc, a := a.toNat, na := 1, opb := some b, bad := b.isV, dep := fun _ _ c => releaseDep 1 c }

/-- RSMPL: after its block's rendezvous the block waits at the population's (R370). -/
def execRsmpl (sc : Scope) (d a : Reg) (b : Opb) (s : State) : Host.Outcome State Fault Refusal :=
  issue (rsmplMeta sc a b) s
    fun s j =>
      if j.launch.kind ≠ 2 then .trap (Trap.plain 54)
      else
        (s.uniform j .int b).eff fun y =>
          let r : Rsmpl := { start := j.start, next := j.next, d := d.toNat, a := j.a, b := b, target := y }
          let wait_ : Block → Block := fun x => { x with rsmpl := some r }
          .block ((s.modBlock j.block.uid wait_).populationArrives .rsmpl j.launch.uid) .resample

/-! ## The population (R367 to R369) -/

/-- The blocks of a launch, by number. -/
def State.launchBlocks (s : State) (l : Nat) : List Block := sortBy (·.bid) (s.blocks.filter fun b => b.launch == l)

/-- The warps of a launch, by block number and index. -/
def State.launchWarps (s : State) (l : Nat) : List Warp :=
  (s.launchBlocks l).flatMap fun b => sortBy (·.wid) (s.warps.filter fun w => w.block == b.uid)

/-- A member: its warp, its lane and its RANK. -/
structure Member where
  u : Nat
  block : Nat
  lane : Nat
  rank : Nat
  deriving DecidableEq, Repr

/-- The non-exited threads of some warps in ascending RANK. -/
def membersOf (ws : List Warp) : List Member :=
  sortBy (·.rank) (ws.flatMap fun w => (lanesOf w.here).map fun i =>
    ({ u := w.uid, block := w.block, lane := i, rank := (laneOf w.rank i).toNat } : Member))

/-- The blocks of a population that hold a non-exited thread. -/
def State.countedBlocks (s : State) (l : Nat) : List Block :=
  (s.launchBlocks l).filter fun b => s.warps.any fun w => w.block == b.uid && w.here != 0

/-! ## The checks (R371) -/

/-- The weight of a member in Q32.32, or none where it fails RESAMPLE_WEIGHT (R371, R372). -/
def weightOf (x : Word) : Option Nat :=
  match fp32.decode x.toNat with
  | .fin neg m e =>
    if m = 0 then some 0
    else if neg then none
    else
      let q := if e + 32 ≥ 0 then m * 2 ^ (e + 32).toNat else m / 2 ^ (-(e + 32)).toNat
      if 2 ^ 64 ≤ q then none else some q
  | _ => none

/-- The weight register of a member holds this. -/
def State.memberWeight (s : State) (a : Nat) (m : Member) : Word := ((s.warp? m.u).map fun w => laneOf (w.row a) m.lane).getD 0

/-- The fields of an RSMPL that must agree: its address and its d, a, bk and b fields (R371). -/
def Rsmpl.shape (r : Rsmpl) : Dword × Nat × Nat × Opb := (r.start, r.d, r.a, r.b)

/-- All elements of a list are alike. -/
def allAlike {α : Type} [DecidableEq α] : List α → Bool
  | [] => true
  | x :: rest => rest.all fun y => decide (y = x)

/-- The first check of R371, the first aside, that a population fails once all its blocks have arrived: its cause and the member
that reports it. -/
def State.popCheck (s : State) (p : Population) (ms : List Member) (rs : List Rsmpl) : Option (Nat × Option Member) :=
  let a := (rs.head?.map (·.a)).getD 0
  let n := (rs.head?.map (·.target.toNat)).getD 0
  if !allAlike (rs.map Rsmpl.shape) then some (8, ms.head?)
  else if !allAlike ((s.launchWarps p.launch).map (·.alloc)) then some (1, ms.head?)
  else if n = 0 ∨ p.cap < n ∨ !allAlike (rs.map (·.target)) then some (52, ms.head?)
  else
    match ms.find? fun m => (weightOf (s.memberWeight a m)).isNone with
    | some m => some (53, some m)
    | none => if ms.all fun m => weightOf (s.memberWeight a m) == some 0 then some (53, ms.head?) else none

/-- Report a check in one warp (R371): at its block's RSMPL group or, where the block has not arrived there, at the group that the
warp stands at, to which both modes of ERET return it (log 84). -/
def State.popFault (s : State) (code : Nat) (m : Member) : State :=
  match s.warp? m.u with
  | none => s
  | some w =>
    let lane := if code = 8 then 3 else m.lane
    let rep : Nat → Dword → Dword → Report := fun slot fpc next =>
      { u := m.u, slot := slot, fpc := fpc, next := next, trap := Trap.at code 0 lane, member := none, once := true,
        diverged := false, lost := none, pop := true }
    match (s.block? m.block).bind Block.rsmpl with
    | some r => s.report (rep w.onlySlot r.start r.next)
    | none =>
      let slot := ((List.range 4).find? fun i => (w.split? i).any fun x => x.mask.getLsbD m.lane).getD w.onlySlot
      let pc := ((w.split? slot).map (·.start)).getD 0
      s.report (rep slot pc pc)

/-! ## Counts (R372) -/

/-- The counts of the members: each with its first new RANK and how many copies. -/
def copyCounts (qs : List Nat) (n sum u : Nat) : List (Nat × Nat) :=
  let t : Nat → Nat := fun p => (p * n * 2 ^ 32 + u * sum) / (sum * 2 ^ 32)
  let ps := qs.foldl (fun (acc : List Nat × Nat) q => (acc.1 ++ [acc.2], acc.2 + q)) ([], 0)
  (ps.1.zip qs).map fun (x : Nat × Nat) => (t x.1, t (x.1 + x.2) - t x.1)

/-- LINEAGE (R123, R373). -/
def lineageOf (gen rank parent : Nat) : Dword := BitVec.ofNat 64 (gen % 2 ^ 16 * 2 ^ 48 + rank % 2 ^ 24 * 2 ^ 24 + parent % 2 ^ 24)

/-- A thread with its new population registers (R373). -/
def Thread.reborn (t : Thread) (gen rank parent : Nat) : Thread :=
  { t with rank := BitVec.ofNat 32 rank, parent := BitVec.ofNat 32 parent, lineage := lineageOf gen rank parent }

/-- The clones of a member with its new first RANK and count, without their LOGID. -/
def State.clonesOf (s : State) (gen : Nat) (x : Member × Nat × Nat) : List Clone :=
  match s.warp? x.1.u with
  | none => []
  | some w => (List.range (x.2.2 - 1)).map fun k =>
      let rank := x.2.1 + k + 1
      { rank := rank, warp := x.1.u, thread := (w.thread x.1.lane).reborn gen rank x.1.rank }

/-- A member without copies exits; another keeps its place as copy 0 (R373). -/
def State.settleMember (s : State) (gen : Nat) (x : Member × Nat × Nat) : State :=
  s.modWarp x.1.u fun w =>
    if x.2.2 = 0 then w.exitLanes (laneBit x.1.lane) else w.putThread x.1.lane ((w.thread x.1.lane).reborn gen x.2.1 x.1.rank)

/-! ## Placement (R376) -/

/-- The lowest vacant lane of some warps, in their order. -/
def vacancy (ws : List Warp) : Option (Nat × Nat) :=
  (ws.filterMap fun w => ((lanesOf w.exited).head?).map fun i => (w.uid, i)).head?

/-- The warps a phase of R376 may use for a clone, in its order. -/
def State.phaseWarps (s : State) (l : Nat) (phase : Nat) (c : Clone) : List Warp :=
  let ws := s.launchWarps l
  match phase with
  | 0 => ws.filter fun w => w.uid == c.warp
  | 1 => ws.filter fun w => w.uid != c.warp && some w.block == (s.warp? c.warp).map (·.block)
  | _ => ws

/-- Put a clone in a lane: it has read and gone past what its parent has (R223). -/
def State.putClone (s : State) (u lane : Nat) (c : Clone) : State :=
  let coreOf : Nat → Nat := fun u => ((s.warp? u).map (·.core)).getD 0
  (s.modWarp u fun w => w.putThread lane c.thread).carryReads (coreOf c.warp) (coreOf u)

/-- One phase over the clones still unplaced, in ascending new RANK: the state and the clones left. -/
def State.placePhase (s : State) (l phase : Nat) : List Clone → State × List Clone
  | [] => (s, [])
  | c :: rest =>
    match vacancy (s.phaseWarps l phase c) with
    | some x => (s.putClone x.1 x.2 c).placePhase l phase rest
    | none =>
      let r := s.placePhase l phase rest
      (r.1, c :: r.2)

/-! ## Completion (R373, R375) -/

/-- A warp of the population goes on after RSMPL: its one split holds every non-exited lane; a dormant warp that a thread landed
in wakes; one without a thread sleeps. -/
def Warp.afterResample (w : Warp) (r : Rsmpl) (gen : Word) : Warp :=
  if w.here = 0 then
    w.sleep
  else
    let slot := if w.mode = .dormant then 0 else w.onlySlot
    let w : Warp := { w with
      slots := (Vector.ofFn fun _ => none).setIfInBounds slot (some (Split.fresh r.next w.here))
      parked := []
      inGroup := none
      lastSlot := slot
      mode := .normal
      rv := .opened
      stepDue := if w.stepFlag then some slot else none }
    w.setS r.d gen

/-- RSMPL completes in every block of the population (R375): an acquire at FIELD scope by every thread. -/
def State.finishResample (s : State) (p : Population) (r : Rsmpl) : State :=
  let bs := (s.launchBlocks p.launch).map (·.uid)
  let gen := ((s.pop? p.launch).map (·.generation)).getD 0
  let s := (dedupNat ((s.launchWarps p.launch).map (·.core))).foldl State.invalL1 s
  let done_ : Population → Population := fun x => { x with state := .running, pending := [], post := none }
  let clear : Block → Block := fun b => { b with rsmpl := none, blockRv := { state := .opened, todo := [], memo := none } }
  ({ s.freeSpawn (.clones p.launch) with
    warps := mapWhere (fun w => bs.contains w.block) (fun w => w.afterResample r gen) s.warps
    blocks := mapWhere (fun b => bs.contains b.uid) clear s.blocks } : State).modPop p.launch done_

/-! ## The placement list (R377) -/

/-- What the part writes ahead of STATUS: GEN, COUNT and zeros, then each entry's RANK; the runs of bytes and the bytes. -/
def Population.request (p : Population) : List (Dword × List Byte) :=
  (p.plist + 4, leBytes 4 (p.generation - 1).toNat ++ leBytes 4 p.pending.length ++ List.replicate 52 0) ::
    p.pending.zipIdx.map fun (x : Clone × Nat) => (p.plist + BitVec.ofNat 64 (64 + 8 * x.2), leBytes 4 x.1.rank)

/-- The part's request goes one step further: the entries, then, once those are performed at SYSTEM scope, STATUS 1. -/
def State.postList (s : State) (c : Context) (p : Population) : Got State :=
  match p.post with
  | some (_, true) => .ok s
  | some (op, false) =>
    if !s.performed 3 op then .ok s
    else
      (s.putVirt c true p.plist (leBytes 4 1)).bind fun s =>
        let said : Population → Population := fun x => { x with post := some (op, true) }
        .ok (s.modPop p.launch said)
  | none =>
    (s.checkRuns c .store (p.request.map fun (x : Dword × List Byte) => (x.1, x.2.length))).bind fun ps =>
      let op := s.nextUid
      let s := ({ s with nextUid := op + 1 } : State).unitPut c op true ps (p.request.flatMap fun (x : Dword × List Byte) => x.2) p.plist
      let sent : Population → Population := fun x => { x with post := some (op, false) }
      .ok (s.modPop p.launch sent)

/-- The lane that a TARGET names: the warp and the lane (R377); its other bits are reserved (R4). -/
def State.targetLane (s : State) (l : Nat) (x : Nat) : Option (Nat × Nat) :=
  ((s.launchWarps l).find? fun w => w.wid == bitsOf x 12 8 && (s.block? w.block).any fun b => b.bid == bitsOf x 21 16).bind fun w =>
    if w.exited.getLsbD (bitsOf x 4 0) then some (w.uid, bitsOf x 4 0) else none

/-- The lanes of a whole list, if every target names a vacant lane and no two are alike. -/
def State.targetLanes (s : State) (l : Nat) (xs : List Nat) : Option (List (Nat × Nat)) :=
  let ys := xs.map (s.targetLane l)
  if ys.all Option.isSome ∧ ys.eraseDups.length = ys.length then some (ys.filterMap id) else none

/-- RSMPL completes with the clones placed as `put` places them, STATUS saying so; a STATUS that cannot be written is not (log 91). -/
def State.answerList (s : State) (c : Context) (p : Population) (r : Rsmpl) (status : Nat) (put : State → State) : State :=
  match s.putVirt c true p.plist (leBytes 4 status) with
  | .ok s => (put s).finishResample p r
  | .wait s => s
  | .trap t => (put (s.unitMet c.field c.ctxid t.faddr)).finishResample p r

/-- Every clone that is left is placed by phase C. -/
def State.wheelList (s : State) (c : Context) (p : Population) (r : Rsmpl) : State :=
  s.answerList c p r 4 fun s => (s.placePhase p.launch 2 p.pending).1

/-- The list that the host has written: each clone at its target, or by phase C where a target is not good or the list cannot be read
(log 91). -/
def State.takeList (s : State) (c : Context) (p : Population) (r : Rsmpl) : State :=
  match (s.checkRuns c .load ((List.range p.pending.length).map fun k => (p.plist + BitVec.ofNat 64 (68 + 8 * k), 4))).bind
      fun ps => .ok (s.unitLoad (ps.map (·.key))) with
  | .wait s => s
  | .trap t => (s.unitMet c.field c.ctxid t.faddr).wheelList c p r
  | .ok x =>
    match x.1.targetLanes p.launch ((List.range p.pending.length).map fun k => recNat x.2 (4 * k) 4) with
    | some ls => x.1.answerList c p r 3 fun s =>
        (p.pending.zip ls).foldl (fun (s : State) (y : Clone × Nat × Nat) => s.putClone y.2.1 y.2.2 y.1) s
    | none => x.1.wheelList c p r

/-- A population in PLACING goes on: the request is written, and once the host has answered it the clones are placed and RSMPL completes
(R377). Nothing happens while a block of it is saved. -/
def State.acceptList (s : State) (launch : Nat) : State :=
  match s.pop? launch, (s.countedBlocks launch).filterMap Block.rsmpl, (s.launch? launch).bind fun l => s.ctx? l.field l.ctx with
  | some p, r :: _, some c =>
    if p.state ≠ .placing ∨ !(s.countedBlocks launch).all fun b => b.state == .resident then s
    else
      match s.postList c p with
      | .wait s => s
      | .trap t => (s.unitMet c.field c.ctxid t.faddr).wheelList c p r
      | .ok s =>
        match p.post with
        | some (_, true) =>
          match s.getVirt c p.plist 4 with
          | .ok x => if leNat x.2 = 2 then x.1.takeList c p r else x.1
          | .wait s => s
          | .trap t => (s.unitMet c.field c.ctxid t.faddr).wheelList c p r
        | _ => s
  | _, _, _ => s

/-! ## The resample (R372 to R376) -/

/-- The statistics of a resample (R379). -/
def Population.counted (p : Population) (sum u killed clones n : Nat) : Population :=
  { p with generation := p.generation + 1, killed := BitVec.ofNat 32 killed, clones := BitVec.ofNat 32 clones,
           statS := [BitVec.ofNat 32 (sum / 2 ^ 32), BitVec.ofNat 32 sum, BitVec.ofNat 32 (sum / 2 ^ 64)],
           statU := BitVec.ofNat 32 u, target := n, cloneCount := p.cloneCount + clones }

/-- Kills, clones and placement of a population whose checks have passed. -/
def State.resampleNow (s : State) (p : Population) (l : Launch) (c : Context) (ms : List Member) (r : Rsmpl) : State :=
  let qs := ms.map fun m => (weightOf (s.memberWeight r.a m)).getD 0
  let sum := qs.foldl (· + ·) 0
  let u := shaker p.seed.toNat p.generation.toNat / 2 ^ 32
  let plan := ms.zip (copyCounts qs r.target.toNat sum u)
  let gen := p.generation.toNat + 1
  let clones := (plan.flatMap (s.clonesOf gen)).zipIdx.map fun (x : Clone × Nat) =>
    let id := BitVec.ofNat 32 (l.griddim.toNat * (32 * l.warps) + p.cloneCount + x.2)
    ({ x.1 with thread := { x.1.thread with logid := id } } : Clone)
  let killed := (plan.filter fun (x : Member × Nat × Nat) => x.2.2 == 0).length
  let s := plan.foldl (fun s x => s.settleMember gen x) s
  let s := s.modPop p.launch fun p => p.counted sum u killed clones.length r.target.toNat
  let a := s.placePhase p.launch 0 clones
  let b := a.1.placePhase p.launch 1 a.2
  if c.modes.getLsbD 2 then
    let hold : Population → Population := fun p => { p with state := .placing, pending := b.2, post := none }
    let s := b.1.modPop p.launch hold
    -- the clone records take spawn memory, as much as the part needs of what there is (R363, log 87)
    let room := (c.columns.map (s.spawnRoom l.field)).foldl (· + ·) 0
    let s := (s.holdSpawn l.field (.clones p.launch) ((s.someWord 0).toNat % (room + 1)) (s.spawnOrder c 1)).getD s
    let s := (s.spawnColumns (.clones p.launch)).foldl (fun s n => s.writeOwn c n (spawnRange c n)) s
    s.acceptList p.launch
  else (b.1.placePhase p.launch 2 b.2).1.finishResample p r

/-- The queues of the population's warps have drained, their loads, returns, rays and bank writes are complete, and their stores
are performed at FIELD scope (R370, R375). -/
def State.popQuiet (s : State) (ws : List Warp) : Bool :=
  ws.all fun w => match s.warp? w.uid with
    | some x => x.idle && s.storesDone w.uid 1 && (x.seen.all fun op => s.performed 1 op) &&
        (match s.block? x.block with
          | some b => b.bankq.all fun q => q.warp != x.uid
          | none => true)
    | none => true

/-- A block of a population has a store to report at its RSMPL, which issues again for it (R210). -/
def State.popReissue (s : State) (b : Block) : State :=
  let open_ : Split → Split := fun x => { x with blocked := none }
  let redo : Block → Block := fun x => { x with rsmpl := none }
  ({ s with warps := mapWhere (fun w => w.block == b.uid) (fun w => w.mapSplits open_) s.warps } : State).modBlock b.uid redo

/-- The population's rendezvous: a check that fails is reported; once every counted block has arrived and its warps are quiet,
the population is resampled (R370 to R376). Nothing happens before. -/
def State.popRendezvous (s : State) (launch : Nat) : State :=
  match s.pop? launch, s.launch? launch with
  | some p, some l =>
    let bs := s.countedBlocks launch
    let here_ := bs.filter fun b => b.rsmpl.isSome
    let ws := s.launchWarps launch
    let arrived := membersOf (ws.filter fun w => here_.any fun b => b.uid == w.block)
    if p.state ≠ .gathering ∨ here_.isEmpty ∨ ws.any fun w => w.mode == .handler || w.mode == .held || w.due.isSome then s
    else
      match here_.find? fun b => s.warps.any fun w => w.block == b.uid && w.mode != .dormant && w.asyncs.any (releaseDep 1) with
      | some b => s.popReissue b
      | none =>
        -- a block whose children are complete is QUEUED again (R159)
        if bs.any fun b => b.state == .swapped && b.children != 0 then
          let running := ws.filter fun w => (s.block? w.block).any fun b => b.state == .resident
          match (membersOf running).head? with
          | some m => s.popFault 54 m
          | none => s
        else if here_.length < bs.length then s
        else
          let s := ws.foldl (fun s w => s.quiesce w.uid) s
          if !s.popQuiet ws then s
          else
            match s.popCheck p arrived (here_.filterMap Block.rsmpl) with
            | some (code, some m) => s.popFault code m
            | some (_, none) => s
            | none =>
              match here_.filterMap Block.rsmpl, s.ctx? l.field l.ctx with
              | r :: _, some c => s.resampleNow p l c arrived r
              | _, _ => s
  | _, _ => s

/-! ## PSTAT (R379) -/

/-- The statistic q of a population. -/
def State.popStat (s : State) (p : Population) (q : Nat) : Word :=
  match q with
  | 0 => BitVec.ofNat 32 (membersOf (s.launchWarps p.launch)).length
  | 1 => BitVec.ofNat 32 p.cap
  | 2 => p.killed
  | 3 => p.clones
  | 4 => p.statS.getD 0 0
  | 5 => p.statS.getD 1 0
  | 6 => p.statS.getD 2 0
  | _ => p.statU

/-- What PSTAT names. -/
def pstatMeta (sc : Scope) (a : Reg) (b : Opb) : Meta :=
  { cls := .scalar, scope := sc, opb := some b, bad := decide (a ≠ 0) || !b.isImm || decide (8 ≤ b.num) }

/-- PSTAT. -/
def execPstat (sc : Scope) (d a : Reg) (b : Opb) (s : State) : Host.Outcome State Fault Refusal :=
  issue (pstatMeta sc a b) s fun s j =>
    let x := match s.pop? j.launch.uid with
      | some p => s.popStat p b.num
      | none => 0xFFFFFFFF#32
    .next (s.put j fun w => w.setS d.toNat x)

/-! ## The events -/

/-- RESAMPLE. -/
def execResample (launch : Nat) (s : State) : Host.Outcome State Fault Refusal := .next (s.popRendezvous launch)

/-- PLACEMENT_LIST_ACCEPT. -/
def execPlacementListAccept (launch : Nat) (s : State) : Host.Outcome State Fault Refusal := .next (s.acceptList launch)

end Sys2Proof.Machine
end

