-- ==== Sys2Proof/Machine/Tiles.lean ====
section
/-! DEFINITION. Node and resource records (R316, R318), stencils and slots (R319 to R321, R331, R334), the release order of tiles
(R333), and the order in which the Kiln dispatches the blocks of a queue (R299, R304, R308). -/

namespace Sys2Proof.Machine

open Sys2Proof

/-! ## Records -/

/-- The header (R315). -/
def Graph.nnodes (g : Graph) : Nat := recNat g.header 2 2
def Graph.nodesAddr (g : Graph) : Dword := recAddr g.header 8
def Graph.ressAddr (g : Graph) : Dword := recAddr g.header 16
def Graph.relq (g : Graph) : Dword := recAddr g.header 24
def Graph.retq (g : Graph) : Dword := recAddr g.header 32
def Graph.statusAddr (g : Graph) : Dword := recAddr g.header 40

/-- A node's record (R316). -/
def Graph.node (g : Graph) (n : Nat) : List Byte := g.nodes.getD n []
def ndKind (b : List Byte) : Nat := recNat b 0 1
def ndAll (b : List Byte) : Bool := bitOf (recNat b 1 1) 0
def ndTws (b : List Byte) : Nat := recNat b 2 1
def ndThs (b : List Byte) : Nat := recNat b 3 1
def ndDeps (b : List Byte) : List Nat := (List.range 4).map fun k => recNat b (4 + 2 * k) 2
def ndGroup (b : List Byte) : Nat := recNat b 12 5
def ndPrio (b : List Byte) : Nat := recNat b 17 1
def ndWarps (b : List Byte) : Nat := recNat b 18 1
def ndBinds (b : List Byte) : Nat := recNat b 19 1
def ndKinfo (b : List Byte) : Dword := recAddr b 20
def ndGw (b : List Byte) : Nat := recNat b 28 2
def ndGh (b : List Byte) : Nat := recNat b 30 2
def ndBind (b : List Byte) (j : Nat) : Nat := recNat b (32 + 4 * j) 4

/-- A binding. -/
def bdWrite (x : Nat) : Bool := bitOf x 31
def bdRes (x : Nat) : Nat := bitsOf x 30 25
def bdStencil (x : Nat) : Nat := bitsOf x 24 0

/-- The bindings of a PASS node in order; any other node has none. -/
def binds (b : List Byte) : List Nat := if ndKind b = 0 then (List.range (ndBinds b)).map (ndBind b) else []

/-- A resource record (R318). -/
def Graph.res (g : Graph) (r : Nat) : List Byte := g.ress.getD r []
def rsSaggar (b : List Byte) : Bool := recNat b 0 1 == 1
def rsBytes (b : List Byte) : Nat := recNat b 4 4
def rsSlots (b : List Byte) : Nat := recNat b 8 2
def rsOslots (b : List Byte) : Nat := recNat b 10 2
def rsBase (b : List Byte) : Nat := recNat b 16 8
def rsOverflow (b : List Byte) : Nat := recNat b 24 8

/-- The address of slot i of a Saggar: overflow slots follow the ring. -/
def slotAddr (b : List Byte) (i : Nat) : Nat :=
  if i < rsSlots b then rsBase b + rsBytes b * i else rsOverflow b + rsBytes b * (i - rsSlots b)

/-! ## Stencils (R331) -/

/-- The tiles that a tile's stencil covers, clipped to the grid, with the stencil bit of each. -/
def covered (gw gh stencil tile : Nat) : List (Nat × Nat) :=
  (List.range 25).filterMap fun k =>
    let x := tile % gw + k % 5
    let y := tile / gw + k / 5
    if bitOf stencil k ∧ 2 ≤ x ∧ x < gw + 2 ∧ 2 ≤ y ∧ y < gh + 2 then some (k, (y - 2) * gw + (x - 2)) else none

/-- The tiles alone. -/
def coveredTiles (gw gh stencil tile : Nat) : List Nat := (covered gw gh stencil tile).map fun (x : Nat × Nat) => x.2

/-- The read bindings of a resource anywhere in the graph, as the node and the binding. -/
def Graph.readers (g : Graph) (r : Nat) : List (List Byte × Nat) :=
  g.nodes.flatMap fun b => ((binds b).filter fun x => !bdWrite x && bdRes x == r).map fun x => (b, x)

/-- The last-reader count of a producer tile's slot: the pairs of read binding and consumer tile that cover it (R319). -/
def Graph.lastReaders (g : Graph) (r tile : Nat) : Nat :=
  ((g.readers r).map fun (x : List Byte × Nat) =>
    ((List.range (ndGw x.1 * ndGh x.1)).filter fun t => (coveredTiles (ndGw x.1) (ndGh x.1) (bdStencil x.2) t).contains tile).length).foldl
    (· + ·) 0

/-! ## Claims (R320, R334) -/

/-- The lowest free slot of a Saggar, ring slots first. -/
def Graph.freeSlotOf (g : Graph) (r : Nat) : Option Nat :=
  (List.range (rsSlots (g.res r) + rsOslots (g.res r))).find? fun i => !g.slots.any fun s => s.res == r && s.slot == i

/-- Claim a slot for each Saggar that a tile writes; the graph with the claims, and the slots, or the Saggar whose claim fails. -/
def Graph.claim (g : Graph) (inst tile : Nat) : List Nat → Except Nat (Graph × List (Nat × Nat))
  | [] => .ok (g, [])
  | x :: rest =>
    let r := bdRes x
    if bdWrite x && rsSaggar (g.res r) then
      match g.freeSlotOf r with
      | none => .error r
      | some i =>
        let c : Slot := { res := r, slot := i, inst := inst, tile := tile, count := g.lastReaders r tile }
        match ({ g with slots := g.slots ++ [c] } : Graph).claim inst tile rest with
        | .error e => .error e
        | .ok y => .ok (y.1, (r, i) :: y.2)
    else g.claim inst tile rest

def Graph.inst? (g : Graph) (k : Nat) : Option Inst := g.insts.find? fun i => i.index == k
def Inst.tile? (i : Inst) (t : Nat) : Option Tile := i.tiles.find? fun x => x.index == t

/-- The claims of a tile. -/
def Graph.tileClaim (g : Graph) (i : Inst) (t : Nat) : Except Nat (Graph × List (Nat × Nat)) :=
  g.claim i.index t (binds (g.node i.node))

def Except.good {α β : Type} (e : Except α β) : Bool :=
  match e with
  | .ok _ => true
  | .error _ => false

/-! ## Which tile is next (R332, R333) -/

/-- The READY tiles of a graph, lowest index first in each instance, and the instances by priority and issue order. -/
def Graph.readyTiles (g : Graph) : List (Inst × Tile) :=
  let is_ := sortBy (fun (i : Inst) => (15 - ndPrio (g.node i.node)) * 2 ^ 32 + i.index) g.insts
  is_.flatMap fun i => (sortBy (fun (t : Tile) => t.index) (i.tiles.filter fun t => t.state == .ready)).map fun t => (i, t)

/-- The Kiln itself releases the tiles of a context's graphs: MODES bit 1 is clear. -/
def Context.hwRelease (c : Context) : Bool := !c.modes.getLsbD 1

/-! ### Host-assisted release (R327) -/

/-- The word of RELQ that is next. -/
def State.relqWord (s : State) (c : Context) (g : Graph) : Got (State × Nat) :=
  (s.getVirt c (g.relq + BitVec.ofNat 64 (4 * (g.relIdx % 4096))) 4).bind fun r => .ok (r.1, leNat r.2)

/-- The instance of a node that was issued last. -/
def Graph.latest (g : Graph) (n : Nat) : Option Inst := (g.insts.filter fun i => i.node == n).getLast?

/-- The tile that a release word names: of the node's latest instance, started and not released. -/
def Graph.named (g : Graph) (w : Nat) : Option (Inst × Tile) :=
  match g.latest (bitsOf w 25 16) with
  | none => none
  | some i =>
    if i.state ≠ .started then none
    else (i.tile? (w % 2 ^ 16)).bind fun t => if t.state == .waiting || t.state == .ready then some (i, t) else none

/-- The READY tile that the host's next word releases. -/
def State.hostTile (s : State) (c : Context) (g : Graph) : Option (Inst × Tile) :=
  match s.relqWord c g with
  | .ok r => if bitOf r.2 31 then (g.named r.2).bind fun (x : Inst × Tile) => if x.2.state == .ready then some x else none else none
  | _ => none

/-- The READY tiles of the graphs that a queue submitted, in the order of R333; under host-assisted release those that the host
names. -/
def State.queueTiles (s : State) (f q : Nat) : List (Graph × Inst × Tile) :=
  let gs := s.graphs.filter fun g => g.field == f && g.queue == q && g.state == .running
  let all := gs.flatMap fun g =>
    let ts := match s.ctx? f g.ctx with
      | none => []
      | some c => if c.hwRelease then g.readyTiles else (s.hostTile c g).toList
    ts.map fun (x : Inst × Tile) => (g, x.1, x.2)
  sortBy (fun (x : Graph × Inst × Tile) => (15 - ndPrio (x.1.node x.2.1.node)) * 2 ^ 64 + x.1.uid) all

/-! ## Launches in dispatch order (R299, R301, R308) -/

/-- The launch queue that a launch is charged to (R300, R308). -/
def State.rootQueue (s : State) : Nat → Launch → Option Nat
  | 0, _ => none
  | n + 1, l =>
    match l.origin with
    | .queue q => some q
    | .inst g _ => (s.graphs.find? fun x => x.uid == g).map (·.queue)
    | .fork b => ((s.block? b).bind fun x => s.launch? x.launch).bind (s.rootQueue n)

/-- The queue of a launch; children are at most eight deep (R308). -/
def State.queueOf (s : State) (l : Launch) : Option Nat := s.rootQueue 10 l

/-- The children of a launch, in order of FORK. -/
def State.childrenOf (s : State) (l : Launch) : List Launch :=
  sortBy (·.uid) (s.launches.filter fun x => match x.origin with
    | .fork b => (s.block? b).any fun y => y.launch == l.uid
    | _ => false)

/-- A launch with its descendants, whose blocks go ahead of its own (R308). -/
def State.family (s : State) : Nat → Launch → List Launch
  | 0, l => [l]
  | n + 1, l => (s.childrenOf l).flatMap (s.family n) ++ [l]

/-- The place of a launch's packet in its queue. -/
def State.packetOrder (s : State) (l : Launch) : Nat :=
  match l.origin with
  | .inst g _ => ((s.graphs.find? fun x => x.uid == g).map (·.order)).getD 0
  | _ => l.order

/-- A launch that a FORK has made. -/
def Launch.forked (l : Launch) : Bool :=
  match l.origin with
  | .fork _ => true
  | _ => false

/-- The launches of a queue in dispatch order. -/
def State.queueLaunches (s : State) (f q : Nat) : List Launch :=
  let roots := s.launches.filter fun l => l.field == f && s.queueOf l == some q && !l.forked
  (sortBy s.packetOrder roots).flatMap (s.family 9)

/-- Undispatched blocks are left, or will be: the tiles of a pass are released on their own. -/
def Launch.pending (l : Launch) : Bool := l.kind != 3 && (l.state == .submitted || decide (l.next < l.griddim.toNat))

/-- ORDER is met: every earlier packet of the queue has completed (R288, R301). -/
def State.orderMet (s : State) (l : Launch) : Bool :=
  !l.barrier ||
  match l.origin with
  | .queue q =>
    (s.launches.all fun x => !(x.field == l.field && x.origin == .queue q && decide (x.order < l.order))) &&
    s.graphs.all fun g => !(g.field == l.field && g.queue == q && decide (g.order < l.order))
  | _ => true

/-- The launch of a queue whose blocks are next, if it may dispatch. -/
def State.nextLaunch (s : State) (f q : Nat) : Option Launch :=
  match (s.queueLaunches f q).find? Launch.pending with
  | none => none
  | some l => if l.state ≠ .submitted ∧ s.orderMet l then some l else none

/-- The SWAPPED blocks of a queue whose children have completed: QUEUED again (R310). -/
def State.queueJoins (s : State) (f q : Nat) : List (Block × Launch) :=
  s.blocks.filterMap fun b =>
    match s.launch? b.launch with
    | some l => if b.state == .swapped && b.children == 0 && l.field == f && s.queueOf l == some q then some (b, l) else none
    | none => none

/-! ### The next tile (R308, R310, R332) -/

/-- The launch from which a launch descends by FORK. -/
def State.rootOf (s : State) : Nat → Launch → Launch
  | 0, l => l
  | n + 1, l =>
    match l.origin with
    | .fork b => (((s.block? b).bind fun x => s.launch? x.launch).map (s.rootOf n)).getD l
    | _ => l

/-- Undispatched blocks that go ahead of a graph's tiles: those of the children of its passes, and of the children of earlier packets
(R308). -/
def State.childAhead (s : State) (g : Graph) : Bool :=
  s.launches.any fun x => x.field == g.field && x.forked && x.pending && s.queueOf x == some g.queue &&
    decide (s.packetOrder (s.rootOf 9 x) ≤ g.order)

/-- The tiles of a queue that can be released: their claims succeed and a core of their GROUP has room; neither children's blocks nor a block
of the pass that is QUEUED again stands before them. -/
def State.openTiles (s : State) (f q : Nat) (open_ : Launch → Nat → Bool) : List (Graph × Inst × Tile) :=
  (s.queueTiles f q).filter fun (x : Graph × Inst × Tile) =>
    Except.good (x.1.tileClaim x.2.1 x.2.2.index) && !s.childAhead x.1 &&
    (!(s.queueJoins f q).any fun (y : Block × Launch) => y.2.uid == x.2.1.launch) &&
    match s.launch? x.2.1.launch with
    | some l => !(openCores l (open_ l)).isEmpty
    | none => false

/-- A queue has a block or a tile that could be dispatched, room aside (R266). -/
def State.queueWork (s : State) (f q : Nat) : Bool :=
  (s.nextLaunch f q).isSome || !(s.queueJoins f q).isEmpty ||
  (s.queueTiles f q).any fun (x : Graph × Inst × Tile) => Except.good (x.1.tileClaim x.2.1 x.2.2.index)

/-- The blocks of a context in a state. -/
def State.blocksIn (s : State) (c : Context) (x : BlockState) : List (Block × Launch) :=
  s.blocks.filterMap fun b =>
    if b.state == x then
      match s.launch? b.launch with
      | some l => if l.field == c.field && l.ctx == c.ctxid then some (b, l) else none
      | none => none
    else none

/-- A context has dispatchable work: a block to restore, or one of its queues has work (R266). -/
def State.ctxWork (s : State) (c : Context) : Bool :=
  !(s.blocksIn c .saved).isEmpty ||
  s.queues.any fun q => q.field == c.field && q.ctx == c.ctxid && q.kind == 0 && s.queueWork q.field q.q

/-- A context with no resident block is IDLE again: once nothing is dispatchable, or at once while it drains (R266). -/
def State.restCtx (s : State) (f c : Nat) : State :=
  match s.ctx? f c with
  | none => s
  | some x =>
    if !(s.blocksIn x .resident).isEmpty then s
    else if x.state = .draining ∨ (x.state = .running ∧ !s.ctxWork x) then
      s.modCtx f c fun x => { x with state := .idle, thermal := false }
    else s

/-! ## Room (R304, R306) -/

/-- A launch that is dispatched all at once: a gang or a population (R306, R368). -/
def Launch.whole (l : Launch) : Bool := l.kind == 1 || l.kind == 2

/-- The queue chosen last in a partition. -/
def State.lastChosen (s : State) (f : Nat) (mask : BitVec 40) : Option Nat :=
  ((s.field? f).bind fun x => x.rotor.find? fun (r : BitVec 40 × Nat) => r.1 == mask).map fun (r : BitVec 40 × Nat) => r.2

/-- The gangs of a field that are the next launch of their queue, of RUNNING contexts, in the order in which their turns come: by priority, then
from the queue after the one chosen last (R299, R306). -/
def State.gangsNext (s : State) (f : Nat) : List Launch :=
  let all := s.queues.filterMap fun q =>
    if q.field ≠ f ∨ q.kind ≠ 0 then none
    else
      match s.ctx? f q.ctx, s.nextLaunch f q.q with
      | some c, some l =>
        if c.state == .running && l.whole then
          some ((3 - c.prio) * 64 + (q.q + 63 - (s.lastChosen f c.coremask).getD 63) % 64, l)
        else none
      | _, _ => none
  (sortBy (fun (x : Nat × Launch) => x.1) all).map fun (x : Nat × Launch) => x.2

/-- The cores that each of some gangs reserves in its turn, those of the gangs before it aside: the lowest numbers of its GROUP that have room,
as many as it has blocks (R306). -/
def State.reserveFor (s : State) (taken : List Nat) : List Launch → List (Nat × List Nat)
  | [] => []
  | l :: rest =>
    let cs := ((openCores l (s.hasRoom l)).filter fun n => !taken.contains n).take l.griddim.toNat
    (l.uid, cs) :: s.reserveFor (cs ++ taken) rest

/-- The cores that the gangs of a field other than one have reserved. -/
def State.reserved (s : State) (f : Nat) (but : Nat) : List Nat :=
  (s.reserveFor [] (s.gangsNext f)).flatMap fun (x : Nat × List Nat) => if x.1 = but then [] else x.2

/-- A core takes a block of a launch now. -/
def State.takes (s : State) (l : Launch) (core : Nat) : Bool := s.hasRoom l core && !(s.reserved l.field l.uid).contains core

/-- A core takes a block that resumes: n warps with so many registers. -/
def State.takesBack (s : State) (l : Launch) (n regs core : Nat) : Bool :=
  s.roomFor l core n regs && !(s.reserved l.field 0).contains core

/-- The cores of a gang, once it has reserved as many as it has blocks (R306). -/
def State.gangCores (s : State) (l : Launch) : Option (List Nat) :=
  ((s.reserveFor [] (s.gangsNext l.field)).find? fun (x : Nat × List Nat) => x.1 == l.uid).bind fun (x : Nat × List Nat) =>
    if x.2.length = l.griddim.toNat then some x.2 else none

/-- The cores that can take a block back after its JOIN. -/
def State.joinCores (s : State) (b : Block) (l : Launch) : List Nat :=
  let as_ := s.packAllocs b
  openCores l (s.takesBack l as_.length (as_.foldl (· + ·) 0))

/-- A queue has a block, a gang or a tile with room now. -/
def State.queueReady (s : State) (f q : Nat) : Bool :=
  (match s.nextLaunch f q with
    | some l => if l.whole then (s.gangCores l).isSome else !(openCores l (s.takes l)).isEmpty
    | none => false) ||
  (s.queueJoins f q).any (fun (x : Block × Launch) => !(s.joinCores x.1 x.2).isEmpty) ||
  !(s.openTiles f q s.takes).isEmpty

/-! ## Arbitration (R299) -/

/-- A queue that competes, with its context and its descriptor. -/
structure Rival where
  q : Queue
  c : Context
  d : QDesc
  deriving DecidableEq, Repr

/-- DEFICIT (R280). -/
def QDesc.debt (d : QDesc) : Int := sintOf 32 d.deficit

/-- The queues of a partition with what they have to dispatch: RUNNING contexts of the highest priority. -/
def State.rivals (s : State) (f : Nat) (mask : BitVec 40) : List Rival :=
  let all := (sortBy (fun (x : Queue) => x.q) (s.queues.filter fun x => x.field == f && x.kind == 0)).filterMap fun x =>
    match s.ctx? f x.ctx with
    | none => none
    | some c =>
      if c.coremask == mask && c.state == .running && s.queueReady f x.q then
        match s.readQueue c .atom x.desc with
        | .ok (_, some d) => some ({ q := x, c := c, d := d } : Rival)
        | _ => none
      else none
  let top := (all.map fun r => r.c.prio).foldl max 0
  all.filter fun r => r.c.prio == top

/-- How many times the quanta are given before some queue's DEFICIT is above 0. -/
def roundsFor (rs : List Rival) : Nat :=
  (minNat? (rs.map fun r => if 0 < r.d.debt then 0 else (-r.d.debt).toNat / r.d.quantum + 1)).getD 0

/-- DEFICIT after some rounds. -/
def Rival.after (r : Rival) (n : Nat) : Int := r.d.debt + (n * r.d.quantum : Nat)

/-- The queue that dispatches next in a partition: among those with DEFICIT above 0, the next one after the last. -/
def State.turnOf (s : State) (f : Nat) (mask : BitVec 40) : Option Rival :=
  let rs := s.rivals f mask
  let n := roundsFor rs
  let able := rs.filter fun r => decide (0 < r.after n)
  match s.lastChosen f mask with
  | none => able.head?
  | some k => (able.find? fun r => decide (k < r.q.q)).or able.head?

/-- A queue's descriptor must be waited for: the state in which it waits (R393). -/
def State.queueWait (s : State) (f q : Nat) : Option State :=
  (s.queue? f q).bind fun x => (s.ctx? f x.ctx).bind fun c =>
    match s.readQueue c .atom x.desc with
    | .wait t => some t
    | _ => none

/-- The quanta are given until some queue of a partition has a DEFICIT above 0. -/
def State.giveQuanta (s : State) (f : Nat) (mask : BitVec 40) : State :=
  let rs := s.rivals f mask
  let n := roundsFor rs
  if n = 0 then s else rs.foldl (fun s r => s.putNat (r.d.key + 40) 4 (r.after n % 2 ^ 32).toNat) s

/-- The queues of a partition that have run out of blocks: a positive DEFICIT becomes 0. -/
def State.dryDebts (s : State) (f : Nat) (mask : BitVec 40) : State :=
  (s.queues.filter fun x => x.field == f && x.kind == 0).foldl (fun s x =>
    match s.ctx? f x.ctx with
    | none => s
    | some c =>
      if c.coremask ≠ mask ∨ s.queueWork f x.q then s
      else
        match s.readQueue c .atom x.desc with
        | .ok (s, some d) => if 0 < d.debt then s.putNat (d.key + 40) 4 0 else s
        | _ => s) s

/-- A queue is chosen, and one block or tile of it is dispatched. -/
def State.choose (s : State) (f : Nat) (mask : BitVec 40) (q : Nat) (dispatch : State → State) : State :=
  let turn : Field → Field := fun x => { x with rotor := (mask, q) :: x.rotor.filter fun (r : BitVec 40 × Nat) => r.1 != mask }
  (dispatch (((s.dryDebts f mask).giveQuanta f mask).modField f turn)).dryDebts f mask

/-- It is a queue's turn in its partition: its context. -/
def State.hasTurn (s : State) (f q : Nat) : Option Context :=
  match s.queue? f q with
  | none => none
  | some x =>
    match s.ctx? f x.ctx with
    | none => none
    | some c => if (s.turnOf f c.coremask).any fun r => r.q.q == q then some c else none

/-- Everything that a block's warps have stored or read is performed at FIELD scope: a move to another core releases there (R223). -/
def State.movable (s : State) (b : Block) : Bool :=
  let ws := s.warps.filter fun w => w.block == b.uid
  let us := ws.map (·.uid)
  (ws.all fun w => w.seen.all fun op => s.performed 1 op) &&
  (s.flights.all fun f => !us.contains f.warp || f.lost || f.performed 1) &&
  s.areqs.all fun r => !us.contains r.warp || r.returns || r.lost || (r.applied && !r.leaving)

end Sys2Proof.Machine
end

