-- ==== Sys2Proof/Machine/EvLaunch.lean ====
section
/-! DEFINITION. The life of launches and blocks at the Kiln: acceptance (R301, R303), dispatch of blocks and gangs (R299, R304, R306,
R368, R369), retirement (R300), completion (R305) and the resumption of JOIN (R310, R311). An event that is not enabled changes
nothing. -/

namespace Sys2Proof.Machine

open Sys2Proof

/-! ## Acceptance -/

/-- The launch is dropped with a cause in the host record (R291, R301, R306). -/
def State.dropLaunch (s : State) (l : Launch) (code : Nat) : State :=
  ({ s with launches := s.launches.filter fun x => x.uid != l.uid } : State).kilnRecord l.field l.ctx code 0

/-- A gang that can never be resident: it has more blocks than its GROUP has healthy cores, or a block that an empty core cannot hold
(R306). -/
def State.gangRefused (s : State) (l : Launch) : Bool :=
  let healthy := l.group &&& ((s.field? l.field).map (·.coremask)).getD 0
  l.whole && (decide (((List.range 40).filter fun n => healthy.getLsbD n).length < l.griddim.toNat) ||
    decide (64 < l.warps) || decide (4096 < l.warps * l.regsInit) || decide (2 ^ 18 < l.scratchTotal))

/-- The launch is ACCEPTED as its record stands now (R301, R303). -/
def State.accept (s : State) (c : Context) (l : Launch) (b : List Byte) : State :=
  let new : Launch := { launchOfRecord b c l.uid l.origin l.record with
    state := .accepted, task := l.task, barrier := l.barrier, order := l.order, code := s.roundedMem, codeAt := s.stored.length }
  if s.gangRefused new then s.dropLaunch l 55
  else
    let s := s.modLaunch l.uid fun _ => new
    if new.kind = 2 then { s with populations := s.populations ++ [newPopulation l.uid b] } else s

/-- LAUNCH_ACCEPT. -/
def execLaunchAccept (launch : Nat) (s : State) : Host.Outcome State Fault Refusal :=
  match s.launch? launch with
  | none => .next s
  | some l =>
    match s.ctx? l.field l.ctx with
    | none => .next s
    | some c =>
      if l.state ≠ .submitted then .next s
      else
        match s.readLaunch c [0, 1, 2] l.record with
        | .wait s => .next s
        | .trap t => .next ((s.unitMet l.field l.ctx t.faddr).dropLaunch l 45)
        | .ok (s, b, ok) => .next (if ok then s.accept c l b else s.dropLaunch l 45)

/-! ## Dispatch -/

/-- The next block of a launch goes to a core; with the last the launch is RUNNING (R301, R304). -/
def State.dispatchTo (s : State) (l : Launch) (core : Nat) : State :=
  let s := (s.beginDispatch l.uid).placeBlock l l.next core
  s.modLaunch l.uid fun x => { x with next := l.next + 1, state := if l.next + 1 = l.griddim.toNat then .running else x.state }

/-- BLOCK_DISPATCH: it is the launch's queue's turn, and the block goes to the emptiest core with room. -/
def execBlockDispatch (launch : Nat) (s : State) : Host.Outcome State Fault Refusal :=
  match s.launch? launch with
  | none => .next s
  | some l =>
    match s.queueOf l with
    | none => .next s
    | some q =>
      match s.queueWait l.field q, s.hasTurn l.field q, s.nextLaunch l.field q with
      | some t, _, _ => .next t
      | none, some c, some n =>
        if n.uid ≠ l.uid ∨ l.whole ∨ (s.queueJoins l.field q).any (fun (x : Block × Launch) => x.2.uid == l.uid) then .next s
        else
          match s.emptiest (openCores l (s.takes l)) with
          | none => .next s
          | some core => .next (s.choose l.field c.coremask q fun s => s.dispatchTo l core)
      | _, _, _ => .next s

/-- The members of a population at its dispatch: the threads whose LOGID is below N0; every other lane is vacant (R369). -/
def Warp.populate (n0 : Nat) (w : Warp) : Warp :=
  let m := maskOf fun i => decide ((laneOf w.logid i).toNat < n0)
  let w : Warp := { w with
    exited := ~~~m
    rank := rowOf fun i => if m.getLsbD i then laneOf w.logid i else 0xFFFFFFFF#32
    lineage := Vector.ofFn fun i => if m.getLsbD i.val then BitVec.ofNat 64 ((laneOf w.logid i.val).toNat % 2 ^ 24 * 2 ^ 24 + 0xFFFFFF)
      else 0xFFFFFFFFFFFFFFFF#64 }
  if m = 0 then { w with mode := .dormant, slots := Vector.ofFn fun _ => none }
  else w.mapSplits fun x => { x with mask := x.mask &&& m }

/-- The population of a launch begins (R367, R369). -/
def State.populate (s : State) (l : Launch) : State :=
  match s.pop? l.uid with
  | none => s
  | some p =>
    let bs := (s.blocks.filter fun b => b.launch == l.uid).map (·.uid)
    let go : Population → Population := fun x => { x with state := .running }
    ({ s with warps := mapWhere (fun w => bs.contains w.block) (Warp.populate p.n0) s.warps } : State).modPop l.uid go

/-- Every block of a launch goes to its core at once. -/
def State.dispatchWhole (s : State) (l : Launch) (cores : List Nat) : State :=
  let s := cores.zipIdx.foldl (fun s (x : Nat × Nat) => s.placeBlock l x.2 x.1) (s.beginDispatch l.uid)
  (s.modLaunch l.uid fun x => { x with next := l.griddim.toNat, state := .running }).populate l

/-- GANG_DISPATCH: every block at once, block g to the reserved core of the g-th lowest number (R306, R368). -/
def execGangDispatch (launch : Nat) (s : State) : Host.Outcome State Fault Refusal :=
  match s.launch? launch with
  | none => .next s
  | some l =>
    match s.queueOf l with
    | none => .next s
    | some q =>
      match s.queueWait l.field q, s.hasTurn l.field q, s.nextLaunch l.field q, s.gangCores l with
      | some t, _, _, _ => .next t
      | none, some c, some n, some cores =>
        if n.uid ≠ l.uid ∨ !l.whole then .next s
        else .next (s.choose l.field c.coremask q fun s => s.dispatchWhole l cores)
      | _, _, _, _ => .next s

/-- The frames that hold a swapped block's image are its context's (R276, R310). -/
def State.imageHere (s : State) (l : Launch) (b : Block) : Bool :=
  (s.ctx? l.field l.ctx).all fun c => (s.spawnColumns (.image b.uid)).all fun n => s.ownsRange c (spawnRange c n)

/-- JOIN_RESUME: the block's threads are packed into warps on the emptiest core with room, once what they have stored and read is performed at
FIELD scope (R223); it acquires at DEVICE scope (R310, R311). -/
def execJoinResume (block : Nat) (s : State) : Host.Outcome State Fault Refusal :=
  match s.block? block with
  | none => .next s
  | some b =>
    match s.launch? b.launch with
    | none => .next s
    | some l =>
      match s.queueOf l with
      | none => .next s
      | some q =>
        if b.state ≠ .swapped ∨ b.children ≠ 0 ∨ !s.movable b ∨ !s.imageHere l b then .next s
        else
          match s.queueWait l.field q, s.hasTurn l.field q, s.emptiest (s.joinCores b l) with
          | some t, _, _ => .next t
          | none, some c, some core => .next (s.choose l.field c.coremask q fun s => (s.packBlock b core).acquire core 2)
          | _, _, _ => .next s

/-! ## Retirement (R159, R300) -/

/-- The charge of a block is subtracted from its queue's DEFICIT (R300). -/
def State.chargeQueue (s : State) (f q charge : Nat) : State :=
  match s.queue? f q with
  | none => s
  | some x =>
    match s.ctx? f x.ctx with
    | none => s
    | some c =>
      match s.readQueue c .atom x.desc with
      | .ok (s, some d) => s.putNat (d.key + 40) 4 ((d.debt - (charge : Int)) % 2 ^ 32).toNat
      | .trap t => s.unitMet f x.ctx t.faddr
      | _ => s

/-- Every warp of a block has ended and no copy into its scratchpad is outstanding, in its engine or in its queue (R159, R290). -/
def State.mayRetire (s : State) (b : Block) : Bool :=
  let us := (s.warps.filter fun w => w.block == b.uid).map (·.uid)
  b.state == .resident && (s.warps.all fun w => w.block != b.uid || w.mode == .ended) &&
  (s.copies.all fun r => r.block != b.uid || packetSpace r.packet == 0) &&
  s.packetOps.all fun p => !us.contains p.warp || p.space == 0

/-- A block retires, and its queue is charged (R300). -/
def State.retireBlock (s : State) (l : Launch) (b : Block) (cycles : Nat) : State :=
  let s := s.modBlock b.uid fun x => { x with state := .retired }
  let s := s.modLaunch l.uid fun x => { x with retired := x.retired + 1 }
  match s.queueOf l with
  | some q => s.chargeQueue l.field q (cycles / 64)
  | none => s

/-- BLOCK_RETIRE: `cycles` are those that the block's warps were resident. The blocks of a population retire together (R369); how long the warps
of the others were resident is left open. A descriptor that must be waited for is waited for first. -/
def execBlockRetire (block cycles : Nat) (s : State) : Host.Outcome State Fault Refusal :=
  match s.block? block with
  | none => .next s
  | some b =>
    match s.launch? b.launch with
    | none => .next s
    | some l =>
      let mates := if l.kind = 2 then s.launchBlocks l.uid else [b]
      if !mates.all s.mayRetire then .next s
      else
        match (s.queueOf l).bind (s.queueWait l.field) with
        | some t => .next t
        | none =>
          let s' := mates.foldl (fun s' x => s'.retireBlock l x (if x.uid = block then cycles else (s.someWord x.bid).toNat)) s
          .next (s'.freeAccums.restCtx l.field l.ctx)

/-! ## Completion (R305, R435) -/

/-- Every store, engine write and copy of some warps, or of some operations, is performed at a scope (R239, R305). -/
def State.writesDone (s : State) (us : List Nat) (scope : Nat) : Bool :=
  (s.warps.all fun w => !us.contains w.uid || w.sq.isEmpty) &&
  (s.flights.all fun f => !(us.contains f.warp || us.contains f.op) || f.lost || f.performed scope) &&
  (s.areqs.all fun r => !us.contains r.warp || r.lost || (r.applied && !r.leaving) || (scope ≤ 2 && r.peer && r.applied)) &&
  (s.engine.all fun e => !us.contains e.warp) && (s.packetOps.all fun p => !us.contains p.warp) &&
  (s.copies.all fun r => !r.warp.any us.contains) &&
  (decide (scope ≤ 2) || s.hostWrites.all fun (h : Nat × Nat × Nat) => !(us.contains h.2.2 || us.contains h.2.1))

/-- The warps of a launch. -/
def State.warpsOf (s : State) (l : Launch) : List Nat :=
  (s.warps.filter fun w => (s.block? w.block).any fun b => b.launch == l.uid).map (·.uid)

/-- Every block of a launch has retired, its children are over and its writes and theirs are performed at DEVICE scope. -/
def State.mayComplete (s : State) (l : Launch) : Bool :=
  l.state == .running && decide (l.retired = l.griddim.toNat) && (s.childrenOf l).isEmpty && s.writesDone l.writers 2

/-- The launch and what is left of its blocks are gone. -/
def State.forget (s : State) (l : Launch) : State :=
  let us := s.warpsOf l
  let bs := (s.blocks.filter fun b => b.launch == l.uid).map (·.uid)
  { bs.foldl (fun s b => s.freeSpawn (.image b)) (s.freeSpawn (.clones l.uid)) with
    launches := s.launches.filter fun x => x.uid != l.uid
    warps := s.warps.filter fun w => !us.contains w.uid
    blocks := s.blocks.filter fun b => b.launch != l.uid
    populations := s.populations.filter fun p => p.launch != l.uid
    constCache := s.constCache.filter fun x => x.launch != l.uid
    counted := s.counted.filter fun x => x.launch != l.uid }

/-- A launch from a queue is COMPLETE: its TASK is decremented, and it is over unless it has a DONE still to write (R305). -/
def State.finishQueued (s : State) (l : Launch) (q : Nat) : State :=
  let d := s.unitDec l.field q l.task
  let written : Launch → Launch := fun x => { x with state := .complete }
  if !d.2 then d.1 else if l.done = 0 then d.1.forget l else d.1.modLaunch l.uid written

/-- DONE of a COMPLETE launch is written, as a release at SYSTEM scope (R305), and the launch is over; a DONE that faults is recorded and not
written (R435). -/
def State.writeDone (s : State) (c : Context) (l : Launch) : State :=
  if !s.writesDone l.writers 3 then s
  else
    match (s.forget l).putVirt c true l.done (leBytes 4 1) with
    | .ok s => s
    | .trap t => (s.forget l).kilnRecord l.field l.ctx t.code l.done
    | .wait _ => s.noteMiss c .store l.done

/-- A child is over: it leaves its parent's count, and what it has written counts with its parent's launch (R305, R308); the groups
that it has issued are its parent's progress (R313). -/
def State.childOver (s : State) (l : Launch) (b : Nat) : State :=
  let bs := (s.blocks.filter fun x => x.launch == l.uid).map (·.uid)
  let last := ((s.warps.filter fun w => bs.contains w.block).map (·.issuedAt)).foldl max 0
  let s := (s.forget l).modBlock b fun x => { x with children := x.children - 1, watch := x.watch.map (max last) }
  match s.block? b with
  | none => s
  | some x => s.modLaunch x.launch fun y => { y with writers := y.writers ++ l.writers }

/-- LAUNCH_COMPLETE: each of the completion actions in its turn; a child only leaves its parent's count (R305, R308). -/
def execLaunchComplete (launch : Nat) (s : State) : Host.Outcome State Fault Refusal :=
  match s.launch? launch with
  | none => .next s
  | some l =>
    match s.ctx? l.field l.ctx with
    | none => .next s
    | some c =>
      if l.state = .complete then .next (s.writeDone c l)
      else if !s.mayComplete l then .next s
      else
        match l.origin with
        | .queue q => .next (s.finishQueued l q)
        | .fork b => .next (s.childOver l b)
        | .inst _ _ => .next s

end Sys2Proof.Machine
end

