-- ==== Sys2Proof/Machine/EvContext.lean ====
section
/-! DEFINITION. The life of contexts (R266): the host's commands (R267 to R270), scheduling and restore, pre-emption and the forced
save (R274, R275), and the watchdog (R313). An event that is not enabled changes nothing. -/

namespace Sys2Proof.Machine

open Sys2Proof

/-! ## The command slot (R267) -/

/-- The host's words of a command: 1 and up, then word 0. -/
def State.slotWords (s : State) (f base command : Nat) (ws : List Word) : State :=
  (ws.zipIdx.foldl (fun s (x : Word × Nat) => s.setReg f (base + 4 + 4 * x.2) x.1) s).setReg f base (BitVec.ofNat 32 command)

/-! ## CREATE (R268 to R270) -/

/-- The context that a record describes, IDLE. -/
def contextOf (f : Nat) (b : List Byte) : Context where
  field := f
  ctxid := recNat b 2 2
  state := .idle
  prio := recNat b 4 1 % 4
  modes := BitVec.ofNat 8 (recNat b 5 1)
  fpxen := BitVec.ofNat 5 (recNat b 6 1)
  coremask := BitVec.ofNat 40 (recNat b 8 5)
  waymask := BitVec.ofNat 16 (recNat b 13 2)
  vaultdir := recNat b 15 1
  bwweight := recNat b 16 1
  ptroot := recAddr b 24
  handler := recAddr b 32
  backing := recAddr b 40
  hostrec := recAddr b 48
  wintab := recAddr b 56
  drainlim := recNat b 64 4
  regionlim := recNat b 68 4
  wdoglim := recNat b 72 4
  thermal := false
  nrec := 0
  wins := []

/-- A reserved field of a record is set, or a field is out of its range (R268, R269). -/
def ctxRecordBad (b : List Byte) : Bool :=
  decide (recNat b 0 2 ≠ 1) || decide (recNat b 2 2 = 0) || decide (4095 < recNat b 2 2) || decide (3 < recNat b 4 1) ||
  decide (recNat b 5 1 / 16 ≠ 0) || decide (recNat b 6 1 / 32 ≠ 0) || decide (recNat b 7 1 ≠ 0) || decide (recNat b 13 2 = 0) ||
  decide (recNat b 15 1 < 2) || decide (24 < recNat b 15 1) || decide (recNat b 16 1 = 0) || decide (recNat b 17 7 ≠ 0) ||
  decide (85000 < recNat b 68 4) || decide (recNat b 76 52 ≠ 0) ||
  ([24, 32, 40, 48, 56].any fun o => decide (recNat b o 8 % 64 ≠ 0)) || decide (recNat b 40 8 % 2 ^ 16 ≠ 0)

/-- Two contexts of a field that R270 lets stand side by side. -/
def Context.agrees (x y : Context) : Bool :=
  decide (x.coremask &&& y.coremask = 0) || (x.coremask == y.coremask && x.vaultdir == y.vaultdir && x.bwweight == y.bwweight)

/-- A record is invalid for its field as it stands (R269). -/
def State.ctxBad (s : State) (f c : Nat) (b : List Byte) : Bool :=
  let x := contextOf f b
  let healthy := ((s.field? f).map (·.coremask)).getD 0
  ctxRecordBad b || x.ctxid != c || (s.ctx? f x.ctxid).isSome || decide (x.coremask = 0) || decide (x.coremask &&& ~~~healthy ≠ 0) ||
  s.contexts.any fun y => y.field == f && !x.agrees y

/-- Perform CREATE. -/
def State.createCtx (s : State) (f c : Nat) (addr : Dword) : State :=
  let membytes := ((s.field? f).map (·.membytes)).getD 0
  if addr.toNat % 64 ≠ 0 ∨ membytes < addr.toNat + 128 then s.commandStatus f 2
  else
    let r := s.engineRead ((List.range 128).map fun i => physKey 0 f (addr.toNat + i))
    if r.1.ctxBad f c r.2 then r.1.commandStatus f 2
    else if 64 ≤ (r.1.contexts.filter fun y => y.field == f).length then r.1.commandStatus f 4
    else ({ r.1 with contexts := r.1.contexts ++ [contextOf f r.2] } : State).commandStatus f 0

/-- CREATE (R266 to R270). -/
def execCreate (field ctx : Nat) (addr : Dword) (s : State) : Host.Outcome State Fault Refusal :=
  if !s.hostReach field then .next s
  else .next ((s.slotWords field 0x1000 1 [BitVec.ofNat 32 ctx, loWord addr, hiWord addr]).createCtx field ctx addr)

/-! ## DESTROY, KILL and PREEMPT -/

/-- Perform DESTROY (R266, R424). -/
def State.destroyCtx (s : State) (f c : Nat) : State :=
  match s.ctx? f c with
  | none => s.commandStatus f 2
  | some x =>
    if x.state == .idle || x.state == .saved || x.state == .killed then
      let rest : Context → Context := fun y => { y with state := if y.state = .killed then .killed else .idle }
      let s := ((s.emptyCtx f c).revokeAll f c).modCtx f c rest
      ({ s with destroying := s.destroying.filter (fun (y : Nat × Nat) => y != (f, c)) ++ [(f, c)] } : State).settleDestroys
    else s.commandStatus f 3

/-- DESTROY. -/
def execDestroy (field ctx : Nat) (s : State) : Host.Outcome State Fault Refusal :=
  if !s.hostReach field then .next s
  else .next ((s.slotWords field 0x1000 2 [BitVec.ofNat 32 ctx]).destroyCtx field ctx)

/-- KILL: the host record names CONTEXT_KILLED (R212, R266). -/
def execKill (field ctx : Nat) (s : State) : Host.Outcome State Fault Refusal :=
  if !s.hostReach field then .next s
  else
    let s := s.slotWords field 0x1000 4 [BitVec.ofNat 32 ctx]
    match s.ctx? field ctx with
    | none => .next (s.commandStatus field 2)
    | some _ => .next (((s.kilnRecord field ctx 61 0).killCtx field ctx).commandStatus field 0)

/-- Pre-emption begins: no block is dispatched any more (R274). One that is not thermal governs a thermal one that is pending. -/
def State.startDrain (s : State) (c : Context) (thermal : Bool) : State :=
  (s.modCtx c.field c.ctxid fun x =>
    { x with state := if x.state = .running then .draining else x.state,
             thermal := if x.state = .running then thermal else x.thermal && thermal }).restCtx c.field c.ctxid

/-- A context whose pre-emption may begin, or be taken over from a thermal migration. -/
def Context.preemptible (c : Context) : Bool :=
  c.state == .running || (c.thermal && (c.state == .draining || c.state == .saving))

/-- PREEMPT. -/
def execPreempt (field ctx : Nat) (s : State) : Host.Outcome State Fault Refusal :=
  if !s.hostReach field then .next s
  else
    let s := s.slotWords field 0x1000 3 [BitVec.ofNat 32 ctx]
    match s.ctx? field ctx with
    | none => .next (s.commandStatus field 2)
    | some c => .next (if c.preemptible then (s.startDrain c false).commandStatus field 0 else s.commandStatus field 3)

/-! ## STEP and UNSTEP (R213, R267) -/

/-- The warp of a context that holds a slot of a core. -/
def State.slotHolder (s : State) (f c core slot : Nat) : Option Warp :=
  (s.coreWarps core).find? fun w => w.slot == slot && w.field == f && s.ctxidOf w == c

/-- Set or clear a warp's step flag. -/
def State.setStep (s : State) (f c core slot : Nat) (on : Bool) : State :=
  match s.slotHolder f c core slot with
  | none => s.commandStatus f 2
  | some w => (s.modWarp w.uid fun x => { x with stepFlag := on }).commandStatus f 0

/-- STEP. -/
def execStepFlag (field ctx core slot : Nat) (s : State) : Host.Outcome State Fault Refusal :=
  if !s.hostReach field then .next s
  else
    let ws := [BitVec.ofNat 32 ctx, BitVec.ofNat 32 core, BitVec.ofNat 32 slot]
    .next ((s.slotWords field 0x1000 5 ws).setStep field ctx core slot true)

/-- UNSTEP. -/
def execUnstepFlag (field ctx core slot : Nat) (s : State) : Host.Outcome State Fault Refusal :=
  if !s.hostReach field then .next s
  else
    let ws := [BitVec.ofNat 32 ctx, BitVec.ofNat 32 core, BitVec.ofNat 32 slot]
    .next ((s.slotWords field 0x1000 6 ws).setStep field ctx core slot false)

/-! ## Pre-emption (R274) -/

/-- A context of higher priority in its partition has dispatchable work. -/
def State.outranked (s : State) (c : Context) : Bool :=
  s.contexts.any fun x => x.field == c.field && x.coremask == c.coremask && decide (c.prio < x.prio) && x.state != .killed && s.ctxWork x

/-- A core of the context lies in a hot zone (R431). -/
def State.inHotZone (s : State) (c : Context) : Bool :=
  match s.field? c.field with
  | some f => (List.range 40).any fun n => c.coremask.getLsbD n && f.hot.getLsbD (n / 10)
  | none => false

/-- PREEMPTION_START. -/
def execPreemptionStart (field ctx : Nat) (thermal : Bool) (s : State) : Host.Outcome State Fault Refusal :=
  match s.ctx? field ctx with
  | none => .next s
  | some c =>
    let cause := if thermal then c.state == .running && s.inHotZone c else c.preemptible && s.outranked c
    .next (if cause then s.startDrain c thermal else s)

/-- DRAIN_LIMIT_EXPIRY: a forced save begins while a block is resident (R274). -/
def execDrainLimitExpiry (field ctx : Nat) (s : State) : Host.Outcome State Fault Refusal :=
  match s.ctx? field ctx with
  | none => .next s
  | some c =>
    if c.state ≠ .draining then .next s
    else if (s.blocksIn c .resident).isEmpty then .next (s.restCtx field ctx)
    else .next (s.modCtx field ctx fun x => { x with state := .saving })

/-- DRAIN_TIMEOUT of a cut warp (R210, R274). -/
def cutCause (w : Warp) : AsyncCause :=
  { op := 0, ord := 0, code := 60, faddr := 0, lane := 0, kind := .cut, seq := w.seq, firstReg := 0, nreg := 0, lanes := 0, zero := [],
    gmode := false, kept := false, wins := [], accs := [], buf := none }

/-- The group at which a warp stands. -/
def Warp.groupAddr (w : Warp) : Dword := ((w.split? (w.inGroup.getD w.onlySlot)).map (·.start)).getD 0

/-- The live warps of some blocks, in order. -/
def State.warpsIn (s : State) (bs : List (Block × Launch)) : List Warp :=
  bs.flatMap fun (b : Block × Launch) => sortBy (fun (w : Warp) => w.wid) (s.warps.filter fun w => w.block == b.1.uid && w.mode != .ended)

/-- REGION_LIMIT_EXPIRY: every warp of the saving context that is inside a region is cut; a thermal migration alone cuts none. -/
def execRegionLimitExpiry (field ctx : Nat) (s : State) : Host.Outcome State Fault Refusal :=
  match s.ctx? field ctx with
  | none => .next s
  | some c =>
    if c.state ≠ .saving ∨ c.thermal then .next s
    else
      let ws := (s.warpsIn (s.blocksIn c .resident)).filter fun w => decide (0 < w.region)
      .next (ws.foldl (fun s w =>
        (s.hostRecord field ctx (cutCause w).trap.word 0 w.groupAddr w.core w.slot).modWarp w.uid fun x =>
          { x with region := 0, asyncs := x.asyncs ++ [cutCause w] }) s)

/-! ## The forced save (R223, R275) -/

/-- Kill a context with a cause of the part. -/
def State.partKill (s : State) (f c code : Nat) : State := (s.kilnRecord f c code 0).killCtx f c

/-- Nothing of a warp is outstanding but the entries held behind a lost store, and the reads of the gather loops, which stand between two K-steps
and are saved with the steps that they have left (R255, R263). -/
def Warp.saveable (w : Warp) : Bool := decide (w.region = 0) && (w.loads.all fun op => op.done || op.kind == .gather) && w.drained

/-- A warp as it is saved: at a group boundary, with no hint and no cause that waits for its handler; what blocked it issues again, but for
RSMPL under a placement or a report of its population. -/
def Warp.stop (placing : Bool) (w : Warp) : Warp :=
  let back : Split → Split := fun x =>
    { x with pc := x.start, hints := [], blocked := if placing && x.blocked == some WaitCond.resample then x.blocked else none }
  let w : Warp := match w.inGroup with
    | some i => w.modSplit i back
    | none => w
  let open_ : Split → Split := fun x =>
    { x with blocked := if placing && x.blocked == some WaitCond.resample then x.blocked else none }
  { w.mapSplits open_ with inGroup := none, growReq := none, xchg := none, due := none }

/-- The block's population is PLACING. -/
def State.placing (s : State) (b : Block) : Bool := (s.pop? b.launch).any fun p => p.state == .placing

/-- What a block waits with at RSMPL is saved with it: its population is PLACING, or one of its warps reports a check of it (R371, R377). -/
def State.keepsRsmpl (s : State) (b : Block) : Bool := (s.pop? b.launch).any fun p => p.state == .placing || p.state == .faulted

/-- Save a block. -/
def State.saveBlock (s : State) (b : Block) : State :=
  let keep := s.keepsRsmpl b
  let s : State := { s with warps := mapWhere (fun w => w.block == b.uid) (Warp.stop keep) s.warps }
  (s.stowAccums b).modBlock b.uid fun x =>
    { x with state := .saved, passive := false, rsmpl := if keep then x.rsmpl else none }

/-- Nothing of a block is in motion: its warps may be saved, its writes to the scratchpad are made and its drains that have begun are
complete (R255, R275). -/
def State.quietBlock (s : State) (b : Block) : Bool :=
  ((s.warps.filter fun w => w.block == b.uid && w.mode != .ended).all Warp.saveable) && ((s.block? b.uid).all fun x => x.bankq.isEmpty) &&
  !s.engine.any fun e => e.block == b.uid && s.startedDrain e

/-- The save regions that some blocks' images go to or come from: those of their cores' columns (R271, R275). -/
def imagesOf (c : Context) (bs : List Block) : List (Nat × (Nat × Nat)) :=
  (dedupNat (bs.map fun (b : Block) => b.core % 40)).map fun n => (n, imageRange c n)

/-- The images are written, each into a save region whose frames are the context's (R276). -/
def State.writeImages (s : State) (c : Context) (bs : List Block) : State :=
  (imagesOf c bs).foldl (fun s (x : Nat × (Nat × Nat)) => s.writeOwn c x.1 x.2) s

/-- The frames of the blocks' save regions are the context's (R276). -/
def State.ownsImages (s : State) (c : Context) (bs : List Block) : Bool := (imagesOf c bs).all fun (x : Nat × (Nat × Nat)) => s.ownsRange c x.2

/-- FORCED_SAVE: the warps stop, their queues drain, their loads and the drains that have begun complete; once nothing of them is outstanding the
images are written to the save regions of the cores' columns and the context is SAVED. A save region whose vault is offline takes no image: its
context is killed with VAULT_LOST (R396, log 136). -/
def execForcedSave (field ctx : Nat) (s : State) : Host.Outcome State Fault Refusal :=
  match s.ctx? field ctx with
  | none => .next s
  | some c =>
    if c.state ≠ .saving then .next s
    else
      let bs := s.blocksIn c .resident
      let us := (s.warpsIn bs).map (·.uid)
      let s := us.foldl State.quiesce s
      let images := bs.map fun (b : Block × Launch) => b.1
      if !images.all s.quietBlock then .next s
      else if (imagesOf c images).any fun (x : Nat × (Nat × Nat)) => !s.vaultOnline field x.1 then .next (s.partKill field ctx 36)
      else if !s.ownsImages c images then .next s
      else
        .next ((images.foldl State.saveBlock (s.writeImages c images)).modCtx field ctx fun x =>
          { x with state := .saved, thermal := false })

/-! ## Restore and scheduling (R159, R223, R255, R266) -/

/-- The warps of a saved block that take slots and registers again. -/
def State.savedWarps (s : State) (b : Block) : List Warp := s.warpsIn ((s.launch? b.launch).toList.map fun l => (b, l))

/-- A core has room for a saved block: slots, registers, scratchpad and its accumulators. -/
def State.restores (s : State) (b : Block) (l : Launch) (core : Nat) : Bool :=
  let ws := s.savedWarps b
  s.takesBack l ws.length ((ws.map (·.alloc)).foldl (· + ·) 0) core &&
  b.accums.all fun a => !s.accums.any fun x => x.core == core && x.index == a.index

/-- Restore a block on a core: its warps take the lowest free slots, and the core acquires. -/
def State.restoreBlock (s : State) (b : Block) (core : Nat) : State :=
  let slots := s.freeSlots core
  let new := (s.savedWarps b).zipIdx.map fun (x : Warp × Nat) => { x.1 with core := core, slot := slots.getD x.2 0 }
  let s : State := { s with warps := s.warps.map fun w => (new.find? fun x => x.uid == w.uid).getD w }
  let home : Block → Block := fun x => { x with core := core, state := .resident }
  let s := s.carryReads b.core core
  ((s.modBlock b.uid home).unstowAccums b core).acquire core 1

/-- A core for a saved block: any that has room (R159). -/
def State.restoreCore (s : State) (b : Block) (l : Launch) (taken : List Nat) : Option Nat :=
  let cs := (openCores l (s.restores b l)).filter fun n => !taken.contains n
  cs[(s.someWord (b.uid % 32768)).toNat % cs.length]?

/-- A saved block may be restored: nothing of it is in motion (R223) and the frames that hold its image are its context's (R276). -/
def State.readyImage (s : State) (l : Launch) (b : Block) : Bool :=
  s.movable b && (s.ctx? l.field l.ctx).any fun c => s.ownsImages c [b]

/-- Restore the blocks of a gang or a population, each on a core of its own; none when one of them finds no core (R162). -/
def State.restoreWhole (s : State) (l : Launch) (taken : List Nat) : List Block → Option State
  | [] => some s
  | b :: rest =>
    if !s.readyImage l b then none
    else
      match s.restoreCore b l taken with
      | none => none
      | some core => (s.restoreBlock b core).restoreWhole l (core :: taken) rest

/-- Restore every saved block of a context that finds a core, gangs and populations whole. -/
def State.restoreAll (s : State) : List (Block × Launch) → State
  | [] => s
  | (b, l) :: rest =>
    if !(s.block? b.uid).any fun x => x.state == .saved then s.restoreAll rest
    else if l.whole then
      let mates := sortBy (fun (x : Block) => x.bid) (s.blocks.filter fun x => x.launch == l.uid && x.state == .saved)
      ((s.restoreWhole l [] mates).getD s).restoreAll rest
    else
      match if s.readyImage l b then s.restoreCore b l [] else none with
      | some core => (s.restoreBlock b core).restoreAll rest
      | none => s.restoreAll rest

/-- CONTEXT_SCHEDULE: an IDLE or SAVED context with work that nothing outranks becomes RUNNING; its saved blocks are restored as far as
there is room, and a SAVED context waits for the first. -/
def execContextSchedule (field ctx : Nat) (s : State) : Host.Outcome State Fault Refusal :=
  match s.ctx? field ctx with
  | none => .next s
  | some c =>
    if !(c.state == .idle || c.state == .saved || c.state == .running) || !s.ctxWork c || s.outranked c then .next s
    else
      let saved := sortBy (fun (x : Block × Launch) => x.1.uid) (s.blocksIn c .saved)
      let s' := s.restoreAll saved
      if c.state = .saved ∧ !saved.isEmpty ∧ (s'.blocksIn c .saved).length = saved.length then .next s
      else .next (s'.modCtx field ctx fun x => { x with state := .running })

/-! ## The watchdog (R313) -/

/-- A block has made progress since a step: one of its warps has issued a group or an operation of it has completed, or a block of an outstanding
child has issued a group. -/
def State.progressed (s : State) (b : Block) (since : Nat) : Bool :=
  let children := (s.launches.filter fun l => l.origin == .fork b.uid).map (·.uid)
  let theirs := (s.blocks.filter fun x => children.contains x.launch).map (·.uid)
  s.warps.any fun w => (w.block == b.uid && decide (since < max w.issuedAt w.doneAt)) || (theirs.contains w.block && decide (since < w.issuedAt))

/-- The cycles of a block count: it is resident, its field is not stopped by the PMC, and its population is not PLACING (R377). -/
def State.counts (s : State) (l : Launch) (b : Block) : Bool :=
  b.state == .resident && !s.placing b && (s.field? l.field).any fun f => !f.stopped

/-- The watchdog kills a block's context, naming the block's core and its lowest warp slot. -/
def State.watchdogKill (s : State) (l : Launch) (b : Block) : State :=
  let slot := (minNat? ((s.warps.filter fun w => w.block == b.uid && w.mode != .ended).map (·.slot))).getD 0
  (s.hostRecord l.field l.ctx (Trap.plain 62).word 0 0 b.core slot).killCtx l.field l.ctx

/-- WATCHDOG: one comes where the limit is reached. The first after progress notes the step, and one at which there has been none since kills the
context; which cycles lie between is time, which the model leaves out (log 80). -/
def execWatchdog (block : Nat) (s : State) : Host.Outcome State Fault Refusal :=
  match s.block? block with
  | none => .next s
  | some b =>
    match s.launch? b.launch with
    | none => .next s
    | some l =>
      if !s.counts l b || (s.ctx? l.field l.ctx).all fun c => decide (c.wdoglim = 0) then .next s
      else
        match b.watch with
        | none => .next (s.modBlock block fun x => { x with watch := some s.fresh })
        | some t =>
          .next (if s.progressed b t then s.modBlock block fun x => { x with watch := some s.fresh } else s.watchdogKill l b)

end Sys2Proof.Machine
end

