-- ==== Sys2Proof/Machine/Exchange.lean ====
section
/-! DEFINITION. The cross-lane families SHFL, VOTE, LRED and LSCAN (R186 to R192), and XCHG and XCHGK (R193, R194). -/

namespace Sys2Proof.Machine

open Sys2Proof

/-! ## The span (R172, R187) -/

/-- A member's place in the span: SETRANK at SET scope, WARPID at BLOCK scope. -/
def Job.rankOf (j : Job) (w : Warp) : Nat :=
  match j.scope with
  | .set => if j.launch.sets = 0 then 0 else w.wid % j.launch.sets
  | .block => w.wid
  | _ => 0

/-- The contributors of a member: its live lanes that its MASK holds (R172, R187). -/
def Job.contrib (j : Job) (w : Warp) : LaneMask := j.liveOf w &&& w.mask

/-- The members in the order of the span. -/
def Job.span (j : Job) : List Warp := sortBy j.rankOf j.members

/-- The members' lanes in the order of the span, with whether each contributes. -/
def Job.spanLanes (j : Job) : List (Warp × Nat × Bool) :=
  j.span.flatMap fun w => lanes32.map fun i => (w, i, (j.contrib w).getLsbD i)

/-- Write v[d] of every contributor of every member. -/
def State.putSpan (s : State) (j : Job) (val : Warp → Nat → Word) : State :=
  j.members.foldl (fun s w => s.modWarp w.uid fun x => x.setRow (j.contrib w) j.d (rowOf (val w))) s

/-- Write a predicate in every contributor of every member. -/
def State.putSpanPred (s : State) (j : Job) (q : Nat) (val : Bool) : State :=
  j.members.foldl
    (fun s w => s.modWarp w.uid fun x => x.setPred (j.contrib w) q (if val then 0xFFFFFFFF#32 else 0)) s

/-! ## SHFL -/

/-- The size of the span of SHFL (R189). -/
def Job.shflSize (j : Job) : Nat := if j.scope = .set then 32 * j.launch.sets else 32

/-- What index k of the span supplies: 0 for an exited lane or an ended warp (R186, R189). -/
def Job.shflSource (j : Job) (w : Warp) (k : Nat) : Word :=
  let src := if j.scope = .set then j.members.find? fun x => j.rankOf x == k / 32 else some w
  match src with
  | none => 0
  | some x => if x.exited.getLsbD (k % 32) then 0 else laneOf (x.row j.a) (k % 32)

/-- SHFL with its source index from the lane's index, its operand and the span's size. -/
def shfl (b : Opb) (pick : Nat → Nat → Nat → Nat) (s : State) (j : Job) : Eff :=
  eachMember j j.members (fun jm => s.operand jm .int b) fun ys =>
    .next (s.putSpan j fun w i =>
      let y := laneOf (((ys.find? fun e => e.1.uid == w.uid).map fun e => e.2).getD (splat 0)) i
      j.shflSource w (pick (32 * j.rankOf w * (if j.scope = .set then 1 else 0) + i) y.toNat j.shflSize))

/-- The lanes of a member whose register some member's pick names: those that SHFL reads (R210). -/
def Job.shflReach (j : Job) (s : State) (b : Opb) (pick : Nat → Nat → Nat → Nat) (k : Nat) : LaneMask :=
  if k ≠ 1 then j.contrib j.w
  else
    let ms := if j.scope = .set then j.members else [j.w]
    maskOf fun i => ms.any fun x =>
      let ys := match s.operand (j.onWarp x) .int b with
        | .ok y => y
        | _ => splat 0
      let base := if j.scope = .set then 32 * j.rankOf x else 0
      let here_ := if j.scope = .set then 32 * j.rankOf j.w else 0
      (lanesOf (j.contrib x)).any fun l => pick (base + l) (laneOf ys l).toNat j.shflSize == here_ + i

/-- What SHFL names (R188): at SET scope a is a k register. -/
def shflMeta (s : State) (sc : Scope) (d a : Reg) (b : Opb) (pick : Nat → Nat → Nat → Nat) : Meta :=
  let n := a.toNat + s.issuerXreg 1
  { cls := .exchange, scope := sc, d := d.toNat, nd := 1, a := a.toNat, na := 1, b := b.num, nb := b.vcount 1, opb := some b,
    ximm := true, xreg := true, xpred := true, reach := fun s j k => j.shflReach s b pick k,
    bad := sc == .set && !(decide (48 ≤ n) && decide (n < 64)) }

/-- The source index of each function of SHFL, from the lane's index, its operand and the span's size (R189). -/
def pickIdx (_ y n : Nat) : Nat := y % n
def pickUp (i y _ : Nat) : Nat := if y ≤ i then i - y else i
def pickDown (i y n : Nat) : Nat := if i + y < n then i + y else i
def pickXor (i y n : Nat) : Nat := i ^^^ (y % n)

/-- SHFL.IDX (R189). -/
def execShflIdx (sc : Scope) (d a : Reg) (b : Opb) (s : State) : Host.Outcome State Fault Refusal :=
  issue (shflMeta s sc d a b pickIdx) s (shfl b pickIdx)

/-- SHFL.UP (R189). -/
def execShflUp (sc : Scope) (d a : Reg) (b : Opb) (s : State) : Host.Outcome State Fault Refusal :=
  issue (shflMeta s sc d a b pickUp) s (shfl b pickUp)

/-- SHFL.DOWN (R189). -/
def execShflDown (sc : Scope) (d a : Reg) (b : Opb) (s : State) : Host.Outcome State Fault Refusal :=
  issue (shflMeta s sc d a b pickDown) s (shfl b pickDown)

/-- SHFL.XOR (R189). -/
def execShflXor (sc : Scope) (d a : Reg) (b : Opb) (s : State) : Host.Outcome State Fault Refusal :=
  issue (shflMeta s sc d a b pickXor) s (shfl b pickXor)

/-- What SHFL.BCAST names. -/
def shflBcastMeta (s : State) (sc : Scope) (d : Reg) (a : Reg) (b : Opb) : Meta :=
  let m := shflMeta s sc d a b pickIdx
  { m with bad := m.bad || b.isV }

/-- SHFL.BCAST (R188, R189): its operand is the same in every lane. -/
def execShflBcast (sc : Scope) (d a : Reg) (b : Opb) (s : State) : Host.Outcome State Fault Refusal :=
  issue (shflBcastMeta s sc d a b) s (shfl b pickIdx)

/-! ## VOTE (R190) -/

/-- What a VOTE to a predicate names. -/
def voteMeta (sc : Scope) : Meta := { cls := .crossLane, scope := sc, xreg := true, xpred := true }

/-- What VBAL and VCNT name. -/
def voteRowMeta (sc : Scope) (d : Reg) : Meta := { voteMeta sc with d := d.toNat, nd := 1 }

/-- The contributors of a member with the condition true. -/
def Job.voters (j : Job) (n : Bool) (p : BitVec 3) (w : Warp) : LaneMask :=
  j.contrib w &&& (if n then ~~~w.pred p.toNat else w.pred p.toNat)

/-- The condition is true in every contributor, and in none. -/
def Job.allTrue (j : Job) (n : Bool) (p : BitVec 3) : Bool := j.members.all fun w => j.voters n p w == j.contrib w
def Job.noneTrue (j : Job) (n : Bool) (p : BitVec 3) : Bool := j.members.all fun w => j.voters n p w == 0

/-- VALL (R190). -/
def execVall (sc : Scope) (d : BitVec 3) (n : Bool) (p : BitVec 3) (s : State) : Host.Outcome State Fault Refusal :=
  issue (voteMeta sc) s fun s j => .next (s.putSpanPred j d.toNat (j.allTrue n p))

/-- VANY (R190). -/
def execVany (sc : Scope) (d : BitVec 3) (n : Bool) (p : BitVec 3) (s : State) : Host.Outcome State Fault Refusal :=
  issue (voteMeta sc) s fun s j => .next (s.putSpanPred j d.toNat (!j.noneTrue n p))

/-- VUNI (R190). -/
def execVuni (sc : Scope) (d : BitVec 3) (n : Bool) (p : BitVec 3) (s : State) : Host.Outcome State Fault Refusal :=
  issue (voteMeta sc) s fun s j => .next (s.putSpanPred j d.toNat (j.allTrue n p || j.noneTrue n p))

/-- VBAL (R190): a ballot, or at wider scopes lane L the ballot of the member at L. -/
def execVbal (sc : Scope) (d : Reg) (n : Bool) (p : BitVec 3) (s : State) : Host.Outcome State Fault Refusal :=
  issue (voteRowMeta sc d) s fun s j =>
    .next (s.putSpan j fun w i =>
      if gathers sc then ((j.members.find? fun x => j.rankOf x == i).map (j.voters n p)).getD 0 else j.voters n p w)

/-- VCNT (R190). -/
def execVcnt (sc : Scope) (d : Reg) (n : Bool) (p : BitVec 3) (s : State) : Host.Outcome State Fault Refusal :=
  issue (voteRowMeta sc d) s fun s j =>
    let k := (j.members.map fun w => (lanesOf (j.voters n p w)).length).sum
    .next (s.putSpan j fun _ _ => BitVec.ofNat 32 k)

/-! ## LRED and LSCAN (R191, R192, R94, R95) -/

/-- What LRED and LSCAN name. -/
def lredMeta (sc : Scope) (d a : Reg) : Meta :=
  { cls := .crossLane, scope := sc, d := d.toNat, nd := 1, a := a.toNat, na := 1, xreg := true, xmod := xmFtz, xpred := true,
    reach := fun _ j _ => j.contrib j.w }

/-- The three forms of major 0x20. -/
inductive Form where
  | reduce
  | inclusive
  | exclusive
  deriving DecidableEq, Repr

/-- An exact operation on a list of contributors: its value over the empty list is its identity. -/
def foldOp (op : Word → Word → Word) (unit : Word) (xs : List Word) : Word := xs.foldl op unit

/-- The contributors' values among some lanes of the span. -/
def Job.valuesIn (j : Job) (ls : List (Warp × Nat × Bool)) : List Word :=
  ls.filterMap fun e => if e.2.2 then some (laneOf (e.1.row j.a) e.2.1) else none

/-- The place of a lane in the span's list. -/
def Job.placeOf (j : Job) (w : Warp) (i : Nat) : Nat := (j.span.findIdx fun x => x.uid == w.uid) * 32 + i

/-- The value of a lane under a form, from what a list of contributors gives. -/
def Job.formVal (j : Job) (f : Form) (g : List Word → Word) (w : Warp) (i : Nat) : Word :=
  let ls := j.spanLanes
  match f with
  | .reduce => g (j.valuesIn ls)
  | .inclusive => g (j.valuesIn (ls.take (j.placeOf w i + 1)))
  | .exclusive => g (j.valuesIn (ls.take (j.placeOf w i)))

/-- An integer or bitwise reduction or scan. -/
def lredInt (f : Form) (op : Word → Word → Word) (unit : Word) (s : State) (j : Job) : Eff :=
  .next (s.putSpan j (j.formVal f (foldOp op unit)))

/-- The lowest contributor of the span, with its warp. -/
def Job.lowest (j : Job) : Option (Nat × Nat) :=
  (j.spanLanes.find? fun e => e.2.2).map fun e => (e.1.uid, e.2.1)

/-- Every exception of a floating reduction is credited to every contributor: the trap in the lowest one's warp (R192). -/
def Job.spanTrap (j : Job) (fx : Fx) : Option Eff :=
  if fx &&& j.ctx.fpxen = 0 then none
  else j.lowest.map fun e => .trapIn e.1 { Trap.at 17 0 e.2 with fpx := fx }

/-- The least or greatest non-NaN value of a list, by R192. -/
def minMaxOf (ftz big : Bool) (xs : List Word) : Word :=
  let ys := xs.map fun x => fp32.flush ftz x.toNat
  let ns := ys.filter fun y => !(fp32.decode y).isNan
  match ns with
  | [] => if xs.isEmpty then (if big then 0xFF800000#32 else 0x7F800000#32) else 0x7FC00000#32
  | y :: rest => BitVec.ofNat 32 (rest.foldl (fun a b => (minMaxBits fp32 big a b).1) y)

/-- FMIN and FMAX round nothing, so that no exception arises: a signalling NaN signals no more than a quiet one (R75, R192, log 106). -/
def lredMinMax (f : Form) (big : Bool) (s : State) (j : Job) : Eff := .next (s.putSpan j (j.formVal f (minMaxOf j.ftz big)))

/-- Negative zero, the identity of FADD (R191). -/
def negZero : Word := 0x80000000#32

/-- The addition of R94 and R95: a signalling NaN signals no more than a quiet one (R75, log 38). -/
def treeAdd (ftz : Bool) (x y : Word) : Word × Fx :=
  let m : FMode := { rnd := .rn, ftz := ftz, sat := false }
  wordFx (m.result fp32 (addVal .rn (m.input fp32 x.toNat).quiet (m.input fp32 y.toNat).quiet))

/-- One level of the pairwise tree. -/
def treeLevel (ftz : Bool) : List Word → List Word × Fx
  | x :: y :: rest =>
    let r := treeAdd ftz x y
    let t := treeLevel ftz rest
    (r.1 :: t.1, r.2 ||| t.2)
  | xs => (xs, 0)

/-- The five levels of the tree over 32 values (R94). -/
def treeSum (ftz : Bool) (xs : List Word) : Word × Fx :=
  let r := [1, 2, 3, 4, 5].foldl (fun (a : List Word × Fx) _ =>
    let t := treeLevel ftz a.1
    (t.1, a.2 ||| t.2)) (xs, 0)
  (r.1.headD negZero, r.2)

/-- The five distance steps of a scan over the first `n` of 32 values (R95): the roundings of those places count. -/
def scanSteps (ftz : Bool) (n : Nat) (xs : Row) : Row × Fx :=
  [1, 2, 4, 8, 16].foldl (fun (a : Row × Fx) d =>
    let r : Nat → Word × Fx := fun i => if i < d then (laneOf a.1 i, 0) else treeAdd ftz (laneOf a.1 (i - d)) (laneOf a.1 i)
    (rowOf fun i => (r i).1, (List.range n).foldl (fun x i => x ||| (r i).2) a.2)) (xs, 0)

/-- A result that is NaN is the canonical NaN (R75): a value that no addition has reached keeps no payload. -/
def canonNan (x : Word) : Word := if (fp32.decode x.toNat).isNan then 0x7FC00000#32 else x

/-- The warps that a wide scan ranges over: those of the set, or of the block (R161, R187). -/
def Job.spanWarps (j : Job) : Nat := if j.scope = .set then j.launch.sets else j.launch.warps

/-- A member's values as FADD reads them: -0.0 for a lane that does not contribute. -/
def Job.faddRow (j : Job) (w : Warp) : Row :=
  rowOf fun i => if (j.contrib w).getLsbD i then BitVec.ofNat 32 (fp32.flush j.ftz (laneOf (w.row j.a) i).toNat) else negZero

/-- One word for each place of the span, -0.0 where there is no member. -/
def Job.byRank (j : Job) (f : Warp → Word) : Row :=
  rowOf fun k => ((j.members.find? fun w => j.rankOf w == k).map f).getD negZero

def rowList (r : Row) : List Word := lanes32.map (laneOf r)

/-- LRED.FADD (R94). -/
def lredAdd (s : State) (j : Job) : Eff :=
  let one : Warp → Word × Fx := fun w => treeSum j.ftz (rowList (j.faddRow w))
  let fx0 := j.members.foldl (fun x w => x ||| (one w).2) 0
  let total := if gathers j.scope then treeSum j.ftz (rowList (j.byRank fun w => (one w).1)) else one j.w
  match j.spanTrap (fx0 ||| total.2) with
  | some e => e
  | none => .next (s.putSpan j fun _ _ => total.1)

/-- LSCAN.FADD (R95). Every rounding counts among the exceptions, that of the last addition in each of a member's 32 lanes (R192, log 82). -/
def lscanAdd (f : Form) (s : State) (j : Job) : Eff :=
  let one : Warp → Row × Fx := fun w => scanSteps j.ftz 32 (j.faddRow w)
  let fx0 := j.members.foldl (fun x w => x ||| (one w).2) 0
  let across := if gathers j.scope then scanSteps j.ftz j.spanWarps (j.byRank fun w => laneOf (one w).1 31) else (splat negZero, 0)
  let own : Warp → Nat → Word := fun w i =>
    if f = .exclusive then (if i = 0 then negZero else laneOf (one w).1 (i - 1)) else laneOf (one w).1 i
  let val : Warp → Nat → Word × Fx := fun w i =>
    if gathers j.scope then
      treeAdd j.ftz (if j.rankOf w = 0 then negZero else laneOf across.1 (j.rankOf w - 1)) (own w i)
    else (canonNan (own w i), 0)
  let fx1 := j.members.foldl (fun x w => lanes32.foldl (fun x i => x ||| (val w i).2) x) 0
  match j.spanTrap (fx0 ||| across.2 ||| fx1) with
  | some e => e
  | none => .next (s.putSpan j fun w i => (val w i).1)

/-- LRED.IADD (R191). -/
def execLredIadd (sc : Scope) (d a : Reg) (s : State) : Host.Outcome State Fault Refusal :=
  issue (lredMeta sc d a) s (lredInt .reduce (fun x y => x + y) 0)

/-- LRED.IMIN (R191). -/
def execLredImin (sc : Scope) (d a : Reg) (s : State) : Host.Outcome State Fault Refusal :=
  issue (lredMeta sc d a) s (lredInt .reduce (fun x y => if ltS y x then y else x) 0x7FFFFFFF#32)

/-- LRED.IMAX (R191). -/
def execLredImax (sc : Scope) (d a : Reg) (s : State) : Host.Outcome State Fault Refusal :=
  issue (lredMeta sc d a) s (lredInt .reduce (fun x y => if ltS x y then y else x) 0x80000000#32)

/-- LRED.AND (R191). -/
def execLredAnd (sc : Scope) (d a : Reg) (s : State) : Host.Outcome State Fault Refusal :=
  issue (lredMeta sc d a) s (lredInt .reduce (fun x y => x &&& y) 0xFFFFFFFF#32)

/-- LRED.OR (R191). -/
def execLredOr (sc : Scope) (d a : Reg) (s : State) : Host.Outcome State Fault Refusal :=
  issue (lredMeta sc d a) s (lredInt .reduce (fun x y => x ||| y) 0)

/-- LRED.XOR (R191). -/
def execLredXor (sc : Scope) (d a : Reg) (s : State) : Host.Outcome State Fault Refusal :=
  issue (lredMeta sc d a) s (lredInt .reduce (fun x y => x ^^^ y) 0)

/-- LRED.FADD (R94, R95). -/
def execLredFadd (sc : Scope) (d a : Reg) (s : State) : Host.Outcome State Fault Refusal :=
  issue (lredMeta sc d a) s lredAdd

/-- LRED.FMIN (R192). -/
def execLredFmin (sc : Scope) (d a : Reg) (s : State) : Host.Outcome State Fault Refusal :=
  issue (lredMeta sc d a) s (lredMinMax .reduce false)

/-- LRED.FMAX (R192). -/
def execLredFmax (sc : Scope) (d a : Reg) (s : State) : Host.Outcome State Fault Refusal :=
  issue (lredMeta sc d a) s (lredMinMax .reduce true)

/-- LSCAN.IADD (R191). -/
def execLscanIadd (sc : Scope) (d a : Reg) (s : State) : Host.Outcome State Fault Refusal :=
  issue (lredMeta sc d a) s (lredInt .inclusive (fun x y => x + y) 0)

/-- LSCAN.IMIN (R191). -/
def execLscanImin (sc : Scope) (d a : Reg) (s : State) : Host.Outcome State Fault Refusal :=
  issue (lredMeta sc d a) s (lredInt .inclusive (fun x y => if ltS y x then y else x) 0x7FFFFFFF#32)

/-- LSCAN.IMAX (R191). -/
def execLscanImax (sc : Scope) (d a : Reg) (s : State) : Host.Outcome State Fault Refusal :=
  issue (lredMeta sc d a) s (lredInt .inclusive (fun x y => if ltS x y then y else x) 0x80000000#32)

/-- LSCAN.AND (R191). -/
def execLscanAnd (sc : Scope) (d a : Reg) (s : State) : Host.Outcome State Fault Refusal :=
  issue (lredMeta sc d a) s (lredInt .inclusive (fun x y => x &&& y) 0xFFFFFFFF#32)

/-- LSCAN.OR (R191). -/
def execLscanOr (sc : Scope) (d a : Reg) (s : State) : Host.Outcome State Fault Refusal :=
  issue (lredMeta sc d a) s (lredInt .inclusive (fun x y => x ||| y) 0)

/-- LSCAN.XOR (R191). -/
def execLscanXor (sc : Scope) (d a : Reg) (s : State) : Host.Outcome State Fault Refusal :=
  issue (lredMeta sc d a) s (lredInt .inclusive (fun x y => x ^^^ y) 0)

/-- LSCAN.FADD (R94, R95). -/
def execLscanFadd (sc : Scope) (d a : Reg) (s : State) : Host.Outcome State Fault Refusal :=
  issue (lredMeta sc d a) s (lscanAdd .inclusive)

/-- LSCAN.FMIN (R192). -/
def execLscanFmin (sc : Scope) (d a : Reg) (s : State) : Host.Outcome State Fault Refusal :=
  issue (lredMeta sc d a) s (lredMinMax .inclusive false)

/-- LSCAN.FMAX (R192). -/
def execLscanFmax (sc : Scope) (d a : Reg) (s : State) : Host.Outcome State Fault Refusal :=
  issue (lredMeta sc d a) s (lredMinMax .inclusive true)

/-- LSCAN.IADD.EXCL (R191). -/
def execLscanExclIadd (sc : Scope) (d a : Reg) (s : State) : Host.Outcome State Fault Refusal :=
  issue (lredMeta sc d a) s (lredInt .exclusive (fun x y => x + y) 0)

/-- LSCAN.IMIN.EXCL (R191). -/
def execLscanExclImin (sc : Scope) (d a : Reg) (s : State) : Host.Outcome State Fault Refusal :=
  issue (lredMeta sc d a) s (lredInt .exclusive (fun x y => if ltS y x then y else x) 0x7FFFFFFF#32)

/-- LSCAN.IMAX.EXCL (R191). -/
def execLscanExclImax (sc : Scope) (d a : Reg) (s : State) : Host.Outcome State Fault Refusal :=
  issue (lredMeta sc d a) s (lredInt .exclusive (fun x y => if ltS x y then y else x) 0x80000000#32)

/-- LSCAN.AND.EXCL (R191). -/
def execLscanExclAnd (sc : Scope) (d a : Reg) (s : State) : Host.Outcome State Fault Refusal :=
  issue (lredMeta sc d a) s (lredInt .exclusive (fun x y => x &&& y) 0xFFFFFFFF#32)

/-- LSCAN.OR.EXCL (R191). -/
def execLscanExclOr (sc : Scope) (d a : Reg) (s : State) : Host.Outcome State Fault Refusal :=
  issue (lredMeta sc d a) s (lredInt .exclusive (fun x y => x ||| y) 0)

/-- LSCAN.XOR.EXCL (R191). -/
def execLscanExclXor (sc : Scope) (d a : Reg) (s : State) : Host.Outcome State Fault Refusal :=
  issue (lredMeta sc d a) s (lredInt .exclusive (fun x y => x ^^^ y) 0)

/-- LSCAN.FADD.EXCL (R94, R95). -/
def execLscanExclFadd (sc : Scope) (d a : Reg) (s : State) : Host.Outcome State Fault Refusal :=
  issue (lredMeta sc d a) s (lscanAdd .exclusive)

/-- LSCAN.FMIN.EXCL (R192). -/
def execLscanExclFmin (sc : Scope) (d a : Reg) (s : State) : Host.Outcome State Fault Refusal :=
  issue (lredMeta sc d a) s (lredMinMax .exclusive false)

/-- LSCAN.FMAX.EXCL (R192). -/
def execLscanExclFmax (sc : Scope) (d a : Reg) (s : State) : Host.Outcome State Fault Refusal :=
  issue (lredMeta sc d a) s (lredMinMax .exclusive true)

/-! ## XCHG and XCHGK (R193, R194) -/

/-- The fields of the descriptor (R193). -/
def xchgMask (y : Word) : Nat := (y.extractLsb' 20 9).toNat
def xchgCount (y : Word) : Nat := (y.extractLsb' 8 5).toNat
def xchgPartner (y : Word) : Nat := (y.extractLsb' 0 4).toNat

/-- A descriptor that traps with ILLEGAL_OPERAND at decode, for a first register d and a span size (R193). -/
def xchgBad (k : Bool) (size d : Nat) (y : Word) : Bool :=
  decide (y &&& 0xE00FE0F0#32 ≠ 0) || decide (xchgCount y = 0) || decide (16 < xchgCount y) ||
  (if k then decide (size ≤ xchgMask y) else decide (xchgMask y ≠ 0)) || decide (127 < d + xchgCount y - 1) ||
  (k && (decide (d < 48) || decide (63 < d + xchgCount y - 1)))

/-- The size of the span at a scope for the issuing warp. -/
def State.issuerSpan (s : State) (sc : Scope) : Nat :=
  if sc = .set then 32 * (s.issuer.map s.setsOf).getD 0 else 32

/-- What XCHG and XCHGK name: the descriptor is read at decode. -/
def xchgMeta (s : State) (k : Bool) (sc : Scope) (d : Reg) (b : Opb) : Meta :=
  let y := s.issuerS b.bits
  { cls := .exchange, scope := sc, d := d.toNat, nd := max 1 (xchgCount y), readD := true, opb := some b, xreg := true, xpred := true,
    reach := fun _ j _ => j.contrib j.w,
    bad := (match b with
      | .s _ => false
      | _ => true) || xchgBad k (s.issuerSpan sc) (d.toNat + s.issuerXreg 0) y }

/-- The block at a gang rank of a launch (R198): rank is BLOCKID. -/
def State.gangBlock (s : State) (launch rank : Nat) : Option Block := s.blocks.find? fun b => b.launch == launch && b.bid == rank

/-- The warps of the partner side: the same WARPID, or the same SETID, in the partner's block, those with a lane left. -/
def State.partnerSide (s : State) (j : Job) (rank : Nat) : List Warp :=
  match s.gangBlock j.launch.uid rank with
  | none => []
  | some b => (s.blockWarps b.uid).filter fun x =>
      if j.scope = .set then s.setIdOf x == s.setIdOf j.w else x.wid == j.w.wid

/-- What a member of a waiting side offers. -/
def Job.offer (j : Job) (k : Bool) (y : Word) (w : Warp) : XchgOffer :=
  { keyed := k, setWide := decide (j.scope = .set), desc := y, reg := j.d, live := j.contrib w, start := j.start, next := j.next }

/-- XCHG_PARTNER at issue, or a wait with the offers of every member in place (R194). At SET scope the descriptor is the issuing member's, whatever
the others hold (DESIGN CHOICE, log 132). -/
def xchg (k : Bool) (b : Opb) (s : State) (j : Job) : Eff :=
  let y := j.w.sreg b.num
  let rank := xchgPartner y
  if !j.launch.gang || rank == j.block.bid || decide (j.launch.griddim.toNat ≤ rank) || (s.partnerSide j rank).isEmpty then
    .trap (Trap.plain 56)
  else
    let s := j.members.foldl (fun s w => s.modWarp w.uid fun x => { x with xchg := some (j.offer k y w) }) s
    .block s .xchg

/-- XCHG (R193, R194). -/
def execXchg (sc : Scope) (d : Reg) (b : Opb) (s : State) : Host.Outcome State Fault Refusal :=
  issue (xchgMeta s false sc d b) s (xchg false b)

/-- XCHGK (R193, R194). -/
def execXchgk (sc : Scope) (d : Reg) (b : Opb) (s : State) : Host.Outcome State Fault Refusal :=
  issue (xchgMeta s true sc d b) s (xchg true b)

end Sys2Proof.Machine
end

