-- ==== Sys2Proof/Machine/Multicast.lean ====
section
/-! DEFINITION. LDMC (R139) and its sessions at the home slices (R406 to R409). -/

namespace Sys2Proof.Machine

open Sys2Proof

/-! ## The descriptor (R139) -/

def mcMembers (y : Word) : BitVec 16 := y.extractLsb' 16 16
def mcAlloc (y : Word) : Nat := (y.extractLsb' 13 3).toNat
def mcLen (y : Word) : Nat := (y.extractLsb' 0 13).toNat

/-- The issuing core's rank and its gang's size; outside a gang launch it is rank 0 of 1 (R139). -/
def Job.rank (j : Job) : Nat := if j.launch.gang then j.block.bid else 0
def Job.gangSize (j : Job) : Nat := if j.launch.gang then j.launch.griddim.toNat else 1

/-- The checks before the source's pages, in their order (R139). -/
def Job.mcTrap (j : Job) (y : Word) (src : Dword) (off : Nat) : Option Trap :=
  let n := mcLen y
  if n = 0 ∨ 4096 < n ∨ ((mcMembers y).toNat / 2 ^ j.gangSize ≠ 0) ∨ !(mcMembers y).getLsbD j.rank then some (Trap.plain 1)
  else if src.toNat % 64 ≠ 0 then some (Trap.at 23 src 0)
  else if off % 64 ≠ 0 then some (Trap.at 23 (BitVec.ofNat 64 off) 0)
  else if j.launch.scratchSize (mcAlloc y) < off + 64 * n then some (Trap.at 24 (BitVec.ofNat 64 off) 0)
  else none

/-- The unit k of a source with its place, from the pages that were checked. -/
def mcBeat (src : Dword) (k : Nat) (p : Place) : Access :=
  { lane := 0, key := p.key, home := p.home, isLocal := p.isLocal, nt := p.nt, va := src + BitVec.ofNat 64 (64 * k) }

/-- The requests of an LDMC: one to each home slice that holds lines of its range (R406). -/
def Job.mcReqs (j : Job) (id : Nat) (y : Word) (src : Dword) (off : Nat) (ps : List (Nat × Place)) : List McReq :=
  let slices := dedupNat (ps.map fun x => x.2.slice)
  slices.zipIdx.map fun sl =>
    let mine := ps.filter fun x => x.2.slice == sl.1
    let scope := if mine.any fun x => x.2.home != j.w.field then 2 else 1
    { id := id + 1 + sl.2, op := id, warp := j.w.uid, core := j.w.core, block := j.block.uid, launch := j.launch.uid,
      field := j.w.field, ctx := j.ctx.ctxid, slice := sl.1, rank := j.rank, members := mcMembers y, len := mcLen y, src := src,
      alloc := mcAlloc y, offset := off, seq := j.w.seq, deps := j.w.released scope, scope := scope,
      mergeable := mine.any fun x => keyTarget x.2.key == 0, state := .sent,
      beats := mine.map fun x => (x.1, mcBeat src x.1 x.2), lines := [], bad := [] }

/-- What LDMC names. -/
def ldmcMeta (sc : Scope) (a : Reg) : Meta :=
  { cls := .engine, scope := sc, xreg := true, xpred := true, noPartial := true, bad := a.getLsbD 0 }

/-- LDMC (R139): its deliveries count as one operation of the loads class, which is over with the last of them (DEDUCED, log 127). -/
def execLdmc (sc : Scope) (d a c : Reg) (s : State) : Host.Outcome State Fault Refusal :=
  issue (ldmcMeta sc a) s fun s j =>
    let y := j.w.sreg c.toNat
    let src := j.w.sreg64 a.toNat
    let off := (j.w.sreg d.toNat).toNat
    match j.mcTrap y src off with
    | some t => .trap t
    | none =>
      if classFull j.w.loads then .stall s
      else
        (firstFail (List.range (mcLen y)) fun k => s.checkLane j.ctx .load 64 (src + BitVec.ofNat 64 (64 * k)) 0).eff fun ps =>
          let id := s.nextUid
          let rs := j.mcReqs id y src off ps
          let op : LoadOp := { LoadOp.taken id with kind := .delivery, done := false }
          let s := { s with nextUid := id + 1 + rs.length, mcReqs := s.mcReqs ++ rs }
          .next (s.put j fun w => w.addLoad op)

/-! ## Sessions (R407, R408) -/

def State.mcReq? (s : State) (id : Nat) : Option McReq := s.mcReqs.find? fun r => r.id == id
def State.mcSession? (s : State) (id : Nat) : Option McSession := s.mcSessions.find? fun r => r.id == id

def State.modReq (s : State) (id : Nat) (g : McReq → McReq) : State :=
  { s with mcReqs := mapWhere (fun r => r.id == id) g s.mcReqs }
def State.modSession (s : State) (id : Nat) (g : McSession → McSession) : State :=
  { s with mcSessions := mapWhere (fun r => r.id == id) g s.mcSessions }

/-- A session of the table has a request's key (R406). -/
def McSession.fits (m : McSession) (r : McReq) : Bool :=
  !m.freed && m.slice == r.slice && m.field == r.field && m.ctx == r.ctx && m.src == r.src && m.len == r.len && m.members == r.members

/-- The bit of a rank. -/
def rankBit (k : Nat) : BitVec 16 := (1#16) <<< k

/-- A request may leave its core: what its LDMC waits for concerns the whole source (R406, R238). -/
def State.mcMayLeave (s : State) (r : McReq) : Bool :=
  (r.deps.all fun d => s.performed d.1 d.2) &&
  match s.warp? r.warp with
  | none => true
  | some w =>
    let lines := (s.mcReqs.filter fun x => x.op == r.op).flatMap fun x => x.beats.map fun b => lineOf b.2.key
    (w.sq.all fun e => decide (r.seq ≤ e.seq) || !(e.lines.any lines.contains)) &&
    (s.flights.all fun f => !(f.warp == w.uid && decide (f.seq < r.seq) && !f.applied && lines.contains f.line)) &&
    (w.loads.all fun op => op.done || decide (r.seq ≤ op.seq) || !op.kind.writes ||
      !(op.accs.any fun a => (a.lines op.size).any lines.contains))

/-- The bytes of a line at the home, as a reply reads them: shadows are rounded (R96, R408). -/
def State.readLine (s : State) (f : Nat) (a : Access) : State × List Byte :=
  let base := lineOf a.key * 128
  let keys := (List.range 128).map (base + ·)
  let s := s.roundShadows keys
  (s, keys.map fun k => s.homeByte f a.isLocal k)

/-- A line is never merged: it is directly addressed vault storage or host memory (R406). -/
def Access.lone (a : Access) : Bool := keyTarget a.key != 0

/-- The line of a beat as the reply that serves it has read it, and whether it was uncorrectable or poisoned then; it is read now if this is its
first beat (R408). -/
def State.mcLine (s : State) (r : McReq) (a : Access) : State × List Byte × Bool :=
  let line := lineOf a.key
  let own : State × List Byte × Bool :=
    match r.lines.find? fun (x : Nat × List Byte) => x.1 == line with
    | some x => (s, x.2, r.bad.contains line)
    | none =>
      let g := s.readLine r.field a
      let bad := (s.lineFault [line]).isSome
      (g.1.modReq r.id fun x => { x with lines := (line, g.2) :: x.lines, bad := if bad then line :: x.bad else x.bad }, g.2, bad)
  match r.state with
  | .joined id =>
    if a.lone then own
    else
      match s.mcSession? id with
      | none => own
      | some m =>
        match m.lines.find? fun (x : Nat × List Byte) => x.1 == line with
        | some x => (s, x.2, m.bad.contains line)
        | none =>
          let g := s.readLine r.field a
          let bad := (s.lineFault [line]).isSome
          (g.1.modSession id fun m => { m with lines := (line, g.2) :: m.lines, bad := if bad then line :: m.bad else m.bad }, g.2, bad)
  | _ => own

/-- The reply of a session leaves: its first beat's line is read (R408). -/
def State.mcSend (s : State) (m : McSession) : State :=
  let s := s.modSession m.id fun x => { x with sent := true }
  match s.mcReqs.findSome? fun r =>
    if r.state = McState.joined m.id then (r.beats.find? fun b => !b.2.lone).map fun b => (r, b.2) else none with
  | none => s
  | some x => (s.mcLine x.1 x.2).1

/-- Sessions out of the table whose replies have served their last member are gone. -/
def State.mcSweep (s : State) : State :=
  { s with mcSessions := s.mcSessions.filter fun m => !m.freed || s.mcReqs.any fun r => r.state == McState.joined m.id }

/-- A session is freed; its reply goes on to the members it has yet to serve (R407, R408). -/
def State.mcFree (s : State) (m : McSession) : State := (s.modSession m.id fun x => { x with freed := true }).mcSweep

/-- Open a session for a request that matches none, or serve it by unicast when it may not be merged or the table is full of
sessions that still gather (R406, R407). -/
def State.mcOpen (s : State) (r : McReq) : State :=
  let mine := s.mcSessions.filter fun m => m.slice == r.slice && !m.freed
  let full := decide (16 ≤ mine.length)
  if !r.mergeable || (full && !mine.any fun m => m.sent) then s.modReq r.id fun x => { x with state := .unicast }
  else
    let s := match if full then mine.find? fun m => m.sent else none with
      | some m => s.mcFree m
      | none => s
    let id := s.nextUid
    let m : McSession :=
      { id := id, slice := r.slice, field := r.field, ctx := r.ctx, src := r.src, len := r.len, members := r.members, sent := false,
        recorded := rankBit r.rank, served := 0, lines := [], bad := [], freed := false }
    let s := { s with nextUid := id + 1, mcSessions := s.mcSessions ++ [m] }
    let s := s.modReq r.id fun x => { x with state := .joined id }
    if m.recorded = m.members then s.mcSend m else s

/-- A request reaches its slice (R407). -/
def State.mcArrive (s : State) (r : McReq) : State :=
  match if r.mergeable then s.mcSessions.find? fun m => m.fits r else none with
  | none => s.mcOpen r
  | some m =>
    if m.recorded.getLsbD r.rank then
      if m.sent then (s.mcFree m).mcOpen r else s.modReq r.id fun x => { x with state := .unicast }
    else
      let s := s.modSession m.id fun x => { x with recorded := x.recorded ||| rankBit r.rank }
      if m.sent then s.modReq r.id fun x => { x with state := .late m.id }
      else
        let s := s.modReq r.id fun x => { x with state := .joined m.id }
        if m.recorded ||| rankBit r.rank = m.members then s.mcSend m else s

/-- The session in which a request is recorded. -/
def McReq.session (r : McReq) : Option Nat :=
  match r.state with
  | .joined id => some id
  | .late id => some id
  | _ => none

/-- A request has had every beat: its member counts as served in its session, and a session that has served every masked member is freed
(R407); with the last request of the LDMC its operation leaves the loads class. -/
def State.mcServed (s : State) (r : McReq) : State :=
  let s := { s with mcReqs := s.mcReqs.filter fun x => x.id != r.id }
  let s := match r.session.bind s.mcSession? with
    | none => s
    | some m =>
      let served := m.served ||| rankBit r.rank
      let s := s.modSession m.id fun x => { x with served := served }
      if served = m.members then s.mcFree m else s.mcSweep
  if s.mcReqs.any fun x => x.op == r.op then s else s.finishLoad r.warp r.op

/-- A beat of a request may be served: its reply has left. -/
def State.mcServing (s : State) (r : McReq) (a : Access) : Bool :=
  match r.state with
  | .sent => false
  | .joined id => a.lone || (s.mcSession? id).any fun m => m.sent
  | _ => true

/-- The cause of a poisoned reply (R408). -/
def McReq.poisoned (r : McReq) (w : Warp) (a : Access) : AsyncCause :=
  let ord := ((w.loads.find? fun o => o.id == r.op).map fun o => o.ord).getD 0
  { op := r.op, ord := ord, code := 31, faddr := a.va, lane := 0, kind := .load, seq := r.seq, firstReg := 999, nreg := 0,
    lanes := 0, zero := [], gmode := false, kept := false, wins := [], accs := [], buf := none }

/-- A beat of a reply is applied to its member's allocation (R135, R408). -/
def State.mcDeliver (s : State) (r : McReq) (k : Nat) (a : Access) : State :=
  let g := s.mcLine r a
  let s := g.1
  let bytes := (g.2.1.drop (a.key % 128)).take 64
  let s := match s.launch? r.launch with
    | none => s
    | some l => s.modBlock r.block fun b => b.scratchWrite l r.alloc (r.offset + 64 * k) bytes
  let s := match g.2.2, s.warp? r.warp with
    | true, some w => if w.asyncs.any fun c => c.op == r.op then s else s.addAsync r.warp (r.poisoned w a)
    | _, _ => s
  let s := (s.modReq r.id fun x => { x with beats := x.beats.filter fun b => b.1 != k }).noteDone r.warp
  match s.mcReq? r.id with
  | some x => if x.beats.isEmpty then s.mcServed x else s
  | none => s

end Sys2Proof.Machine
end

