-- ==== Sys2Proof/Machine/EvCore.lean ====
section
/-! DEFINITION. The events of a core: merges, rendezvous and waits that end (R160, R166 to R171, R195), GROW requests (R175 to
R178), handler entry (R204), loads, drains and bank writes (R103, R135, R218), and pairs of XCHG (R194). An event that is not
enabled changes nothing. -/

namespace Sys2Proof.Machine

open Sys2Proof

/-! ## Merging (R166) -/

/-- SPLIT_MERGE. -/
def execSplitMerge (w i j : Nat) (s : State) : Host.Outcome State Fault Refusal :=
  match s.warp? w with
  | none => .next s
  | some x => .next (if x.due.isNone && x.mergeable i j then s.modWarp w fun y => y.merge i j else s)

/-! ## Rendezvous (R167 to R171, R195) -/

/-- The one split of a warp that has arrived: its only one, and it waits (R167). -/
def Warp.arrived (w : Warp) : Option Split :=
  if w.gathered then
    match w.split? w.onlySlot with
    | some x => if x.waiting then some x else none
    | none => none
  else none

/-- Release a split that waits. -/
def Split.release (sc : Scope) (x : Split) : Split := { x with waiting := false, want := none, released := some sc }

/-- The members' splits are released and the object is RELEASED with every member's part to come. -/
def State.release (s : State) (w : Warp) (sc : Scope) : State :=
  match sc with
  | .lane => s
  | .warp => s.modWarp w.uid fun y => (y.mapSplits (Split.release .warp)).setRv .released
  | _ =>
    let us := (s.members w sc).map (·.uid)
    let go : Warp → Warp := fun y => y.mapSplits (Split.release sc)
    let s : State := { s with warps := mapWhere (fun y => us.contains y.uid) go s.warps }
    s.modRv w sc fun _ => { state := .released, todo := us, memo := none }

/-- Every counted member of a warp's group has arrived at its program counter, at a group of its scope (R169). -/
def State.allArrived (s : State) (w : Warp) (pc : Dword) (sc : Scope) : Bool :=
  (s.members w sc).all fun y => y.mode == .normal && match y.arrived with
    | some x => x.pc == pc && x.want.any fun (z : Scope × Dword) => z.1 == sc
    | none => false

/-- The scope at which a warp waits, if its rendezvous can release now. -/
def State.canRelease (s : State) (w : Warp) : Option Scope :=
  match w.arrived with
  | none => none
  | some x =>
    match x.want with
    | none => none
    | some (sc, _) =>
      if gathers sc then (if s.allArrived w x.pc sc then some sc else none) else some sc

/-- The scope as CAUSE bits [7:6] hold it. -/
def scopeCode (sc : Scope) : Nat :=
  match sc with
  | .lane => 0
  | .warp => 1
  | .set => 2
  | .block => 3

/-- Report DIVERGED_RENDEZVOUS for a waiting split of a warp (R168). -/
def State.diverge (s : State) (u slot : Nat) (x : Split) : State :=
  match x.want with
  | none => s
  | some (sc, next) =>
    s.report { u := u, slot := slot, fpc := x.pc, next := next, trap := Trap.at 8 0 (scopeCode sc), member := none,
               once := false, diverged := true, lost := none }

/-- The slot whose split holds the lowest lane of all slot-holding splits. -/
def Warp.lowestSlot (w : Warp) : Nat :=
  (sortBy (fun i => ((w.split? i).map fun x => lowLane x.mask).getD 32) w.heldSlots).headD 0

/-- Every slot-holding split of a warp waits, and not all at one program counter (R168). -/
def Warp.diverged (w : Warp) : Bool :=
  let xs := w.heldSlots.filterMap w.split?
  (xs.all fun x => x.waiting) && decide (1 < (xs.map (·.pc)).eraseDups.length)

/-- Every warp of a block waits at a rendezvous and none of them can release (R170). -/
def State.blockStuck (s : State) (b : Nat) : Bool :=
  let ws := s.blockWarps b
  !ws.isEmpty && ws.all fun w => w.mode == .normal && w.arrived.isSome && (s.canRelease w).isNone

/-- The warps of a stuck block that wait at a SET- or BLOCK-scope group. -/
def State.stuckWarps (s : State) (b : Nat) : List (Warp × Split) :=
  (s.blockWarps b).filterMap fun w => w.arrived.bind fun x =>
    if x.want.any fun (z : Scope × Dword) => gathers z.1 then some (w, x) else none

/-- Each of a stuck block's waiting warps faults, once all of them are quiet (R170). -/
def State.divergeBlock (s : State) (b : Nat) : State :=
  let ws := s.stuckWarps b
  let s := ws.foldl (fun s (x : Warp × Split) => s.quiesce x.1.uid) s
  if ws.all fun (x : Warp × Split) => s.quiet x.1.uid then
    ws.foldl (fun s (x : Warp × Split) => s.diverge x.1.uid x.1.onlySlot x.2) s
  else s

/-- RENDEZVOUS_RELEASE. -/
def execRendezvousRelease (w : Nat) (s : State) : Host.Outcome State Fault Refusal :=
  match s.warp? w with
  | none => .next s
  | some x =>
    if !(x.mode == .normal || x.mode == .handler) || x.growReq.isSome || x.due.isSome then .next s
    else
      match s.canRelease x with
      | some sc => .next (s.release x sc)
      | none =>
        if x.diverged then
          match x.split? x.lowestSlot with
          | some y => .next (s.diverge w x.lowestSlot y)
          | none => .next s
        else if s.blockStuck x.block then .next (s.divergeBlock x.block)
        else .next s

/-! ## Waits that end (R160) -/

/-- A counter that a WCWAIT waits for, or a cause or error that ends its wait (R146, R210). -/
def State.windowReady (s : State) (w : Warp) (slot : Nat) (dst : Bool) (v : Word) : Bool :=
  (w.asyncs.any fun a => a.kind == .store && !dst && a.wins.contains slot) ||
  match (s.ctxOf w).bind fun c => c.win? slot with
  | none => true
  | some x => x.blind dst || (x.counter dst).2 || decide (v.toNat ≤ (x.counter dst).1.toNat)

/-- What a blocked split waits for has come. The waits of GROW, XCHG, PHQ and RSMPL end in events of their own. -/
def State.waitOver (s : State) (w : Warp) (c : WaitCond) : Bool :=
  let buf : Nat → (Cbuf → Bool) → Bool := fun k f => ((s.block? w.block).bind fun b => b.cbufs[k]?).any f
  match c with
  | .classes ld st cp tl =>
    w.waitOver ld st cp tl ||
      w.asyncs.any (waitDep (BitVec.ofNat 6 ld) (BitVec.ofNat 6 st) (BitVec.ofNat 6 cp) (BitVec.ofNat 6 tl) w)
  | .filled k => buf k (fun x => decide (0 < x.filled)) || w.asyncs.any fun a => a.kind == .copy && a.buf == some k
  | .free k => buf k fun x => decide (0 < x.free)
  | .window slot dst v => s.windowReady w slot dst v
  | .order ws => ws.all fun (x : Nat × Word) => s.orderWord x.1 == x.2
  | .rays m => !w.raysRun m
  | .join => ((s.block? w.block).map fun b => b.children == 0).getD true
  | _ => false

/-- WAIT_END: the blocked group issues again; a JOIN that waited in place acquires at DEVICE scope (R310). -/
def execWaitEnd (w slot : Nat) (s : State) : Host.Outcome State Fault Refusal :=
  match s.warp? w with
  | none => .next s
  | some x =>
    match (x.split? slot).bind (·.blocked) with
    | none => .next s
    | some c =>
      if !s.waitOver x c then .next s
      else
        let s := if c = .join then s.acquire x.core 2 else s
        .next (s.modWarp w fun y => y.modSplit slot fun z => { z with blocked := none })

/-! ## GROW (R175 to R178) -/

/-- The pending requests of a core, in the order of R176: the dispatch order of the launch, then BLOCKID, then WARPID. -/
def State.growOrder (s : State) (core : Nat) : List Warp :=
  let first : Nat → Nat := fun l => ((s.launch? l).map (·.dispatched)).getD 0
  let key : Warp → Nat := fun w => match s.block? w.block with
    | some b => (first b.launch * 2 ^ 32 + b.bid) * 32 + w.wid
    | none => 0
  sortBy key ((s.coreWarps core).filter fun w => w.growReq.isSome)

/-- End a warp's request: with its new allocation where it is granted; the predicate receives g and the group completes. -/
def State.endGrow (s : State) (w : Warp) (g : Bool) : State :=
  let slot := (List.range 4).find? fun i => match (w.split? i).bind (·.blocked) with
    | some (.grow _ _ _ _) => true
    | _ => false
  match slot, w.growReq with
  | some i, some n =>
    match (w.split? i).bind (·.blocked) with
    | some (.grow p live sc next) =>
      let s := s.modWarp w.uid fun y =>
        let y := if g then y.setAlloc n else y
        { y.setPred live p (if g then 0xFFFFFFFF#32 else 0) with growReq := none }
      s.finishAt w i sc next
    | _ => s
  | _, _ => s

/-- The lowest request of a core, where the free registers cover its increase. -/
def State.grantable (s : State) (core : Nat) : Option Warp :=
  match s.growOrder core with
  | [] => none
  | w :: _ => if (w.growReq.getD 0) - w.alloc ≤ s.freeRegs core then some w else none

/-- GROW_GRANT. -/
def execGrowGrant (core : Nat) (s : State) : Host.Outcome State Fault Refusal :=
  match s.grantable core with
  | some w => .next (s.endGrow w true)
  | none => .next s

/-- A warp waits at a rendezvous whose missing members are all among some warps (R177). A member that is released, and
waits for its turn behind a pending one, is at no rendezvous any more, and does not count (DEDUCED, log 130). -/
def State.stuckOn (s : State) (us : List Nat) (w : Warp) : Bool :=
  match w.arrived with
  | none => false
  | some x =>
    match x.want with
    | none => false
    | some (sc, _) =>
      let missing := (s.members w sc).filter fun y => match y.arrived with
        | some z => !(z.pc == x.pc && z.want.any fun (q : Scope × Dword) => q.1 == sc)
        | none => true
      !missing.isEmpty && missing.all fun y => us.contains y.uid

/-- The warps of a core that are blocked in GROW, after some rounds (R177). -/
def State.growBlocked (s : State) (core : Nat) : Nat → List Nat
  | 0 => (s.growOrder core).map (·.uid)
  | n + 1 =>
    let us := s.growBlocked core n
    addNats us (((s.coreWarps core).filter (s.stuckOn us)).map (·.uid))

/-- GROW_FAIL. -/
def execGrowFail (core : Nat) (s : State) : Host.Outcome State Fault Refusal :=
  let ws := (s.coreWarps core).filter fun w => w.mode != .dormant
  let us := s.growBlocked core 64
  if (s.grantable core).isSome || !(ws.all fun w => us.contains w.uid) then .next s
  else
    match (s.growOrder core).getLast? with
    | some w => .next (s.endGrow w false)
    | none => .next s

/-! ## Handler entry (R204) -/

/-- HANDLER_ENTRY: the cause that is due, if it is the one named, is delivered once the warp is quiet (R204, log 31). A cause of a
group whose warp is quiet at once is delivered in the group's own step, and a step (R213) at its warp's next turn. -/
def execHandlerEntry (w code lane : Nat) (faddr : Dword) (s : State) : Host.Outcome State Fault Refusal :=
  match s.warp? w with
  | none => .next s
  | some x =>
    match x.due with
    | none => .next s
    | some r =>
      if r.trap.code = code ∧ r.trap.lane = lane ∧ r.trap.faddr = faddr ∧ s.mayRun x then .next (s.report r) else .next s

/-! ## Loads, drains and bank writes -/

/-- LOAD_COMPLETE: the k-th operation of the loads class completes, if it is the warp's first load that has not, and else takes its bytes at
their homes now (R103, R220, R226). -/
def execLoadComplete (w k : Nat) (s : State) : Host.Outcome State Fault Refusal :=
  match s.warp? w with
  | none => .next s
  | some x =>
    match x.loads[k]? with
    | none => .next s
    | some op =>
      if !op.pendingMem then .next s
      else if (x.loads.take k).any LoadOp.pendingMem then .next (s.fetchEarly x op)
      else .next ((s.completeLoad x op).getD s)

/-- STORE_DRAIN (R218). -/
def execStoreDrain (w : Nat) (s : State) : Host.Outcome State Fault Refusal := .next ((s.drainOne w).getD s).settleGone

/-- BANK_WRITE_APPLY: one queued write of a block's scratchpad (R135). -/
def execBankWriteApply (block k : Nat) (s : State) : Host.Outcome State Fault Refusal :=
  match (s.block? block).bind fun b => b.bankq[k]? with
  | none => .next s
  | some q =>
    let put : Block → Block := fun b => { b.bankApply q with bankq := b.bankq.eraseIdx k }
    let s := s.modBlock block put
    let more := (s.block? block).any fun b => b.bankq.any fun x => x.op == q.op
    .next (if more then s else s.finishLoad q.warp q.op)

/-! ## XCHG and XCHGK (R194) -/

/-- The lowest member of the side a waiting warp belongs to: the warp that issued (R196). -/
def State.xchgIssuer (s : State) (w : Warp) : Option (Warp × XchgOffer) :=
  match w.xchg with
  | none => none
  | some o =>
    let side := s.members w (if o.setWide then .set else .warp)
    side.head?.bind fun x => x.xchg.map fun p => (x, p)

/-- The scope of an offer. -/
def XchgOffer.scope (o : XchgOffer) : Scope := if o.setWide then .set else .warp

/-- The members of the side of a warp. -/
def State.xchgSide (s : State) (w : Warp) (o : XchgOffer) : List Warp := s.members w o.scope

/-- The offers of a side are gone. -/
def State.clearOffers (s : State) (ws : List Warp) : State :=
  ws.foldl (fun s w => s.modWarp w.uid fun x =>
    { x.mapSplits (fun y => if y.blocked = some .xchg then { y with blocked := none } else y) with xchg := none }) s

/-- XCHG_PARTNER in the issuing warp of a side. -/
def State.xchgTrap (s : State) (x : Warp × XchgOffer) : State :=
  let s := s.clearOffers (s.xchgSide x.1 x.2)
  s.report { u := x.1.uid, slot := x.1.onlySlot, fpc := x.2.start, next := x.2.next, trap := Trap.plain 56,
             member := some x.2.scope, once := true, diverged := false, lost := none }

/-- The index of a lane in the span of its side (R187). -/
def State.xchgRank (s : State) (w : Warp) (o : XchgOffer) : Nat := if o.setWide then w.wid % (max 1 (s.setsOf w)) else 0

/-- A register of a side's span: its value in a lane, if that lane contributes. -/
def State.xchgValue (s : State) (side : List Warp) (r index : Nat) : Option Word :=
  (side.find? fun w => w.xchg.any fun o => s.xchgRank w o == index / 32).bind fun w =>
    w.xchg.bind fun o => if o.live.getLsbD (index % 32) then some (laneOf (w.row r) (index % 32)) else none

/-- One member takes its partner side's values. -/
def State.xchgTake (s : State) (mask count reg : Nat) (other : List Warp) (w : Warp) (o : XchgOffer) : Warp :=
  (List.range count).foldl (fun (x : Warp) k =>
    let got : Nat → Option Word := fun i => s.xchgValue other (reg + k) ((32 * s.xchgRank w o + i) ^^^ mask)
    let take := maskOf fun i => o.live.getLsbD i && (got i).isSome
    x.setRow take (reg + k) (rowOf fun i => (got i).getD 0)) w

/-- Both sides swap and go on. -/
def State.xchgSwap (s : State) (a b : Warp × XchgOffer) : State :=
  let sa := s.xchgSide a.1 a.2
  let sb := s.xchgSide b.1 b.2
  let put : List Warp → State → Warp → State := fun other t w => match w.xchg with
    | some o => t.modWarp w.uid fun x => s.xchgTake (xchgMask a.2.desc) (xchgCount a.2.desc) a.2.reg other x o
    | none => t
  let t := sb.foldl (put sa) (sa.foldl (put sb) s)
  let t := t.clearOffers (sa ++ sb)
  let fin : XchgOffer → State → Warp → State := fun o t w => t.finishAt w w.onlySlot o.scope o.next
  sb.foldl (fin b.2) (sa.foldl (fin a.2) t)

/-- The warps of the partner side of an offer, with a lane left. -/
def State.xchgPartners (s : State) (w : Warp) (o : XchgOffer) (b : Block) : List Warp :=
  match s.gangBlock b.launch (xchgPartner o.desc) with
  | none => []
  | some p => (s.blockWarps p.uid).filter fun x => if o.setWide then s.setIdOf x == s.setIdOf w else x.wid == w.wid

/-- Whether two offers agree, and each names the other's rank. -/
def XchgOffer.agrees (x y : XchgOffer) : Bool :=
  x.keyed == y.keyed && x.setWide == y.setWide && x.reg == y.reg && xchgCount x.desc == xchgCount y.desc &&
  xchgMask x.desc == xchgMask y.desc

/-- XCHG_PAIR: a waiting side finds its partner waiting, or ended. -/
def execXchgPair (w : Nat) (s : State) : Host.Outcome State Fault Refusal :=
  match (s.warp? w).bind s.xchgIssuer with
  | none => .next s
  | some a =>
    match s.block? a.1.block with
    | none => .next s
    | some ba =>
      let ps := s.xchgPartners a.1 a.2 ba
      match ps with
      | [] => .next ((s.quiesce a.1.uid).xchgTrap a)
      | p :: _ =>
        match s.xchgIssuer p with
        | none => .next s
        | some b =>
          if xchgPartner b.2.desc = ba.bid ∧ a.2.agrees b.2 then .next (s.xchgSwap a b)
          else
            let s := (s.quiesce a.1.uid).quiesce b.1.uid
            if s.quiet a.1.uid && s.quiet b.1.uid then .next ((s.xchgTrap a).xchgTrap b) else .next s

end Sys2Proof.Machine
end

