-- ==== Sys2Proof/Machine/EvEngine.lean ====
section
/-! DEFINITION. The events of the units beside a core: the matrix engine (R260, R264), multicast (R406 to R409), the traversal units
(R359), and PASSIVE nodes (R201, R202). An event that is not enabled changes nothing. -/

namespace Sys2Proof.Machine

open Sys2Proof

/-- KSTEP_APPLY (R260, R261). -/
def execKstepApply (core : Nat) (s : State) : Host.Outcome State Fault Refusal := .next (s.kstep core)

/-- DRAIN_COMPLETE (R264). -/
def execDrainComplete (core : Nat) (s : State) : Host.Outcome State Fault Refusal := .next (s.drainDone core).settleGone

/-- RAY_COMPLETE (R359, R360). -/
def execRayComplete (w lane : Nat) (s : State) : Host.Outcome State Fault Refusal := .next (s.rayDone w lane)

/-- MULTICAST_REQUEST: a request leaves its core and reaches its slice (R406, R407). -/
def execMulticastRequest (id : Nat) (s : State) : Host.Outcome State Fault Refusal :=
  match s.mcReq? id with
  | none => .next s
  | some r => .next (if r.state == .sent && s.mcMayLeave r then s.mcArrive r else s)

/-- MULTICAST_TIMEOUT: session k is sent, if it gathers (R407). -/
def execMulticastTimeout (k : Nat) (s : State) : Host.Outcome State Fault Refusal :=
  match s.mcSession? k with
  | none => .next s
  | some m => .next (if m.sent then s else s.mcSend m)

/-- LDMC_DELIVERY (R135, R408). -/
def execLdmcDelivery (id beat : Nat) (s : State) : Host.Outcome State Fault Refusal :=
  match s.mcReq? id with
  | none => .next s
  | some r =>
    match r.beats.find? fun (b : Nat × Access) => b.1 == beat with
    | none => .next s
    | some b => .next (if s.mcServing r b.2 then s.mcDeliver r b.1 b.2 else s)

/-- PHASE_SWEEP_PAIR: every node's wait ends with 1, and the counts of the gang return to 0 (R201, R202). -/
def execPhaseSweepPair (launch : Nat) (s : State) : Host.Outcome State Fault Refusal :=
  if !s.phaseOver launch then .next s
  else
    let nodes := s.blocks.filter fun b => b.launch == launch
    let s := (nodes.filter fun b => b.passive).foldl (fun s b => s.phqEnd b 1 true) s
    let clear : Block → Block := fun b => { b with sent := 0, recv := 0 }
    .next { s with blocks := mapWhere (fun b => b.launch == launch) clear s.blocks }

/-- PHQ_WAKE: the node becomes ACTIVE with 0 (R201). -/
def execPhqWake (block : Nat) (s : State) : Host.Outcome State Fault Refusal :=
  match s.block? block with
  | none => .next s
  | some b =>
    if !b.passive then .next s
    else
      let r := s.phqItem b
      .next (if r.2 then r.1.phqEnd b 0 false else r.1)

end Sys2Proof.Machine
end

