-- ==== Sys2Proof/Machine/Valid.lean ====
section
/-! DEFINITION. The validation of a graph (R314 to R321, R325). -/

namespace Sys2Proof.Machine

open Sys2Proof

/-! ## Reading the records -/

/-- Read n records of `size` bytes from an address. -/
def State.readChunks (s : State) (c : Context) (size : Nat) (a : Dword) (n : Nat) : Got (State × List (List Byte)) :=
  (firstFail (List.range n) fun i => s.checkLane c .load size (a + BitVec.ofNat 64 (size * i)) 0).bind fun ps =>
    let r := s.unitLoad (ps.flatMap fun (p : Nat × Place) => (List.range size).map (p.2.key + ·))
    .ok (r.1, (List.range n).map fun i => (r.2.drop (size * i)).take size)

/-- The failure of a check: the cause and the address of the failing record. -/
abbrev Finding := Option (Nat × Dword)

def badGraph (a : Dword) (x : Bool) : Finding := if x then some (57, a) else none
def badStencil (a : Dword) (x : Bool) : Finding := if x then some (59, a) else none

/-- The first failure of a list. -/
def firstBad (vs : List Finding) : Finding := (vs.filterMap fun v => v).head?

/-- An address is not canonical or not a multiple of n. -/
def addrBad (a : Dword) (n : Nat) : Bool := !canonical a || decide (a.toNat % n ≠ 0)

/-! ## Header and resources (R315, R318) -/

/-- The header breaks R315, or host-assisted release has no rings (R325). -/
def headerBad (c : Context) (b : List Byte) : Bool :=
  decide (recNat b 0 2 ≠ 1) || decide (recNat b 2 2 = 0) || decide (1024 < recNat b 2 2) || decide (64 < recNat b 4 1) ||
  decide (recNat b 5 3 ≠ 0) || decide (recNat b 48 16 ≠ 0) || addrBad (recAddr b 8) 64 || addrBad (recAddr b 16) 32 ||
  addrBad (recAddr b 40) 4 ||
  (!c.hwRelease && (decide (recAddr b 24 = 0) || decide (recAddr b 32 = 0) || addrBad (recAddr b 24) 64 || addrBad (recAddr b 32) 64))

/-- A resource breaks R318, or a Saggar's BASE lies outside the field's directly addressed vault parts. -/
def State.resBad (s : State) (c : Context) (b : List Byte) : Bool :=
  let ths := recNat b 2 1
  let size := rsBytes b
  decide (1 < recNat b 0 1) || decide (recNat b 1 1 = 0) || decide (8 < recNat b 1 1) || decide (ths = 0) || decide (8 < ths) ||
  decide (recNat b 3 1 ≠ 0) || decide (size = 0) || decide (size % 64 ≠ 0) || decide (size % (32 * ths) ≠ 0) ||
  decide (recNat b 12 4 ≠ 0) || addrBad (recAddr b 16) 64 || addrBad (recAddr b 24) 64 ||
  if rsSaggar b then
    decide (rsSlots b = 0) || decide (4096 < rsSlots b) || (decide (rsOslots b = 0) && decide (rsOverflow b ≠ 0)) ||
    s.leafTarget c (recAddr b 16) != some 1 || (decide (rsOslots b ≠ 0) && s.leafTarget c (recAddr b 24) != some 0)
  else decide (rsSlots b ≠ 0) || decide (rsOslots b ≠ 0) || decide (rsOverflow b ≠ 0)

/-! ## Nodes (R316, R325) -/

/-- The node breaks what every kind has in common. -/
def nodeBad (n : Nat) (b : List Byte) : Bool :=
  decide (5 < ndKind b) || decide (1 < recNat b 1 1) ||
  (if ndKind b = 0 then decide (ndTws b = 0) || decide (8 < ndTws b) || decide (ndThs b = 0) || decide (8 < ndThs b)
   else decide (recNat b 2 2 ≠ 0)) ||
  (ndDeps b).any fun d => d != 0xFFFF && decide (n ≤ d)

/-- A PASS breaks R316 or the checks on its bindings and its GROUP. -/
def State.passBad (s : State) (c : Context) (ress : List (List Byte)) (b : List Byte) : Bool :=
  let healthy := c.coremask &&& ((s.field? c.field).map (·.coremask)).getD 0
  let bs := binds b
  decide (BitVec.ofNat 40 (ndGroup b) &&& ~~~healthy ≠ 0) || decide (15 < ndPrio b) || decide (ndWarps b = 0) || decide (32 < ndWarps b) ||
  decide (8 < ndBinds b) || addrBad (ndKinfo b) 64 || decide (ndGw b = 0) || decide (256 < ndGw b) || decide (ndGh b = 0) ||
  decide (256 < ndGh b) || ((List.range 8).any fun j => decide (ndBinds b ≤ j) && decide (ndBind b j ≠ 0)) ||
  decide ((dedupNat (bs.map bdRes)).length ≠ bs.length) ||
  bs.any fun x => decide (ress.length ≤ bdRes x) ||
    let r := ress.getD (bdRes x) []
    decide (recNat r 1 1 ≠ ndTws b) || decide (recNat r 2 1 ≠ ndThs b)

/-- A binding breaks the stencil rules (R325). -/
def stencilBad (nodes : List (List Byte)) (b : List Byte) (x : Nat) : Bool :=
  if bdWrite x then decide (bdStencil x ≠ 0)
  else
    decide (bdStencil x = 0) ||
    nodes.any fun w => (binds w).any (fun y => bdWrite y && bdRes y == bdRes x) &&
      (decide (ndGw w ≠ ndGw b) || decide (ndGh w ≠ ndGh b) || decide (ndTws w ≠ ndTws b) || decide (ndThs w ≠ ndThs b))

/-- The launch record that R324 builds for a PASS. -/
def passRecord (b kinfo : List Byte) : List Byte :=
  kinfo.take 4 ++ leBytes 4 (ndGw b * ndGh b) ++ (kinfo.drop 8).take 8 ++ leBytes 1 (ndWarps b) ++ (kinfo.drop 17).take 3 ++
  leBytes 5 (ndGroup b) ++ (kinfo.drop 25).take 223 ++ leBytes 8 0

/-- KINFO is no valid record of KIND 0, binds bank 7, or gives an invalid launch (R325). -/
def State.kinfoBad (s : State) (c : Context) (b kinfo : List Byte) : Bool :=
  s.recordBad c [0] kinfo || decide (recNat kinfo (192 + 14) 2 ≠ 0) || s.recordBad c [0] (passRecord b kinfo) ||
  match s.itemqsOk c (launchOfRecord kinfo c 0 (.queue 0) 0).itemq.toList with
  | .ok ok => !ok
  | _ => true

/-- The packet of a COPY node is invalid by R289 to R293, or has a TASK (R325): a kind that only a launch queue takes, or RASTER, is none of
R289's for an engine. -/
def copyNodeBad (packet desc : List Byte) : Bool :=
  packetBodyBad packet || !([0, 3, 4, 5].contains (pkKind packet)) || decide (pkTask packet ≠ 0xFF) ||
  decide (packetSpace packet ≠ 0) || (pkKind packet == 4 && tensorBad packet desc)

/-- A node other than a PASS breaks R316 or its checks. -/
def State.otherBad (s : State) (c : Context) (n nnodes : Nat) (b : List Byte) : Bool :=
  match ndKind b with
  | 1 => decide (3 < recNat b 12 1) || decide (recNat b 13 3 ≠ 0) || addrBad (recAddr b 16) 64 || decide (recNat b 24 40 ≠ 0)
  | 2 => decide (recNat b 12 2 ≤ n) || decide (nnodes < recNat b 12 2) || decide (recNat b 14 2 ≤ n) || decide (nnodes < recNat b 14 2) ||
      addrBad (recAddr b 16) 4 || decide (recNat b 24 40 ≠ 0)
  | 3 => decide (n < recNat b 12 2) || decide (recNat b 14 2 = 0) || decide (recAddr b 16 = 0) || addrBad (recAddr b 16) 4 ||
      decide (recNat b 24 40 ≠ 0)
  | 4 => decide (1 < recNat b 13 1) || decide (recNat b 14 2 ≠ 0) || decide (recNat b 24 40 ≠ 0) ||
      match c.win? (recNat b 12 1) with
      | none => true
      | some w => if recNat b 13 1 = 1 then w.kind != 2 else w.kind != 1
  | 5 => decide (1 < recNat b 12 1) || decide (recNat b 13 3 ≠ 0) || addrBad (recAddr b 16) 4 || decide (recNat b 28 36 ≠ 0) ||
      (decide (recNat b 12 1 = 1) && s.leafTarget c (recAddr b 16) == some 3)
  | _ => false

/-! ## The whole graph (R319, R321, R325) -/

/-- The loop bodies: from BODY to just before the LOOP. -/
def loopBodies (nodes : List (List Byte)) : List (Nat × Nat) :=
  nodes.zipIdx.filterMap fun (x : List Byte × Nat) => if ndKind x.1 = 3 then some (recNat x.1 12 2, x.2) else none

/-- Two loop bodies overlap without one containing the other. -/
def bodiesCross (a b : Nat × Nat) : Bool :=
  decide (a.1 < b.2) && decide (b.1 < a.2) && !(decide (a.1 ≤ b.1) && decide (b.2 ≤ a.2)) && !(decide (b.1 ≤ a.1) && decide (a.2 ≤ b.2))

/-- A COND at n leaves or enters a loop body by a target. -/
def condCrosses (n target : Nat) (body : Nat × Nat) : Bool :=
  if body.1 ≤ n ∧ n < body.2 then decide (body.2 < target) else decide (body.1 ≤ target) && decide (target < body.2)

/-- Node n breaks the rules on loops and branches. -/
def flowBad (nodes : List (List Byte)) (n : Nat) (b : List Byte) : Bool :=
  match ndKind b with
  | 2 => (loopBodies nodes).any fun x => condCrosses n (recNat b 12 2) x || condCrosses n (recNat b 14 2) x
  | 3 => (loopBodies nodes).any fun x => bodiesCross (recNat b 12 2, n) x
  | _ => false

/-- The set bits of the stencils that read a resource. -/
def readBits (nodes : List (List Byte)) (r : Nat) : List Nat :=
  (List.range 25).filter fun k => nodes.any fun b => (binds b).any fun x => !bdWrite x && bdRes x == r && bitOf (bdStencil x) k

/-- The greatest of some extents. -/
def maxNat (xs : List Nat) : Nat := xs.foldl max 0

/-- The window of a Saggar whose writer has a grid of gw by gh tiles (R321). -/
def saggarWindow (ks : List Nat) (gw gh : Nat) : Nat :=
  let u := maxNat (ks.map fun k => 2 - k / 5)
  let d := maxNat (ks.map fun k => k / 5 - 2)
  let l := maxNat (ks.map fun k => 2 - k % 5)
  let r := maxNat (ks.map fun k => k % 5 - 2)
  min (gw * gh) ((u + d) * gw + l + r + 1)

/-- The nodes that bind a resource for writing, or for reading. -/
def bindersOf (nodes : List (List Byte)) (r : Nat) (write : Bool) : List Nat :=
  (nodes.zipIdx.filter fun (x : List Byte × Nat) => (binds x.1).any fun y => bdWrite y == write && bdRes y == r).map
    fun (x : List Byte × Nat) => x.2

/-- A Saggar breaks R319 or R321. -/
def saggarBad (nodes : List (List Byte)) (r : Nat) (b : List Byte) : Bool :=
  rsSaggar b &&
  match bindersOf nodes r true with
  | [w] =>
    let node := nodes.getD w []
    ((bindersOf nodes r false).any fun n => decide (n ≤ w) ||
      (List.range nodes.length).any fun m => decide (w < m) && decide (m < n) && (ndKind (nodes.getD m []) == 2 || ndKind (nodes.getD m []) == 3)) ||
    decide (rsSlots b < saggarWindow (readBits nodes r) (ndGw node) (ndGh node))
  | _ => true

/-- What else a node refers to: a PASS's KINFO record, or a COPY's packet and tensor descriptor. -/
def State.nodeExtra (s : State) (c : Context) (b : List Byte) : Got (State × List Byte) :=
  match ndKind b with
  | 0 =>
    if addrBad (ndKinfo b) 64 then .ok (s, [])
    else (s.readChunks c 64 (ndKinfo b) 4).bind fun x => .ok (x.1, x.2.flatMap fun y => y)
  | 1 =>
    if addrBad (recAddr b 16) 64 then .ok (s, [])
    else
      (s.readChunks c 64 (recAddr b 16) 1).bind fun p =>
        let packet := p.2.getD 0 []
        if pkKind packet = 4 ∧ ¬ addrBad (pkAddr packet 2) 64 then
          (p.1.readChunks c 64 (pkAddr packet 2) 4).bind fun d => .ok (d.1, packet ++ d.2.flatMap fun y => y)
        else .ok (p.1, packet)
  | _ => .ok (s, [])

/-- The extras of every node, in order. -/
def State.extras (s : State) (c : Context) : List (List Byte) → Got (State × List (List Byte))
  | [] => .ok (s, [])
  | b :: rest => (s.nodeExtra c b).bind fun x => (x.1.extras c rest).bind fun xs => .ok (xs.1, x.2 :: xs.2)

/-- The checks of one node (R325). -/
def State.nodeVerdict (s : State) (c : Context) (g : Graph) (n : Nat) : Finding :=
  let b := g.node n
  let a := g.nodesAddr + BitVec.ofNat 64 (64 * n)
  let extra := g.kinfos.getD n []
  firstBad [badGraph a (nodeBad n b),
    badGraph a (if ndKind b = 0 then s.passBad c g.ress b || s.kinfoBad c b extra else s.otherBad c n g.nodes.length b),
    badGraph a (ndKind b == 1 && copyNodeBad (extra.take 64) (extra.drop 64)),
    badGraph a (flowBad g.nodes n b),
    badStencil a ((binds b).any (stencilBad g.nodes b))]

/-- The checks of one resource. -/
def State.resVerdict (s : State) (c : Context) (g : Graph) (r : Nat) : Finding :=
  let a := g.ressAddr + BitVec.ofNat 64 (32 * r)
  firstBad [badGraph a (s.resBad c (g.res r)), badGraph a (saggarBad g.nodes r (g.res r))]

/-- The first check that a graph fails: the resources, then the nodes. -/
def State.verdict (s : State) (c : Context) (g : Graph) : Finding :=
  firstBad ((List.range g.ress.length).map (s.resVerdict c g) ++ (List.range g.nodes.length).map (s.nodeVerdict c g))

/-- The records of a graph whose header is good. -/
def State.readGraph (s : State) (c : Context) (g : Graph) : Got (State × Graph) :=
  (s.readChunks c 64 g.nodesAddr g.nnodes).bind fun ns =>
    (ns.1.readChunks c 32 g.ressAddr (recNat g.header 4 1)).bind fun rs =>
      (rs.1.extras c ns.2).bind fun es =>
        .ok (es.1, { g with nodes := ns.2, ress := rs.2, kinfos := es.2, loops := ns.2.map fun _ => 0 })

/-- The addresses whose pages the checks look at: the bases of Saggars and the targets of SIGNALs with OP 1. -/
def Graph.lookedAt (g : Graph) : List Dword :=
  ((g.ress.filter rsSaggar).flatMap fun b => recAddr b 16 :: if rsOslots b = 0 then [] else [recAddr b 24]) ++
  (g.nodes.filter fun b => ndKind b == 5 && recNat b 12 1 == 1).map fun b => recAddr b 16

/-- A page that the checks look at must be waited for: the state in which the validation waits (R325, R393). -/
def State.graphWait (s : State) (c : Context) (g : Graph) : Option State :=
  match g.lookedAt.find? fun a => s.translate c (va56 a) == .wait with
  | some a => some (s.noteMiss c .load a)
  | none => (g.nodes.zip g.kinfos).findSome? fun (x : List Byte × List Byte) =>
      if ndKind x.1 ≠ 0 then none
      else
        match s.itemqsOk c (launchOfRecord x.2 c 0 (.queue 0) 0).itemq.toList with
        | .wait t => some t
        | _ => none

/-- The graph is REJECTED or dropped, with a cause in the host record (R314). -/
def State.dropGraph (s : State) (g : Graph) (code : Nat) (a : Dword) : State :=
  ({ s with graphs := s.graphs.filter fun x => x.uid != g.uid } : State).kilnRecord g.field g.ctx code a

/-- A graph may be validated: it is the next of its queue, its ORDER is met, and fewer than eight run (R314). -/
def State.mayValidate (s : State) (g : Graph) : Bool :=
  g.state == .submitted &&
  decide ((s.graphs.filter fun x => x.field == g.field && x.state == .running).length < 8) &&
  (s.graphs.all fun x => !(x.field == g.field && x.queue == g.queue && decide (x.order < g.order) && (g.barrier || x.state == .submitted))) &&
  (!g.barrier || s.launches.all fun l => !(l.field == g.field && l.origin == .queue g.queue && decide (l.order < g.order)))

/-- A record of a graph cannot be read: it is dropped. -/
def State.unreadGraph (s : State) (g : Graph) (t : Trap) : State := (s.unitMet g.field g.ctx t.faddr).dropGraph g 45 0

/-- Read and check the whole graph. -/
def State.validate (s : State) (c : Context) (g : Graph) : State :=
  if addrBad g.addr 64 then s.dropGraph g 57 g.addr
  else
    match s.readChunks c 64 g.addr 1 with
    | .wait s => s
    | .trap t => s.unreadGraph g t
    | .ok hs =>
      let s := hs.1
      let g := { g with header := hs.2.getD 0 [] }
      if headerBad c g.header then s.dropGraph g 57 g.addr
      else
        match s.readGraph c g with
        | .wait s => s
        | .trap t => s.unreadGraph g t
        | .ok (s, g) =>
          match s.graphWait c g, s.verdict c g with
          | some t, _ => t
          | none, some (code, a) => s.dropGraph g code a
          | none, none =>
            let run : Graph → Graph := fun _ => { g with state := .running }
            { s with graphs := mapWhere (fun x => x.uid == g.uid) run s.graphs }

/-- GRAPH_VALIDATE. -/
def execGraphValidate (graph : Nat) (s : State) : Host.Outcome State Fault Refusal :=
  match s.graphs.find? fun g => g.uid == graph with
  | none => .next s
  | some g =>
    match s.ctx? g.field g.ctx with
    | none => .next s
    | some c => .next (if s.mayValidate g then s.validate c g else s)

end Sys2Proof.Machine
end

