-- ==== Sys2Proof/Machine/EvGraph.lean ====
section
/-! DEFINITION. Running graphs: the cursor and instances (R322, R323), passes and tiles (R324, R330 to R336), host-assisted release
(R327), RING_EXHAUSTED (R337) and completion (R317). An event that is not enabled changes nothing. -/

namespace Sys2Proof.Machine

open Sys2Proof

def State.graph? (s : State) (g : Nat) : Option Graph := s.graphs.find? fun x => x.uid == g
def State.modGraph (s : State) (u : Nat) (g : Graph → Graph) : State := { s with graphs := mapWhere (fun x => x.uid == u) g s.graphs }
def Graph.modInst (g : Graph) (k : Nat) (f : Inst → Inst) : Graph := { g with insts := mapWhere (fun i => i.index == k) f g.insts }
def Inst.modTile (i : Inst) (t : Nat) (f : Tile → Tile) : Inst := { i with tiles := mapWhere (fun x => x.index == t) f i.tiles }

/-- The Kiln goes on with a context's graphs: the context is neither being pre-empted nor saved (R314, R336). -/
def Context.going (c : Context) : Bool := c.state == .idle || c.state == .running

/-- A running graph whose Kiln goes on, with its context. -/
def State.goingGraph (s : State) (u : Nat) : Option (Graph × Context) :=
  match s.graph? u with
  | none => none
  | some g =>
    match s.ctx? g.field g.ctx with
    | none => none
    | some c => if g.state = .running ∧ c.going then some (g, c) else none

/-! ## Issue (R322, R331) -/

/-- Two ranges of addresses meet. -/
def rangesMeet (a n b m : Nat) : Bool := decide (a < b + m) && decide (b < a + n)

/-- A COPY node's packet writes bytes of a memory resource. -/
def copyWrites (extra res : List Byte) (gw gh : Nat) : Bool :=
  let packet := extra.take 64
  let size := rsBytes res * gw * gh
  if pkKind packet = 5 then rangesMeet (recNat packet 16 8) (pkWord packet 6) (rsBase res) size
  else (copyElems packet (extra.drop 64)).any fun e => rangesMeet (addrOf e.dst).toNat e.n (rsBase res) size

/-- An instance writes a resource that a pass with a grid of gw by gh tiles reads. -/
def Graph.instWrites (g : Graph) (i : Inst) (r gw gh : Nat) : Bool :=
  let b := g.node i.node
  match ndKind b with
  | 0 => (binds b).any fun x => bdWrite x && bdRes x == r
  | 1 => !rsSaggar (g.res r) && copyWrites (g.kinfos.getD i.node []) (g.res r) gw gh
  | _ => false

/-- The producer of each binding: the latest earlier instance that writes what it reads (R323). -/
def Graph.producersFor (g : Graph) (b : List Byte) : List (Option Nat) :=
  (binds b).map fun x =>
    if bdWrite x then none
    else ((g.insts.filter fun i => g.instWrites i (bdRes x) (ndGw b) (ndGh b)).getLast?).map (·.index)

/-- What a tile waits for under one read binding (R331). -/
def Graph.waitFor (g : Graph) (b : List Byte) (tile x : Nat) (p : Option Nat) : Nat :=
  match p.bind g.inst? with
  | none => 0
  | some i =>
    if bdWrite x ∨ i.state = .complete then 0
    else if ndKind (g.node i.node) = 1 then 1
    else ((coveredTiles (ndGw b) (ndGh b) (bdStencil x) tile).filter fun t => !(i.tile? t).any fun y => y.state == .retired).length

/-- The tiles of a new PASS instance, WAITING with their wait counts (R330, R331). -/
def Graph.newTiles (g : Graph) (b : List Byte) (ps : List (Option Nat)) : List Tile :=
  if ndKind b ≠ 0 then []
  else (List.range (ndGw b * ndGh b)).map fun t =>
    { index := t, state := .waiting, wait := (((binds b).zip ps).map fun (x : Nat × Option Nat) => g.waitFor b t x.1 x.2).foldl (· + ·) 0,
      slots := [], block := 0 }

/-- Issue the node at the cursor. -/
def Graph.issue (g : Graph) : Graph :=
  let b := g.node g.cursor
  let ps := g.producersFor b
  let i : Inst :=
    { index := g.insts.length, node := g.cursor, turn := (g.insts.filter fun x => x.node == g.cursor).length, state := .issued,
      tiles := g.newTiles b ps, producers := ps, launch := 0, copy := 0 }
  { g with insts := g.insts ++ [i], cursor := g.cursor + 1 }

/-- The node at the cursor is a branch or a loop. -/
def Graph.atBranch (g : Graph) : Bool := ndKind (g.node g.cursor) == 2 || ndKind (g.node g.cursor) == 3

/-- NODE_ISSUE. -/
def execNodeIssue (graph : Nat) (s : State) : Host.Outcome State Fault Refusal :=
  match s.goingGraph graph with
  | none => .next s
  | some (g, _) => .next (if g.cursor < g.nodes.length && !g.atBranch then s.modGraph graph Graph.issue else s)

/-- Every instance issued so far has completed. -/
def Graph.allDone (g : Graph) : Bool := g.insts.all fun i => i.state == .complete

/-- A launch is abandoned as on a kill: its warps stop, what they have started comes to its end, and it is gone (R266). -/
def State.abandonLaunch (s : State) (l : Launch) : State :=
  let us := s.warpsOf l
  let bs := (s.blocks.filter fun b => b.launch == l.uid).map (·.uid)
  let s := us.foldl State.quiesce s
  let stay : Warp → Bool := fun w => us.contains w.uid && !w.drained
  let left := (s.warps.filter stay).map (Warp.orphaned l.ctx)
  let s : State := { s with
    engine := s.engine.filter fun e => e.launch != l.uid || s.startedDrain e
    mcReqs := s.mcReqs.filter fun r => r.launch != l.uid
    packetOps := s.packetOps.filter fun p => !us.contains p.warp
    copies := s.copies.filter fun r => !(bs.contains r.block && packetSpace r.packet != 0) }
  let s := s.forget l
  ({ s with warps := s.warps ++ left } : State).freeAccums

/-- The graph is abandoned as on a kill: it goes, with its passes and their children, and its context may be IDLE again (R266, R314, R337,
R435). -/
def State.abandonGraph (s : State) (g : Graph) : State :=
  let ls := (s.launches.filter fun l => match l.origin with
    | .inst x _ => x == g.uid
    | _ => false).flatMap (s.family 9)
  let s := ls.foldl State.abandonLaunch s
  ({ s with
    graphs := s.graphs.filter fun x => x.uid != g.uid
    copies := s.copies.filter fun r => !(r.inst.any fun (x : Nat × Nat) => x.1 == g.uid) } : State).restCtx g.field g.ctx

/-- Move the cursor as a branch's predicate says (R322). -/
def Graph.branch (g : Graph) (v : Bool) : Graph :=
  let b := g.node g.cursor
  if ndKind b = 2 then { g with cursor := if v then recNat b 12 2 else recNat b 14 2 }
  else
    let k := g.loops.getD g.cursor 0
    if v && decide (k + 1 < recNat b 14 2) then { g with loops := g.loops.set g.cursor (k + 1), cursor := recNat b 12 2 }
    else { g with status := if v then g.status ||| 1 else g.status, loops := g.loops.set g.cursor 0, cursor := g.cursor + 1 }

/-- PREDICATE_EVAL: a fault in the read abandons the graph (R435). -/
def execPredicateEval (graph : Nat) (s : State) : Host.Outcome State Fault Refusal :=
  match s.goingGraph graph with
  | none => .next s
  | some (g, c) =>
    let a := recAddr (g.node g.cursor) 16
    if g.nodes.length ≤ g.cursor ∨ !g.atBranch ∨ !g.allDone then .next s
    else if a = 0 then .next (s.modGraph graph fun x => x.branch true)
    else
      match s.getVirt c a 4 with
      | .wait t => .next t
      | .trap t => .next ((s.kilnRecord c.field c.ctxid t.code a).abandonGraph g)
      | .ok r => .next (r.1.modGraph graph fun x => x.branch (leNat r.2 != 0))

/-! ## Starting (R323, R324) -/

/-- An instance binds a resource, for reading or writing. -/
def Graph.instBinds (g : Graph) (i : Inst) (r : Nat) : Bool := (binds (g.node i.node)).any fun x => bdRes x == r

/-- What an instance waits for before it starts has completed (R323). -/
def Graph.mayStart (g : Graph) (i : Inst) : Bool :=
  let b := g.node i.node
  let before := g.insts.filter fun x => decide (x.index < i.index)
  let latest : Nat → Option Inst := fun d => (before.filter fun x => x.node == d).getLast?
  i.state == .issued &&
  ((ndDeps b).all fun d => d == 0xFFFF || (latest d).all fun x => x.state == .complete) &&
  (!ndAll b || before.all fun x => x.state == .complete) &&
  (binds b).all fun x => !bdWrite x ||
    before.all fun y => y.state == .complete ||
      !(if rsSaggar (g.res (bdRes x)) then (binds (g.node y.node)).any fun z => bdWrite z && bdRes z == bdRes x
        else g.instBinds y (bdRes x))

/-- The launch of a started PASS (R324). -/
def State.passLaunch (s : State) (c : Context) (g : Graph) (i : Inst) : Launch :=
  let b := g.node i.node
  { launchOfRecord (passRecord b (g.kinfos.getD i.node [])) c s.nextUid (.inst g.uid i.index) (ndKinfo b) with
    kind := 3, state := .running, next := ndGw b * ndGh b, code := s.roundedMem, consts := s.roundedMem,
    codeAt := s.stored.length, constAt := s.stored.length, dispatched := s.nextUid }

/-- A PASS starts: its tiles that wait for nothing are READY (R330). -/
def State.startPass (s : State) (c : Context) (g : Graph) (i : Inst) : State :=
  let l := s.passLaunch c g i
  let ready : Tile → Tile := fun t => if t.wait = 0 then { t with state := .ready } else t
  let go : Inst → Inst := fun x => { x with state := .started, launch := l.uid, tiles := x.tiles.map ready }
  { s with nextUid := s.nextUid + 1, launches := s.launches ++ [l] }.modGraph g.uid fun x => x.modInst i.index go

/-- A COPY starts: its packet goes to engine QUAD with ISSUER 0 (R323); one that breaks R288 is a faulted copy (R291). -/
def State.startCopyNode (s : State) (c : Context) (g : Graph) (i : Inst) : State :=
  let extra := g.kinfos.getD i.node []
  let quad := recNat (g.node i.node) 12 1
  if !s.engineFree g.field quad then s
  else
    let r : CopyRun :=
      { id := s.nextUid, field := g.field, engine := quad, ctx := g.ctx, queue := none, order := 0, inst := some (g.uid, i.index),
        packet := withIssuer 0 (extra.take 64), desc := extra.drop 64, tq := 0, task := 0xFF, warp := none, op := 0, block := 0, claimed := none,
        session := none, pos := 0, before := [], done := false, fault := none }
    let go : Inst → Inst := fun x => { x with state := .started, copy := r.id }
    let s : State := { s with nextUid := s.nextUid + 1 }
    match if pkHeadBad r.packet then .run s (r.failed 0) else s.startKind c r with
    | .waits s => s
    | .run s r => (Started.run (s.modGraph g.uid fun x => x.modInst i.index go) r).state

/-- An instance has completed. -/
def State.instDone (s : State) (g k : Nat) (bit : Word) : State := s.copyNodeDone g k bit

/-- SIGNAL instances whose write is performed at SYSTEM scope are complete (R323). -/
def State.settleSignals (s : State) : State :=
  s.graphs.foldl (fun s g =>
    (g.insts.filter fun i => i.state == .started && ndKind (g.node i.node) == 5 && s.performed 3 i.copy).foldl
      (fun s i => s.instDone g.uid i.index 0) s) s

/-- What an access that has come to its home, or to an end, completes: SIGNALs, and contexts that are gone. -/
def State.settleMoved (s : State) : State := s.settleSignals.settleGone

/-- The write of a SIGNAL: a store of its value, as a .G store where it leaves its field, or an add by the atomic service, which is a request where
it leaves its field (R323). -/
def State.signalWrite (s : State) (c : Context) (op : Nat) (add : Bool) (a : Dword) (v : Word) : Got State :=
  if add then
    (s.checkLane c .red 4 a 0).bind fun p =>
      let s : State := if keyTarget p.key = 2 then { s with hostWrites := s.hostWrites ++ [(op, op, 0)] } else s
      .ok (if p.peer || p.win.isSome || p.home != c.field then
          let acc : AtomAcc := { lane := 0, key := p.key, y := v.setWidth 64, z := 0, win := p.win, handle := p.handle }
          let s := s.unitAtom c op p 0 [acc] a 0
          if p.peer then s.doorbell c.field (s.nextUid - 1) p.handle else s
        else ((s.invalReplicas (lineOf p.key)).atomicAt (homesOf [p]) 0 false p.key v.toNat 0).1)
  else (s.checkBytes c .store a 4).bind fun ps => .ok (s.unitPut c op true ps (leBytes 4 v.toNat) a)

/-- A SIGNAL starts once the writes of every completed instance are performed at SYSTEM scope, and completes once its own is. A write that faults is
not made (R323, R435). -/
def State.startSignal (s : State) (c : Context) (g : Graph) (i : Inst) : State :=
  let b := g.node i.node
  let a := recAddr b 16
  if !s.writesDone g.writers 3 then s
  else
    let op := s.nextUid
    match ({ s with nextUid := op + 1 } : State).signalWrite c op (recNat b 12 1 == 1) a (BitVec.ofNat 32 (recNat b 24 4)) with
    | .wait t => t
    | .trap t => (s.kilnRecord c.field c.ctxid t.code a).instDone g.uid i.index 0
    | .ok s =>
      let go : Inst → Inst := fun x => { x with state := .started, copy := op }
      (s.modGraph g.uid fun x => x.modInst i.index go).settleSignals

/-- INSTANCE_START. -/
def execInstanceStart (graph k : Nat) (s : State) : Host.Outcome State Fault Refusal :=
  match s.goingGraph graph with
  | none => .next s
  | some (g, c) =>
    match g.inst? k with
    | none => .next s
    | some i =>
      if !g.mayStart i then .next s
      else
        match ndKind (g.node i.node) with
        | 0 => .next (s.startPass c g i)
        | 1 => .next (s.startCopyNode c g i)
        | 4 => .next (s.modGraph graph fun x => x.modInst k fun y => { y with state := .started })
        | _ => .next (s.startSignal c g i)

/-- WAITCTR_COMPLETE: the counter has reached VALUE + STEP x j, or has overflowed (R323). -/
def execWaitctrComplete (graph k : Nat) (s : State) : Host.Outcome State Fault Refusal :=
  match s.goingGraph graph with
  | none => .next s
  | some (g, c) =>
    match g.inst? k with
    | none => .next s
    | some i =>
      let b := g.node i.node
      if i.state ≠ .started ∨ ndKind b ≠ 4 then .next s
      else
        match c.win? (recNat b 12 1) with
        | none => .next s
        | some w =>
          let v := if recNat b 13 1 = 1 then w.dst else w.src
          let ovf := if recNat b 13 1 = 1 then w.dstOvf else w.srcOvf
          if ovf then .next ((s.kilnRecord c.field c.ctxid 34 0).instDone graph k 4)
          else if recNat b 16 4 + recNat b 20 4 * i.turn ≤ v.toNat then .next (s.instDone graph k 0)
          else .next s

/-! ## Release (R324, R332, R334) -/

/-- The first place for a table of four units from a free choice on, beyond those taken: where the part puts it is its own (R363). -/
def pickUnit (taken : List Nat) (start : Nat) : Nat :=
  (((List.range 8189).map fun i => (start + i) % 8189).find? fun u => (List.range 4).all fun k => !taken.contains (u + k)).getD 0

/-- The slot that a tile's read of a Saggar finds under stencil bit k (R334). -/
def Graph.slotUnder (g : Graph) (r p : Nat) (cov : List (Nat × Nat)) (k : Nat) : Nat :=
  match cov.find? fun (x : Nat × Nat) => x.1 == k with
  | none => 0
  | some x =>
    match g.slots.find? fun s => s.res == r && s.inst == p && s.tile == x.2 with
    | some s => slotAddr (g.res r) s.slot
    | none => 0

/-- The table of 25 slot addresses of a read binding. -/
def Graph.slotTable (g : Graph) (i : Inst) (t j x : Nat) : List Byte :=
  let b := g.node i.node
  let cov := covered (ndGw b) (ndGh b) (bdStencil x) t
  let p := ((i.producers[j]?).join).getD g.insts.length
  (List.range 25).flatMap fun k => leBytes 8 (g.slotUnder (bdRes x) p cov k)

/-- The tables of a tile: binding, unit in its column's spawn memory, bytes. -/
def State.tables (s : State) (g : Graph) (i : Inst) (t column : Nat) : List (Nat × Nat × List Byte) :=
  let b := g.node i.node
  let js := (binds b).zipIdx.filter fun (x : Nat × Nat) => !bdWrite x.1 && rsSaggar (g.res (bdRes x.1))
  js.foldl (fun acc (x : Nat × Nat) =>
    let taken := s.tableUnits g.field column ++ acc.flatMap fun (y : Nat × Nat × List Byte) => (List.range 4).map (y.2.1 + ·)
    acc ++ [(x.2, pickUnit taken ((s.someWord x.2).toNat % 8189), g.slotTable i t x.2 x.1)]) []

/-- The address of a binding's data for a tile. -/
def Graph.bindAddr (g : Graph) (t column : Nat) (slots : List (Nat × Nat)) (tabs : List (Nat × Nat × List Byte)) (j x : Nat) :
    Nat :=
  let r := g.res (bdRes x)
  if !rsSaggar r then rsBase r + rsBytes r * t
  else if bdWrite x then slotAddr r (((slots.find? fun (y : Nat × Nat) => y.1 == bdRes x).map fun (y : Nat × Nat) => y.2).getD 0)
  else
    let u := ((tabs.find? fun (y : Nat × Nat × List Byte) => y.1 == j).map fun (y : Nat × Nat × List Byte) => y.2.1).getD 0
    2 ^ 64 - 2 ^ 56 + spawnBase + column * 2 ^ 19 + 64 * u

/-- Word k of a tile's binding table (R324); the words of absent bindings and the bits that the rules leave out are free values. -/
def State.bindWord (s : State) (g : Graph) (i : Inst) (t column : Nat) (slots : List (Nat × Nat)) (tabs : List (Nat × Nat × List Byte))
    (k : Nat) : Word :=
  let b := g.node i.node
  match (binds b)[k / 4]? with
  | none => s.someWord (100 + k)
  | some x =>
    let r := g.res (bdRes x)
    let a := g.bindAddr t column slots tabs (k / 4) x
    match k % 4 with
    | 0 => BitVec.ofNat 32 a
    | 1 => BitVec.ofNat 32 (a / 2 ^ 32)
    | 2 => BitVec.ofNat 32 (rsBytes r / (32 * ndThs b))
    | _ =>
      let form := if !rsSaggar r then 0 else if bdWrite x then 1 else 2
      (s.someWord (100 + k) &&& 0xFFFC#32) ||| BitVec.ofNat 32 (form + ndGw b * 2 ^ 16)

/-- The frame of a column's spawn memory belongs to the context, as far as its tables need it (R276). -/
def State.spawnOwned (s : State) (c : Context) (column : Nat) (tabs : List (Nat × Nat × List Byte)) : Bool :=
  tabs.all fun (y : Nat × Nat × List Byte) => [0, 3].all fun k =>
    match s.access c .load (BitVec.ofNat 64 (2 ^ 64 - 2 ^ 56 + spawnBase + column * 2 ^ 19 + 64 * (y.2.1 + k))) with
    | .ok _ => true
    | _ => false

/-- The block of a tile is dispatched to a core, with its binding table and its slot tables (R324, R334). -/
def State.placeTile (s : State) (c : Context) (g : Graph) (i : Inst) (t core : Nat) (l : Launch) (slots : List (Nat × Nat))
    (tabs : List (Nat × Nat × List Byte)) : State :=
  let column := core % 40
  let words : Vector Word 32 := Vector.ofFn fun k => s.bindWord g i t column slots tabs k.val
  let s := tabs.foldl (fun s (y : Nat × Nat × List Byte) =>
    let lo := physKey 1 g.field (spawnPa c.vaultdir column (64 * y.2.1))
    (s.engineWrite (y.2.2.zipIdx.map fun (z : Byte × Nat) => (lo + z.2, z.1))).clearOwn lo (lo + 256)) s
  let gw := ndGw (g.node i.node)
  let tile : BlockTile :=
    { graph := g.uid, inst := i.index, tile := t, tilex := BitVec.ofNat 32 (t % gw), tiley := BitVec.ofNat 32 (t / gw),
      passid := BitVec.ofNat 32 i.node }
  let go : Tile → Tile := fun x => { x with state := .running, slots := slots, block := s.nextUid }
  let s' := (s.placeBlock l t core).modBlock s.nextUid fun x => { x with tile := some tile, bind := words }
  s'.modGraph g.uid fun _ => g.modInst i.index fun x => x.modTile t go

/-- Release a tile to a core: its slots are claimed, its block is dispatched and its binding table is filled (R334). -/
def State.releaseTo (s : State) (c : Context) (g : Graph) (i : Inst) (t core : Nat) : State :=
  match g.tileClaim i t, s.launch? i.launch with
  | .ok (g', slots), some l =>
    let tabs := s.tables g' i t (core % 40)
    if !s.spawnOwned c (core % 40) tabs then s
    else s.choose g.field c.coremask g.queue fun s => s.placeTile c g' i t core l slots tabs
  | _, _ => s

/-- Release a tile if it is its queue's turn, a core has room and, unless the host has named it, it is the next of the queue (R332). -/
def State.release1 (s : State) (g : Graph) (k t : Nat) : State :=
  match s.queueWait g.field g.queue, s.hasTurn g.field g.queue with
  | some w, _ => w
  | none, some c =>
    let xs := s.openTiles g.field g.queue s.takes
    let xs := if c.hwRelease then xs.take 1 else xs
    match xs.find? fun (x : Graph × Inst × Tile) => x.1.uid == g.uid && x.2.1.index == k && x.2.2.index == t with
    | none => s
    | some (x, i, _) =>
      -- a slot table needs the spawn memory of its core's column (R334, R396)
      let tables := (binds (x.node i.node)).any fun y => !bdWrite y && rsSaggar (x.res (bdRes y))
      let fits : Nat → Bool := fun n => !tables || s.vaultOnline x.field (n % 40)
      match (s.launch? i.launch).bind fun l => s.emptiest (openCores l fun n => s.takes l n && fits n) with
      | none => s
      | some core => s.releaseTo c x i t core
  | none, none => s

/-- TILE_RELEASE: the Kiln releases a READY tile (R332). -/
def execTileRelease (graph k tile : Nat) (s : State) : Host.Outcome State Fault Refusal :=
  match s.goingGraph graph with
  | none => .next s
  | some (g, c) => .next (if c.hwRelease then s.release1 g k tile else s)

/-- The word of RELQ that was taken is written back as 0 (R327); one that cannot be written stays as it is (log 92). -/
def State.relqNext (s : State) (c : Context) (g : Graph) : Got State :=
  let on : State → State := fun s => s.modGraph g.uid fun x => { x with relIdx := x.relIdx + 1 }
  match s.putVirt c true (g.relq + BitVec.ofNat 64 (4 * (g.relIdx % 4096))) (leBytes 4 0) with
  | .ok s => .ok (on s)
  | .wait s => .wait s
  | .trap t => .ok (on (s.unitMet g.field g.ctx t.faddr))

/-- The host's word releases its tile, or is discarded; then it has been taken. -/
def State.relqTake (s : State) (c : Context) (g : Graph) (w : Nat) : State :=
  let s' := match g.named w with
    | none => s
    | some (i, t) => s.release1 g i.index t.index
  if (g.named w).isSome && s'.blocks.length == s.blocks.length then s'
  else
    match s'.relqNext c g with
    | .ok s => s
    | .wait _ => s.noteMiss c .store (g.relq + BitVec.ofNat 64 (4 * (g.relIdx % 4096)))
    | .trap _ => s

/-- RELQ_TAKE (R327). -/
def execRelqTake (graph : Nat) (s : State) : Host.Outcome State Fault Refusal :=
  match s.goingGraph graph with
  | none => .next s
  | some (g, c) =>
    if c.hwRelease then .next s
    else
      match s.relqWord c g with
      | .wait t => .next t
      | .trap t => .next (s.unitMet g.field g.ctx t.faddr)
      | .ok r => .next (if bitOf r.2 31 then r.1.relqTake c g r.2 else r.1)

/-! ## Retirement (R239, R335) -/

/-- A consumer's tiles lose what a retired producer tile gave them (R331). -/
def Graph.feed (g : Graph) (p tile : Nat) (i : Inst) : Inst :=
  let b := g.node i.node
  let less : Tile → Nat := fun t => (((binds b).zip i.producers).filter fun (x : Nat × Option Nat) =>
    !bdWrite x.1 && x.2 == some p && (coveredTiles (ndGw b) (ndGh b) (bdStencil x.1) t.index).contains tile).length
  let dec : Tile → Tile := fun t =>
    let w := t.wait - less t
    { t with wait := w, state := if t.state = .waiting ∧ w = 0 ∧ i.state = .started then .ready else t.state }
  { i with tiles := i.tiles.map dec }

/-- The slots that a reader tile covered. -/
def Graph.readSlots (g : Graph) (i : Inst) (t : Nat) : List (Nat × Nat × Nat) :=
  let b := g.node i.node
  ((binds b).zip i.producers).flatMap fun (x : Nat × Option Nat) =>
    match x.2 with
    | none => []
    | some p =>
      if bdWrite x.1 || !rsSaggar (g.res (bdRes x.1)) then []
      else (coveredTiles (ndGw b) (ndGh b) (bdStencil x.1) t).map fun y => (bdRes x.1, p, y)

/-- Decrement the last-reader counts of the slots a tile read, and free what has none left (R335). -/
def Graph.readDone (g : Graph) (rs : List (Nat × Nat × Nat)) : Graph :=
  let hit : Slot → Bool := fun c => rs.contains (c.res, c.inst, c.tile)
  let dec : Slot → Slot := fun c => { c with count := c.count - 1 }
  let gone : Slot → Bool := fun c => hit c && decide (c.count ≤ 1)
  { g with slots := mapWhere hit dec (g.slots.filter fun c => !gone c) }

/-- A tile is RETIRED, with every effect of R335 on its graph. -/
def Graph.retire (g : Graph) (i : Inst) (t : Nat) : Graph :=
  let retired : Tile → Tile := fun x => { x with state := .retired, block := 0 }
  let g := g.modInst i.index fun x => x.modTile t retired
  let g : Graph := { g with insts := g.insts.map (g.feed i.index t) }
  let g := g.readDone (g.readSlots i t)
  let g : Graph := { g with slots := g.slots.filter fun c => !(c.inst == i.index && c.tile == t && c.count == 0) }
  g.modInst i.index fun x => if x.tiles.all fun y => y.state == .retired then { x with state := .complete } else x

/-- A tile may retire: its block has retired, its children are over, and its writes are performed at DEVICE scope and those to windows
acknowledged (R239, R330). -/
def State.mayRetireTile (s : State) (b : Block) : Bool :=
  let us := (s.warps.filter fun w => w.block == b.uid).map (·.uid)
  b.state == .retired && (s.launches.all fun l => l.origin != .fork b.uid) && s.writesDone us 2 &&
  s.flights.all fun f => !us.contains f.warp || f.win.isNone || f.lost

/-- The retire word of a tile (R327). -/
def retireWord (i : Inst) (t : Nat) : Nat := 2 ^ 31 + i.node * 2 ^ 16 + t

/-- The address of RETQ's next word. -/
def Graph.retqAddr (g : Graph) : Dword := g.retq + BitVec.ofNat 64 (4 * (g.retIdx % 4096))

/-- RETQ's next word has been written back as 0; one that cannot be read is waited for no longer (log 92). -/
def State.retqFree (s : State) (c : Context) (g : Graph) : Got (State × Bool) :=
  match s.getVirt c g.retqAddr 4 with
  | .ok r => .ok (r.1, leNat r.2 == 0)
  | .trap t => .ok (s.unitMet g.field g.ctx t.faddr, true)
  | .wait s => .wait s

/-- The retire word of a tile is written to RETQ, which counts on (R327, log 92). -/
def State.retqPut (s : State) (c : Context) (g : Graph) (i : Inst) (tile : Nat) : Got State :=
  (s.retqFree c g).bind fun r =>
    if !r.2 then .wait r.1
    else
      let on : State → State := fun s => s.modGraph g.uid fun x => { x with retIdx := x.retIdx + 1 }
      match r.1.putVirt c true g.retqAddr (leBytes 4 (retireWord i tile)) with
      | .ok s => .ok (on s)
      | .trap t => .ok (on (r.1.unitMet g.field g.ctx t.faddr))
      | .wait s => .wait s

/-- The block of a retired tile and its warps are gone, and with its last tile the pass's launch, whose warps have written for the graph
(R317, R323). -/
def State.dropTile (s : State) (g : Nat) (b : Block) (l : Nat) (last : Bool) : State :=
  let s : State := { s.freeSpawn (.image b.uid) with
    warps := s.warps.filter fun w => w.block != b.uid
    blocks := s.blocks.filter fun x => x.uid != b.uid }
  match if last then s.launch? l else none with
  | none => s
  | some x =>
    let s := s.modGraph g fun y => { y with writers := y.writers ++ x.writers }
    { s with
      launches := s.launches.filter fun y => y.uid != l
      constCache := s.constCache.filter fun y => y.launch != l }

/-- TILE_RETIRE. -/
def execTileRetire (graph k tile : Nat) (s : State) : Host.Outcome State Fault Refusal :=
  match s.graph? graph with
  | none => .next s
  | some g =>
    match g.inst? k, s.ctx? g.field g.ctx with
    | some i, some c =>
      match (i.tile? tile).bind fun t => if t.state == .running then s.block? t.block else none with
      | none => .next s
      | some b =>
        if !s.mayRetireTile b then .next s
        else
          match if c.hwRelease then .ok s else s.retqPut c g i tile with
          | .wait t => .next t
          | .trap _ => .next s
          | .ok s =>
            let s := s.modGraph graph fun x => x.retire i tile
            let last := ((s.graph? graph).bind fun x => x.inst? k).any fun x => x.state == .complete
            .next ((s.dropTile graph b i.launch last).restCtx g.field g.ctx)
    | _, _ => .next s

/-! ## The end of a graph (R317, R337, R338) -/

/-- A graph is over. -/
def State.endGraph (s : State) (g : Graph) : State := { s with graphs := s.graphs.filter fun x => x.uid != g.uid }

/-- A graph is COMPLETE: its TASK is decremented, and it is over unless it has a STATUS still to write (R317). -/
def State.finishGraph (s : State) (g : Graph) : State :=
  let d := s.unitDec g.field g.queue g.task
  let complete : Graph → Graph := fun x => { x with state := .complete }
  if !d.2 then d.1 else if g.statusAddr = 0 then d.1.endGraph g else d.1.modGraph g.uid complete

/-- STATUS of a COMPLETE graph is written, as a release at SYSTEM scope, and the graph is over; a STATUS that faults is recorded and not written
(R317, R435). -/
def State.writeStatus (s : State) (c : Context) (g : Graph) : State :=
  if !s.writesDone g.writers 3 then s
  else
    match (s.endGraph g).putVirt c true g.statusAddr (leBytes 4 (g.status ||| 0x80000000#32).toNat) with
    | .ok s => s
    | .trap t => (s.endGraph g).kilnRecord g.field g.ctx t.code g.statusAddr
    | .wait _ => s.noteMiss c .store g.statusAddr

/-- GRAPH_COMPLETE: each of the completion actions in its turn, the first once every write of the graph is performed at DEVICE scope (R317). -/
def execGraphComplete (graph : Nat) (s : State) : Host.Outcome State Fault Refusal :=
  match s.graph? graph with
  | none => .next s
  | some g =>
    match s.ctx? g.field g.ctx with
    | none => .next s
    | some c =>
      if !c.going ∨ g.state = .submitted then .next s
      else if g.state = .complete then .next (s.writeStatus c g)
      else if g.cursor < g.nodes.length ∨ !g.allDone ∨ !s.writesDone g.writers 2 then .next s
      else .next (s.finishGraph g)

/-- The Saggar whose claim fails for the lowest READY tile of the earliest instance that has one. -/
def Graph.starved (g : Graph) : Option Nat :=
  (g.insts.filterMap fun i =>
    match i.tiles.find? fun t => t.state == .ready with
    | none => none
    | some t =>
      match g.tileClaim i t.index with
      | .error r => some r
      | .ok _ => none).head?

/-- A graph is stalled (R337): no instance of it can start or is STARTED, and no node can be issued, that could free a slot. -/
def Graph.stalled (g : Graph) : Bool :=
  let ready := g.insts.flatMap fun i => (i.tiles.filter fun t => t.state == .ready).map fun t => (i, t)
  !ready.isEmpty && (g.insts.all fun i => i.tiles.all fun t => t.state != .running) &&
  (ready.all fun (x : Inst × Tile) => !Except.good (g.tileClaim x.1 x.2.index)) &&
  (g.insts.all fun i => (i.state != .started || ndKind (g.node i.node) == 0) && !g.mayStart i) &&
  (decide (g.nodes.length ≤ g.cursor) || g.atBranch)

/-- RING_EXHAUSTED. -/
def execRingExhausted (graph : Nat) (s : State) : Host.Outcome State Fault Refusal :=
  match s.goingGraph graph with
  | none => .next s
  | some (g, c) =>
    match g.starved with
    | none => .next s
    | some r =>
      if !c.hwRelease ∨ !g.stalled then .next s
      else .next ((s.kilnRecord c.field c.ctxid 58 (g.ressAddr + BitVec.ofNat 64 (32 * r))).abandonGraph g)

/-- FOOTPRINT_PREFETCH: a prefetch has no visible effect (R241, R338). -/
def execFootprintPrefetch (_graph _k _tile : Nat) (s : State) : Host.Outcome State Fault Refusal := .next s

end Sys2Proof.Machine
end

