-- ==== Sys2Proof/Machine/EvMem.lean ====
section
/-! DEFINITION. The events of memory: stores at their homes and their acknowledgements (R225 to R237), proxies and replicas
(R401 to R404), slices (R96), the atomic service (R242 to R251) and loss notices (R417). An event that is not enabled changes
nothing. -/

namespace Sys2Proof.Machine

open Sys2Proof

/-! ## Stores at their homes -/

def State.flight? (s : State) (id : Nat) : Option Flight := s.flights.find? fun f => f.id == id

/-- Count a finished item in the source counter of its window (R236). -/
def State.countItem (s : State) (op src ctx slot : Nat) : State :=
  let more := s.queued op || (s.flights.any fun g => g.op == op && g.win == some slot) || s.areqs.any fun r => r.op == op && r.bySlot (some slot)
  if more then s else s.countSrc src ctx slot

/-- A RED request that left its field is acknowledged. -/
def State.ackRed (s : State) (r : AtomReq) : State :=
  let s := { s with areqs := s.areqs.filter fun x => x.id != r.id }
  let count : State → Nat × Dword → State := fun s x => s.countItem r.op r.src r.ctx x.1
  (if 0 < r.broken then s else r.windows.foldl count s).closeStore r.op

/-- A reply from a slice to a core that was sent before a step is still on its way: replies from one slice to one core arrive in the order in
which they were sent (R399, R413). -/
def State.replyAhead (s : State) (core slice at_ : Nat) : Bool :=
  (s.flights.any fun f => f.core == core && f.slice == slice && f.leaving && f.applied && !f.lost && !f.peer && decide (f.appliedAt < at_)) ||
  s.areqs.any fun r => r.core == core && r.slice == slice && r.applied && (r.leaving || r.returns) && !r.lost && !r.peer && decide (r.appliedAt < at_)

/-- The acknowledgement of a store, and that of a RED, that left its field may return now (R231, R399). -/
def State.mayAck (s : State) (f : Flight) : Bool :=
  f.leaving && f.applied && !f.lost && !f.peer && !s.replyAhead f.core f.slice f.appliedAt
def State.mayAckRed (s : State) (r : AtomReq) : Bool :=
  r.leaving && r.applied && !r.returns && !r.lost && !r.peer && !s.replyAhead r.core r.slice r.appliedAt

/-- STORE_ACK: the acknowledgement of a store or RED that left its field returns (R231, R236). -/
def execStoreAck (id : Nat) (s : State) : Host.Outcome State Fault Refusal :=
  match s.flight? id with
  | some f => .next (if s.mayAck f then (s.ackFlight f).settleMoved else s)
  | none =>
    match s.areqs.find? fun r => r.id == id with
    | some r => .next (if s.mayAckRed r then (s.ackRed r).settleMoved else s)
    | none => .next s

/-! ## Proxies, L1 lines and slices -/

/-- PROXY_INVALIDATE: the replica bytes of a line go, held bytes stay, and the home has the acknowledgement, of a proxy that no longer holds
the line as well (R232, R401, R403). -/
def execProxyInvalidate (field line : Nat) (s : State) : Host.Outcome State Fault Refusal := .next (s.invalProxy field line)

/-- L1_EVICTION: a line without pending bytes leaves a core's L1; with REPL it becomes a replica at its field's proxy (R403). -/
def execL1Eviction (core line : Nat) (repl : Bool) (s : State) : Host.Outcome State Fault Refusal :=
  match s.l1Line? core line with
  | none => .next s
  | some x =>
    if s.pend.any fun p => p.core == core && lineOf p.key == line then .next s
    else .next (s.evictL1 x repl)

/-- SLICE_EVICTION: a line leaves a slice, which one of those that hold it is free: the field's own copy of a LOCAL line (R388), a field's
replica, with no message to the home (R403), or its home slice, where its shadows are rounded (R96) and a dirty line goes to GDDR-7, or to
its vault cache part (R382). -/
def execSliceEviction (line : Nat) (toVault : Bool) (s : State) : Host.Outcome State Fault Refusal :=
  let s := { s with
    localHome := s.localHome.filter fun x => !(x.line == line && s.clocked x.core && s.someBit (1 + x.core))
    proxy := s.proxy.filter fun p => !(lineOf p.key == line && p.held.isNone && s.clocked p.field && s.someBit (5 + p.field) &&
      !s.proxy.any fun q => q.field == p.field && lineOf q.key == line && q.held.isSome) }
  if s.someBit 9 then .next s
  else
    match s.slices.find? fun d => d.line == line with
    | none => .next (s.roundShadows ((List.range 128).map (line * 128 + ·)))
    | some d => .next (if s.clocked (d.slice / 40) then s.evictDirty d toVault else s)

/-! ## The atomic service -/

/-- A request may be applied now: it may leave or has left its core, earlier requests of the warp to the line are applied (R243), so are the
core's stores that left ahead of it, to its line or to its field over its route (R235, R251), and every replica is gone (R401). -/
def State.mayAtom (s : State) (r : AtomReq) : Bool :=
  !r.applied && (r.peer || s.present r.dst) && (r.left != 0 || s.atomMayLeave r) &&
  ((s.areqs.takeWhile fun q => q.id != r.id).all fun q => q.applied || q.warp != r.warp || q.line != r.line) &&
  (let gone : AtomReq := if r.left = 0 then { r with left := 1, epoch := s.epochOf r.src } else r
   s.flights.all fun f => f.applied || f.lost || (r.left != 0 && decide (r.left ≤ f.id)) || !gone.inOrder f) &&
  !(r.leaving && s.readAhead r.core r.id fun k => lineOf k == r.line) &&
  !s.lineAway r.ctx r.dst r.line r.win r.handle && s.sharersOf r.line == 0

/-- Apply a request's accesses, in ascending lane order; its old values (R243, R247). -/
def State.atomAccs (s : State) (r : AtomReq) : State × List (Nat × Dword) :=
  (sortBy (fun a => a.lane) r.accs).foldl (fun (x : State × List (Nat × Dword)) a =>
    let y := x.1.atomicAt (fun _ => (r.slice, r.vcache)) r.fn r.wide a.key a.y.toNat a.z.toNat
    (y.1, x.2 ++ [(a.lane, BitVec.ofNat 64 y.2)])) (s, [])

/-- The cause of an ATOM that was not applied, or is lost (R210, R251): its destination is to read 0 in the request's lanes. -/
def AtomReq.cause (r : AtomReq) (w : Warp) (code : Nat) : AsyncCause :=
  let op := w.loads.find? fun o => o.id == r.op
  let lanes := maskOf fun i => r.accs.any fun a => a.lane == i
  let n := (op.map (·.nreg)).getD 1
  { op := r.op, ord := (op.map (·.ord)).getD 0, code := code, faddr := r.va, lane := ((r.accs.head?).map (·.lane)).getD 0,
    kind := .load, seq := r.seq, firstReg := r.dest, nreg := n, lanes := lanes,
    zero := (List.range n).map fun k => (r.dest + k, lanes), gmode := false, kept := false, wins := [], accs := [], buf := none }

/-- A request has been dealt with at its home: one whose reply is lost is over, a RED of its own field too; the others wait for
their reply. -/
def State.atomOver (s : State) (r : AtomReq) (olds : List (Nat × Dword)) : State :=
  if r.lost || (!r.returns && !r.leaving) then { s with areqs := s.areqs.filter fun q => q.id != r.id }.closeStore r.op
  else
    let put : AtomReq → AtomReq := fun q => { q with applied := true, appliedAt := s.fresh, olds := olds }
    let s := { s with areqs := mapWhere (fun q => q.id == r.id) put s.areqs }
    if r.returns then s else s.closeStore r.op

/-- A line that cannot be read takes no atomic: it is poisoned, and an ATOM reports it (R251). -/
def State.atomBad (s : State) (r : AtomReq) (code : Nat) : State :=
  let s := { s with poison := addNats s.poison [r.line] }
  let s := match s.warp? r.warp with
    | some w => if r.returns then s.addAsync r.warp (r.cause w code) else s
    | none => s
  s.atomOver r []

/-- Apply a request to its line. Its core reads beyond copies that are older from now on: its L1 line goes, and so do its own pending bytes and
the proxy's held bytes for it, where their stores are applied (R215, R244). -/
def State.atomGood (s : State) (r : AtomReq) : State :=
  let x := s.atomAccs r
  let s := x.1.noteDone r.warp
  let count : State → Dword → State := fun s h => if r.broken < 2 && !s.itemOpen r.op h r.id then s.countDst h else s
  let s := ((r.windows.map fun (x : Nat × Dword) => x.2).eraseDups).foldl count s
  let pass : Flight → Flight := fun f => { f with passed := addNats f.passed [r.warp] }
  let past : ProxyByte → ProxyByte := fun p => { p with past := addNats p.past [r.core] }
  let old : ProxyByte → Bool := fun p => p.held.any fun h => s.flights.all fun f => f.id != h || f.applied
  let s := { s with
    flights := mapWhere (fun f => f.core == r.core && f.line == r.line && f.applied) pass s.flights
    proxy := mapWhere (fun p => p.field == r.src && lineOf p.key == r.line && old p) past s.proxy
    l1 := s.l1.filter fun y => !(y.core == r.core && y.line == r.line) }
  s.atomOver r x.2

/-- The old value of a lane. -/
def AtomReq.old (r : AtomReq) (i : Nat) : Option Dword := (r.olds.find? fun (o : Nat × Dword) => o.1 == i).map fun (o : Nat × Dword) => o.2

/-- Write an ATOM's old values to its destinations. -/
def State.atomWrite (s : State) (r : AtomReq) : State :=
  s.modWarp r.warp fun w =>
    match w.loads.find? fun o => o.id == r.op with
    | none => w
    | some op =>
      let live := maskOf fun i => op.lanes.getLsbD i && (r.old i).isSome
      let val : Nat → Dword := fun i => (r.old i).getD 0
      w.writeRows live r.dest
        ((rowOf fun i => loWord (val i)) :: if r.wide then [rowOf fun i => hiWord (val i)] else [])

/-- The last return has been written: the ATOM leaves the loads class, and an acquire at FIELD scope or wider discards the core's
lines (R229, R244, R250). -/
def State.atomEnd (s : State) (r : AtomReq) : State :=
  if s.areqs.any fun q => q.op == r.op && !q.lost then s
  else
    let acq := (s.warp? r.warp).any fun w => w.loads.any fun o => o.id == r.op && o.acqScope.any fun c => decide (1 ≤ c.toNat)
    let s := s.finishLoad r.warp r.op
    if acq then s.invalL1 r.core else s

/-- An ATOM's reply may return now (R244, R399). -/
def State.mayReturn (s : State) (r : AtomReq) : Bool := r.applied && r.returns && !r.lost && (r.peer || !s.replyAhead r.core r.slice r.appliedAt)

/-- ATOMIC_RETURN (R244). -/
def execAtomicReturn (id : Nat) (s : State) : Host.Outcome State Fault Refusal :=
  match s.areqs.find? fun r => r.id == id with
  | none => .next s
  | some r =>
    if !s.mayReturn r then .next s
    else
      let s := s.atomWrite r
      .next ({ s with areqs := s.areqs.filter fun q => q.id != id }.atomEnd r)

/-! ## Lost stores and atomics (R417) -/

/-- The items of lost accesses that are discarded count nowhere any more (R236). -/
def State.breakItem (s : State) (op n : Nat) : State :=
  let put : Flight → Flight := fun f => { f with broken := max n f.broken }
  let putR : AtomReq → AtomReq := fun r => { r with broken := max n r.broken }
  { s with flights := mapWhere (fun f => f.op == op) put s.flights, areqs := mapWhere (fun r => r.op == op) putR s.areqs }

/-- LOSS_NOTICE: from now on the home discards the lost store. -/
def execLossNotice (id : Nat) (s : State) : Host.Outcome State Fault Refusal :=
  let ops := ((s.flights.filter fun f => f.id == id && f.lost).map (·.op)) ++ (s.areqs.filter fun r => r.id == id && r.lost).map (·.op)
  let s := { s with
    flights := s.flights.filter fun f => !(f.id == id && f.lost)
    areqs := s.areqs.filter fun r => !(r.id == id && r.lost) }
  .next (ops.foldl (fun s op => s.breakItem op 2) s)

end Sys2Proof.Machine
end

