-- ==== Sys2Proof/Machine/EvPage.lean ====
section
/-! DEFINITION. The events of pages: walks (R384, R390), invalidation (R392), the host's fills (R394), vault frames (R276) and vault
errors (R395, R396), with the error log (R433). An event that is not enabled changes nothing. -/

namespace Sys2Proof.Machine

open Sys2Proof

/-! ## Walks and fills -/

/-- Cache a leaf entry for a page of a context in a core's TLB of 512 entries, or in the field's shared one of 16,384, in place of one that is
cached there; a full TLB evicts an entry, which one is free (R390). -/
def State.cachePage (s : State) (c : Context) (core : Option Nat) (page : Nat) (p : Option Dword) : State :=
  let here_ : TlbEntry → Bool := fun e => e.field == c.field && e.core == core
  let rest := s.tlb.filter fun e => !(here_ e && e.ctx == c.ctxid && e.page == page)
  match p with
  | none => { s with tlb := rest }
  | some x =>
    let mine := rest.filter here_
    let rest := if mine.length < (if core.isSome then 512 else 16384) then rest
      else match mine[(s.someWord 60003).toNat % mine.length]? with
        | some e => rest.erase e
        | none => rest
    { s with tlb := rest ++ [{ field := c.field, core := core, ctx := c.ctxid, page := page, pte := x }] }

/-- A pending miss of a context's page. -/
def Miss.isFor (m : Miss) (f ctx page : Nat) : Bool := m.field == f && m.ctx == ctx && m.page == page && !m.answered

/-- The outcome of a miss serves every access that has joined it, and frees its entry: a leaf entry is cached in the shared TLB and in those of the
cores that wait for it, and where there is none each of them meets the fault for itself (R390, R394). -/
def State.serveMiss (s : State) (c : Context) (m : Miss) (p : Option Dword) : State :=
  let mine : Miss → Bool := fun x => x.isFor c.field c.ctxid m.page
  match p with
  | none =>
    let answer : Miss → Miss := fun x => { x with answered := true }
    { s with misses := mapWhere mine answer s.misses }
  | some _ =>
    let s : State := { s with misses := s.misses.filter fun x => !mine x }
    let cores := dedupNat (m.joined.filterMap fun u => (s.warp? u).map (·.core))
    cores.foldl (fun s n => s.cachePage c (some n) m.page p) (s.cachePage c none m.page p)

/-- The walk of a page that an access has missed (R384, R390). Where none has, an entry of the page leaves the TLB of a core of the field or the
shared one: which is free. -/
def State.walkPage (s : State) (c : Context) (va : Nat) : State :=
  let page := va / 2 ^ 12
  match s.misses.find? fun m => m.isFor c.field c.ctxid page with
  | some m =>
    let r := s.walkNow c va
    r.1.serveMiss c m r.2
  | none => s.cachePage c (if s.someBit 0 then some (40 * c.field + (s.someWord 1).toNat % 40) else none) page none

/-- PAGE_WALK: one walk for a page, however many accesses have missed it; a page that has left the TLBs is walked anew (R380, R384, R390). Under
host-assisted fill there are no walks (R393). -/
def execPageWalk (field ctx : Nat) (va : Dword) (s : State) : Host.Outcome State Fault Refusal :=
  match s.ctx? field ctx with
  | none => .next s
  | some c => .next (if c.modes.getLsbD 0 then s else s.walkPage c (va56 va))

/-- The host's entry is a leaf that some level may hold (R382, R383). -/
def State.fillOk (s : State) (c : Context) (p : Dword) : Bool :=
  let membytes := ((s.field? c.field).map (·.membytes)).getD 0
  let level := if pteSize p ≤ 1 then 0 else if pteSize p ≤ 3 then 1 else 2
  pteV p && pteLeaf p && !leafMalformed membytes c.vaultdir c.coremask level p

/-- The words of the host's answer. -/
def State.fillWords (s : State) (f ctx : Nat) (vpage pte : Dword) : State :=
  ([(0, loWord vpage), (4, hiWord vpage), (8, BitVec.ofNat 32 ctx), (16, loWord pte), (20, hiWord pte), (24, 1)] : List (Nat × Word)).foldl
    (fun s (x : Nat × Word) => s.setReg f (0x3100 + x.1) x.2) s

/-- FILL_RESPONSE: an answer to a pending miss is cached, or tells the warps that joined it that there is no valid entry; one that matches no
pending miss is discarded (R394), and so are the host's writes to a function that it does not reach (R418). -/
def execFillResponse (field ctx : Nat) (vpage pte : Dword) (s : State) : Host.Outcome State Fault Refusal :=
  match s.ctx? field ctx with
  | none => .next s
  | some c =>
    if !s.hostReach field then .next s
    else
      let s := s.fillWords field ctx vpage pte
      match s.misses.find? fun m => m.isFor field ctx (va56 vpage / 2 ^ 12) with
      | none => .next s
      | some m => .next (s.serveMiss c m (if s.fillOk c pte then some pte else none))

/-! ## Invalidation (R392) -/

/-- A page lies in a range. -/
def inRange (base log page : Nat) : Bool := decide (page * 2 ^ 12 < base + 2 ^ log) && decide (base < (page + 1) * 2 ^ 12)

/-- An access of a context through a translation in a range has neither completed nor been applied at its home: one of its warps, of a warp that
is gone, or of a unit; one that is lost may still come to its home (R417). -/
def State.usesRange (s : State) (f c base log : Nat) : Bool :=
  let at_ : Dword → Bool := fun a => inRange base log (va56 a / 2 ^ 12)
  ((s.ctxWarps f c).any fun w => !w.sq.isEmpty || w.loads.any fun op => op.pendingMem && op.accs.any fun a => at_ a.va) ||
  (s.flights.any fun g => g.src == f && g.ctx == c && (!g.applied || g.peer)) ||
  (s.areqs.any fun r => r.src == f && r.ctx == c && (!r.applied || r.peer)) ||
  s.mcReqs.any fun r => r.field == f && r.ctx == c && r.beats.any fun (b : Nat × Access) => at_ b.2.va

/-- INVALIDATE: the cached entries of the range go, once every access that has used one is over; the walks after it read the tables
as they are then. -/
def execInvalidate (field ctx : Nat) (va : Dword) (log : Nat) (s : State) : Host.Outcome State Fault Refusal :=
  if !s.hostReach field then .next s
  else
    let base := va56 va
    let s' := s.slotWords field 0x1100 1 [BitVec.ofNat 32 ctx, loWord va, hiWord va, BitVec.ofNat 32 log]
    if (s.ctx? field ctx).isNone ∨ log < 12 ∨ 56 < log ∨ base % 2 ^ log ≠ 0 ∨ !canonical va then .next (s'.setReg field 0x1120 2)
    else if s.usesRange field ctx base log then .next s
    else
      let gone : TlbEntry → Bool := fun e =>
        e.field == field && e.ctx == ctx && decide (e.page / 2 ^ (pageBits (pteSize e.pte) - 12) * 2 ^ pageBits (pteSize e.pte) < base + 2 ^ log) &&
        decide (base < (e.page / 2 ^ (pageBits (pteSize e.pte) - 12) + 1) * 2 ^ pageBits (pteSize e.pte))
      let late : Miss → Bool := fun m => m.field == field && m.ctx == ctx && m.answered && inRange base log m.page
      .next ({ s' with tlb := s'.tlb.filter (fun e => !gone e), misses := s'.misses.filter fun m => !late m }.setReg field 0x1120 0)

/-! ## Vault frames (R276) -/

/-- The position of a frame among the directly addressed frames of a context's partition, if it is one of them. -/
def Context.framePos (c : Context) (frame : Nat) : Option Nat :=
  let column := frame / 512
  let k := frame % 512
  if !c.columns.contains column ∨ 16 * c.vaultdir ≤ k then none
  else some ((c.columns.takeWhile fun n => n != column).length * (16 * c.vaultdir) + k)

/-- The keys of a frame, and of its copy in a context's BACKING. -/
def frameKeys (f frame : Nat) : List Nat := (List.range 65536).map fun i => physKey 1 f (frame * 65536 + i)
def Context.backKeys (c : Context) (pos : Nat) : List Nat := (List.range 65536).map fun i => physKey 0 c.field (c.backing.toNat + 65536 * pos + i)

/-- The frame's record; one that no context has touched is clean and has no owner. -/
def State.frameOf (s : State) (f frame : Nat) : VFrame :=
  (s.frames.find? fun x => x.field == f && x.frame == frame).getD { field := f, frame := frame, owner := 0, clean := true, out := [] }

def State.putFrame (s : State) (x : VFrame) : State :=
  { s with frames := s.frames.filter (fun y => !(y.field == x.field && y.frame == x.frame)) ++ [x] }

/-- What the part holds for itself in a range of 64 KiB, at another place (log 87). -/
def movedRanges (rs : List (Nat × Nat)) (src dst : Nat) : List (Nat × Nat) :=
  (cutRanges (cutRanges rs 0 src) (src + 65536) (src + 2 ^ 64)).map fun (r : Nat × Nat) => (r.1 - src + dst, r.2 - src + dst)

/-- Copy bytes between places, unless a line of the source cannot be read: the cause. -/
def State.moveFrame (s : State) (src dst : List Nat) : Except Nat State :=
  match s.lineFault (dedupNat (src.map lineOf)) with
  | some code => .error code
  | none =>
    let own := movedRanges s.ownRanges (src.headD 0) (dst.headD 0)
    let r := s.engineRead src
    let s := r.1.engineWrite (dst.zip r.2)
    .ok { s with ownRanges := s.ownRanges ++ own }

/-- No copy of a frame's lines is left outside it: the next reader is another context (R276). -/
def State.dropFrame (s : State) (f frame : Nat) : State :=
  let mine : Nat → Bool := fun l => keyTarget (l * 128) == 1 && keyField (l * 128) == f && keyPa (l * 128) / 65536 == frame
  { s with
    l1 := s.l1.filter fun x => !mine x.line
    localHome := s.localHome.filter fun x => !mine x.line
    proxy := s.proxy.filter fun p => !(mine (lineOf p.key) && p.held.isNone) }

/-- The owner's bytes of a frame that is not clean go to its BACKING; if they cannot be read their context is killed. -/
def State.frameOut (s : State) (x : VFrame) : State :=
  match s.ctx? x.field x.owner with
  | none => s
  | some o =>
    match o.framePos x.frame with
    | none => s
    | some pos =>
      if x.clean then s
      else
        match s.moveFrame (frameKeys x.field x.frame) (o.backKeys pos) with
        | .error code => s.partKill x.field x.owner code
        | .ok s => s.putFrame { x with out := if x.out.contains x.owner then x.out else x.owner :: x.out }

/-- The toucher's bytes come into a frame: from its BACKING, or zeros. -/
def State.frameIn (s : State) (c : Context) (frame pos : Nat) : State :=
  let x := s.frameOf c.field frame
  let s' := if x.out.contains c.ctxid then s.moveFrame (c.backKeys pos) (frameKeys c.field frame)
    else .ok (s.engineWrite ((frameKeys c.field frame).map fun k => (k, 0)))
  match s' with
  | .error code => s.partKill c.field c.ctxid code
  | .ok s => (s.dropFrame c.field frame).putFrame { x with owner := c.ctxid, clean := true }

/-- FRAME_COPY_ON_WRITE: a context takes over a frame that it does not own. -/
def execFrameCopyOnWrite (field frame ctx : Nat) (s : State) : Host.Outcome State Fault Refusal :=
  match s.ctx? field ctx with
  | none => .next s
  | some c =>
    let x := s.frameOf field frame
    match c.framePos frame with
    | none => .next s
    | some pos =>
      if x.owner = ctx ∨ !s.vaultOnline field (frame / 512) then .next s
      else .next ((s.frameOut x).frameIn c frame pos)

/-! ## The error log (R433) -/

/-- Append an entry to the error log. -/
def State.logError (s : State) (kind field unit addr : Nat) : State :=
  let n := s.errorCount.toNat
  let e := leBytes 1 kind ++ leBytes 1 field ++ leBytes 2 unit ++ leBytes 8 addr ++ leBytes 4 (n + 1)
  let slot := n % 64
  { s with errorLog := (s.errorLog ++ List.replicate (64 - s.errorLog.length) (leBytes 16 0)).set slot e, errorCount := s.errorCount + 1 }

/-! ## Vault errors (R395, R396) -/

/-- A place of directly addressed vault storage lies in a column of a field. -/
def inVault (f column k : Nat) : Bool := keyTarget k == 1 && keyField k == f && keyPa k / 2 ^ 25 == column

/-- A page of a range of addresses lies in a column (log 135). -/
def State.pagesInVault (s : State) (c : Context) (column lo n : Nat) : Bool :=
  n != 0 && (List.range ((lo % 4096 + n - 1) / 4096 + 1)).any fun i =>
    let a : Dword := BitVec.ofNat 64 ((lo / 4096 + i) * 4096)
    (s.leafNow c a).any fun p => pteTarget p == 1 && (ptePfn p * 2 ^ 12 + va56 a % 2 ^ pageBits (pteSize p)) / 2 ^ 25 == column

/-- A slot of one of a graph's Saggars lies in a column: the resource's number. -/
def State.slotInVault (s : State) (g : Graph) (column : Nat) : Option Nat :=
  match s.ctx? g.field g.ctx with
  | none => none
  | some c =>
    (List.range g.ress.length).find? fun r =>
      let b := g.res r
      rsSaggar b && (s.pagesInVault c column (rsBase b) (rsBytes b * rsSlots b) ||
        s.pagesInVault c column (rsOverflow b) (rsBytes b * rsOslots b))

/-- A block of a graph has a slot table in a column's spawn memory. -/
def State.tableInVault (s : State) (g : Graph) (column : Nat) : Bool :=
  s.blocks.any fun b => fieldOfCore b.core == g.field && b.state != .retired && (b.tile.any fun t => t.graph == g.uid) && !(b.tables column).isEmpty

/-- VAULT_LOST for a graph, which is abandoned; the address for a slot table is left open (R396). -/
def State.loseGraph (s : State) (g : Graph) (r : Option Nat) : State :=
  let a := match r with
    | some r => g.ressAddr + BitVec.ofNat 64 (32 * r)
    | none => pairOf (s.someWord 0) (s.someWord 1)
  (s.kilnRecord g.field g.ctx 36 a).abandonGraph g

/-- The graphs that the loss of a vault ends. -/
def State.lostGraphs (s : State) (f column : Nat) : List (Graph × Option Nat) :=
  s.graphs.filterMap fun g =>
    if g.field ≠ f then none
    else
      match s.slotInVault g column with
      | some r => some (g, some r)
      | none => if s.tableInVault g column then some (g, none) else none

/-- A block has its save image, or holds part of its JOIN image, in a column (R275, R310). -/
def State.hasImage (s : State) (b : Block) (f column : Nat) : Bool :=
  (fieldOfCore b.core == f && b.core % 40 == column && b.state == .saved) ||
  s.spawn.any fun h => h.field == f && h.column == column && h.owner == .image b.uid

/-- The contexts with a save image or a JOIN image in a column. -/
def State.imageCtxs (s : State) (f column : Nat) : List Nat :=
  (s.contexts.filter fun c => c.field == f && s.blocks.any fun b =>
    s.hasImage b f column && (s.launch? b.launch).any fun l => l.field == f && l.ctx == c.ctxid).map (·.ctxid)

/-- The lines of a column that accesses on their way have yet to read, the loads', the atomics' and the multicasts': the accesses that find the
error. -/
def State.foundLines (s : State) (f column : Nat) : List Nat :=
  let loads := s.warps.flatMap fun w => (w.loads.filter fun op => op.pendingMem).flatMap fun op => op.accs.flatMap fun a => a.lines op.size
  let atoms := (s.areqs.filter fun r => !r.applied).map (·.line)
  let beats := s.mcReqs.flatMap fun r => r.beats.map fun (b : Nat × Access) => lineOf b.2.key
  (loads ++ atoms ++ beats).filter fun l => inVault f column (l * 128)

/-- A loop whose next step reads the vault may be what found the error: it then stops as at an uncorrectable line (R261). -/
def State.loopsFound (s : State) : State :=
  (dedupNat (s.engine.map (·.core))).foldl (fun s n =>
    match s.nextLoop n with
    | none => s
    | some (e, l) =>
      match s.stepOf e l with
      | .error x => if x.1 = 36 ∧ s.someBit (63000 + n % 1000) then s.stopLoop e l (31, x.2) else s
      | .ok _ => s) s

/-- A vault goes offline. Which vault's cache part holds a dirty line is the part's own. -/
def State.vaultOffline (s : State) (f column : Nat) : State :=
  let graphs := s.lostGraphs f column
  let ctxs := s.imageCtxs f column
  let bad := s.foundLines f column
  let here_ := s.vaultDirty.zipIdx.filter fun (d : DirtyLine × Nat) => d.1.slice / 40 == f && s.someBit (2 + d.2)
  let lines := here_.map fun (d : DirtyLine × Nat) => d.1.line
  let s : State := { s with
    badLines := addNats s.badLines bad
    poison := addNats s.poison lines
    vaultDirty := s.vaultDirty.filter fun d => !lines.contains d.line }
  let s := (s.modField f fun x => { x with vaultmask := x.vaultmask &&& ~~~(1#40 <<< column) }).loopsFound
  let s := (graphs.foldl (fun s (x : Graph × Option Nat) => s.loseGraph x.1 x.2) s).logError 3 f column 0
  ctxs.foldl (fun s c => s.partKill f c 36) s

/-- An access to a vault consults its remap table: an uncorrectable copy is rewritten from the other, which is logged; where both are, the vault
goes offline (R395). -/
def State.consultRemap (s : State) (f column : Nat) : State :=
  let bit : BitVec 40 := 1#40 <<< column
  match (s.field? f).map fun x => (x.remapBad.getLsbD column, x.mirrorBad.getLsbD column) with
  | none => s
  | some (true, true) => s.vaultOffline f column
  | some (false, false) => s
  | some _ => (s.modField f fun x => { x with remapBad := x.remapBad &&& ~~~bit, mirrorBad := x.mirrorBad &&& ~~~bit }).logError 2 f column 0

/-- VAULT_ECC_ERROR: an access finds an uncorrectable error in one copy of a vault's remap table, which one is free, or in both. -/
def execVaultEccError (field vault : Nat) (both : Bool) (s : State) : Host.Outcome State Fault Refusal :=
  if !s.present field ∨ !s.vaultOnline field vault then .next s
  else
    let bit : BitVec 40 := 1#40 <<< vault
    let spoil : Field → Field := fun x =>
      { x with
        remapBad := if both || s.someBit 0 then x.remapBad ||| bit else x.remapBad
        mirrorBad := if both || !s.someBit 0 then x.mirrorBad ||| bit else x.mirrorBad }
    .next ((s.modField field spoil).consultRemap field vault)

end Sys2Proof.Machine
end

