-- ==== Sys2Proof/Machine/EvLink.lean ====
section
/-! DEFINITION. The link: routes (R415), flits and crossings (R410 to R417), what is lost with a crossing (R237, R251), handles and windows
(R420 to R425), peer modules (R427) and the host's accesses (R284, R419, R426). An event that is not enabled changes nothing. -/

namespace Sys2Proof.Machine

open Sys2Proof

/-! ## Routes (R6, R415) -/

def State.crossing? (s : State) (i : Nat) : Option Crossing := s.crossings.find? fun c => c.index == i

/-- A crossing carries traffic: UP or DEGRADED. -/
def State.crossingUp (s : State) (i : Nat) : Bool := (s.crossing? i).any fun c => c.cstate == 2 || c.cstate == 3

/-- The crossing between two neighbouring fields: 0 F0-F1, 1 F2-F3, 2 F0-F2, 3 F1-F3. -/
def linkOf (f g : Nat) : Nat := if f ^^^ g = 1 then f / 2 else 2 + f % 2

/-- Two neighbouring fields are present and the crossing between them works. -/
def State.linked (s : State) (f g : Nat) : Bool := s.present f && s.present g && s.crossingUp (linkOf f g)

/-- The neighbour through which a field's traffic to another goes. -/
def State.hop (s : State) (f g : Nat) : Option Nat :=
  let h := f ^^^ 1
  let v := f ^^^ 2
  if f ^^^ g = 3 then
    if s.linked f h && s.linked h g then some h else if s.linked f v && s.linked v g then some v else none
  else if s.linked f g then some g
  else
    let e := 3 - (f ^^^ g)
    if s.linked f (f ^^^ e) && s.linked (f ^^^ e) (g ^^^ e) && s.linked (g ^^^ e) g then some (f ^^^ e) else none

/-- A field's route table: a crossing's number + 1 for each other field, 0 for none. -/
def State.routesOf (s : State) (f : Nat) : Vector Nat 4 :=
  Vector.ofFn fun g => if g.val = f then 0 else match s.hop f g.val with
    | some h => linkOf f h + 1
    | none => 0

/-- The crossings that traffic from a field to another passes, by the tables of the fields it passes. -/
def State.path (s : State) : Nat → Nat → Nat → List Nat
  | 0, _, _ => []
  | n + 1, f, g =>
    if f = g then []
    else
      match (s.field? f).bind fun x => x.route[g]? with
      | none => []
      | some 0 => []
      | some (c + 1) =>
        match s.crossing? c with
        | none => []
        | some x => c :: s.path n (if x.fa = f then x.fb else x.fa) g

/-- Traffic between two fields passes a crossing. -/
def State.passes (s : State) (f g c : Nat) : Bool := (s.path 4 f g).contains c

/-- The route between two fields has changed, one way or the other. -/
def State.rerouted (s old : State) (f g : Nat) : Bool := s.path 4 f g != old.path 4 f g || s.path 4 g f != old.path 4 g f

/-- Every field installs its new table and raises its EPOCH (R416). Where the route between two fields has changed, the proxies of either
discard their replicas of lines homed in the other; the homes keep their masks (R405). -/
def State.reroute (s : State) : State :=
  let put : Field → Field := fun x => { x with route := s.routesOf x.number, epoch := (x.epoch + 1) % 256 }
  let t := { s with fields := s.fields.map put }
  { t with proxy := t.proxy.filter fun p => p.held.isSome || !t.rerouted s p.field p.home }

/-! ## Lost stores and atomics (R233, R237, R251) -/

/-- Where a warp's cause that it can no longer report goes (R237). -/
def State.recordLost (s : State) (f c u : Nat) (t : Trap) : State :=
  let at_ := match s.warp? u with
    | some w => (w.core, w.slot)
    | none => (0xFFFF, 0xFF)
  s.hostRecord f c t.word t.faddr 0 at_.1 at_.2

/-- The cause of a lost store; a further access of the same store adds its window. -/
def Warp.addLost (w : Warp) (op code seq lane : Nat) (va : Dword) (gmode kept : Bool) (win : Option Nat) : Warp :=
  let mine : AsyncCause → Bool := fun a => a.op == op && a.kind == .store
  if w.asyncs.any mine then
    let more : AsyncCause → AsyncCause := fun a => { a with kept := a.kept || kept, wins := addNats a.wins win.toList }
    { w with asyncs := mapWhere mine more w.asyncs }
  else
    let ord := ((w.stores.find? fun o => o.id == op).map (·.ord)).getD 0
    let a : AsyncCause :=
      { op := op, ord := ord, code := code, faddr := va, lane := lane, kind := .store, seq := seq, firstReg := 0, nreg := 0, lanes := 0,
        zero := [], gmode := gmode, kept := kept, wins := win.toList, accs := [], buf := none }
    { w with asyncs := w.asyncs ++ [a] }

/-- The later entries of a warp to a line wait for the report of a lost .G store. -/
def Warp.holdBehind (w : Warp) (op line : Nat) : Warp :=
  if w.lostOps.any fun (l : Nat × List Nat) => l.1 == op then
    let more : Nat × List Nat → Nat × List Nat := fun l => (l.1, line :: l.2)
    { w with lostOps := mapWhere (fun (l : Nat × List Nat) => l.1 == op) more w.lostOps }
  else { w with lostOps := w.lostOps ++ [(op, [line])] }

/-- A SIGNAL's write: its instance, if a graph waits for it. -/
def State.signalOf (s : State) (op : Nat) : Option (Nat × Nat) :=
  s.graphs.findSome? fun g =>
    (g.insts.find? fun i => i.copy == op && i.state == .started && ndKind (g.node i.node) == 5).map fun i => (g.uid, i.index)

/-- A SIGNAL whose acknowledgement is lost is sent again, as a store of its own, over the route of now; where none remains, LINK_DOWN is recorded and
it completes (R323, R237, log 93). -/
def State.resignal (s : State) (f : Flight) (g k : Nat) : State :=
  if s.reachable f.src f.dst && s.reachable f.dst f.src then
    let op := s.nextUid
    let fl : Flight := { f with
      id := op + 1, op := op, core := 65536 + op, applied := false, accepted := [], epoch := s.epochOf f.src, lost := false, broken := 0 }
    ({ s with nextUid := op + 2, flights := s.flights ++ [fl] } : State).modGraph g fun x => x.modInst k fun i => { i with copy := op }
  else (s.kilnRecord f.src f.ctx 35 f.va).instDone g k 0

/-- A lost access of a unit of the part other than a SIGNAL: a copy and a drain fault (R264, R417, log 137), and any other is recorded for its
context. -/
def State.loseFor (s : State) (op src ctx code : Nat) (va : Dword) : State :=
  if s.copies.any fun r => r.id == op then
    let fail : CopyRun → CopyRun := fun r => { r with fault := some (r.fault.getD va) }
    { s with copies := mapWhere (fun r => r.id == op) fail s.copies }
  else if s.engine.any fun e => e.id == op then s.modJob op fun e => { e with fault := some (e.fault.getD va.toNat) }
  else s.kilnRecord src ctx code va

/-- A lost line access of a unit of the part: a SIGNAL's goes out again. -/
def State.loseUnit (s : State) (f : Flight) (code : Nat) : State :=
  match s.signalOf f.op with
  | some (g, k) => s.resignal f g k
  | none => s.loseFor f.op f.src f.ctx code f.va

/-- A lost atomic request of a unit of the part: a SIGNAL's add is recorded, and the SIGNAL completes (log 93). -/
def State.loseUnitAtom (s : State) (r : AtomReq) (code : Nat) : State :=
  match s.signalOf r.op with
  | some (g, k) => (s.kilnRecord r.src r.ctx code r.va).instDone g k 0
  | none => s.loseFor r.op r.src r.ctx code r.va

/-- A store's line access is lost. One that its home has applied, or that will never arrive, is gone; the home may still apply another. -/
def State.loseFlight (s : State) (f : Flight) (code : Nat) (arrives : Bool) : State :=
  let keys := (s.pend.filter fun p => p.flight == f.id).map (·.key)
  let gone := f.applied || !arrives
  let lose : Flight → Flight := fun g => { g with lost := true }
  let s := State.unhold { (s.cutL1 f.core keys) with
    flights := if gone then s.flights.filter fun g => g.id != f.id else mapWhere (fun g => g.id == f.id) lose s.flights
    pend := s.pend.filter fun p => p.flight != f.id } f
  let s := (s.breakItem f.op (if f.applied then 1 else if arrives then 1 else 2)).closeStore f.op
  let t : Trap := { Trap.at code f.va f.lane with async := true }
  match s.warp? f.warp with
  | some w =>
    if w.mode = .ended then s.recordLost f.src f.ctx f.warp t
    else
      s.modWarp f.warp fun w =>
        let w := w.addLost f.op code f.seq f.lane f.va f.gmode f.kept f.win
        if f.gmode then w.holdBehind f.op f.line else w
  | none => if f.warp = 0 then s.loseUnit f code else s.recordLost f.src f.ctx f.warp t

/-- An atomic is lost (R251): an ATOM's destinations are to read 0, and a RED is reported as a store is. -/
def State.loseAtom (s : State) (r : AtomReq) (code : Nat) (arrives : Bool) : State :=
  let gone := r.applied || !arrives
  let lose : AtomReq → AtomReq := fun q => { q with lost := true }
  let s := { s with areqs := if gone then s.areqs.filter fun q => q.id != r.id else mapWhere (fun q => q.id == r.id) lose s.areqs }
  let s := (s.breakItem r.op (if gone && !r.applied then 2 else 1)).closeStore r.op
  let lane := ((r.accs.head?).map (·.lane)).getD 0
  match s.warp? r.warp with
  | none => if r.warp = 0 then s.loseUnitAtom r code else if r.returns then s else s.recordLost r.src r.ctx r.warp { Trap.at code r.va lane with async := true }
  | some w =>
    if r.returns then (s.addAsync r.warp (r.cause w code)).atomEnd r
    else if w.mode = .ended then s.recordLost r.src (s.ctxidOf w) r.warp { Trap.at code r.va lane with async := true }
    else s.modWarp r.warp fun w => w.addLost r.op code r.seq lane r.va true false r.win

/-! ## Stores and atomics at their homes -/

/-- A transaction that its field holds back, because no path leads to its home (R416). It is lost once its turn comes (R237, log 138). -/
def State.stranded (s : State) (leaving peer : Bool) (src dst : Nat) : Bool := leaving && !peer && !s.reachable src dst

/-- STORE_APPLY: a line access is accepted and applied, or leaves the module (R225, R427); one that no path can carry is lost. -/
def execStoreApply (id : Nat) (s : State) : Host.Outcome State Fault Refusal :=
  match s.flight? id with
  | none => .next s
  | some f =>
    if !f.applied && !f.lost && s.stranded f.leaving f.peer f.src f.dst then .next (s.loseFlight f 35 false).settleMoved
    else if !s.mayApply f then .next s
    else .next (s.applyFlight f).settleMoved

/-- ATOMIC_APPLY: one request, whole (R243). A request to a peer module leaves the module (R427), one through a handle that is no longer live is
dropped (R424), and one that no path can carry is lost. -/
def execAtomicApply (id : Nat) (s : State) : Host.Outcome State Fault Refusal :=
  match s.areqs.find? fun r => r.id == id with
  | none => .next s
  | some r =>
    if !r.applied && !r.lost && s.stranded r.leaving r.peer r.src r.dst then .next (s.loseAtom r 35 false).settleMoved
    else if !s.mayAtom r then .next s
    else if r.peer then .next ((s.atomOver r []).doorbell r.src r.id r.handle).settleMoved
    else
      let live : AtomReq := { r with accs := r.accs.filter fun a => a.win.isNone || s.handleLive a.handle }
      if live.accs.isEmpty then .next (s.atomOver r []).settleMoved
      else
        match s.lineFault [r.line] with
        | some code => .next (s.atomBad live code).settleMoved
        | none => .next (s.atomGood live).settleMoved

/-! ## The failure of a crossing (R416, R417) -/

/-- Fields that can no longer be reached hold back no handle, and get no notice (R424). -/
def State.settleHandles (s : State) : State :=
  let cut : Handle → Handle := fun h => { h with drains := h.drains.filter fun g => s.reachable h.field g && s.reachable g h.field }
  let s : State := { s with
    handles := s.handles.map cut
    notices := s.notices.filter fun n => s.reachable (handleField n.handle) n.field && s.reachable n.field (handleField n.handle) }
  (s.handles.foldl (fun s h => s.freeEntry h.field h.index) s).settleDestroys

/-- What becomes of a transaction that was on the crossing. -/
inductive Fate where
  | keeps
  | again
  | lost
  | cut
  deriving DecidableEq, Repr

/-- The fate of a transaction from one field to another: `old` is the machine before the failure, `far` that the two ends still reach each
other, and `taken` that the far end of the crossing accepted it, or that its home has applied it. -/
def State.fate (s old : State) (c : Nat) (far taken : Bool) (src dst : Nat) : Fate :=
  if taken then (if old.passes src dst c || old.passes dst src c then .lost else .keeps)
  else if !old.passes src dst c then .keeps
  else if !far then .lost
  else if s.reachable src dst then .again else .cut

/-- A store's line access after the failure. -/
def State.refly (s old : State) (c : Nat) (far : Bool) (f : Flight) : State :=
  if !f.leaving || f.peer || f.lost || f.src == f.dst then s
  else
    match s.fate old c far (f.accepted.contains c || f.applied) f.src f.dst with
    | .keeps => s
    | .again =>
      let again : Flight → Flight := fun g => { g with epoch := ((s.field? f.src).map (·.epoch)).getD 0 }
      { s with flights := mapWhere (fun g => g.id == f.id) again s.flights }
    | .lost => s.loseFlight f (if f.gmode then 33 else 35) true
    | .cut => s.loseFlight f 35 false

/-- An atomic request after the failure. -/
def State.reatom (s old : State) (c : Nat) (far : Bool) (r : AtomReq) : State :=
  if !r.leaving || r.peer || r.lost || r.src == r.dst then s
  else
    match s.fate old c far (r.accepted.contains c || r.applied) r.src r.dst with
    | .keeps => s
    | .again =>
      let again : AtomReq → AtomReq := fun q => { q with epoch := ((s.field? r.src).map (·.epoch)).getD 0 }
      { s with areqs := mapWhere (fun q => q.id == r.id) again s.areqs }
    | .lost => s.loseAtom r 35 true
    | .cut => s.loseAtom r 35 false

/-- The crossing is FAILED: the fields' LINKS and tables change, and what was on it is sent again or lost. -/
def State.failCrossing (s : State) (i : Nat) : State :=
  match s.crossing? i with
  | none => s
  | some x =>
    if x.cstate = 4 then s
    else
      let down : Crossing → Crossing := fun y => { y with cstate := 4 }
      let unlink : Field → Field := fun y =>
        if y.number = x.fa then { y with links := y.links &&& ~~~(1#4 <<< x.fb) }
        else if y.number = x.fb then { y with links := y.links &&& ~~~(1#4 <<< x.fa) } else y
      let s' := State.reroute { s with crossings := mapWhere (fun y => y.index == i) down s.crossings, fields := s.fields.map unlink }
      let far := s'.reachable x.fa x.fb && s'.reachable x.fb x.fa
      let s' := s.flights.foldl (fun t f => t.refly s i far f) s'
      (s.areqs.foldl (fun t r => t.reatom s i far r) s').settleMoved.settleHandles

/-- CROSSING_FAILURE. -/
def execCrossingFailure (crossing : Nat) (s : State) : Host.Outcome State Fault Refusal :=
  .next (if s.crossingUp crossing then s.failCrossing crossing else s)

/-! ## Flits (R412, R413) -/

/-- One bit of a CRC-64 over the ECMA-182 polynomial, most significant bit first. -/
def crcBit (crc : Nat) (bit : Bool) : Nat :=
  let out := xor (bitOf crc 63) bit
  if out then (crc * 2 % 2 ^ 64) ^^^ 0x42F0E1EBA9EA3693 else crc * 2 % 2 ^ 64

/-- The CRC of some bytes: initial value 0, and neither reflected nor complemented (log 78). -/
def crc64 (bytes : List Byte) : Nat :=
  bytes.foldl (fun c (b : Byte) => ([7, 6, 5, 4, 3, 2, 1, 0] : List Nat).foldl (fun c i => crcBit c (b.getLsbD i)) c) 0

/-- A packet of a payload: its VC, OP, source and destination, LEN and ADDR. -/
structure FlitPacket where
  vc : Nat
  op : Nat
  src : Nat
  dst : Nat
  len : Nat
  addr : Nat
  deriving DecidableEq, Repr

/-- The packets of a payload, up to a header of zeros or its end. -/
def flitPackets : Nat → List Byte → List FlitPacket
  | 0, _ => []
  | n + 1, b =>
    if b.length < 16 ∨ (b.take 16).all fun x => x == 0 then []
    else
      { vc := recNat b 0 1, op := recNat b 1 1, src := recNat b 2 1, dst := recNat b 3 1, len := recNat b 6 1, addr := recNat b 8 8 } ::
        flitPackets n (b.drop (16 + recNat b 6 1))

/-- A packet has a reserved value. -/
def FlitPacket.bad (p : FlitPacket) : Bool := decide (10 < p.op) || decide (8 < p.vc) || decide (128 < p.len)

def flType (b : List Byte) : Nat := recNat b 0 1
def flCtl (b : List Byte) : Nat := recNat b 1 1
def flSeq (b : List Byte) : Nat := recNat b 2 2
def flAck (b : List Byte) : Nat := recNat b 4 2

/-- A flit breaks the table of R412, its SEQ aside. -/
def flitBad (b : List Byte) : Bool :=
  decide (b.length ≠ 256) || decide (recNat b 248 8 ≠ crc64 (b.take 248)) || decide (2 < flType b) ||
  decide (flCtl b ≠ 0 ∧ (flType b ≠ 2 ∨ 1 < flCtl b)) || decide (flType b ≠ 1 ∧ flSeq b ≠ 0) || decide (recNat b 6 2 ≠ 0) ||
  decide (recNat b 8 8 / 2 ^ 36 ≠ 0) || ((flitPackets 16 ((b.drop 16).take 232)).any FlitPacket.bad)

/-- The sequence state of a module in a direction, 0 from the crossing's first field. -/
def Crossing.seq (c : Crossing) (dir modul : Nat) : FlitSeq :=
  (c.seqs.find? fun q => q.dir == dir && q.modul == modul).getD
    { dir := dir, modul := modul, nextSend := 0, expect := 0, acked := 0, replay := [], again := none, moved := [], nackDue := false, nacks := 0,
      credits := Vector.replicate 9 0 }

def Crossing.putSeq (c : Crossing) (q : FlitSeq) : Crossing :=
  { c with seqs := c.seqs.filter (fun x => !(x.dir == q.dir && x.modul == q.modul)) ++ [q] }

def State.modCrossing (s : State) (i : Nat) (g : Crossing → Crossing) : State :=
  { s with crossings := mapWhere (fun c => c.index == i) g s.crossings }

/-- A module of a crossing carries flits: it is healthy, and lane repair is not at work on it (R414). -/
def State.carries (s : State) (crossing dir modul : Nat) : Option Crossing :=
  match s.crossing? crossing with
  | none => none
  | some c =>
    if !s.crossingUp crossing ∨ 1 < dir ∨ 16 ≤ modul ∨ !c.healthy.getLsbD modul ∨ c.repairing.getLsbD modul then none else some c

def flPayload (b : List Byte) : List Byte := (b.drop 16).take 232

/-- Two flits carry the same packets; one whose packets are not known may be any (log 139). -/
def sameLoad (kept b : List Byte) : Bool := kept.isEmpty || flPayload kept == flPayload b

/-- The kept flits with one more of them known. -/
def keptAs (replay : List (List Byte)) (i : Nat) (b : List Byte) : List (List Byte) := replay.zipIdx.map fun x => if x.2 = i then b else x.1

/-- The sender after a flit that it may send now, none for one that it does not send: a kept flit that it sends again, in order (R413), else a new
one, which stands first for what was kept for a module that is disabled (R414). Every data flit is kept until it is acknowledged. -/
def FlitSeq.sent (q : FlitSeq) (b : List Byte) : Option FlitSeq :=
  if flType b ≠ 1 then some q
  else
    match q.again with
    | some i =>
      if flSeq b = (q.acked + i) % 2 ^ 16 ∧ sameLoad (q.replay.getD i []) b then
        some { q with again := if i + 1 < q.replay.length then some (i + 1) else none, replay := keptAs q.replay i b }
      else none
    | none =>
      if flSeq b = q.nextSend ∧ (q.moved.head?).all (sameLoad · b) then
        some { q with nextSend := (q.nextSend + 1) % 2 ^ 16, replay := q.replay ++ [b], moved := q.moved.drop 1 }
      else none

/-- The sender after a flit that has not come through. What it was is left open: a data flit or not (log 139). -/
def FlitSeq.sentBad (q : FlitSeq) (data : Bool) : FlitSeq :=
  if !data then q
  else
    match q.again with
    | some i => { q with again := if i + 1 < q.replay.length then some (i + 1) else none }
    | none => { q with nextSend := (q.nextSend + 1) % 2 ^ 16, replay := q.replay ++ [(q.moved.head?).getD []], moved := q.moved.drop 1 }

/-- The sender drops the flits that an ACKSEQ passes. -/
def FlitSeq.ackedTo (q : FlitSeq) (a : Nat) : FlitSeq :=
  let n := (a + 2 ^ 16 - q.acked) % 2 ^ 16
  if n ≤ q.replay.length ∧ 0 < n then
    { q with acked := a, replay := q.replay.drop n, nacks := 0, again := if n < q.replay.length then q.again.map (· - n) else none }
  else q

/-- The sender takes the credits that a flit returns, by channel. -/
def FlitSeq.credited (q : FlitSeq) (b : List Byte) : FlitSeq :=
  { q with credits := Vector.ofFn fun c => q.credits[c] + recNat b 8 8 / 16 ^ c.val % 16 }

/-- A negative acknowledgement comes to the sender: it sends again from ACKSEQ. -/
def FlitSeq.refused (q : FlitSeq) (a : Nat) : FlitSeq :=
  let x := q.ackedTo a
  { x with nacks := if x.acked = q.acked then q.nacks + 1 else 1, again := if x.replay.isEmpty then none else some 0, nackDue := false }

/-- A negative acknowledgement comes to the sender of a direction; the eighth in a row for one SEQ starts lane repair on the module (R413). -/
def State.nack (s : State) (crossing dir modul ack : Nat) : State :=
  s.modCrossing crossing fun c =>
    let q := (c.seq dir modul).refused ack
    let c := c.putSeq q
    if 8 ≤ q.nacks then { c with repairing := c.repairing ||| (1#16 <<< modul) } else c

/-- The packets of one source router and class go over one module (R413). -/
def laneKey (p : FlitPacket) : Nat := p.src * 3 + p.vc / 3

/-- A packet may go over a module: its source router and class use no other. -/
def Crossing.laneFits (c : Crossing) (modul : Nat) (p : FlitPacket) : Bool := c.lanes.all fun (x : Nat × Nat) => x.1 != laneKey p || x.2 == modul

def Crossing.useLane (c : Crossing) (modul : Nat) (p : FlitPacket) : Crossing :=
  if c.lanes.any fun (x : Nat × Nat) => x.1 == laneKey p then c else { c with lanes := (laneKey p, modul) :: c.lanes }

/-- The far end of a crossing has accepted a packet: the oldest access on its way that it can stand for is accepted there (R237). -/
def State.takePacket (s : State) (cr : Nat) (p : FlitPacket) : State :=
  let f := p.src / 64
  let g := p.dst / 64
  let fits : Flight → Bool := fun x =>
    x.src == f && x.dst == g && !x.accepted.contains cr && !x.applied && x.leaving && !x.peer && x.gmode == (p.op == 2) && s.passes f g cr &&
    (if x.win.isSome then handleEntry x.handle == p.addr / 2 ^ 48 % 256 else keyPa (128 * x.line) / 128 == p.addr % 2 ^ 52 / 128)
  let fitsR : AtomReq → Bool := fun x =>
    x.src == f && x.dst == g && !x.accepted.contains cr && !x.applied && x.leaving && !x.peer && s.passes f g cr &&
    (if x.win.isSome then handleEntry x.handle == p.addr / 2 ^ 48 % 256 else keyPa (128 * x.line) / 128 == p.addr % 2 ^ 52 / 128)
  let take : Flight → Flight := fun x => { x with accepted := addNats x.accepted [cr] }
  let takeR : AtomReq → AtomReq := fun x => { x with accepted := addNats x.accepted [cr] }
  if p.op = 1 ∨ p.op = 2 then
    match s.flights.find? fits with
    | some x => { s with flights := mapWhere (fun y => y.id == x.id) take s.flights }
    | none => s
  else if p.op = 3 then
    match s.areqs.find? fitsR with
    | some x => { s with areqs := mapWhere (fun y => y.id == x.id) takeR s.areqs }
    | none => s
  else s

/-- A good flit has been received in sequence: its ACKSEQ and its credits come to the sender of the other direction, with a control flit's
negative acknowledgement, and its packets are accepted (R412, R413). -/
def State.takeFlit (s : State) (crossing dir modul : Nat) (b : List Byte) : State :=
  let s := s.modCrossing crossing fun c => c.putSeq (((c.seq (1 - dir) modul).credited b).ackedTo (flAck b))
  let s := if flCtl b = 1 then s.nack crossing (1 - dir) modul (flAck b) else s
  let ps := if flType b = 1 then flitPackets 16 (flPayload b) else []
  ps.foldl (fun s p => s.takePacket crossing p) (s.modCrossing crossing fun c => ps.foldl (fun c p => c.useLane modul p) c)

/-- FLIT_RECEIVE: a good flit in sequence is accepted; any other is discarded, and a negative acknowledgement is returned. A good flit is one that the
sender sends now, by the module of its packets. -/
def execFlitReceive (crossing dir modul : Nat) (flit : List Byte) (s : State) : Host.Outcome State Fault Refusal :=
  match s.carries crossing dir modul with
  | none => .next s
  | some c =>
    let q := c.seq dir modul
    let put : FlitSeq → State := fun q => s.modCrossing crossing fun c => c.putSeq q
    if flitBad flit then .next (put { q.sentBad (s.someBit 0) with nackDue := true })
    else
      match q.sent flit with
      | none => .next s
      | some q' =>
        let ps := if flType flit = 1 then flitPackets 16 (flPayload flit) else []
        if !(ps.all fun p => c.laneFits modul p) ∨ (flCtl flit = 1 ∧ !(c.seq (1 - dir) modul).nackDue) then .next s
        else if flType flit = 1 ∧ flSeq flit ≠ q.expect then .next (put { q' with nackDue := true })
        else
          let next : FlitSeq := if flType flit = 1 then { q' with expect := (q.expect + 1) % 2 ^ 16 } else q'
          .next ((put next).takeFlit crossing dir modul flit)

/-- NEGATIVE_ACK: one that the receiver of a direction has returned comes to the sender (R413). -/
def execNegativeAck (crossing dir modul : Nat) (ackSeq : BitVec 16) (s : State) : Host.Outcome State Fault Refusal :=
  match s.carries crossing dir modul with
  | none => .next s
  | some c => .next (if (c.seq dir modul).nackDue then s.nack crossing dir modul ackSeq.toNat else s)

/-- A direction of a module sends again what it keeps. -/
def FlitSeq.resend (q : FlitSeq) : FlitSeq := { q with nacks := 0, again := if q.replay.isEmpty then none else some 0 }

/-- The next healthy module of a crossing after one of them. -/
def Crossing.nextModule (c : Crossing) (modul : Nat) : Option Nat :=
  ((List.range 15).map fun k => (modul + k + 1) % 16).find? fun k => c.healthy.getLsbD k

/-- The flits that a module keeps and the far end has not accepted, and those that it was to send for another. -/
def FlitSeq.unsent (q : FlitSeq) : List (List Byte) := q.replay.drop ((q.expect + 2 ^ 16 - q.acked) % 2 ^ 16) ++ q.moved

/-- A module is disabled: its traffic moves to the next healthy one, which sends what is not accepted, in order, before anything of its own
(R410, R414). -/
def Crossing.disable (c : Crossing) (modul : Nat) : Crossing :=
  let c := { c with cstate := 3, healthy := c.healthy &&& ~~~(1#16 <<< modul), repairing := c.repairing &&& ~~~(1#16 <<< modul) }
  match c.nextModule modul with
  | none => c
  | some k =>
    let move : Crossing → Nat → Crossing := fun c d =>
      let q := c.seq d k
      c.putSeq { q with moved := q.moved ++ (c.seq d modul).unsent }
    let c := move (move c 0) 1
    { c with
      seqs := c.seqs.filter fun q => q.modul != modul
      lanes := c.lanes.map fun (x : Nat × Nat) => if x.2 = modul then (x.1, k) else x }

/-- LANE_REPAIR: a repaired module sends again what it keeps; one that cannot be repaired is disabled, and with fewer than four left the crossing
fails (R410, R414). -/
def execLaneRepair (crossing modul : Nat) (repaired : Bool) (s : State) : Host.Outcome State Fault Refusal :=
  match s.crossing? crossing with
  | none => .next s
  | some c =>
    if !s.crossingUp crossing ∨ 16 ≤ modul ∨ !c.healthy.getLsbD modul then .next s
    else if repaired then
      .next ((s.modCrossing crossing fun c => { c with
        repairing := c.repairing &&& ~~~(1#16 <<< modul)
        seqs := mapWhere (fun q => q.modul == modul) FlitSeq.resend c.seqs }).logError 4 c.fa modul 0)
    else
      let s := (s.modCrossing crossing fun c => c.disable modul).logError 5 c.fa modul 0
      let left := (s.crossing? crossing).any fun c => decide (4 ≤ ((List.range 16).filter fun k => c.healthy.getLsbD k).length)
      .next (if left then s else s.failCrossing crossing)

/-! ## Handles (R420, R421, R424) -/

/-- The part writes the status of a window command. -/
def State.windowStatus (s : State) (f x : Nat) : State := s.setReg f 0x1220 (BitVec.ofNat 32 x)

/-- A region that may be exported: below MEMBYTES, or directly addressed vault storage of the context's partition outside its save
regions. -/
def State.exportable (s : State) (c : Context) (base target len : Nat) : Bool :=
  base % 2 ^ 12 == 0 &&
  match target with
  | 0 => decide (base + len * 2 ^ 12 ≤ ((s.field? c.field).map (·.membytes)).getD 0)
  | 1 => c.coremask.getLsbD (base / 2 ^ 25) && decide (base / 2 ^ 25 < 40) &&
      decide (base % 2 ^ 25 + len * 2 ^ 12 ≤ (c.vaultdir - 2) * 2 ^ 20)
  | _ => false

/-- The lowest FREE entry of a field's handle table. -/
def State.freeHandle (s : State) (f : Nat) : Option Nat := (List.range 256).find? fun i => (s.handle? f i).all fun h => h.state == 0

/-- The next generation, which is never 0. -/
def nextGen (g : Word) : Word := if g + 1 = 0 then 1 else g + 1

/-- Perform EXPORT. -/
def State.exportRegion (s : State) (c : Context) (base target len : Nat) : State :=
  if !s.exportable c base target len then s.windowStatus c.field 2
  else
    match s.freeHandle c.field with
    | none => s.windowStatus c.field 3
    | some i =>
      let gen := nextGen (((s.handle? c.field i).map (·.gen)).getD 0)
      let h : Handle :=
        { field := c.field, index := i, modul := s.moduleOf c.field, state := 1, gen := gen, ctx := c.ctxid, target := target, base := base,
          len := len, mask := 0, drains := [], byHost := false }
      let v := handleOf h.modul c.field i gen
      let s : State := { s with handles := s.handles.filter (fun x => !(x.field == c.field && x.index == i)) ++ [h] }
      (((s.setReg c.field 0x1228 (loWord v)).setReg c.field 0x122C (hiWord v)).windowStatus c.field 0)

/-- EXPORT. -/
def execExportHandle (field ctx : Nat) (base : Dword) (target len : Nat) (s : State) : Host.Outcome State Fault Refusal :=
  if !s.hostReach field then .next s
  else
    let s := s.slotWords field 0x1200 1 [BitVec.ofNat 32 ctx, loWord base, hiWord base, BitVec.ofNat 32 target, BitVec.ofNat 32 len]
    match s.ctx? field ctx with
    | none => .next (s.windowStatus field 2)
    | some c => .next (if c.state = .killed then s.windowStatus field 3 else s.exportRegion c base.toNat target len)

/-- REVOKE. -/
def execRevoke (field : Nat) (handle : Dword) (s : State) : Host.Outcome State Fault Refusal :=
  if !s.hostReach field then .next s
  else
    let s := s.slotWords field 0x1200 2 [0, 0, 0, 0, 0, loWord handle, hiWord handle]
    match s.handle? field (handleEntry handle) with
    | none => .next (s.windowStatus field 2)
    | some h =>
      if handle ≠ handleOf h.modul field h.index h.gen then .next (s.windowStatus field 2)
      else if h.state ≠ 1 then .next (s.windowStatus field 3)
      else .next (s.revokeEntry field h.index true).settleDestroys

/-- REVOCATION_NOTICE: the field's slots of the handle are marked, and its drain marker goes back (R424). -/
def execRevocationNotice (field : Nat) (handle : Dword) (s : State) : Host.Outcome State Fault Refusal :=
  let n : Notice := { field := field, handle := handle, marker := false }
  if !s.notices.contains n then .next s
  else
    let mark : Context → Context := fun c =>
      { c with wins := mapWhere (fun w => w.handle == handle) (fun (w : WinSlot) => { w with revoked := true }) c.wins }
    .next { s with
      contexts := mapWhere (fun c => c.field == field) mark s.contexts
      notices := s.notices.erase n ++ [{ n with marker := true }] }

/-- The window items that a field has sent through a handle have come to its exporter. -/
def State.itemsIn (s : State) (f : Nat) (handle : Dword) : Bool :=
  (s.flights.all fun x => !(x.src == f && x.handle == handle && x.win.isSome && !x.applied && !x.lost)) &&
  s.areqs.all fun r => !(r.src == f && r.handle == handle && r.win.isSome && !r.applied && !r.lost)

/-- DRAIN_MARKER: the marker comes behind the items sent before it; with the last one the entry is FREE (R424). -/
def execDrainMarker (field fromField : Nat) (handle : Dword) (s : State) : Host.Outcome State Fault Refusal :=
  let n : Notice := { field := fromField, handle := handle, marker := true }
  if handleField handle ≠ field ∨ !s.notices.contains n ∨ !s.itemsIn fromField handle then .next s
  else
    let i := handleEntry handle
    let less : Handle → Handle := fun h => if h.gen = handleGen handle then { h with drains := h.drains.filter (· != fromField) } else h
    .next ((({ s with notices := s.notices.erase n } : State).modHandle field i less).freeEntry field i).settleDestroys

/-! ## Windows (R421, R422) -/

/-- An entry of WINTAB has a reserved field set, no kind or no length. -/
def winEntryBad (b : List Byte) : Bool :=
  !(recNat b 0 1 == 1 || recNat b 0 1 == 2) || decide (recNat b 1 7 ≠ 0) || decide (recNat b 20 12 ≠ 0) || decide (recNat b 16 4 = 0)

/-- The exporter's check of a handle of this module: EXPORTED, the same GEN, and a length that covers the window. -/
def State.exporterOk (s : State) (h : Dword) (len : Nat) : Bool :=
  match s.handle? (handleField h) (handleEntry h) with
  | some x => x.state == 1 && h == handleOf x.modul x.field x.index x.gen && decide (len ≤ x.len)
  | none => false

/-- BIND gives status 2 for an entry (R422). -/
def State.bindBad (s : State) (c : Context) (b : List Byte) : Bool :=
  let h := recAddr b 8
  let own := handleModule h == s.moduleOf c.field
  let mine := own && handleField h == c.field
  winEntryBad b ||
  (if recNat b 0 1 = 1 then mine || (!own && Config.peerVault h) || (own && (!s.reachable c.field (handleField h) || !s.exporterOk h (recNat b 16 4)))
   else !mine || !s.exporterOk h (recNat b 16 4) || !((s.handle? c.field (handleEntry h)).any fun x => x.ctx == c.ctxid))

/-- Bind a slot to an entry: both counters are 0, and the exporter adds the field to its mask. -/
def State.bindWindow (s : State) (c : Context) (slot : Nat) (b : List Byte) : State :=
  let h := recAddr b 8
  let own := handleModule h == s.moduleOf c.field
  let w : WinSlot :=
    { slot := slot, kind := recNat b 0 1, handle := h, len := recNat b 16 4, revoked := false,
      src := 0, srcOvf := false, dst := 0, dstOvf := false }
  let s := s.modCtx c.field c.ctxid fun x => { x with wins := x.wins ++ [w] }
  if own then s.modHandle (handleField h) (handleEntry h) fun x => { x with mask := x.mask ||| (1#4 <<< c.field) } else s

/-- BIND. -/
def execBind (field ctx slot : Nat) (s : State) : Host.Outcome State Fault Refusal :=
  if !s.hostReach field then .next s
  else
    let s := s.slotWords field 0x1200 3 [BitVec.ofNat 32 ctx, BitVec.ofNat 32 slot]
    match s.ctx? field ctx with
    | none => .next (s.windowStatus field 2)
    | some c =>
      if 256 ≤ slot then .next (s.windowStatus field 2)
      else if c.state = .killed ∨ (c.win? slot).isSome then .next (s.windowStatus field 3)
      else
        let r := s.engineRead ((List.range 32).map fun i => physKey 0 field (c.wintab.toNat + 32 * slot + i))
        .next (if r.1.bindBad c r.2 then r.1.windowStatus field 2 else (r.1.bindWindow c slot r.2).windowStatus field 0)

/-- UNBIND. -/
def execUnbind (field ctx slot : Nat) (s : State) : Host.Outcome State Fault Refusal :=
  if !s.hostReach field then .next s
  else
    let s := s.slotWords field 0x1200 4 [BitVec.ofNat 32 ctx, BitVec.ofNat 32 slot]
    match s.ctx? field ctx with
    | none => .next (s.windowStatus field 2)
    | some c =>
      if 256 ≤ slot then .next (s.windowStatus field 2)
      else if (c.win? slot).isNone then .next (s.windowStatus field 3)
      else .next ((s.modCtx field ctx fun x => { x with wins := x.wins.filter fun w => w.slot != slot }).windowStatus field 0)

/-! ## Peer modules (R427) -/

/-- COUNT_DOORBELL: a write under the entry's GEN counts in the HOSTED slot bound to it; any other is dropped. -/
def execCountDoorbell (field entry : Nat) (gen : Word) (s : State) : Host.Outcome State Fault Refusal :=
  match s.handle? field entry with
  | none => .next s
  | some h =>
    .next (if s.hostReach field && h.state == 1 && h.gen == gen then s.countDst (handleOf h.modul field entry gen) else s)

/-- The end of a write to a peer module: acknowledged, or lost; a SIGNAL is sent again. -/
def State.peerEnd (s : State) (good : Bool) (f : Flight) : State :=
  if good then s.ackFlight f
  else if (s.signalOf f.op).isSome then s.postFlight f
  else s.loseFlight f (if f.gmode then 33 else 35) false

/-- The end of a RED to a peer module. -/
def State.peerRed (s : State) (good : Bool) (r : AtomReq) : State := if good then s.ackRed r else s.loseAtom r 35 false

/-- The handle of a write or RED to a peer module that has left this one. -/
def State.peerItem (s : State) (id : Nat) : Option Dword :=
  match s.flights.find? fun f => f.id == id && f.peer && f.applied with
  | some f => some f.handle
  | none => (s.areqs.find? fun r => r.id == id && r.peer && r.applied).map (·.handle)

/-- A flushing read behind a write to host memory covers it and every earlier one (R227). -/
def State.hostCover (s : State) (id : Nat) : State :=
  let s := { s with hostWrites := s.hostWrites.filter fun (x : Nat × Nat × Nat) => decide (id < x.1) }
  let seen : Warp → Warp := fun w => { w with seen := w.seen.filter fun op => !s.settled op || s.hostOpen op }
  { s with warps := s.warps.map seen }

/-- FLUSHING_READ_COMPLETE: the read behind an item covers it and every earlier item to the same field of the peer, whose posted
writes have come there, or to the host. -/
def execFlushingReadComplete (id : Nat) (good : Bool) (s : State) : Host.Outcome State Fault Refusal :=
  if s.hostWrites.any fun (x : Nat × Nat × Nat) => x.1 == id then .next (if good then (s.hostCover id).settleSignals else s)
  else
    match s.peerItem id with
    | none => .next s
    | some h =>
      let same : Dword → Bool := fun x => handleModule x == handleModule h && handleField x == handleField h
      let fs := s.flights.filter fun f => f.peer && f.applied && decide (f.id ≤ id) && same f.handle
      let rs := s.areqs.filter fun r => r.peer && r.applied && decide (r.id ≤ id) && same r.handle
      let s := { s with posts := s.posts.filter fun p => !(decide (p.flight ≤ id) && same p.handle) }
      .next (rs.foldl (fun s r => s.peerRed good r) (fs.foldl (fun s f => s.peerEnd good f) s)).settleMoved

/-! ## The host's accesses (R284, R419, R426) -/

/-- The local memory of a field holds a byte. -/
def State.hasByte (s : State) (f a : Nat) : Bool := decide (a < ((s.field? f).map (·.membytes)).getD 0)

/-- A line leaves its home slice, which holds a LOCAL one for each field (R388), every replica and every vault cache part; what they hold is in GDDR-7
(log 79). -/
def State.evictLines (s : State) (lines : List Nat) : State :=
  let s := lines.foldl State.invalReplicas (s.roundShadows (lines.flatMap fun l => (List.range 128).map (128 * l + ·)))
  { s with
    slices := s.slices.filter fun d => !lines.contains d.line
    localHome := s.localHome.filter fun x => !lines.contains x.line
    vaultDirty := s.vaultDirty.filter fun d => !lines.contains d.line }

/-- A peer's write lies inside the EXPORTED entry of its ENTRY and GEN; once REVOKE has begun it does not (R424, R427). -/
def State.peerFits (s : State) (f entry : Nat) (gen : Word) (addr len : Nat) : Bool :=
  match s.handle? f entry with
  | none => false
  | some h => h.state == 1 && h.gen == gen && h.target == 0 && decide (h.base ≤ addr) && decide (addr + len ≤ h.base + h.len * 2 ^ 12)

/-- BAR4_WRITE: the host's, or under an ENTRY and a GEN a peer module's. Bytes beyond MEMBYTES are dropped; a peer's write outside its entry is dropped
and logged, under a KIND that the rules leave open (log 142). -/
def execBar4Write (field : Nat) (addr : Dword) (write : BarWrite) (s : State) : Host.Outcome State Fault Refusal :=
  if !s.hostReach field then .next s
  else if write.peer.any fun (x : Nat × Word) => !s.peerFits field x.1 x.2 addr.toNat write.data.length then
    .next (s.logError ((s.someWord 0).toNat % 256) field ((write.peer.map fun (x : Nat × Word) => x.1).getD 0) addr.toNat)
  else
    let cells := (write.data.zipIdx.filter fun (x : Byte × Nat) => s.hasByte field (addr.toNat + x.2)).map fun (x : Byte × Nat) =>
      (physKey 0 field (addr.toNat + x.2), x.1)
    let s := s.evictLines (dedupNat (cells.map fun (c : Host.Cell) => lineOf c.1))
    .next (s.putCells cells)

/-- A byte as a BAR4 reader gets it: that of a line held dirty in a vault cache part comes from GDDR-7, unless its home slice holds the
line as well, which is the part's own. -/
def State.bar4Byte (s : State) (f a : Nat) : Byte :=
  let k := physKey 0 f a
  if !s.hasByte f a then 0xFF
  else
    match s.ownByte? k, s.vaultDirty.find? fun d => d.line == lineOf k with
    | some b, _ => b
    | none, some d => if s.slices.any fun x => x.line == lineOf k then s.readByte k else if s.someBit (lineOf k % 65536) then s.readByte k else (cellGet? d.old k).getD (s.readByte k)
    | none, none => s.readByte k

/-- BAR4_READ: all ones beyond MEMBYTES, and for a field that cannot be reached (R418). -/
def execBar4Read (field : Nat) (addr : Dword) (len : Nat) (s : State) : Host.Outcome State Fault Refusal :=
  if !s.hostReach field then .next { s with hostData := List.replicate len 0xFF }
  else
    let s := s.roundShadows ((List.range len).map fun i => physKey 0 field (addr.toNat + i))
    .next { s with hostData := (List.range len).map fun i => s.bar4Byte field (addr.toNat + i) }

/-- The value that an AtomicOp leaves. -/
def hostAtomic (op : BitVec 2) (n old operand compare : Nat) : Nat :=
  if op = 0 then (old + operand) % 2 ^ n else if op = 1 then operand % 2 ^ n else if old = compare % 2 ^ n then operand % 2 ^ n else old

/-- HOST_ATOMICOP: FetchAdd, Swap or CAS of 32 or 64 bits at its home; the old value is returned. A misaligned one, one beyond MEMBYTES
or a reserved operation is not performed. -/
def execHostAtomicop (field : Nat) (addr : Dword) (op : BitVec 2) (w64 : Bool) (operand compare : Dword) (s : State) :
    Host.Outcome State Fault Refusal :=
  let n := if w64 then 8 else 4
  if !s.hostReach field ∨ op = 3 ∨ addr.toNat % n ≠ 0 ∨ !s.hasByte field (addr.toNat + n - 1) then .next s
  else
    let k := physKey 0 field addr.toNat
    let s := s.roundShadows ((List.range n).map (k + ·))
    let old := s.readNat k n
    .next { s.putNat k n (hostAtomic op (8 * n) old operand.toNat compare.toNat) with hostData := leBytes n old }

/-- The words of BAR0 that only the part writes. -/
def partWord (off : Nat) : Bool := off == 0x1010 || off == 0x1120 || off == 0x1220 || off == 0x1228 || off == 0x122C || off == 0x300C

/-- The words whose write has a behaviour of its own, but for a command the part does not know. -/
def actingWord (off v : Nat) : Bool :=
  (off == 0x1000 && decide (1 ≤ v ∧ v ≤ 6)) || (off == 0x1100 && v == 1) || (off == 0x1200 && decide (1 ≤ v ∧ v ≤ 4)) ||
  (off == 0x3118 && v == 1) || (decide (0x2000 ≤ off ∧ off < 0x2400) && off % 16 == 12) || decide (0x6000 ≤ off ∧ off < 0x6400)

/-- The part's answer to an unknown command (R267, R421). -/
def State.unknownCommand (s : State) (f off : Nat) : State :=
  if off = 0x1000 then s.commandStatus f 1 else if off = 0x1200 then s.windowStatus f 1 else s

/-- Keep a host word where the part reads it (R426). -/
def Field.hostWord (x : Field) (off : Nat) (v : Word) : Field :=
  if 0x5000 ≤ off ∧ off < 0x5200 then
    let k := (off - 0x5000) / 4
    { x with peers := (k, v) :: x.peers.filter fun (p : Nat × Word) => p.1 != k }
  else if off = 0x5400 then { x with moduleNo := v.toNat % 16 } else x

/-- REGISTER_WRITE: a word of BAR0 without behaviour of its own, or an unknown command. -/
def execRegisterWrite (field offset : Nat) (value : Word) (s : State) : Host.Outcome State Fault Refusal :=
  if !s.hostReach field ∨ offset % 4 ≠ 0 ∨ 2 ^ 16 ≤ offset ∨ partWord offset ∨ actingWord offset value.toNat then .next s
  else
    let s := (s.setReg field offset value).modField field fun x => x.hostWord offset value
    .next (s.unknownCommand field offset)

end Sys2Proof.Machine
end

