-- ==== Sys2Proof/Machine/EvPlatform.lean ====
section
/-! DEFINITION. Bring-up (R428), power and heat (R429 to R431), machine checks (R432) and wear (R434). An event that is not enabled
changes nothing. -/

namespace Sys2Proof.Machine

open Sys2Proof

/-! ## What outlives a reset (R428, R434) -/

/-- The machine before bring-up: the fuses and the PMC's flash keep their state, and host memory is the host's. The crossings are in RESET (R410). -/
def State.powerOn (s : State) : State :=
  { State.reset with
    agenda := s.agenda
    fresh := s.fresh
    nextUid := s.nextUid
    variant := s.variant
    mem := s.mem.filter fun (c : Host.Cell) => keyTarget c.1 == 2
    crossings := s.variant.links.map resetCrossing
    wear := s.wear
    fuses := s.fuses
    flash := s.flash }

/-! ## Bring-up (R14 to R18, R410, R415, R428) -/

/-- The fields of an ordering code (R14). -/
def Variant.fields (v : Variant) : List Nat := if v = .lk4160 then [0, 1, 2, 3] else [0, 1]

/-- The VARIANT code (R15). -/
def Variant.code (v : Variant) : Nat :=
  match v with
  | .lk4160 => 0
  | .lk2080 => 1
  | .lk2080n => 2

/-- The field's own part of a self-test report. -/
abbrev Report4 : Type := Bool × BitVec 40 × BitVec 40 × BitVec 40
def reportOf (rs : List Report4) (f : Nat) : Report4 := rs.getD f (false, 0, 0, 0)

/-- Bring-up starts the training of a crossing (R410). -/
def Crossing.train (c : Crossing) : Crossing := { c with cstate := 1 }

/-- A crossing in TRAINING once n of its 16 modules have trained (R410). -/
def Crossing.trained (c : Crossing) (n : Nat) : Crossing :=
  { c with cstate := if n < 4 then 4 else if n < 16 then 3 else 2, healthy := BitVec.ofNat 16 (2 ^ min n 16 - 1) }

/-- The fields that a set of fields reaches in one crossing between fields that pass self-test. -/
def grow (cs : List Crossing) (ok : Nat → Bool) (fs : List Nat) : List Nat :=
  addNats fs (cs.flatMap fun c =>
    if c.cstate = 4 ∨ !ok c.fa ∨ !ok c.fb then [] else if fs.contains c.fa then [c.fb] else if fs.contains c.fb then [c.fa] else [])

/-- The fields that are present: those that pass self-test and are reached from F0 (R18). -/
def presentFields (v : Variant) (rs : List Report4) (cs : List Crossing) : List Nat :=
  let ok : Nat → Bool := fun f => v.fields.contains f && (reportOf rs f).1
  if ok 0 then grow cs ok (grow cs ok (grow cs ok [0])) else []

/-- CAPS of a field (R15). -/
def capsOf (v : Variant) (present : List Nat) (cores slices : BitVec 40) : Word :=
  let fields := (present.map fun f => 2 ^ f).foldl (· + ·) 0
  let units := if v = .lk2080n then 0 else 3
  let count : BitVec 40 → Nat := fun m => ((List.range 40).filter fun n => m.getLsbD n).length
  BitVec.ofNat 32 (fields * 2 ^ 20 + v.code * 2 ^ 18 + units * 2 ^ 16 + count cores * 2 ^ 10 + count slices * 2 ^ 4 + 1)

/-- A field after bring-up: its STATE and what the table says of it (R16). -/
def broughtUp (v : Variant) (rs : List Report4) (cs : List Crossing) (present : List Nat) (f : Nat) : Field :=
  let r := reportOf rs f
  let on := present.contains f
  let up : Nat → Bool := fun g => cs.any fun c => c.cstate != 4 && ((c.fa == f && c.fb == g) || (c.fb == f && c.fa == g))
  { number := f
    fstate := if !v.fields.contains f then 0 else if on then 1 else if r.1 then 3 else 2
    coremask := if on then r.2.1 else 0
    slicemask := if on then r.2.2.1 else 0
    slices := if on then r.2.2.1 else 0
    vaultmask := if on then r.2.2.2 else 0
    links := if on then BitVec.ofNat 4 ((((List.range 4).filter up).map fun g => 2 ^ g).foldl (· + ·) 0) else 0
    membytes := if on then 24 * 2 ^ 30 else 0
    caps := if on then capsOf v present r.2.1 r.2.2.1 else 0
    regs := []
    route := Vector.ofFn fun _ => 0
    epoch := 0
    clockStep := 52
    heatStep := 52
    stopped := false
    valves := Vector.ofFn fun _ => 0
    sensors := Vector.ofFn fun _ => 0
    hotFor := Vector.ofFn fun _ => 0
    moduleNo := 0
    peers := []
    hot := 0
    rotor := []
    copyRotor := []
    remapBad := 0
    mirrorBad := 0 }

/-- The tables of the present fields (R415). -/
def State.firstRoutes (s : State) : State :=
  let put : Field → Field := fun x => if x.fstate = 1 then { x with route := s.routesOf x.number } else x
  { s with fields := s.fields.map put }

/-- The image passes step 1: its signature is good under the key whose digest is fused, and its security version is not below the fused counter. -/
def State.imageGood (s : State) (signatureOk : Bool) : Bool :=
  signatureOk && s.flash.keyDigest == s.fuses.keyDigest && decide (s.fuses.version ≤ s.flash.version)

/-- BRING_UP: power-on or a fundamental reset, then the steps of R428 up to the training of the crossings; a good signature, the self-test report and the
modules that train are what the operands say. The rest of bring-up is the turn that follows. With a bad image the module presents function 0 only. -/
def execBringUp (signatureOk : Bool) (report : List (Bool × BitVec 40 × BitVec 40 × BitVec 40)) (trained : List Nat) (s : State) :
    Host.Outcome State Fault Refusal :=
  let s := s.powerOn
  let t : State := { s with hostLink := true, functions := 1 }
  .next (if s.imageGood signatureOk then
      { t with crossings := s.crossings.map Crossing.train, agenda := .trained report trained :: s.agenda }
    else t)

/-- The crossings have been trained: field exclusion, CAPS, the description table and the routes (R18, R428). With F0 failing self-test no field is
usable, and function 0 alone is presented. -/
def State.trainedUp (s : State) (report : List (Bool × BitVec 40 × BitVec 40 × BitVec 40)) (trained : List Nat) : State :=
  if s.crossings.isEmpty || s.crossings.any fun c => c.cstate != 1 then s
  else
    let cs := s.crossings.map fun c => c.trained (trained.getD c.index 0)
    let present := presentFields s.variant report cs
    State.firstRoutes { s with
      fields := (List.range 4).map (broughtUp s.variant report cs present)
      crossings := cs
      functions := if present.contains 0 then BitVec.ofNat 4 ((present.map fun f => 2 ^ f).foldl (· + ·) 0) else 1
      up := present.contains 0 }

/-- MODULE_POWER_REMOVED. -/
def execModulePowerRemoved (s : State) : Host.Outcome State Fault Refusal := .next s.powerOn

/-! ## What BAR2 reads as (R16, R433, R434) -/

/-- The 64-byte entry of a field in the description table. -/
def Field.entry (x : Field) (v : Variant) : List Byte :=
  let units : Nat → Nat := fun n => if x.fstate = 1 ∧ v ≠ .lk2080n then n else 0
  leBytes 1 x.fstate ++ leBytes 1 x.number ++ leBytes 2 0 ++ leBytes 5 x.coremask.toNat ++ leBytes 5 x.slicemask.toNat ++ leBytes 5 x.vaultmask.toNat ++
  leBytes 1 (units 4) ++ leBytes 1 (units 8) ++ leBytes 1 x.links.toNat ++ leBytes 2 0 ++ leBytes 8 x.membytes ++ leBytes 32 0

/-- The field description table: its header and its four entries. -/
def State.descTable (s : State) : List Byte :=
  let present := ((s.fields.filter fun x => x.fstate == 1).map fun x => 2 ^ x.number).foldl (· + ·) 0
  leBytes 4 0x4C4B4644 ++ leBytes 2 1 ++ leBytes 1 s.variant.code ++ leBytes 1 present ++ leBytes 8 0 ++
  (s.fields.flatMap fun x => x.entry s.variant)

/-- A field's wear record: remaining life, hours powered and corrected errors. -/
def State.wearBytes (s : State) (f : Nat) : List Byte :=
  match s.wear.find? fun w => w.field == f with
  | some w => leBytes 2 w.life ++ leBytes 2 0 ++ leBytes 4 w.hours ++ leBytes 8 w.corrected
  | none => leBytes 16 0

/-- A byte of BAR2, which reads zeros until the image has started (R428). -/
def State.bar2 (s : State) (a : Nat) : Byte :=
  if s.fields.isEmpty then 0
  else if a < 0x3FC then s.descTable.getD a 0
  else if a < 0x400 then (leBytes 4 s.errorCount.toNat).getD (a - 0x3FC) 0
  else if a < 0x800 then s.errorLog.flatten.getD (a - 0x400) 0
  else if a < 0x840 then ((List.range 4).flatMap s.wearBytes).getD (a - 0x800) 0
  else 0

/-! ## The power limit (R429) -/

/-- The clock of a field, in steps of 25 MHz above 400 MHz: the lower of the power limit's and the heat's (R429, R430). -/
def Field.clock (x : Field) : Nat := min x.clockStep x.heatStep

/-- The present fields by clock, the slowest first. -/
def State.byClock (s : State) : List Field := sortBy Field.clock (s.fields.filter fun x => x.fstate == 1)

/-- The busiest of some fields, by a measure of every field that the rules leave open; of equals the first (log 141). -/
def busiest (load : List Nat) (fs : List Field) : Option Field :=
  fs.foldl (fun b x => if b.any fun y => decide (load.getD x.number 0 ≤ load.getD y.number 0) then b else some x) none

/-- What the PMC does where the mean exceeds 850 W: it lowers the busiest field, or stops its clock where every present field is at 400 MHz. -/
def State.throttle (load : List Nat) (s : State) : State :=
  match busiest load (s.byClock.filter fun x => decide (0 < x.clock)) with
  | some f => s.modField f.number fun x => { x with clockStep := x.clockStep - 1 }
  | none =>
    match busiest load s.byClock with
    | some f => s.modField f.number fun x => { x with stopped := true }
    | none => s

/-- What the PMC does where the mean has stayed below 800 W for 1 ms: it raises the lowest field. -/
def State.unthrottle (s : State) : State :=
  match s.byClock.head? with
  | some f => s.modField f.number fun x => { x with clockStep := min 52 (x.clockStep + 1) }
  | none => s

/-- POWER_SAMPLE: the mean is that of the last 1 ms, of 100 samples (log 141). A field's clock that was stopped for the last 10 µs runs again. -/
def execPowerSample (milliwatts : Nat) (load : List Nat) (s : State) : Host.Outcome State Fault Refusal :=
  let power := (milliwatts :: s.power).take 100
  let sum := power.foldl (· + ·) 0
  let s : State := { s with power := power, fields := s.fields.map fun x => { x with stopped := false } }
  if 850000 * power.length < sum then .next (State.throttle load { s with powerLow := 0 })
  else if 800000 * power.length ≤ sum then .next { s with powerLow := 0 }
  else if s.powerLow + 1 < 100 then .next { s with powerLow := s.powerLow + 1 }
  else .next (State.unthrottle { s with powerLow := 0 })

/-! ## Errors and machine checks (R432) -/

/-- A field stops: its contexts are killed, and its crossings are FAILED. The slices that pages hash over stay as they were at bring-up (R387). -/
def State.stopField (s : State) (f kind unit : Nat) : State :=
  let ctxs := (s.contexts.filter fun c => c.field == f).map (·.ctxid)
  let s := ctxs.foldl (fun s c => s.partKill f c 63) (s.logError kind f unit 0)
  let halt : Field → Field := fun x =>
    { x with fstate := 2, coremask := 0, slicemask := 0, vaultmask := 0, links := 0, membytes := 0 }
  let s := s.modField f halt
  ((s.crossings.filter fun c => c.fa == f || c.fb == f).map (·.index)).foldl (fun s i => s.failCrossing i) s

/-- MACHINE_CHECK. -/
def execMachineCheck (field : Nat) (s : State) : Host.Outcome State Fault Refusal :=
  .next (if s.present field then s.stopField field 6 0 else s)

/-! ## Coolant and heat (R430, R431) -/

/-- The hottest of a zone's four sensors, in tenths of a degree. -/
def hottest (sensors : List Nat) (zone : Nat) : Nat := ((sensors.drop (4 * zone)).take 4).foldl max 0

/-- The sixteen sensors of a field, four to a zone: `low` has those of zones 0 and 1, `high` those of zones 2 and 3. -/
def sensorsOf (low high : List Nat) : List Nat :=
  (List.range 8).map (fun i => low.getD i 0) ++ (List.range 8).map (fun i => high.getD i 0)

/-- What a sample of a field's sensors does to it: below 85 °C a valve has the place that the PMC found to hold 85 °C, the clock falls one step where any zone is at
95 °C or above, and a zone is hot once it has been at 105 °C or above for 10 ms, which is 100 samples. -/
def Field.heat (x : Field) (sensors valves : List Nat) : Field :=
  let zone := hottest sensors
  let hotFor : Vector Nat 4 := Vector.ofFn fun z => if 1050 ≤ zone z then min 100 (x.hotFor[z] + 1) else 0
  { x with
    sensors := Vector.ofFn fun i => sensors.getD i 0
    valves := Vector.ofFn fun z => if zone z < 850 then min 100 (valves.getD z 0) else 100
    heatStep := if (List.range 4).any fun z => decide (950 ≤ zone z) then x.heatStep - 1 else 52
    hotFor := hotFor
    hot :=
      let stays : Nat → Bool := fun z => decide (900 ≤ zone z) && (x.hot.getLsbD z || hotFor.toList.getD z 0 == 100)
      BitVec.ofNat 4 ((((List.range 4).filter stays).map fun z => 2 ^ z).foldl (· + ·) 0) }

/-- THERMAL_SAMPLE: at 115 °C the field stops by a protection trip; the migrations of a hot zone are PREEMPTION_STARTs. -/
def execThermalSample (field : Nat) (low high valves : List Nat) (s : State) : Host.Outcome State Fault Refusal :=
  if !s.present field then .next s
  else
    let sensors := sensorsOf low high
    let s := s.modField field fun x => x.heat sensors valves
    match (List.range 4).find? fun z => decide (1150 ≤ hottest sensors z) with
    | some z => .next (s.stopField field 7 z)
    | none => .next s

/-! ## Wear (R434) -/

/-- WEAR_UPDATE: the record of a field that the module has. -/
def execWearUpdate (field life hours corrected : Nat) (s : State) : Host.Outcome State Fault Refusal :=
  if !(s.field? field).any fun x => x.fstate != 0 then .next s
  else
    let w : Wear := { field := field, life := life % 2 ^ 16, hours := hours % 2 ^ 32, corrected := corrected % 2 ^ 64 }
    .next { s with wear := s.wear.filter (fun x => x.field != field) ++ [w] }

/-! ## A stopped clock (R429, R432) -/

/-- The field whose slice, core or queue a record belongs to. -/
def State.warpField (s : State) (u : Nat) : List Nat := ((s.warp? u).map (·.field)).toList
def State.launchField (s : State) (l : Nat) : List Nat := ((s.launch? l).map (·.field)).toList
def State.blockField (s : State) (b : Nat) : List Nat := ((s.block? b).map fun x => fieldOfCore x.core).toList
def State.graphField (s : State) (g : Nat) : List Nat := ((s.graphs.find? fun x => x.uid == g).map (·.field)).toList
def State.crossingFields (s : State) (c : Nat) : List Nat := ((s.crossing? c).map fun x => [x.fa, x.fb]).getD []

/-- The fields whose clocked state an event changes: the part's own between fields, the PMC's and the physical layer's none. -/
def State.eventFields (s : State) (e : Instr) : List Nat :=
  match e with
  | .splitMerge w _ _ | .rendezvousRelease w | .waitEnd w _ | .handlerEntry w _ _ _ | .loadComplete w _ | .storeDrain w | .xchgPair w
  | .rayComplete w _ => s.warpField w
  | .growGrant core | .growFail core | .l1Eviction core _ _ | .kstepApply core | .drainComplete core => [fieldOfCore core]
  | .storeApply id => (s.flights.filter fun f => f.id == id).map fun f => if f.peer then f.src else f.dst
  | .storeAck id => ((s.flights.filter fun f => f.id == id).map (·.src)) ++ (s.areqs.filter fun r => r.id == id).map (·.src)
  | .atomicApply id => (s.areqs.filter fun r => r.id == id).map fun r => if r.peer then r.src else r.dst
  | .atomicReturn id => (s.areqs.filter fun r => r.id == id).map (·.src)
  | .lossNotice id => ((s.flights.filter fun f => f.id == id).map (·.dst)) ++ (s.areqs.filter fun r => r.id == id).map (·.dst)
  | .flushingReadComplete id _ => ((s.flights.filter fun f => f.id == id).map (·.src)) ++ (s.areqs.filter fun r => r.id == id).map (·.src)
  | .bankWriteApply b _ | .phqWake b | .blockRetire b _ | .joinResume b | .watchdog b => s.blockField b
  | .multicastRequest id => (s.mcReqs.filter fun r => r.id == id).map fun r => r.slice / 40
  | .ldmcDelivery id _ => (s.mcReqs.filter fun r => r.id == id).map (·.field)
  | .multicastTimeout k => (s.mcSessions.filter fun m => m.id == k).map fun m => m.slice / 40
  | .phaseSweepPair l | .launchAccept l | .blockDispatch l | .gangDispatch l | .launchComplete l | .resample l
  | .placementListAccept l => s.launchField l
  | .taskAppendRetry k => (s.taskRetry[k]?.map (·.field)).toList
  | .copyComplete id | .rasterPacket id => (s.copies.filter fun r => r.id == id).map (·.field)
  | .graphValidate g | .nodeIssue g | .predicateEval g | .instanceStart g _ | .waitctrComplete g _ | .graphComplete g | .tileRelease g _ _
  | .tileRetire g _ _ | .relqTake g | .ringExhausted g | .footprintPrefetch g _ _ => s.graphField g
  | .proxyInvalidate f _ | .queueConsume f _ | .copyStart f _ | .reduceSessionClose f _ | .pageWalk f _ _ | .frameCopyOnWrite f _ _
  | .vaultEccError f _ _ | .contextSchedule f _ | .preemptionStart f _ _ | .drainLimitExpiry f _ | .forcedSave f _ | .regionLimitExpiry f _
  | .create f _ _ | .destroy f _ | .preempt f _ | .kill f _ | .stepFlag f _ _ _ | .unstepFlag f _ _ _ | .queueAttach f _ _ _
  | .queueDetach f _ | .queueClosed f _ | .invalidate f _ _ _ | .fillResponse f _ _ _ | .exportHandle f _ _ _ _ | .revoke f _ | .bind f _ _
  | .unbind f _ _ | .revocationNotice f _ | .drainMarker f _ _ | .countDoorbell f _ _ | .bar4Write f _ _ | .bar4Read f _ _
  | .hostAtomicop f _ _ _ _ _ | .registerWrite f _ _ => [f]
  | .flitReceive c _ _ _ | .negativeAck c _ _ _ => s.crossingFields c
  | _ => []

/-- An event waits: a field that it would change is stopped by the PMC or by a machine check, and a stopped clock holds every state unchanged. -/
def State.holds (s : State) (e : Instr) : Bool := (s.eventFields e).any fun f => (s.field? f).any fun x => x.stopped || x.fstate == 2

end Sys2Proof.Machine
end

