-- ==== Sys2Proof/Machine/FloatAlu.lean ====
section
/-! DEFINITION. The meanings of FALU and SFU (R148 to R152). -/

namespace Sys2Proof.Machine

open Sys2Proof

/-- FALU and SFU accept RND, FTZ and SAT (R43). -/
def xmFloat : BitVec 20 := xmRnd ||| xmFtz ||| xmSat

/-- FADD (R148). -/
def execFadd (sc : Scope) (d a : Reg) (b : Opb) (s : State) : Host.Outcome State Fault Refusal :=
  issue { vecMeta sc d a b with xmod := xmFloat } s fun s j =>
    laneFloat .fp32 b (fun x y _ => wordFx (j.fmode.add fp32 x.toNat y.toNat)) s j

/-- FSUB (R148). -/
def execFsub (sc : Scope) (d a : Reg) (b : Opb) (s : State) : Host.Outcome State Fault Refusal :=
  issue { vecMeta sc d a b with xmod := xmFloat } s fun s j =>
    laneFloat .fp32 b (fun x y _ => wordFx (j.fmode.sub fp32 x.toNat y.toNat)) s j

/-- FMUL (R148). -/
def execFmul (sc : Scope) (d a : Reg) (b : Opb) (s : State) : Host.Outcome State Fault Refusal :=
  issue { vecMeta sc d a b with xmod := xmFloat } s fun s j =>
    laneFloat .fp32 b (fun x y _ => wordFx (j.fmode.mul fp32 x.toNat y.toNat)) s j

/-- FMAC (R148): x × y + z. -/
def execFmac (sc : Scope) (d a : Reg) (b : Opb) (s : State) : Host.Outcome State Fault Refusal :=
  issue { vecMeta3 sc d a b with xmod := xmFloat } s fun s j =>
    laneFloat .fp32 b (fun x y z => wordFx (j.fmode.fma fp32 x.toNat y.toNat z.toNat)) s j

/-- FMAD (R148): z × x + y. -/
def execFmad (sc : Scope) (d a : Reg) (b : Opb) (s : State) : Host.Outcome State Fault Refusal :=
  issue { vecMeta3 sc d a b with xmod := xmFloat } s fun s j =>
    laneFloat .fp32 b (fun x y z => wordFx (j.fmode.fma fp32 z.toNat x.toNat y.toNat)) s j

/-- FMNS (R148): z - x × y. -/
def execFmns (sc : Scope) (d a : Reg) (b : Opb) (s : State) : Host.Outcome State Fault Refusal :=
  issue { vecMeta3 sc d a b with xmod := xmFloat } s fun s j =>
    laneFloat .fp32 b (fun x y z => wordFx (j.fmode.fms fp32 x.toNat y.toNat z.toNat)) s j

/-- FMIN (R150). -/
def execFmin (sc : Scope) (d a : Reg) (b : Opb) (s : State) : Host.Outcome State Fault Refusal :=
  issue { vecMeta sc d a b with xmod := xmFloat } s fun s j =>
    laneFloat .fp32 b (fun x y _ => wordFx (j.fmode.minMax fp32 false x.toNat y.toNat)) s j

/-- FMAX (R150). -/
def execFmax (sc : Scope) (d a : Reg) (b : Opb) (s : State) : Host.Outcome State Fault Refusal :=
  issue { vecMeta sc d a b with xmod := xmFloat } s fun s j =>
    laneFloat .fp32 b (fun x y _ => wordFx (j.fmode.minMax fp32 true x.toNat y.toNat)) s j

/-- FABS (R150): on bits. -/
def execFabs (sc : Scope) (d : Reg) (b : Opb) (s : State) : Host.Outcome State Fault Refusal :=
  issue { vecMeta1 sc d b with xmod := xmFloat } s fun s j =>
    laneFloat .fp32 b (fun _ y _ => (absBits y, fxNone)) s j

/-- FNEG (R150): on bits. -/
def execFneg (sc : Scope) (d : Reg) (b : Opb) (s : State) : Host.Outcome State Fault Refusal :=
  issue { vecMeta1 sc d b with xmod := xmFloat } s fun s j =>
    laneFloat .fp32 b (fun _ y _ => (negBits y, fxNone)) s j

/-- FSAT (R148). -/
def execFsat (sc : Scope) (d : Reg) (b : Opb) (s : State) : Host.Outcome State Fault Refusal :=
  issue { vecMeta1 sc d b with xmod := xmFloat } s fun s j =>
    laneFloat .fp32 b (fun _ y _ => wordFx (j.fmode.satOf y.toNat)) s j

/-- FFLOOR (R150). -/
def execFfloor (sc : Scope) (d : Reg) (b : Opb) (s : State) : Host.Outcome State Fault Refusal :=
  issue { vecMeta1 sc d b with xmod := xmFloat } s fun s j =>
    laneFloat .fp32 b (fun _ y _ => wordFx (j.fmode.integral .rd y.toNat)) s j

/-- FCEIL (R150). -/
def execFceil (sc : Scope) (d : Reg) (b : Opb) (s : State) : Host.Outcome State Fault Refusal :=
  issue { vecMeta1 sc d b with xmod := xmFloat } s fun s j =>
    laneFloat .fp32 b (fun _ y _ => wordFx (j.fmode.integral .ru y.toNat)) s j

/-- FTRUNC (R150). -/
def execFtrunc (sc : Scope) (d : Reg) (b : Opb) (s : State) : Host.Outcome State Fault Refusal :=
  issue { vecMeta1 sc d b with xmod := xmFloat } s fun s j =>
    laneFloat .fp32 b (fun _ y _ => wordFx (j.fmode.integral .rz y.toNat)) s j

/-- FRINT (R150): by the mode. -/
def execFrint (sc : Scope) (d : Reg) (b : Opb) (s : State) : Host.Outcome State Fault Refusal :=
  issue { vecMeta1 sc d b with xmod := xmFloat } s fun s j =>
    laneFloat .fp32 b (fun _ y _ => wordFx (j.fmode.integral j.rnd y.toNat)) s j

/-- FCSGN (R150): on bits. -/
def execFcsgn (sc : Scope) (d a : Reg) (b : Opb) (s : State) : Host.Outcome State Fault Refusal :=
  issue { vecMeta sc d a b with xmod := xmFloat } s fun s j =>
    laneFloat .fp32 b (fun x y _ => (copySign x y, fxNone)) s j

/-- FRCP (R152). -/
def execFrcp (sc : Scope) (d : Reg) (b : Opb) (s : State) : Host.Outcome State Fault Refusal :=
  issue { vecMeta1 sc d b with xmod := xmFloat } s fun s j =>
    laneFloat .fp32 b (fun _ y _ => wordFx (j.fmode.special sfuRcp y.toNat)) s j

/-- FRSQ (R152). -/
def execFrsq (sc : Scope) (d : Reg) (b : Opb) (s : State) : Host.Outcome State Fault Refusal :=
  issue { vecMeta1 sc d b with xmod := xmFloat } s fun s j =>
    laneFloat .fp32 b (fun _ y _ => wordFx (j.fmode.special sfuRsq y.toNat)) s j

/-- FSQRT (R152). -/
def execFsqrt (sc : Scope) (d : Reg) (b : Opb) (s : State) : Host.Outcome State Fault Refusal :=
  issue { vecMeta1 sc d b with xmod := xmFloat } s fun s j =>
    laneFloat .fp32 b (fun _ y _ => wordFx (j.fmode.special sfuSqrt y.toNat)) s j

/-- FEXP2 (R152). -/
def execFexp2 (sc : Scope) (d : Reg) (b : Opb) (s : State) : Host.Outcome State Fault Refusal :=
  issue { vecMeta1 sc d b with xmod := xmFloat } s fun s j =>
    laneFloat .fp32 b (fun _ y _ => wordFx (j.fmode.special sfuExp2 y.toNat)) s j

/-- FLOG2 (R152). -/
def execFlog2 (sc : Scope) (d : Reg) (b : Opb) (s : State) : Host.Outcome State Fault Refusal :=
  issue { vecMeta1 sc d b with xmod := xmFloat } s fun s j =>
    laneFloat .fp32 b (fun _ y _ => wordFx (j.fmode.special sfuLog2 y.toNat)) s j

/-- FSINT (R152). -/
def execFsint (sc : Scope) (d : Reg) (b : Opb) (s : State) : Host.Outcome State Fault Refusal :=
  issue { vecMeta1 sc d b with xmod := xmFloat } s fun s j =>
    laneFloat .fp32 b (fun _ y _ => wordFx (j.fmode.special sfuSin y.toNat)) s j

/-- FCOST (R152). -/
def execFcost (sc : Scope) (d : Reg) (b : Opb) (s : State) : Host.Outcome State Fault Refusal :=
  issue { vecMeta1 sc d b with xmod := xmFloat } s fun s j =>
    laneFloat .fp32 b (fun _ y _ => wordFx (j.fmode.special sfuCos y.toNat)) s j

/-- FTANH (R152). -/
def execFtanh (sc : Scope) (d : Reg) (b : Opb) (s : State) : Host.Outcome State Fault Refusal :=
  issue { vecMeta1 sc d b with xmod := xmFloat } s fun s j =>
    laneFloat .fp32 b (fun _ y _ => wordFx (j.fmode.special sfuTanh y.toNat)) s j

end Sys2Proof.Machine
end

