-- ==== Sys2Proof/Machine/Integer.lean ====
section
/-! DEFINITION. The meanings of IALU, LOGIC and BITF (R106 to R108). -/

namespace Sys2Proof.Machine

open Sys2Proof

/-- IADD (R106): (x + y) mod 2^32. -/
def execIadd (sc : Scope) (d a : Reg) (b : Opb) (s : State) : Host.Outcome State Fault Refusal :=
  issue (vecMeta sc d a b) s
    (laneOp .int b fun x y _ => x + y)

/-- ISUB (R106): (x - y) mod 2^32. -/
def execIsub (sc : Scope) (d a : Reg) (b : Opb) (s : State) : Host.Outcome State Fault Refusal :=
  issue (vecMeta sc d a b) s
    (laneOp .int b fun x y _ => x - y)

/-- IMUL (R106): the low 32 bits of x × y. -/
def execImul (sc : Scope) (d a : Reg) (b : Opb) (s : State) : Host.Outcome State Fault Refusal :=
  issue (vecMeta sc d a b) s
    (laneOp .int b fun x y _ => x * y)

/-- IMULHI (R106): bits [63:32] of the signed product. -/
def execImulhi (sc : Scope) (d a : Reg) (b : Opb) (s : State) : Host.Outcome State Fault Refusal :=
  issue (vecMeta sc d a b) s
    (laneOp .int b fun x y _ => mulHiS x y)

/-- IMULHIU (R106): bits [63:32] of the unsigned product. -/
def execImulhiu (sc : Scope) (d a : Reg) (b : Opb) (s : State) : Host.Outcome State Fault Refusal :=
  issue (vecMeta sc d a b) s
    (laneOp .int b fun x y _ => mulHiU x y)

/-- IMIN (R106): the smaller signed value. -/
def execImin (sc : Scope) (d a : Reg) (b : Opb) (s : State) : Host.Outcome State Fault Refusal :=
  issue (vecMeta sc d a b) s
    (laneOp .int b fun x y _ => minS x y)

/-- IMAX (R106): the larger signed value. -/
def execImax (sc : Scope) (d a : Reg) (b : Opb) (s : State) : Host.Outcome State Fault Refusal :=
  issue (vecMeta sc d a b) s
    (laneOp .int b fun x y _ => maxS x y)

/-- IMINU (R106): the smaller unsigned value. -/
def execIminu (sc : Scope) (d a : Reg) (b : Opb) (s : State) : Host.Outcome State Fault Refusal :=
  issue (vecMeta sc d a b) s
    (laneOp .int b fun x y _ => minU x y)

/-- IMAXU (R106): the larger unsigned value. -/
def execImaxu (sc : Scope) (d a : Reg) (b : Opb) (s : State) : Host.Outcome State Fault Refusal :=
  issue (vecMeta sc d a b) s
    (laneOp .int b fun x y _ => maxU x y)

/-- IABSD (R106): the absolute signed difference, unsigned. -/
def execIabsd (sc : Scope) (d a : Reg) (b : Opb) (s : State) : Host.Outcome State Fault Refusal :=
  issue (vecMeta sc d a b) s
    (laneOp .int b fun x y _ => absDiff x y)

/-- IADDSAT (R106): the signed sum, clamped. -/
def execIaddsat (sc : Scope) (d a : Reg) (b : Opb) (s : State) : Host.Outcome State Fault Refusal :=
  issue (vecMeta sc d a b) s
    (laneOp .int b fun x y _ => addSatS x y)

/-- ISUBSAT (R106): the signed difference, clamped. -/
def execIsubsat (sc : Scope) (d a : Reg) (b : Opb) (s : State) : Host.Outcome State Fault Refusal :=
  issue (vecMeta sc d a b) s
    (laneOp .int b fun x y _ => subSatS x y)

/-- IADDSATU (R106): the unsigned sum, clamped. -/
def execIaddsatu (sc : Scope) (d a : Reg) (b : Opb) (s : State) : Host.Outcome State Fault Refusal :=
  issue (vecMeta sc d a b) s
    (laneOp .int b fun x y _ => addSatU x y)

/-- ISUBSATU (R106): the unsigned difference, clamped at 0. -/
def execIsubsatu (sc : Scope) (d a : Reg) (b : Opb) (s : State) : Host.Outcome State Fault Refusal :=
  issue (vecMeta sc d a b) s
    (laneOp .int b fun x y _ => subSatU x y)

/-- IAVGU (R106): (x + y + 1) >> 1 in 33 bits. -/
def execIavgu (sc : Scope) (d a : Reg) (b : Opb) (s : State) : Host.Outcome State Fault Refusal :=
  issue (vecMeta sc d a b) s
    (laneOp .int b fun x y _ => avgU x y)

/-- IRSUB (R106): (y - x) mod 2^32. -/
def execIrsub (sc : Scope) (d a : Reg) (b : Opb) (s : State) : Host.Outcome State Fault Refusal :=
  issue (vecMeta sc d a b) s
    (laneOp .int b fun x y _ => y - x)

/-- AND (R107). -/
def execAnd (sc : Scope) (d a : Reg) (b : Opb) (s : State) : Host.Outcome State Fault Refusal :=
  issue (vecMeta sc d a b) s
    (laneOp .int b fun x y _ => x &&& y)

/-- OR (R107). -/
def execOr (sc : Scope) (d a : Reg) (b : Opb) (s : State) : Host.Outcome State Fault Refusal :=
  issue (vecMeta sc d a b) s
    (laneOp .int b fun x y _ => x ||| y)

/-- XOR (R107). -/
def execXor (sc : Scope) (d a : Reg) (b : Opb) (s : State) : Host.Outcome State Fault Refusal :=
  issue (vecMeta sc d a b) s
    (laneOp .int b fun x y _ => x ^^^ y)

/-- ANDN (R107): x AND NOT y. -/
def execAndn (sc : Scope) (d a : Reg) (b : Opb) (s : State) : Host.Outcome State Fault Refusal :=
  issue (vecMeta sc d a b) s
    (laneOp .int b fun x y _ => x &&& ~~~y)

/-- ORN (R107): x OR NOT y. -/
def execOrn (sc : Scope) (d a : Reg) (b : Opb) (s : State) : Host.Outcome State Fault Refusal :=
  issue (vecMeta sc d a b) s
    (laneOp .int b fun x y _ => x ||| ~~~y)

/-- XNOR (R107). -/
def execXnor (sc : Scope) (d a : Reg) (b : Opb) (s : State) : Host.Outcome State Fault Refusal :=
  issue (vecMeta sc d a b) s
    (laneOp .int b fun x y _ => ~~~(x ^^^ y))

/-- SHL (R107): 0 for a count of 32 or more. -/
def execShl (sc : Scope) (d a : Reg) (b : Opb) (s : State) : Host.Outcome State Fault Refusal :=
  issue (vecMeta sc d a b) s
    (laneOp .int b fun x y _ => shlW x y)

/-- SHR (R107): 0 for a count of 32 or more. -/
def execShr (sc : Scope) (d a : Reg) (b : Opb) (s : State) : Host.Outcome State Fault Refusal :=
  issue (vecMeta sc d a b) s
    (laneOp .int b fun x y _ => shrW x y)

/-- SAR (R107): the sign for a count of 32 or more. -/
def execSar (sc : Scope) (d a : Reg) (b : Opb) (s : State) : Host.Outcome State Fault Refusal :=
  issue (vecMeta sc d a b) s
    (laneOp .int b fun x y _ => sarW x y)

/-- ROTL (R107): by y mod 32. -/
def execRotl (sc : Scope) (d a : Reg) (b : Opb) (s : State) : Host.Outcome State Fault Refusal :=
  issue (vecMeta sc d a b) s
    (laneOp .int b fun x y _ => rotlW x y)

/-- ROTR (R107): by y mod 32. -/
def execRotr (sc : Scope) (d a : Reg) (b : Opb) (s : State) : Host.Outcome State Fault Refusal :=
  issue (vecMeta sc d a b) s
    (laneOp .int b fun x y _ => rotrW x y)

/-- POPC (R107): the number of set bits of b. -/
def execPopc (sc : Scope) (d : Reg) (b : Opb) (s : State) : Host.Outcome State Fault Refusal :=
  issue (vecMeta1 sc d b) s
    (laneOp .int b fun _ y _ => BitVec.ofNat 32 (popcount y))

/-- CLZ (R107): leading zero bits of b, 32 for 0. -/
def execClz (sc : Scope) (d : Reg) (b : Opb) (s : State) : Host.Outcome State Fault Refusal :=
  issue (vecMeta1 sc d b) s
    (laneOp .int b fun _ y _ => BitVec.ofNat 32 (leadingZeros y))

/-- BREV (R107): bit i to bit 31 - i. -/
def execBrev (sc : Scope) (d : Reg) (b : Opb) (s : State) : Host.Outcome State Fault Refusal :=
  issue (vecMeta1 sc d b) s
    (laneOp .int b fun _ y _ => bitReverse y)

/-- BFXU (R108). -/
def execBfxu (sc : Scope) (d a : Reg) (b : Opb) (s : State) : Host.Outcome State Fault Refusal :=
  issue (vecMeta sc d a b) s
    (laneOp .int b fun x y _ => bfxu x y)

/-- BFXS (R108). -/
def execBfxs (sc : Scope) (d a : Reg) (b : Opb) (s : State) : Host.Outcome State Fault Refusal :=
  issue (vecMeta sc d a b) s
    (laneOp .int b fun x y _ => bfxs x y)

/-- BFI (R108), into the old d. -/
def execBfi (sc : Scope) (d a : Reg) (b : Opb) (s : State) : Host.Outcome State Fault Refusal :=
  issue (vecMeta3 sc d a b) s
    (laneOp .int b fun x y z => bfi x y z)

/-- BYSEL (R108), with the old d in its pool. -/
def execBysel (sc : Scope) (d a : Reg) (b : Opb) (s : State) : Host.Outcome State Fault Refusal :=
  issue (vecMeta3 sc d a b) s
    (laneOp .int b fun x y z => bysel x y z)

/-- FSHL (R108): bits [63:32] of x:d0 shifted left. -/
def execFshl (sc : Scope) (d a : Reg) (b : Opb) (s : State) : Host.Outcome State Fault Refusal :=
  issue (vecMeta3 sc d a b) s
    (laneOp .int b fun x y z => fshl x y z)

/-- FSHR (R108): bits [31:0] of x:d0 shifted right. -/
def execFshr (sc : Scope) (d a : Reg) (b : Opb) (s : State) : Host.Outcome State Fault Refusal :=
  issue (vecMeta3 sc d a b) s
    (laneOp .int b fun x y z => fshr x y z)

end Sys2Proof.Machine
end

