-- ==== Sys2Proof/Machine/Move.lean ====
section
/-! DEFINITION. The meanings of MOVSEL, MOVI and SMOVI (R111, R112, R29). -/

namespace Sys2Proof.Machine

open Sys2Proof

/-- MOV (R111). -/
def execMov (sc : Scope) (d : Reg) (b : Opb) (s : State) : Host.Outcome State Fault Refusal :=
  issue (vecMeta1 sc d b) s
    (laneOp .int b fun _ y _ => y)

/-- SEL (R111): p[k] of the lane selects x or y. -/
def execSel (sc : Scope) (p : BitVec 3) (d a : Reg) (b : Opb) (s : State) : Host.Outcome State Fault Refusal :=
  issue (vecMeta sc d a b) s fun s j =>
    (s.operand j .int b).eff fun y =>
      .next (s.putRow j (rowOf fun i =>
        if (j.w.pred p.toNat).getLsbD i then laneOf (j.w.row j.a) i else laneOf y i))

/-- A function of two predicates into a third (R112). -/
def predOp (d a : BitVec 3) (b : Opb) (f : LaneMask → LaneMask → LaneMask) (s : State) (j : Job) : Eff :=
  .next (s.put j fun w => w.setPred j.live d.toNat (f (j.w.pred a.toNat) (j.w.pred (b.num % 8))))

/-- PAND, POR and PXOR require bk 0b00 (R112). -/
def pred2Meta (sc : Scope) (b : Opb) : Meta := { predMeta sc with opb := some b, bad := !b.isV }

/-- PAND (R112). -/
def execPand (sc : Scope) (d a : BitVec 3) (b : Opb) (s : State) : Host.Outcome State Fault Refusal :=
  issue (pred2Meta sc b) s
    (predOp d a b fun x y => x &&& y)

/-- POR (R112). -/
def execPor (sc : Scope) (d a : BitVec 3) (b : Opb) (s : State) : Host.Outcome State Fault Refusal :=
  issue (pred2Meta sc b) s
    (predOp d a b fun x y => x ||| y)

/-- PXOR (R112). -/
def execPxor (sc : Scope) (d a : BitVec 3) (b : Opb) (s : State) : Host.Outcome State Fault Refusal :=
  issue (pred2Meta sc b) s
    (predOp d a b fun x y => x ^^^ y)

/-- PNOT (R112). -/
def execPnot (sc : Scope) (d a : BitVec 3) (s : State) : Host.Outcome State Fault Refusal :=
  issue (predMeta sc) s fun s j => .next (s.put j fun w => w.setPred j.live d.toNat (~~~j.w.pred a.toNat))

/-- The eight predicates of a lane as a byte (R112). -/
def predByte (w : Warp) (i : Nat) : Word :=
  (List.range 8).foldl (fun x q => if (w.pred q).getLsbD i then x ||| BitVec.ofNat 32 (2 ^ q) else x) 0

/-- P2V (R112). -/
def execP2v (sc : Scope) (d : Reg) (s : State) : Host.Outcome State Fault Refusal :=
  issue { predMeta sc with d := d.toNat, nd := 1 } s fun s j => .next (s.putRow j (rowOf fun i => predByte j.w i))

/-- V2P (R112): p1 to p7 from bits 1 to 7. -/
def execV2p (sc : Scope) (a : Reg) (s : State) : Host.Outcome State Fault Refusal :=
  issue { predMeta sc with a := a.toNat, na := 1 } s fun s j =>
    let setP : Warp → Nat → Warp := fun w q => w.setPred j.live q (maskOf fun i => (laneOf (j.w.row j.a) i).getLsbD q)
    .next (s.put j fun w => [1, 2, 3, 4, 5, 6, 7].foldl setP w)

/-- What MOVI names. -/
def moviMeta (sc : Scope) (d : Reg) : Meta :=
  { cls := .laneWise, scope := sc, d := d.toNat, nd := 1, xreg := true, xpred := true }

/-- MOVI (R29): the sign-extended immediate in every live lane. -/
def execMovi (sc : Scope) (d : Reg) (imm : BitVec 18) (s : State) : Host.Outcome State Fault Refusal :=
  issue (moviMeta sc d) s fun s j =>
    .next (s.putRow j (splat (imm.signExtend 32)))

/-- SMOVI (R29). -/
def execSmovi (sc : Scope) (d : Reg) (imm : BitVec 18) (s : State) : Host.Outcome State Fault Refusal :=
  issue { cls := .scalar, scope := sc } s fun s j => .next (s.put j fun w => w.setS d.toNat (imm.signExtend 32))

end Sys2Proof.Machine
end

