-- ==== Sys2Proof/Machine/MulAdd.lean ====
section
/-! DEFINITION. The meanings of IMAD: multiply-add, addresses and 64-bit integers (R110). -/

namespace Sys2Proof.Machine

open Sys2Proof

/-- An instruction on even v pairs in d and a (R110). -/
def pairMeta (sc : Scope) (d a : Reg) (b : Opb) : Meta :=
  { vecMeta sc d a b with nd := 2, na := 2, bad := d.getLsbD 0 || a.getLsbD 0 }

/-- The same with a 64-bit b operand. -/
def pairMeta64 (sc : Scope) (d a : Reg) (b : Opb) : Meta :=
  { vecMeta sc d a b with nd := 2, na := 2, nb := b.vcount 2, wide := true, bad := d.getLsbD 0 || a.getLsbD 0 || b.badPair }

/-- IMAC (R110): x × y + old d. -/
def execImac (sc : Scope) (d a : Reg) (b : Opb) (s : State) : Host.Outcome State Fault Refusal :=
  issue (vecMeta3 sc d a b) s
    (laneOp .int b fun x y z => x * y + z)

/-- IMAD (R110): old d × x + y. -/
def execImad (sc : Scope) (d a : Reg) (b : Opb) (s : State) : Host.Outcome State Fault Refusal :=
  issue (vecMeta3 sc d a b) s
    (laneOp .int b fun x y z => z * x + y)

/-- LEA (R110): the pair at a plus 1 times the index. -/
def execLea (sc : Scope) (d a : Reg) (b : Opb) (s : State) : Host.Outcome State Fault Refusal :=
  issue (pairMeta sc d a b) s
    (laneLea b fun x y => x + y)

/-- LEA2 (R110): the pair at a plus 2 times the index. -/
def execLea2 (sc : Scope) (d a : Reg) (b : Opb) (s : State) : Host.Outcome State Fault Refusal :=
  issue (pairMeta sc d a b) s
    (laneLea b fun x y => x + y * 2)

/-- LEA4 (R110): the pair at a plus 4 times the index. -/
def execLea4 (sc : Scope) (d a : Reg) (b : Opb) (s : State) : Host.Outcome State Fault Refusal :=
  issue (pairMeta sc d a b) s
    (laneLea b fun x y => x + y * 4)

/-- LEA8 (R110): the pair at a plus 8 times the index. -/
def execLea8 (sc : Scope) (d a : Reg) (b : Opb) (s : State) : Host.Outcome State Fault Refusal :=
  issue (pairMeta sc d a b) s
    (laneLea b fun x y => x + y * 8)

/-- LEA16 (R110): the pair at a plus 16 times the index. -/
def execLea16 (sc : Scope) (d a : Reg) (b : Opb) (s : State) : Host.Outcome State Fault Refusal :=
  issue (pairMeta sc d a b) s
    (laneLea b fun x y => x + y * 16)

/-- IADD64 (R110). -/
def execIadd64 (sc : Scope) (d a : Reg) (b : Opb) (s : State) : Host.Outcome State Fault Refusal :=
  issue (pairMeta64 sc d a b) s
    (laneOp64 b fun x y => x + y)

/-- ISUB64 (R110). -/
def execIsub64 (sc : Scope) (d a : Reg) (b : Opb) (s : State) : Host.Outcome State Fault Refusal :=
  issue (pairMeta64 sc d a b) s
    (laneOp64 b fun x y => x - y)

/-- IMULW (R110): the exact signed product, into the pair at d. -/
def execImulw (sc : Scope) (d a : Reg) (b : Opb) (s : State) : Host.Outcome State Fault Refusal :=
  issue { vecMeta sc d a b with nd := 2, bad := d.getLsbD 0 } s fun s j =>
    (s.operand j .int b).eff fun y =>
      .next (s.putRow64 j (Vector.ofFn fun i => (laneOf (j.w.row j.a) i).signExtend 64 * (laneOf y i).signExtend 64))

end Sys2Proof.Machine
end

