-- ==== Sys2Proof/Machine/Packed.lean ====
section
/-! DEFINITION. The meanings of PK16 and DOT (R153, R154). -/

namespace Sys2Proof.Machine

open Sys2Proof

/-- A PK16 instruction: an XIMM payload that is its b operand must leave bits [19:16] zero (R28). -/
def pkMeta (sc : Scope) (d a : Reg) (b : Opb) : Meta :=
  { vecMeta sc d a b with xmod := xmFloat, badPayload := fun p => b.isXimm && decide (p.extractLsb' 16 4 ≠ 0) }

/-- PK2, PKB2, UPKL and UPKH read b as a whole word: no immediate, and no XIMM payload (R153). -/
def wholeMeta (m : Meta) (b : Opb) : Meta := { m with xmod := xmFloat, bad := b.isImm, badPayload := fun _ => b.isXimm }

/-- HPADD (R153): packed FP16. -/
def execHpadd (sc : Scope) (d a : Reg) (b : Opb) (s : State) : Host.Outcome State Fault Refusal :=
  issue (pkMeta sc d a b) s fun s j =>
    laneFloat (.packed fp16) b (fun a b c => onHalves (fun x y _ => j.fmode.add fp16 x y) a b c) s j

/-- HPMUL (R153): packed FP16. -/
def execHpmul (sc : Scope) (d a : Reg) (b : Opb) (s : State) : Host.Outcome State Fault Refusal :=
  issue (pkMeta sc d a b) s fun s j =>
    laneFloat (.packed fp16) b (fun a b c => onHalves (fun x y _ => j.fmode.mul fp16 x y) a b c) s j

/-- HPFMA (R153): packed FP16. -/
def execHpfma (sc : Scope) (d a : Reg) (b : Opb) (s : State) : Host.Outcome State Fault Refusal :=
  issue ({ pkMeta sc d a b with readD := true }) s fun s j =>
    laneFloat (.packed fp16) b (fun a b c => onHalves (fun x y z => j.fmode.fma fp16 x y z) a b c) s j

/-- HPMIN (R153): packed FP16. -/
def execHpmin (sc : Scope) (d a : Reg) (b : Opb) (s : State) : Host.Outcome State Fault Refusal :=
  issue (pkMeta sc d a b) s fun s j =>
    laneFloat (.packed fp16) b (fun a b c => onHalves (fun x y _ => j.fmode.minMax fp16 false x y) a b c) s j

/-- HPMAX (R153): packed FP16. -/
def execHpmax (sc : Scope) (d a : Reg) (b : Opb) (s : State) : Host.Outcome State Fault Refusal :=
  issue (pkMeta sc d a b) s fun s j =>
    laneFloat (.packed fp16) b (fun a b c => onHalves (fun x y _ => j.fmode.minMax fp16 true x y) a b c) s j

/-- BPADD (R153): packed BF16. -/
def execBpadd (sc : Scope) (d a : Reg) (b : Opb) (s : State) : Host.Outcome State Fault Refusal :=
  issue (pkMeta sc d a b) s fun s j =>
    laneFloat (.packed bf16) b (fun a b c => onHalves (fun x y _ => j.fmode.add bf16 x y) a b c) s j

/-- BPMUL (R153): packed BF16. -/
def execBpmul (sc : Scope) (d a : Reg) (b : Opb) (s : State) : Host.Outcome State Fault Refusal :=
  issue (pkMeta sc d a b) s fun s j =>
    laneFloat (.packed bf16) b (fun a b c => onHalves (fun x y _ => j.fmode.mul bf16 x y) a b c) s j

/-- BPFMA (R153): packed BF16. -/
def execBpfma (sc : Scope) (d a : Reg) (b : Opb) (s : State) : Host.Outcome State Fault Refusal :=
  issue ({ pkMeta sc d a b with readD := true }) s fun s j =>
    laneFloat (.packed bf16) b (fun a b c => onHalves (fun x y z => j.fmode.fma bf16 x y z) a b c) s j

/-- BPMIN (R153): packed BF16. -/
def execBpmin (sc : Scope) (d a : Reg) (b : Opb) (s : State) : Host.Outcome State Fault Refusal :=
  issue (pkMeta sc d a b) s fun s j =>
    laneFloat (.packed bf16) b (fun a b c => onHalves (fun x y _ => j.fmode.minMax bf16 false x y) a b c) s j

/-- BPMAX (R153): packed BF16. -/
def execBpmax (sc : Scope) (d a : Reg) (b : Opb) (s : State) : Host.Outcome State Fault Refusal :=
  issue (pkMeta sc d a b) s fun s j =>
    laneFloat (.packed bf16) b (fun a b c => onHalves (fun x y _ => j.fmode.minMax bf16 true x y) a b c) s j

/-- PK2 (R153). -/
def execPk2 (sc : Scope) (d a : Reg) (b : Opb) (s : State) : Host.Outcome State Fault Refusal :=
  issue (wholeMeta (vecMeta sc d a b) b) s fun s j =>
    laneFloat (.int) b (fun x y _ => packPair (j.fmode.narrow fp16 x) (j.fmode.narrow fp16 y)) s j

/-- PKB2 (R153). -/
def execPkb2 (sc : Scope) (d a : Reg) (b : Opb) (s : State) : Host.Outcome State Fault Refusal :=
  issue (wholeMeta (vecMeta sc d a b) b) s fun s j =>
    laneFloat (.int) b (fun x y _ => packPair (j.fmode.narrow bf16 x) (j.fmode.narrow bf16 y)) s j

/-- UPKL (R153). -/
def execUpkl (sc : Scope) (d : Reg) (b : Opb) (s : State) : Host.Outcome State Fault Refusal :=
  issue (wholeMeta (vecMeta1 sc d b) b) s fun s j =>
    laneFloat (.int) b (fun _ y _ => j.fmode.widen (half y 0)) s j

/-- UPKH (R153). -/
def execUpkh (sc : Scope) (d : Reg) (b : Opb) (s : State) : Host.Outcome State Fault Refusal :=
  issue (wholeMeta (vecMeta1 sc d b) b) s fun s j =>
    laneFloat (.int) b (fun _ y _ => j.fmode.widen (half y 1)) s j

/-- A DOT instruction: the old d is the addend; SAT alone is accepted (R154). -/
def dotMeta (sc : Scope) (d a : Reg) (b : Opb) : Meta := { vecMeta3 sc d a b with xmod := xmSat }

/-- IDP4 (R154). -/
def execIdp4 (sc : Scope) (d a : Reg) (b : Opb) (s : State) : Host.Outcome State Fault Refusal :=
  issue (dotMeta sc d a b) s fun s j =>
    laneFloat .int b (fun x y z => (dotInt j.sat (dotSum (sintOf 8) x y z), fxNone)) s j

/-- IDP4U (R154), with z read as signed. -/
def execIdp4u (sc : Scope) (d a : Reg) (b : Opb) (s : State) : Host.Outcome State Fault Refusal :=
  issue (dotMeta sc d a b) s fun s j =>
    laneFloat .int b (fun x y z => (dotInt j.sat (dotSum Int.ofNat x y z), fxNone)) s j

/-- BDP2 (R154). -/
def execBdp2 (sc : Scope) (d a : Reg) (b : Opb) (s : State) : Host.Outcome State Fault Refusal :=
  issue (dotMeta sc d a b) s fun s j =>
    laneFloat .int b (fun x y z => dotFloat j.ftzDefault (halfProducts j.ftzDefault x y) z) s j

/-- EDP4 (R154). -/
def execEdp4 (sc : Scope) (d a : Reg) (b : Opb) (s : State) : Host.Outcome State Fault Refusal :=
  issue (dotMeta sc d a b) s fun s j =>
    laneFloat .int b (fun x y z => dotFloat j.ftzDefault (byteProducts e4m3.decode e4m3.decode x y) z) s j

/-- DSDP4 (R154): DS8 in a, E4M3 in b. -/
def execDsdp4 (sc : Scope) (d a : Reg) (b : Opb) (s : State) : Host.Outcome State Fault Refusal :=
  issue (dotMeta sc d a b) s fun s j =>
    laneFloat .int b (fun x y z => dotFloat j.ftzDefault (byteProducts ds8Decode e4m3.decode x y) z) s j

end Sys2Proof.Machine
end

