-- ==== Sys2Proof/Machine/Scalar.lean ====
section
/-! DEFINITION. The meanings of SALU (R113). -/

namespace Sys2Proof.Machine

open Sys2Proof

/-- SADD (R113). -/
def execSadd (sc : Scope) (d a : Reg) (b : Opb) (s : State) : Host.Outcome State Fault Refusal :=
  issue (scalarMeta sc b) s
    (scalarOp d a b fun x y => x + y)

/-- SSUB (R113). -/
def execSsub (sc : Scope) (d a : Reg) (b : Opb) (s : State) : Host.Outcome State Fault Refusal :=
  issue (scalarMeta sc b) s
    (scalarOp d a b fun x y => x - y)

/-- SMUL (R113). -/
def execSmul (sc : Scope) (d a : Reg) (b : Opb) (s : State) : Host.Outcome State Fault Refusal :=
  issue (scalarMeta sc b) s
    (scalarOp d a b fun x y => x * y)

/-- SAND (R113). -/
def execSand (sc : Scope) (d a : Reg) (b : Opb) (s : State) : Host.Outcome State Fault Refusal :=
  issue (scalarMeta sc b) s
    (scalarOp d a b fun x y => x &&& y)

/-- SOR (R113). -/
def execSor (sc : Scope) (d a : Reg) (b : Opb) (s : State) : Host.Outcome State Fault Refusal :=
  issue (scalarMeta sc b) s
    (scalarOp d a b fun x y => x ||| y)

/-- SXOR (R113). -/
def execSxor (sc : Scope) (d a : Reg) (b : Opb) (s : State) : Host.Outcome State Fault Refusal :=
  issue (scalarMeta sc b) s
    (scalarOp d a b fun x y => x ^^^ y)

/-- SSHL (R113). -/
def execSshl (sc : Scope) (d a : Reg) (b : Opb) (s : State) : Host.Outcome State Fault Refusal :=
  issue (scalarMeta sc b) s
    (scalarOp d a b fun x y => shlW x y)

/-- SSHR (R113). -/
def execSshr (sc : Scope) (d a : Reg) (b : Opb) (s : State) : Host.Outcome State Fault Refusal :=
  issue (scalarMeta sc b) s
    (scalarOp d a b fun x y => shrW x y)

/-- SSAR (R113). -/
def execSsar (sc : Scope) (d a : Reg) (b : Opb) (s : State) : Host.Outcome State Fault Refusal :=
  issue (scalarMeta sc b) s
    (scalarOp d a b fun x y => sarW x y)

/-- SMIN (R113). -/
def execSmin (sc : Scope) (d a : Reg) (b : Opb) (s : State) : Host.Outcome State Fault Refusal :=
  issue (scalarMeta sc b) s
    (scalarOp d a b fun x y => minS x y)

/-- SMAX (R113). -/
def execSmax (sc : Scope) (d a : Reg) (b : Opb) (s : State) : Host.Outcome State Fault Refusal :=
  issue (scalarMeta sc b) s
    (scalarOp d a b fun x y => maxS x y)

/-- SMINU (R113). -/
def execSminu (sc : Scope) (d a : Reg) (b : Opb) (s : State) : Host.Outcome State Fault Refusal :=
  issue (scalarMeta sc b) s
    (scalarOp d a b fun x y => minU x y)

/-- SMAXU (R113). -/
def execSmaxu (sc : Scope) (d a : Reg) (b : Opb) (s : State) : Host.Outcome State Fault Refusal :=
  issue (scalarMeta sc b) s
    (scalarOp d a b fun x y => maxU x y)

/-- SMOV (R113). -/
def execSmov (sc : Scope) (d : Reg) (b : Opb) (s : State) : Host.Outcome State Fault Refusal :=
  issue (scalarMeta sc b) s (scalarOp d 0 b fun _ y => y)

/-- What SADD64 names. -/
def sadd64Meta (sc : Scope) (d : Reg) (a : Reg) (b : Opb) : Meta :=
  { scalarMeta sc b with wide := true, bad := b.isV || d.getLsbD 0 || a.getLsbD 0 || b.badPair }

/-- SADD64 (R113): on even s pairs; b is read by the 64-bit row of R28. -/
def execSadd64 (sc : Scope) (d a : Reg) (b : Opb) (s : State) : Host.Outcome State Fault Refusal :=
  issue (sadd64Meta sc d a b) s fun s j =>
    (s.uniform64 j b).eff fun y => .next (s.put j fun w => w.setS64 d.toNat (j.w.sreg64 a.toNat + y))

/-- SLEA (R113): the pair at a plus the sign-extended 32-bit operand. -/
def execSlea (sc : Scope) (d a : Reg) (b : Opb) (s : State) : Host.Outcome State Fault Refusal :=
  issue { scalarMeta sc b with bad := b.isV || d.getLsbD 0 || a.getLsbD 0 } s fun s j =>
    (s.uniform j .int b).eff fun y => .next (s.put j fun w => w.setS64 d.toNat (j.w.sreg64 a.toNat + y.signExtend 64))

end Sys2Proof.Machine
end

