-- ==== Sys2Proof/Machine/Sys.lean ====
section
/-! DEFINITION. TRAP, ERET, BKPT and HALT (R209), and the special registers (R122 to R124). -/

namespace Sys2Proof.Machine

open Sys2Proof

/-- TRAP (R209): SOFTWARE_TRAP with its code. -/
def execTrap (sc : Scope) (code : BitVec 6) (s : State) : Host.Outcome State Fault Refusal :=
  issue { cls := .scalar, scope := sc } s fun _ _ => .trap { Trap.plain 11 with code2 := code.toNat }

/-- BKPT (R209): BREAKPOINT with its code. -/
def execBkpt (sc : Scope) (code : BitVec 6) (s : State) : Host.Outcome State Fault Refusal :=
  issue { cls := .scalar, scope := sc } s fun _ _ => .trap { Trap.plain 10 with code2 := code.toNat }

/-- The mode of an ERET: as its code says, else the cause's default (R209, R212). -/
def eretMode (w : Warp) (code : Nat) : Resume :=
  if code = 1 then .replay
  else if code = 2 then .skip
  else if replayCodes.contains (bitsOf w.cause.toNat 5 0) then .replay else .skip

/-- How an ERET resumes: at an FPC that the handler wrote, else by its mode (R209). -/
def resumeOf (w : Warp) (code : Nat) : Resume := if w.fpcWritten then .written else eretMode w code

/-- The address at which the reporting split resumes. -/
def resumeAddr (w : Warp) (fr : Frame) (how : Resume) : Dword :=
  match how with
  | .skip => fr.next
  | _ => w.fpc

/-- A resume address must be aligned, canonical and executable (R209). -/
def State.resumeCheck (s : State) (c : Context) (a : Dword) : Got Unit :=
  if a.toNat % 4 ≠ 0 then .trap (Trap.at 23 a 0)
  else if !canonical a then .trap (Trap.at 22 a 0)
  else
    match s.access c .fetch a with
    | .ok _ => .ok ()
    | .trap code => .trap (Trap.at code a 0)
    | .wait => .wait (s.noteMiss c .fetch a)

/-- What ERET names. -/
def eretMeta (sc : Scope) (code : BitVec 6) : Meta :=
  { cls := .laneOnly, scope := sc, privileged := true, bad := decide (3 ≤ code.toNat) }

/-- ERET (R209). -/
def execEret (sc : Scope) (code : BitVec 6) (s : State) : Host.Outcome State Fault Refusal :=
  issue (eretMeta sc code) s fun s j =>
    match j.w.frame with
    | none => .next s
    | some fr =>
      let how := resumeOf j.w code.toNat
      (s.resumeCheck j.ctx (resumeAddr j.w fr how)).eff fun _ =>
        .done (if fr.pop then s.popEret j.w fr how (eretMode j.w code.toNat) else s.eret j.w fr how)

/-- HALT (R209): the host record holds the warp's CAUSE, FADDR and FPC, and the context is killed. -/
def execHalt (sc : Scope) (s : State) : Host.Outcome State Fault Refusal :=
  issue { cls := .laneOnly, scope := sc, privileged := true } s fun s j =>
    let f := j.w.field
    let c := j.ctx.ctxid
    .done ((s.hostRecord f c j.w.cause j.w.faddr j.w.fpc j.w.core j.w.slot).killCtx f c)

/-! ## Special registers (R122 to R124) -/

/-- The 64-bit special registers (R123). -/
def sregWide (n : Nat) : Bool := n == 17 || n == 32 || n == 49 || n == 50

/-- The special registers held per lane (R123). -/
def sregPerLane (n : Nat) : Bool := n == 0 || n == 8 || n == 16 || n == 17 || n == 18

/-- CAUSE, FADDR and FPC belong to handler mode (R124). -/
def sregPrivileged (n : Nat) : Bool := n == 48 || n == 49 || n == 50

/-- The population of a warp's launch. -/
def State.popOf (s : State) (w : Warp) : Option Population := (s.launchOf w).bind fun l => s.pop? l.uid

/-- The count of a core's cycles (R123); 0 before its first read (log 7). -/
def State.cyclesOf (s : State) (core : Nat) : Dword :=
  ((s.cycles.find? fun (e : Nat × Dword) => e.1 == core).map fun (e : Nat × Dword) => e.2).getD 0

/-- Some cycles pass before a read of CYCLES (log 7). -/
def State.tick (s : State) (core : Nat) : State :=
  let c := s.cyclesOf core + Config.freeCycles s.fresh
  { s with cycles := (core, c) :: s.cycles.filter fun (e : Nat × Dword) => e.1 != core }

/-- A warp's special register (R123). -/
def State.sregWarp (s : State) (j : Job) (n : Nat) : Dword :=
  let w := j.w
  let word : Nat → Dword := fun x => BitVec.ofNat 64 (x % 2 ^ 32)
  match n with
  | 1 => word w.wid
  | 2 => word (s.setIdOf w)
  | 3 => word (if j.launch.sets = 0 then 0 else w.wid % j.launch.sets)
  | 4 => word j.block.bid
  | 5 => j.launch.griddim.zeroExtend 64
  | 6 => word w.core
  | 7 => word w.field
  | 9 => word j.ctx.ctxid
  | 19 => match s.popOf w with
    | some p => p.generation.zeroExtend 64
    | none => 0xFFFFFFFF#64
  | 24 => w.mask.zeroExtend 64
  | 25 => w.cwin.zeroExtend 64
  | 32 => s.cyclesOf w.core
  | 40 => match j.block.tile with
    | some t => t.tilex.zeroExtend 64
    | none => 0xFFFFFFFF#64
  | 41 => match j.block.tile with
    | some t => t.tiley.zeroExtend 64
    | none => 0xFFFFFFFF#64
  | 42 => match j.block.tile with
    | some t => t.passid.zeroExtend 64
    | none => 0xFFFFFFFF#64
  | 48 => w.cause.zeroExtend 64
  | 49 => w.faddr
  | 50 => w.fpc
  | _ => (((s.field? w.field).map Field.caps).getD 0).zeroExtend 64

/-- A special register in a lane (R123). -/
def State.sregLane (s : State) (j : Job) (n i : Nat) : Dword :=
  match n with
  | 0 => BitVec.ofNat 64 i
  | 8 => (laneOf j.w.logid i).zeroExtend 64
  | 16 => (laneOf j.w.rank i).zeroExtend 64
  | 17 => laneOf64 j.w.lineage i
  | 18 => (laneOf j.w.parent i).zeroExtend 64
  | _ => s.sregWarp j n

/-- What SREAD names. -/
def sreadMeta (sc : Scope) (d : Reg) (toS : Bool) (num : BitVec 6) : Meta :=
  let n := num.toNat
  { cls := .scalar, scope := sc, d := d.toNat, nd := if toS then 0 else if sregWide n then 2 else 1,
          privileged := sregPrivileged n,
          bad := (toS && sregPerLane n) || (sregWide n && d.getLsbD 0) }

/-- SREAD (R122). -/
def execSread (sc : Scope) (d : Reg) (toS : Bool) (num : BitVec 6) (s : State) : Host.Outcome State Fault Refusal :=
  let n := num.toNat
  issue (sreadMeta sc d toS num) s fun s j =>
    let s := if n = 32 then s.tick j.w.core else s
    if toS then
      .next (s.put j fun w =>
        if sregWide n then w.setS64 d.toNat (s.sregWarp j n) else w.setS d.toNat (loWord (s.sregWarp j n)))
    else if sregWide n then .next (s.putRow64 j (Vector.ofFn fun i => s.sregLane j n i))
    else .next (s.putRow j (rowOf fun i => loWord (s.sregLane j n i)))

/-- What SWRITE names. -/
def swriteMeta (sc : Scope) (a : Reg) (num : BitVec 6) : Meta :=
  let n := num.toNat
  { cls := .scalar, scope := sc, privileged := sregPrivileged n,
          bad := (n != 24 && n != 50) || (n == 50 && a.getLsbD 0) }

/-- SWRITE (R122): MASK, and in handler mode FPC, are writable. -/
def execSwrite (sc : Scope) (a : Reg) (num : BitVec 6) (s : State) : Host.Outcome State Fault Refusal :=
  let n := num.toNat
  issue (swriteMeta sc a num) s fun s j =>
    if n = 24 then .next (s.put j fun w => { w with mask := j.w.sreg a.toNat })
    else .next (s.put j fun w => { w with fpc := j.w.sreg64 a.toNat, fpcWritten := true })

end Sys2Proof.Machine
end

