-- ==== Sys2Proof/Machine/Dispatch.lean ====
section
/-! DEFINITION. One arm per instruction: each calls its meaning. -/

namespace Sys2Proof.Machine

open Sys2Proof

def exec (i : Instr) (s : State) : Host.Outcome State Fault Refusal :=
  match i with
  | .iadd sc d a b => Sys2Proof.Machine.execIadd sc d a b s
  | .isub sc d a b => Sys2Proof.Machine.execIsub sc d a b s
  | .imul sc d a b => Sys2Proof.Machine.execImul sc d a b s
  | .imulhi sc d a b => Sys2Proof.Machine.execImulhi sc d a b s
  | .imulhiu sc d a b => Sys2Proof.Machine.execImulhiu sc d a b s
  | .imin sc d a b => Sys2Proof.Machine.execImin sc d a b s
  | .imax sc d a b => Sys2Proof.Machine.execImax sc d a b s
  | .iminu sc d a b => Sys2Proof.Machine.execIminu sc d a b s
  | .imaxu sc d a b => Sys2Proof.Machine.execImaxu sc d a b s
  | .iabsd sc d a b => Sys2Proof.Machine.execIabsd sc d a b s
  | .iaddsat sc d a b => Sys2Proof.Machine.execIaddsat sc d a b s
  | .isubsat sc d a b => Sys2Proof.Machine.execIsubsat sc d a b s
  | .iaddsatu sc d a b => Sys2Proof.Machine.execIaddsatu sc d a b s
  | .isubsatu sc d a b => Sys2Proof.Machine.execIsubsatu sc d a b s
  | .iavgu sc d a b => Sys2Proof.Machine.execIavgu sc d a b s
  | .irsub sc d a b => Sys2Proof.Machine.execIrsub sc d a b s
  | .and sc d a b => Sys2Proof.Machine.execAnd sc d a b s
  | .or sc d a b => Sys2Proof.Machine.execOr sc d a b s
  | .xor sc d a b => Sys2Proof.Machine.execXor sc d a b s
  | .andn sc d a b => Sys2Proof.Machine.execAndn sc d a b s
  | .orn sc d a b => Sys2Proof.Machine.execOrn sc d a b s
  | .xnor sc d a b => Sys2Proof.Machine.execXnor sc d a b s
  | .shl sc d a b => Sys2Proof.Machine.execShl sc d a b s
  | .shr sc d a b => Sys2Proof.Machine.execShr sc d a b s
  | .sar sc d a b => Sys2Proof.Machine.execSar sc d a b s
  | .rotl sc d a b => Sys2Proof.Machine.execRotl sc d a b s
  | .rotr sc d a b => Sys2Proof.Machine.execRotr sc d a b s
  | .popc sc d b => Sys2Proof.Machine.execPopc sc d b s
  | .clz sc d b => Sys2Proof.Machine.execClz sc d b s
  | .brev sc d b => Sys2Proof.Machine.execBrev sc d b s
  | .bfxu sc d a b => Sys2Proof.Machine.execBfxu sc d a b s
  | .bfxs sc d a b => Sys2Proof.Machine.execBfxs sc d a b s
  | .bfi sc d a b => Sys2Proof.Machine.execBfi sc d a b s
  | .bysel sc d a b => Sys2Proof.Machine.execBysel sc d a b s
  | .fshl sc d a b => Sys2Proof.Machine.execFshl sc d a b s
  | .fshr sc d a b => Sys2Proof.Machine.execFshr sc d a b s
  | .icmpEq sc p comb a b => Sys2Proof.Machine.execIcmpEq sc p comb a b s
  | .icmpNe sc p comb a b => Sys2Proof.Machine.execIcmpNe sc p comb a b s
  | .icmpLt sc p comb a b => Sys2Proof.Machine.execIcmpLt sc p comb a b s
  | .icmpLe sc p comb a b => Sys2Proof.Machine.execIcmpLe sc p comb a b s
  | .icmpGt sc p comb a b => Sys2Proof.Machine.execIcmpGt sc p comb a b s
  | .icmpGe sc p comb a b => Sys2Proof.Machine.execIcmpGe sc p comb a b s
  | .icmpLtu sc p comb a b => Sys2Proof.Machine.execIcmpLtu sc p comb a b s
  | .icmpLeu sc p comb a b => Sys2Proof.Machine.execIcmpLeu sc p comb a b s
  | .icmpGtu sc p comb a b => Sys2Proof.Machine.execIcmpGtu sc p comb a b s
  | .icmpGeu sc p comb a b => Sys2Proof.Machine.execIcmpGeu sc p comb a b s
  | .imac sc d a b => Sys2Proof.Machine.execImac sc d a b s
  | .imad sc d a b => Sys2Proof.Machine.execImad sc d a b s
  | .lea sc d a b => Sys2Proof.Machine.execLea sc d a b s
  | .lea2 sc d a b => Sys2Proof.Machine.execLea2 sc d a b s
  | .lea4 sc d a b => Sys2Proof.Machine.execLea4 sc d a b s
  | .lea8 sc d a b => Sys2Proof.Machine.execLea8 sc d a b s
  | .lea16 sc d a b => Sys2Proof.Machine.execLea16 sc d a b s
  | .iadd64 sc d a b => Sys2Proof.Machine.execIadd64 sc d a b s
  | .isub64 sc d a b => Sys2Proof.Machine.execIsub64 sc d a b s
  | .imulw sc d a b => Sys2Proof.Machine.execImulw sc d a b s
  | .mov sc d b => Sys2Proof.Machine.execMov sc d b s
  | .sel sc p d a b => Sys2Proof.Machine.execSel sc p d a b s
  | .pand sc d a b => Sys2Proof.Machine.execPand sc d a b s
  | .por sc d a b => Sys2Proof.Machine.execPor sc d a b s
  | .pxor sc d a b => Sys2Proof.Machine.execPxor sc d a b s
  | .pnot sc d a => Sys2Proof.Machine.execPnot sc d a s
  | .p2v sc d => Sys2Proof.Machine.execP2v sc d s
  | .v2p sc a => Sys2Proof.Machine.execV2p sc a s
  | .cvt sc d a code sat rnd => Sys2Proof.Machine.execCvt sc d a code sat rnd s
  | .fadd sc d a b => Sys2Proof.Machine.execFadd sc d a b s
  | .fsub sc d a b => Sys2Proof.Machine.execFsub sc d a b s
  | .fmul sc d a b => Sys2Proof.Machine.execFmul sc d a b s
  | .fmac sc d a b => Sys2Proof.Machine.execFmac sc d a b s
  | .fmad sc d a b => Sys2Proof.Machine.execFmad sc d a b s
  | .fmns sc d a b => Sys2Proof.Machine.execFmns sc d a b s
  | .fmin sc d a b => Sys2Proof.Machine.execFmin sc d a b s
  | .fmax sc d a b => Sys2Proof.Machine.execFmax sc d a b s
  | .fabs sc d b => Sys2Proof.Machine.execFabs sc d b s
  | .fneg sc d b => Sys2Proof.Machine.execFneg sc d b s
  | .fsat sc d b => Sys2Proof.Machine.execFsat sc d b s
  | .ffloor sc d b => Sys2Proof.Machine.execFfloor sc d b s
  | .fceil sc d b => Sys2Proof.Machine.execFceil sc d b s
  | .ftrunc sc d b => Sys2Proof.Machine.execFtrunc sc d b s
  | .frint sc d b => Sys2Proof.Machine.execFrint sc d b s
  | .fcsgn sc d a b => Sys2Proof.Machine.execFcsgn sc d a b s
  | .fcmpEq sc p comb a b => Sys2Proof.Machine.execFcmpEq sc p comb a b s
  | .fcmpNe sc p comb a b => Sys2Proof.Machine.execFcmpNe sc p comb a b s
  | .fcmpLt sc p comb a b => Sys2Proof.Machine.execFcmpLt sc p comb a b s
  | .fcmpLe sc p comb a b => Sys2Proof.Machine.execFcmpLe sc p comb a b s
  | .fcmpGt sc p comb a b => Sys2Proof.Machine.execFcmpGt sc p comb a b s
  | .fcmpGe sc p comb a b => Sys2Proof.Machine.execFcmpGe sc p comb a b s
  | .fcmpUn sc p comb a b => Sys2Proof.Machine.execFcmpUn sc p comb a b s
  | .fcmpOr sc p comb a b => Sys2Proof.Machine.execFcmpOr sc p comb a b s
  | .frcp sc d b => Sys2Proof.Machine.execFrcp sc d b s
  | .frsq sc d b => Sys2Proof.Machine.execFrsq sc d b s
  | .fsqrt sc d b => Sys2Proof.Machine.execFsqrt sc d b s
  | .fexp2 sc d b => Sys2Proof.Machine.execFexp2 sc d b s
  | .flog2 sc d b => Sys2Proof.Machine.execFlog2 sc d b s
  | .fsint sc d b => Sys2Proof.Machine.execFsint sc d b s
  | .fcost sc d b => Sys2Proof.Machine.execFcost sc d b s
  | .ftanh sc d b => Sys2Proof.Machine.execFtanh sc d b s
  | .hpadd sc d a b => Sys2Proof.Machine.execHpadd sc d a b s
  | .hpmul sc d a b => Sys2Proof.Machine.execHpmul sc d a b s
  | .hpfma sc d a b => Sys2Proof.Machine.execHpfma sc d a b s
  | .hpmin sc d a b => Sys2Proof.Machine.execHpmin sc d a b s
  | .hpmax sc d a b => Sys2Proof.Machine.execHpmax sc d a b s
  | .bpadd sc d a b => Sys2Proof.Machine.execBpadd sc d a b s
  | .bpmul sc d a b => Sys2Proof.Machine.execBpmul sc d a b s
  | .bpfma sc d a b => Sys2Proof.Machine.execBpfma sc d a b s
  | .bpmin sc d a b => Sys2Proof.Machine.execBpmin sc d a b s
  | .bpmax sc d a b => Sys2Proof.Machine.execBpmax sc d a b s
  | .pk2 sc d a b => Sys2Proof.Machine.execPk2 sc d a b s
  | .pkb2 sc d a b => Sys2Proof.Machine.execPkb2 sc d a b s
  | .upkl sc d b => Sys2Proof.Machine.execUpkl sc d b s
  | .upkh sc d b => Sys2Proof.Machine.execUpkh sc d b s
  | .idp4 sc d a b => Sys2Proof.Machine.execIdp4 sc d a b s
  | .idp4u sc d a b => Sys2Proof.Machine.execIdp4u sc d a b s
  | .bdp2 sc d a b => Sys2Proof.Machine.execBdp2 sc d a b s
  | .edp4 sc d a b => Sys2Proof.Machine.execEdp4 sc d a b s
  | .dsdp4 sc d a b => Sys2Proof.Machine.execDsdp4 sc d a b s
  | .movi sc d imm => Sys2Proof.Machine.execMovi sc d imm s
  | .smovi sc d imm => Sys2Proof.Machine.execSmovi sc d imm s
  | .ld sc d a pol size sx as => Sys2Proof.Machine.execLd sc d a pol size sx as s
  | .st sc d a pol size g as => Sys2Proof.Machine.execSt sc d a pol size g as s
  | .lds sc d off alloc size ok => Sys2Proof.Machine.execLds sc d off alloc size ok s
  | .sts sc d off alloc size ok => Sys2Proof.Machine.execSts sc d off alloc size ok s
  | .ldc sc d a b => Sys2Proof.Machine.execLdc sc d a b s
  | .cwin sc b => Sys2Proof.Machine.execCwin sc b s
  | .ldmc sc d a c => Sys2Proof.Machine.execLdmc sc d a c s
  | .atomAadd sc d a b w64 => Sys2Proof.Machine.execAtomAadd sc d a b w64 s
  | .atomAmin sc d a b w64 => Sys2Proof.Machine.execAtomAmin sc d a b w64 s
  | .atomAmax sc d a b w64 => Sys2Proof.Machine.execAtomAmax sc d a b w64 s
  | .atomAminu sc d a b w64 => Sys2Proof.Machine.execAtomAminu sc d a b w64 s
  | .atomAmaxu sc d a b w64 => Sys2Proof.Machine.execAtomAmaxu sc d a b w64 s
  | .atomAand sc d a b w64 => Sys2Proof.Machine.execAtomAand sc d a b w64 s
  | .atomAor sc d a b w64 => Sys2Proof.Machine.execAtomAor sc d a b w64 s
  | .atomAxor sc d a b w64 => Sys2Proof.Machine.execAtomAxor sc d a b w64 s
  | .atomAexch sc d a b w64 => Sys2Proof.Machine.execAtomAexch sc d a b w64 s
  | .atomAcas sc d a b w64 => Sys2Proof.Machine.execAtomAcas sc d a b w64 s
  | .atomAinc sc d a b w64 => Sys2Proof.Machine.execAtomAinc sc d a b w64 s
  | .atomAdec sc d a b w64 => Sys2Proof.Machine.execAtomAdec sc d a b w64 s
  | .atomAfadd sc d a b => Sys2Proof.Machine.execAtomAfadd sc d a b s
  | .atomAfaddb sc d a b => Sys2Proof.Machine.execAtomAfaddb sc d a b s
  | .atomAfadde sc d a b => Sys2Proof.Machine.execAtomAfadde sc d a b s
  | .atomAfmin sc d a b => Sys2Proof.Machine.execAtomAfmin sc d a b s
  | .atomAfmax sc d a b => Sys2Proof.Machine.execAtomAfmax sc d a b s
  | .redAadd sc a b w64 => Sys2Proof.Machine.execRedAadd sc a b w64 s
  | .redAmin sc a b w64 => Sys2Proof.Machine.execRedAmin sc a b w64 s
  | .redAmax sc a b w64 => Sys2Proof.Machine.execRedAmax sc a b w64 s
  | .redAminu sc a b w64 => Sys2Proof.Machine.execRedAminu sc a b w64 s
  | .redAmaxu sc a b w64 => Sys2Proof.Machine.execRedAmaxu sc a b w64 s
  | .redAand sc a b w64 => Sys2Proof.Machine.execRedAand sc a b w64 s
  | .redAor sc a b w64 => Sys2Proof.Machine.execRedAor sc a b w64 s
  | .redAxor sc a b w64 => Sys2Proof.Machine.execRedAxor sc a b w64 s
  | .redAinc sc a b w64 => Sys2Proof.Machine.execRedAinc sc a b w64 s
  | .redAdec sc a b w64 => Sys2Proof.Machine.execRedAdec sc a b w64 s
  | .redAfadd sc a b => Sys2Proof.Machine.execRedAfadd sc a b s
  | .redAfaddb sc a b => Sys2Proof.Machine.execRedAfaddb sc a b s
  | .redAfadde sc a b => Sys2Proof.Machine.execRedAfadde sc a b s
  | .redAfmin sc a b => Sys2Proof.Machine.execRedAfmin sc a b s
  | .redAfmax sc a b => Sys2Proof.Machine.execRedAfmax sc a b s
  | .cbwait sc d b => Sys2Proof.Machine.execCbwait sc d b s
  | .cbpop sc b => Sys2Proof.Machine.execCbpop sc b s
  | .cbrsv sc d b => Sys2Proof.Machine.execCbrsv sc d b s
  | .cbcmt sc b => Sys2Proof.Machine.execCbcmt sc b s
  | .cbinit sc a b => Sys2Proof.Machine.execCbinit sc a b s
  | .cbqry sc d b => Sys2Proof.Machine.execCbqry sc d b s
  | .fenceAcq sc ms => Sys2Proof.Machine.execFenceAcq sc ms s
  | .fenceRel sc ms => Sys2Proof.Machine.execFenceRel sc ms s
  | .fenceFull sc ms => Sys2Proof.Machine.execFenceFull sc ms s
  | .flushv sc a b => Sys2Proof.Machine.execFlushv sc a b s
  | .invl1 sc => Sys2Proof.Machine.execInvl1 sc s
  | .wcrd sc d b => Sys2Proof.Machine.execWcrd sc d b s
  | .wcwait sc a b => Sys2Proof.Machine.execWcwait sc a b s
  | .wcrst sc b => Sys2Proof.Machine.execWcrst sc b s
  | .br sc p n disp => Sys2Proof.Machine.execBr sc p n disp s
  | .nop sc => Sys2Proof.Machine.execNop sc s
  | .brx sc b => Sys2Proof.Machine.execBrx sc b s
  | .callx sc b => Sys2Proof.Machine.execCallx sc b s
  | .ret sc => Sys2Proof.Machine.execRet sc s
  | .exit sc => Sys2Proof.Machine.execExit sc s
  | .yield sc => Sys2Proof.Machine.execYield sc s
  | .sadd sc d a b => Sys2Proof.Machine.execSadd sc d a b s
  | .ssub sc d a b => Sys2Proof.Machine.execSsub sc d a b s
  | .smul sc d a b => Sys2Proof.Machine.execSmul sc d a b s
  | .sand sc d a b => Sys2Proof.Machine.execSand sc d a b s
  | .sor sc d a b => Sys2Proof.Machine.execSor sc d a b s
  | .sxor sc d a b => Sys2Proof.Machine.execSxor sc d a b s
  | .sshl sc d a b => Sys2Proof.Machine.execSshl sc d a b s
  | .sshr sc d a b => Sys2Proof.Machine.execSshr sc d a b s
  | .ssar sc d a b => Sys2Proof.Machine.execSsar sc d a b s
  | .smin sc d a b => Sys2Proof.Machine.execSmin sc d a b s
  | .smax sc d a b => Sys2Proof.Machine.execSmax sc d a b s
  | .sminu sc d a b => Sys2Proof.Machine.execSminu sc d a b s
  | .smaxu sc d a b => Sys2Proof.Machine.execSmaxu sc d a b s
  | .smov sc d b => Sys2Proof.Machine.execSmov sc d b s
  | .sadd64 sc d a b => Sys2Proof.Machine.execSadd64 sc d a b s
  | .slea sc d a b => Sys2Proof.Machine.execSlea sc d a b s
  | .scmpEq sc p comb a b => Sys2Proof.Machine.execScmpEq sc p comb a b s
  | .scmpNe sc p comb a b => Sys2Proof.Machine.execScmpNe sc p comb a b s
  | .scmpLt sc p comb a b => Sys2Proof.Machine.execScmpLt sc p comb a b s
  | .scmpLe sc p comb a b => Sys2Proof.Machine.execScmpLe sc p comb a b s
  | .scmpGt sc p comb a b => Sys2Proof.Machine.execScmpGt sc p comb a b s
  | .scmpGe sc p comb a b => Sys2Proof.Machine.execScmpGe sc p comb a b s
  | .scmpLtu sc p comb a b => Sys2Proof.Machine.execScmpLtu sc p comb a b s
  | .scmpLeu sc p comb a b => Sys2Proof.Machine.execScmpLeu sc p comb a b s
  | .scmpGtu sc p comb a b => Sys2Proof.Machine.execScmpGtu sc p comb a b s
  | .scmpGeu sc p comb a b => Sys2Proof.Machine.execScmpGeu sc p comb a b s
  | .shflIdx sc d a b => Sys2Proof.Machine.execShflIdx sc d a b s
  | .shflUp sc d a b => Sys2Proof.Machine.execShflUp sc d a b s
  | .shflDown sc d a b => Sys2Proof.Machine.execShflDown sc d a b s
  | .shflXor sc d a b => Sys2Proof.Machine.execShflXor sc d a b s
  | .shflBcast sc d a b => Sys2Proof.Machine.execShflBcast sc d a b s
  | .vall sc d n p => Sys2Proof.Machine.execVall sc d n p s
  | .vany sc d n p => Sys2Proof.Machine.execVany sc d n p s
  | .vbal sc d n p => Sys2Proof.Machine.execVbal sc d n p s
  | .vuni sc d n p => Sys2Proof.Machine.execVuni sc d n p s
  | .vcnt sc d n p => Sys2Proof.Machine.execVcnt sc d n p s
  | .lredIadd sc d a => Sys2Proof.Machine.execLredIadd sc d a s
  | .lredImin sc d a => Sys2Proof.Machine.execLredImin sc d a s
  | .lredImax sc d a => Sys2Proof.Machine.execLredImax sc d a s
  | .lredAnd sc d a => Sys2Proof.Machine.execLredAnd sc d a s
  | .lredOr sc d a => Sys2Proof.Machine.execLredOr sc d a s
  | .lredXor sc d a => Sys2Proof.Machine.execLredXor sc d a s
  | .lredFadd sc d a => Sys2Proof.Machine.execLredFadd sc d a s
  | .lredFmin sc d a => Sys2Proof.Machine.execLredFmin sc d a s
  | .lredFmax sc d a => Sys2Proof.Machine.execLredFmax sc d a s
  | .lscanIadd sc d a => Sys2Proof.Machine.execLscanIadd sc d a s
  | .lscanImin sc d a => Sys2Proof.Machine.execLscanImin sc d a s
  | .lscanImax sc d a => Sys2Proof.Machine.execLscanImax sc d a s
  | .lscanAnd sc d a => Sys2Proof.Machine.execLscanAnd sc d a s
  | .lscanOr sc d a => Sys2Proof.Machine.execLscanOr sc d a s
  | .lscanXor sc d a => Sys2Proof.Machine.execLscanXor sc d a s
  | .lscanFadd sc d a => Sys2Proof.Machine.execLscanFadd sc d a s
  | .lscanFmin sc d a => Sys2Proof.Machine.execLscanFmin sc d a s
  | .lscanFmax sc d a => Sys2Proof.Machine.execLscanFmax sc d a s
  | .lscanExclIadd sc d a => Sys2Proof.Machine.execLscanExclIadd sc d a s
  | .lscanExclImin sc d a => Sys2Proof.Machine.execLscanExclImin sc d a s
  | .lscanExclImax sc d a => Sys2Proof.Machine.execLscanExclImax sc d a s
  | .lscanExclAnd sc d a => Sys2Proof.Machine.execLscanExclAnd sc d a s
  | .lscanExclOr sc d a => Sys2Proof.Machine.execLscanExclOr sc d a s
  | .lscanExclXor sc d a => Sys2Proof.Machine.execLscanExclXor sc d a s
  | .lscanExclFadd sc d a => Sys2Proof.Machine.execLscanExclFadd sc d a s
  | .lscanExclFmin sc d a => Sys2Proof.Machine.execLscanExclFmin sc d a s
  | .lscanExclFmax sc d a => Sys2Proof.Machine.execLscanExclFmax sc d a s
  | .xchg sc d b => Sys2Proof.Machine.execXchg sc d b s
  | .xchgk sc d b => Sys2Proof.Machine.execXchgk sc d b s
  | .hld sc h a b => Sys2Proof.Machine.execHld sc h a b s
  | .hst sc h a b => Sys2Proof.Machine.execHst sc h a b s
  | .hset sc h a b => Sys2Proof.Machine.execHset sc h a b s
  | .hadv sc h b => Sys2Proof.Machine.execHadv sc h b s
  | .mmloop sc acc span hA hB ks flags => Sys2Proof.Machine.execMmloop sc acc span hA hB ks flags s
  | .mmidx sc a b => Sys2Proof.Machine.execMmidx sc a b s
  | .accz sc acc span b => Sys2Proof.Machine.execAccz sc acc span b s
  | .accrd sc d acc span b => Sys2Proof.Machine.execAccrd sc d acc span b s
  | .accwr sc d acc span b => Sys2Proof.Machine.execAccwr sc d acc span b s
  | .accscl sc acc span b => Sys2Proof.Machine.execAccscl sc acc span b s
  | .accdrn sc h acc span b => Sys2Proof.Machine.execAccdrn sc h acc span b s
  | .accdra sc h acc span b => Sys2Proof.Machine.execAccdra sc h acc span b s
  | .qsm sc d a b => Sys2Proof.Machine.execQsm sc d a b s
  | .qpack sc d a b => Sys2Proof.Machine.execQpack sc d a b s
  | .qunpk sc d a b => Sys2Proof.Machine.execQunpk sc d a b s
  | .qapp sc d a b => Sys2Proof.Machine.execQapp sc d a b s
  | .tdec sc a b => Sys2Proof.Machine.execTdec sc a b s
  | .tinc sc a b => Sys2Proof.Machine.execTinc sc a b s
  | .trd sc d b => Sys2Proof.Machine.execTrd sc d b s
  | .phq sc d a b => Sys2Proof.Machine.execPhq sc d a b s
  | .wait sc ldn stn cpn ton => Sys2Proof.Machine.execWait sc ldn stn cpn ton s
  | .visld sc d a b => Sys2Proof.Machine.execVisld sc d a b s
  | .visdec sc d a => Sys2Proof.Machine.execVisdec sc d a s
  | .bary sc d a b => Sys2Proof.Machine.execBary sc d a b s
  | .attrf sc d a b => Sys2Proof.Machine.execAttrf sc d a b s
  | .ordwait sc a b => Sys2Proof.Machine.execOrdwait sc a b s
  | .orddone sc a => Sys2Proof.Machine.execOrddone sc a s
  | .texs sc d a b => Sys2Proof.Machine.execTexs sc d a b s
  | .texl sc d a b => Sys2Proof.Machine.execTexl sc d a b s
  | .texg sc d a b => Sys2Proof.Machine.execTexg sc d a b s
  | .texq sc d a b => Sys2Proof.Machine.execTexq sc d a b s
  | .trav sc d a b => Sys2Proof.Machine.execTrav sc d a b s
  | .travrd sc d a b => Sys2Proof.Machine.execTravrd sc d a b s
  | .reform sc d a b => Sys2Proof.Machine.execReform sc d a b s
  | .refill sc d a b => Sys2Proof.Machine.execRefill sc d a b s
  | .rsmpl sc d a b => Sys2Proof.Machine.execRsmpl sc d a b s
  | .pstat sc d a b => Sys2Proof.Machine.execPstat sc d a b s
  | .sread sc d toS num => Sys2Proof.Machine.execSread sc d toS num s
  | .swrite sc a num => Sys2Proof.Machine.execSwrite sc a num s
  | .grow sc p b => Sys2Proof.Machine.execGrow sc p b s
  | .fork sc d a b => Sys2Proof.Machine.execFork sc d a b s
  | .join sc => Sys2Proof.Machine.execJoin sc s
  | .npre sc => Sys2Proof.Machine.execNpre sc s
  | .nprex sc => Sys2Proof.Machine.execNprex sc s
  | .trap sc code => Sys2Proof.Machine.execTrap sc code s
  | .eret sc code => Sys2Proof.Machine.execEret sc code s
  | .bkpt sc code => Sys2Proof.Machine.execBkpt sc code s
  | .halt sc => Sys2Proof.Machine.execHalt sc s
  | .call sc p n disp => Sys2Proof.Machine.execCall sc p n disp s
  | .ximm sc payload => Sys2Proof.Machine.execXimm sc payload s
  | .xreg sc payload => Sys2Proof.Machine.execXreg sc payload s
  | .xmod sc payload => Sys2Proof.Machine.execXmod sc payload s
  | .xsched sc payload => Sys2Proof.Machine.execXsched sc payload s
  | .xpred sc payload => Sys2Proof.Machine.execXpred sc payload s
  | .splitMerge w a b => Sys2Proof.Machine.execSplitMerge w a b s
  | .rendezvousRelease w => Sys2Proof.Machine.execRendezvousRelease w s
  | .waitEnd w slot => Sys2Proof.Machine.execWaitEnd w slot s
  | .growGrant core => Sys2Proof.Machine.execGrowGrant core s
  | .growFail core => Sys2Proof.Machine.execGrowFail core s
  | .handlerEntry w code lane faddr => Sys2Proof.Machine.execHandlerEntry w code lane faddr s
  | .loadComplete w k => Sys2Proof.Machine.execLoadComplete w k s
  | .storeDrain w => Sys2Proof.Machine.execStoreDrain w s
  | .storeApply id => Sys2Proof.Machine.execStoreApply id s
  | .proxyInvalidate field line => Sys2Proof.Machine.execProxyInvalidate field line s
  | .storeAck id => Sys2Proof.Machine.execStoreAck id s
  | .l1Eviction core line repl => Sys2Proof.Machine.execL1Eviction core line repl s
  | .sliceEviction line toVault => Sys2Proof.Machine.execSliceEviction line toVault s
  | .atomicApply id => Sys2Proof.Machine.execAtomicApply id s
  | .atomicReturn id => Sys2Proof.Machine.execAtomicReturn id s
  | .bankWriteApply block k => Sys2Proof.Machine.execBankWriteApply block k s
  | .multicastRequest id => Sys2Proof.Machine.execMulticastRequest id s
  | .multicastTimeout k => Sys2Proof.Machine.execMulticastTimeout k s
  | .ldmcDelivery id beat => Sys2Proof.Machine.execLdmcDelivery id beat s
  | .kstepApply core => Sys2Proof.Machine.execKstepApply core s
  | .drainComplete core => Sys2Proof.Machine.execDrainComplete core s
  | .rayComplete w lane => Sys2Proof.Machine.execRayComplete w lane s
  | .xchgPair w => Sys2Proof.Machine.execXchgPair w s
  | .phaseSweepPair launch => Sys2Proof.Machine.execPhaseSweepPair launch s
  | .phqWake block => Sys2Proof.Machine.execPhqWake block s
  | .queueConsume field q => Sys2Proof.Machine.execQueueConsume field q s
  | .launchAccept launch => Sys2Proof.Machine.execLaunchAccept launch s
  | .blockDispatch launch => Sys2Proof.Machine.execBlockDispatch launch s
  | .gangDispatch launch => Sys2Proof.Machine.execGangDispatch launch s
  | .blockRetire block cycles => Sys2Proof.Machine.execBlockRetire block cycles s
  | .launchComplete launch => Sys2Proof.Machine.execLaunchComplete launch s
  | .joinResume block => Sys2Proof.Machine.execJoinResume block s
  | .taskAppendRetry k => Sys2Proof.Machine.execTaskAppendRetry k s
  | .copyStart field q => Sys2Proof.Machine.execCopyStart field q s
  | .copyComplete id => Sys2Proof.Machine.execCopyComplete id s
  | .reduceSessionClose field k => Sys2Proof.Machine.execReduceSessionClose field k s
  | .rasterPacket id => Sys2Proof.Machine.execRasterPacket id s
  | .graphValidate graph => Sys2Proof.Machine.execGraphValidate graph s
  | .nodeIssue graph => Sys2Proof.Machine.execNodeIssue graph s
  | .predicateEval graph => Sys2Proof.Machine.execPredicateEval graph s
  | .instanceStart graph k => Sys2Proof.Machine.execInstanceStart graph k s
  | .waitctrComplete graph k => Sys2Proof.Machine.execWaitctrComplete graph k s
  | .graphComplete graph => Sys2Proof.Machine.execGraphComplete graph s
  | .tileRelease graph k tile => Sys2Proof.Machine.execTileRelease graph k tile s
  | .tileRetire graph k tile => Sys2Proof.Machine.execTileRetire graph k tile s
  | .relqTake graph => Sys2Proof.Machine.execRelqTake graph s
  | .ringExhausted graph => Sys2Proof.Machine.execRingExhausted graph s
  | .footprintPrefetch graph k tile => Sys2Proof.Machine.execFootprintPrefetch graph k tile s
  | .resample launch => Sys2Proof.Machine.execResample launch s
  | .placementListAccept launch => Sys2Proof.Machine.execPlacementListAccept launch s
  | .pageWalk field ctx va => Sys2Proof.Machine.execPageWalk field ctx va s
  | .frameCopyOnWrite field frame ctx => Sys2Proof.Machine.execFrameCopyOnWrite field frame ctx s
  | .vaultEccError field vault both => Sys2Proof.Machine.execVaultEccError field vault both s
  | .contextSchedule field ctx => Sys2Proof.Machine.execContextSchedule field ctx s
  | .preemptionStart field ctx thermal => Sys2Proof.Machine.execPreemptionStart field ctx thermal s
  | .drainLimitExpiry field ctx => Sys2Proof.Machine.execDrainLimitExpiry field ctx s
  | .forcedSave field ctx => Sys2Proof.Machine.execForcedSave field ctx s
  | .regionLimitExpiry field ctx => Sys2Proof.Machine.execRegionLimitExpiry field ctx s
  | .watchdog block => Sys2Proof.Machine.execWatchdog block s
  | .create field ctx addr => Sys2Proof.Machine.execCreate field ctx addr s
  | .destroy field ctx => Sys2Proof.Machine.execDestroy field ctx s
  | .preempt field ctx => Sys2Proof.Machine.execPreempt field ctx s
  | .kill field ctx => Sys2Proof.Machine.execKill field ctx s
  | .stepFlag field ctx core slot => Sys2Proof.Machine.execStepFlag field ctx core slot s
  | .unstepFlag field ctx core slot => Sys2Proof.Machine.execUnstepFlag field ctx core slot s
  | .queueAttach field q ctx desc => Sys2Proof.Machine.execQueueAttach field q ctx desc s
  | .queueDetach field q => Sys2Proof.Machine.execQueueDetach field q s
  | .queueClosed field q => Sys2Proof.Machine.execQueueClosed field q s
  | .invalidate field ctx va log => Sys2Proof.Machine.execInvalidate field ctx va log s
  | .fillResponse field ctx vpage pte => Sys2Proof.Machine.execFillResponse field ctx vpage pte s
  | .exportHandle field ctx base target len => Sys2Proof.Machine.execExportHandle field ctx base target len s
  | .revoke field handle => Sys2Proof.Machine.execRevoke field handle s
  | .bind field ctx slot => Sys2Proof.Machine.execBind field ctx slot s
  | .unbind field ctx slot => Sys2Proof.Machine.execUnbind field ctx slot s
  | .revocationNotice field handle => Sys2Proof.Machine.execRevocationNotice field handle s
  | .drainMarker field fromField handle => Sys2Proof.Machine.execDrainMarker field fromField handle s
  | .countDoorbell field entry gen => Sys2Proof.Machine.execCountDoorbell field entry gen s
  | .bar4Write field addr write => Sys2Proof.Machine.execBar4Write field addr write s
  | .bar4Read field addr len => Sys2Proof.Machine.execBar4Read field addr len s
  | .hostAtomicop field addr op w64 operand compare => Sys2Proof.Machine.execHostAtomicop field addr op w64 operand compare s
  | .flushingReadComplete id good => Sys2Proof.Machine.execFlushingReadComplete id good s
  | .registerWrite field offset value => Sys2Proof.Machine.execRegisterWrite field offset value s
  | .flitReceive crossing dir modul flit => Sys2Proof.Machine.execFlitReceive crossing dir modul flit s
  | .negativeAck crossing dir modul ackSeq => Sys2Proof.Machine.execNegativeAck crossing dir modul ackSeq s
  | .laneRepair crossing modul repaired => Sys2Proof.Machine.execLaneRepair crossing modul repaired s
  | .crossingFailure crossing => Sys2Proof.Machine.execCrossingFailure crossing s
  | .lossNotice id => Sys2Proof.Machine.execLossNotice id s
  | .bringUp signatureOk report trained => Sys2Proof.Machine.execBringUp signatureOk report trained s
  | .powerSample milliwatts load => Sys2Proof.Machine.execPowerSample milliwatts load s
  | .thermalSample field low high valves => Sys2Proof.Machine.execThermalSample field low high valves s
  | .machineCheck field => Sys2Proof.Machine.execMachineCheck field s
  | .wearUpdate field life hours corrected => Sys2Proof.Machine.execWearUpdate field life hours corrected s
  | .modulePowerRemoved => Sys2Proof.Machine.execModulePowerRemoved s

end Sys2Proof.Machine
end

