-- ==== Sys2Proof/Machine/Step.lean ====
section
/-! DEFINITION. One step: the next turn of the agenda, an event or an issue turn of one word (log 3, log 4). -/

namespace Sys2Proof.Machine

open Sys2Proof

/-- An issue turn of the warp `cur`: fetch a word, decode it, execute it (R46). -/
noncomputable def State.issueTurn (s : State) : Host.Outcome State Fault Refusal :=
  match s.fetchTurn with
  | .idle s' => .next s'
  | .code s' bytes =>
    match decodeBytes bytes with
    | .ok (i, _) => exec i s'
    | .error _ => .next s'.illegal

/-- One step of the machine. An agenda entry that names an instruction word as an event is skipped, and so is an event of a field whose clock is
stopped: it happens later. -/
noncomputable def step (s : State) : Host.Outcome State Fault Refusal :=
  let s := { s with fresh := s.fresh + 1 }
  match s.agenda with
  | [] => s.issueTurn
  | .issue u :: rest => State.issueTurn { s with agenda := rest, cur := u }
  | .event e :: rest => if e.isEvent && !s.holds e then exec e { s with agenda := rest, cur := 0 } else .next { s with agenda := rest }
  | .corrected f unit addr :: rest =>
    let s := { s with agenda := rest, cur := 0 }
    .next (if s.present f then s.logError 1 f unit addr else s)
  | .trained report modules :: rest => .next ({ s with agenda := rest, cur := 0 }.trainedUp report modules)

/-- The machine with one instruction, its bits numbered as spec/opcode_table.json numbers them, stored where `step` fetches
next. -/
def State.withFetchWord (s : State) (nbits w : Nat) : State :=
  let v := w % 2 ^ nbits
  s.withCode (bytesOfWord (BitVec.ofNat 32 v) ++ bytesOfWord (BitVec.ofNat 32 (v / 2 ^ 32)))

end Sys2Proof.Machine
end

