-- ==== Sys2Proof/Safety.lean ====
section
/-! DEFINITION. What counts as a safe run, and the terms that claims use: what a program can see of a warp, the rest of the machine,
and an instruction that completes. -/

namespace Sys2Proof.Machine

open Sys2Proof

/-- A step answers a next state. -/
def Answers (o : Host.Outcome State Fault Refusal) : Prop := ∃ s, o = .next s

/-- The machine goes on from a state. -/
def State.safe (s : State) : Prop := Answers (step s)

/-- A split of which it is forgotten whether a rendezvous has released it. -/
def Split.unreleased (x : Split) : Split := { x with released := none }

/-- A warp without the bookkeeping of its issue: its splits, its rendezvous object, the causes that wait to be reported and the releases that a trap
frame holds. Every register, stack, queue and class of operations is kept. -/
def Warp.regs (w : Warp) : Warp :=
  { w.mapFrame Split.unreleased with
    slots := Vector.ofFn fun _ => none
    parked := []
    lastSlot := 0
    inGroup := none
    issuedAt := 0
    stepDue := none
    asyncs := []
    rv := .opened }

/-- A machine without its warps and the rendezvous objects of its blocks: every memory, every copy of it, every queue, every
scratchpad and every register of the part. -/
def State.rest (s : State) : State :=
  let calm : Block → Block := fun b => { b with setRvs := Vector.ofFn fun _ => openRv, blockRv := openRv }
  { s with warps := [], blocks := s.blocks.map calm }

/-- What a program can see of a warp of the machine. -/
def State.seen (s : State) (u : Nat) : Option Warp := (s.warp? u).map Warp.regs

/-- Where the split of a slot stands. -/
def State.pcOf (s : State) (u slot : Nat) : Option Dword := ((s.warp? u).bind fun w => w.split? slot).map (·.pc)

/-- The split that issued has completed its group in `t`: it stands at the next one (R46). -/
def Passed (t : State) (j : Job) : Prop := t.pcOf j.w.uid j.slot = (j.w.split? j.slot).map fun _ => j.next

/-- Only the issuing warp has changed, to `w` as a program sees it, and its split has passed the group. -/
def OnlyWarp (s t : State) (j : Job) (w : Warp) : Prop :=
  t.rest = s.rest ∧ (∀ u, u ≠ j.w.uid → t.seen u = s.seen u) ∧ t.seen j.w.uid = some w.regs ∧ Passed t j

/-- An instruction completes with an effect on the issuing warp alone. -/
def Completes (i : Instr) (s s' : State) (j : Job) (w : Warp) : Prop := ∃ t, exec i s = .next t ∧ OnlyWarp s' t j w

/-- A lane-wise instruction writes f of v[a], operand b and the old v[d] to v[d] in every live lane, and nothing else. -/
def LaneResult (i : Instr) (m : Meta) (k : ImmRow) (b : Opb) (f : Word → Word → Word → Word) : Prop :=
  ∀ s s' j y, s.judge m = .go s' j → s'.operand j k b = .ok y →
    Completes i s s' j (j.w.setRow j.live j.d
      (rowOf fun n => f (laneOf (j.w.row j.a) n) (laneOf y n) (laneOf (j.w.row j.d) n)))

/-- A compare combines a condition of v[a] and operand b into a predicate in every live lane, and writes nothing else. -/
def CompareResult (i : Instr) (m : Meta) (b : Opb) (q : BitVec 3) (comb : BitVec 2) (c : Word → Word → Bool) : Prop :=
  ∀ s s' j y, s.judge m = .go s' j → s'.operand j .int b = .ok y →
    Completes i s s' j (j.w.setPred j.live q.toNat (maskOf fun n =>
      let old := (j.w.pred q.toNat).getLsbD n
      let new := c (laneOf (j.w.row j.a) n) (laneOf y n)
      if comb = 1 then old && new else if comb = 2 then old || new else new))

/-- A float instruction whose computation raises no exception that the context enables writes its results to v[d] in every live
lane, and nothing else. -/
def FloatResult (i : Instr) (m : Meta) (k : ImmRow) (b : Opb) (f : Job → Word → Word → Word → Word × Fx) : Prop :=
  ∀ s s' j y, s.judge m = .go s' j → s'.operand j k b = .ok y →
    let r : Nat → Word × Fx := fun n => f j (laneOf (j.w.row j.a) n) (laneOf y n) (laneOf (j.w.row j.d) n)
    (∀ n ∈ lanesOf j.live, (r n).2 &&& j.ctx.fpxen = 0) →
    Completes i s s' j (j.w.setRow j.live j.d (rowOf fun n => (r n).1))

/-- A float compare, when it raises no exception that the context enables. -/
def FloatCompareResult (i : Instr) (m : Meta) (b : Opb) (q : BitVec 3) (comb : BitVec 2) (c : Job → Word → Word → Bool × Fx) : Prop :=
  ∀ s s' j y, s.judge m = .go s' j → s'.operand j .fp32 b = .ok y →
    let r : Nat → Bool × Fx := fun n => c j (laneOf (j.w.row j.a) n) (laneOf y n)
    (∀ n ∈ lanesOf j.live, (r n).2 &&& j.ctx.fpxen = 0) →
    Completes i s s' j (j.w.setPred j.live q.toNat (maskOf fun n =>
      let old := (j.w.pred q.toNat).getLsbD n
      let new := (r n).1
      if comb = 1 then old && new else if comb = 2 then old || new else new))

/-- A scalar instruction writes f of s[a] and operand b to s[d], and nothing else. -/
def ScalarResult (i : Instr) (m : Meta) (d a : Reg) (b : Opb) (f : Word → Word → Word) : Prop :=
  ∀ s s' j y, s.judge m = .go s' j → s'.uniform j .int b = .ok y →
    Completes i s s' j (j.w.setS d.toNat (f (j.w.sreg a.toNat) y))

/-! ## Instructions that reach beyond their warp -/

/-- An instruction ends its group in the machine `t`: there the group completes. -/
def Ends (i : Instr) (m : Meta) (s : State) (j : Job) (t : State) : Prop := exec i s = .next (t.finish m j)

/-- Only warps of the group have changed, among everything that a program can see. -/
def OnlyMembers (s t : State) (j : Job) : Prop := t.rest = s.rest ∧ ∀ u, u ∉ j.members.map (·.uid) → t.seen u = s.seen u

/-- A cross-lane instruction writes a value for each contributor of each member to v[d], and nothing else. -/
def SpanResult (i : Instr) (m : Meta) (s s' : State) (j : Job) (val : Warp → Nat → Word) : Prop :=
  Ends i m s j (s'.putSpan j val) ∧ OnlyMembers s' ((s'.putSpan j val).finish m j) j

/-- A cross-lane instruction writes one truth value to a predicate of every contributor of every member, and nothing else. -/
def SpanPredResult (i : Instr) (m : Meta) (s s' : State) (j : Job) (q : BitVec 3) (val : Bool) : Prop :=
  Ends i m s j (s'.putSpanPred j q.toNat val) ∧ OnlyMembers s' ((s'.putSpanPred j q.toNat val).finish m j) j

/-- An atomic sends one request for each line that its live lanes touch and counts in its class; memory is as it was. -/
def AtomResult (i : Instr) (m : Meta) (k : AccKind) (fn : Nat) (wide returns : Bool) : Prop :=
  ∀ s s' j, s.judge m = .go s' j →
    (j.live = 0 → Ends i m s j s') ∧
    ∀ ps, j.live ≠ 0 → firstFail (lanesOf j.live) (s'.atomCheck j k fn wide) = .ok ps →
      (if returns then classFull j.w.loads else classFull j.w.stores) = false →
      let rs := j.atomReqs s'.nextUid fn wide returns (j.atomAcc fn wide) (((s'.field? j.w.field).map (·.epoch)).getD 0) ps
      s'.quadrantsFull rs = false →
      let op : LoadOp :=
        { id := s'.nextUid, seq := 0, ord := 0, kind := .atom, dest := j.d, nreg := if wide then 2 else 1, lanes := j.live,
          size := atomSize fn wide, sext := false, acqScope := if j.acquires then some (BitVec.ofNat 3 j.ascope) else none,
          repl := false, nt := false, accs := [], early := [], done := false }
      let sent : State := { s' with
        nextUid := s'.nextUid + 1 + rs.length
        areqs := s'.areqs ++ rs
        l1 := s'.l1.filter fun x => !(x.core == j.w.core && rs.any fun r => r.line == x.line) }
      let t := sent.put j fun w => if returns then w.addLoad op else w.addStore s'.nextUid
      Ends i m s j t ∧ t.mem = s'.mem

/-- An instruction that loads in every live lane: what its lanes read, in ascending order, goes to v[d] and on. -/
def LaneLoadResult (i : Instr) (m : Meta) (n : Job → Nat) (ok : State → Job → Prop)
    (f : Job → Reader → Nat → Got (Reader × List Word)) : Prop :=
  ∀ s s' j, s.judge m = .go s' j → ok s' j →
    (j.live = 0 → Ends i m s j s') ∧
    ∀ w r, j.live ≠ 0 → classFull j.w.loads = false → (s'.settleAll j.w.uid 256).warp? j.w.uid = some w →
      w.loads.any LoadOp.pendingMem = false → w.acquiring w.seq = false →
      ({ s := s'.settleAll j.w.uid 256, faults := [] } : Reader).lanes (f j) (lanesOf j.live) = .ok r →
      Ends i m s j (r.1.finish j (n j) r.2)

end Sys2Proof.Machine
end

