-- ==== Sys2Proof/Certificates/Slice0/Obligations.lean ====
section
/-! DEFINITION. The statements for the provers. Each is about the machine of Sys2Proof.Machine, for every state and every operand that
its premises admit. `s.judge m = .go s' j` says that an instruction with the checks `m` passes them in `s` (DecodeCauses states when);
`s'` is `s` with the loads it waits for complete, and `j` holds its warp, its live lanes and its register numbers. -/

open Sys2Proof Sys2Proof.Machine

/-- Each IALU instruction completes and writes its function of v[a] and operand b, taken in exact integers where the rule says so, to v[d] in every live lane; every other register, every other warp, memory and every queue stay, and the split stands at the next group. (R106) -/
def Obligations.IntegerAluResults : Prop :=
  ∀ (sc : Scope) (d a : Reg) (b : Opb),
  LaneResult (.iadd sc d a b) (vecMeta sc d a b) .int b (fun x y _ => BitVec.ofInt 32 (x.toInt + y.toInt)) ∧
  LaneResult (.isub sc d a b) (vecMeta sc d a b) .int b (fun x y _ => BitVec.ofInt 32 (x.toInt - y.toInt)) ∧
  LaneResult (.imul sc d a b) (vecMeta sc d a b) .int b (fun x y _ => BitVec.ofInt 32 (x.toInt * y.toInt)) ∧
  LaneResult (.imulhi sc d a b) (vecMeta sc d a b) .int b (fun x y _ => BitVec.ofInt 32 (x.toInt * y.toInt / 4294967296)) ∧
  LaneResult (.imulhiu sc d a b) (vecMeta sc d a b) .int b (fun x y _ => BitVec.ofNat 32 (x.toNat * y.toNat / 4294967296)) ∧
  LaneResult (.imin sc d a b) (vecMeta sc d a b) .int b (fun x y _ => if x.toInt ≤ y.toInt then x else y) ∧
  LaneResult (.imax sc d a b) (vecMeta sc d a b) .int b (fun x y _ => if x.toInt ≤ y.toInt then y else x) ∧
  LaneResult (.iminu sc d a b) (vecMeta sc d a b) .int b (fun x y _ => if x.toNat ≤ y.toNat then x else y) ∧
  LaneResult (.imaxu sc d a b) (vecMeta sc d a b) .int b (fun x y _ => if x.toNat ≤ y.toNat then y else x) ∧
  LaneResult (.iabsd sc d a b) (vecMeta sc d a b) .int b (fun x y _ => BitVec.ofNat 32 (x.toInt - y.toInt).natAbs) ∧
  LaneResult (.iaddsat sc d a b) (vecMeta sc d a b) .int b (fun x y _ => BitVec.ofInt 32 (max (-2147483648) (min (x.toInt + y.toInt) 2147483647))) ∧
  LaneResult (.isubsat sc d a b) (vecMeta sc d a b) .int b (fun x y _ => BitVec.ofInt 32 (max (-2147483648) (min (x.toInt - y.toInt) 2147483647))) ∧
  LaneResult (.iaddsatu sc d a b) (vecMeta sc d a b) .int b (fun x y _ => BitVec.ofNat 32 (min (x.toNat + y.toNat) 4294967295)) ∧
  LaneResult (.isubsatu sc d a b) (vecMeta sc d a b) .int b (fun x y _ => BitVec.ofNat 32 (x.toNat - y.toNat)) ∧
  LaneResult (.iavgu sc d a b) (vecMeta sc d a b) .int b (fun x y _ => BitVec.ofNat 32 ((x.toNat + y.toNat + 1) / 2)) ∧
  LaneResult (.irsub sc d a b) (vecMeta sc d a b) .int b (fun x y _ => BitVec.ofInt 32 (y.toInt - x.toInt))

/-- Each LOGIC instruction completes and writes its function to v[d] in every live lane, and nothing else: a shift count of 32 or more gives 0, or the sign for SAR; a rotate takes its count modulo 32; POPC counts the set bits, CLZ gives 32 for 0, and BREV puts bit i at bit 31 - i. (R107) -/
def Obligations.LogicResults : Prop :=
  ∀ (sc : Scope) (d a : Reg) (b : Opb),
  LaneResult (.and sc d a b) (vecMeta sc d a b) .int b (fun x y _ => x &&& y) ∧
  LaneResult (.or sc d a b) (vecMeta sc d a b) .int b (fun x y _ => x ||| y) ∧
  LaneResult (.xor sc d a b) (vecMeta sc d a b) .int b (fun x y _ => x ^^^ y) ∧
  LaneResult (.andn sc d a b) (vecMeta sc d a b) .int b (fun x y _ => x &&& ~~~y) ∧
  LaneResult (.orn sc d a b) (vecMeta sc d a b) .int b (fun x y _ => x ||| ~~~y) ∧
  LaneResult (.xnor sc d a b) (vecMeta sc d a b) .int b (fun x y _ => ~~~(x ^^^ y)) ∧
  LaneResult (.shl sc d a b) (vecMeta sc d a b) .int b (fun x y _ => if y.toNat < 32 then x <<< y.toNat else 0) ∧
  LaneResult (.shr sc d a b) (vecMeta sc d a b) .int b (fun x y _ => if y.toNat < 32 then x >>> y.toNat else 0) ∧
  LaneResult (.sar sc d a b) (vecMeta sc d a b) .int b (fun x y _ => x.sshiftRight (min y.toNat 31)) ∧
  LaneResult (.rotl sc d a b) (vecMeta sc d a b) .int b (fun x y _ => x.rotateLeft (y.toNat % 32)) ∧
  LaneResult (.rotr sc d a b) (vecMeta sc d a b) .int b (fun x y _ => x.rotateRight (y.toNat % 32)) ∧
  LaneResult (.popc sc d b) (vecMeta1 sc d b) .int b (fun _ y _ => BitVec.ofNat 32 ((List.range 32).filter fun i => y.getLsbD i).length) ∧
  LaneResult (.clz sc d b) (vecMeta1 sc d b) .int b (fun _ y _ => BitVec.ofNat 32 (if y = 0 then 32 else 31 - Nat.log2 y.toNat)) ∧
  LaneResult (.brev sc d b) (vecMeta1 sc d b) .int b (fun _ y _ => maskOf fun i => y.getLsbD (31 - i))

/-- BFXU, BFXS, BFI, BYSEL, FSHL and FSHR complete and write their function of v[a], operand b and the old v[d] to v[d] in every live lane, and nothing else. (R108) -/
def Obligations.BitFieldResults : Prop :=
  ∀ (sc : Scope) (d a : Reg) (b : Opb),
  LaneResult (.bfxu sc d a b) (vecMeta sc d a b) .int b (fun x y _ => (x &&& fieldMask y) >>> fieldStart y) ∧
  LaneResult (.bfxs sc d a b) (vecMeta sc d a b) .int b (fun x y _ => if fieldLen y = 0 then 0 else BitVec.ofInt 32 (sintOf (fieldLen y) ((x &&& fieldMask y) >>> fieldStart y).toNat)) ∧
  LaneResult (.bfi sc d a b) (vecMeta3 sc d a b) .int b (fun x y z => (z &&& ~~~fieldMask y) ||| ((x <<< fieldStart y) &&& fieldMask y)) ∧
  LaneResult (.bysel sc d a b) (vecMeta3 sc d a b) .int b (fun x y z => bysel x y z) ∧
  LaneResult (.fshl sc d a b) (vecMeta3 sc d a b) .int b (fun x y z => ((x ++ z) <<< (y.toNat % 32)).extractLsb' 32 32) ∧
  LaneResult (.fshr sc d a b) (vecMeta3 sc d a b) .int b (fun x y z => ((x ++ z) >>> (y.toNat % 32)).extractLsb' 0 32)

/-- Each ICMP completes and combines its condition, by set, AND or OR, into the named predicate in every live lane; a lane that is not live keeps its predicate, p0 does not change, and nothing else changes. (R109) -/
def Obligations.CompareResults : Prop :=
  ∀ (sc : Scope) (p : BitVec 3) (comb : BitVec 2) (a : Reg) (b : Opb),
  CompareResult (.icmpEq sc p comb a b) (cmpMeta sc a b) b p comb (fun x y => x == y) ∧
  CompareResult (.icmpNe sc p comb a b) (cmpMeta sc a b) b p comb (fun x y => x != y) ∧
  CompareResult (.icmpLt sc p comb a b) (cmpMeta sc a b) b p comb (fun x y => decide (x.toInt < y.toInt)) ∧
  CompareResult (.icmpLe sc p comb a b) (cmpMeta sc a b) b p comb (fun x y => decide (x.toInt ≤ y.toInt)) ∧
  CompareResult (.icmpGt sc p comb a b) (cmpMeta sc a b) b p comb (fun x y => decide (y.toInt < x.toInt)) ∧
  CompareResult (.icmpGe sc p comb a b) (cmpMeta sc a b) b p comb (fun x y => decide (y.toInt ≤ x.toInt)) ∧
  CompareResult (.icmpLtu sc p comb a b) (cmpMeta sc a b) b p comb (fun x y => decide (x.toNat < y.toNat)) ∧
  CompareResult (.icmpLeu sc p comb a b) (cmpMeta sc a b) b p comb (fun x y => decide (x.toNat ≤ y.toNat)) ∧
  CompareResult (.icmpGtu sc p comb a b) (cmpMeta sc a b) b p comb (fun x y => decide (y.toNat < x.toNat)) ∧
  CompareResult (.icmpGeu sc p comb a b) (cmpMeta sc a b) b p comb (fun x y => decide (y.toNat ≤ x.toNat))

/-- IMAC, IMAD, LEA to LEA16, IADD64, ISUB64 and IMULW complete with the results of R110: words modulo 2^32, pairs modulo 2^64, the index of LEA sign-extended; nothing else changes. (R110) -/
def Obligations.MultiplyAddResults : Prop :=
  ∀ (sc : Scope) (d a : Reg) (b : Opb),
  LaneResult (.imac sc d a b) (vecMeta3 sc d a b) .int b (fun x y z => BitVec.ofInt 32 (x.toInt * y.toInt + z.toInt)) ∧
  LaneResult (.imad sc d a b) (vecMeta3 sc d a b) .int b (fun x y z => BitVec.ofInt 32 (z.toInt * x.toInt + y.toInt)) ∧
  (∀ s s' j y, s.judge (pairMeta sc d a b) = .go s' j → s'.operand j .int b = .ok y →
    let pair : Dword → Warp := fun k => j.w.setRow64 j.live j.d
      (Vector.ofFn fun n => laneOf64 (j.w.row64 j.a) n + (laneOf y n).signExtend 64 * k)
    Completes (.lea sc d a b) s s' j (pair 1) ∧ Completes (.lea2 sc d a b) s s' j (pair 2) ∧
    Completes (.lea4 sc d a b) s s' j (pair 4) ∧ Completes (.lea8 sc d a b) s s' j (pair 8) ∧
    Completes (.lea16 sc d a b) s s' j (pair 16)) ∧
  (∀ s s' j y, s.judge (pairMeta64 sc d a b) = .go s' j → s'.operand64 j b = .ok y →
    let pair : (Dword → Dword → Dword) → Warp := fun f => j.w.setRow64 j.live j.d
      (Vector.ofFn fun n => f (laneOf64 (j.w.row64 j.a) n) (laneOf64 y n))
    Completes (.iadd64 sc d a b) s s' j (pair (· + ·)) ∧ Completes (.isub64 sc d a b) s s' j (pair (· - ·))) ∧
  (∀ s s' j y, s.judge { vecMeta sc d a b with nd := 2, bad := d.getLsbD 0 } = .go s' j → s'.operand j .int b = .ok y →
    Completes (.imulw sc d a b) s s' j (j.w.setRow64 j.live j.d
      (Vector.ofFn fun n => BitVec.ofInt 64 ((laneOf (j.w.row j.a) n).toInt * (laneOf y n).toInt))))

/-- MOV writes operand b; SEL picks v[a] or operand b by a predicate of the lane; PAND, POR, PXOR and PNOT write a predicate; P2V gathers the eight predicates of a lane, bit 0 always 1; V2P sets p1 to p7. Nothing else changes. (R111, R112) -/
def Obligations.MoveResults : Prop :=
  ∀ (sc : Scope) (d a : Reg) (p q : BitVec 3) (b : Opb),
  LaneResult (.mov sc d b) (vecMeta1 sc d b) .int b (fun _ y _ => y) ∧
  (∀ s s' j y, s.judge (vecMeta sc d a b) = .go s' j → s'.operand j .int b = .ok y →
    Completes (.sel sc p d a b) s s' j (j.w.setRow j.live j.d
      (rowOf fun n => if (j.w.pred p.toNat).getLsbD n then laneOf (j.w.row j.a) n else laneOf y n))) ∧
  (∀ s s' j, s.judge (pred2Meta sc b) = .go s' j →
    let x := j.w.pred q.toNat
    let y := j.w.pred (b.num % 8)
    Completes (.pand sc p q b) s s' j (j.w.setPred j.live p.toNat (x &&& y)) ∧
    Completes (.por sc p q b) s s' j (j.w.setPred j.live p.toNat (x ||| y)) ∧
    Completes (.pxor sc p q b) s s' j (j.w.setPred j.live p.toNat (x ^^^ y))) ∧
  (∀ s s' j, s.judge (predMeta sc) = .go s' j →
    Completes (.pnot sc p q) s s' j (j.w.setPred j.live p.toNat (~~~(j.w.pred q.toNat)))) ∧
  (∀ s s' j, s.judge { predMeta sc with d := d.toNat, nd := 1 } = .go s' j →
    Completes (.p2v sc d) s s' j (j.w.setRow j.live j.d (rowOf fun n => BitVec.ofNat 32
      (((List.range 8).filter fun k => (j.w.pred k).getLsbD n).map fun k => 2 ^ k).sum))) ∧
  (∀ s s' j, s.judge { predMeta sc with a := a.toNat, na := 1 } = .go s' j →
    Completes (.v2p sc a) s s' j ([1, 2, 3, 4, 5, 6, 7].foldl
      (fun w k => w.setPred j.live k (maskOf fun n => (laneOf (j.w.row j.a) n).getLsbD k)) j.w))

/-- A word of major 0x0D with d and imm18 is MOVI, which completes and writes the sign-extended immediate to v[d] in every live lane; a word of major 0x0E is SMOVI, which writes it to s[d]; nothing else changes. (R29) -/
def Obligations.ImmediateMoves : Prop :=
  ∀ (sc : Scope) (d : Reg) (imm : BitVec 18) (l : Word),
  decodeWord ((0x0D : BitVec 6) ++ sc.bits ++ d ++ imm) l = some (.movi sc d imm) ∧
  decodeWord ((0x0E : BitVec 6) ++ sc.bits ++ d ++ imm) l = some (.smovi sc d imm) ∧
  (∀ s s' j, s.judge { cls := .laneWise, scope := sc, d := d.toNat, nd := 1, xreg := true, xpred := true } = .go s' j →
    Completes (.movi sc d imm) s s' j (j.w.setRow j.live j.d (splat (imm.signExtend 32)))) ∧
  (∀ s s' j, s.judge { cls := .scalar, scope := sc } = .go s' j →
    Completes (.smovi sc d imm) s s' j (j.w.setS d.toNat (imm.signExtend 32)))

/-- When no live lane raises an exception that the context enables, each FALU and SFU instruction completes and writes its function to v[d] in every live lane, in its rounding, flushing and saturating mode, and nothing else; FABS, FNEG and FCSGN work on bits. How the special functions are evaluated is the model's (log 8). (R148, R150, R152) -/
def Obligations.FloatAluResults : Prop :=
  ∀ (sc : Scope) (d a : Reg) (b : Opb),
  FloatResult (.fadd sc d a b) { vecMeta sc d a b with xmod := xmFloat } .fp32 b (fun j x y _ => wordFx (j.fmode.add fp32 x.toNat y.toNat)) ∧
  FloatResult (.fsub sc d a b) { vecMeta sc d a b with xmod := xmFloat } .fp32 b (fun j x y _ => wordFx (j.fmode.sub fp32 x.toNat y.toNat)) ∧
  FloatResult (.fmul sc d a b) { vecMeta sc d a b with xmod := xmFloat } .fp32 b (fun j x y _ => wordFx (j.fmode.mul fp32 x.toNat y.toNat)) ∧
  FloatResult (.fmac sc d a b) { vecMeta3 sc d a b with xmod := xmFloat } .fp32 b (fun j x y z => wordFx (j.fmode.fma fp32 x.toNat y.toNat z.toNat)) ∧
  FloatResult (.fmad sc d a b) { vecMeta3 sc d a b with xmod := xmFloat } .fp32 b (fun j x y z => wordFx (j.fmode.fma fp32 z.toNat x.toNat y.toNat)) ∧
  FloatResult (.fmns sc d a b) { vecMeta3 sc d a b with xmod := xmFloat } .fp32 b (fun j x y z => wordFx (j.fmode.fms fp32 x.toNat y.toNat z.toNat)) ∧
  FloatResult (.fmin sc d a b) { vecMeta sc d a b with xmod := xmFloat } .fp32 b (fun j x y _ => wordFx (j.fmode.minMax fp32 false x.toNat y.toNat)) ∧
  FloatResult (.fmax sc d a b) { vecMeta sc d a b with xmod := xmFloat } .fp32 b (fun j x y _ => wordFx (j.fmode.minMax fp32 true x.toNat y.toNat)) ∧
  FloatResult (.fcsgn sc d a b) { vecMeta sc d a b with xmod := xmFloat } .fp32 b (fun _ x y _ => ((x &&& 0x7FFFFFFF#32) ||| (y &&& 0x80000000#32), 0)) ∧
  FloatResult (.fabs sc d b) { vecMeta1 sc d b with xmod := xmFloat } .fp32 b (fun _ _ y _ => (y &&& 0x7FFFFFFF#32, 0)) ∧
  FloatResult (.fneg sc d b) { vecMeta1 sc d b with xmod := xmFloat } .fp32 b (fun _ _ y _ => (y ^^^ 0x80000000#32, 0)) ∧
  FloatResult (.fsat sc d b) { vecMeta1 sc d b with xmod := xmFloat } .fp32 b (fun j _ y _ => wordFx (j.fmode.satOf y.toNat)) ∧
  FloatResult (.ffloor sc d b) { vecMeta1 sc d b with xmod := xmFloat } .fp32 b (fun j _ y _ => wordFx (j.fmode.integral .rd y.toNat)) ∧
  FloatResult (.fceil sc d b) { vecMeta1 sc d b with xmod := xmFloat } .fp32 b (fun j _ y _ => wordFx (j.fmode.integral .ru y.toNat)) ∧
  FloatResult (.ftrunc sc d b) { vecMeta1 sc d b with xmod := xmFloat } .fp32 b (fun j _ y _ => wordFx (j.fmode.integral .rz y.toNat)) ∧
  FloatResult (.frint sc d b) { vecMeta1 sc d b with xmod := xmFloat } .fp32 b (fun j _ y _ => wordFx (j.fmode.integral j.rnd y.toNat)) ∧
  FloatResult (.frcp sc d b) { vecMeta1 sc d b with xmod := xmFloat } .fp32 b (fun j _ y _ => wordFx (j.fmode.special sfuRcp y.toNat)) ∧
  FloatResult (.frsq sc d b) { vecMeta1 sc d b with xmod := xmFloat } .fp32 b (fun j _ y _ => wordFx (j.fmode.special sfuRsq y.toNat)) ∧
  FloatResult (.fsqrt sc d b) { vecMeta1 sc d b with xmod := xmFloat } .fp32 b (fun j _ y _ => wordFx (j.fmode.special sfuSqrt y.toNat)) ∧
  FloatResult (.fexp2 sc d b) { vecMeta1 sc d b with xmod := xmFloat } .fp32 b (fun j _ y _ => wordFx (j.fmode.special sfuExp2 y.toNat)) ∧
  FloatResult (.flog2 sc d b) { vecMeta1 sc d b with xmod := xmFloat } .fp32 b (fun j _ y _ => wordFx (j.fmode.special sfuLog2 y.toNat)) ∧
  FloatResult (.fsint sc d b) { vecMeta1 sc d b with xmod := xmFloat } .fp32 b (fun j _ y _ => wordFx (j.fmode.special sfuSin y.toNat)) ∧
  FloatResult (.fcost sc d b) { vecMeta1 sc d b with xmod := xmFloat } .fp32 b (fun j _ y _ => wordFx (j.fmode.special sfuCos y.toNat)) ∧
  FloatResult (.ftanh sc d b) { vecMeta1 sc d b with xmod := xmFloat } .fp32 b (fun j _ y _ => wordFx (j.fmode.special sfuTanh y.toNat))

/-- When no live lane raises an enabled exception, each FCMP completes and combines its outcome into the named predicate in every live lane, and nothing else: a NaN operand gives the outcome that R151 lists, and it signals for every NaN in the ordered conditions and for a signalling NaN in the others. (R151) -/
def Obligations.FloatCompareResults : Prop :=
  ∀ (sc : Scope) (p : BitVec 3) (comb : BitVec 2) (a : Reg) (b : Opb),
  FloatCompareResult (.fcmpEq sc p comb a b) { cmpMeta sc a b with xmod := xmFtz } b p comb
    (fun j => floatCond j.ftz false false (fun o => o == .eq)) ∧
  FloatCompareResult (.fcmpNe sc p comb a b) { cmpMeta sc a b with xmod := xmFtz } b p comb
    (fun j => floatCond j.ftz false true (fun o => o != .eq)) ∧
  FloatCompareResult (.fcmpLt sc p comb a b) { cmpMeta sc a b with xmod := xmFtz } b p comb
    (fun j => floatCond j.ftz true false (fun o => o == .lt)) ∧
  FloatCompareResult (.fcmpLe sc p comb a b) { cmpMeta sc a b with xmod := xmFtz } b p comb
    (fun j => floatCond j.ftz true false (fun o => o != .gt)) ∧
  FloatCompareResult (.fcmpGt sc p comb a b) { cmpMeta sc a b with xmod := xmFtz } b p comb
    (fun j => floatCond j.ftz true false (fun o => o == .gt)) ∧
  FloatCompareResult (.fcmpGe sc p comb a b) { cmpMeta sc a b with xmod := xmFtz } b p comb
    (fun j => floatCond j.ftz true false (fun o => o != .lt)) ∧
  FloatCompareResult (.fcmpUn sc p comb a b) { cmpMeta sc a b with xmod := xmFtz } b p comb
    (fun j => floatCond j.ftz false true (fun _ => false)) ∧
  FloatCompareResult (.fcmpOr sc p comb a b) { cmpMeta sc a b with xmod := xmFtz } b p comb
    (fun j => floatCond j.ftz false false (fun _ => true))

/-- When no live lane raises an enabled exception, each packed instruction completes and writes its two halves, and each dot product its sum, to v[d] in every live lane, and nothing else. (R153, R154, R93) -/
def Obligations.PackedAndDotResults : Prop :=
  ∀ (sc : Scope) (d a : Reg) (b : Opb),
  FloatResult (.hpadd sc d a b) (pkMeta sc d a b) (.packed fp16) b
    (fun j x y z => onHalves (fun x y _ => j.fmode.add fp16 x y) x y z) ∧
  FloatResult (.hpmul sc d a b) (pkMeta sc d a b) (.packed fp16) b
    (fun j x y z => onHalves (fun x y _ => j.fmode.mul fp16 x y) x y z) ∧
  FloatResult (.hpfma sc d a b) { pkMeta sc d a b with readD := true } (.packed fp16) b
    (fun j x y z => onHalves (fun x y z => j.fmode.fma fp16 x y z) x y z) ∧
  FloatResult (.hpmin sc d a b) (pkMeta sc d a b) (.packed fp16) b
    (fun j x y z => onHalves (fun x y _ => j.fmode.minMax fp16 false x y) x y z) ∧
  FloatResult (.hpmax sc d a b) (pkMeta sc d a b) (.packed fp16) b
    (fun j x y z => onHalves (fun x y _ => j.fmode.minMax fp16 true x y) x y z) ∧
  FloatResult (.bpadd sc d a b) (pkMeta sc d a b) (.packed bf16) b
    (fun j x y z => onHalves (fun x y _ => j.fmode.add bf16 x y) x y z) ∧
  FloatResult (.bpmul sc d a b) (pkMeta sc d a b) (.packed bf16) b
    (fun j x y z => onHalves (fun x y _ => j.fmode.mul bf16 x y) x y z) ∧
  FloatResult (.bpfma sc d a b) { pkMeta sc d a b with readD := true } (.packed bf16) b
    (fun j x y z => onHalves (fun x y z => j.fmode.fma bf16 x y z) x y z) ∧
  FloatResult (.bpmin sc d a b) (pkMeta sc d a b) (.packed bf16) b
    (fun j x y z => onHalves (fun x y _ => j.fmode.minMax bf16 false x y) x y z) ∧
  FloatResult (.bpmax sc d a b) (pkMeta sc d a b) (.packed bf16) b
    (fun j x y z => onHalves (fun x y _ => j.fmode.minMax bf16 true x y) x y z) ∧
  FloatResult (.pk2 sc d a b) (wholeMeta (vecMeta sc d a b) b) .int b
    (fun j x y _ => packPair (j.fmode.narrow fp16 x) (j.fmode.narrow fp16 y)) ∧
  FloatResult (.pkb2 sc d a b) (wholeMeta (vecMeta sc d a b) b) .int b
    (fun j x y _ => packPair (j.fmode.narrow bf16 x) (j.fmode.narrow bf16 y)) ∧
  FloatResult (.upkl sc d b) (wholeMeta (vecMeta1 sc d b) b) .int b (fun j _ y _ => j.fmode.widen (half y 0)) ∧
  FloatResult (.upkh sc d b) (wholeMeta (vecMeta1 sc d b) b) .int b (fun j _ y _ => j.fmode.widen (half y 1)) ∧
  FloatResult (.idp4 sc d a b) (dotMeta sc d a b) .int b (fun j x y z => (dotInt j.sat (dotSum (sintOf 8) x y z), 0)) ∧
  FloatResult (.idp4u sc d a b) (dotMeta sc d a b) .int b (fun j x y z => (dotInt j.sat (dotSum Int.ofNat x y z), 0)) ∧
  FloatResult (.bdp2 sc d a b) (dotMeta sc d a b) .int b
    (fun j x y z => dotFloat j.ftzDefault (halfProducts j.ftzDefault x y) z) ∧
  FloatResult (.edp4 sc d a b) (dotMeta sc d a b) .int b
    (fun j x y z => dotFloat j.ftzDefault (byteProducts e4m3.decode e4m3.decode x y) z) ∧
  FloatResult (.dsdp4 sc d a b) (dotMeta sc d a b) .int b
    (fun j x y z => dotFloat j.ftzDefault (byteProducts ds8Decode e4m3.decode x y) z)

/-- When no live lane raises an enabled exception, CVT completes and writes the converted value, a word or a pair as the code says, in every live lane, and nothing else. (R155, R88) -/
def Obligations.ConvertResults : Prop :=
  ∀ (sc : Scope) (d a : Reg) (code : BitVec 6) (sat : Bool) (rnd : BitVec 2) (s s' : State) (j : Job),
  let c := code.toNat
  let nd := if cvtWideResult c then 2 else 1
  let na := if cvtWideSource c then 2 else 1
  let r : Nat → Dword × Fx := fun n => cvtOf c j.ftz sat (cvtRnd rnd) (laneOf64 (j.w.row64 j.a) n)
  s.judge { cls := .laneWise, scope := sc, d := d.toNat, nd := nd, a := a.toNat, na := na, xreg := true, xmod := xmFtz,
            xpred := true, bad := (nd == 2 && d.getLsbD 0) || (na == 2 && a.getLsbD 0) } = .go s' j →
  (∀ n ∈ lanesOf j.live, (r n).2 &&& j.ctx.fpxen = 0) →
  Completes (.cvt sc d a code sat rnd) s s' j
    (if cvtWideResult c then j.w.setRow64 j.live j.d (Vector.ofFn fun n => (r n).1)
     else j.w.setRow j.live j.d (rowOf fun n => loWord (r n).1))

/-- Each SALU instruction completes and writes its function of s[a] and operand b to s[d], or to an s pair for SADD64 and SLEA; in handler mode s56 to s63 are the bank. Nothing else changes. (R113, R207) -/
def Obligations.ScalarResults : Prop :=
  ∀ (sc : Scope) (d a : Reg) (b : Opb),
  ScalarResult (.sadd sc d a b) (scalarMeta sc b) d a b (fun x y => x + y) ∧
  ScalarResult (.ssub sc d a b) (scalarMeta sc b) d a b (fun x y => x - y) ∧
  ScalarResult (.smul sc d a b) (scalarMeta sc b) d a b (fun x y => x * y) ∧
  ScalarResult (.sand sc d a b) (scalarMeta sc b) d a b (fun x y => x &&& y) ∧
  ScalarResult (.sor sc d a b) (scalarMeta sc b) d a b (fun x y => x ||| y) ∧
  ScalarResult (.sxor sc d a b) (scalarMeta sc b) d a b (fun x y => x ^^^ y) ∧
  ScalarResult (.sshl sc d a b) (scalarMeta sc b) d a b (fun x y => if y.toNat < 32 then x <<< y.toNat else 0) ∧
  ScalarResult (.sshr sc d a b) (scalarMeta sc b) d a b (fun x y => if y.toNat < 32 then x >>> y.toNat else 0) ∧
  ScalarResult (.ssar sc d a b) (scalarMeta sc b) d a b (fun x y => x.sshiftRight (min y.toNat 31)) ∧
  ScalarResult (.smin sc d a b) (scalarMeta sc b) d a b (fun x y => if x.toInt ≤ y.toInt then x else y) ∧
  ScalarResult (.smax sc d a b) (scalarMeta sc b) d a b (fun x y => if x.toInt ≤ y.toInt then y else x) ∧
  ScalarResult (.sminu sc d a b) (scalarMeta sc b) d a b (fun x y => if x.toNat ≤ y.toNat then x else y) ∧
  ScalarResult (.smaxu sc d a b) (scalarMeta sc b) d a b (fun x y => if x.toNat ≤ y.toNat then y else x) ∧
  ScalarResult (.smov sc d b) (scalarMeta sc b) d 0 b (fun _ y => y) ∧
  (∀ s s' j y, s.judge (sadd64Meta sc d a b) = .go s' j → s'.uniform64 j b = .ok y →
    Completes (.sadd64 sc d a b) s s' j (j.w.setS64 d.toNat (j.w.sreg64 a.toNat + y))) ∧
  (∀ s s' j y, s.judge { scalarMeta sc b with bad := b.isV || d.getLsbD 0 || a.getLsbD 0 } = .go s' j →
    s'.uniform j .int b = .ok y →
    Completes (.slea sc d a b) s s' j (j.w.setS64 d.toNat (j.w.sreg64 a.toNat + y.signExtend 64)))

/-- Each SCMP of a scope its class allows makes its comparison of s[a] and operand b once and combines the outcome, by set, AND or OR, into the named predicate of every live lane of the issuing split, and changes nothing else; among the decode causes, an XREG, XMOD or XPRED hint gives HINT_ORPHAN, an XIMM or XSCHED hint alone gives none, and with no hint bk 0b00 gives ILLEGAL_OPERAND. (R114) -/
def Obligations.ScalarCompares : Prop :=
  ∀ (sc : Scope) (p : BitVec 3) (comb : BitVec 2) (a : Reg) (b : Opb),
  (∀ s s' j y, s.judge (scalarMeta sc b) = .go s' j → s'.uniform j .int b = .ok y →
    let into : (Word → Word → Bool) → Warp := fun c => j.w.setPred j.live p.toNat (maskOf fun n =>
      let old := (j.w.pred p.toNat).getLsbD n
      let new := c (j.w.sreg a.toNat) y
      if comb = 1 then old && new else if comb = 2 then old || new else new)
    Completes (.scmpEq sc p comb a b) s s' j (into fun x y => x == y) ∧
    Completes (.scmpNe sc p comb a b) s s' j (into fun x y => x != y) ∧
    Completes (.scmpLt sc p comb a b) s s' j (into fun x y => decide (x.toInt < y.toInt)) ∧
    Completes (.scmpLe sc p comb a b) s s' j (into fun x y => decide (x.toInt ≤ y.toInt)) ∧
    Completes (.scmpGt sc p comb a b) s s' j (into fun x y => decide (y.toInt < x.toInt)) ∧
    Completes (.scmpGe sc p comb a b) s s' j (into fun x y => decide (y.toInt ≤ x.toInt)) ∧
    Completes (.scmpLtu sc p comb a b) s s' j (into fun x y => decide (x.toNat < y.toNat)) ∧
    Completes (.scmpLeu sc p comb a b) s s' j (into fun x y => decide (x.toNat ≤ y.toNat)) ∧
    Completes (.scmpGtu sc p comb a b) s s' j (into fun x y => decide (y.toNat < x.toNat)) ∧
    Completes (.scmpGeu sc p comb a b) s s' j (into fun x y => decide (y.toNat ≤ x.toNat))) ∧
  (∀ (s : State) (w : Warp) (h : Hint) (addr : Dword), Cls.scopeOk .scalar sc = true → (gathers sc && w.mode == .handler) = false →
    (sc == .set && s.setsOf w == 0) = false →
    ((h.kind = 1 ∨ h.kind = 2 ∨ 4 ≤ h.kind) → (scalarMeta sc b).decodeCause s w [h] addr = some (3, h.addr)) ∧
    ((h.kind = 0 ∨ h.kind = 3) → (b.isXimm = true → h.kind = 0) → b.isV = false → b.isResv = false →
      (b.isLit = true → addr.toNat % 64 ≠ 0x3C) → (scalarMeta sc b).decodeCause s w [h] addr = none) ∧
    (b.isV = true → (scalarMeta sc b).decodeCause s w [] addr = some (1, addr)))

/-- Each SHFL completes for its whole span and gives every contributor the a register of the lane its index names: y mod n for IDX and BCAST, i - y or i for UP, i + y or i for DOWN, i XOR (y mod n) for XOR, where n is 32, or 32 SETS at SET scope; nothing else that a program sees changes. (R186, R187, R188, R189) -/
def Obligations.ShuffleResults : Prop :=
  ∀ (sc : Scope) (d a : Reg) (b : Opb) (s s' : State) (j : Job) (y : Nat → Row),
  (∀ w ∈ j.members, s'.operand (j.onWarp w) .int b = .ok (y w.uid)) →
  let n := if j.scope = .set then 32 * j.launch.sets else 32
  let from_ : (Nat → Nat → Nat) → Warp → Nat → Word := fun pick w i =>
    j.shflSource w (pick (32 * j.rankOf w * (if j.scope = .set then 1 else 0) + i) (laneOf (y w.uid) i).toNat)
  (s.judge (shflMeta s sc d a b pickIdx) = .go s' j →
    SpanResult (.shflIdx sc d a b) (shflMeta s sc d a b pickIdx) s s' j (from_ fun _ y => y % n)) ∧
  (s.judge (shflMeta s sc d a b pickUp) = .go s' j →
    SpanResult (.shflUp sc d a b) (shflMeta s sc d a b pickUp) s s' j (from_ fun i y => if y ≤ i then i - y else i)) ∧
  (s.judge (shflMeta s sc d a b pickDown) = .go s' j →
    SpanResult (.shflDown sc d a b) (shflMeta s sc d a b pickDown) s s' j (from_ fun i y => if i + y < n then i + y else i)) ∧
  (s.judge (shflMeta s sc d a b pickXor) = .go s' j →
    SpanResult (.shflXor sc d a b) (shflMeta s sc d a b pickXor) s s' j (from_ fun i y => i ^^^ (y % n))) ∧
  (s.judge (shflBcastMeta s sc d a b) = .go s' j →
    SpanResult (.shflBcast sc d a b) (shflBcastMeta s sc d a b) s s' j (from_ fun _ y => y % n))

/-- Each VOTE completes for its whole span: VALL, VANY and VUNI write one truth value to a predicate of every contributor, VBAL a ballot (at wider scopes the ballot of the member at the place of the lane), VCNT the number of contributors with the condition true; nothing else that a program sees changes. (R187, R190) -/
def Obligations.VoteResults : Prop :=
  ∀ (sc : Scope) (q p : BitVec 3) (d : Reg) (n : Bool) (s s' : State) (j : Job),
  let yes : Warp → LaneMask := fun w => j.contrib w &&& (if n then ~~~w.pred p.toNat else w.pred p.toNat)
  let all := j.members.all fun w => yes w == j.contrib w
  let none_ := j.members.all fun w => yes w == 0
  (s.judge (voteMeta sc) = .go s' j →
    SpanPredResult (.vall sc q n p) (voteMeta sc) s s' j q all ∧
    SpanPredResult (.vany sc q n p) (voteMeta sc) s s' j q (!none_) ∧
    SpanPredResult (.vuni sc q n p) (voteMeta sc) s s' j q (all || none_)) ∧
  (s.judge (voteRowMeta sc d) = .go s' j →
    SpanResult (.vbal sc d n p) (voteRowMeta sc d) s s' j
      (fun w i => if gathers sc then ((j.members.find? fun x => j.rankOf x == i).map yes).getD 0 else yes w) ∧
    SpanResult (.vcnt sc d n p) (voteRowMeta sc d) s s' j
      (fun _ _ => BitVec.ofNat 32 (j.members.map fun w => (lanesOf (yes w)).length).sum))

/-- Each integer LRED and LSCAN completes for its whole span and gives every contributor the fold of the contributors that its form covers, from the identity of its operation: all of them, those up to it, or those before it; nothing else that a program sees changes. (R187, R191) -/
def Obligations.IntegerReductions : Prop :=
  ∀ (sc : Scope) (d a : Reg) (s s' : State) (j : Job), s.judge (lredMeta sc d a) = .go s' j →
  let r : Instr → Form → (Word → Word → Word) → Word → Prop := fun i f op unit =>
    SpanResult i (lredMeta sc d a) s s' j (j.formVal f fun xs => xs.foldl op unit)
  r (.lredIadd sc d a) .reduce (fun x y => x + y) 0 ∧
  r (.lredImin sc d a) .reduce (fun x y => if y.toInt < x.toInt then y else x) 0x7FFFFFFF#32 ∧
  r (.lredImax sc d a) .reduce (fun x y => if x.toInt < y.toInt then y else x) 0x80000000#32 ∧
  r (.lredAnd sc d a) .reduce (fun x y => x &&& y) 0xFFFFFFFF#32 ∧
  r (.lredOr sc d a) .reduce (fun x y => x ||| y) 0 ∧
  r (.lredXor sc d a) .reduce (fun x y => x ^^^ y) 0 ∧
  r (.lscanIadd sc d a) .inclusive (fun x y => x + y) 0 ∧
  r (.lscanImin sc d a) .inclusive (fun x y => if y.toInt < x.toInt then y else x) 0x7FFFFFFF#32 ∧
  r (.lscanImax sc d a) .inclusive (fun x y => if x.toInt < y.toInt then y else x) 0x80000000#32 ∧
  r (.lscanAnd sc d a) .inclusive (fun x y => x &&& y) 0xFFFFFFFF#32 ∧
  r (.lscanOr sc d a) .inclusive (fun x y => x ||| y) 0 ∧
  r (.lscanXor sc d a) .inclusive (fun x y => x ^^^ y) 0 ∧
  r (.lscanExclIadd sc d a) .exclusive (fun x y => x + y) 0 ∧
  r (.lscanExclImin sc d a) .exclusive (fun x y => if y.toInt < x.toInt then y else x) 0x7FFFFFFF#32 ∧
  r (.lscanExclImax sc d a) .exclusive (fun x y => if x.toInt < y.toInt then y else x) 0x80000000#32 ∧
  r (.lscanExclAnd sc d a) .exclusive (fun x y => x &&& y) 0xFFFFFFFF#32 ∧
  r (.lscanExclOr sc d a) .exclusive (fun x y => x ||| y) 0 ∧
  r (.lscanExclXor sc d a) .exclusive (fun x y => x ^^^ y) 0

/-- The floating LRED and LSCAN complete for their whole span: FMIN and FMAX, in which no exception arises, give the least or greatest value of the contributors that the form covers, and when no exception arises that the context enables LRED.FADD the sum by the pairwise tree of each member and then of the members, and LSCAN.FADD the five distance steps within a member, carried across members; nothing else that a program sees changes. That a signalling NaN signals nothing, how a wide exclusive scan joins its members and which roundings count are the model's reading (log 38, log 39, log 82). (R94, R95, R191, R192) -/
def Obligations.FloatReductions : Prop :=
  ∀ (sc : Scope) (d a : Reg) (s s' : State) (j : Job), s.judge (lredMeta sc d a) = .go s' j →
  let m := lredMeta sc d a
  (SpanResult (.lredFmin sc d a) m s s' j (j.formVal .reduce (minMaxOf j.ftz false)) ∧
    SpanResult (.lredFmax sc d a) m s s' j (j.formVal .reduce (minMaxOf j.ftz true)) ∧
    SpanResult (.lscanFmin sc d a) m s s' j (j.formVal .inclusive (minMaxOf j.ftz false)) ∧
    SpanResult (.lscanFmax sc d a) m s s' j (j.formVal .inclusive (minMaxOf j.ftz true)) ∧
    SpanResult (.lscanExclFmin sc d a) m s s' j (j.formVal .exclusive (minMaxOf j.ftz false)) ∧
    SpanResult (.lscanExclFmax sc d a) m s s' j (j.formVal .exclusive (minMaxOf j.ftz true))) ∧
  (let one : Warp → Word × Fx := fun w => treeSum j.ftz (rowList (j.faddRow w))
   let total := if gathers j.scope then treeSum j.ftz (rowList (j.byRank fun w => (one w).1)) else one j.w
   ((j.members.foldl (fun x w => x ||| (one w).2) 0) ||| total.2) &&& j.ctx.fpxen = 0 →
   SpanResult (.lredFadd sc d a) m s s' j fun _ _ => total.1) ∧
  (∀ f : Form, f = .inclusive ∨ f = .exclusive →
   let one : Warp → Row × Fx := fun w => scanSteps j.ftz 32 (j.faddRow w)
   let across := if gathers j.scope then scanSteps j.ftz j.spanWarps (j.byRank fun w => laneOf (one w).1 31) else (splat negZero, 0)
   let own : Warp → Nat → Word := fun w i =>
     if f = .exclusive then (if i = 0 then negZero else laneOf (one w).1 (i - 1)) else laneOf (one w).1 i
   let val : Warp → Nat → Word × Fx := fun w i =>
     if gathers j.scope then treeAdd j.ftz (if j.rankOf w = 0 then negZero else laneOf across.1 (j.rankOf w - 1)) (own w i)
     else (canonNan (own w i), 0)
   ((j.members.foldl (fun x w => x ||| (one w).2) 0) ||| across.2 |||
     j.members.foldl (fun x w => lanes32.foldl (fun x i => x ||| (val w i).2) x) 0) &&& j.ctx.fpxen = 0 →
   SpanResult (if f = .inclusive then .lscanFadd sc d a else .lscanExclFadd sc d a) m s s' j fun w i => (val w i).1)

/-- A LD whose policy is good and whose live lanes all pass their checks completes: one operation with every lane's place joins the loads class; HLD does so for 64 bytes and an h register, and LDMC sends its requests to the home slices; registers and memory are as they were. That a LD without a live lane checks nothing is the model's reading (log 97). (R126, R127, R129, R130, R139, R258, R406) -/
def Obligations.LoadIssue : Prop :=
  (∀ (sc : Scope) (d a pol : Reg) (size : BitVec 3) (sx as : Bool) (s s' : State) (j : Job),
    s.judge (memMeta sc d a size as) = .go s' j →
    let i : Instr := .ld sc d a pol size sx as
    let p := j.w.sreg pol.toNat
    (j.live = 0 → Ends i (memMeta sc d a size as) s j s') ∧
    ∀ ps, j.live ≠ 0 → polBad false p = false → classFull j.w.loads = false →
      s'.checkLanes j .load (2 ^ size.toNat) (j.addrOf as a) = .ok ps →
      let op : LoadOp :=
        { id := s'.nextUid, seq := 0, ord := 0, kind := .mem, dest := j.d, nreg := sizeRegs size, lanes := j.live,
          size := 2 ^ size.toNat, sext := sx, acqScope := if polOrder p = 1 then some (p.extractLsb' 19 3) else none,
          repl := polRepl p, nt := polNt p, accs := ps.map fun x => x.2.acc x.1 (j.addrOf as a x.1), early := [], done := false }
      let t := { s' with nextUid := s'.nextUid + 1 }.put j fun w => w.addLoad op
      Ends i (memMeta sc d a size as) s j t ∧ t.mem = s'.mem) ∧
  (∀ (sc : Scope) (h : BitVec 4) (a : Reg) (b : Opb) (s s' : State) (j : Job) (q : Place),
    let m : Meta := { shapeMeta sc h with hs := [], hw := [h.toNat], opb := some b, bad := a.getLsbD 0 || notS b }
    s.judge m = .go s' j →
    let p := j.w.sreg b.num
    polBad false p = false → classFull j.w.loads = false →
    s'.checkLane j.ctx .load 64 (j.w.sreg64 a.toNat) 0 = .ok q →
    let op : LoadOp :=
      { id := s'.nextUid, seq := 0, ord := 0, kind := .hreg, dest := h.toNat, nreg := 0, lanes := 1, size := 64, sext := false,
        acqScope := if polOrder p = 1 then some (p.extractLsb' 19 3) else none, repl := polRepl p, nt := polNt p,
        accs := [q.acc 0 (j.w.sreg64 a.toNat)], early := [], done := false }
    let t := { s' with nextUid := s'.nextUid + 1 }.put j fun w => w.addLoad op
    Ends (.hld sc h a b) m s j t ∧ t.mem = s'.mem) ∧
  (∀ (sc : Scope) (d a c : Reg) (s s' : State) (j : Job) (ps : List (Nat × Place)),
    s.judge (ldmcMeta sc a) = .go s' j →
    let y := j.w.sreg c.toNat
    let src := j.w.sreg64 a.toNat
    let off := (j.w.sreg d.toNat).toNat
    j.mcTrap y src off = none → classFull j.w.loads = false →
    firstFail (List.range (mcLen y)) (fun k => s'.checkLane j.ctx .load 64 (src + BitVec.ofNat 64 (64 * k)) 0) = .ok ps →
    let rs := j.mcReqs s'.nextUid y src off ps
    let op : LoadOp := { LoadOp.taken s'.nextUid with kind := .delivery, done := false }
    let t := { s' with nextUid := s'.nextUid + 1 + rs.length, mcReqs := s'.mcReqs ++ rs }.put j fun w => w.addLoad op
    Ends (.ldmc sc d a c) (ldmcMeta sc a) s j t ∧ t.mem = s'.mem)

/-- A ST whose policy is good and whose live lanes all pass their checks completes: one entry joins the store queue with the bytes of every live lane at the places that their addresses name, the highest lane prevailing; HST does so with the 64 bytes of an h register; FLUSHV queues its range, and one of no bytes does nothing. No byte of memory changes at issue. That a ST without a live lane checks nothing is the model's reading (log 97). (R129, R143, R216, R217, R228, R258) -/
def Obligations.StoreIssue : Prop :=
  (∀ (sc : Scope) (d a pol : Reg) (size : BitVec 3) (g as : Bool) (s s' : State) (j : Job),
    s.judge (stMeta sc d a pol size as) = .go s' j →
    let i : Instr := .st sc d a pol size g as
    let p := j.w.sreg pol.toNat
    (j.live = 0 → Ends i (stMeta sc d a pol size as) s j s') ∧
    ∀ ps, j.live ≠ 0 → polBad true p = false → j.w.sqFull = false → classFull j.w.stores = false →
      s'.checkLanes j .store (2 ^ size.toNat) (j.addrOf as a) = .ok ps →
      let bytes := ps.flatMap fun x => (j.w.laneBytes j.d (2 ^ size.toNat) x.1).zipIdx.map fun b =>
        ({ key := x.2.key + b.2, byte := b.1, home := x.2.home, slice := x.2.slice, win := x.2.win, nt := polNt p || x.2.nt, vcache := x.2.vcache }
          : WByte)
      let e : SqEntry :=
        { id := s'.nextUid, seq := 0, gmode := g, flush := [], bytes := entryBytes bytes,
          deps := if polOrder p = 2 then j.w.released (polScope p) else [], rel := if polOrder p = 2 then some (polScope p) else none,
          va := j.addrOf as a j.low, lane := j.low }
      let t := { s' with nextUid := s'.nextUid + 1 }.put j fun w => w.enqueue e
      Ends i (stMeta sc d a pol size as) s j t ∧ ∀ k, t.readByte k = s'.readByte k) ∧
  (∀ (sc : Scope) (h : BitVec 4) (a : Reg) (b : Opb) (s s' : State) (j : Job) (q : Place),
    s.judge (hstMeta sc h a b) = .go s' j →
    let p := j.w.sreg b.num
    let ea := j.w.sreg64 a.toNat
    polBad true p = false → j.w.sqFull = false → classFull j.w.stores = false → s'.checkLane j.ctx .store 64 ea 0 = .ok q →
    let bytes := (leBytes 64 (j.w.hreg h).toNat).zipIdx.map fun x =>
      ({ key := q.key + x.2, byte := x.1, home := q.home, slice := q.slice, win := q.win, nt := polNt p || q.nt, vcache := q.vcache } : WByte)
    let e : SqEntry :=
      { id := s'.nextUid, seq := 0, gmode := false, flush := [], bytes := bytes,
        deps := if polOrder p = 2 then j.w.released (polScope p) else [], rel := if polOrder p = 2 then some (polScope p) else none, va := ea,
        lane := 0 }
    let t := { s' with nextUid := s'.nextUid + 1 }.put j fun w => w.enqueue e
    Ends (.hst sc h a b) (hstMeta sc h a b) s j t ∧ ∀ k, t.readByte k = s'.readByte k) ∧
  (∀ (sc : Scope) (a : Reg) (b : Opb) (s s' : State) (j : Job) (y : Word),
    let m : Meta := { scalarMeta sc b with bad := b.isV || a.getLsbD 0 }
    s.judge m = .go s' j → s'.uniform j .int b = .ok y →
    let start := j.w.sreg64 a.toNat
    let pages := pagesOf start y.toNat
    (y = 0 → Ends (.flushv sc a b) m s j s') ∧
    ∀ ps, y ≠ 0 → j.w.sqFull = false → classFull j.w.stores = false →
      firstFail (List.range pages.length) (fun i => s'.checkLane j.ctx .store 1 (pages.getD i 0) 0) = .ok ps →
      let stop := start.toNat + y.toNat
      let ranges := ps.map fun x => let va := (pages.getD x.1 0).toNat; (x.2.key, min (stop - va) (4096 - va % 4096))
      let e : SqEntry :=
        { id := s'.nextUid, seq := 0, gmode := false, flush := ranges, bytes := [], deps := [], rel := none, va := start, lane := 0 }
      let t := { s' with nextUid := s'.nextUid + 1 }.put j fun w => w.enqueue e
      Ends (.flushv sc a b) m s j t ∧ ∀ k, t.readByte k = s'.readByte k)

/-- When every live lane passes its check, LDS completes with the zero-extended bytes of its offset in v[d] and on, STS writes the bytes of its registers at the offsets of its lanes in ascending order, and LDC reads word WORD + v[a] + y of the window's bank; CWIN without a reserved bit sets the window. LDC keeps the words it has read in the constant cache. Memory is as it was, for LDC where no value stands in wide form. Without live lanes LDS and LDC complete and check nothing. That the values are taken at issue, that lanes are written in ascending order, that an instruction without live lanes takes no operand, and which cached words are kept are the model's reading (log 14, log 18, log 103, log 105). (R132, R134, R136, R137) -/
def Obligations.ScratchpadAndConstants : Prop :=
  (∀ (sc : Scope) (d off : Reg) (alloc size : BitVec 3) (ok : Bool) (s s' : State) (j : Job),
    let n := 2 ^ size.toNat
    (s.judge (scratchMeta sc d off size ok) = .go s' j →
      let i : Instr := .lds sc d off alloc size ok
      (j.live = 0 → Ends i (scratchMeta sc d off size ok) s j s') ∧
      ∀ os, j.live ≠ 0 → classFull j.w.loads = false → j.offsets alloc n ok off = .ok os →
        let at_ : Nat → Nat := fun i => ((os.find? fun x => x.1 == i).map fun x => x.2).getD 0
        let t := (s'.put j fun w => w.setBytes j.live j.d n (sizeRegs size) fun i =>
          j.block.scratchRead j.launch alloc.toNat (at_ i) n).countTaken j
        Ends i (scratchMeta sc d off size ok) s j t ∧ t.mem = s'.mem) ∧
    (s.judge { scratchMeta sc d off size ok with readD := true } = .go s' j →
      ∀ os, j.offsets alloc n ok off = .ok os →
        let t := s'.modBlock j.block.uid fun b =>
          os.foldl (fun b x => b.scratchWrite j.launch alloc.toNat x.2 (j.w.laneBytes j.d n x.1)) b
        Ends (.sts sc d off alloc size ok) { scratchMeta sc d off size ok with readD := true } s j t ∧ t.mem = s'.mem)) ∧
  (∀ (sc : Scope) (d a : Reg) (b : Opb) (s s' : State) (j : Job), s.judge (vecMeta sc d a b) = .go s' j →
    (j.live = 0 → Ends (.ldc sc d a b) (vecMeta sc d a b) s j s') ∧
    ∀ y ws, j.live ≠ 0 → classFull j.w.loads = false → s'.operand j .int b = .ok y →
      let index : Nat → Nat := fun i => (BitVec.ofNat 32 (cwinWord j.w.cwin) + laneOf (j.w.row j.a) i + laneOf y i : Word).toNat
      firstFail (lanesOf j.live) (fun i => s'.constWord j (cwinBank j.w.cwin) (index i) i) = .ok ws →
      let val : Nat → Word := fun i => ((ws.find? fun x => x.1 == i).map fun x => x.2).getD 0
      let t := ((s'.cacheConsts j (cwinBank j.w.cwin) ((lanesOf j.live).map index)).putRow j (rowOf val)).countTaken j
      Ends (.ldc sc d a b) (vecMeta sc d a b) s j t ∧ (s'.shadows = [] → t.mem = s'.mem)) ∧
  (∀ (sc : Scope) (b : Opb) (s s' : State) (j : Job) (y : Word), s.judge (scalarMeta sc b) = .go s' j →
    s'.uniform j .int b = .ok y → y &&& 0xFFF8C000#32 = 0 → Completes (.cwin sc b) s s' j { j.w with cwin := y })

/-- Each ATOM and RED whose live lanes all pass their checks completes: the requests of its lines join the requests under way, the issuing core drops its copies of those lines, and one operation joins the loads class of an ATOM or the stores class of a RED; memory is as it was. (R242, R243, R245, R247, R248) -/
def Obligations.AtomicIssue : Prop :=
  ∀ (sc : Scope) (d a b : Reg) (wide : Bool),
  AtomResult (.atomAadd sc d a b wide) { atomMeta 0 sc d a b wide with dep := atomDep } .atom 0 wide true ∧
  AtomResult (.atomAmin sc d a b wide) { atomMeta 1 sc d a b wide with dep := atomDep } .atom 1 wide true ∧
  AtomResult (.atomAmax sc d a b wide) { atomMeta 2 sc d a b wide with dep := atomDep } .atom 2 wide true ∧
  AtomResult (.atomAminu sc d a b wide) { atomMeta 3 sc d a b wide with dep := atomDep } .atom 3 wide true ∧
  AtomResult (.atomAmaxu sc d a b wide) { atomMeta 4 sc d a b wide with dep := atomDep } .atom 4 wide true ∧
  AtomResult (.atomAand sc d a b wide) { atomMeta 5 sc d a b wide with dep := atomDep } .atom 5 wide true ∧
  AtomResult (.atomAor sc d a b wide) { atomMeta 6 sc d a b wide with dep := atomDep } .atom 6 wide true ∧
  AtomResult (.atomAxor sc d a b wide) { atomMeta 7 sc d a b wide with dep := atomDep } .atom 7 wide true ∧
  AtomResult (.atomAexch sc d a b wide) { atomMeta 8 sc d a b wide with dep := atomDep } .atom 8 wide true ∧
  AtomResult (.atomAcas sc d a b wide) { atomMeta 9 sc d a b wide with dep := atomDep } .atom 9 wide true ∧
  AtomResult (.atomAinc sc d a b wide) { atomMeta 10 sc d a b wide with dep := atomDep } .atom 10 wide true ∧
  AtomResult (.atomAdec sc d a b wide) { atomMeta 11 sc d a b wide with dep := atomDep } .atom 11 wide true ∧
  AtomResult (.atomAfadd sc d a b) { atomMeta 12 sc d a b false with dep := atomDep } .atom 12 false true ∧
  AtomResult (.atomAfaddb sc d a b) { atomMeta 13 sc d a b false with dep := atomDep } .atom 13 false true ∧
  AtomResult (.atomAfadde sc d a b) { atomMeta 14 sc d a b false with dep := atomDep } .atom 14 false true ∧
  AtomResult (.atomAfmin sc d a b) { atomMeta 15 sc d a b false with dep := atomDep } .atom 15 false true ∧
  AtomResult (.atomAfmax sc d a b) { atomMeta 16 sc d a b false with dep := atomDep } .atom 16 false true ∧
  AtomResult (.redAadd sc a b wide) { redMeta 0 sc a b wide with dep := atomDep } .red 0 wide false ∧
  AtomResult (.redAmin sc a b wide) { redMeta 1 sc a b wide with dep := atomDep } .red 1 wide false ∧
  AtomResult (.redAmax sc a b wide) { redMeta 2 sc a b wide with dep := atomDep } .red 2 wide false ∧
  AtomResult (.redAminu sc a b wide) { redMeta 3 sc a b wide with dep := atomDep } .red 3 wide false ∧
  AtomResult (.redAmaxu sc a b wide) { redMeta 4 sc a b wide with dep := atomDep } .red 4 wide false ∧
  AtomResult (.redAand sc a b wide) { redMeta 5 sc a b wide with dep := atomDep } .red 5 wide false ∧
  AtomResult (.redAor sc a b wide) { redMeta 6 sc a b wide with dep := atomDep } .red 6 wide false ∧
  AtomResult (.redAxor sc a b wide) { redMeta 7 sc a b wide with dep := atomDep } .red 7 wide false ∧
  AtomResult (.redAinc sc a b wide) { redMeta 10 sc a b wide with dep := atomDep } .red 10 wide false ∧
  AtomResult (.redAdec sc a b wide) { redMeta 11 sc a b wide with dep := atomDep } .red 11 wide false ∧
  AtomResult (.redAfadd sc a b) { redMeta 12 sc a b false with dep := atomDep } .red 12 false false ∧
  AtomResult (.redAfaddb sc a b) { redMeta 13 sc a b false with dep := atomDep } .red 13 false false ∧
  AtomResult (.redAfadde sc a b) { redMeta 14 sc a b false with dep := atomDep } .red 14 false false ∧
  AtomResult (.redAfmin sc a b) { redMeta 15 sc a b false with dep := atomDep } .red 15 false false ∧
  AtomResult (.redAfmax sc a b) { redMeta 16 sc a b false with dep := atomDep } .red 16 false false

/-- The new value of a location for each integer operation of R246, on 32 or 64 bits, from the old value and the operands, when the old value and the operands are within the width. (R246) -/
def Obligations.AtomicValues : Prop :=
  ∀ (wide : Bool) (old y z : Nat),
  let n := if wide then 64 else 32
  let signed : Nat → Int := fun x => if x < 2 ^ (n - 1) then (x : Int) else (x : Int) - 2 ^ n
  old < 2 ^ n → y < 2 ^ n →
  atomNew 0 wide old y z = (old + y) % 2 ^ n ∧
  atomNew 1 wide old y z = (if signed y < signed old then y else old) ∧
  atomNew 2 wide old y z = (if signed old < signed y then y else old) ∧
  atomNew 3 wide old y z = (if y < old then y else old) ∧
  atomNew 4 wide old y z = (if old < y then y else old) ∧
  atomNew 5 wide old y z = old &&& y ∧ atomNew 6 wide old y z = old ||| y ∧ atomNew 7 wide old y z = old ^^^ y ∧
  atomNew 8 wide old y z = y ∧
  atomNew 9 wide old y z = (if old = y then z else old) ∧
  atomNew 10 wide old y z = (if old < y then old + 1 else 0) ∧
  atomNew 11 wide old y z = (if old = 0 ∨ y < old then y else old - 1)

/-- With live lanes and an initialised buffer, CBWAIT with a filled slot acquires and gives the offset of the oldest filled slot, CBPOP frees it, CBRSV with a free slot claims the next and gives its offset, CBCMT marks the oldest claim written, CBQRY gives RD, RESV, FREE and FILLED; CBINIT with a good record makes every slot free. Without live lanes each does nothing. What they do without live lanes is the model's reading (log 24). (R140, R141) -/
def Obligations.CircularBuffers : Prop :=
  ∀ (sc : Scope) (d a : Reg) (b : Opb) (s s' : State) (j : Job),
  let md : Meta := { cbMeta sc b with d := d.toNat, nd := 1 }
  let mw : Meta := { cbMeta sc b with d := d.toNat, nd := 1, dep := cbwaitDep b }
  (s.judge mw = .go s' j →
    (j.live = 0 → Ends (.cbwait sc d b) mw s j s') ∧
    ∀ k c, j.live ≠ 0 → s'.cbuf j b = .ok (k, c) → c.filled ≠ 0 → (s'.awaitLoads j.w.uid).2 = true →
      Ends (.cbwait sc d b) mw s j (((s'.awaitLoads j.w.uid).1.acquire j.w.core 1).putRow j
        (splat (BitVec.ofNat 32 (64 * (cbBase c.record + c.rd * cbSlotSize c.record)))))) ∧
  (s.judge (cbMeta sc b) = .go s' j →
    (j.live = 0 → Ends (.cbpop sc b) (cbMeta sc b) s j s' ∧ Ends (.cbcmt sc b) (cbMeta sc b) s j s' ∧
      Ends (.cbinit sc a b) (cbMeta sc b) s j s') ∧
    (∀ k c, j.live ≠ 0 → s'.cbuf j b = .ok (k, c) →
      (c.filled ≠ 0 → Ends (.cbpop sc b) (cbMeta sc b) s j (s'.modCbuf j.block.uid k fun c =>
        { c with filled := c.filled - 1, free := c.free + 1, rd := (c.rd + 1) % cbSlots c.record })) ∧
      ((c.claims.any fun x => x.1 && !x.2) = true →
        Ends (.cbcmt sc b) (cbMeta sc b) s j (s'.modCbuf j.block.uid k fun c => c.commit true))) ∧
    (∀ y c, j.live ≠ 0 → s'.uniform j .int b = .ok y → j.block.cbufs[y.toNat]? = some c →
      cbInvalid j.launch (j.w.sreg a.toNat) = false → (c.claims.any fun x => !x.1) = false →
      Ends (.cbinit sc a b) (cbMeta sc b) s j (s'.modCbuf j.block.uid y.toNat fun _ => cbInit (j.w.sreg a.toNat)))) ∧
  (s.judge md = .go s' j →
    (j.live = 0 → Ends (.cbrsv sc d b) md s j s' ∧ Ends (.cbqry sc d b) md s j s') ∧
    ∀ k c, j.live ≠ 0 → s'.cbuf j b = .ok (k, c) →
      (c.free ≠ 0 → Ends (.cbrsv sc d b) md s j ((s'.modCbuf j.block.uid k fun c =>
          { c with free := c.free - 1, resv := c.resv + 1, wr := (c.wr + 1) % cbSlots c.record, claims := c.claims ++ [(true, false)] }).putRow j
        (splat (BitVec.ofNat 32 (64 * (cbBase c.record + c.wr * cbSlotSize c.record)))))) ∧
      Ends (.cbqry sc d b) md s j (s'.putRow j
        (splat (BitVec.ofNat 32 (c.rd * 2 ^ 24 + c.resv * 2 ^ 16 + c.free * 2 ^ 8 + c.filled)))))

/-- FENCE.ACQ completes as an acquire once the loads before it have their values, FENCE.REL as a release, at once at LANE or WARP scope and at SET or BLOCK scope once its warp's store queue is empty, and FENCE.FULL as both once the earlier stores are performed too; INVL1 drops every line of the core's L1; WAIT completes once each class it names holds at most its number, the loads that can complete having completed where it names their class. Memory is as it was after INVL1 and after FENCE.REL at LANE or WARP scope. Where FENCE.FULL waits, when a gathered FENCE.REL completes, and that a WAIT on the loads completes every load that can are the model's reading (log 19, log 112, log 100). (R142, R145, R197, R221, R228, R229) -/
def Obligations.FencesAndWaits : Prop :=
  (∀ (sc : Scope) (ms : BitVec 2) (s s' : State) (j : Job),
    (s.judge (fenceMeta sc ms false) = .go s' j → (s'.awaitLoads j.w.uid).2 = true →
      Ends (.fenceAcq sc ms) (fenceMeta sc ms false) s j ((s'.awaitLoads j.w.uid).1.acquire j.w.core ms.toNat)) ∧
    (s.judge (fenceMeta sc ms true) = .go s' j →
      (gathers sc = false → Ends (.fenceRel sc ms) (fenceMeta sc ms true) s j (s'.releaseFence j.w.uid ms.toNat) ∧
        (s'.releaseFence j.w.uid ms.toNat).mem = s'.mem ∧
        ∀ w, s'.warp? j.w.uid = some w → ((s'.releaseFence j.w.uid ms.toNat).warp? j.w.uid).map (·.relDeps) =
          some ((w.relDeps ++ w.released ms.toNat).filter fun d => !s'.performed d.1 d.2)) ∧
      (gathers sc = true → ∀ w, ((s'.settleAll j.w.uid 256).drainAll j.w.uid 40).warp? j.w.uid = some w → w.sq = [] →
        Ends (.fenceRel sc ms) (fenceMeta sc ms true) s j
          (((s'.settleAll j.w.uid 256).drainAll j.w.uid 40).releaseFence j.w.uid ms.toNat))) ∧
    (s.judge (fenceMeta sc ms true) = .go s' j → (s'.awaitLoads j.w.uid).2 = true →
      let q := (s'.awaitLoads j.w.uid).1.drainAll j.w.uid 40
      q.storesDone j.w.uid ms.toNat = true →
      Ends (.fenceFull sc ms) (fenceMeta sc ms true) s j ((q.releaseFence j.w.uid ms.toNat).acquire j.w.core ms.toNat))) ∧
  (∀ (sc : Scope) (s s' : State) (j : Job), s.judge { cls := .scalar, scope := sc } = .go s' j →
    let t := { s' with l1 := s'.l1.filter fun x => x.core != j.w.core }
    Ends (.invl1 sc) { cls := .scalar, scope := sc } s j t ∧ t.mem = s'.mem) ∧
  (∀ (sc : Scope) (ldn stn cpn ton : BitVec 6) (s s' : State) (j : Job) (w : Warp),
    s.judge (waitMeta sc ldn stn cpn ton) = .go s' j →
    let q := if ldn = 63 then s' else s'.settleAll j.w.uid 256
    q.warp? j.w.uid = some w → w.asyncs.any (waitDep ldn stn cpn ton w) = false →
    (ldn ≠ 63 → w.loads.length ≤ ldn.toNat) → (stn ≠ 63 → w.stores.length ≤ stn.toNat) →
    (cpn ≠ 63 → w.copies.length ≤ cpn.toNat) → (ton ≠ 63 → w.tileops.length ≤ ton.toNat) →
    Ends (.wait sc ldn stn cpn ton) (waitMeta sc ldn stn cpn ton) s j q)

/-- With a good selector of a bound window, WCRD reads the counter to s[d] unless it has overflowed, WCWAIT ends as an acquire at DEVICE scope once the counter has reached s[a], and WCRST clears the counter and its overflow flag. (R146, R236, R425) -/
def Obligations.WindowCounters : Prop :=
  ∀ (sc : Scope) (d a : Reg) (b : Opb) (s s' : State) (j : Job) (y : Word) (x : WinSlot),
  s'.selected j b = .ok (y, x) →
  let dst := y.getLsbD 16
  let c := x.counter dst
  (s.judge (scalarMeta sc b) = .go s' j →
    (c.2 = false → Completes (.wcrd sc d b) s s' j (j.w.setS d.toNat c.1)) ∧
    Ends (.wcrst sc b) (scalarMeta sc b) s j (s'.modCtx j.ctx.field j.ctx.ctxid fun q => q.modWin (y.extractLsb' 0 8).toNat fun x =>
      if dst then { x with dst := 0, dstOvf := false } else { x with src := 0, srcOvf := false })) ∧
  (s.judge { scalarMeta sc b with dep := wcwaitDep b } = .go s' j → x.blind dst = false → c.2 = false →
    (j.w.sreg a.toNat).toNat ≤ c.1.toNat → (s'.awaitLoads j.w.uid).2 = true →
    Ends (.wcwait sc a b) { scalarMeta sc b with dep := wcwaitDep b } s j ((s'.awaitLoads j.w.uid).1.acquire j.w.core 2))

/-- A LANE-scope BR sends the live lanes whose condition is true to the word address plus 4 plus four times its displacement and the others to the next group: all of them, or none, keep the slot there, and its split divides only where they differ; CALL also pushes the address of the next word where no stack is full; BRX, CALLX and RET go to the targets of their registers or stacks when these are good, CALLX pushing and RET popping in every live lane. Which lane a full or an empty return stack names is the model's reading (log 23). (R33, R115, R116, R118, R119) -/
def Obligations.Branches : Prop :=
  ∀ (sc : Scope) (p : BitVec 3) (n : Bool) (disp : BitVec 20) (b : Opb) (s s' : State) (j : Job),
  let mb : Meta := { cls := .branch, scope := sc }
  let t := j.addr + 4 + 4 * disp.signExtend 64
  let r := s'.goers j p n
  let to_ : List (Nat × Dword) := (lanesOf j.live).map fun i => (i, if r.2.getLsbD i then t else j.next)
  (s.judge mb = .go s' j →
    exec (.br sc p n disp) s = .next (r.1.conclude mb j (.jump r.1 (some t) to_)) ∧
    (j.w.fullStack r.2 = none →
      exec (.call sc p n disp) s =
        .next (r.1.conclude mb j (.jump (r.1.put j fun w => w.pushAll r.2 (j.addr + 4)) (some t) to_))) ∧
    (sc = .lane → r = (s', j.live &&& (if n then ~~~j.w.pred p.toNat else j.w.pred p.toNat))) ∧
    (sc = .lane → j.live ≠ 0 → (j.w.split? j.slot).isSome = true → ∀ go : Bool,
      j.live &&& (if n then ~~~j.w.pred p.toNat else j.w.pred p.toNat) = (if go then j.live else 0) →
      ∃ u, exec (.br sc p n disp) s = .next u ∧ u.rest = s'.rest ∧ (∀ v, u.seen v = s'.seen v) ∧
        u.pcOf j.w.uid j.slot = some (if go then t else j.next)) ∧
    (∀ q ts, (∀ i ∈ lanesOf j.live, j.w.stack i ≠ []) → s'.routes j (fun w => .ok w.tops) = .ok (q, ts) → badTarget ts = none →
      exec (.ret sc) s = .next (q.conclude mb j (.jump (q.put j fun w => w.popAll j.live) none ts)))) ∧
  (s.judge (brxMeta sc b) = .go s' j → ∀ q ts, s'.routes j (fun w => s'.targetsOf j w b) = .ok (q, ts) → badTarget ts = none →
    exec (.brx sc b) s = .next (q.conclude (brxMeta sc b) j (.jump q none ts)) ∧
    (j.w.fullStack j.live = none →
      exec (.callx sc b) s =
        .next (q.conclude (brxMeta sc b) j (.jump (q.put j fun w => w.pushAll j.live (j.addr + 4)) none ts))))

/-- NOP and YIELD complete and change nothing that a program sees but the position of their split; EXIT ends the live lanes of its split, which leaves the warp. (R117, R121) -/
def Obligations.NopYieldExit : Prop :=
  ∀ (sc : Scope) (s s' : State) (j : Job),
  (s.judge { cls := .laneWise, scope := sc } = .go s' j → Completes (.nop sc) s s' j j.w) ∧
  (s.judge { cls := .scalar, scope := sc } = .go s' j → Completes (.yield sc) s s' j j.w) ∧
  (s.judge (exitMeta sc) = .go s' j →
    exec (.exit sc) s = .next (((s'.exitSplit j.w j.slot j.live).partDone j.w sc).noteIssue j.w.uid))

/-- A word of major 0x3E with a kind of 0 to 4 is XIMM, XREG, XMOD, XSCHED or XPRED with its payload, unless a reserved bit of its kind is set, and one of a kind of 5 to 15 is no instruction; at LANE scope such a word adds its kind and payload to the pending hints of its split, which goes on at the next word, and nothing else that a program sees changes. That a hint word is a step of its own, which leaves a pending hint, is the model's reading (log 4). (R24, R36, R38, R39, R40, R41, R42, R53) -/
def Obligations.HintWords : Prop :=
  ∀ (payload : BitVec 20) (l : Word) (s : State) (w : Warp), s.warp? s.cur = some w →
  let word : BitVec 4 → Word := fun k => (0x3E : BitVec 6) ++ Scope.lane.bits ++ k ++ payload
  let pend : Nat → State := fun k => s.modWarp s.cur fun w =>
    { (w.modSplit s.fetch.slot fun x => { x with pc := s.fetch.next, start := s.fetch.start, hints := x.hints ++ [{ kind := k, payload := payload, addr := s.fetch.addr }] }) with inGroup := some s.fetch.slot }
  (∀ k : BitVec 4, 5 ≤ k.toNat → decodeWord (word k) l = none) ∧
  (decodeWord (word 0) l = some (.ximm .lane payload)) ∧ exec (.ximm .lane payload) s = .next (pend 0) ∧
  (decodeWord (word 1) l = if xregOk payload then some (.xreg .lane payload) else none) ∧ exec (.xreg .lane payload) s = .next (pend 1) ∧
  (decodeWord (word 2) l = if xmodOk payload then some (.xmod .lane payload) else none) ∧ exec (.xmod .lane payload) s = .next (pend 2) ∧
  (decodeWord (word 3) l = if xlowOk payload then some (.xsched .lane payload) else none) ∧ exec (.xsched .lane payload) s = .next (pend 3) ∧
  (decodeWord (word 4) l = if xlowOk payload then some (.xpred .lane payload) else none) ∧ exec (.xpred .lane payload) s = .next (pend 4) ∧
  (∀ k, (pend k).rest = s.rest ∧ ∀ u, (pend k).seen u = s.seen u)

/-- HSET replaces one doubleword of an h register by an s pair, HADV moves the tile origin of the record by y increments modulo 2^32 and keeps its other bytes, and MMIDX sets 32 entries of the index latch from v[a], all ones for an exited lane, and keeps the others. (R258, R263) -/
def Obligations.TileShapes : Prop :=
  ∀ (sc : Scope) (h : BitVec 4) (a : Reg) (b : Opb) (s s' : State) (j : Job),
  let x := j.w.hreg h
  (s.judge (hsetMeta sc h a b) = .go s' j →
    Completes (.hset sc h a b) s s' j (j.w.setH h
      ((x &&& ~~~((0xFFFFFFFFFFFFFFFF#64).zeroExtend 512 <<< (64 * b.num))) ||| ((j.w.sreg64 a.toNat).zeroExtend 512 <<< (64 * b.num))))) ∧
  (s.judge { shapeMeta sc h with b := b.num, opb := some b, bad := b.isV } = .go s' j → ∀ y, s'.uniform j .int b = .ok y →
    Completes (.hadv sc h b) s s' j (j.w.setH h (setShapeWord
      (setShapeWord x 20 (BitVec.ofNat 32 (shapeField x 20 4) + y * BitVec.ofNat 32 (shapeField x 28 4)))
      24 (BitVec.ofNat 32 (shapeField x 24 4) + y * BitVec.ofNat 32 (shapeField x 32 4))))) ∧
  (s.judge (mmidxMeta sc a b) = .go s' j → ∀ y, s'.uniform j .int b = .ok y → y.toNat ≤ 7 →
    Ends (.mmidx sc a b) (mmidxMeta sc a b) s j (s'.put j fun w =>
      { w with idxLatch := Vector.ofFn fun k =>
          if k.val / 32 = y.toNat then
            (if w.exited.getLsbD (k.val % 32) then 0xFFFFFFFF#32 else laneOf (w.row j.a) (k.val % 32))
          else w.idxLatch[k] }))

/-- With good records and operands, no conflict over its accumulators and room in its class, MMLOOP, ACCZ, ACCRD, ACCWR, ACCSCL, ACCDRN and ACCDRA each complete by queueing one job for the core's engine, claiming their accumulators unless they drain, and counting in their class; memory is as it was. That a gathered MMLOOP adds one operation to the loads class is the model's reading (log 107). (R252, R253, R254, R259, R263, R264) -/
def Obligations.EngineJobs : Prop :=
  (∀ (sc : Scope) (acc : BitVec 3) (span : BitVec 2) (hA hB : BitVec 4) (ks : Reg) (flags : BitVec 5) (s s' : State) (j : Job),
    s.judge (mmloopMeta s sc acc span hA hB flags) = .go s' j →
    let ha := j.w.hreg hA
    let hb := j.w.hreg hB
    let sp := spanOf span
    let gath := flags.getLsbD 0
    let gang := flags.getLsbD 3
    let l : Loop :=
      { zero := flags.getLsbD 4, acc := flags.getLsbD 2, gath := gath, smooth := flags.getLsbD 1,
        gr := if gang then j.block.bid / shapeGcols hb else 0, gc := if gang then j.block.bid % shapeGcols hb else 0,
        n := (j.w.sreg ks.toNat).toNat, t := 0, ha := ha, hb := hb, idx := j.w.idxLatch }
    let rA := if gath then [] else footprint ha (outerLines ha (l.gr * groupRows sp) (groupRows sp)) (stepStarts ha l.n) (stepSize ha)
    let rB := footprint hb (outerLines hb (l.gc * groupCols sp) (groupCols sp)) (stepStarts hb l.n) (stepSize hb)
    ∀ ps, shapeInvalid j.launch false (.opA gath) ha = false → shapeInvalid j.launch gang (.opB l.smooth) hb = false →
      shapeKdim ha = shapeKdim hb → stepSize ha = stepSize hb →
      s'.accConflict j.w.core acc.toNat sp (s'.holderOf j) = false → classFull j.w.tileops = false →
      scratchFail j.launch (loopScratch l ha rA false ++ loopScratch l hb rB true) = none →
      s'.checkRanges j.ctx .load (fun _ => false) ((if shapeSpace ha then [] else rA) ++ if shapeSpace hb then [] else rB) = .ok ps →
      let far := ps.any fun p => p.2.home != j.w.field
      (gath && classFull j.w.loads) = false →
      let t := s'.jobStarted j (s'.newJob j 3 acc span (if far then 2 else 1) (.loop l)) true fun w =>
        let w := w.addTile s'.nextUid
        if gath then w.addLoad { LoadOp.taken s'.nextUid with kind := .gather, done := false } else w
      Ends (.mmloop sc acc span hA hB ks flags) (mmloopMeta s sc acc span hA hB flags) s j t ∧ t.mem = s'.mem) ∧
  (∀ (sc : Scope) (d : Reg) (acc : BitVec 3) (span : BitVec 2) (b : Opb) (s s' : State) (j : Job),
    s'.accConflict j.w.core acc.toNat (spanOf span) (s'.holderOf j) = false →
    (s.judge (acczMeta sc acc span b) = .go s' j → classFull j.w.tileops = false →
      let t := s'.jobStarted j (s'.newJob j 3 acc span 0 .clear) true fun w => w.addTile s'.nextUid
      Ends (.accz sc acc span b) (acczMeta sc acc span b) s j t ∧ t.mem = s'.mem) ∧
    (s.judge (accrdMeta sc d acc span b) = .go s' j → ∀ y r c, s'.uniform j .int b = .ok y → accPosition span y = some (r, c) →
      classFull j.w.loads = false →
      let op : LoadOp := { LoadOp.taken s'.nextUid with kind := .acc, dest := j.d, nreg := 1, lanes := j.w.here, done := false }
      let t := s'.jobStarted j (s'.newJob j 0 acc span 0 (.read j.d j.w.here r c)) true fun w => w.addLoad op
      Ends (.accrd sc d acc span b) (accrdMeta sc d acc span b) s j t ∧ t.mem = s'.mem) ∧
    (s.judge (accwrMeta sc d acc span b) = .go s' j → ∀ y r c, s'.uniform j .int b = .ok y → accPosition span y = some (r, c) →
      classFull j.w.tileops = false →
      let t := s'.jobStarted j (s'.newJob j 3 acc span 0 (.write (j.w.row j.d) j.w.here r c)) true fun w => w.addTile s'.nextUid
      Ends (.accwr sc d acc span b) (accwrMeta sc d acc span b) s j t ∧ t.mem = s'.mem) ∧
    (s.judge (accsclMeta sc acc span b) = .go s' j → ∀ y, s'.uniform j .fp32 b = .ok y → classFull j.w.tileops = false →
      let t := s'.jobStarted j (s'.newJob j 3 acc span 0 (.scale y)) true fun w => w.addTile s'.nextUid
      Ends (.accscl sc acc span b) (accsclMeta sc acc span b) s j t ∧ t.mem = s'.mem)) ∧
  (∀ (sc : Scope) (h : BitVec 4) (acc : BitVec 3) (span : BitVec 2) (b : Opb) (s s' : State) (j : Job),
    s.judge (drainMeta s sc h acc span b) = .go s' j →
    let x := j.w.hreg h
    let gang := bitOf b.num 1
    let sp := spanOf span
    let gr := if gang then j.block.bid / shapeGcols x else 0
    let gc := if gang then j.block.bid % shapeGcols x else 0
    let rs := (outerLines x (gr * groupRows sp) (groupRows sp)).flatMap fun o =>
      if shapeOdim x ≤ o then [] else (kRuns x ((shapeTilek x + gc * groupCols sp) % 2 ^ 32) (groupCols sp)).map (runBytes x o)
    s'.accConflict j.w.core acc.toNat sp (s'.holderOf j) = false → classFull j.w.copies = false →
    scratchFail j.launch (if shapeSpace x then [(shapeAlloc x, rs)] else []) = none →
    let job : Bool → List (Nat × Place) → State := fun add ps => s'.jobStarted j
      (s'.newJob j 2 acc span (if add && ps.any fun p => p.2.home != j.w.field then 2 else 1) (.drain x add (bitOf b.num 0) gr gc)) false
      fun w => w.addCopy s'.nextUid
    (shapeInvalid j.launch gang (.drain false) x = false → ∀ ps,
      s'.checkRanges j.ctx .store (fun _ => false) (if shapeSpace x then [] else rs) = .ok ps →
      Ends (.accdrn sc h acc span b) (drainMeta s sc h acc span b) s j (job false ps) ∧ (job false ps).mem = s'.mem) ∧
    (shapeInvalid j.launch gang (.drain true) x = false → ∀ ps,
      s'.checkRanges j.ctx .red (fun p => atomRefused (if shapeFmt x = 0 then 13 else 12) p) (if shapeSpace x then [] else rs) = .ok ps →
      Ends (.accdra sc h acc span b) (drainMeta s sc h acc span b) s j (job true ps) ∧ (job true ps).mem = s'.mem))

/-- When no live lane fails its check or raises an enabled exception, QSM quantises the words of each live lane, lanes in ascending order, into a self-describing block at its destination in the scratchpad and writes its header to v[d]; QPACK packs four elements and QUNPK unpacks four, and nothing else changes. The inexact signal of QPACK is the model's reading (log 101). (R156, R157, R158) -/
def Obligations.BlockConversions : Prop :=
  ∀ (sc : Scope) (d a : Reg) (b : Opb) (s s' : State) (j : Job) (ys : Row),
  (s.judge (blockMeta sc d.toNat 1 a.toNat 2 b) = .go s' j →
    (j.live = 0 → Ends (.qsm sc d a b) (blockMeta sc d.toNat 1 a.toNat 2 b) s j s') ∧
    ∀ us, j.live ≠ 0 → classFull j.w.loads = false → s'.operand j .int b = .ok ys →
      let src : Nat → Word := fun i => laneOf (j.w.row j.a) i
      let dst : Nat → Word := fun i => laneOf (j.w.row (j.a + 1)) i
      firstFail (lanesOf j.live) (fun i => qsmCheck j.launch (laneOf ys i) (src i) (dst i) i) = .ok us →
      let run := (lanesOf j.live).foldl (fun (acc : Block × List (Nat × Word × Fx)) i =>
        let r := j.qsmLane acc.1 (laneOf ys i) (src i) (dst i)
        (r.1, acc.2 ++ [(i, r.2)])) (j.block, [])
      let res : Nat → Word × Fx := fun i => ((run.2.find? fun x => x.1 == i).map fun x => x.2).getD (0, 0)
      (∀ i ∈ lanesOf j.live, (res i).2 &&& j.ctx.fpxen = 0) →
      let t := ((s'.modBlock j.block.uid fun x => { x with scratch := run.1.scratch }).putRow j (rowOf fun i => (res i).1)).countTaken j
      Ends (.qsm sc d a b) (blockMeta sc d.toNat 1 a.toNat 2 b) s j t ∧ t.mem = s'.mem) ∧
  (s.judge (blockMeta sc d.toNat 1 a.toNat 4 b) = .go s' j → ∀ us, s'.operand j .int b = .ok ys → j.qpCheck true ys = .ok us →
    let r : Nat → Word × Fx := fun i => qpack j (laneOf ys i) ([0, 1, 2, 3].map fun k => laneOf (j.w.row (j.a + k)) i)
    (∀ i ∈ lanesOf j.live, (r i).2 &&& j.ctx.fpxen = 0) →
    Completes (.qpack sc d a b) s s' j (j.w.setRow j.live j.d (rowOf fun i => (r i).1))) ∧
  (s.judge (blockMeta sc d.toNat 4 a.toNat 1 b) = .go s' j → ∀ us, s'.operand j .int b = .ok ys → j.qpCheck false ys = .ok us →
    let r : Nat → Nat → Word × Fx := fun k i => qunpk j (laneOf ys i) (laneOf (j.w.row j.a) i) k
    (∀ i ∈ lanesOf j.live, ((r 0 i).2 ||| (r 1 i).2 ||| (r 2 i).2 ||| (r 3 i).2) &&& j.ctx.fpxen = 0) →
    Completes (.qunpk sc d a b) s s' j
      ([0, 1, 2, 3].foldl (fun w k => w.setRow j.live (j.d + k) (rowOf fun i => (r k i).1)) j.w))

/-- Once its release is met, QAPP on a good descriptor claims, writes and stamps the next slot if the queue has room and gives whether it had; TDEC decrements the counter that its selector names, TINC adds to it modulo 2^32 and TRD reads it; PHQ makes its block PASSIVE with its mask, destination and resumption and waits. That QAPP takes one step, and the order of its checks, are the model's reading (log 29, log 88). (R200, R201, R285, R286, R297, R298) -/
def Obligations.QueueWords : Prop :=
  ∀ (sc : Scope) (d a : Reg) (b : Opb) (s s' : State) (j : Job),
  (s.judge (qappMeta sc d a b) = .go s' j → ∀ u q v r,
    s'.appendDesc j.ctx (j.w.sreg64 b.num) = .ok (u, some q) → (q.kind == 1 && classFull j.w.copies) = false →
    (u.awaitRelease j.w.uid 2).2 = true →
    (u.awaitRelease j.w.uid 2).1.readDesc j.ctx .atom (j.w.sreg64 b.num) = .ok (v, some r) →
    let bytes := if r.kind = 2 then j.w.payload a.toNat r.slotBytes else withIssuer (issuerWord j.w) (j.w.payload a.toNat r.slotBytes)
    (r.room = false → Ends (.qapp sc d a b) (qappMeta sc d a b) s j (v.put j fun w => w.setPred j.live d.toNat 0)) ∧
    (r.room = true → ∀ t, v.appendSlot j.ctx r bytes = .ok t →
      Ends (.qapp sc d a b) (qappMeta sc d a b) s j
        ((t.countAppend j r bytes).put j fun w => w.setPred j.live d.toNat 0xFFFFFFFF#32))) ∧
  (∀ q n p, s'.taskOf j b = .ok (q, n) →
    (s.judge { taskMeta sc b with dep := releaseAt 2 } = .go s' j → s'.checkLane j.ctx .atom 4 (q.taskAddr n) 0 = .ok p →
      (s'.awaitRelease j.w.uid 2).2 = true →
      ∀ t, (s'.awaitRelease j.w.uid 2).1.taskDec j.w.field q.q n (j.w.sreg a.toNat).toNat = .ok t →
      Ends (.tdec sc a b) { taskMeta sc b with dep := releaseAt 2 } s j t) ∧
    (s.judge (taskMeta sc b) = .go s' j → s'.checkLane j.ctx .atom 4 (q.taskAddr n) 0 = .ok p →
      let r := s'.placeRead p 4
      Ends (.tinc sc a b) (taskMeta sc b) s j (r.1.placeNat p 4 (leNat r.2 + (j.w.sreg a.toNat).toNat))) ∧
    (s.judge (taskMeta sc b) = .go s' j → s'.checkLane j.ctx .load 4 (q.taskAddr n) 0 = .ok p →
      let r := s'.placeRead p 4
      Ends (.trd sc d b) (taskMeta sc b) s j (r.1.put j fun w => w.setS d.toNat (BitVec.ofNat 32 (leNat r.2))))) ∧
  (s.judge (phqMeta s sc a b) = .go s' j →
    exec (.phq sc d a b) s = .next (s'.conclude (phqMeta s sc a b) j (.block (s'.modBlock j.block.uid fun x =>
      { x with passive := true, phqMask := BitVec.ofNat 4 b.num, phqDst := d.toNat, phqNext := j.next }) .phase)))

/-- With good operands, VISLD loads the record of each live lane's sample, BARY and ATTRF the weights and the attribute of its triangle, each into v[d] and on; VISDEC decodes an identifier; ORDWAIT completes as an acquire at DEVICE scope when every word has its sequence number, and ORDDONE sends an add of 1 after a release at DEVICE scope. That these read memory when they issue, and where ORDWAIT reads, are the model's reading (log 59, log 60). (R344, R345, R346, R347, R348) -/
def Obligations.SurfaceWords : Prop :=
  ∀ (sc : Scope) (d a : Reg) (b : Opb),
  LaneLoadResult (.visld sc d a b) (visldMeta sc d a b) (fun _ => 4)
    (fun s j => sizeBad (j.w.sreg (b.num + 2)) = false ∧ (j.w.sreg (b.num + 3)).toNat < 2 ∧
      s.visPlaceBad j.ctx (j.w.sreg64 b.num) (visBytes (j.w.sreg (b.num + 2)) (samplesOf (j.w.sreg (b.num + 3)).toNat)) = false ∧
      ∀ i ∈ lanesOf j.live, let c := laneOf (j.w.row j.a) i
        c.extractLsb' 30 2 = 0 ∧ coordS c < samplesOf (j.w.sreg (b.num + 3)).toNat)
    (fun j => visldLane j (j.w.sreg64 b.num) (j.w.sreg (b.num + 2)) (samplesOf (j.w.sreg (b.num + 3)).toNat)) ∧
  (∀ s s' j, s.judge (visdecMeta sc d a) = .go s' j →
    let id : Nat → Dword := fun i => laneOf64 (j.w.row64 j.a) i
    let word : Nat → Nat → Word := fun k i =>
      match k with
      | 0 => BitVec.ofNat 32 ((id i).extractLsb' 44 20).toNat
      | 1 => BitVec.ofNat 32 ((id i).extractLsb' 12 32).toNat
      | 2 => BitVec.ofNat 32 ((id i).extractLsb' 0 12).toNat
      | _ => if id i = 0xFFFFFFFFFFFFFFFF#64 then 0 else 1
    Completes (.visdec sc d a) s s' j ([0, 1, 2, 3].foldl (fun w k => w.setRow j.live (j.d + k) (rowOf (word k))) j.w)) ∧
  LaneLoadResult (.bary sc d a b) (attrMeta sc d a b 4) (fun _ => 4)
    (fun _ j => j.w.sreg (b.num + 3) = 0 ∧ (j.w.sreg (b.num + 2)).toNat < 2 ∧ (j.w.sreg64 b.num).toNat % 64 = 0)
    (fun j => baryLane j (j.w.sreg64 b.num) (j.w.sreg (b.num + 2)).toNat) ∧
  (∀ s s' j, s.judge (attrMeta sc d a b (s.attrRegs b)) = .go s' j →
    let x := j.w.sreg (b.num + 2)
    j.w.sreg (b.num + 3) = 0 → attrVertex x ≠ 3 → x.extractLsb' 21 11 = 0 → (j.w.sreg64 b.num).toNat % 64 = 0 →
    (j.live = 0 → Ends (.attrf sc d a b) (attrMeta sc d a b (s.attrRegs b)) s j s') ∧
    ∀ w r, j.live ≠ 0 → classFull j.w.loads = false → (s'.settleAll j.w.uid 256).warp? j.w.uid = some w →
      w.loads.any LoadOp.pendingMem = false → w.acquiring w.seq = false →
      ({ s := s'.settleAll j.w.uid 256, faults := [] } : Reader).lanes (attrfLane j (j.w.sreg64 b.num) x) (lanesOf j.live) = .ok r →
      Ends (.attrf sc d a b) (attrMeta sc d a b (s.attrRegs b)) s j (r.1.finish j (attrCount x) r.2)) ∧
  (∀ s s' j, s.judge (ordwaitMeta sc a b) = .go s' j →
    (j.live = 0 → Ends (.ordwait sc a b) (ordwaitMeta sc a b) s j s') ∧
    ∀ ys ps, j.live ≠ 0 → s'.operand j .int b = .ok ys → firstFail (lanesOf j.live) (s'.atomCheck j .atom 0 false) = .ok ps →
      let q := s'.drainAll j.w.uid 40
      q.orderBusy j.w.uid (ps.map fun x => x.2.key) = false →
      let r := q.roundShadows (ps.flatMap fun x => (List.range 4).map (x.2.key + ·))
      orderFault r ps (laneOf ys) = none → (∀ x ∈ ps, r.orderWord x.2.key = laneOf ys x.1) →
      (r.awaitLoads j.w.uid).2 = true →
      Ends (.ordwait sc a b) (ordwaitMeta sc a b) s j ((r.awaitLoads j.w.uid).1.acquire j.w.core 2)) ∧
  (∀ s s' j, s.judge (orddoneMeta sc a) = .go s' j →
    let one : Nat → Place → AtomAcc := fun lane p => { lane := lane, key := p.key, y := 1, z := 0, win := p.win, handle := p.handle }
    let jr : Job := { j with xmod := 0x80#20 }
    (j.live = 0 → Ends (.orddone sc a) (orddoneMeta sc a) s j s') ∧
    ∀ ps, j.live ≠ 0 → firstFail (lanesOf j.live) (s'.atomCheck jr .atom 0 false) = .ok ps → classFull j.w.stores = false →
      let rs := jr.atomReqs s'.nextUid 0 false false one (((s'.field? j.w.field).map (·.epoch)).getD 0) ps
      s'.quadrantsFull rs = false →
      let sent : State := { s' with
        nextUid := s'.nextUid + 1 + rs.length
        areqs := s'.areqs ++ rs
        l1 := s'.l1.filter fun x => !(x.core == j.w.core && rs.any fun r => r.line == x.line) }
      let t := sent.put j fun w => w.addStore s'.nextUid
      Ends (.orddone sc a) (orddoneMeta sc a) s j t ∧ t.mem = s'.mem)

/-- With a good image descriptor, TEXS, TEXL and TEXG load what their rule reads for each live lane into v[d] to v[d+3], and TEXQ writes the width, the height and their reciprocals. That these read memory when they issue, and some corners of the filter, are the model's (log 58, log 59, log 94). (R349, R350, R351) -/
def Obligations.TextureWords : Prop :=
  ∀ (sc : Scope) (d a : Reg) (b : Opb),
  LaneLoadResult (.texs sc d a b) (texMeta sc d a b 2) (fun _ => 4) (fun _ j => imageBad (j.w.octet b.num) = false)
    (fun j => texsLane j (imageOf (j.w.octet b.num))) ∧
  LaneLoadResult (.texl sc d a b) (texMeta sc d a b 2) (fun _ => 4) (fun _ j => imageBad (j.w.octet b.num) = false)
    (fun j => texlLane j (imageOf (j.w.octet b.num))) ∧
  LaneLoadResult (.texg sc d a b) (texMeta sc d a b 2) (fun _ => 4) (fun _ j => imageBad (j.w.octet b.num) = false)
    (fun j => texgLane j (imageOf (j.w.octet b.num))) ∧
  (∀ s s' j, s.judge (texMeta sc d a b 0) = .go s' j → imageBad (j.w.octet b.num) = false →
    let m := imageOf (j.w.octet b.num)
    let vals := [BitVec.ofNat 32 m.width, BitVec.ofNat 32 m.height, rnRat (1 / (m.width : Rat)), rnRat (1 / (m.height : Rat))]
    Completes (.texq sc d a b) s s' j ([0, 1, 2, 3].foldl (fun w k => w.setRow j.live (j.d + k) (splat (vals.getD k 0))) j.w))

/-- With a good descriptor, no ray of a live lane running and room in the loads class, TRAV starts one ray in each live lane; TRAVRD, once none runs and none has a cause to deliver, writes the eight result words of each live lane and acquires at FIELD scope. (R354, R358, R361) -/
def Obligations.RayWords : Prop :=
  ∀ (sc : Scope) (d a : Reg) (b : Opb) (s s' : State) (j : Job),
  (s.judge (travMeta sc d a b) = .go s' j → rayDescBad (j.w.octet b.num) = false →
    (j.live = 0 → Ends (.trav sc d a b) (travMeta sc d a b) s j s') ∧
    (j.live ≠ 0 → j.w.raysRun j.live = false → classFull j.w.loads = false →
      let op : LoadOp := { LoadOp.taken s'.nextUid with kind := .ray, done := false }
      let t := { s' with nextUid := s'.nextUid + 1 }.put j fun w =>
        { w.addLoad op with rays := Vector.ofFn fun i =>
            if j.live.getLsbD i.val then some (j.newRay s'.nextUid (j.w.octet b.num) i.val) else w.rays[i] }
      Ends (.trav sc d a b) (travMeta sc d a b) s j t ∧ t.mem = s'.mem)) ∧
  (s.judge (travrdMeta sc d a b) = .go s' j → j.w.raysRun j.live = false →
    let word : Nat → Nat → Word := fun k i => (rayWords ((j.w.rays[i]?).getD none)).getD k 0
    Ends (.travrd sc d a b) (travrdMeta sc d a b) s j
      ((s'.put j fun w => (List.range 8).foldl (fun w k => w.setRow j.live (j.d + k) (rowOf (word k))) w).acquire j.w.core 1))

/-- REFORM, once its members are quiet, sorts their threads by the key of v[a] and then by LOGID and seats them 32 to a warp with the count in s[d]; REFILL starts a thread for each item it pops in an exited lane, as an acquire at DEVICE scope, and gives the number to each member; RSMPL in a population leaves its block waiting for the others with its operands; PSTAT reads a statistic of the population, or all ones. What REFILL counts is the model's reading (log 41). (R182, R364, R365, R370, R379) -/
def Obligations.ThreadMoves : Prop :=
  ∀ (sc : Scope) (d a : Reg) (b : Opb) (s s' : State) (j : Job),
  (s.judge (reformMeta sc a b) = .go s' j → (∀ w ∈ j.members, w.alloc = j.w.alloc) →
    let key : Warp → Nat → Nat := fun w i => (laneOf (w.row j.a) i).toNat * 2 ^ 32 + (laneOf w.logid i).toNat
    s'.reformFull j (threadsOf j.members key).length j.w.alloc = false →
    let r := s'.quiesceAll j.members
    r.2 = true → (∀ x, s'.block? j.block.uid = some x → (x.bankq.any fun q => (j.members.map (·.uid)).contains q.warp) = false) →
    let ms := j.members.filterMap fun w => r.1.warp? w.uid
    let sorted := (sortBy (fun (x : Nat × Thread) => x.1) (threadsOf ms key)).map fun (x : Nat × Thread) => x.2
    let done := (r.1.reseat j d.toNat sorted.length ms sorted).finish { cls := .engine, scope := sc } j
    exec (.reform sc d a b) s = .next (State.noteIssue (ms.foldl (fun s w => match s.warp? w.uid with
      | some x => if x.here = 0 then s.vacate x else s
      | none => s) done) j.w.uid)) ∧
  (s.judge (refillMeta s sc d b) = .go s' j →
    let q : Dword := (j.launch.itemq[b.num]?).getD 0
    ∀ u qd ps, s'.readDesc j.ctx .atom q = .ok (u, some qd) → s'.checkRing j.ctx qd = .ok ps →
      let m := s'.quiesceAll j.members
      m.2 = true →
      let spots := j.members.flatMap fun w => (lanesOf w.exited).map fun i => (w.uid, (if w.uid = j.w.uid then j.slot else w.onlySlot), i)
      let f := m.1.refillLanes j q spots
      Ends (.refill sc d a b) (refillMeta s sc d b) s j (j.members.foldl (fun s w => s.modWarp w.uid fun x =>
        x.setS a.toNat (BitVec.ofNat 32 (if f.2.any fun x => x.1 == w.uid then f.2.length else 0)))
        (if f.2.isEmpty then f.1 else f.1.acquire j.w.core 2))) ∧
  (s.judge (rsmplMeta sc a b) = .go s' j → j.launch.kind = 2 →
    ∀ y, s'.uniform j .int b = .ok y →
    exec (.rsmpl sc d a b) s = .next (s'.conclude (rsmplMeta sc a b) j (.block ((s'.modBlock j.block.uid fun x =>
      { x with rsmpl := some { start := j.start, next := j.next, d := d.toNat, a := j.a, b := b, target := y } }).modPop j.launch.uid fun p =>
        if p.state = .running then { p with state := .gathering } else p) .resample))) ∧
  (s.judge (pstatMeta sc a b) = .go s' j →
    Completes (.pstat sc d a b) s s' j (j.w.setS d.toNat
      (match s'.pop? j.launch.uid with
        | some p => s'.popStat p b.num
        | none => 0xFFFFFFFF#32)))

/-- SREAD of a register other than CYCLES writes it, a word or a pair as the register is wide, to s[d] or to v[d] in every live lane, and changes nothing else; SREAD of CYCLES lets some cycles pass first; SWRITE of MASK sets MASK from s[a], and in handler mode SWRITE of FPC sets FPC from an s pair. How many cycles pass is free (log 7). (R122, R123, R124) -/
def Obligations.SpecialRegisters : Prop :=
  (∀ (sc : Scope) (d : Reg) (toS : Bool) (num : BitVec 6) (s s' : State) (j : Job),
    s.judge (sreadMeta sc d toS num) = .go s' j →
    let n := num.toNat
    let wide := n = 17 ∨ n = 32 ∨ n = 49 ∨ n = 50
    let w : State → Warp := fun q =>
      if toS then (if wide then j.w.setS64 d.toNat (q.sregWarp j n) else j.w.setS d.toNat (loWord (q.sregWarp j n)))
      else if wide then j.w.setRow64 j.live j.d (Vector.ofFn fun i => q.sregLane j n i)
      else j.w.setRow j.live j.d (rowOf fun i => loWord (q.sregLane j n i))
    (n ≠ 32 → Completes (.sread sc d toS num) s s' j (w s')) ∧
    (n = 32 → ∃ t, exec (.sread sc d toS num) s = .next t ∧ OnlyWarp (s'.tick j.w.core) t j (w (s'.tick j.w.core)))) ∧
  (∀ (sc : Scope) (a : Reg) (num : BitVec 6) (s s' : State) (j : Job), s.judge (swriteMeta sc a num) = .go s' j →
    (num = 24 → Completes (.swrite sc a num) s s' j { j.w with mask := j.w.sreg a.toNat }) ∧
    (num = 50 → Completes (.swrite sc a num) s s' j { j.w with fpc := j.w.sreg64 a.toNat, fpcWritten := true }))

/-- GROW to no more registers than the warp has takes them at once and sets its predicate, and GROW to more waits for the core; FORK with a good record and room in the child table starts a child and sets its predicate; JOIN without children goes on at once; NPRE and NPREX enter and leave a region. That FORK reads its record, as a load of the warp, before its release is the model's reading (log 40). (R174, R175, R307, R308, R310, R312) -/
def Obligations.KernelWords : Prop :=
  ∀ (sc : Scope) (p : BitVec 3) (d a : Reg) (b : Opb) (s s' : State) (j : Job),
  let mg : Meta := { cls := .scalar, scope := sc, opb := some b, bad := b.isV }
  (s.judge mg = .go s' j → ∀ y, s'.uniform j .int b = .ok y → y.toNat % 16 = 0 → 16 ≤ y.toNat → y.toNat ≤ 128 →
    y.toNat ≤ j.launch.regsMax →
    (∀ q, y.toNat ≤ j.w.alloc → s'.settleTop j.w y.toNat = some q →
      Ends (.grow sc p b) mg s j (q.put j fun w => (w.setAlloc y.toNat).setPred j.live p.toNat 0xFFFFFFFF#32)) ∧
    (j.w.alloc < y.toNat → exec (.grow sc p b) s = .next (s'.conclude mg j
      (.block (s'.put j fun w => { w with growReq := some y.toNat }) (.grow p.toNat j.live j.scope j.next))))) ∧
  (s.judge (forkMeta sc d a b) = .go s' j →
    let addr := j.w.sreg64 a.toNat
    let q := s'.settleAll j.w.uid 256
    ∀ w x raw v bytes, q.warp? j.w.uid = some w → w.loads.any LoadOp.pendingMem = false → w.acquiring w.seq = false →
      ({ s := q, faults := [] } : Reader).units j addr 4 = .ok (x, raw) → x.faults = [] →
      x.s.judgeRecord j.ctx [0] addr raw = .ok (v, bytes, true) → j.block.children < 16 → j.launch.depth + 1 ≤ 8 →
      (v.awaitRelease j.w.uid 1).2 = true →
      let u := (v.awaitRelease j.w.uid 1).1
      (u.childCount j.w.field < 1024 →
        Ends (.fork sc d a b) (forkMeta sc d a b) s j (((u.addLaunch (j.childOf bytes addr)).modBlock j.block.uid
          fun x => { x with children := x.children + 1 }).put j fun w => w.setPred j.live d.toNat 0xFFFFFFFF#32)) ∧
      (1024 ≤ u.childCount j.w.field →
        Ends (.fork sc d a b) (forkMeta sc d a b) s j (u.put j fun w => w.setPred j.live d.toNat 0))) ∧
  (s.judge { cls := .gathered, scope := sc, dep := lostStoreDep } = .go s' j → j.block.children = 0 →
    Ends (.join sc) { cls := .gathered, scope := sc, dep := lostStoreDep } s j s') ∧
  (s.judge { cls := .scalar, scope := sc } = .go s' j →
    (j.w.region < 15 → Completes (.npre sc) s s' j { j.w with region := j.w.region + 1 }) ∧
    Completes (.nprex sc) s s' j { j.w with region := j.w.region - 1 })

/-- TRAP and BKPT report SOFTWARE_TRAP and BREAKPOINT with their code at their group; ERET in a handler, with a good resume address, returns by its mode or to the FPC that the handler wrote; HALT, in a handler, writes the host record with CAUSE, FADDR and FPC and kills its context. (R209, R212) -/
def Obligations.TrapWords : Prop :=
  ∀ (sc : Scope) (code : BitVec 6) (s s' : State) (j : Job),
  let rep : Nat → Report := fun c =>
    { u := j.w.uid, slot := j.slot, fpc := j.start, next := j.next, trap := { Trap.plain c with code2 := code.toNat },
      member := if sc = .lane then none else some sc, once := false, diverged := false, lost := none }
  (s.judge { cls := .scalar, scope := sc } = .go s' j →
    exec (.trap sc code) s = .next ((s'.noteIssue j.w.uid).report (rep 11)) ∧
    exec (.bkpt sc code) s = .next ((s'.noteIssue j.w.uid).report (rep 10))) ∧
  (s.judge (eretMeta sc code) = .go s' j →
    ∀ fr, j.w.frame = some fr →
      let how := if j.w.fpcWritten then .written else eretMode j.w code.toNat
      let addr := if how = .skip then fr.next else j.w.fpc
      s'.resumeCheck j.ctx addr = .ok () →
      exec (.eret sc code) s =
        .next (State.noteIssue (if fr.pop then s'.popEret j.w fr how (eretMode j.w code.toNat) else s'.eret j.w fr how) j.w.uid)) ∧
  (s.judge { cls := .laneOnly, scope := sc, privileged := true } = .go s' j →
    exec (.halt sc) s =
      .next (((s'.hostRecord j.w.field j.ctx.ctxid j.w.cause j.w.faddr j.w.fpc j.w.core j.w.slot).killCtx j.w.field
        j.ctx.ctxid).noteIssue j.w.uid))

/-- In a gang launch, with a partner block other than its own that has a warp left on the side, XCHG and XCHGK place an offer in every member, with its descriptor, first register, contributors and resumption, and wait for the other side. (R193, R194) -/
def Obligations.Exchanges : Prop :=
  ∀ (k : Bool) (sc : Scope) (d : Reg) (b : Opb) (s s' : State) (j : Job), s.judge (xchgMeta s k sc d b) = .go s' j →
  let y := j.w.sreg b.num
  let rank := (y.extractLsb' 0 4).toNat
  j.launch.gang = true → rank ≠ j.block.bid → rank < j.launch.griddim.toNat → s'.partnerSide j rank ≠ [] →
  exec (if k then .xchgk sc d b else .xchg sc d b) s = .next (s'.conclude (xchgMeta s k sc d b) j (.block
    (j.members.foldl (fun s w =>
      let offer : XchgOffer :=
        { keyed := k, setWide := decide (j.scope = .set), desc := y, reg := j.d, live := j.contrib w, start := j.start, next := j.next }
      s.modWarp w.uid fun x => { x with xchg := some offer }) s') .xchg))

/-- When they are enabled, SPLIT_MERGE merges its two splits, RENDEZVOUS_RELEASE releases the group, WAIT_END unblocks the split (JOIN acquires), GROW_GRANT gives the lowest pending request its registers and GROW_FAIL ends the last one without, HANDLER_ENTRY reports its cause at the group where the warp stands, and BANK_WRITE_APPLY applies one queued write to the scratchpad. When a handler is entered, and that a dormant warp does not count where a GROW fails, are the model's reading (log 17, log 31, log 57). (R135, R160, R166, R167, R169, R176, R177, R204, R310) -/
def Obligations.CoreEvents : Prop :=
  ∀ s : State,
  (∀ (w i j : Nat) (x : Warp), s.warp? w = some x → x.due = none → x.mergeable i j = true →
    exec (.splitMerge w i j) s = .next (s.modWarp w fun y => y.merge i j)) ∧
  (∀ (w : Nat) (x : Warp) (sc : Scope), s.warp? w = some x → x.mode = .normal ∨ x.mode = .handler → x.growReq = none → x.due = none →
    s.canRelease x = some sc → exec (.rendezvousRelease w) s = .next (s.release x sc)) ∧
  (∀ (w slot : Nat) (x : Warp) (z : Split) (c : WaitCond), s.warp? w = some x → x.split? slot = some z → z.blocked = some c →
    s.waitOver x c = true →
    exec (.waitEnd w slot) s = .next ((if c = .join then s.acquire x.core 2 else s).modWarp w fun y =>
      y.modSplit slot fun z => { z with blocked := none })) ∧
  (∀ (core : Nat) (w : Warp), s.grantable core = some w → exec (.growGrant core) s = .next (s.endGrow w true)) ∧
  (∀ (core : Nat) (w : Warp), s.grantable core = none →
    (∀ x ∈ s.coreWarps core, x.mode ≠ .dormant → x.uid ∈ s.growBlocked core 64) → (s.growOrder core).getLast? = some w →
    exec (.growFail core) s = .next (s.endGrow w false)) ∧
  (∀ (w : Nat) (x : Warp) (r : Report), s.warp? w = some x → x.due = some r → s.mayRun x = true →
    exec (.handlerEntry w r.trap.code r.trap.lane r.trap.faddr) s = .next (s.report r)) ∧
  (∀ (block k : Nat) (b : Block) (q : BankWrite), s.block? block = some b → b.bankq[k]? = some q →
    let t := s.modBlock block fun x => { x.bankApply q with bankq := x.bankq.eraseIdx k }
    exec (.bankWriteApply block k) s =
      .next (if (t.block? block).any fun x => x.bankq.any fun y => y.op == q.op then t else t.finishLoad q.warp q.op) ∧
    (q.add = none → b.bankApply q = { b with scratch := memCells b.scratch q.cells }))

/-- When they are enabled, LOAD_COMPLETE completes a load that no earlier pending one precedes and writes the registers of its lanes, STORE_DRAIN drains the oldest entry, STORE_APPLY applies a line access at its home, STORE_ACK ends a store or RED that left its field, where the acknowledgements before it have returned, PROXY_INVALIDATE and L1_EVICTION drop copies, SLICE_EVICTION takes a dirty line out of its slice or drops copies alone, ATOMIC_APPLY applies one request to its line, ATOMIC_RETURN writes its old values, and LOSS_NOTICE makes a home discard a lost store. When a load takes its bytes, which vault part takes a line, and that a write which no path can carry is lost when its turn comes are the model's (log 11, log 71, log 138). (R96, R103, R218, R225, R231, R232, R236, R243, R244, R403, R417) -/
def Obligations.MemoryEvents : Prop :=
  ∀ s : State,
  (∀ (w k : Nat) (x : Warp) (op : LoadOp), s.warp? w = some x → x.loads[k]? = some op → op.pendingMem = true →
    (x.loads.take k).any LoadOp.pendingMem = false → s.atomicAhead x op = false →
    (∀ a ∈ op.accs, s.frameLost (s.ctxidOf x) a.key = false ∧ ∀ b ∈ s.opBytes x op a, b.isSome = true) →
    ∃ t y, exec (.loadComplete w k) s = .next t ∧ t.warp? w = some y ∧ (∀ o ∈ y.loads, o.id = op.id → o.done = true) ∧
      (∀ r i, op.kind = .hreg ∨ r < op.dest ∨ op.dest + op.nreg ≤ r ∨ op.lanes.getLsbD i = false →
        laneOf (y.row r) i = laneOf (x.row r) i) ∧
      (s.shadows = [] → t.mem = s.mem ∧ ∀ (a : Access) (n : Nat), op.kind = .mem → n < op.nreg → op.dest + op.nreg ≤ 128 →
        a.lane < 32 → op.lanes.getLsbD a.lane = true → op.accs.find? (fun x => x.lane == a.lane) = some a → s.lineFault (a.lines op.size) = none →
        (∀ o ∈ op.accs, o.lane = a.lane → o = a) →
        laneOf (y.row (op.dest + n)) a.lane =
          loadWord op.size op.sext ((s.opBytes x op a).map fun b => (b.getD (0, false)).1) n)) ∧
  (∀ (w : Nat) (x : Warp) (e : SqEntry) (rest : List SqEntry), s.warp? w = some x → x.sq = e :: rest → s.mayDrain x e = true →
    let t := s.modWarp w fun x => { x with sq := rest }
    let u : State :=
      if e.flush = [] then e.groups.foldl (fun t g => t.launchFlight x (s.ctxidOf x) e g) t
      else { t with vaultDirty := t.vaultDirty.filter fun d => d.slice / 40 != x.field ||
        !(e.flush.any fun r => decide (r.1 / 128 ≤ d.line) && decide (d.line ≤ (r.1 + r.2 - 1) / 128)) }
    exec (.storeDrain w) s = .next (u.closeStore e.id).settleGone) ∧
  (∀ (id : Nat) (f : Flight), s.flight? id = some f → s.mayApply f = true → s.stranded f.leaving f.peer f.src f.dst = false →
    exec (.storeApply id) s = .next (s.applyFlight f).settleMoved) ∧
  (∀ (id : Nat) (f : Flight), s.flight? id = some f → s.mayAck f = true →
    exec (.storeAck id) s = .next (s.ackFlight f).settleMoved) ∧
  (∀ (id : Nat) (r : AtomReq), s.flight? id = none → s.areqs.find? (fun r => r.id == id) = some r → s.mayAckRed r = true →
    exec (.storeAck id) s = .next (s.ackRed r).settleMoved) ∧
  (∀ field line : Nat, exec (.proxyInvalidate field line) s = .next (s.invalProxy field line) ∧
    (s.invalProxy field line).proxy = s.proxy.filter (fun p => !(p.field == field && lineOf p.key == line && p.held.isNone)) ∧
    (s.invalProxy field line).sharersOf line = s.sharersOf line &&& ~~~(1#4 <<< field) ∧ (s.invalProxy field line).mem = s.mem) ∧
  (∀ (core line : Nat) (x : L1Line), s.l1Line? core line = some x →
    (∀ p ∈ s.pend, ¬(p.core = core ∧ lineOf p.key = line)) →
    exec (.l1Eviction core line false) s = .next { s with l1 := s.l1.filter fun y => !(y.core == core && y.line == line) }) ∧
  (∀ (line : Nat) (toVault : Bool) (d : DirtyLine), s.slices.find? (fun d => d.line == line) = some d → s.clocked (d.slice / 40) = true →
    ∃ t, exec (.sliceEviction line toVault) s = .next t ∧
      if s.someBit 9 then t.slices = s.slices ∧ t.vaultDirty = s.vaultDirty ∧ t.mem = s.mem
      else (∀ e ∈ t.slices, e.line ≠ line) ∧ ((∃ e ∈ t.vaultDirty, e.line = line) ↔ toVault = true ∧ s.cacheable d = true)) ∧
  (∀ (id : Nat) (r : AtomReq), s.areqs.find? (fun r => r.id == id) = some r → s.mayAtom r = true → r.peer = false →
    s.stranded r.leaving r.peer r.src r.dst = false → r.accs ≠ [] → (∀ a ∈ r.accs, a.win = none) → s.lineFault [r.line] = none → exec (.atomicApply id) s = .next (s.atomGood r).settleMoved) ∧
  (∀ (id : Nat) (r : AtomReq), s.areqs.find? (fun r => r.id == id) = some r → s.mayReturn r = true →
    let t := s.atomWrite r
    exec (.atomicReturn id) s = .next (State.atomEnd { t with areqs := t.areqs.filter fun q => q.id != id } r)) ∧
  (∀ (id : Nat) (f : Flight), s.flights.filter (fun f => f.id == id && f.lost) = [f] → s.areqs.filter (fun r => r.id == id && r.lost) = [] →
    exec (.lossNotice id) s = .next (State.breakItem { s with
      flights := s.flights.filter fun f => !(f.id == id && f.lost)
      areqs := s.areqs.filter fun r => !(r.id == id && r.lost) } f.op 2))

/-- When they are enabled, KSTEP_APPLY runs the next K-step of the loop in its turn, DRAIN_COMPLETE writes the drain in its turn, to the scratchpad by queued writes and to memory whole or line by line, and ends it once its writes are performed, RAY_COMPLETE ends a ray, MULTICAST_REQUEST takes a request to its slice, MULTICAST_TIMEOUT sends a session that gathers, LDMC_DELIVERY applies a beat, XCHG_PAIR swaps two agreeing sides, PHASE_SWEEP_PAIR ends every wait with 1, and PHQ_WAKE makes its node ACTIVE with 0. The steps in which these units act, that a drain's earlier elements stand where one faults, and how many operations its queued writes count as are the model's reading (log 10, log 32, log 35, log 44, log 61, log 125). (R194, R201, R202, R260, R264, R359, R406, R407, R408) -/
def Obligations.UnitEvents : Prop :=
  ∀ s : State,
  (∀ (core : Nat) (e : EngJob) (l : Loop) (t : State), s.nextLoop core = some (e, l) → s.stepOf e l = .ok t →
    let more : EngJob → EngJob := fun g => { g with kind := .loop { l with t := l.t + 1 }, stamp := s.fresh + 1 }
    let u := State.noteDone { t with engine := mapWhere (fun g => g.id == e.id) more t.engine } e.warp
    exec (.kstepApply core) s = .next (u.engineRun core (u.engine.length + 1))) ∧
  (∀ (core : Nat) (e : EngJob) (h : BitVec 512) (add free : Bool) (gr gc : Nat) (c : Context),
    s.nextDrain core = some e → e.kind = .drain h add free gr gc → s.ctx? e.field e.ctx = some c →
    (e.wrote = true → (∀ b, s.block? e.block = some b → ∀ q ∈ b.bankq, q.run ≠ e.id) → s.performed 2 e.id = true →
      exec (.drainComplete core) s = .next (s.drainEnd e free).settleGone) ∧
    (∀ (w : Warp) (l : Launch), e.wrote = false → shapeSpace h = true → s.warp? e.warp = some w → s.launch? e.launch = some l →
      let qs : List BankWrite := (groupElems e.span).filterMap fun p =>
        (drainOffset h e.span gr gc p.1 p.2).map fun o =>
          { alloc := shapeAlloc h, cells := l.drainCells h o (drainBits h (s.accGet e.core e.first e.span p.1 p.2)), warp := w.uid, op := s.nextUid,
            run := e.id, add := if add then some (shapeFmt h) else none }
      (qs = [] → exec (.drainComplete core) s = .next (s.drainEnd e free).settleGone) ∧
      (qs ≠ [] → w.loads.length < 255 →
        let t := ({ s with nextUid := s.nextUid + 1 } : State).modWarp w.uid fun w =>
          w.addLoad { LoadOp.taken s.nextUid with kind := .bankq, done := false }
        exec (.drainComplete core) s =
          .next ((t.modBlock e.block fun b => { b with bankq := b.bankq ++ qs }).drainWait e free).settleGone)) ∧
    (∀ (xs : List DrainElem) (fault : Option Nat), e.wrote = false → shapeSpace h = false →
      s.drainElems c e h add gr gc (groupElems e.span) = .ok (xs, fault) →
      let lines := dedupNat (xs.map fun x => lineOf x.place.key)
      let last : EngJob := { e with fault := e.fault.or fault }
      (lines = [] → exec (.drainComplete core) s = .next (s.drainWait last free).settleGone) ∧
      (lines.length = 1 → exec (.drainComplete core) s = .next ((s.drainWrite c e h add xs).drainWait last free).settleGone) ∧
      (∀ l, 1 < lines.length → lines[(s.someWord 1).toNat % lines.length]? = some l →
        exec (.drainComplete core) s = .next (State.settleGone (
          if s.someBit 2 then (s.drainWrite c e h add xs).drainWait last free
          else (s.drainWrite c e h add (xs.filter fun x => lineOf x.place.key == l)).modJob e.id fun g => { g with lines := l :: g.lines }))))) ∧
  (∀ (w lane status faddr visits : Nat) (x : Warp) (r : Ray) (c : Context) (best : Option Hit),
    s.warp? w = some x → (x.rays[lane]?).getD none = some r → s.ctxOf x = some c → r.done = false →
    s.unitReady w r.seq r.deps = true →
    rayEnd r.words r.desc (fun a n => s.rayRead c x.core r a n) (s.someWord lane).toNat = .ended status faddr best visits →
    let ray : Ray := { r with done := true, result := rayResult status visits best, fault := rayFault r.desc status faddr }
    let t := if status = 2 then s.unitMet c.field c.ctxid (BitVec.ofNat 64 faddr) else s
    exec (.rayComplete w lane) s =
      .next (((t.modWarp w fun y => { y with rays := y.rays.setIfInBounds lane (some ray) }).noteDone w).closeRays w)) ∧
  (∀ (id : Nat) (r : McReq), s.mcReq? id = some r → r.state = .sent → s.mcMayLeave r = true →
    exec (.multicastRequest id) s = .next (s.mcArrive r)) ∧
  (∀ (k : Nat) (m : McSession), s.mcSession? k = some m → m.sent = false → exec (.multicastTimeout k) s = .next (s.mcSend m)) ∧
  (∀ (id beat : Nat) (r : McReq) (a : Access), s.mcReq? id = some r → s.mcServing r a = true →
    r.beats.find? (fun b => b.1 == beat) = some (beat, a) → exec (.ldmcDelivery id beat) s = .next (s.mcDeliver r beat a)) ∧
  (∀ (w : Nat) (x p : Warp) (a b : Warp × XchgOffer) (ba : Block) (ps : List Warp),
    s.warp? w = some x → s.xchgIssuer x = some a → s.block? a.1.block = some ba → s.xchgPartners a.1 a.2 ba = p :: ps →
    s.xchgIssuer p = some b → xchgPartner b.2.desc = ba.bid → a.2.agrees b.2 = true →
    exec (.xchgPair w) s = .next (s.xchgSwap a b)) ∧
  (∀ launch : Nat, s.phaseOver launch = true →
    let t := ((s.blocks.filter fun b => b.launch == launch).filter fun b => b.passive).foldl (fun s b => s.phqEnd b 1 true) s
    exec (.phaseSweepPair launch) s =
      .next { t with blocks := mapWhere (fun b => b.launch == launch) (fun (b : Block) => { b with sent := 0, recv := 0 }) t.blocks }) ∧
  (∀ (block : Nat) (b : Block), s.block? block = some b → b.passive = true → (s.phqItem b).2 = true →
    exec (.phqWake block) s = .next ((s.phqItem b).1.phqEnd b 0 false))

/-- When they are enabled, QUEUE_ATTACH attaches a valid queue with status 0, QUEUE_DETACH closes it, QUEUE_CLOSED detaches it, QUEUE_CONSUME takes a launch packet into a SUBMITTED launch, TASK_APPEND_RETRY appends a waiting packet, COPY_START starts a packet and frees its slot, COPY_COMPLETE writes the next 4 KiB of a copy to memory, or queues them for the scratchpad, and ends a copy whose writes are done, REDUCE_SESSION_CLOSE writes a full session, and RASTER_PACKET resolves a packet. The steps of a copy, and how many operations its queued writes count as, are the model's reading (log 45, log 125). (R135, R275, R282, R283, R288, R289, R290, R291, R294, R298, R342) -/
def Obligations.QueueEvents : Prop :=
  ∀ s : State,
  (∀ (field q ctx : Nat) (desc : Dword) (c : Context) (t : State) (d : QDesc), q < 64 → s.hostReach field = true →
    s.queue? field q = none → s.ctx? field ctx = some c → s.readDesc c .load desc = .ok (t, some d) → d.kind < 2 →
    let x : Queue := { field := field, q := q, state := .attached, ctx := ctx, desc := desc, kind := d.kind, taskTab := d.tasks }
    exec (.queueAttach field q ctx desc) s =
      .next ((State.queueWords { t with queues := t.queues ++ [x] } field q ctx desc true).queueStatus field q 0)) ∧
  (∀ (field q : Nat) (x : Queue), s.queue? field q = some x → x.state = .attached → s.hostReach field = true →
    exec (.queueDetach field q) s =
      .next ((s.setReg field (queueReg q 3) (s.reg field (queueReg q 3) &&& 0xFFFFFFFE#32)).modQueue field q fun y =>
        { y with state := .closing })) ∧
  (∀ (field q : Nat) (x : Queue), s.queue? field q = some x → x.state = .closing → s.queueBusy field q = false →
    exec (.queueClosed field q) s = .next (s.detach field q)) ∧
  (∀ (field q : Nat) (x : Queue) (h : Head) (b : List Byte), (s.head field q).2 = some (x, h) → x.kind = 0 → h.bytes = some b →
    pkHeadBad b = false →
    (pkKind b = 0 → pkRestBad b [] = false → pkOrder b = false → (h.s.unitDec x.field x.q (pkTask b)).2 = true →
      exec (.queueConsume field q) s = .next ((h.s.unitDec x.field x.q (pkTask b)).1.freeSlot h.d)) ∧
    (pkKind b = 1 → pkRestBad b [2, 3] = false → exec (.queueConsume field q) s = .next (h.launch x b)) ∧
    (pkKind b = 2 → pkRestBad b [2, 3] = false → exec (.queueConsume field q) s = .next (h.graph x b))) ∧
  (∀ (k : Nat) (r : TaskRetry) (x : Queue) (c : Context), s.taskRetry[k]? = some r → s.queue? r.field r.q = some x →
    s.ctx? x.field x.ctx = some c →
    let u : State := { s with taskRetry := s.taskRetry.eraseIdx k }
    (∀ (b : List Byte) (t v : State) (d : QDesc), r.work = .append b → u.readDesc c .atom x.desc = .ok (t, some d) → d.room = true →
      t.appendSlot c d b = .ok v → exec (.taskAppendRetry k) s = .next v) ∧
    (∀ (a : Dword) (v : State × List Byte), r.work = .fetch a → u.getVirt c a 64 = .ok v →
      exec (.taskAppendRetry k) s = .next (v.1.appendTask c r.field r.q (withIssuer 0 v.2)))) ∧
  (∀ (field q : Nat) (x : Queue) (h : Head) (b : List Byte) (t : State) (r : CopyRun), (s.head field q).2 = some (x, h) →
    h.bytes = some b → x.kind = 1 → s.engineFree field h.d.engine = true → s.copyTurn field h.d.engine = some q →
    let who := h.s.copyIssuer field x.ctx h.d.key h.d.rd (pkWord b 1)
    Started.cleared h.c ((State.copyServed { h.s with nextUid := h.s.nextUid + 1 } field h.d.engine q).startRun h.c
      { id := h.s.nextUid, field := field, engine := h.d.engine, ctx := x.ctx, queue := some q, order := h.d.rd, inst := none,
        packet := b, desc := [], tq := h.d.tq, task := pkTask b, warp := who.map fun w => w.1, op := (who.map fun w => w.2.1).getD 0,
        block := (who.map fun w => w.2.2).getD 0, claimed := none, session := none, pos := 0, before := [], done := false,
        fault := none }) = .run t r →
    exec (.copyStart field q) s = .next (Started.run (t.freeSlot h.d) r).state) ∧
  (∀ (id : Nat) (r : CopyRun) (c : Context), s.copies.find? (fun r => r.id == id) = some r → s.ctx? r.field r.ctx = some c →
    c.copying = true → r.session = none →
    (s.copyDone r = true → exec (.copyComplete id) s = .next (s.copyOver r)) ∧
    (r.fault = none → r.done = false → pkKind r.packet ≠ 6 →
      let u := s.roundShadows (s.copyKeys c r.chunk)
      (dstSpace r.packet = 0 → ∀ t before, u.copyMem c r.id (u.copyMoves c (copyElems r.packet r.desc)) r.before 0 r.chunk = .ok t before →
        exec (.copyComplete id) s = .next (t.copyNext { r with before := before } r.chunk.length)) ∧
      (dstSpace r.packet ≠ 0 → ∀ w b l ws, r.warp.bind s.warp? = some w → s.block? r.block = some b → s.launch? b.launch = some l →
        b.state = .resident → classFull w.loads = false → u.copyScratch c (r.target b l).2.1 r.chunk = .ok ws →
        let qs : List BankWrite := ws.map fun x =>
          { alloc := (r.target b l).1, cells := l.scratchCells (r.target b l).1 x.1 x.2, warp := w.uid, op := u.nextUid, run := r.id }
        let t := State.modWarp { u with nextUid := u.nextUid + 1 } w.uid fun x =>
          x.addLoad { LoadOp.taken u.nextUid with kind := .bankq, done := false }
        exec (.copyComplete id) s = .next ((t.modBlock b.uid fun x =>
          { x with bankq := qs.foldl (queueOver r.id) x.bankq }).copyNext r r.chunk.length)))) ∧
  (∀ (field k : Nat) (x : Session) (c : Context), s.sessions.find? (fun x => x.field == field && x.index == k) = some x →
    s.ctx? x.field x.ctx = some c → x.runs.length = x.expect → c.copying = true →
    exec (.reduceSessionClose field k) s = .next (s.closeSession c x)) ∧
  (∀ (id : Nat) (r : CopyRun) (c : Context), s.copies.find? (fun r => r.id == id) = some r → s.ctx? r.field r.ctx = some c →
    c.copying = true → pkKind r.packet = 6 → r.done = false → exec (.rasterPacket id) s = .next (s.raster c r))

/-- When they are enabled, LAUNCH_ACCEPT accepts a launch as its record stands, BLOCK_DISPATCH places the next block on the emptiest core, GANG_DISPATCH places every block, BLOCK_RETIRE retires a block and charges its queue, LAUNCH_COMPLETE ends a launch from a queue, in one step for its TASK and one for its DONE, or a child, JOIN_RESUME packs a swapped block, RESAMPLE kills, clones and places, PLACEMENT_LIST_ACCEPT places by the host's list, and WATCHDOG notes the step after progress and kills the context of a block that has made none. The reservation of a gang, the two events of the watchdog and what its record holds are the model's reading (log 43, log 68, log 121), and the cycles that the other blocks of a population are charged are free (log 118). (R300, R301, R303, R304, R305, R306, R310, R311, R313, R372, R377) -/
def Obligations.LaunchEvents : Prop :=
  ∀ s : State,
  (∀ (launch : Nat) (l : Launch) (c : Context) (t : State) (b : List Byte), s.launch? launch = some l → s.ctx? l.field l.ctx = some c →
    l.state = .submitted → s.readLaunch c [0, 1, 2] l.record = .ok (t, b, true) →
    exec (.launchAccept launch) s = .next (t.accept c l b)) ∧
  (∀ (launch q core : Nat) (l n : Launch) (c : Context), s.launch? launch = some l → s.queueOf l = some q →
    s.queueWait l.field q = none → s.hasTurn l.field q = some c → s.nextLaunch l.field q = some n → n.uid = l.uid → l.whole = false →
    (s.queueJoins l.field q).any (fun (x : Block × Launch) => x.2.uid == l.uid) = false → s.emptiest (openCores l (s.takes l)) = some core →
    exec (.blockDispatch launch) s = .next (s.choose l.field c.coremask q fun t => t.dispatchTo l core)) ∧
  (∀ (launch q : Nat) (l n : Launch) (c : Context) (cores : List Nat), s.launch? launch = some l → s.queueOf l = some q →
    s.queueWait l.field q = none → s.hasTurn l.field q = some c → s.nextLaunch l.field q = some n → s.gangCores l = some cores →
    n.uid = l.uid → l.whole = true →
    exec (.gangDispatch launch) s = .next (s.choose l.field c.coremask q fun t => State.populate
      ((cores.zipIdx.foldl (fun s (x : Nat × Nat) => s.placeBlock l x.2 x.1) (t.beginDispatch l.uid)).modLaunch
        l.uid fun x => { x with next := l.griddim.toNat, state := .running }) l)) ∧
  (∀ (block cycles q : Nat) (b : Block) (l : Launch), s.block? block = some b → s.launch? b.launch = some l →
    (s.queueOf l).bind (s.queueWait l.field) = none →
    (l.kind ≠ 2 → s.mayRetire b = true →
      let t := (s.modBlock block fun x => { x with state := .retired }).modLaunch l.uid fun x => { x with retired := x.retired + 1 }
      t.queueOf l = some q →
      exec (.blockRetire block cycles) s = .next ((t.chargeQueue l.field q (cycles / 64)).freeAccums.restCtx l.field l.ctx)) ∧
    (l.kind = 2 → (s.launchBlocks l.uid).all s.mayRetire = true → exec (.blockRetire block cycles) s =
      .next (((s.launchBlocks l.uid).foldl (fun t x => t.retireBlock l x (if x.uid = block then cycles else (s.someWord x.bid).toNat))
        s).freeAccums.restCtx l.field l.ctx))) ∧
  (∀ (launch : Nat) (l : Launch) (c : Context), s.launch? launch = some l → s.ctx? l.field l.ctx = some c → s.mayComplete l = true →
    (∀ q t, l.origin = .queue q → s.unitDec l.field q l.task = (t, true) →
      (l.done = 0 → exec (.launchComplete launch) s = .next (t.forget l)) ∧
      (l.done ≠ 0 → exec (.launchComplete launch) s = .next (t.modLaunch l.uid fun x => { x with state := .complete }))) ∧
    (∀ b, l.origin = .fork b →
      let own := (s.blocks.filter fun x => x.launch == l.uid).map (·.uid)
      let last := ((s.warps.filter fun w => own.contains w.block).map (·.issuedAt)).foldl max 0
      let t := (s.forget l).modBlock b fun x => { x with children := x.children - 1, watch := x.watch.map (max last) }
      (t.block? b = none → exec (.launchComplete launch) s = .next t) ∧
      ∀ x, t.block? b = some x → exec (.launchComplete launch) s =
        .next (t.modLaunch x.launch fun y => { y with writers := y.writers ++ l.writers }))) ∧
  (∀ (launch : Nat) (l : Launch) (c : Context) (v : State), s.launch? launch = some l → s.ctx? l.field l.ctx = some c →
    l.state = .complete → s.writesDone l.writers 3 = true → (s.forget l).putVirt c true l.done (leBytes 4 1) = .ok v →
    exec (.launchComplete launch) s = .next v) ∧
  (∀ (block q core : Nat) (b : Block) (l : Launch) (c : Context), s.block? block = some b → s.launch? b.launch = some l →
    s.queueOf l = some q → b.state = .swapped → b.children = 0 → s.movable b = true → s.imageHere l b = true →
    s.queueWait l.field q = none → s.hasTurn l.field q = some c → s.emptiest (s.joinCores b l) = some core →
    exec (.joinResume block) s = .next (s.choose l.field c.coremask q fun t => (t.packBlock b core).acquire core 2)) ∧
  (∀ (launch : Nat) (p : Population) (l : Launch) (c : Context) (r : Rsmpl) (rs : List Rsmpl), s.pop? launch = some p →
    s.launch? launch = some l → p.state = .gathering → (s.countedBlocks launch).filterMap Block.rsmpl = r :: rs →
    (∀ b ∈ s.countedBlocks launch, b.rsmpl.isSome = true ∧ (b.state = .swapped → b.children = 0) ∧
      ∀ w ∈ s.warps, w.block = b.uid → w.mode ≠ .dormant → w.asyncs.any (releaseDep 1) = false) →
    (∀ w ∈ s.launchWarps launch, w.mode ≠ .handler ∧ w.mode ≠ .held ∧ w.due = none) →
    let ms := membersOf ((s.launchWarps launch).filter fun w => (s.countedBlocks launch).any fun b => b.uid == w.block)
    let t := (s.launchWarps launch).foldl (fun s w => s.quiesce w.uid) s
    t.popQuiet (s.launchWarps launch) = true → t.popCheck p ms (r :: rs) = none → t.ctx? l.field l.ctx = some c →
    exec (.resample launch) s = .next (t.resampleNow p l c ms r)) ∧
  (∀ (launch op : Nat) (p : Population) (r : Rsmpl) (rs : List Rsmpl) (l : Launch) (c : Context) (ls : List (Nat × Nat))
    (x : State × List Byte) (ps : List Place) (v : State),
    s.pop? launch = some p → (s.countedBlocks launch).filterMap Block.rsmpl = r :: rs → s.launch? launch = some l →
    s.ctx? l.field l.ctx = some c → p.state = .placing → p.post = some (op, true) →
    (∀ b ∈ s.countedBlocks launch, b.state = .resident) → s.getVirt c p.plist 4 = .ok x → leNat x.2 = 2 →
    x.1.checkRuns c .load ((List.range p.pending.length).map fun k => (p.plist + BitVec.ofNat 64 (68 + 8 * k), 4)) = .ok ps →
    let y := x.1.unitLoad (ps.map (·.key))
    y.1.targetLanes p.launch ((List.range p.pending.length).map fun k => leNat ((y.2.drop (4 * k)).take 4)) = some ls →
    y.1.putVirt c true p.plist (leBytes 4 3) = .ok v →
    exec (.placementListAccept launch) s = .next (((p.pending.zip ls).foldl (fun (s : State) (x : Clone × Nat × Nat) =>
      s.putClone x.2.1 x.2.2 x.1) v).finishResample p r)) ∧
  (∀ (block : Nat) (b : Block) (l : Launch) (c : Context), s.block? block = some b → s.launch? b.launch = some l →
    s.ctx? l.field l.ctx = some c → s.counts l b = true → c.wdoglim ≠ 0 →
    ((∀ t, b.watch = some t → s.progressed b t = true) →
      exec (.watchdog block) s = .next (s.modBlock block fun x => { x with watch := some s.fresh })) ∧
    (∀ t, b.watch = some t → s.progressed b t = false →
      let slot := (minNat? ((s.warps.filter fun w => w.block == b.uid && w.mode != .ended).map (·.slot))).getD 0
      exec (.watchdog block) s = .next ((s.hostRecord l.field l.ctx (Trap.plain 62).word 0 0 b.core slot).killCtx l.field l.ctx)))

/-- When they are enabled, GRAPH_VALIDATE runs a graph that passes every check, NODE_ISSUE issues the node at the cursor, PREDICATE_EVAL moves the cursor as its word says, INSTANCE_START starts a PASS, a COPY, a WAITCTR or a SIGNAL, WAITCTR_COMPLETE ends an instance and GRAPH_COMPLETE a graph, in one step for its TASK and one for its STATUS, TILE_RELEASE and RELQ_TAKE release a tile, TILE_RETIRE retires one, RING_EXHAUSTED abandons a stalled graph, and FOOTPRINT_PREFETCH changes nothing. The order of the checks and the host's rings are the model's reading (log 48, log 50). (R317, R322, R323, R325, R327, R330, R332, R334, R335, R337, R338) -/
def Obligations.GraphEvents : Prop :=
  ∀ s : State,
  (∀ (graph : Nat) (g g' : Graph) (c : Context) (hs : State × List (List Byte)) (t : State), s.graph? graph = some g →
    s.ctx? g.field g.ctx = some c → s.mayValidate g = true → addrBad g.addr 64 = false → s.readChunks c 64 g.addr 1 = .ok hs →
    headerBad c (hs.2.getD 0 []) = false → hs.1.readGraph c { g with header := hs.2.getD 0 [] } = .ok (t, g') →
    t.graphWait c g' = none → t.verdict c g' = none →
    exec (.graphValidate graph) s =
      .next { t with graphs := mapWhere (fun x => x.uid == g'.uid) (fun _ => { g' with state := .running }) t.graphs }) ∧
  (∀ (graph : Nat) (g : Graph) (c : Context), s.goingGraph graph = some (g, c) →
    (g.cursor < g.nodes.length → g.atBranch = false → exec (.nodeIssue graph) s = .next (s.modGraph graph Graph.issue)) ∧
    (g.cursor < g.nodes.length → g.atBranch = true → g.allDone = true →
      let a := recAddr (g.node g.cursor) 16
      (a = 0 → exec (.predicateEval graph) s = .next (s.modGraph graph fun x => x.branch true)) ∧
      ∀ r, a ≠ 0 → s.getVirt c a 4 = .ok r →
        exec (.predicateEval graph) s = .next (r.1.modGraph graph fun x => x.branch (leNat r.2 != 0))) ∧
    (∀ (k : Nat) (i : Inst), g.inst? k = some i → g.mayStart i = true →
      let kind := ndKind (g.node i.node)
      (kind = 0 → exec (.instanceStart graph k) s = .next (s.startPass c g i)) ∧
      (kind = 1 → exec (.instanceStart graph k) s = .next (s.startCopyNode c g i)) ∧
      (kind = 4 → exec (.instanceStart graph k) s =
        .next (s.modGraph graph fun x => x.modInst k fun y => { y with state := .started })) ∧
      (kind = 5 → exec (.instanceStart graph k) s = .next (s.startSignal c g i))) ∧
    (∀ (k : Nat) (i : Inst) (w : WinSlot), g.inst? k = some i → i.state = .started → ndKind (g.node i.node) = 4 →
      c.win? (recNat (g.node i.node) 12 1) = some w →
      let b := g.node i.node
      (if recNat b 13 1 = 1 then w.dstOvf else w.srcOvf) = false →
      recNat b 16 4 + recNat b 20 4 * i.turn ≤ (if recNat b 13 1 = 1 then w.dst else w.src).toNat →
      exec (.waitctrComplete graph k) s = .next (s.instDone graph k 0)) ∧
    (∀ t : State, g.nodes.length ≤ g.cursor → g.allDone = true →
      s.writesDone g.writers 2 = true → s.unitDec g.field g.queue g.task = (t, true) →
      (g.statusAddr = 0 → exec (.graphComplete graph) s = .next { t with graphs := t.graphs.filter fun x => x.uid != g.uid }) ∧
      (g.statusAddr ≠ 0 → exec (.graphComplete graph) s = .next (t.modGraph g.uid fun x => { x with state := .complete }))) ∧
    (∀ (k tile core : Nat) (i : Inst) (y : Tile) (l : Launch) (c' : Context), c.hwRelease = true →
      s.queueWait g.field g.queue = none → s.hasTurn g.field g.queue = some c' →
      (s.openTiles g.field g.queue s.takes).head? = some (g, i, y) → i.index = k → y.index = tile →
      let table := (binds (g.node i.node)).any fun x => !bdWrite x && rsSaggar (g.res (bdRes x))
      s.launch? i.launch = some l →
      s.emptiest (openCores l fun n => s.takes l n && (!table || s.vaultOnline g.field (n % 40))) = some core →
      exec (.tileRelease graph k tile) s = .next (s.releaseTo c' g i tile core)) ∧
    (∀ (w : State × Nat) (i : Inst) (t : Tile), c.hwRelease = false → s.relqWord c g = .ok w → bitOf w.2 31 = true →
      g.named w.2 = some (i, t) →
      let u := w.1.release1 g i.index t.index
      (u.blocks.length = w.1.blocks.length → exec (.relqTake graph) s = .next u) ∧
      ∀ v, u.blocks.length ≠ w.1.blocks.length → u.relqNext c g = .ok v → exec (.relqTake graph) s = .next v) ∧
    (∀ r : Nat, c.hwRelease = true → g.stalled = true → g.starved = some r → exec (.ringExhausted graph) s =
      .next ((s.kilnRecord c.field c.ctxid 58 (g.ressAddr + BitVec.ofNat 64 (32 * r))).abandonGraph g))) ∧
  (∀ (graph : Nat) (g : Graph) (c : Context) (v : State), s.graph? graph = some g → s.ctx? g.field g.ctx = some c → c.going = true →
    g.state = .complete → s.writesDone g.writers 3 = true →
    State.putVirt { s with graphs := s.graphs.filter fun x => x.uid != g.uid } c true g.statusAddr
      (leBytes 4 (g.status ||| 0x80000000#32).toNat) = .ok v →
    exec (.graphComplete graph) s = .next v) ∧
  (∀ (graph k tile : Nat) (g : Graph) (i : Inst) (c : Context) (y : Tile) (b : Block), s.graph? graph = some g → g.inst? k = some i →
    s.ctx? g.field g.ctx = some c → i.tile? tile = some y → y.state = .running → s.block? y.block = some b →
    s.mayRetireTile b = true → c.hwRelease = true →
    let t := s.modGraph graph fun x => x.retire i tile
    exec (.tileRetire graph k tile) s = .next ((t.dropTile graph b i.launch
      (((t.graph? graph).bind fun x => x.inst? k).any fun x => x.state == .complete)).restCtx g.field g.ctx)) ∧
  (∀ graph k tile : Nat, exec (.footprintPrefetch graph k tile) s = .next s)

/-- CREATE with a good record adds an IDLE context, DESTROY and KILL end one, PREEMPT starts draining, STEP and UNSTEP set and clear a step flag, each with status 0; CONTEXT_SCHEDULE makes a context RUNNING, PREEMPTION_START starts draining, DRAIN_LIMIT_EXPIRY starts the save while a block is resident, REGION_LIMIT_EXPIRY cuts the warps inside a region, and FORCED_SAVE saves every block once nothing is outstanding, the vaults of their images are online and the frames of their images are the context's. The steps of a forced save and of an end are the model's reading (log 65, log 66, log 67, log 68). (R213, R266, R267, R268, R269, R270, R274, R275) -/
def Obligations.ContextEvents : Prop :=
  ∀ s : State,
  (∀ (field ctx : Nat) (addr : Dword) (f : Field), s.hostReach field = true →
    let u := s.slotWords field 0x1000 1 [BitVec.ofNat 32 ctx, loWord addr, hiWord addr]
    let r := u.engineRead ((List.range 128).map fun i => physKey 0 field (addr.toNat + i))
    u.field? field = some f → addr.toNat % 64 = 0 → addr.toNat + 128 ≤ f.membytes → r.1.ctxBad field ctx r.2 = false →
    (r.1.contexts.filter fun y => y.field == field).length < 64 → exec (.create field ctx addr) s =
      .next (State.commandStatus { r.1 with contexts := r.1.contexts ++ [contextOf field r.2] } field 0)) ∧
  (∀ (field ctx : Nat) (c : Context), s.hostReach field = true →
    (let u := s.slotWords field 0x1000 2 [BitVec.ofNat 32 ctx]
     u.ctx? field ctx = some c → c.state = .idle ∨ c.state = .saved ∨ c.state = .killed →
     let t := ((u.emptyCtx field ctx).revokeAll field ctx).modCtx field ctx fun y =>
       { y with state := if y.state = .killed then .killed else .idle }
     exec (.destroy field ctx) s = .next (State.settleDestroys
       { t with destroying := t.destroying.filter (fun y => y != (field, ctx)) ++ [(field, ctx)] })) ∧
    (let u := s.slotWords field 0x1000 3 [BitVec.ofNat 32 ctx]
     u.ctx? field ctx = some c → c.preemptible = true →
     exec (.preempt field ctx) s = .next ((u.startDrain c false).commandStatus field 0)) ∧
    (let u := s.slotWords field 0x1000 4 [BitVec.ofNat 32 ctx]
     u.ctx? field ctx = some c →
     exec (.kill field ctx) s = .next (((u.kilnRecord field ctx 61 0).killCtx field ctx).commandStatus field 0))) ∧
  (∀ (field ctx core slot : Nat) (w : Warp), s.hostReach field = true →
    let u : Nat → State := fun n =>
      s.slotWords field 0x1000 n [BitVec.ofNat 32 ctx, BitVec.ofNat 32 core, BitVec.ofNat 32 slot]
    ((u 5).slotHolder field ctx core slot = some w → exec (.stepFlag field ctx core slot) s =
      .next (((u 5).modWarp w.uid fun x => { x with stepFlag := true }).commandStatus field 0)) ∧
    ((u 6).slotHolder field ctx core slot = some w → exec (.unstepFlag field ctx core slot) s =
      .next (((u 6).modWarp w.uid fun x => { x with stepFlag := false }).commandStatus field 0))) ∧
  (∀ (field ctx : Nat) (c : Context), s.ctx? field ctx = some c →
    (c.state = .idle ∨ c.state = .running ∨ (c.state = .saved ∧ s.blocksIn c .saved = []) → s.ctxWork c = true →
      s.outranked c = false → exec (.contextSchedule field ctx) s =
        .next ((s.restoreAll (sortBy (fun (x : Block × Launch) => x.1.uid) (s.blocksIn c .saved))).modCtx field ctx fun x =>
          { x with state := .running })) ∧
    (c.preemptible = true → s.outranked c = true → exec (.preemptionStart field ctx false) s = .next (s.startDrain c false)) ∧
    (c.state = .running → s.inHotZone c = true → exec (.preemptionStart field ctx true) s = .next (s.startDrain c true)) ∧
    (c.state = .draining → s.blocksIn c .resident ≠ [] →
      exec (.drainLimitExpiry field ctx) s = .next (s.modCtx field ctx fun x => { x with state := .saving })) ∧
    (c.state = .saving → c.thermal = false → exec (.regionLimitExpiry field ctx) s =
      .next (((s.warpsIn (s.blocksIn c .resident)).filter fun w => decide (0 < w.region)).foldl (fun s w =>
        (s.hostRecord field ctx (cutCause w).trap.word 0 w.groupAddr w.core w.slot).modWarp w.uid fun x =>
          { x with region := 0, asyncs := x.asyncs ++ [cutCause w] }) s)) ∧
    (c.state = .saving →
      let bs := s.blocksIn c .resident
      let images := bs.map (·.1)
      let t := ((s.warpsIn bs).map (·.uid)).foldl State.quiesce s
      (∀ b ∈ images, t.quietBlock b = true) → (∀ x ∈ imagesOf c images, t.vaultOnline field x.1 = true) → t.ownsImages c images = true →
      exec (.forcedSave field ctx) s = .next ((images.foldl State.saveBlock (t.writeImages c images)).modCtx field ctx fun x =>
        { x with state := .saved, thermal := false })))

/-- PAGE_WALK, unless fills are host-assisted, walks once for every access that has missed a page and caches what it finds for all of them, or drops a cached entry of a page that none has missed; FILL_RESPONSE answers the miss that waits for it; INVALIDATE drops the entries and the answers of its range with status 0; FRAME_COPY_ON_WRITE moves the old owner's frame out and the new one's in; VAULT_ECC_ERROR logs a repair or takes the vault offline. That a walk is one step, and which entry leaves a TLB, are the model's (log 13, log 90). (R276, R384, R390, R392, R394, R395) -/
def Obligations.PageEvents : Prop :=
  ∀ s : State,
  (∀ (field ctx : Nat) (va : Dword) (c : Context), s.ctx? field ctx = some c → c.modes.getLsbD 0 = false →
    let page := va56 va / 2 ^ 12
    let mine : Miss → Bool := fun m => m.field == c.field && m.ctx == c.ctxid && m.page == page && !m.answered
    (∀ m t, s.misses.find? mine = some m →
      (s.walkNow c (va56 va) = (t, none) → exec (.pageWalk field ctx va) s =
        .next { t with misses := mapWhere mine (fun (x : Miss) => { x with answered := true }) t.misses }) ∧
      ∀ p, s.walkNow c (va56 va) = (t, some p) →
        let u : State := { t with misses := t.misses.filter fun x => !mine x }
        exec (.pageWalk field ctx va) s = .next ((dedupNat (m.joined.filterMap fun w => (u.warp? w).map (·.core))).foldl
          (fun s n => s.cachePage c (some n) page (some p)) (u.cachePage c none page (some p)))) ∧
    (s.misses.find? mine = none → exec (.pageWalk field ctx va) s =
      .next (s.cachePage c (if s.someBit 0 then some (40 * c.field + (s.someWord 1).toNat % 40) else none) page none))) ∧
  (∀ (field ctx : Nat) (vpage pte : Dword) (c : Context) (m : Miss), s.ctx? field ctx = some c → s.hostReach field = true →
    let t := s.fillWords field ctx vpage pte
    t.misses.find? (fun m => m.field == field && m.ctx == ctx && m.page == va56 vpage / 2 ^ 12 && !m.answered) = some m →
    exec (.fillResponse field ctx vpage pte) s = .next (t.serveMiss c m (if t.fillOk c pte then some pte else none))) ∧
  (∀ (field ctx : Nat) (va : Dword) (log : Nat) (c : Context), s.hostReach field = true → s.ctx? field ctx = some c →
    12 ≤ log → log ≤ 56 → va56 va % 2 ^ log = 0 → canonical va = true → s.usesRange field ctx (va56 va) log = false →
    let t := s.slotWords field 0x1100 1 [BitVec.ofNat 32 ctx, loWord va, hiWord va, BitVec.ofNat 32 log]
    let size : TlbEntry → Nat := fun e => pageBits (pteSize e.pte)
    exec (.invalidate field ctx va log) s = .next (State.setReg { t with
      tlb := t.tlb.filter fun e =>
        !(e.field == field && e.ctx == ctx && decide (e.page / 2 ^ (size e - 12) * 2 ^ size e < va56 va + 2 ^ log) &&
          decide (va56 va < (e.page / 2 ^ (size e - 12) + 1) * 2 ^ size e))
      misses := t.misses.filter fun m =>
        !(m.field == field && m.ctx == ctx && m.answered && inRange (va56 va) log m.page) } field 0x1120 0)) ∧
  (∀ (field frame ctx pos : Nat) (c : Context), s.ctx? field ctx = some c → c.framePos frame = some pos →
    (s.frameOf field frame).owner ≠ ctx → s.vaultOnline field (frame / 512) = true →
    exec (.frameCopyOnWrite field frame ctx) s = .next ((s.frameOut (s.frameOf field frame)).frameIn c frame pos)) ∧
  (∀ field vault : Nat, s.present field = true → s.vaultOnline field vault = true →
    let bit : BitVec 40 := 1#40 <<< vault
    (∀ x, s.field? field = some x → vault < 40 → x.remapBad.getLsbD vault = false → x.mirrorBad.getLsbD vault = false →
      exec (.vaultEccError field vault false) s = .next ((s.modField field fun x => { x with
        remapBad := x.remapBad &&& ~~~bit, mirrorBad := x.mirrorBad &&& ~~~bit }).logError 2 field vault 0)) ∧
    (vault < 40 → exec (.vaultEccError field vault true) s = .next ((s.modField field fun x => { x with
      remapBad := x.remapBad ||| bit, mirrorBad := x.mirrorBad ||| bit }).vaultOffline field vault)))

/-- EXPORT of a good region gives a free entry and its handle, REVOKE revokes an exported one, BIND binds a slot to a good entry of WINTAB and UNBIND drops it, each with status 0; REVOCATION_NOTICE marks the slots of a handle and returns its marker, DRAIN_MARKER frees the entry with the last marker, COUNT_DOORBELL counts in the HOSTED slot, and FLUSHING_READ_COMPLETE ends every earlier item to the same field of the peer, whose posted writes have come there, or covers every earlier write to host memory. Which status stands where several failures meet is the model's reading (log 64). (R227, R420, R421, R422, R424, R427) -/
def Obligations.WindowEvents : Prop :=
  ∀ s : State,
  (∀ (field ctx : Nat) (base : Dword) (target len i : Nat) (c : Context), s.hostReach field = true →
    let t := s.slotWords field 0x1200 1 [BitVec.ofNat 32 ctx, loWord base, hiWord base, BitVec.ofNat 32 target, BitVec.ofNat 32 len]
    t.ctx? field ctx = some c → c.state ≠ .killed → t.exportable c base.toNat target len = true → t.freeHandle c.field = some i →
    let gen := nextGen (((t.handle? c.field i).map (·.gen)).getD 0)
    let h : Handle :=
      { field := c.field, index := i, modul := t.moduleOf c.field, state := 1, gen := gen, ctx := c.ctxid, target := target,
        base := base.toNat, len := len, mask := 0, drains := [], byHost := false }
    let v := handleOf h.modul c.field i gen
    let u : State := { t with handles := t.handles.filter (fun x => !(x.field == c.field && x.index == i)) ++ [h] }
    exec (.exportHandle field ctx base target len) s =
      .next (((u.setReg c.field 0x1228 (loWord v)).setReg c.field 0x122C (hiWord v)).windowStatus c.field 0)) ∧
  (∀ (field : Nat) (handle : Dword) (h : Handle), s.hostReach field = true →
    let t := s.slotWords field 0x1200 2 [0, 0, 0, 0, 0, loWord handle, hiWord handle]
    t.handle? field (handleEntry handle) = some h → handle = handleOf h.modul field h.index h.gen → h.state = 1 →
    exec (.revoke field handle) s = .next (t.revokeEntry field h.index true).settleDestroys) ∧
  (∀ (field ctx slot : Nat) (c : Context), s.hostReach field = true → slot < 256 →
    (let t := s.slotWords field 0x1200 3 [BitVec.ofNat 32 ctx, BitVec.ofNat 32 slot]
     let r := t.engineRead ((List.range 32).map fun i => physKey 0 field (c.wintab.toNat + 32 * slot + i))
     t.ctx? field ctx = some c → c.state ≠ .killed → c.win? slot = none → r.1.bindBad c r.2 = false →
     exec (.bind field ctx slot) s = .next ((r.1.bindWindow c slot r.2).windowStatus field 0)) ∧
    (let t := s.slotWords field 0x1200 4 [BitVec.ofNat 32 ctx, BitVec.ofNat 32 slot]
     ∀ w, t.ctx? field ctx = some c → c.win? slot = some w → exec (.unbind field ctx slot) s =
       .next ((t.modCtx field ctx fun x => { x with wins := x.wins.filter fun w => w.slot != slot }).windowStatus field 0))) ∧
  (∀ (field : Nat) (handle : Dword), ({ field := field, handle := handle, marker := false } : Notice) ∈ s.notices →
    let n : Notice := { field := field, handle := handle, marker := false }
    exec (.revocationNotice field handle) s = .next { s with
      contexts := mapWhere (fun c => c.field == field) (fun (c : Context) => { c with
        wins := mapWhere (fun w => w.handle == handle) (fun (w : WinSlot) => { w with revoked := true }) c.wins }) s.contexts
      notices := s.notices.erase n ++ [{ n with marker := true }] }) ∧
  (∀ (field fromField : Nat) (handle : Dword), handleField handle = field → s.itemsIn fromField handle = true →
    let n : Notice := { field := fromField, handle := handle, marker := true }
    n ∈ s.notices → exec (.drainMarker field fromField handle) s =
      .next (((State.modHandle { s with notices := s.notices.erase n } field (handleEntry handle) fun h =>
        if h.gen = handleGen handle then { h with drains := h.drains.filter (· != fromField) } else h).freeEntry
          field (handleEntry handle)).settleDestroys)) ∧
  (∀ (field entry : Nat) (gen : Word) (h : Handle), s.handle? field entry = some h → s.hostReach field = true → h.state = 1 →
    h.gen = gen → exec (.countDoorbell field entry gen) s = .next (s.countDst (handleOf h.modul field entry gen))) ∧
  (∀ (id : Nat) (good : Bool) (h : Dword), (∀ x ∈ s.hostWrites, x.1 ≠ id) → s.peerItem id = some h →
    let same : Dword → Bool := fun x => handleModule x == handleModule h && handleField x == handleField h
    let t : State := { s with posts := s.posts.filter fun p => !(decide (p.flight ≤ id) && same p.handle) }
    exec (.flushingReadComplete id good) s = .next (State.settleMoved
      ((s.areqs.filter fun r => r.peer && r.applied && decide (r.id ≤ id) && same r.handle).foldl (fun s r => s.peerRed good r)
        ((s.flights.filter fun f => f.peer && f.applied && decide (f.id ≤ id) && same f.handle).foldl (fun s f => s.peerEnd good f) t)))) ∧
  (∀ id : Nat, (∃ x ∈ s.hostWrites, x.1 = id) → exec (.flushingReadComplete id true) s = .next (s.hostCover id).settleSignals)

/-- BAR4_WRITE writes memory below MEMBYTES, for a peer inside its exported entry only, and BAR4_READ reads it, HOST_ATOMICOP performs FetchAdd, Swap or CAS and returns the old value, REGISTER_WRITE keeps its word; FLIT_RECEIVE accepts a good flit in sequence and discards another, NEGATIVE_ACK starts sending again and with the eighth in a row lane repair, LANE_REPAIR repairs a module or disables it, CROSSING_FAILURE fails a working crossing; BRING_UP with a good image starts the training of the crossings and with a bad one presents function 0 only, MODULE_POWER_REMOVED keeps only what outlives power, POWER_SAMPLE, THERMAL_SAMPLE and MACHINE_CHECK act on their fields, and WEAR_UPDATE replaces the record. The flits' conventions, what a discarded flit was, what outlives power, the registers' zeros, the clocks' rules, the mean of fewer than 100 samples, and the KIND of a dropped peer write are the model's (log 9, log 74, log 76, log 78, log 79, log 139, log 141, log 142). (R284, R412, R413, R414, R416, R419, R426, R428, R429, R430, R432, R434) -/
def Obligations.HostAndLinkEvents : Prop :=
  ∀ s : State,
  (∀ (field : Nat) (addr : Dword), s.hostReach field = true →
    (∀ (data : List Byte) (peer : Option (Nat × Word)),
      let cells := (data.zipIdx.filter fun x => s.hasByte field (addr.toNat + x.2)).map fun x => (physKey 0 field (addr.toNat + x.2), x.1)
      let t := s.evictLines (dedupNat (cells.map fun c => lineOf c.1))
      ((∀ e g, peer = some (e, g) → ∃ h, s.handle? field e = some h ∧ h.state = 1 ∧ h.gen = g ∧ h.target = 0 ∧ h.base ≤ addr.toNat ∧
          addr.toNat + data.length ≤ h.base + h.len * 2 ^ 12) →
        exec (.bar4Write field addr ⟨data, peer⟩) s = .next (t.putCells cells)) ∧
      (∀ e g, peer = some (e, g) → (∀ h, s.handle? field e = some h → h.state ≠ 1 ∨ h.gen ≠ g) →
        exec (.bar4Write field addr ⟨data, peer⟩) s = .next (s.logError ((s.someWord 0).toNat % 256) field e addr.toNat))) ∧
    (∀ (t : State) (cells : List Host.Cell), (t.putCells cells).mem = memCells t.mem cells) ∧
    (∀ len : Nat,
      let t := s.roundShadows ((List.range len).map fun i => physKey 0 field (addr.toNat + i))
      exec (.bar4Read field addr len) s = .next { t with hostData := (List.range len).map fun i => t.bar4Byte field (addr.toNat + i) }) ∧
    (∀ (op : BitVec 2) (w64 : Bool) (operand compare : Dword),
      let n := if w64 then 8 else 4
      op ≠ 3 → addr.toNat % n = 0 → s.hasByte field (addr.toNat + n - 1) = true →
      let k := physKey 0 field addr.toNat
      let t := s.roundShadows ((List.range n).map (k + ·))
      exec (.hostAtomicop field addr op w64 operand compare) s =
        .next { t.putNat k n (hostAtomic op (8 * n) (t.readNat k n) operand.toNat compare.toNat) with
          hostData := leBytes n (t.readNat k n) }) ∧
    (∀ (offset : Nat) (value : Word), offset % 4 = 0 → offset < 2 ^ 16 → partWord offset = false → actingWord offset value.toNat = false →
      exec (.registerWrite field offset value) s = .next
        (((s.setReg field offset value).modField field fun x => x.hostWord offset value).unknownCommand field offset))) ∧
  (∀ (crossing dir modul : Nat) (c : Crossing), s.crossing? crossing = some c → s.crossingUp crossing = true → modul < 16 →
    c.healthy.getLsbD modul = true → dir ≤ 1 →
    (c.repairing.getLsbD modul = false →
      (∀ (flit : List Byte) (q : FlitSeq), flitBad flit = false → flType flit = 1 → (c.seq dir modul).sent flit = some q →
        (∀ p ∈ flitPackets 16 (flPayload flit), c.laneFits modul p = true) →
        flCtl flit ≠ 1 ∨ (c.seq (1 - dir) modul).nackDue = true →
        (flSeq flit = (c.seq dir modul).expect → exec (.flitReceive crossing dir modul flit) s =
          .next ((s.modCrossing crossing fun x => x.putSeq { q with expect := ((c.seq dir modul).expect + 1) % 2 ^ 16 }).takeFlit
            crossing dir modul flit)) ∧
        (flSeq flit ≠ (c.seq dir modul).expect → exec (.flitReceive crossing dir modul flit) s =
          .next (s.modCrossing crossing fun x => x.putSeq { q with nackDue := true }))) ∧
      (∀ flit : List Byte, flitBad flit = true → exec (.flitReceive crossing dir modul flit) s =
        .next (s.modCrossing crossing fun x => x.putSeq { (c.seq dir modul).sentBad (s.someBit 0) with nackDue := true })) ∧
      (∀ ack : BitVec 16, (c.seq dir modul).nackDue = true →
        ∃ t d, exec (.negativeAck crossing dir modul ack) s = .next t ∧ t.crossing? crossing = some d ∧
          d.seq dir modul = (c.seq dir modul).refused ack.toNat ∧
          d.repairing = if 8 ≤ ((c.seq dir modul).refused ack.toNat).nacks then c.repairing ||| (1#16 <<< modul) else c.repairing)) ∧
    exec (.laneRepair crossing modul true) s = .next ((s.modCrossing crossing fun c => { c with
      repairing := c.repairing &&& ~~~(1#16 <<< modul)
      seqs := mapWhere (fun q => q.modul == modul) FlitSeq.resend c.seqs }).logError 4 c.fa modul 0) ∧
    (let t := (s.modCrossing crossing fun c => c.disable modul).logError 5 c.fa modul 0
     ∀ d, t.crossing? crossing = some d → 4 ≤ ((List.range 16).filter fun k => d.healthy.getLsbD k).length →
      exec (.laneRepair crossing modul false) s = .next t) ∧
    exec (.crossingFailure crossing) s = .next (s.failCrossing crossing)) ∧
  (∀ (report : List (Bool × BitVec 40 × BitVec 40 × BitVec 40)) (modules : List Nat) (signature : Bool),
    let t := s.powerOn
    let u : State := { t with hostLink := true, functions := 1 }
    (signature = true → t.flash.keyDigest = t.fuses.keyDigest → t.fuses.version ≤ t.flash.version →
      exec (.bringUp signature report modules) s = .next { u with
        crossings := t.crossings.map fun c => { c with cstate := 1 }
        agenda := .trained report modules :: t.agenda }) ∧
    (signature = false → exec (.bringUp signature report modules) s = .next u)) ∧
  exec .modulePowerRemoved s = .next s.powerOn ∧
  (∀ (milliwatts : Nat) (load : List Nat),
    let power := (milliwatts :: s.power).take 100
    let sum := power.foldl (· + ·) 0
    let t : State := { s with power := power, fields := s.fields.map fun x => { x with stopped := false } }
    (850000 * power.length < sum → exec (.powerSample milliwatts load) s = .next (State.throttle load { t with powerLow := 0 })) ∧
    (800000 * power.length ≤ sum → sum ≤ 850000 * power.length → exec (.powerSample milliwatts load) s = .next { t with powerLow := 0 }) ∧
    (sum < 800000 * power.length → s.powerLow < 99 →
      exec (.powerSample milliwatts load) s = .next { t with powerLow := s.powerLow + 1 }) ∧
    (sum < 800000 * power.length → 99 ≤ s.powerLow →
      exec (.powerSample milliwatts load) s = .next (State.unthrottle { t with powerLow := 0 }))) ∧
  (∀ (field : Nat) (low high valves : List Nat), s.present field = true →
    let sensors := sensorsOf low high
    let t := s.modField field fun x => x.heat sensors valves
    ((∀ z, z < 4 → hottest sensors z < 1150) → exec (.thermalSample field low high valves) s = .next t) ∧
    (∀ z, z < 4 → 1150 ≤ hottest sensors z → (∀ y, y < z → hottest sensors y < 1150) →
      exec (.thermalSample field low high valves) s = .next (t.stopField field 7 z))) ∧
  (∀ field : Nat, s.present field = true → exec (.machineCheck field) s = .next (s.stopField field 6 0)) ∧
  (∀ (field life hours corrected : Nat) (x : Field), s.field? field = some x → x.fstate ≠ 0 →
    exec (.wearUpdate field life hours corrected) s = .next { s with
      wear := s.wear.filter (fun y => y.field != field) ++
        [{ field := field, life := life % 2 ^ 16, hours := hours % 2 ^ 32, corrected := corrected % 2 ^ 64 }] })

/-- For every well-formed instruction, with every operand at every value its encoding admits, the decoder reads the instruction and nothing more from its encoded bytes, whatever bytes follow. (R21, R22, R23, R26, R27, R29, R30, R31, R44) -/
def Obligations.DecodeOfEncode : Prop :=
  ∀ i : Instr, WellFormed i → ∀ rest : List Byte, decodeBytes (encodeBytes i ++ rest) = .ok (i, rest)

/-- The decoder reads sixteen words of the encoding rules, one with a trailing literal, as the instructions that the rules print beside them. (R36, R117, R145, R188, R209, R358, R364) -/
def Obligations.DecodedWords : Prop :=
  let one : Word → Instr → Prop := fun w i => decodeBytes (bytesOfWord w) = .ok (i, [])
  one 0xD0000160#32 (.trap .lane 5) ∧ one 0xD1000160#32 (.trap .warp 5) ∧ one 0xD00000A1#32 (.eret .lane 2) ∧ one 0x6C000000#32 (.nop .lane) ∧ one 0x200C21C2#32 (.fmul .lane 3 2 (.v 7)) ∧ one 0x200C2332#32 (.fmul .lane 3 2 (.const 12)) ∧ one 0x4404A1D4#32 (.st .lane 1 10 7 2 true false) ∧ one 0x401021D0#32 (.ld .lane 4 2 7 2 false false) ∧ one 0x54102229#32 (.atomAcas .lane 4 2 8 true) ∧ one 0x7A172180#32 (.shflIdx .set 5 50 (.v 6)) ∧ one 0x95201111#32 (.accrd .warp 8 1 0 (.s 4)) ∧ one 0x9C090510#32 (.qapp .lane 2 16 (.s 20)) ∧ one 0xA4FC0FFF#32 (.wait .lane 63 0 63 63) ∧ one 0xB9010210#32 (.trav .warp 0 16 (.s 8)) ∧ one 0xC3143020#32 (.reform .block 5 3 (.imm 0)) ∧
  decodeBytes (bytesOfWord 0x200C2FF2#32 ++ bytesOfWord 0x3E2AAAAB#32) = .ok (.fmul .lane 3 2 (.lit 0x3E2AAAAB#32), [])

/-- With no turn waiting, a step of a warp that may issue, with no cause, merge or debug step due, executes exactly the instruction that the bytes at its split's program counter decode to, with the addresses of its group, its word and the word after it; bytes that do not decode raise ILLEGAL_ENCODING. The code that a fetch reads has its wide-form values rounded. A waiting event is executed next, unless a stopped field holds it; a corrected ECC error is logged; the trained crossings end bring-up; and a waiting issue turn names the warp that issues. That a step is one word or one event is the model's (log 3, log 4). (R21, R44, R46, R96, R165, R428, R429, R433) -/
def Obligations.StepRunsTheDecodedInstruction : Prop :=
  ∀ s : State,
  let t : State := { s with fresh := s.fresh + 1 }
  (∀ (w : Warp) (slot : Nat) (x : Split) (word lit : Word) (i : Instr) (rest : List Byte), s.agenda = [] → t.warp? s.cur = some w →
    t.mayRun w = true → w.due = none → w.stepDue = none → w.mergePair = none → t.pickSlot w = some slot → w.split? slot = some x →
    t.fetchWordAt w x.pc = .ok word →
    let turn : Dword → State := fun next =>
      { t.noteFetch w (if next = x.pc + 8 ∧ x.pc.toNat % 64 ≠ 0x3C then [x.pc, x.pc + 4] else [x.pc]) with
        fetch := { slot := slot, start := if w.inGroup = some slot then x.start else x.pc, addr := x.pc, next := next } }
    (s.shadows = [] → ∀ l, t.noteFetch w l = t) ∧
    (takesLiteral word = false →
      (decodeBytes (bytesOfWord word) = .ok (i, rest) → step s = exec i (turn (x.pc + 4))) ∧
      (∀ e, decodeBytes (bytesOfWord word) = .error e → step s = .next (turn (x.pc + 4)).illegal)) ∧
    (takesLiteral word = true →
      (x.pc.toNat % 64 ≠ 0x3C → t.fetchWordAt w (x.pc + 4) = .ok lit →
        decodeBytes (bytesOfWord word ++ bytesOfWord lit) = .ok (i, rest) → step s = exec i (turn (x.pc + 8))) ∧
      (x.pc.toNat % 64 = 0x3C → decodeBytes (bytesOfWord word ++ bytesOfWord 0) = .ok (i, rest) → step s = exec i (turn (x.pc + 8))))) ∧
  (∀ e rest, s.agenda = .event e :: rest → e.isEvent = true →
    (t.holds e = false → step s = exec e { t with agenda := rest, cur := 0 }) ∧
    (t.holds e = true → step s = .next { t with agenda := rest })) ∧
  (∀ f unit addr rest, s.agenda = .corrected f unit addr :: rest → s.present f = true →
    step s = .next (State.logError { t with agenda := rest, cur := 0 } 1 f unit addr)) ∧
  (∀ report modules rest, s.agenda = .trained report modules :: rest →
    step s = .next (State.trainedUp { t with agenda := rest, cur := 0 } report modules)) ∧
  (∀ u rest, s.agenda = .issue u :: rest → step s = State.issueTurn { t with agenda := rest, cur := u })

/-- Of several decode causes the first of R47 is reported, with the address of the word that carries it; an instruction that has none, whose registers have no load outstanding and no asynchronous cause pending in it or another member, that has met its rendezvous and keeps the lanes it must keep, passes to its effect with the lanes, the hints and the register numbers of its split, its warp's object released at WARP scope. Operand values known only on execution are judged there (log 15). (R24, R38, R41, R42, R43, R44, R47, R51, R53, R103, R167, R210) -/
def Obligations.DecodeCauses : Prop :=
  ∀ (m : Meta) (s : State) (w : Warp),
  (∀ (hs : List Hint) (addr : Dword),
    let scope := m.cls.scopeOk m.scope = false ∨ (gathers m.scope = true ∧ w.mode = .handler) ∨ (m.scope = .set ∧ s.setsOf w = 0)
    let priv := m.privileged = true ∧ w.mode ≠ .handler
    let absent := m.rasterOnly = true ∧ s.variant = .lk2080n
    let boundary := (m.opb.any Opb.isLit) = true ∧ addr.toNat % 64 = 0x3C
    let operand := m.bad = true ∨ (m.opb.any Opb.isResv) = true ∨ ∃ p, hintOf hs 0 = some p ∧ m.badPayload p = true
    let range := ∃ r n k, ((r, n, k) = (m.d, m.nd, 0) ∨ (r, n, k) = (m.a, m.na, 1) ∨ (r, n, k) = (m.b, m.nb, 2)) ∧ n ≠ 0 ∧
      w.alloc < r + xregBit (hintOf hs 1) k + n
    let cause := m.decodeCause s w hs addr
    (scope → cause = some (2, addr)) ∧ (¬scope → priv → cause = some (5, addr)) ∧ (¬scope → ¬priv → absent → cause = some (6, addr)) ∧
    (¬scope → ¬priv → ¬absent → ∀ a, m.orphan hs addr = some a → cause = some (3, a)) ∧
    (¬scope → ¬priv → ¬absent → m.orphan hs addr = none →
      (boundary → cause = some (4, addr)) ∧ (¬boundary → operand → cause = some (1, addr)) ∧
      (¬boundary → ¬operand → range → cause = some (9, addr)) ∧ (¬boundary → ¬operand → ¬range → cause = none))) ∧
  (∀ (sp : Split) (ctx : Context) (l : Launch) (b : Block), s.warp? s.cur = some w → w.split? s.fetch.slot = some sp →
    s.ctxOf w = some ctx → s.launchOf w = some l → s.block? w.block = some b →
    (∀ c a, m.decodeCause s w sp.hints s.fetch.addr = some (c, a) → s.judge m = .wait (s.report
      { u := w.uid, slot := s.fetch.slot, fpc := s.fetch.start, next := s.fetch.next, trap := Trap.at c a 0, member := sp.released,
        once := m.cls.once, diverged := false, lost := none })) ∧
    (m.decodeCause s w sp.hints s.fetch.addr = none →
      let x := hintOf sp.hints 1
      let j : Job :=
        { w := w, slot := s.fetch.slot, start := s.fetch.start, addr := s.fetch.addr, next := s.fetch.next, scope := m.scope,
          live := sp.mask &&& xpredMask w (hintOf sp.hints 4), ximm := hintOf sp.hints 0, xmod := (hintOf sp.hints 2).getD 0,
          xpred := hintOf sp.hints 4, d := m.d + xregBit x 0, a := m.a + xregBit x 1, b := m.b + xregBit x 2, ctx := ctx,
          launch := l, block := b, members := s.members w m.scope }
      (∀ op ∈ w.loads, m.waitsFor x op = false) →
      (w.mode = .handler ∨ (m.own j = [] ∧ ∀ a ∈ w.asyncs, m.dependsOn s j x a = false)) →
      (sp.released.isSome = true ∨ (gathers m.scope = false ∧ (m.scope = .warp → w.gathered = true))) →
      let t := s.passWarp m w.uid s.fetch.slot
      (m.scope ≠ .warp → t = s) ∧ ∀ v, t.warp? w.uid = some v →
      let k : Job := { j with w := v, members := t.members v m.scope }
      (∀ y ∈ k.members, ∀ z, t.warp? y.uid = some z → ∀ op ∈ z.loads, m.waitsFor x op = false) →
      (∀ y ∈ k.members, y.uid = w.uid ∨ y.mode = .handler ∨ ∀ a ∈ y.asyncs, m.memberDep t (k.onWarp y) x a = false) →
      (m.noPartial = true → ∀ y ∈ k.members, k.liveOf y =
        if y.uid = w.uid then sp.mask else ((y.split? y.onlySlot).map (·.mask)).getD 0) →
      s.judge m = .go (t.cacheOperand m k) k))

/-- Once a warp is quiet, a cause puts it in handler mode with CAUSE, FADDR and FPC written, its splits in the trap frame, and one split of the reporting lanes at the handler; its registers, but for those that a faulted load leaves 0 as its cause is delivered, memory and, for a cause of its own, every other warp stay. A cause in handler mode kills the context with HANDLER_FAULT, and one of a context without a handler with CONTEXT_KILLED. ERET restores every split with its lanes, the reporting one at FPC, or past the group on a skip. That the warp is quiet first is the model's reading (log 17). (R204, R205, R206, R208, R209) -/
def Obligations.TakingAnException : Prop :=
  (∀ (s : State) (r : Report) (w : Warp) (c : Context), s.warp? r.u = some w → s.ctx? w.field (s.ctxidOf w) = some c →
    (w.mode = .handler → s.report r = (s.hostRecord w.field (s.ctxidOf w) ({ Trap.plain 16 with code2 := r.trap.code }).word
      r.trap.faddr r.fpc w.core w.slot).killCtx w.field (s.ctxidOf w)) ∧
    (w.mode ≠ .handler → c.handler = 0 → s.report r = (s.hostRecord w.field (s.ctxidOf w)
      ({ r.trap with code := 61, code2 := r.trap.code }).word r.trap.faddr r.fpc w.core w.slot).killCtx w.field (s.ctxidOf w)) ∧
    (w.mode ≠ .handler → c.handler ≠ 0 → r.trap.code ≠ 18 →
      let q := (s.backToGroup r.u r.slot r.fpc).quiesce r.u
      ∀ v x, q.quiet r.u = true → q.warp? r.u = some v → v.split? r.slot = some x →
      ∃ y fr, (s.report r).warp? r.u = some y ∧ y.frame = some fr ∧ y.mode = .handler ∧ y.cause = r.trap.word ∧ y.faddr = r.trap.faddr ∧
        y.fpc = r.fpc ∧ y.split? 0 = some (Split.fresh c.handler x.mask) ∧ (∀ k, k ≠ 0 → y.split? k = none) ∧ y.parked = [] ∧
        fr.slot = r.slot ∧ fr.next = r.next ∧ fr.parked = v.parked ∧
        (∀ k, (fr.slots[k]?).join = if k = r.slot then some { x with pc := r.fpc, start := r.fpc, hints := [] } else v.split? k) ∧
        y.s = v.s ∧ y.bank = v.bank ∧ y.p = v.p ∧ y.rstack = v.rstack ∧ y.mask = v.mask ∧
        (r.cause = none → y.v = v.v ∧ y.h = v.h) ∧
        (∀ a, r.cause = some a → y.v = (v.deliver a).v ∧ y.h = (v.deliver a).h ∧ (a.kind ≠ .ray → a ∉ y.asyncs)) ∧
        (s.report r).mem = q.mem ∧ (r.member = none → r.pop = false → ∀ u, u ≠ r.u → (s.report r).warp? u = q.warp? u))) ∧
  (∀ t : Trap, (t.word.getLsbD 31 = t.async) ∧ t.word.extractLsb' 22 9 = 0 ∧ t.word.extractLsb' 16 6 = BitVec.ofNat 6 t.code2 ∧
    t.word.extractLsb' 11 5 = t.fpx ∧ t.word.extractLsb' 6 5 = BitVec.ofNat 5 t.lane ∧ t.word.extractLsb' 0 6 = BitVec.ofNat 6 t.code) ∧
  (∀ (w : Warp) (fr : Frame) (how : Resume),
    let y := w.leaveHandler fr how
    y.mode = .normal ∧ y.frame = none ∧ y.v = w.v ∧ y.s = w.s ∧ y.bank = w.bank ∧ y.p = w.p ∧ y.h = w.h ∧ y.rstack = w.rstack ∧
    ∀ k x, (fr.slots[k]?).join = some x → x.mask &&& ~~~w.exited ≠ 0 → ∃ z, y.split? k = some z ∧ z.mask = x.mask &&& ~~~w.exited ∧
      z.hints = [] ∧ z.pc = if k = fr.slot then (if how = .skip then fr.next else w.fpc) else x.pc)

/-- A v register written in some lanes reads the new value there and the old one elsewhere, and every other register stays; p0 reads true and ignores writes; a predicate, an s register and an h register read what was written; in handler mode s56 to s63 are the warp's bank, and outside it the bank stays. (R5, R27, R100, R207) -/
def Obligations.RegisterFile : Prop :=
  ∀ w : Warp,
  (∀ (live : LaneMask) (r : Nat) (x : Row), r < 128 →
    (∀ i, i < 32 → laneOf ((w.setRow live r x).row r) i = if live.getLsbD i then laneOf x i else laneOf (w.row r) i) ∧
    (∀ q, q ≠ r → (w.setRow live r x).row q = w.row q) ∧ (∀ q, (w.setRow live r x).pred q = w.pred q) ∧
    (∀ q, (w.setRow live r x).sreg q = w.sreg q)) ∧
  (∀ (live : LaneMask) (r : Nat) (x : Row64), r + 1 < 128 → ∀ i, i < 32 → live.getLsbD i = true →
    laneOf64 ((w.setRow64 live r x).row64 r) i = laneOf64 x i) ∧
  (w.pred 0 = 0xFFFFFFFF#32 ∧ ∀ (live x : LaneMask), w.setPred live 0 x = w) ∧
  (∀ (live x : LaneMask) (q : Nat), 0 < q → q < 8 →
    (w.setPred live q x).pred q = (x &&& live) ||| (w.pred q &&& ~~~live) ∧ ∀ k, k ≠ q → (w.setPred live q x).pred k = w.pred k) ∧
  (∀ (r : Nat) (x : Word), r < 64 →
    (w.setS r x).sreg r = x ∧ (∀ q, q ≠ r → (w.setS r x).sreg q = w.sreg q) ∧
    (w.mode = .handler → 56 ≤ r → (w.setS r x).s = w.s) ∧ (w.mode ≠ .handler → (w.setS r x).bank = w.bank)) ∧
  (∀ (h k : BitVec 4) (x : BitVec 512), (w.setH h x).hreg k = if k = h then x else w.hreg k)

/-- Writing bytes keeps the canonical form, every written byte reads as written and every other byte as before, a number of n bytes reads back modulo 2^(8n) in little-endian order, and two memories in the form that read alike are equal. (R21, R74, R125) -/
def Obligations.ByteMemory : Prop :=
  ∀ m : List Host.Cell, Memory.wf m = true →
  (∀ (k : Nat) (bs : List Byte), Memory.wf (memWrite m k bs) = true ∧
    ∀ a, memGet (memWrite m k bs) a = if k ≤ a ∧ a < k + bs.length then bs.getD (a - k) 0 else memGet m a) ∧
  (∀ (s : State) (k n x : Nat), s.mem = m → (s.writeNat k n x).readNat k n = x % 2 ^ (8 * n)) ∧
  (∀ m' : List Host.Cell, Memory.wf m' = true → (∀ a, memGet m a = memGet m' a) → m = m')

/-- From every state whose memory is in canonical form, whatever instruction or event the step runs, the state it answers has its memory in canonical form. (R125, R225) -/
def Obligations.StepKeepsMemoryForm : Prop :=
  ∀ s t : State, Memory.wf s.mem = true → step s = .next t → Memory.wf t.mem = true

/-- At reset memory is in canonical form and every byte reads 0 (the model's choice, log 1); no field is present, every crossing is in RESET, there is no context, queue, launch or warp, and a step changes nothing but the model's own counter (log 5) until BRING_UP: that the machine at reset stands before bring-up, with its tables empty, is the model's choice (log 2); a bring-up whose image fails leaves no field present. (R18, R410, R428) -/
def Obligations.ResetState : Prop :=
  Memory.wf State.reset.mem = true ∧ (∀ k, State.reset.readByte k = 0) ∧ (∀ f, State.reset.present f = false) ∧
  State.reset.contexts = [] ∧ State.reset.queues = [] ∧ State.reset.launches = [] ∧ State.reset.warps = [] ∧
  State.reset.hostLink = false ∧ (∀ c ∈ State.reset.crossings, c.cstate = 0) ∧
  step State.reset = .next { State.reset with fresh := 1 } ∧
  ∀ (s : State) rs ts, ∃ t, exec (.bringUp false rs ts) s = .next t ∧ ∀ f, t.present f = false

/-- Every warp of a block that is placed starts with its v registers 0, p1 to p7 false, empty return stacks, MASK all ones and the scalars of its launch; a v register that GROW adds, also one it removed before, reads 0. (R102) -/
def Obligations.WarpStart : Prop :=
  (∀ (s : State) (l : Launch) (bid core : Nat), (s.placeBlock l bid core).warps = s.warps ++ (List.range l.warps).map fun i =>
    newWarp (s.nextUid + 1 + i) s.nextUid core ((s.freeSlots core).getD i 0) i l.regsInit l.entry
      (startScalars l.args bid l.griddim.toNat i) (startLogid bid l.warps i)) ∧
  (∀ (uid block core slot wid alloc bid grid : Nat) (pc args : Dword) (logid : Row),
    let w := newWarp uid block core slot wid alloc pc (startScalars args bid grid wid) logid
    (∀ r, w.row r = splat 0) ∧ (∀ q, 0 < q → w.pred q = 0) ∧ (∀ i : Nat, (w.rstack[i]?).getD [] = []) ∧ w.mask = 0xFFFFFFFF#32 ∧
    w.sreg 0 = loWord args ∧ w.sreg 1 = hiWord args ∧ w.sreg 2 = BitVec.ofNat 32 bid ∧ w.sreg 3 = BitVec.ofNat 32 grid ∧
    w.sreg 4 = BitVec.ofNat 32 wid ∧ ∀ r, 5 ≤ r → w.sreg r = 0) ∧
  (∀ (w : Warp) (n k r : Nat), r < 128 →
    (w.alloc ≤ r → r < n → (w.setAlloc n).row r = splat 0) ∧ (r < w.alloc → (w.setAlloc n).row r = w.row r) ∧
    (k ≤ r → r < n → ((w.setAlloc k).setAlloc n).row r = splat 0))
end

