-- ==== Sys2Proof/Laws/Decode.lean ====
section
/-! SUPPORT. The fields of an encoded word read back (R22 to R51), and how a round trip of a word follows from its decoding. -/

namespace Sys2Proof

theorem Scope.ofBits_bits (sc : Scope) : Scope.ofBits sc.bits = sc := by cases sc <;> rfl

theorem extract_append_high {m n : Nat} (x : BitVec m) (y : BitVec n) (i k : Nat) (h : n ≤ i) :
    (x ++ y).extractLsb' i k = x.extractLsb' (i - n) k := by
  apply BitVec.eq_of_getLsbD_eq
  intro j hj
  simp only [BitVec.getLsbD_extractLsb', BitVec.getLsbD_append, hj, decide_true, Bool.true_and]
  rw [if_neg (by omega)]
  congr 1; omega

theorem extract_append_low {m n : Nat} (x : BitVec m) (y : BitVec n) (i k : Nat) (h : i + k ≤ n) :
    (x ++ y).extractLsb' i k = y.extractLsb' i k := by
  apply BitVec.eq_of_getLsbD_eq
  intro j hj
  simp only [BitVec.getLsbD_extractLsb', BitVec.getLsbD_append, hj, decide_true, Bool.true_and]
  rw [if_pos (by omega)]

theorem hdr_major (m : BitVec 6) (sc : Scope) (x : BitVec 24) : (hdr m sc x).extractLsb' 26 6 = m := by
  unfold hdr
  rw [extract_append_high _ _ _ _ (by omega), extract_append_high _ _ _ _ (by omega)]; simp
theorem hdr_scope (m : BitVec 6) (sc : Scope) (x : BitVec 24) : (hdr m sc x).extractLsb' 24 2 = sc.bits := by
  unfold hdr
  rw [extract_append_high _ _ _ _ (by omega), extract_append_low _ _ _ _ (by omega)]; simp
theorem hdr_body (m : BitVec 6) (sc : Scope) (x : BitVec 24) (i k : Nat) (h : i + k ≤ 24) : (hdr m sc x).extractLsb' i k = x.extractLsb' i k := by
  unfold hdr
  rw [extract_append_low _ _ _ _ h]
/-- The operand with another literal. -/
def Opb.relit (l : Word) : Opb → Opb
  | .lit _ => .lit l
  | o => o
theorem opbOf_bits (o : Opb) (h : o.wf = true) (l : Word) : opbOf o.kind o.bits l = o.relit l := by
  cases o with
  | const i => 
    simp [Opb.wf] at h
    have h1 : i ≠ 63#6 := by rintro rfl; simp at h
    have h2 : i ≠ 62#6 := by rintro rfl; simp at h
    simp [opbOf, Opb.kind, Opb.bits, Opb.relit, h, h1, h2]
  | resv i =>
    simp [Opb.wf] at h
    have h1 : i ≠ 63#6 := by rintro rfl; simp at h
    have h2 : i ≠ 62#6 := by rintro rfl; simp at h
    have h3 : ¬ i < 56#6 := by simpa using h.1
    simp [opbOf, Opb.kind, Opb.bits, Opb.relit, h3, h1, h2]
  | _ => rfl

section
variable (m : BitVec 6) (sc : Scope) (d a b : BitVec 6) (k : BitVec 2) (f : BitVec 4)
theorem rForm_d : (hdr m sc (d ++ a ++ b ++ k ++ f)).extractLsb' 18 6 = d := by
  rw [hdr_body _ _ _ _ _ (by omega)]
  show BitVec.extractLsb' (n := 6 + 6 + 6 + 2 + 4) 18 6 (d ++ a ++ b ++ k ++ f) = d
  rw [extract_append_high _ _ _ _ (by omega)]
  rw [extract_append_high _ _ _ _ (by omega)]
  rw [extract_append_high _ _ _ _ (by omega)]
  rw [extract_append_high _ _ _ _ (by omega)]
  simp
theorem rForm_a : (hdr m sc (d ++ a ++ b ++ k ++ f)).extractLsb' 12 6 = a := by
  rw [hdr_body _ _ _ _ _ (by omega)]
  show BitVec.extractLsb' (n := 6 + 6 + 6 + 2 + 4) 12 6 (d ++ a ++ b ++ k ++ f) = a
  rw [extract_append_high _ _ _ _ (by omega)]
  rw [extract_append_high _ _ _ _ (by omega)]
  rw [extract_append_high _ _ _ _ (by omega)]
  rw [extract_append_low _ _ _ _ (by omega)]
  simp
theorem rForm_b : (hdr m sc (d ++ a ++ b ++ k ++ f)).extractLsb' 6 6 = b := by
  rw [hdr_body _ _ _ _ _ (by omega)]
  show BitVec.extractLsb' (n := 6 + 6 + 6 + 2 + 4) 6 6 (d ++ a ++ b ++ k ++ f) = b
  rw [extract_append_high _ _ _ _ (by omega)]
  rw [extract_append_high _ _ _ _ (by omega)]
  rw [extract_append_low _ _ _ _ (by omega)]
  simp
theorem rForm_k : (hdr m sc (d ++ a ++ b ++ k ++ f)).extractLsb' 4 2 = k := by
  rw [hdr_body _ _ _ _ _ (by omega)]
  show BitVec.extractLsb' (n := 6 + 6 + 6 + 2 + 4) 4 2 (d ++ a ++ b ++ k ++ f) = k
  rw [extract_append_high _ _ _ _ (by omega)]
  rw [extract_append_low _ _ _ _ (by omega)]
  simp
theorem rForm_f : (hdr m sc (d ++ a ++ b ++ k ++ f)).extractLsb' 0 4 = f := by
  rw [hdr_body _ _ _ _ _ (by omega)]
  show BitVec.extractLsb' (n := 6 + 6 + 6 + 2 + 4) 0 4 (d ++ a ++ b ++ k ++ f) = f
  rw [extract_append_low _ _ _ _ (by omega)]
  simp
end

theorem wordOf_bytes (w : Word) : wordOf (w.extractLsb' 0 8) (w.extractLsb' 8 8) (w.extractLsb' 16 8) (w.extractLsb' 24 8) = w := by
  apply BitVec.eq_of_getLsbD_eq
  intro j hj
  simp only [wordOf, BitVec.getLsbD_append, BitVec.getLsbD_extractLsb']
  by_cases h1 : j < 8
  · simp [h1]
  by_cases h2 : j < 16
  · simp [h1, show j - 8 < 8 by omega, show 8 + (j - 8) = j by omega]
  by_cases h3 : j < 24
  · simp [h1, show ¬ j - 8 < 8 by omega, show j - 8 - 8 < 8 by omega, show 16 + (j - 8 - 8) = j by omega]
  · simp [h1, show ¬ j - 8 < 8 by omega, show ¬ j - 8 - 8 < 8 by omega, show j - 8 - 8 - 8 < 8 by omega, show 24 + (j - 8 - 8 - 8) = j by omega]
/-- A field put together from its parts, at its own width. -/
def six (x : BitVec 6) : BitVec 6 := x
@[inherit_doc six] def twelve (x : BitVec 12) : BitVec 12 := x
@[inherit_doc six] def four (x : BitVec 4) : BitVec 4 := x
theorem cmp_p (comb : BitVec 2) (p : BitVec 3) : (six (0#1 ++ comb ++ p)).extractLsb' 0 3 = p := by
  revert comb p; decide
theorem cmp_comb (comb : BitVec 2) (p : BitVec 3) : (six (0#1 ++ comb ++ p)).extractLsb' 3 2 = comb := by
  revert comb p; decide
theorem cmp_zero (comb : BitVec 2) (p : BitVec 3) : (six (0#1 ++ comb ++ p) &&& 0x20#6) = 0#6 := by
  revert comb p; decide
theorem z3_x (p : BitVec 3) : (six (0#3 ++ p)).extractLsb' 0 3 = p := by
  revert p; decide
theorem z3_zero (p : BitVec 3) : (six (0#3 ++ p) &&& 0x38#6) = 0#6 := by
  revert p; decide
theorem z2_x (h : BitVec 4) : (six (0#2 ++ h)).extractLsb' 0 4 = h := by
  revert h; decide
theorem z2_zero (h : BitVec 4) : (six (0#2 ++ h) &&& 0x30#6) = 0#6 := by
  revert h; decide
theorem z4_x (h : BitVec 2) : (six (0#4 ++ h)).extractLsb' 0 2 = h := by
  revert h; decide
theorem z4_zero (h : BitVec 2) : (six (0#4 ++ h) &&& 0x3C#6) = 0#6 := by
  revert h; decide
theorem acc_x (span : BitVec 2) (acc : BitVec 3) : (six (0#1 ++ span ++ acc)).extractLsb' 0 3 = acc := by
  revert span acc; decide
theorem acc_y (span : BitVec 2) (acc : BitVec 3) : (six (0#1 ++ span ++ acc)).extractLsb' 3 2 = span := by
  revert span acc; decide
theorem acc_zero (span : BitVec 2) (acc : BitVec 3) : (six (0#1 ++ span ++ acc) &&& 0x20#6) = 0#6 := by
  revert span acc; decide
theorem vote_p (n : Bool) (p : BitVec 3) : (six (0#2 ++ BitVec.ofBool n ++ p)).extractLsb' 0 3 = p := by
  revert n p; decide
theorem vote_n (n : Bool) (p : BitVec 3) : (six (0#2 ++ BitVec.ofBool n ++ p))[3] = n := by
  revert n p; decide
theorem vote_zero (n : Bool) (p : BitVec 3) : (six (0#2 ++ BitVec.ofBool n ++ p) &&& 0x30#6) = 0#6 := by
  revert n p; decide
theorem sreg_bit (t : Bool) : (six (0#5 ++ BitVec.ofBool t))[0] = t := by
  revert t; decide
theorem sreg_zero (t : Bool) : (six (0#5 ++ BitVec.ofBool t) &&& 0x3E#6) = 0#6 := by
  revert t; decide
theorem toNat_congr {m m' n : Nat} (x : BitVec m) (y : BitVec m') (t : BitVec n) (h : x.toNat = y.toNat) :
    (x ++ t).toNat = (y ++ t).toNat := by simp only [BitVec.toNat_append, h]
theorem append_join2 {a b c : Nat} (x : BitVec a) (y : BitVec b) (z : BitVec c) : (x ++ y ++ z).toNat = (x ++ (y ++ z)).toNat := by
  simp only [BitVec.toNat_append, Nat.shiftLeft_or_distrib, ← Nat.shiftLeft_add, Nat.or_assoc]
theorem append_join3 {a b c d : Nat} (x : BitVec a) (y : BitVec b) (z : BitVec c) (u : BitVec d) :
    (x ++ y ++ z ++ u).toNat = (x ++ (y ++ z ++ u)).toNat :=
  (toNat_congr _ _ u (append_join2 x y z)).trans (append_join2 x (y ++ z) u)
theorem append_join4 {a b c d e : Nat} (x : BitVec a) (y : BitVec b) (z : BitVec c) (u : BitVec d) (v : BitVec e) :
    (x ++ y ++ z ++ u ++ v).toNat = (x ++ (y ++ z ++ u ++ v)).toNat :=
  (toNat_congr _ _ v (append_join3 x y z u)).trans (append_join2 x (y ++ z ++ u) v)
theorem append_join5 {a b c d e f : Nat} (x : BitVec a) (y : BitVec b) (z : BitVec c) (u : BitVec d) (v : BitVec e) (w : BitVec f) :
    (x ++ y ++ z ++ u ++ v ++ w).toNat = (x ++ (y ++ z ++ u ++ v ++ w)).toNat :=
  (toNat_congr _ _ w (append_join4 x y z u v)).trans (append_join2 x (y ++ z ++ u ++ v) w)
theorem join_pred (m : BitVec 6) (sc : Scope) (x y : BitVec 3) (d b : BitVec 6) (k : BitVec 2) (f : BitVec 4) :
    hdr m sc (d ++ x ++ y ++ b ++ k ++ f) = hdr m sc (d ++ six (x ++ y) ++ b ++ k ++ f) := by
  unfold hdr six; congr 1
  exact BitVec.eq_of_toNat_eq (toNat_congr _ _ _ (toNat_congr _ _ _ (toNat_congr _ _ _ (append_join2 _ _ _))))
theorem join_vote (m : BitVec 6) (sc : Scope) (x : BitVec 2) (y : BitVec 1) (p : BitVec 3) (d b : BitVec 6) (k : BitVec 2) (f : BitVec 4) :
    hdr m sc (d ++ x ++ y ++ p ++ b ++ k ++ f) = hdr m sc (d ++ six (x ++ y ++ p) ++ b ++ k ++ f) := by
  unfold hdr six; congr 1
  exact BitVec.eq_of_toNat_eq (toNat_congr _ _ _ (toNat_congr _ _ _ (toNat_congr _ _ _ (append_join3 _ _ _ _))))
theorem join_acc (m : BitVec 6) (sc : Scope) (x : BitVec 1) (y : BitVec 2) (p : BitVec 3) (d b : BitVec 6) (k : BitVec 2) (f : BitVec 4) :
    hdr m sc (d ++ x ++ y ++ p ++ b ++ k ++ f) = hdr m sc (d ++ six (x ++ y ++ p) ++ b ++ k ++ f) := by
  unfold hdr six; congr 1
  exact BitVec.eq_of_toNat_eq (toNat_congr _ _ _ (toNat_congr _ _ _ (toNat_congr _ _ _ (append_join3 _ _ _ _))))
theorem join_sreg (m : BitVec 6) (sc : Scope) (x : BitVec 5) (y : BitVec 1) (d b : BitVec 6) (k : BitVec 2) (f : BitVec 4) :
    hdr m sc (d ++ x ++ y ++ b ++ k ++ f) = hdr m sc (d ++ six (x ++ y) ++ b ++ k ++ f) := by
  unfold hdr six; congr 1
  exact BitVec.eq_of_toNat_eq (toNat_congr _ _ _ (toNat_congr _ _ _ (toNat_congr _ _ _ (append_join2 _ _ _))))
theorem join_fn (m : BitVec 6) (sc : Scope) (d a b : BitVec 6) (k : BitVec 2) (x : BitVec 1) (p : BitVec 3) :
    hdr m sc (d ++ a ++ b ++ k ++ x ++ p) = hdr m sc (d ++ a ++ b ++ k ++ four (x ++ p)) := by
  unfold hdr four; congr 1
  exact BitVec.eq_of_toNat_eq (append_join2 _ _ _)
theorem join_ld (m : BitVec 6) (sc : Scope) (d a b : BitVec 6) (x : BitVec 3) (y z w : BitVec 1) :
    hdr m sc (d ++ a ++ b ++ x ++ y ++ z ++ w) = hdr m sc (d ++ a ++ b ++ six (x ++ y ++ z ++ w)) := by
  unfold hdr six; congr 1
  exact BitVec.eq_of_toNat_eq (append_join4 _ _ _ _ _)
theorem join_cvt (m : BitVec 6) (sc : Scope) (d a b : BitVec 6) (x : BitVec 2) (y z : BitVec 1) (w : BitVec 2) :
    hdr m sc (d ++ a ++ b ++ x ++ y ++ z ++ w) = hdr m sc (d ++ a ++ b ++ six (x ++ y ++ z ++ w)) := by
  unfold hdr six; congr 1
  exact BitVec.eq_of_toNat_eq (append_join4 _ _ _ _ _)
theorem join_atom (m : BitVec 6) (sc : Scope) (d a b : BitVec 6) (x : BitVec 1) (y : BitVec 5) :
    hdr m sc (d ++ a ++ b ++ x ++ y) = hdr m sc (d ++ a ++ b ++ six (x ++ y)) := by
  unfold hdr six; congr 1
  exact BitVec.eq_of_toNat_eq (append_join2 _ _ _)
theorem join_lds (m : BitVec 6) (sc : Scope) (d a : BitVec 6) (x : BitVec 3) (y : BitVec 1) (z : BitVec 3) (u : BitVec 1) (w : BitVec 4) :
    hdr m sc (d ++ a ++ x ++ y ++ z ++ u ++ w) = hdr m sc (d ++ a ++ twelve (x ++ y ++ z ++ u ++ w)) := by
  unfold hdr twelve; congr 1
  exact BitVec.eq_of_toNat_eq (append_join5 _ _ _ _ _ _)

section
variable (m : BitVec 6) (sc : Scope) (d a b : BitVec 6) (t : BitVec 6)
theorem tForm_d : (hdr m sc (d ++ a ++ b ++ t)).extractLsb' 18 6 = d := by
  rw [hdr_body _ _ _ _ _ (by omega)]
  show BitVec.extractLsb' (n := 6 + 6 + 6 + 6) 18 6 (d ++ a ++ b ++ t) = d
  rw [extract_append_high _ _ _ _ (by omega), extract_append_high _ _ _ _ (by omega), extract_append_high _ _ _ _ (by omega)]
  simp
theorem tForm_a : (hdr m sc (d ++ a ++ b ++ t)).extractLsb' 12 6 = a := by
  rw [hdr_body _ _ _ _ _ (by omega)]
  show BitVec.extractLsb' (n := 6 + 6 + 6 + 6) 12 6 (d ++ a ++ b ++ t) = a
  rw [extract_append_high _ _ _ _ (by omega), extract_append_high _ _ _ _ (by omega), extract_append_low _ _ _ _ (by omega)]
  simp
theorem tForm_b : (hdr m sc (d ++ a ++ b ++ t)).extractLsb' 6 6 = b := by
  rw [hdr_body _ _ _ _ _ (by omega)]
  show BitVec.extractLsb' (n := 6 + 6 + 6 + 6) 6 6 (d ++ a ++ b ++ t) = b
  rw [extract_append_high _ _ _ _ (by omega), extract_append_low _ _ _ _ (by omega)]
  simp
theorem tForm_x (i k : Nat) (h : i + k ≤ 6) : (hdr m sc (d ++ a ++ b ++ t)).extractLsb' i k = t.extractLsb' i k := by
  rw [hdr_body _ _ _ _ _ (by omega)]
  show BitVec.extractLsb' (n := 6 + 6 + 6 + 6) i k (d ++ a ++ b ++ t) = _
  rw [extract_append_low _ _ _ _ (by omega)]
theorem tForm_bit (i : Nat) (h : i < 6) : (hdr m sc (d ++ a ++ b ++ t)).getLsbD i = t.getLsbD i := by
  simp only [hdr, BitVec.getLsbD_append]; rw [if_pos (by omega), if_pos (by omega)]
end
section
variable (m : BitVec 6) (sc : Scope) (d a : BitVec 6) (t : BitVec 12)
theorem uForm_d : (hdr m sc (d ++ a ++ t)).extractLsb' 18 6 = d := by
  rw [hdr_body _ _ _ _ _ (by omega)]
  show BitVec.extractLsb' (n := 6 + 6 + 12) 18 6 (d ++ a ++ t) = d
  rw [extract_append_high _ _ _ _ (by omega), extract_append_high _ _ _ _ (by omega)]
  simp
theorem uForm_a : (hdr m sc (d ++ a ++ t)).extractLsb' 12 6 = a := by
  rw [hdr_body _ _ _ _ _ (by omega)]
  show BitVec.extractLsb' (n := 6 + 6 + 12) 12 6 (d ++ a ++ t) = a
  rw [extract_append_high _ _ _ _ (by omega), extract_append_low _ _ _ _ (by omega)]
  simp
theorem uForm_x (i k : Nat) (h : i + k ≤ 12) : (hdr m sc (d ++ a ++ t)).extractLsb' i k = t.extractLsb' i k := by
  rw [hdr_body _ _ _ _ _ (by omega)]
  show BitVec.extractLsb' (n := 6 + 6 + 12) i k (d ++ a ++ t) = _
  rw [extract_append_low _ _ _ _ (by omega)]
theorem uForm_bit (i : Nat) (h : i < 12) : (hdr m sc (d ++ a ++ t)).getLsbD i = t.getLsbD i := by
  simp only [hdr, BitVec.getLsbD_append]; rw [if_pos (by omega), if_pos (by omega)]
end
theorem ld_size (x : BitVec 3) (y : Bool) (z : Bool) : (six (x ++ BitVec.ofBool y ++ BitVec.ofBool z ++ 0#1)).extractLsb' 3 3 = x := by
  revert x y z; decide
theorem ld_sx (x : BitVec 3) (y : Bool) (z : Bool) : (six (x ++ BitVec.ofBool y ++ BitVec.ofBool z ++ 0#1)).getLsbD 2 = y := by
  revert x y z; decide
theorem ld_as (x : BitVec 3) (y : Bool) (z : Bool) : (six (x ++ BitVec.ofBool y ++ BitVec.ofBool z ++ 0#1)).getLsbD 1 = z := by
  revert x y z; decide
theorem ld_0 (x : BitVec 3) (y : Bool) (z : Bool) : (six (x ++ BitVec.ofBool y ++ BitVec.ofBool z ++ 0#1)).getLsbD 0 = false := by
  revert x y z; decide
theorem cvt_k (y : Bool) (r : BitVec 2) : (six (2#2 ++ 0#1 ++ BitVec.ofBool y ++ r)).extractLsb' 3 3 = 4#3 := by
  revert y r; decide
theorem cvt_sat (y : Bool) (r : BitVec 2) : (six (2#2 ++ 0#1 ++ BitVec.ofBool y ++ r)).getLsbD 2 = y := by
  revert y r; decide
theorem cvt_rnd (y : Bool) (r : BitVec 2) : (six (2#2 ++ 0#1 ++ BitVec.ofBool y ++ r)).extractLsb' 0 2 = r := by
  revert y r; decide
theorem atom_fn (y : Bool) (f : BitVec 5) : (six (BitVec.ofBool y ++ f)).extractLsb' 0 5 = f := by
  revert y f; decide
theorem atom_w (y : Bool) (f : BitVec 5) : (six (BitVec.ofBool y ++ f)).getLsbD 5 = y := by
  revert y f; decide
theorem atomf_fn (f : BitVec 5) : (six (0#1 ++ f)).extractLsb' 0 5 = f := by
  revert f; decide
theorem atomf_w (f : BitVec 5) : (six (0#1 ++ f)).getLsbD 5 = false := by
  revert f; decide
theorem lds_0 (x : BitVec 3) (g : Bool) (y : BitVec 3) (z : Bool) : (twelve (x ++ BitVec.ofBool g ++ y ++ BitVec.ofBool z ++ 0#4)).extractLsb' 0 4 = 0#4 := by
  revert x g y z; decide
theorem lds_ok (x : BitVec 3) (g : Bool) (y : BitVec 3) (z : Bool) : (twelve (x ++ BitVec.ofBool g ++ y ++ BitVec.ofBool z ++ 0#4)).getLsbD 4 = z := by
  revert x g y z; decide
theorem lds_size (x : BitVec 3) (g : Bool) (y : BitVec 3) (z : Bool) : (twelve (x ++ BitVec.ofBool g ++ y ++ BitVec.ofBool z ++ 0#4)).extractLsb' 5 3 = y := by
  revert x g y z; decide
theorem lds_g (x : BitVec 3) (g : Bool) (y : BitVec 3) (z : Bool) : (twelve (x ++ BitVec.ofBool g ++ y ++ BitVec.ofBool z ++ 0#4)).getLsbD 8 = g := by
  revert x g y z; decide
theorem lds_alloc (x : BitVec 3) (g : Bool) (y : BitVec 3) (z : Bool) : (twelve (x ++ BitVec.ofBool g ++ y ++ BitVec.ofBool z ++ 0#4)).extractLsb' 9 3 = x := by
  revert x g y z; decide
theorem mm_acc (m : BitVec 6) (sc : Scope) (acc : BitVec 3) (span : BitVec 2) (hA : BitVec 4) (hB : BitVec 4) (ks : BitVec 6) (fl : BitVec 5) : (hdr m sc (acc ++ span ++ hA ++ hB ++ ks ++ fl)).extractLsb' 21 3 = acc := by
  rw [hdr_body _ _ _ _ _ (by omega)]
  show BitVec.extractLsb' (n := 3 + 2 + 4 + 4 + 6 + 5) 21 3 (acc ++ span ++ hA ++ hB ++ ks ++ fl) = acc
  rw [extract_append_high _ _ _ _ (by omega), extract_append_high _ _ _ _ (by omega), extract_append_high _ _ _ _ (by omega), extract_append_high _ _ _ _ (by omega), extract_append_high _ _ _ _ (by omega)]
  simp
theorem mm_span (m : BitVec 6) (sc : Scope) (acc : BitVec 3) (span : BitVec 2) (hA : BitVec 4) (hB : BitVec 4) (ks : BitVec 6) (fl : BitVec 5) : (hdr m sc (acc ++ span ++ hA ++ hB ++ ks ++ fl)).extractLsb' 19 2 = span := by
  rw [hdr_body _ _ _ _ _ (by omega)]
  show BitVec.extractLsb' (n := 3 + 2 + 4 + 4 + 6 + 5) 19 2 (acc ++ span ++ hA ++ hB ++ ks ++ fl) = span
  rw [extract_append_high _ _ _ _ (by omega), extract_append_high _ _ _ _ (by omega), extract_append_high _ _ _ _ (by omega), extract_append_high _ _ _ _ (by omega), extract_append_low _ _ _ _ (by omega)]
  simp
theorem mm_hA (m : BitVec 6) (sc : Scope) (acc : BitVec 3) (span : BitVec 2) (hA : BitVec 4) (hB : BitVec 4) (ks : BitVec 6) (fl : BitVec 5) : (hdr m sc (acc ++ span ++ hA ++ hB ++ ks ++ fl)).extractLsb' 15 4 = hA := by
  rw [hdr_body _ _ _ _ _ (by omega)]
  show BitVec.extractLsb' (n := 3 + 2 + 4 + 4 + 6 + 5) 15 4 (acc ++ span ++ hA ++ hB ++ ks ++ fl) = hA
  rw [extract_append_high _ _ _ _ (by omega), extract_append_high _ _ _ _ (by omega), extract_append_high _ _ _ _ (by omega), extract_append_low _ _ _ _ (by omega)]
  simp
theorem mm_hB (m : BitVec 6) (sc : Scope) (acc : BitVec 3) (span : BitVec 2) (hA : BitVec 4) (hB : BitVec 4) (ks : BitVec 6) (fl : BitVec 5) : (hdr m sc (acc ++ span ++ hA ++ hB ++ ks ++ fl)).extractLsb' 11 4 = hB := by
  rw [hdr_body _ _ _ _ _ (by omega)]
  show BitVec.extractLsb' (n := 3 + 2 + 4 + 4 + 6 + 5) 11 4 (acc ++ span ++ hA ++ hB ++ ks ++ fl) = hB
  rw [extract_append_high _ _ _ _ (by omega), extract_append_high _ _ _ _ (by omega), extract_append_low _ _ _ _ (by omega)]
  simp
theorem mm_ks (m : BitVec 6) (sc : Scope) (acc : BitVec 3) (span : BitVec 2) (hA : BitVec 4) (hB : BitVec 4) (ks : BitVec 6) (fl : BitVec 5) : (hdr m sc (acc ++ span ++ hA ++ hB ++ ks ++ fl)).extractLsb' 5 6 = ks := by
  rw [hdr_body _ _ _ _ _ (by omega)]
  show BitVec.extractLsb' (n := 3 + 2 + 4 + 4 + 6 + 5) 5 6 (acc ++ span ++ hA ++ hB ++ ks ++ fl) = ks
  rw [extract_append_high _ _ _ _ (by omega), extract_append_low _ _ _ _ (by omega)]
  simp
theorem mm_fl (m : BitVec 6) (sc : Scope) (acc : BitVec 3) (span : BitVec 2) (hA : BitVec 4) (hB : BitVec 4) (ks : BitVec 6) (fl : BitVec 5) : (hdr m sc (acc ++ span ++ hA ++ hB ++ ks ++ fl)).extractLsb' 0 5 = fl := by
  rw [hdr_body _ _ _ _ _ (by omega)]
  show BitVec.extractLsb' (n := 3 + 2 + 4 + 4 + 6 + 5) 0 5 (acc ++ span ++ hA ++ hB ++ ks ++ fl) = fl
  rw [extract_append_low _ _ _ _ (by omega)]
  simp
theorem wt_l (m : BitVec 6) (sc : Scope) (l : BitVec 6) (s : BitVec 6) (c : BitVec 6) (t : BitVec 6) : (hdr m sc (l ++ s ++ c ++ t)).extractLsb' 18 6 = l := by
  rw [hdr_body _ _ _ _ _ (by omega)]
  show BitVec.extractLsb' (n := 6 + 6 + 6 + 6) 18 6 (l ++ s ++ c ++ t) = l
  rw [extract_append_high _ _ _ _ (by omega), extract_append_high _ _ _ _ (by omega), extract_append_high _ _ _ _ (by omega)]
  simp
theorem wt_s (m : BitVec 6) (sc : Scope) (l : BitVec 6) (s : BitVec 6) (c : BitVec 6) (t : BitVec 6) : (hdr m sc (l ++ s ++ c ++ t)).extractLsb' 12 6 = s := by
  rw [hdr_body _ _ _ _ _ (by omega)]
  show BitVec.extractLsb' (n := 6 + 6 + 6 + 6) 12 6 (l ++ s ++ c ++ t) = s
  rw [extract_append_high _ _ _ _ (by omega), extract_append_high _ _ _ _ (by omega), extract_append_low _ _ _ _ (by omega)]
  simp
theorem wt_c (m : BitVec 6) (sc : Scope) (l : BitVec 6) (s : BitVec 6) (c : BitVec 6) (t : BitVec 6) : (hdr m sc (l ++ s ++ c ++ t)).extractLsb' 6 6 = c := by
  rw [hdr_body _ _ _ _ _ (by omega)]
  show BitVec.extractLsb' (n := 6 + 6 + 6 + 6) 6 6 (l ++ s ++ c ++ t) = c
  rw [extract_append_high _ _ _ _ (by omega), extract_append_low _ _ _ _ (by omega)]
  simp
theorem wt_t (m : BitVec 6) (sc : Scope) (l : BitVec 6) (s : BitVec 6) (c : BitVec 6) (t : BitVec 6) : (hdr m sc (l ++ s ++ c ++ t)).extractLsb' 0 6 = t := by
  rw [hdr_body _ _ _ _ _ (by omega)]
  show BitVec.extractLsb' (n := 6 + 6 + 6 + 6) 0 6 (l ++ s ++ c ++ t) = t
  rw [extract_append_low _ _ _ _ (by omega)]
  simp
theorem mv_d (m : BitVec 6) (sc : Scope) (d : BitVec 6) (i : BitVec 18) : (hdr m sc (d ++ i)).extractLsb' 18 6 = d := by
  rw [hdr_body _ _ _ _ _ (by omega)]
  show BitVec.extractLsb' (n := 6 + 18) 18 6 (d ++ i) = d
  rw [extract_append_high _ _ _ _ (by omega)]
  simp
theorem mv_i (m : BitVec 6) (sc : Scope) (d : BitVec 6) (i : BitVec 18) : (hdr m sc (d ++ i)).extractLsb' 0 18 = i := by
  rw [hdr_body _ _ _ _ _ (by omega)]
  show BitVec.extractLsb' (n := 6 + 18) 0 18 (d ++ i) = i
  rw [extract_append_low _ _ _ _ (by omega)]
  simp
theorem hn_k (m : BitVec 6) (sc : Scope) (k : BitVec 4) (p : BitVec 20) : (hdr m sc (k ++ p)).extractLsb' 20 4 = k := by
  rw [hdr_body _ _ _ _ _ (by omega)]
  show BitVec.extractLsb' (n := 4 + 20) 20 4 (k ++ p) = k
  rw [extract_append_high _ _ _ _ (by omega)]
  simp
theorem hn_p (m : BitVec 6) (sc : Scope) (k : BitVec 4) (p : BitVec 20) : (hdr m sc (k ++ p)).extractLsb' 0 20 = p := by
  rw [hdr_body _ _ _ _ _ (by omega)]
  show BitVec.extractLsb' (n := 4 + 20) 0 20 (k ++ p) = p
  rw [extract_append_low _ _ _ _ (by omega)]
  simp
theorem br_p (m : BitVec 6) (sc : Scope) (p : BitVec 3) (n : BitVec 1) (disp : BitVec 20) : (hdr m sc (p ++ n ++ disp)).extractLsb' 21 3 = p := by
  rw [hdr_body _ _ _ _ _ (by omega)]
  show BitVec.extractLsb' (n := 3 + 1 + 20) 21 3 (p ++ n ++ disp) = p
  rw [extract_append_high _ _ _ _ (by omega), extract_append_high _ _ _ _ (by omega)]
  simp
theorem br_n (m : BitVec 6) (sc : Scope) (p : BitVec 3) (n : BitVec 1) (disp : BitVec 20) : (hdr m sc (p ++ n ++ disp)).extractLsb' 20 1 = n := by
  rw [hdr_body _ _ _ _ _ (by omega)]
  show BitVec.extractLsb' (n := 3 + 1 + 20) 20 1 (p ++ n ++ disp) = n
  rw [extract_append_high _ _ _ _ (by omega), extract_append_low _ _ _ _ (by omega)]
  simp
theorem br_disp (m : BitVec 6) (sc : Scope) (p : BitVec 3) (n : BitVec 1) (disp : BitVec 20) : (hdr m sc (p ++ n ++ disp)).extractLsb' 0 20 = disp := by
  rw [hdr_body _ _ _ _ _ (by omega)]
  show BitVec.extractLsb' (n := 3 + 1 + 20) 0 20 (p ++ n ++ disp) = disp
  rw [extract_append_low _ _ _ _ (by omega)]
  simp
theorem br_bit (m : BitVec 6) (sc : Scope) (p : BitVec 3) (n : Bool) (disp : BitVec 20) :
    (hdr m sc (p ++ BitVec.ofBool n ++ disp)).getLsbD 20 = n := by
  simp only [hdr, BitVec.getLsbD_append]; simp

theorem opbBitsRelit (o : Opb) (l : Word) : (o.relit l).bits = o.bits := by cases o <;> rfl
theorem selCase (sc : Scope) (d a : Reg) (o : Opb) (p : BitVec 3) (h : p ≠ 0#3) :
    decMovsel sc d a o (four (0#1 ++ p)).toNat = some (.sel sc p d a o) := by
  have : p = 0#3 ∨ p = 1#3 ∨ p = 2#3 ∨ p = 3#3 ∨ p = 4#3 ∨ p = 5#3 ∨ p = 6#3 ∨ p = 7#3 := by
    clear h; revert p; decide
  rcases this with rfl | rfl | rfl | rfl | rfl | rfl | rfl | rfl
  · exact absurd rfl h
  all_goals rfl
theorem rForm_low (m : BitVec 6) (sc : Scope) (d a b : BitVec 6) (k : BitVec 2) (f : BitVec 4) :
    (hdr m sc (d ++ a ++ b ++ k ++ f)).extractLsb' 0 6 = k ++ f := by
  rw [hdr_body _ _ _ _ _ (by omega)]
  apply BitVec.eq_of_getLsbD_eq
  intro j hj
  simp only [BitVec.getLsbD_extractLsb', BitVec.getLsbD_append, hj]
  repeat' split
  all_goals first | simp; done | omega | (simp; congr 1; omega)

theorem decodeBytes_plain (w : Word) (i : Instr) (h : decodeWord w 0 = some i) (hl : i.hasLit = false) (rest : List Byte) :
    decodeBytes (bytesOfWord w ++ rest) = .ok (i, rest) := by
  simp only [bytesOfWord, List.cons_append, List.nil_append, decodeBytes, wordOf_bytes, h, hl]
  rfl

theorem decodeBytes_lit (w l : Word) (i j : Instr) (h : decodeWord w 0 = some i) (hl : i.hasLit = true)
    (hj : decodeWord w l = some j) (rest : List Byte) :
    decodeBytes (bytesOfWord w ++ (bytesOfWord l ++ rest)) = .ok (j, rest) := by
  simp only [bytesOfWord, List.cons_append, List.nil_append, decodeBytes, wordOf_bytes, h, hl, hj, if_true]

theorem roundPlain (i : Instr) (w : Word) (ho : i.opb? = none) (hw : i.word? = some w) (h : ∀ l, decodeWord w l = some i)
    (rest : List Byte) : decodeBytes (encodeBytes i ++ rest) = .ok (i, rest) := by
  simp only [encodeBytes, encode, hw, ho, List.flatMap_cons, List.flatMap_nil, List.append_nil]
  exact decodeBytes_plain w i (h 0) (by simp only [Instr.hasLit, ho]) rest

theorem roundOpb (f : Opb → Instr) (o : Opb) (w : Word) (ho : ∀ x, (f x).opb? = some x) (hw : (f o).word? = some w)
    (h : ∀ l, decodeWord w l = some (f (o.relit l))) (rest : List Byte) :
    decodeBytes (encodeBytes (f o) ++ rest) = .ok (f o, rest) := by
  cases o with
  | lit x =>
    simp only [encodeBytes, encode, hw, ho, Opb.tail, List.flatMap_cons, List.flatMap_nil, List.append_nil, List.append_assoc]
    exact decodeBytes_lit w x _ _ (h 0) (by simp only [Instr.hasLit, ho, Opb.relit, Opb.isLit]) (h x) rest
  | _ =>
    simp only [encodeBytes, encode, hw, ho, Opb.tail, List.flatMap_cons, List.flatMap_nil, List.append_nil]
    exact decodeBytes_plain w _ (h 0) (by simp only [Instr.hasLit, ho, Opb.relit, Opb.isLit]) rest
theorem decodeMajor_1 (w l : Word) (h : w.extractLsb' 26 6 = 1#6) : decodeWord w l = decIalu (Scope.ofBits (w.extractLsb' 24 2)) (w.extractLsb' 18 6) (w.extractLsb' 12 6) (opbOf (w.extractLsb' 4 2) (w.extractLsb' 6 6) l) (w.extractLsb' 0 4).toNat := by
  unfold decodeWord; rw [h]; rfl
theorem decodeMajor_2 (w l : Word) (h : w.extractLsb' 26 6 = 2#6) : decodeWord w l = decLogic (Scope.ofBits (w.extractLsb' 24 2)) (w.extractLsb' 18 6) (w.extractLsb' 12 6) (opbOf (w.extractLsb' 4 2) (w.extractLsb' 6 6) l) (w.extractLsb' 0 4).toNat := by
  unfold decodeWord; rw [h]; rfl
theorem decodeMajor_3 (w l : Word) (h : w.extractLsb' 26 6 = 3#6) : decodeWord w l = decBitf (Scope.ofBits (w.extractLsb' 24 2)) (w.extractLsb' 18 6) (w.extractLsb' 12 6) (opbOf (w.extractLsb' 4 2) (w.extractLsb' 6 6) l) (w.extractLsb' 0 4).toNat := by
  unfold decodeWord; rw [h]; rfl
theorem decodeMajor_4 (w l : Word) (h : w.extractLsb' 26 6 = 4#6) : decodeWord w l = decIcmp (Scope.ofBits (w.extractLsb' 24 2)) (w.extractLsb' 18 6) (w.extractLsb' 12 6) (opbOf (w.extractLsb' 4 2) (w.extractLsb' 6 6) l) (w.extractLsb' 0 4).toNat := by
  unfold decodeWord; rw [h]; rfl
theorem decodeMajor_5 (w l : Word) (h : w.extractLsb' 26 6 = 5#6) : decodeWord w l = decImad (Scope.ofBits (w.extractLsb' 24 2)) (w.extractLsb' 18 6) (w.extractLsb' 12 6) (opbOf (w.extractLsb' 4 2) (w.extractLsb' 6 6) l) (w.extractLsb' 0 4).toNat := by
  unfold decodeWord; rw [h]; rfl
theorem decodeMajor_6 (w l : Word) (h : w.extractLsb' 26 6 = 6#6) : decodeWord w l = decMovsel (Scope.ofBits (w.extractLsb' 24 2)) (w.extractLsb' 18 6) (w.extractLsb' 12 6) (opbOf (w.extractLsb' 4 2) (w.extractLsb' 6 6) l) (w.extractLsb' 0 4).toNat := by
  unfold decodeWord; rw [h]; rfl
theorem decodeMajor_7 (w l : Word) (h : w.extractLsb' 26 6 = 7#6) : decodeWord w l = decCvt w (Scope.ofBits (w.extractLsb' 24 2)) (w.extractLsb' 18 6) (w.extractLsb' 12 6) := by
  unfold decodeWord; rw [h]; rfl
theorem decodeMajor_8 (w l : Word) (h : w.extractLsb' 26 6 = 8#6) : decodeWord w l = decFalu (Scope.ofBits (w.extractLsb' 24 2)) (w.extractLsb' 18 6) (w.extractLsb' 12 6) (opbOf (w.extractLsb' 4 2) (w.extractLsb' 6 6) l) (w.extractLsb' 0 4).toNat := by
  unfold decodeWord; rw [h]; rfl
theorem decodeMajor_9 (w l : Word) (h : w.extractLsb' 26 6 = 9#6) : decodeWord w l = decFcmp (Scope.ofBits (w.extractLsb' 24 2)) (w.extractLsb' 18 6) (w.extractLsb' 12 6) (opbOf (w.extractLsb' 4 2) (w.extractLsb' 6 6) l) (w.extractLsb' 0 4).toNat := by
  unfold decodeWord; rw [h]; rfl
theorem decodeMajor_10 (w l : Word) (h : w.extractLsb' 26 6 = 10#6) : decodeWord w l = decSfu (Scope.ofBits (w.extractLsb' 24 2)) (w.extractLsb' 18 6) (w.extractLsb' 12 6) (opbOf (w.extractLsb' 4 2) (w.extractLsb' 6 6) l) (w.extractLsb' 0 4).toNat := by
  unfold decodeWord; rw [h]; rfl
theorem decodeMajor_11 (w l : Word) (h : w.extractLsb' 26 6 = 11#6) : decodeWord w l = decPk16 (Scope.ofBits (w.extractLsb' 24 2)) (w.extractLsb' 18 6) (w.extractLsb' 12 6) (opbOf (w.extractLsb' 4 2) (w.extractLsb' 6 6) l) (w.extractLsb' 0 4).toNat := by
  unfold decodeWord; rw [h]; rfl
theorem decodeMajor_12 (w l : Word) (h : w.extractLsb' 26 6 = 12#6) : decodeWord w l = decDot (Scope.ofBits (w.extractLsb' 24 2)) (w.extractLsb' 18 6) (w.extractLsb' 12 6) (opbOf (w.extractLsb' 4 2) (w.extractLsb' 6 6) l) (w.extractLsb' 0 4).toNat := by
  unfold decodeWord; rw [h]; rfl
theorem decodeMajor_13 (w l : Word) (h : w.extractLsb' 26 6 = 13#6) : decodeWord w l = decMovi w (Scope.ofBits (w.extractLsb' 24 2)) (w.extractLsb' 18 6) := by
  unfold decodeWord; rw [h]; rfl
theorem decodeMajor_14 (w l : Word) (h : w.extractLsb' 26 6 = 14#6) : decodeWord w l = decSmovi w (Scope.ofBits (w.extractLsb' 24 2)) (w.extractLsb' 18 6) := by
  unfold decodeWord; rw [h]; rfl
theorem decodeMajor_16 (w l : Word) (h : w.extractLsb' 26 6 = 16#6) : decodeWord w l = decLd w (Scope.ofBits (w.extractLsb' 24 2)) (w.extractLsb' 18 6) (w.extractLsb' 12 6) := by
  unfold decodeWord; rw [h]; rfl
theorem decodeMajor_17 (w l : Word) (h : w.extractLsb' 26 6 = 17#6) : decodeWord w l = decSt w (Scope.ofBits (w.extractLsb' 24 2)) (w.extractLsb' 18 6) (w.extractLsb' 12 6) := by
  unfold decodeWord; rw [h]; rfl
theorem decodeMajor_18 (w l : Word) (h : w.extractLsb' 26 6 = 18#6) : decodeWord w l = decLds w (Scope.ofBits (w.extractLsb' 24 2)) (w.extractLsb' 18 6) (w.extractLsb' 12 6) := by
  unfold decodeWord; rw [h]; rfl
theorem decodeMajor_19 (w l : Word) (h : w.extractLsb' 26 6 = 19#6) : decodeWord w l = decLdc (Scope.ofBits (w.extractLsb' 24 2)) (w.extractLsb' 18 6) (w.extractLsb' 12 6) (opbOf (w.extractLsb' 4 2) (w.extractLsb' 6 6) l) (w.extractLsb' 0 4).toNat := by
  unfold decodeWord; rw [h]; rfl
theorem decodeMajor_20 (w l : Word) (h : w.extractLsb' 26 6 = 20#6) : decodeWord w l = decLdmc w (Scope.ofBits (w.extractLsb' 24 2)) (w.extractLsb' 18 6) (w.extractLsb' 12 6) := by
  unfold decodeWord; rw [h]; rfl
theorem decodeMajor_21 (w l : Word) (h : w.extractLsb' 26 6 = 21#6) : decodeWord w l = decAtom w (Scope.ofBits (w.extractLsb' 24 2)) (w.extractLsb' 18 6) (w.extractLsb' 12 6) := by
  unfold decodeWord; rw [h]; rfl
theorem decodeMajor_22 (w l : Word) (h : w.extractLsb' 26 6 = 22#6) : decodeWord w l = decRed w (Scope.ofBits (w.extractLsb' 24 2)) (w.extractLsb' 18 6) (w.extractLsb' 12 6) := by
  unfold decodeWord; rw [h]; rfl
theorem decodeMajor_23 (w l : Word) (h : w.extractLsb' 26 6 = 23#6) : decodeWord w l = decCbuf (Scope.ofBits (w.extractLsb' 24 2)) (w.extractLsb' 18 6) (w.extractLsb' 12 6) (opbOf (w.extractLsb' 4 2) (w.extractLsb' 6 6) l) (w.extractLsb' 0 4).toNat := by
  unfold decodeWord; rw [h]; rfl
theorem decodeMajor_24 (w l : Word) (h : w.extractLsb' 26 6 = 24#6) : decodeWord w l = decFence (Scope.ofBits (w.extractLsb' 24 2)) (w.extractLsb' 18 6) (w.extractLsb' 12 6) (opbOf (w.extractLsb' 4 2) (w.extractLsb' 6 6) l) (w.extractLsb' 0 4).toNat := by
  unfold decodeWord; rw [h]; rfl
theorem decodeMajor_25 (w l : Word) (h : w.extractLsb' 26 6 = 25#6) : decodeWord w l = decWctr (Scope.ofBits (w.extractLsb' 24 2)) (w.extractLsb' 18 6) (w.extractLsb' 12 6) (opbOf (w.extractLsb' 4 2) (w.extractLsb' 6 6) l) (w.extractLsb' 0 4).toNat := by
  unfold decodeWord; rw [h]; rfl
theorem decodeMajor_26 (w l : Word) (h : w.extractLsb' 26 6 = 26#6) : decodeWord w l = decBr w (Scope.ofBits (w.extractLsb' 24 2)) := by
  unfold decodeWord; rw [h]; rfl
theorem decodeMajor_27 (w l : Word) (h : w.extractLsb' 26 6 = 27#6) : decodeWord w l = decCtrl (Scope.ofBits (w.extractLsb' 24 2)) (w.extractLsb' 18 6) (w.extractLsb' 12 6) (opbOf (w.extractLsb' 4 2) (w.extractLsb' 6 6) l) (w.extractLsb' 0 4).toNat := by
  unfold decodeWord; rw [h]; rfl
theorem decodeMajor_28 (w l : Word) (h : w.extractLsb' 26 6 = 28#6) : decodeWord w l = decSalu (Scope.ofBits (w.extractLsb' 24 2)) (w.extractLsb' 18 6) (w.extractLsb' 12 6) (opbOf (w.extractLsb' 4 2) (w.extractLsb' 6 6) l) (w.extractLsb' 0 4).toNat := by
  unfold decodeWord; rw [h]; rfl
theorem decodeMajor_29 (w l : Word) (h : w.extractLsb' 26 6 = 29#6) : decodeWord w l = decScmp (Scope.ofBits (w.extractLsb' 24 2)) (w.extractLsb' 18 6) (w.extractLsb' 12 6) (opbOf (w.extractLsb' 4 2) (w.extractLsb' 6 6) l) (w.extractLsb' 0 4).toNat := by
  unfold decodeWord; rw [h]; rfl
theorem decodeMajor_30 (w l : Word) (h : w.extractLsb' 26 6 = 30#6) : decodeWord w l = decShfl (Scope.ofBits (w.extractLsb' 24 2)) (w.extractLsb' 18 6) (w.extractLsb' 12 6) (opbOf (w.extractLsb' 4 2) (w.extractLsb' 6 6) l) (w.extractLsb' 0 4).toNat := by
  unfold decodeWord; rw [h]; rfl
theorem decodeMajor_31 (w l : Word) (h : w.extractLsb' 26 6 = 31#6) : decodeWord w l = decVote (Scope.ofBits (w.extractLsb' 24 2)) (w.extractLsb' 18 6) (w.extractLsb' 12 6) (opbOf (w.extractLsb' 4 2) (w.extractLsb' 6 6) l) (w.extractLsb' 0 4).toNat := by
  unfold decodeWord; rw [h]; rfl
theorem decodeMajor_32 (w l : Word) (h : w.extractLsb' 26 6 = 32#6) : decodeWord w l = decLred w (Scope.ofBits (w.extractLsb' 24 2)) (w.extractLsb' 18 6) (w.extractLsb' 12 6) := by
  unfold decodeWord; rw [h]; rfl
theorem decodeMajor_33 (w l : Word) (h : w.extractLsb' 26 6 = 33#6) : decodeWord w l = decXchg (Scope.ofBits (w.extractLsb' 24 2)) (w.extractLsb' 18 6) (w.extractLsb' 12 6) (opbOf (w.extractLsb' 4 2) (w.extractLsb' 6 6) l) (w.extractLsb' 0 4).toNat := by
  unfold decodeWord; rw [h]; rfl
theorem decodeMajor_34 (w l : Word) (h : w.extractLsb' 26 6 = 34#6) : decodeWord w l = decTshape (Scope.ofBits (w.extractLsb' 24 2)) (w.extractLsb' 18 6) (w.extractLsb' 12 6) (opbOf (w.extractLsb' 4 2) (w.extractLsb' 6 6) l) (w.extractLsb' 0 4).toNat := by
  unfold decodeWord; rw [h]; rfl
theorem decodeMajor_35 (w l : Word) (h : w.extractLsb' 26 6 = 35#6) : decodeWord w l = decMmloop w (Scope.ofBits (w.extractLsb' 24 2)) := by
  unfold decodeWord; rw [h]; rfl
theorem decodeMajor_36 (w l : Word) (h : w.extractLsb' 26 6 = 36#6) : decodeWord w l = decMmidx (Scope.ofBits (w.extractLsb' 24 2)) (w.extractLsb' 18 6) (w.extractLsb' 12 6) (opbOf (w.extractLsb' 4 2) (w.extractLsb' 6 6) l) (w.extractLsb' 0 4).toNat := by
  unfold decodeWord; rw [h]; rfl
theorem decodeMajor_37 (w l : Word) (h : w.extractLsb' 26 6 = 37#6) : decodeWord w l = decAcc (Scope.ofBits (w.extractLsb' 24 2)) (w.extractLsb' 18 6) (w.extractLsb' 12 6) (opbOf (w.extractLsb' 4 2) (w.extractLsb' 6 6) l) (w.extractLsb' 0 4).toNat := by
  unfold decodeWord; rw [h]; rfl
theorem decodeMajor_38 (w l : Word) (h : w.extractLsb' 26 6 = 38#6) : decodeWord w l = decQsm (Scope.ofBits (w.extractLsb' 24 2)) (w.extractLsb' 18 6) (w.extractLsb' 12 6) (opbOf (w.extractLsb' 4 2) (w.extractLsb' 6 6) l) (w.extractLsb' 0 4).toNat := by
  unfold decodeWord; rw [h]; rfl
theorem decodeMajor_39 (w l : Word) (h : w.extractLsb' 26 6 = 39#6) : decodeWord w l = decQapp (Scope.ofBits (w.extractLsb' 24 2)) (w.extractLsb' 18 6) (w.extractLsb' 12 6) (opbOf (w.extractLsb' 4 2) (w.extractLsb' 6 6) l) (w.extractLsb' 0 4).toNat := by
  unfold decodeWord; rw [h]; rfl
theorem decodeMajor_40 (w l : Word) (h : w.extractLsb' 26 6 = 40#6) : decodeWord w l = decTask (Scope.ofBits (w.extractLsb' 24 2)) (w.extractLsb' 18 6) (w.extractLsb' 12 6) (opbOf (w.extractLsb' 4 2) (w.extractLsb' 6 6) l) (w.extractLsb' 0 4).toNat := by
  unfold decodeWord; rw [h]; rfl
theorem decodeMajor_41 (w l : Word) (h : w.extractLsb' 26 6 = 41#6) : decodeWord w l = decWait w (Scope.ofBits (w.extractLsb' 24 2)) (w.extractLsb' 18 6) (w.extractLsb' 12 6) := by
  unfold decodeWord; rw [h]; rfl
theorem decodeMajor_42 (w l : Word) (h : w.extractLsb' 26 6 = 42#6) : decodeWord w l = decVis (Scope.ofBits (w.extractLsb' 24 2)) (w.extractLsb' 18 6) (w.extractLsb' 12 6) (opbOf (w.extractLsb' 4 2) (w.extractLsb' 6 6) l) (w.extractLsb' 0 4).toNat := by
  unfold decodeWord; rw [h]; rfl
theorem decodeMajor_43 (w l : Word) (h : w.extractLsb' 26 6 = 43#6) : decodeWord w l = decAttr (Scope.ofBits (w.extractLsb' 24 2)) (w.extractLsb' 18 6) (w.extractLsb' 12 6) (opbOf (w.extractLsb' 4 2) (w.extractLsb' 6 6) l) (w.extractLsb' 0 4).toNat := by
  unfold decodeWord; rw [h]; rfl
theorem decodeMajor_44 (w l : Word) (h : w.extractLsb' 26 6 = 44#6) : decodeWord w l = decOrd (Scope.ofBits (w.extractLsb' 24 2)) (w.extractLsb' 18 6) (w.extractLsb' 12 6) (opbOf (w.extractLsb' 4 2) (w.extractLsb' 6 6) l) (w.extractLsb' 0 4).toNat := by
  unfold decodeWord; rw [h]; rfl
theorem decodeMajor_45 (w l : Word) (h : w.extractLsb' 26 6 = 45#6) : decodeWord w l = decTex (Scope.ofBits (w.extractLsb' 24 2)) (w.extractLsb' 18 6) (w.extractLsb' 12 6) (opbOf (w.extractLsb' 4 2) (w.extractLsb' 6 6) l) (w.extractLsb' 0 4).toNat := by
  unfold decodeWord; rw [h]; rfl
theorem decodeMajor_46 (w l : Word) (h : w.extractLsb' 26 6 = 46#6) : decodeWord w l = decTrav (Scope.ofBits (w.extractLsb' 24 2)) (w.extractLsb' 18 6) (w.extractLsb' 12 6) (opbOf (w.extractLsb' 4 2) (w.extractLsb' 6 6) l) (w.extractLsb' 0 4).toNat := by
  unfold decodeWord; rw [h]; rfl
theorem decodeMajor_48 (w l : Word) (h : w.extractLsb' 26 6 = 48#6) : decodeWord w l = decReform (Scope.ofBits (w.extractLsb' 24 2)) (w.extractLsb' 18 6) (w.extractLsb' 12 6) (opbOf (w.extractLsb' 4 2) (w.extractLsb' 6 6) l) (w.extractLsb' 0 4).toNat := by
  unfold decodeWord; rw [h]; rfl
theorem decodeMajor_49 (w l : Word) (h : w.extractLsb' 26 6 = 49#6) : decodeWord w l = decPop (Scope.ofBits (w.extractLsb' 24 2)) (w.extractLsb' 18 6) (w.extractLsb' 12 6) (opbOf (w.extractLsb' 4 2) (w.extractLsb' 6 6) l) (w.extractLsb' 0 4).toNat := by
  unfold decodeWord; rw [h]; rfl
theorem decodeMajor_50 (w l : Word) (h : w.extractLsb' 26 6 = 50#6) : decodeWord w l = decSreg w (Scope.ofBits (w.extractLsb' 24 2)) (w.extractLsb' 18 6) (w.extractLsb' 12 6) (w.extractLsb' 0 4).toNat := by
  unfold decodeWord; rw [h]; rfl
theorem decodeMajor_51 (w l : Word) (h : w.extractLsb' 26 6 = 51#6) : decodeWord w l = decFlow (Scope.ofBits (w.extractLsb' 24 2)) (w.extractLsb' 18 6) (w.extractLsb' 12 6) (opbOf (w.extractLsb' 4 2) (w.extractLsb' 6 6) l) (w.extractLsb' 0 4).toNat := by
  unfold decodeWord; rw [h]; rfl
theorem decodeMajor_52 (w l : Word) (h : w.extractLsb' 26 6 = 52#6) : decodeWord w l = decSys w (Scope.ofBits (w.extractLsb' 24 2)) (w.extractLsb' 18 6) (w.extractLsb' 12 6) (opbOf (w.extractLsb' 4 2) (w.extractLsb' 6 6) l) (w.extractLsb' 0 4).toNat := by
  unfold decodeWord; rw [h]; rfl
theorem decodeMajor_53 (w l : Word) (h : w.extractLsb' 26 6 = 53#6) : decodeWord w l = decCall w (Scope.ofBits (w.extractLsb' 24 2)) := by
  unfold decodeWord; rw [h]; rfl
theorem decodeMajor_62 (w l : Word) (h : w.extractLsb' 26 6 = 62#6) : decodeWord w l = decHint w (Scope.ofBits (w.extractLsb' 24 2)) := by
  unfold decodeWord; rw [h]; rfl

end Sys2Proof
end

