-- ==== Sys2Proof/Laws/State.lean ====
section
/-! SUPPORT. What the updates of the machine's tables and of a warp's registers do to each field: one equation for each field of each
update, so that no proof unfolds a record update. -/

namespace Sys2Proof.Machine

open Sys2Proof

/-! ### `State.modField` -/

@[simp] theorem modField_agenda (s : State) (f : Nat) (g : Field → Field) : (s.modField f g).agenda = s.agenda := rfl
@[simp] theorem modField_cur (s : State) (f : Nat) (g : Field → Field) : (s.modField f g).cur = s.cur := rfl
@[simp] theorem modField_fetch (s : State) (f : Nat) (g : Field → Field) : (s.modField f g).fetch = s.fetch := rfl
@[simp] theorem modField_fresh (s : State) (f : Nat) (g : Field → Field) : (s.modField f g).fresh = s.fresh := rfl
@[simp] theorem modField_nextUid (s : State) (f : Nat) (g : Field → Field) : (s.modField f g).nextUid = s.nextUid := rfl
@[simp] theorem modField_variant (s : State) (f : Nat) (g : Field → Field) : (s.modField f g).variant = s.variant := rfl
@[simp] theorem modField_fields (s : State) (f : Nat) (g : Field → Field) : (s.modField f g).fields = mapWhere (fun x => x.number == f) g s.fields := rfl
@[simp] theorem modField_contexts (s : State) (f : Nat) (g : Field → Field) : (s.modField f g).contexts = s.contexts := rfl
@[simp] theorem modField_queues (s : State) (f : Nat) (g : Field → Field) : (s.modField f g).queues = s.queues := rfl
@[simp] theorem modField_tlb (s : State) (f : Nat) (g : Field → Field) : (s.modField f g).tlb = s.tlb := rfl
@[simp] theorem modField_misses (s : State) (f : Nat) (g : Field → Field) : (s.modField f g).misses = s.misses := rfl
@[simp] theorem modField_counted (s : State) (f : Nat) (g : Field → Field) : (s.modField f g).counted = s.counted := rfl
@[simp] theorem modField_packetOps (s : State) (f : Nat) (g : Field → Field) : (s.modField f g).packetOps = s.packetOps := rfl
@[simp] theorem modField_taskRetry (s : State) (f : Nat) (g : Field → Field) : (s.modField f g).taskRetry = s.taskRetry := rfl
@[simp] theorem modField_handles (s : State) (f : Nat) (g : Field → Field) : (s.modField f g).handles = s.handles := rfl
@[simp] theorem modField_launches (s : State) (f : Nat) (g : Field → Field) : (s.modField f g).launches = s.launches := rfl
@[simp] theorem modField_populations (s : State) (f : Nat) (g : Field → Field) : (s.modField f g).populations = s.populations := rfl
@[simp] theorem modField_blocks (s : State) (f : Nat) (g : Field → Field) : (s.modField f g).blocks = s.blocks := rfl
@[simp] theorem modField_warps (s : State) (f : Nat) (g : Field → Field) : (s.modField f g).warps = s.warps := rfl
@[simp] theorem modField_mem (s : State) (f : Nat) (g : Field → Field) : (s.modField f g).mem = s.mem := rfl
@[simp] theorem modField_stored (s : State) (f : Nat) (g : Field → Field) : (s.modField f g).stored = s.stored := rfl
@[simp] theorem modField_constCache (s : State) (f : Nat) (g : Field → Field) : (s.modField f g).constCache = s.constCache := rfl
@[simp] theorem modField_l1 (s : State) (f : Nat) (g : Field → Field) : (s.modField f g).l1 = s.l1 := rfl
@[simp] theorem modField_pend (s : State) (f : Nat) (g : Field → Field) : (s.modField f g).pend = s.pend := rfl
@[simp] theorem modField_proxy (s : State) (f : Nat) (g : Field → Field) : (s.modField f g).proxy = s.proxy := rfl
@[simp] theorem modField_sharers (s : State) (f : Nat) (g : Field → Field) : (s.modField f g).sharers = s.sharers := rfl
@[simp] theorem modField_localHome (s : State) (f : Nat) (g : Field → Field) : (s.modField f g).localHome = s.localHome := rfl
@[simp] theorem modField_slices (s : State) (f : Nat) (g : Field → Field) : (s.modField f g).slices = s.slices := rfl
@[simp] theorem modField_vaultDirty (s : State) (f : Nat) (g : Field → Field) : (s.modField f g).vaultDirty = s.vaultDirty := rfl
@[simp] theorem modField_flights (s : State) (f : Nat) (g : Field → Field) : (s.modField f g).flights = s.flights := rfl
@[simp] theorem modField_areqs (s : State) (f : Nat) (g : Field → Field) : (s.modField f g).areqs = s.areqs := rfl
@[simp] theorem modField_hostWrites (s : State) (f : Nat) (g : Field → Field) : (s.modField f g).hostWrites = s.hostWrites := rfl
@[simp] theorem modField_shadows (s : State) (f : Nat) (g : Field → Field) : (s.modField f g).shadows = s.shadows := rfl
@[simp] theorem modField_poison (s : State) (f : Nat) (g : Field → Field) : (s.modField f g).poison = s.poison := rfl
@[simp] theorem modField_badLines (s : State) (f : Nat) (g : Field → Field) : (s.modField f g).badLines = s.badLines := rfl
@[simp] theorem modField_crossings (s : State) (f : Nat) (g : Field → Field) : (s.modField f g).crossings = s.crossings := rfl
@[simp] theorem modField_accums (s : State) (f : Nat) (g : Field → Field) : (s.modField f g).accums = s.accums := rfl
@[simp] theorem modField_engine (s : State) (f : Nat) (g : Field → Field) : (s.modField f g).engine = s.engine := rfl
@[simp] theorem modField_mcReqs (s : State) (f : Nat) (g : Field → Field) : (s.modField f g).mcReqs = s.mcReqs := rfl
@[simp] theorem modField_mcSessions (s : State) (f : Nat) (g : Field → Field) : (s.modField f g).mcSessions = s.mcSessions := rfl
@[simp] theorem modField_cycles (s : State) (f : Nat) (g : Field → Field) : (s.modField f g).cycles = s.cycles := rfl
@[simp] theorem modField_copies (s : State) (f : Nat) (g : Field → Field) : (s.modField f g).copies = s.copies := rfl
@[simp] theorem modField_sessions (s : State) (f : Nat) (g : Field → Field) : (s.modField f g).sessions = s.sessions := rfl
@[simp] theorem modField_graphs (s : State) (f : Nat) (g : Field → Field) : (s.modField f g).graphs = s.graphs := rfl
@[simp] theorem modField_frames (s : State) (f : Nat) (g : Field → Field) : (s.modField f g).frames = s.frames := rfl
@[simp] theorem modField_spawn (s : State) (f : Nat) (g : Field → Field) : (s.modField f g).spawn = s.spawn := rfl
@[simp] theorem modField_ownRanges (s : State) (f : Nat) (g : Field → Field) : (s.modField f g).ownRanges = s.ownRanges := rfl
@[simp] theorem modField_notices (s : State) (f : Nat) (g : Field → Field) : (s.modField f g).notices = s.notices := rfl
@[simp] theorem modField_destroying (s : State) (f : Nat) (g : Field → Field) : (s.modField f g).destroying = s.destroying := rfl
@[simp] theorem modField_errorLog (s : State) (f : Nat) (g : Field → Field) : (s.modField f g).errorLog = s.errorLog := rfl
@[simp] theorem modField_errorCount (s : State) (f : Nat) (g : Field → Field) : (s.modField f g).errorCount = s.errorCount := rfl
@[simp] theorem modField_wear (s : State) (f : Nat) (g : Field → Field) : (s.modField f g).wear = s.wear := rfl
@[simp] theorem modField_power (s : State) (f : Nat) (g : Field → Field) : (s.modField f g).power = s.power := rfl
@[simp] theorem modField_powerLow (s : State) (f : Nat) (g : Field → Field) : (s.modField f g).powerLow = s.powerLow := rfl
@[simp] theorem modField_fuses (s : State) (f : Nat) (g : Field → Field) : (s.modField f g).fuses = s.fuses := rfl
@[simp] theorem modField_flash (s : State) (f : Nat) (g : Field → Field) : (s.modField f g).flash = s.flash := rfl
@[simp] theorem modField_hostLink (s : State) (f : Nat) (g : Field → Field) : (s.modField f g).hostLink = s.hostLink := rfl
@[simp] theorem modField_functions (s : State) (f : Nat) (g : Field → Field) : (s.modField f g).functions = s.functions := rfl
@[simp] theorem modField_posts (s : State) (f : Nat) (g : Field → Field) : (s.modField f g).posts = s.posts := rfl
@[simp] theorem modField_up (s : State) (f : Nat) (g : Field → Field) : (s.modField f g).up = s.up := rfl
@[simp] theorem modField_hostData (s : State) (f : Nat) (g : Field → Field) : (s.modField f g).hostData = s.hostData := rfl

/-! ### `State.modCtx` -/

@[simp] theorem modCtx_agenda (s : State) (f c : Nat) (g : Context → Context) : (s.modCtx f c g).agenda = s.agenda := rfl
@[simp] theorem modCtx_cur (s : State) (f c : Nat) (g : Context → Context) : (s.modCtx f c g).cur = s.cur := rfl
@[simp] theorem modCtx_fetch (s : State) (f c : Nat) (g : Context → Context) : (s.modCtx f c g).fetch = s.fetch := rfl
@[simp] theorem modCtx_fresh (s : State) (f c : Nat) (g : Context → Context) : (s.modCtx f c g).fresh = s.fresh := rfl
@[simp] theorem modCtx_nextUid (s : State) (f c : Nat) (g : Context → Context) : (s.modCtx f c g).nextUid = s.nextUid := rfl
@[simp] theorem modCtx_variant (s : State) (f c : Nat) (g : Context → Context) : (s.modCtx f c g).variant = s.variant := rfl
@[simp] theorem modCtx_fields (s : State) (f c : Nat) (g : Context → Context) : (s.modCtx f c g).fields = s.fields := rfl
@[simp] theorem modCtx_contexts (s : State) (f c : Nat) (g : Context → Context) : (s.modCtx f c g).contexts = mapWhere (fun x => x.field == f && x.ctxid == c) g s.contexts := rfl
@[simp] theorem modCtx_queues (s : State) (f c : Nat) (g : Context → Context) : (s.modCtx f c g).queues = s.queues := rfl
@[simp] theorem modCtx_tlb (s : State) (f c : Nat) (g : Context → Context) : (s.modCtx f c g).tlb = s.tlb := rfl
@[simp] theorem modCtx_misses (s : State) (f c : Nat) (g : Context → Context) : (s.modCtx f c g).misses = s.misses := rfl
@[simp] theorem modCtx_counted (s : State) (f c : Nat) (g : Context → Context) : (s.modCtx f c g).counted = s.counted := rfl
@[simp] theorem modCtx_packetOps (s : State) (f c : Nat) (g : Context → Context) : (s.modCtx f c g).packetOps = s.packetOps := rfl
@[simp] theorem modCtx_taskRetry (s : State) (f c : Nat) (g : Context → Context) : (s.modCtx f c g).taskRetry = s.taskRetry := rfl
@[simp] theorem modCtx_handles (s : State) (f c : Nat) (g : Context → Context) : (s.modCtx f c g).handles = s.handles := rfl
@[simp] theorem modCtx_launches (s : State) (f c : Nat) (g : Context → Context) : (s.modCtx f c g).launches = s.launches := rfl
@[simp] theorem modCtx_populations (s : State) (f c : Nat) (g : Context → Context) : (s.modCtx f c g).populations = s.populations := rfl
@[simp] theorem modCtx_blocks (s : State) (f c : Nat) (g : Context → Context) : (s.modCtx f c g).blocks = s.blocks := rfl
@[simp] theorem modCtx_warps (s : State) (f c : Nat) (g : Context → Context) : (s.modCtx f c g).warps = s.warps := rfl
@[simp] theorem modCtx_mem (s : State) (f c : Nat) (g : Context → Context) : (s.modCtx f c g).mem = s.mem := rfl
@[simp] theorem modCtx_stored (s : State) (f c : Nat) (g : Context → Context) : (s.modCtx f c g).stored = s.stored := rfl
@[simp] theorem modCtx_constCache (s : State) (f c : Nat) (g : Context → Context) : (s.modCtx f c g).constCache = s.constCache := rfl
@[simp] theorem modCtx_l1 (s : State) (f c : Nat) (g : Context → Context) : (s.modCtx f c g).l1 = s.l1 := rfl
@[simp] theorem modCtx_pend (s : State) (f c : Nat) (g : Context → Context) : (s.modCtx f c g).pend = s.pend := rfl
@[simp] theorem modCtx_proxy (s : State) (f c : Nat) (g : Context → Context) : (s.modCtx f c g).proxy = s.proxy := rfl
@[simp] theorem modCtx_sharers (s : State) (f c : Nat) (g : Context → Context) : (s.modCtx f c g).sharers = s.sharers := rfl
@[simp] theorem modCtx_localHome (s : State) (f c : Nat) (g : Context → Context) : (s.modCtx f c g).localHome = s.localHome := rfl
@[simp] theorem modCtx_slices (s : State) (f c : Nat) (g : Context → Context) : (s.modCtx f c g).slices = s.slices := rfl
@[simp] theorem modCtx_vaultDirty (s : State) (f c : Nat) (g : Context → Context) : (s.modCtx f c g).vaultDirty = s.vaultDirty := rfl
@[simp] theorem modCtx_flights (s : State) (f c : Nat) (g : Context → Context) : (s.modCtx f c g).flights = s.flights := rfl
@[simp] theorem modCtx_areqs (s : State) (f c : Nat) (g : Context → Context) : (s.modCtx f c g).areqs = s.areqs := rfl
@[simp] theorem modCtx_hostWrites (s : State) (f c : Nat) (g : Context → Context) : (s.modCtx f c g).hostWrites = s.hostWrites := rfl
@[simp] theorem modCtx_shadows (s : State) (f c : Nat) (g : Context → Context) : (s.modCtx f c g).shadows = s.shadows := rfl
@[simp] theorem modCtx_poison (s : State) (f c : Nat) (g : Context → Context) : (s.modCtx f c g).poison = s.poison := rfl
@[simp] theorem modCtx_badLines (s : State) (f c : Nat) (g : Context → Context) : (s.modCtx f c g).badLines = s.badLines := rfl
@[simp] theorem modCtx_crossings (s : State) (f c : Nat) (g : Context → Context) : (s.modCtx f c g).crossings = s.crossings := rfl
@[simp] theorem modCtx_accums (s : State) (f c : Nat) (g : Context → Context) : (s.modCtx f c g).accums = s.accums := rfl
@[simp] theorem modCtx_engine (s : State) (f c : Nat) (g : Context → Context) : (s.modCtx f c g).engine = s.engine := rfl
@[simp] theorem modCtx_mcReqs (s : State) (f c : Nat) (g : Context → Context) : (s.modCtx f c g).mcReqs = s.mcReqs := rfl
@[simp] theorem modCtx_mcSessions (s : State) (f c : Nat) (g : Context → Context) : (s.modCtx f c g).mcSessions = s.mcSessions := rfl
@[simp] theorem modCtx_cycles (s : State) (f c : Nat) (g : Context → Context) : (s.modCtx f c g).cycles = s.cycles := rfl
@[simp] theorem modCtx_copies (s : State) (f c : Nat) (g : Context → Context) : (s.modCtx f c g).copies = s.copies := rfl
@[simp] theorem modCtx_sessions (s : State) (f c : Nat) (g : Context → Context) : (s.modCtx f c g).sessions = s.sessions := rfl
@[simp] theorem modCtx_graphs (s : State) (f c : Nat) (g : Context → Context) : (s.modCtx f c g).graphs = s.graphs := rfl
@[simp] theorem modCtx_frames (s : State) (f c : Nat) (g : Context → Context) : (s.modCtx f c g).frames = s.frames := rfl
@[simp] theorem modCtx_spawn (s : State) (f c : Nat) (g : Context → Context) : (s.modCtx f c g).spawn = s.spawn := rfl
@[simp] theorem modCtx_ownRanges (s : State) (f c : Nat) (g : Context → Context) : (s.modCtx f c g).ownRanges = s.ownRanges := rfl
@[simp] theorem modCtx_notices (s : State) (f c : Nat) (g : Context → Context) : (s.modCtx f c g).notices = s.notices := rfl
@[simp] theorem modCtx_destroying (s : State) (f c : Nat) (g : Context → Context) : (s.modCtx f c g).destroying = s.destroying := rfl
@[simp] theorem modCtx_errorLog (s : State) (f c : Nat) (g : Context → Context) : (s.modCtx f c g).errorLog = s.errorLog := rfl
@[simp] theorem modCtx_errorCount (s : State) (f c : Nat) (g : Context → Context) : (s.modCtx f c g).errorCount = s.errorCount := rfl
@[simp] theorem modCtx_wear (s : State) (f c : Nat) (g : Context → Context) : (s.modCtx f c g).wear = s.wear := rfl
@[simp] theorem modCtx_power (s : State) (f c : Nat) (g : Context → Context) : (s.modCtx f c g).power = s.power := rfl
@[simp] theorem modCtx_powerLow (s : State) (f c : Nat) (g : Context → Context) : (s.modCtx f c g).powerLow = s.powerLow := rfl
@[simp] theorem modCtx_fuses (s : State) (f c : Nat) (g : Context → Context) : (s.modCtx f c g).fuses = s.fuses := rfl
@[simp] theorem modCtx_flash (s : State) (f c : Nat) (g : Context → Context) : (s.modCtx f c g).flash = s.flash := rfl
@[simp] theorem modCtx_hostLink (s : State) (f c : Nat) (g : Context → Context) : (s.modCtx f c g).hostLink = s.hostLink := rfl
@[simp] theorem modCtx_functions (s : State) (f c : Nat) (g : Context → Context) : (s.modCtx f c g).functions = s.functions := rfl
@[simp] theorem modCtx_posts (s : State) (f c : Nat) (g : Context → Context) : (s.modCtx f c g).posts = s.posts := rfl
@[simp] theorem modCtx_up (s : State) (f c : Nat) (g : Context → Context) : (s.modCtx f c g).up = s.up := rfl
@[simp] theorem modCtx_hostData (s : State) (f c : Nat) (g : Context → Context) : (s.modCtx f c g).hostData = s.hostData := rfl

/-! ### `State.modWarp` -/

@[simp] theorem modWarp_agenda (s : State) (u : Nat) (g : Warp → Warp) : (s.modWarp u g).agenda = s.agenda := rfl
@[simp] theorem modWarp_cur (s : State) (u : Nat) (g : Warp → Warp) : (s.modWarp u g).cur = s.cur := rfl
@[simp] theorem modWarp_fetch (s : State) (u : Nat) (g : Warp → Warp) : (s.modWarp u g).fetch = s.fetch := rfl
@[simp] theorem modWarp_fresh (s : State) (u : Nat) (g : Warp → Warp) : (s.modWarp u g).fresh = s.fresh := rfl
@[simp] theorem modWarp_nextUid (s : State) (u : Nat) (g : Warp → Warp) : (s.modWarp u g).nextUid = s.nextUid := rfl
@[simp] theorem modWarp_variant (s : State) (u : Nat) (g : Warp → Warp) : (s.modWarp u g).variant = s.variant := rfl
@[simp] theorem modWarp_fields (s : State) (u : Nat) (g : Warp → Warp) : (s.modWarp u g).fields = s.fields := rfl
@[simp] theorem modWarp_contexts (s : State) (u : Nat) (g : Warp → Warp) : (s.modWarp u g).contexts = s.contexts := rfl
@[simp] theorem modWarp_queues (s : State) (u : Nat) (g : Warp → Warp) : (s.modWarp u g).queues = s.queues := rfl
@[simp] theorem modWarp_tlb (s : State) (u : Nat) (g : Warp → Warp) : (s.modWarp u g).tlb = s.tlb := rfl
@[simp] theorem modWarp_misses (s : State) (u : Nat) (g : Warp → Warp) : (s.modWarp u g).misses = s.misses := rfl
@[simp] theorem modWarp_counted (s : State) (u : Nat) (g : Warp → Warp) : (s.modWarp u g).counted = s.counted := rfl
@[simp] theorem modWarp_packetOps (s : State) (u : Nat) (g : Warp → Warp) : (s.modWarp u g).packetOps = s.packetOps := rfl
@[simp] theorem modWarp_taskRetry (s : State) (u : Nat) (g : Warp → Warp) : (s.modWarp u g).taskRetry = s.taskRetry := rfl
@[simp] theorem modWarp_handles (s : State) (u : Nat) (g : Warp → Warp) : (s.modWarp u g).handles = s.handles := rfl
@[simp] theorem modWarp_launches (s : State) (u : Nat) (g : Warp → Warp) : (s.modWarp u g).launches = s.launches := rfl
@[simp] theorem modWarp_populations (s : State) (u : Nat) (g : Warp → Warp) : (s.modWarp u g).populations = s.populations := rfl
@[simp] theorem modWarp_blocks (s : State) (u : Nat) (g : Warp → Warp) : (s.modWarp u g).blocks = s.blocks := rfl
@[simp] theorem modWarp_warps (s : State) (u : Nat) (g : Warp → Warp) : (s.modWarp u g).warps = mapWhere (fun x => x.uid == u) g s.warps := rfl
@[simp] theorem modWarp_mem (s : State) (u : Nat) (g : Warp → Warp) : (s.modWarp u g).mem = s.mem := rfl
@[simp] theorem modWarp_stored (s : State) (u : Nat) (g : Warp → Warp) : (s.modWarp u g).stored = s.stored := rfl
@[simp] theorem modWarp_constCache (s : State) (u : Nat) (g : Warp → Warp) : (s.modWarp u g).constCache = s.constCache := rfl
@[simp] theorem modWarp_l1 (s : State) (u : Nat) (g : Warp → Warp) : (s.modWarp u g).l1 = s.l1 := rfl
@[simp] theorem modWarp_pend (s : State) (u : Nat) (g : Warp → Warp) : (s.modWarp u g).pend = s.pend := rfl
@[simp] theorem modWarp_proxy (s : State) (u : Nat) (g : Warp → Warp) : (s.modWarp u g).proxy = s.proxy := rfl
@[simp] theorem modWarp_sharers (s : State) (u : Nat) (g : Warp → Warp) : (s.modWarp u g).sharers = s.sharers := rfl
@[simp] theorem modWarp_localHome (s : State) (u : Nat) (g : Warp → Warp) : (s.modWarp u g).localHome = s.localHome := rfl
@[simp] theorem modWarp_slices (s : State) (u : Nat) (g : Warp → Warp) : (s.modWarp u g).slices = s.slices := rfl
@[simp] theorem modWarp_vaultDirty (s : State) (u : Nat) (g : Warp → Warp) : (s.modWarp u g).vaultDirty = s.vaultDirty := rfl
@[simp] theorem modWarp_flights (s : State) (u : Nat) (g : Warp → Warp) : (s.modWarp u g).flights = s.flights := rfl
@[simp] theorem modWarp_areqs (s : State) (u : Nat) (g : Warp → Warp) : (s.modWarp u g).areqs = s.areqs := rfl
@[simp] theorem modWarp_hostWrites (s : State) (u : Nat) (g : Warp → Warp) : (s.modWarp u g).hostWrites = s.hostWrites := rfl
@[simp] theorem modWarp_shadows (s : State) (u : Nat) (g : Warp → Warp) : (s.modWarp u g).shadows = s.shadows := rfl
@[simp] theorem modWarp_poison (s : State) (u : Nat) (g : Warp → Warp) : (s.modWarp u g).poison = s.poison := rfl
@[simp] theorem modWarp_badLines (s : State) (u : Nat) (g : Warp → Warp) : (s.modWarp u g).badLines = s.badLines := rfl
@[simp] theorem modWarp_crossings (s : State) (u : Nat) (g : Warp → Warp) : (s.modWarp u g).crossings = s.crossings := rfl
@[simp] theorem modWarp_accums (s : State) (u : Nat) (g : Warp → Warp) : (s.modWarp u g).accums = s.accums := rfl
@[simp] theorem modWarp_engine (s : State) (u : Nat) (g : Warp → Warp) : (s.modWarp u g).engine = s.engine := rfl
@[simp] theorem modWarp_mcReqs (s : State) (u : Nat) (g : Warp → Warp) : (s.modWarp u g).mcReqs = s.mcReqs := rfl
@[simp] theorem modWarp_mcSessions (s : State) (u : Nat) (g : Warp → Warp) : (s.modWarp u g).mcSessions = s.mcSessions := rfl
@[simp] theorem modWarp_cycles (s : State) (u : Nat) (g : Warp → Warp) : (s.modWarp u g).cycles = s.cycles := rfl
@[simp] theorem modWarp_copies (s : State) (u : Nat) (g : Warp → Warp) : (s.modWarp u g).copies = s.copies := rfl
@[simp] theorem modWarp_sessions (s : State) (u : Nat) (g : Warp → Warp) : (s.modWarp u g).sessions = s.sessions := rfl
@[simp] theorem modWarp_graphs (s : State) (u : Nat) (g : Warp → Warp) : (s.modWarp u g).graphs = s.graphs := rfl
@[simp] theorem modWarp_frames (s : State) (u : Nat) (g : Warp → Warp) : (s.modWarp u g).frames = s.frames := rfl
@[simp] theorem modWarp_spawn (s : State) (u : Nat) (g : Warp → Warp) : (s.modWarp u g).spawn = s.spawn := rfl
@[simp] theorem modWarp_ownRanges (s : State) (u : Nat) (g : Warp → Warp) : (s.modWarp u g).ownRanges = s.ownRanges := rfl
@[simp] theorem modWarp_notices (s : State) (u : Nat) (g : Warp → Warp) : (s.modWarp u g).notices = s.notices := rfl
@[simp] theorem modWarp_destroying (s : State) (u : Nat) (g : Warp → Warp) : (s.modWarp u g).destroying = s.destroying := rfl
@[simp] theorem modWarp_errorLog (s : State) (u : Nat) (g : Warp → Warp) : (s.modWarp u g).errorLog = s.errorLog := rfl
@[simp] theorem modWarp_errorCount (s : State) (u : Nat) (g : Warp → Warp) : (s.modWarp u g).errorCount = s.errorCount := rfl
@[simp] theorem modWarp_wear (s : State) (u : Nat) (g : Warp → Warp) : (s.modWarp u g).wear = s.wear := rfl
@[simp] theorem modWarp_power (s : State) (u : Nat) (g : Warp → Warp) : (s.modWarp u g).power = s.power := rfl
@[simp] theorem modWarp_powerLow (s : State) (u : Nat) (g : Warp → Warp) : (s.modWarp u g).powerLow = s.powerLow := rfl
@[simp] theorem modWarp_fuses (s : State) (u : Nat) (g : Warp → Warp) : (s.modWarp u g).fuses = s.fuses := rfl
@[simp] theorem modWarp_flash (s : State) (u : Nat) (g : Warp → Warp) : (s.modWarp u g).flash = s.flash := rfl
@[simp] theorem modWarp_hostLink (s : State) (u : Nat) (g : Warp → Warp) : (s.modWarp u g).hostLink = s.hostLink := rfl
@[simp] theorem modWarp_functions (s : State) (u : Nat) (g : Warp → Warp) : (s.modWarp u g).functions = s.functions := rfl
@[simp] theorem modWarp_posts (s : State) (u : Nat) (g : Warp → Warp) : (s.modWarp u g).posts = s.posts := rfl
@[simp] theorem modWarp_up (s : State) (u : Nat) (g : Warp → Warp) : (s.modWarp u g).up = s.up := rfl
@[simp] theorem modWarp_hostData (s : State) (u : Nat) (g : Warp → Warp) : (s.modWarp u g).hostData = s.hostData := rfl

/-! ### `State.modBlock` -/

@[simp] theorem modBlock_agenda (s : State) (u : Nat) (g : Block → Block) : (s.modBlock u g).agenda = s.agenda := rfl
@[simp] theorem modBlock_cur (s : State) (u : Nat) (g : Block → Block) : (s.modBlock u g).cur = s.cur := rfl
@[simp] theorem modBlock_fetch (s : State) (u : Nat) (g : Block → Block) : (s.modBlock u g).fetch = s.fetch := rfl
@[simp] theorem modBlock_fresh (s : State) (u : Nat) (g : Block → Block) : (s.modBlock u g).fresh = s.fresh := rfl
@[simp] theorem modBlock_nextUid (s : State) (u : Nat) (g : Block → Block) : (s.modBlock u g).nextUid = s.nextUid := rfl
@[simp] theorem modBlock_variant (s : State) (u : Nat) (g : Block → Block) : (s.modBlock u g).variant = s.variant := rfl
@[simp] theorem modBlock_fields (s : State) (u : Nat) (g : Block → Block) : (s.modBlock u g).fields = s.fields := rfl
@[simp] theorem modBlock_contexts (s : State) (u : Nat) (g : Block → Block) : (s.modBlock u g).contexts = s.contexts := rfl
@[simp] theorem modBlock_queues (s : State) (u : Nat) (g : Block → Block) : (s.modBlock u g).queues = s.queues := rfl
@[simp] theorem modBlock_tlb (s : State) (u : Nat) (g : Block → Block) : (s.modBlock u g).tlb = s.tlb := rfl
@[simp] theorem modBlock_misses (s : State) (u : Nat) (g : Block → Block) : (s.modBlock u g).misses = s.misses := rfl
@[simp] theorem modBlock_counted (s : State) (u : Nat) (g : Block → Block) : (s.modBlock u g).counted = s.counted := rfl
@[simp] theorem modBlock_packetOps (s : State) (u : Nat) (g : Block → Block) : (s.modBlock u g).packetOps = s.packetOps := rfl
@[simp] theorem modBlock_taskRetry (s : State) (u : Nat) (g : Block → Block) : (s.modBlock u g).taskRetry = s.taskRetry := rfl
@[simp] theorem modBlock_handles (s : State) (u : Nat) (g : Block → Block) : (s.modBlock u g).handles = s.handles := rfl
@[simp] theorem modBlock_launches (s : State) (u : Nat) (g : Block → Block) : (s.modBlock u g).launches = s.launches := rfl
@[simp] theorem modBlock_populations (s : State) (u : Nat) (g : Block → Block) : (s.modBlock u g).populations = s.populations := rfl
@[simp] theorem modBlock_blocks (s : State) (u : Nat) (g : Block → Block) : (s.modBlock u g).blocks = mapWhere (fun x => x.uid == u) g s.blocks := rfl
@[simp] theorem modBlock_warps (s : State) (u : Nat) (g : Block → Block) : (s.modBlock u g).warps = s.warps := rfl
@[simp] theorem modBlock_mem (s : State) (u : Nat) (g : Block → Block) : (s.modBlock u g).mem = s.mem := rfl
@[simp] theorem modBlock_stored (s : State) (u : Nat) (g : Block → Block) : (s.modBlock u g).stored = s.stored := rfl
@[simp] theorem modBlock_constCache (s : State) (u : Nat) (g : Block → Block) : (s.modBlock u g).constCache = s.constCache := rfl
@[simp] theorem modBlock_l1 (s : State) (u : Nat) (g : Block → Block) : (s.modBlock u g).l1 = s.l1 := rfl
@[simp] theorem modBlock_pend (s : State) (u : Nat) (g : Block → Block) : (s.modBlock u g).pend = s.pend := rfl
@[simp] theorem modBlock_proxy (s : State) (u : Nat) (g : Block → Block) : (s.modBlock u g).proxy = s.proxy := rfl
@[simp] theorem modBlock_sharers (s : State) (u : Nat) (g : Block → Block) : (s.modBlock u g).sharers = s.sharers := rfl
@[simp] theorem modBlock_localHome (s : State) (u : Nat) (g : Block → Block) : (s.modBlock u g).localHome = s.localHome := rfl
@[simp] theorem modBlock_slices (s : State) (u : Nat) (g : Block → Block) : (s.modBlock u g).slices = s.slices := rfl
@[simp] theorem modBlock_vaultDirty (s : State) (u : Nat) (g : Block → Block) : (s.modBlock u g).vaultDirty = s.vaultDirty := rfl
@[simp] theorem modBlock_flights (s : State) (u : Nat) (g : Block → Block) : (s.modBlock u g).flights = s.flights := rfl
@[simp] theorem modBlock_areqs (s : State) (u : Nat) (g : Block → Block) : (s.modBlock u g).areqs = s.areqs := rfl
@[simp] theorem modBlock_hostWrites (s : State) (u : Nat) (g : Block → Block) : (s.modBlock u g).hostWrites = s.hostWrites := rfl
@[simp] theorem modBlock_shadows (s : State) (u : Nat) (g : Block → Block) : (s.modBlock u g).shadows = s.shadows := rfl
@[simp] theorem modBlock_poison (s : State) (u : Nat) (g : Block → Block) : (s.modBlock u g).poison = s.poison := rfl
@[simp] theorem modBlock_badLines (s : State) (u : Nat) (g : Block → Block) : (s.modBlock u g).badLines = s.badLines := rfl
@[simp] theorem modBlock_crossings (s : State) (u : Nat) (g : Block → Block) : (s.modBlock u g).crossings = s.crossings := rfl
@[simp] theorem modBlock_accums (s : State) (u : Nat) (g : Block → Block) : (s.modBlock u g).accums = s.accums := rfl
@[simp] theorem modBlock_engine (s : State) (u : Nat) (g : Block → Block) : (s.modBlock u g).engine = s.engine := rfl
@[simp] theorem modBlock_mcReqs (s : State) (u : Nat) (g : Block → Block) : (s.modBlock u g).mcReqs = s.mcReqs := rfl
@[simp] theorem modBlock_mcSessions (s : State) (u : Nat) (g : Block → Block) : (s.modBlock u g).mcSessions = s.mcSessions := rfl
@[simp] theorem modBlock_cycles (s : State) (u : Nat) (g : Block → Block) : (s.modBlock u g).cycles = s.cycles := rfl
@[simp] theorem modBlock_copies (s : State) (u : Nat) (g : Block → Block) : (s.modBlock u g).copies = s.copies := rfl
@[simp] theorem modBlock_sessions (s : State) (u : Nat) (g : Block → Block) : (s.modBlock u g).sessions = s.sessions := rfl
@[simp] theorem modBlock_graphs (s : State) (u : Nat) (g : Block → Block) : (s.modBlock u g).graphs = s.graphs := rfl
@[simp] theorem modBlock_frames (s : State) (u : Nat) (g : Block → Block) : (s.modBlock u g).frames = s.frames := rfl
@[simp] theorem modBlock_spawn (s : State) (u : Nat) (g : Block → Block) : (s.modBlock u g).spawn = s.spawn := rfl
@[simp] theorem modBlock_ownRanges (s : State) (u : Nat) (g : Block → Block) : (s.modBlock u g).ownRanges = s.ownRanges := rfl
@[simp] theorem modBlock_notices (s : State) (u : Nat) (g : Block → Block) : (s.modBlock u g).notices = s.notices := rfl
@[simp] theorem modBlock_destroying (s : State) (u : Nat) (g : Block → Block) : (s.modBlock u g).destroying = s.destroying := rfl
@[simp] theorem modBlock_errorLog (s : State) (u : Nat) (g : Block → Block) : (s.modBlock u g).errorLog = s.errorLog := rfl
@[simp] theorem modBlock_errorCount (s : State) (u : Nat) (g : Block → Block) : (s.modBlock u g).errorCount = s.errorCount := rfl
@[simp] theorem modBlock_wear (s : State) (u : Nat) (g : Block → Block) : (s.modBlock u g).wear = s.wear := rfl
@[simp] theorem modBlock_power (s : State) (u : Nat) (g : Block → Block) : (s.modBlock u g).power = s.power := rfl
@[simp] theorem modBlock_powerLow (s : State) (u : Nat) (g : Block → Block) : (s.modBlock u g).powerLow = s.powerLow := rfl
@[simp] theorem modBlock_fuses (s : State) (u : Nat) (g : Block → Block) : (s.modBlock u g).fuses = s.fuses := rfl
@[simp] theorem modBlock_flash (s : State) (u : Nat) (g : Block → Block) : (s.modBlock u g).flash = s.flash := rfl
@[simp] theorem modBlock_hostLink (s : State) (u : Nat) (g : Block → Block) : (s.modBlock u g).hostLink = s.hostLink := rfl
@[simp] theorem modBlock_functions (s : State) (u : Nat) (g : Block → Block) : (s.modBlock u g).functions = s.functions := rfl
@[simp] theorem modBlock_posts (s : State) (u : Nat) (g : Block → Block) : (s.modBlock u g).posts = s.posts := rfl
@[simp] theorem modBlock_up (s : State) (u : Nat) (g : Block → Block) : (s.modBlock u g).up = s.up := rfl
@[simp] theorem modBlock_hostData (s : State) (u : Nat) (g : Block → Block) : (s.modBlock u g).hostData = s.hostData := rfl

/-! ### `State.modLaunch` -/

@[simp] theorem modLaunch_agenda (s : State) (u : Nat) (g : Launch → Launch) : (s.modLaunch u g).agenda = s.agenda := rfl
@[simp] theorem modLaunch_cur (s : State) (u : Nat) (g : Launch → Launch) : (s.modLaunch u g).cur = s.cur := rfl
@[simp] theorem modLaunch_fetch (s : State) (u : Nat) (g : Launch → Launch) : (s.modLaunch u g).fetch = s.fetch := rfl
@[simp] theorem modLaunch_fresh (s : State) (u : Nat) (g : Launch → Launch) : (s.modLaunch u g).fresh = s.fresh := rfl
@[simp] theorem modLaunch_nextUid (s : State) (u : Nat) (g : Launch → Launch) : (s.modLaunch u g).nextUid = s.nextUid := rfl
@[simp] theorem modLaunch_variant (s : State) (u : Nat) (g : Launch → Launch) : (s.modLaunch u g).variant = s.variant := rfl
@[simp] theorem modLaunch_fields (s : State) (u : Nat) (g : Launch → Launch) : (s.modLaunch u g).fields = s.fields := rfl
@[simp] theorem modLaunch_contexts (s : State) (u : Nat) (g : Launch → Launch) : (s.modLaunch u g).contexts = s.contexts := rfl
@[simp] theorem modLaunch_queues (s : State) (u : Nat) (g : Launch → Launch) : (s.modLaunch u g).queues = s.queues := rfl
@[simp] theorem modLaunch_tlb (s : State) (u : Nat) (g : Launch → Launch) : (s.modLaunch u g).tlb = s.tlb := rfl
@[simp] theorem modLaunch_misses (s : State) (u : Nat) (g : Launch → Launch) : (s.modLaunch u g).misses = s.misses := rfl
@[simp] theorem modLaunch_counted (s : State) (u : Nat) (g : Launch → Launch) : (s.modLaunch u g).counted = s.counted := rfl
@[simp] theorem modLaunch_packetOps (s : State) (u : Nat) (g : Launch → Launch) : (s.modLaunch u g).packetOps = s.packetOps := rfl
@[simp] theorem modLaunch_taskRetry (s : State) (u : Nat) (g : Launch → Launch) : (s.modLaunch u g).taskRetry = s.taskRetry := rfl
@[simp] theorem modLaunch_handles (s : State) (u : Nat) (g : Launch → Launch) : (s.modLaunch u g).handles = s.handles := rfl
@[simp] theorem modLaunch_launches (s : State) (u : Nat) (g : Launch → Launch) : (s.modLaunch u g).launches = mapWhere (fun x => x.uid == u) g s.launches := rfl
@[simp] theorem modLaunch_populations (s : State) (u : Nat) (g : Launch → Launch) : (s.modLaunch u g).populations = s.populations := rfl
@[simp] theorem modLaunch_blocks (s : State) (u : Nat) (g : Launch → Launch) : (s.modLaunch u g).blocks = s.blocks := rfl
@[simp] theorem modLaunch_warps (s : State) (u : Nat) (g : Launch → Launch) : (s.modLaunch u g).warps = s.warps := rfl
@[simp] theorem modLaunch_mem (s : State) (u : Nat) (g : Launch → Launch) : (s.modLaunch u g).mem = s.mem := rfl
@[simp] theorem modLaunch_stored (s : State) (u : Nat) (g : Launch → Launch) : (s.modLaunch u g).stored = s.stored := rfl
@[simp] theorem modLaunch_constCache (s : State) (u : Nat) (g : Launch → Launch) : (s.modLaunch u g).constCache = s.constCache := rfl
@[simp] theorem modLaunch_l1 (s : State) (u : Nat) (g : Launch → Launch) : (s.modLaunch u g).l1 = s.l1 := rfl
@[simp] theorem modLaunch_pend (s : State) (u : Nat) (g : Launch → Launch) : (s.modLaunch u g).pend = s.pend := rfl
@[simp] theorem modLaunch_proxy (s : State) (u : Nat) (g : Launch → Launch) : (s.modLaunch u g).proxy = s.proxy := rfl
@[simp] theorem modLaunch_sharers (s : State) (u : Nat) (g : Launch → Launch) : (s.modLaunch u g).sharers = s.sharers := rfl
@[simp] theorem modLaunch_localHome (s : State) (u : Nat) (g : Launch → Launch) : (s.modLaunch u g).localHome = s.localHome := rfl
@[simp] theorem modLaunch_slices (s : State) (u : Nat) (g : Launch → Launch) : (s.modLaunch u g).slices = s.slices := rfl
@[simp] theorem modLaunch_vaultDirty (s : State) (u : Nat) (g : Launch → Launch) : (s.modLaunch u g).vaultDirty = s.vaultDirty := rfl
@[simp] theorem modLaunch_flights (s : State) (u : Nat) (g : Launch → Launch) : (s.modLaunch u g).flights = s.flights := rfl
@[simp] theorem modLaunch_areqs (s : State) (u : Nat) (g : Launch → Launch) : (s.modLaunch u g).areqs = s.areqs := rfl
@[simp] theorem modLaunch_hostWrites (s : State) (u : Nat) (g : Launch → Launch) : (s.modLaunch u g).hostWrites = s.hostWrites := rfl
@[simp] theorem modLaunch_shadows (s : State) (u : Nat) (g : Launch → Launch) : (s.modLaunch u g).shadows = s.shadows := rfl
@[simp] theorem modLaunch_poison (s : State) (u : Nat) (g : Launch → Launch) : (s.modLaunch u g).poison = s.poison := rfl
@[simp] theorem modLaunch_badLines (s : State) (u : Nat) (g : Launch → Launch) : (s.modLaunch u g).badLines = s.badLines := rfl
@[simp] theorem modLaunch_crossings (s : State) (u : Nat) (g : Launch → Launch) : (s.modLaunch u g).crossings = s.crossings := rfl
@[simp] theorem modLaunch_accums (s : State) (u : Nat) (g : Launch → Launch) : (s.modLaunch u g).accums = s.accums := rfl
@[simp] theorem modLaunch_engine (s : State) (u : Nat) (g : Launch → Launch) : (s.modLaunch u g).engine = s.engine := rfl
@[simp] theorem modLaunch_mcReqs (s : State) (u : Nat) (g : Launch → Launch) : (s.modLaunch u g).mcReqs = s.mcReqs := rfl
@[simp] theorem modLaunch_mcSessions (s : State) (u : Nat) (g : Launch → Launch) : (s.modLaunch u g).mcSessions = s.mcSessions := rfl
@[simp] theorem modLaunch_cycles (s : State) (u : Nat) (g : Launch → Launch) : (s.modLaunch u g).cycles = s.cycles := rfl
@[simp] theorem modLaunch_copies (s : State) (u : Nat) (g : Launch → Launch) : (s.modLaunch u g).copies = s.copies := rfl
@[simp] theorem modLaunch_sessions (s : State) (u : Nat) (g : Launch → Launch) : (s.modLaunch u g).sessions = s.sessions := rfl
@[simp] theorem modLaunch_graphs (s : State) (u : Nat) (g : Launch → Launch) : (s.modLaunch u g).graphs = s.graphs := rfl
@[simp] theorem modLaunch_frames (s : State) (u : Nat) (g : Launch → Launch) : (s.modLaunch u g).frames = s.frames := rfl
@[simp] theorem modLaunch_spawn (s : State) (u : Nat) (g : Launch → Launch) : (s.modLaunch u g).spawn = s.spawn := rfl
@[simp] theorem modLaunch_ownRanges (s : State) (u : Nat) (g : Launch → Launch) : (s.modLaunch u g).ownRanges = s.ownRanges := rfl
@[simp] theorem modLaunch_notices (s : State) (u : Nat) (g : Launch → Launch) : (s.modLaunch u g).notices = s.notices := rfl
@[simp] theorem modLaunch_destroying (s : State) (u : Nat) (g : Launch → Launch) : (s.modLaunch u g).destroying = s.destroying := rfl
@[simp] theorem modLaunch_errorLog (s : State) (u : Nat) (g : Launch → Launch) : (s.modLaunch u g).errorLog = s.errorLog := rfl
@[simp] theorem modLaunch_errorCount (s : State) (u : Nat) (g : Launch → Launch) : (s.modLaunch u g).errorCount = s.errorCount := rfl
@[simp] theorem modLaunch_wear (s : State) (u : Nat) (g : Launch → Launch) : (s.modLaunch u g).wear = s.wear := rfl
@[simp] theorem modLaunch_power (s : State) (u : Nat) (g : Launch → Launch) : (s.modLaunch u g).power = s.power := rfl
@[simp] theorem modLaunch_powerLow (s : State) (u : Nat) (g : Launch → Launch) : (s.modLaunch u g).powerLow = s.powerLow := rfl
@[simp] theorem modLaunch_fuses (s : State) (u : Nat) (g : Launch → Launch) : (s.modLaunch u g).fuses = s.fuses := rfl
@[simp] theorem modLaunch_flash (s : State) (u : Nat) (g : Launch → Launch) : (s.modLaunch u g).flash = s.flash := rfl
@[simp] theorem modLaunch_hostLink (s : State) (u : Nat) (g : Launch → Launch) : (s.modLaunch u g).hostLink = s.hostLink := rfl
@[simp] theorem modLaunch_functions (s : State) (u : Nat) (g : Launch → Launch) : (s.modLaunch u g).functions = s.functions := rfl
@[simp] theorem modLaunch_posts (s : State) (u : Nat) (g : Launch → Launch) : (s.modLaunch u g).posts = s.posts := rfl
@[simp] theorem modLaunch_up (s : State) (u : Nat) (g : Launch → Launch) : (s.modLaunch u g).up = s.up := rfl
@[simp] theorem modLaunch_hostData (s : State) (u : Nat) (g : Launch → Launch) : (s.modLaunch u g).hostData = s.hostData := rfl

/-! ### `State.modPop` -/

@[simp] theorem modPop_agenda (s : State) (u : Nat) (g : Population → Population) : (s.modPop u g).agenda = s.agenda := rfl
@[simp] theorem modPop_cur (s : State) (u : Nat) (g : Population → Population) : (s.modPop u g).cur = s.cur := rfl
@[simp] theorem modPop_fetch (s : State) (u : Nat) (g : Population → Population) : (s.modPop u g).fetch = s.fetch := rfl
@[simp] theorem modPop_fresh (s : State) (u : Nat) (g : Population → Population) : (s.modPop u g).fresh = s.fresh := rfl
@[simp] theorem modPop_nextUid (s : State) (u : Nat) (g : Population → Population) : (s.modPop u g).nextUid = s.nextUid := rfl
@[simp] theorem modPop_variant (s : State) (u : Nat) (g : Population → Population) : (s.modPop u g).variant = s.variant := rfl
@[simp] theorem modPop_fields (s : State) (u : Nat) (g : Population → Population) : (s.modPop u g).fields = s.fields := rfl
@[simp] theorem modPop_contexts (s : State) (u : Nat) (g : Population → Population) : (s.modPop u g).contexts = s.contexts := rfl
@[simp] theorem modPop_queues (s : State) (u : Nat) (g : Population → Population) : (s.modPop u g).queues = s.queues := rfl
@[simp] theorem modPop_tlb (s : State) (u : Nat) (g : Population → Population) : (s.modPop u g).tlb = s.tlb := rfl
@[simp] theorem modPop_misses (s : State) (u : Nat) (g : Population → Population) : (s.modPop u g).misses = s.misses := rfl
@[simp] theorem modPop_counted (s : State) (u : Nat) (g : Population → Population) : (s.modPop u g).counted = s.counted := rfl
@[simp] theorem modPop_packetOps (s : State) (u : Nat) (g : Population → Population) : (s.modPop u g).packetOps = s.packetOps := rfl
@[simp] theorem modPop_taskRetry (s : State) (u : Nat) (g : Population → Population) : (s.modPop u g).taskRetry = s.taskRetry := rfl
@[simp] theorem modPop_handles (s : State) (u : Nat) (g : Population → Population) : (s.modPop u g).handles = s.handles := rfl
@[simp] theorem modPop_launches (s : State) (u : Nat) (g : Population → Population) : (s.modPop u g).launches = s.launches := rfl
@[simp] theorem modPop_populations (s : State) (u : Nat) (g : Population → Population) : (s.modPop u g).populations = mapWhere (fun x => x.launch == u) g s.populations := rfl
@[simp] theorem modPop_blocks (s : State) (u : Nat) (g : Population → Population) : (s.modPop u g).blocks = s.blocks := rfl
@[simp] theorem modPop_warps (s : State) (u : Nat) (g : Population → Population) : (s.modPop u g).warps = s.warps := rfl
@[simp] theorem modPop_mem (s : State) (u : Nat) (g : Population → Population) : (s.modPop u g).mem = s.mem := rfl
@[simp] theorem modPop_stored (s : State) (u : Nat) (g : Population → Population) : (s.modPop u g).stored = s.stored := rfl
@[simp] theorem modPop_constCache (s : State) (u : Nat) (g : Population → Population) : (s.modPop u g).constCache = s.constCache := rfl
@[simp] theorem modPop_l1 (s : State) (u : Nat) (g : Population → Population) : (s.modPop u g).l1 = s.l1 := rfl
@[simp] theorem modPop_pend (s : State) (u : Nat) (g : Population → Population) : (s.modPop u g).pend = s.pend := rfl
@[simp] theorem modPop_proxy (s : State) (u : Nat) (g : Population → Population) : (s.modPop u g).proxy = s.proxy := rfl
@[simp] theorem modPop_sharers (s : State) (u : Nat) (g : Population → Population) : (s.modPop u g).sharers = s.sharers := rfl
@[simp] theorem modPop_localHome (s : State) (u : Nat) (g : Population → Population) : (s.modPop u g).localHome = s.localHome := rfl
@[simp] theorem modPop_slices (s : State) (u : Nat) (g : Population → Population) : (s.modPop u g).slices = s.slices := rfl
@[simp] theorem modPop_vaultDirty (s : State) (u : Nat) (g : Population → Population) : (s.modPop u g).vaultDirty = s.vaultDirty := rfl
@[simp] theorem modPop_flights (s : State) (u : Nat) (g : Population → Population) : (s.modPop u g).flights = s.flights := rfl
@[simp] theorem modPop_areqs (s : State) (u : Nat) (g : Population → Population) : (s.modPop u g).areqs = s.areqs := rfl
@[simp] theorem modPop_hostWrites (s : State) (u : Nat) (g : Population → Population) : (s.modPop u g).hostWrites = s.hostWrites := rfl
@[simp] theorem modPop_shadows (s : State) (u : Nat) (g : Population → Population) : (s.modPop u g).shadows = s.shadows := rfl
@[simp] theorem modPop_poison (s : State) (u : Nat) (g : Population → Population) : (s.modPop u g).poison = s.poison := rfl
@[simp] theorem modPop_badLines (s : State) (u : Nat) (g : Population → Population) : (s.modPop u g).badLines = s.badLines := rfl
@[simp] theorem modPop_crossings (s : State) (u : Nat) (g : Population → Population) : (s.modPop u g).crossings = s.crossings := rfl
@[simp] theorem modPop_accums (s : State) (u : Nat) (g : Population → Population) : (s.modPop u g).accums = s.accums := rfl
@[simp] theorem modPop_engine (s : State) (u : Nat) (g : Population → Population) : (s.modPop u g).engine = s.engine := rfl
@[simp] theorem modPop_mcReqs (s : State) (u : Nat) (g : Population → Population) : (s.modPop u g).mcReqs = s.mcReqs := rfl
@[simp] theorem modPop_mcSessions (s : State) (u : Nat) (g : Population → Population) : (s.modPop u g).mcSessions = s.mcSessions := rfl
@[simp] theorem modPop_cycles (s : State) (u : Nat) (g : Population → Population) : (s.modPop u g).cycles = s.cycles := rfl
@[simp] theorem modPop_copies (s : State) (u : Nat) (g : Population → Population) : (s.modPop u g).copies = s.copies := rfl
@[simp] theorem modPop_sessions (s : State) (u : Nat) (g : Population → Population) : (s.modPop u g).sessions = s.sessions := rfl
@[simp] theorem modPop_graphs (s : State) (u : Nat) (g : Population → Population) : (s.modPop u g).graphs = s.graphs := rfl
@[simp] theorem modPop_frames (s : State) (u : Nat) (g : Population → Population) : (s.modPop u g).frames = s.frames := rfl
@[simp] theorem modPop_spawn (s : State) (u : Nat) (g : Population → Population) : (s.modPop u g).spawn = s.spawn := rfl
@[simp] theorem modPop_ownRanges (s : State) (u : Nat) (g : Population → Population) : (s.modPop u g).ownRanges = s.ownRanges := rfl
@[simp] theorem modPop_notices (s : State) (u : Nat) (g : Population → Population) : (s.modPop u g).notices = s.notices := rfl
@[simp] theorem modPop_destroying (s : State) (u : Nat) (g : Population → Population) : (s.modPop u g).destroying = s.destroying := rfl
@[simp] theorem modPop_errorLog (s : State) (u : Nat) (g : Population → Population) : (s.modPop u g).errorLog = s.errorLog := rfl
@[simp] theorem modPop_errorCount (s : State) (u : Nat) (g : Population → Population) : (s.modPop u g).errorCount = s.errorCount := rfl
@[simp] theorem modPop_wear (s : State) (u : Nat) (g : Population → Population) : (s.modPop u g).wear = s.wear := rfl
@[simp] theorem modPop_power (s : State) (u : Nat) (g : Population → Population) : (s.modPop u g).power = s.power := rfl
@[simp] theorem modPop_powerLow (s : State) (u : Nat) (g : Population → Population) : (s.modPop u g).powerLow = s.powerLow := rfl
@[simp] theorem modPop_fuses (s : State) (u : Nat) (g : Population → Population) : (s.modPop u g).fuses = s.fuses := rfl
@[simp] theorem modPop_flash (s : State) (u : Nat) (g : Population → Population) : (s.modPop u g).flash = s.flash := rfl
@[simp] theorem modPop_hostLink (s : State) (u : Nat) (g : Population → Population) : (s.modPop u g).hostLink = s.hostLink := rfl
@[simp] theorem modPop_functions (s : State) (u : Nat) (g : Population → Population) : (s.modPop u g).functions = s.functions := rfl
@[simp] theorem modPop_posts (s : State) (u : Nat) (g : Population → Population) : (s.modPop u g).posts = s.posts := rfl
@[simp] theorem modPop_up (s : State) (u : Nat) (g : Population → Population) : (s.modPop u g).up = s.up := rfl
@[simp] theorem modPop_hostData (s : State) (u : Nat) (g : Population → Population) : (s.modPop u g).hostData = s.hostData := rfl

/-! ### `State.modQueue` -/

@[simp] theorem modQueue_agenda (s : State) (f q : Nat) (g : Queue → Queue) : (s.modQueue f q g).agenda = s.agenda := rfl
@[simp] theorem modQueue_cur (s : State) (f q : Nat) (g : Queue → Queue) : (s.modQueue f q g).cur = s.cur := rfl
@[simp] theorem modQueue_fetch (s : State) (f q : Nat) (g : Queue → Queue) : (s.modQueue f q g).fetch = s.fetch := rfl
@[simp] theorem modQueue_fresh (s : State) (f q : Nat) (g : Queue → Queue) : (s.modQueue f q g).fresh = s.fresh := rfl
@[simp] theorem modQueue_nextUid (s : State) (f q : Nat) (g : Queue → Queue) : (s.modQueue f q g).nextUid = s.nextUid := rfl
@[simp] theorem modQueue_variant (s : State) (f q : Nat) (g : Queue → Queue) : (s.modQueue f q g).variant = s.variant := rfl
@[simp] theorem modQueue_fields (s : State) (f q : Nat) (g : Queue → Queue) : (s.modQueue f q g).fields = s.fields := rfl
@[simp] theorem modQueue_contexts (s : State) (f q : Nat) (g : Queue → Queue) : (s.modQueue f q g).contexts = s.contexts := rfl
@[simp] theorem modQueue_queues (s : State) (f q : Nat) (g : Queue → Queue) : (s.modQueue f q g).queues = mapWhere (fun x => x.field == f && x.q == q) g s.queues := rfl
@[simp] theorem modQueue_tlb (s : State) (f q : Nat) (g : Queue → Queue) : (s.modQueue f q g).tlb = s.tlb := rfl
@[simp] theorem modQueue_misses (s : State) (f q : Nat) (g : Queue → Queue) : (s.modQueue f q g).misses = s.misses := rfl
@[simp] theorem modQueue_counted (s : State) (f q : Nat) (g : Queue → Queue) : (s.modQueue f q g).counted = s.counted := rfl
@[simp] theorem modQueue_packetOps (s : State) (f q : Nat) (g : Queue → Queue) : (s.modQueue f q g).packetOps = s.packetOps := rfl
@[simp] theorem modQueue_taskRetry (s : State) (f q : Nat) (g : Queue → Queue) : (s.modQueue f q g).taskRetry = s.taskRetry := rfl
@[simp] theorem modQueue_handles (s : State) (f q : Nat) (g : Queue → Queue) : (s.modQueue f q g).handles = s.handles := rfl
@[simp] theorem modQueue_launches (s : State) (f q : Nat) (g : Queue → Queue) : (s.modQueue f q g).launches = s.launches := rfl
@[simp] theorem modQueue_populations (s : State) (f q : Nat) (g : Queue → Queue) : (s.modQueue f q g).populations = s.populations := rfl
@[simp] theorem modQueue_blocks (s : State) (f q : Nat) (g : Queue → Queue) : (s.modQueue f q g).blocks = s.blocks := rfl
@[simp] theorem modQueue_warps (s : State) (f q : Nat) (g : Queue → Queue) : (s.modQueue f q g).warps = s.warps := rfl
@[simp] theorem modQueue_mem (s : State) (f q : Nat) (g : Queue → Queue) : (s.modQueue f q g).mem = s.mem := rfl
@[simp] theorem modQueue_stored (s : State) (f q : Nat) (g : Queue → Queue) : (s.modQueue f q g).stored = s.stored := rfl
@[simp] theorem modQueue_constCache (s : State) (f q : Nat) (g : Queue → Queue) : (s.modQueue f q g).constCache = s.constCache := rfl
@[simp] theorem modQueue_l1 (s : State) (f q : Nat) (g : Queue → Queue) : (s.modQueue f q g).l1 = s.l1 := rfl
@[simp] theorem modQueue_pend (s : State) (f q : Nat) (g : Queue → Queue) : (s.modQueue f q g).pend = s.pend := rfl
@[simp] theorem modQueue_proxy (s : State) (f q : Nat) (g : Queue → Queue) : (s.modQueue f q g).proxy = s.proxy := rfl
@[simp] theorem modQueue_sharers (s : State) (f q : Nat) (g : Queue → Queue) : (s.modQueue f q g).sharers = s.sharers := rfl
@[simp] theorem modQueue_localHome (s : State) (f q : Nat) (g : Queue → Queue) : (s.modQueue f q g).localHome = s.localHome := rfl
@[simp] theorem modQueue_slices (s : State) (f q : Nat) (g : Queue → Queue) : (s.modQueue f q g).slices = s.slices := rfl
@[simp] theorem modQueue_vaultDirty (s : State) (f q : Nat) (g : Queue → Queue) : (s.modQueue f q g).vaultDirty = s.vaultDirty := rfl
@[simp] theorem modQueue_flights (s : State) (f q : Nat) (g : Queue → Queue) : (s.modQueue f q g).flights = s.flights := rfl
@[simp] theorem modQueue_areqs (s : State) (f q : Nat) (g : Queue → Queue) : (s.modQueue f q g).areqs = s.areqs := rfl
@[simp] theorem modQueue_hostWrites (s : State) (f q : Nat) (g : Queue → Queue) : (s.modQueue f q g).hostWrites = s.hostWrites := rfl
@[simp] theorem modQueue_shadows (s : State) (f q : Nat) (g : Queue → Queue) : (s.modQueue f q g).shadows = s.shadows := rfl
@[simp] theorem modQueue_poison (s : State) (f q : Nat) (g : Queue → Queue) : (s.modQueue f q g).poison = s.poison := rfl
@[simp] theorem modQueue_badLines (s : State) (f q : Nat) (g : Queue → Queue) : (s.modQueue f q g).badLines = s.badLines := rfl
@[simp] theorem modQueue_crossings (s : State) (f q : Nat) (g : Queue → Queue) : (s.modQueue f q g).crossings = s.crossings := rfl
@[simp] theorem modQueue_accums (s : State) (f q : Nat) (g : Queue → Queue) : (s.modQueue f q g).accums = s.accums := rfl
@[simp] theorem modQueue_engine (s : State) (f q : Nat) (g : Queue → Queue) : (s.modQueue f q g).engine = s.engine := rfl
@[simp] theorem modQueue_mcReqs (s : State) (f q : Nat) (g : Queue → Queue) : (s.modQueue f q g).mcReqs = s.mcReqs := rfl
@[simp] theorem modQueue_mcSessions (s : State) (f q : Nat) (g : Queue → Queue) : (s.modQueue f q g).mcSessions = s.mcSessions := rfl
@[simp] theorem modQueue_cycles (s : State) (f q : Nat) (g : Queue → Queue) : (s.modQueue f q g).cycles = s.cycles := rfl
@[simp] theorem modQueue_copies (s : State) (f q : Nat) (g : Queue → Queue) : (s.modQueue f q g).copies = s.copies := rfl
@[simp] theorem modQueue_sessions (s : State) (f q : Nat) (g : Queue → Queue) : (s.modQueue f q g).sessions = s.sessions := rfl
@[simp] theorem modQueue_graphs (s : State) (f q : Nat) (g : Queue → Queue) : (s.modQueue f q g).graphs = s.graphs := rfl
@[simp] theorem modQueue_frames (s : State) (f q : Nat) (g : Queue → Queue) : (s.modQueue f q g).frames = s.frames := rfl
@[simp] theorem modQueue_spawn (s : State) (f q : Nat) (g : Queue → Queue) : (s.modQueue f q g).spawn = s.spawn := rfl
@[simp] theorem modQueue_ownRanges (s : State) (f q : Nat) (g : Queue → Queue) : (s.modQueue f q g).ownRanges = s.ownRanges := rfl
@[simp] theorem modQueue_notices (s : State) (f q : Nat) (g : Queue → Queue) : (s.modQueue f q g).notices = s.notices := rfl
@[simp] theorem modQueue_destroying (s : State) (f q : Nat) (g : Queue → Queue) : (s.modQueue f q g).destroying = s.destroying := rfl
@[simp] theorem modQueue_errorLog (s : State) (f q : Nat) (g : Queue → Queue) : (s.modQueue f q g).errorLog = s.errorLog := rfl
@[simp] theorem modQueue_errorCount (s : State) (f q : Nat) (g : Queue → Queue) : (s.modQueue f q g).errorCount = s.errorCount := rfl
@[simp] theorem modQueue_wear (s : State) (f q : Nat) (g : Queue → Queue) : (s.modQueue f q g).wear = s.wear := rfl
@[simp] theorem modQueue_power (s : State) (f q : Nat) (g : Queue → Queue) : (s.modQueue f q g).power = s.power := rfl
@[simp] theorem modQueue_powerLow (s : State) (f q : Nat) (g : Queue → Queue) : (s.modQueue f q g).powerLow = s.powerLow := rfl
@[simp] theorem modQueue_fuses (s : State) (f q : Nat) (g : Queue → Queue) : (s.modQueue f q g).fuses = s.fuses := rfl
@[simp] theorem modQueue_flash (s : State) (f q : Nat) (g : Queue → Queue) : (s.modQueue f q g).flash = s.flash := rfl
@[simp] theorem modQueue_hostLink (s : State) (f q : Nat) (g : Queue → Queue) : (s.modQueue f q g).hostLink = s.hostLink := rfl
@[simp] theorem modQueue_functions (s : State) (f q : Nat) (g : Queue → Queue) : (s.modQueue f q g).functions = s.functions := rfl
@[simp] theorem modQueue_posts (s : State) (f q : Nat) (g : Queue → Queue) : (s.modQueue f q g).posts = s.posts := rfl
@[simp] theorem modQueue_up (s : State) (f q : Nat) (g : Queue → Queue) : (s.modQueue f q g).up = s.up := rfl
@[simp] theorem modQueue_hostData (s : State) (f q : Nat) (g : Queue → Queue) : (s.modQueue f q g).hostData = s.hostData := rfl

/-! ### `State.modHandle` -/

@[simp] theorem modHandle_agenda (s : State) (f i : Nat) (g : Handle → Handle) : (s.modHandle f i g).agenda = s.agenda := rfl
@[simp] theorem modHandle_cur (s : State) (f i : Nat) (g : Handle → Handle) : (s.modHandle f i g).cur = s.cur := rfl
@[simp] theorem modHandle_fetch (s : State) (f i : Nat) (g : Handle → Handle) : (s.modHandle f i g).fetch = s.fetch := rfl
@[simp] theorem modHandle_fresh (s : State) (f i : Nat) (g : Handle → Handle) : (s.modHandle f i g).fresh = s.fresh := rfl
@[simp] theorem modHandle_nextUid (s : State) (f i : Nat) (g : Handle → Handle) : (s.modHandle f i g).nextUid = s.nextUid := rfl
@[simp] theorem modHandle_variant (s : State) (f i : Nat) (g : Handle → Handle) : (s.modHandle f i g).variant = s.variant := rfl
@[simp] theorem modHandle_fields (s : State) (f i : Nat) (g : Handle → Handle) : (s.modHandle f i g).fields = s.fields := rfl
@[simp] theorem modHandle_contexts (s : State) (f i : Nat) (g : Handle → Handle) : (s.modHandle f i g).contexts = s.contexts := rfl
@[simp] theorem modHandle_queues (s : State) (f i : Nat) (g : Handle → Handle) : (s.modHandle f i g).queues = s.queues := rfl
@[simp] theorem modHandle_tlb (s : State) (f i : Nat) (g : Handle → Handle) : (s.modHandle f i g).tlb = s.tlb := rfl
@[simp] theorem modHandle_misses (s : State) (f i : Nat) (g : Handle → Handle) : (s.modHandle f i g).misses = s.misses := rfl
@[simp] theorem modHandle_counted (s : State) (f i : Nat) (g : Handle → Handle) : (s.modHandle f i g).counted = s.counted := rfl
@[simp] theorem modHandle_packetOps (s : State) (f i : Nat) (g : Handle → Handle) : (s.modHandle f i g).packetOps = s.packetOps := rfl
@[simp] theorem modHandle_taskRetry (s : State) (f i : Nat) (g : Handle → Handle) : (s.modHandle f i g).taskRetry = s.taskRetry := rfl
@[simp] theorem modHandle_handles (s : State) (f i : Nat) (g : Handle → Handle) : (s.modHandle f i g).handles = mapWhere (fun x => x.field == f && x.index == i) g s.handles := rfl
@[simp] theorem modHandle_launches (s : State) (f i : Nat) (g : Handle → Handle) : (s.modHandle f i g).launches = s.launches := rfl
@[simp] theorem modHandle_populations (s : State) (f i : Nat) (g : Handle → Handle) : (s.modHandle f i g).populations = s.populations := rfl
@[simp] theorem modHandle_blocks (s : State) (f i : Nat) (g : Handle → Handle) : (s.modHandle f i g).blocks = s.blocks := rfl
@[simp] theorem modHandle_warps (s : State) (f i : Nat) (g : Handle → Handle) : (s.modHandle f i g).warps = s.warps := rfl
@[simp] theorem modHandle_mem (s : State) (f i : Nat) (g : Handle → Handle) : (s.modHandle f i g).mem = s.mem := rfl
@[simp] theorem modHandle_stored (s : State) (f i : Nat) (g : Handle → Handle) : (s.modHandle f i g).stored = s.stored := rfl
@[simp] theorem modHandle_constCache (s : State) (f i : Nat) (g : Handle → Handle) : (s.modHandle f i g).constCache = s.constCache := rfl
@[simp] theorem modHandle_l1 (s : State) (f i : Nat) (g : Handle → Handle) : (s.modHandle f i g).l1 = s.l1 := rfl
@[simp] theorem modHandle_pend (s : State) (f i : Nat) (g : Handle → Handle) : (s.modHandle f i g).pend = s.pend := rfl
@[simp] theorem modHandle_proxy (s : State) (f i : Nat) (g : Handle → Handle) : (s.modHandle f i g).proxy = s.proxy := rfl
@[simp] theorem modHandle_sharers (s : State) (f i : Nat) (g : Handle → Handle) : (s.modHandle f i g).sharers = s.sharers := rfl
@[simp] theorem modHandle_localHome (s : State) (f i : Nat) (g : Handle → Handle) : (s.modHandle f i g).localHome = s.localHome := rfl
@[simp] theorem modHandle_slices (s : State) (f i : Nat) (g : Handle → Handle) : (s.modHandle f i g).slices = s.slices := rfl
@[simp] theorem modHandle_vaultDirty (s : State) (f i : Nat) (g : Handle → Handle) : (s.modHandle f i g).vaultDirty = s.vaultDirty := rfl
@[simp] theorem modHandle_flights (s : State) (f i : Nat) (g : Handle → Handle) : (s.modHandle f i g).flights = s.flights := rfl
@[simp] theorem modHandle_areqs (s : State) (f i : Nat) (g : Handle → Handle) : (s.modHandle f i g).areqs = s.areqs := rfl
@[simp] theorem modHandle_hostWrites (s : State) (f i : Nat) (g : Handle → Handle) : (s.modHandle f i g).hostWrites = s.hostWrites := rfl
@[simp] theorem modHandle_shadows (s : State) (f i : Nat) (g : Handle → Handle) : (s.modHandle f i g).shadows = s.shadows := rfl
@[simp] theorem modHandle_poison (s : State) (f i : Nat) (g : Handle → Handle) : (s.modHandle f i g).poison = s.poison := rfl
@[simp] theorem modHandle_badLines (s : State) (f i : Nat) (g : Handle → Handle) : (s.modHandle f i g).badLines = s.badLines := rfl
@[simp] theorem modHandle_crossings (s : State) (f i : Nat) (g : Handle → Handle) : (s.modHandle f i g).crossings = s.crossings := rfl
@[simp] theorem modHandle_accums (s : State) (f i : Nat) (g : Handle → Handle) : (s.modHandle f i g).accums = s.accums := rfl
@[simp] theorem modHandle_engine (s : State) (f i : Nat) (g : Handle → Handle) : (s.modHandle f i g).engine = s.engine := rfl
@[simp] theorem modHandle_mcReqs (s : State) (f i : Nat) (g : Handle → Handle) : (s.modHandle f i g).mcReqs = s.mcReqs := rfl
@[simp] theorem modHandle_mcSessions (s : State) (f i : Nat) (g : Handle → Handle) : (s.modHandle f i g).mcSessions = s.mcSessions := rfl
@[simp] theorem modHandle_cycles (s : State) (f i : Nat) (g : Handle → Handle) : (s.modHandle f i g).cycles = s.cycles := rfl
@[simp] theorem modHandle_copies (s : State) (f i : Nat) (g : Handle → Handle) : (s.modHandle f i g).copies = s.copies := rfl
@[simp] theorem modHandle_sessions (s : State) (f i : Nat) (g : Handle → Handle) : (s.modHandle f i g).sessions = s.sessions := rfl
@[simp] theorem modHandle_graphs (s : State) (f i : Nat) (g : Handle → Handle) : (s.modHandle f i g).graphs = s.graphs := rfl
@[simp] theorem modHandle_frames (s : State) (f i : Nat) (g : Handle → Handle) : (s.modHandle f i g).frames = s.frames := rfl
@[simp] theorem modHandle_spawn (s : State) (f i : Nat) (g : Handle → Handle) : (s.modHandle f i g).spawn = s.spawn := rfl
@[simp] theorem modHandle_ownRanges (s : State) (f i : Nat) (g : Handle → Handle) : (s.modHandle f i g).ownRanges = s.ownRanges := rfl
@[simp] theorem modHandle_notices (s : State) (f i : Nat) (g : Handle → Handle) : (s.modHandle f i g).notices = s.notices := rfl
@[simp] theorem modHandle_destroying (s : State) (f i : Nat) (g : Handle → Handle) : (s.modHandle f i g).destroying = s.destroying := rfl
@[simp] theorem modHandle_errorLog (s : State) (f i : Nat) (g : Handle → Handle) : (s.modHandle f i g).errorLog = s.errorLog := rfl
@[simp] theorem modHandle_errorCount (s : State) (f i : Nat) (g : Handle → Handle) : (s.modHandle f i g).errorCount = s.errorCount := rfl
@[simp] theorem modHandle_wear (s : State) (f i : Nat) (g : Handle → Handle) : (s.modHandle f i g).wear = s.wear := rfl
@[simp] theorem modHandle_power (s : State) (f i : Nat) (g : Handle → Handle) : (s.modHandle f i g).power = s.power := rfl
@[simp] theorem modHandle_powerLow (s : State) (f i : Nat) (g : Handle → Handle) : (s.modHandle f i g).powerLow = s.powerLow := rfl
@[simp] theorem modHandle_fuses (s : State) (f i : Nat) (g : Handle → Handle) : (s.modHandle f i g).fuses = s.fuses := rfl
@[simp] theorem modHandle_flash (s : State) (f i : Nat) (g : Handle → Handle) : (s.modHandle f i g).flash = s.flash := rfl
@[simp] theorem modHandle_hostLink (s : State) (f i : Nat) (g : Handle → Handle) : (s.modHandle f i g).hostLink = s.hostLink := rfl
@[simp] theorem modHandle_functions (s : State) (f i : Nat) (g : Handle → Handle) : (s.modHandle f i g).functions = s.functions := rfl
@[simp] theorem modHandle_posts (s : State) (f i : Nat) (g : Handle → Handle) : (s.modHandle f i g).posts = s.posts := rfl
@[simp] theorem modHandle_up (s : State) (f i : Nat) (g : Handle → Handle) : (s.modHandle f i g).up = s.up := rfl
@[simp] theorem modHandle_hostData (s : State) (f i : Nat) (g : Handle → Handle) : (s.modHandle f i g).hostData = s.hostData := rfl

/-! ### `Warp.setRow` -/

@[simp] theorem setRow_uid (w : Warp) (m : LaneMask) (r : Nat) (x : Row) : (w.setRow m r x).uid = w.uid := rfl
@[simp] theorem setRow_block (w : Warp) (m : LaneMask) (r : Nat) (x : Row) : (w.setRow m r x).block = w.block := rfl
@[simp] theorem setRow_core (w : Warp) (m : LaneMask) (r : Nat) (x : Row) : (w.setRow m r x).core = w.core := rfl
@[simp] theorem setRow_slot (w : Warp) (m : LaneMask) (r : Nat) (x : Row) : (w.setRow m r x).slot = w.slot := rfl
@[simp] theorem setRow_wid (w : Warp) (m : LaneMask) (r : Nat) (x : Row) : (w.setRow m r x).wid = w.wid := rfl
@[simp] theorem setRow_alloc (w : Warp) (m : LaneMask) (r : Nat) (x : Row) : (w.setRow m r x).alloc = w.alloc := rfl
@[simp] theorem setRow_v (w : Warp) (m : LaneMask) (r : Nat) (x : Row) : (w.setRow m r x).v = w.v.setIfInBounds r (mergeRow m x (w.row r)) := rfl
@[simp] theorem setRow_s (w : Warp) (m : LaneMask) (r : Nat) (x : Row) : (w.setRow m r x).s = w.s := rfl
@[simp] theorem setRow_bank (w : Warp) (m : LaneMask) (r : Nat) (x : Row) : (w.setRow m r x).bank = w.bank := rfl
@[simp] theorem setRow_p (w : Warp) (m : LaneMask) (r : Nat) (x : Row) : (w.setRow m r x).p = w.p := rfl
@[simp] theorem setRow_h (w : Warp) (m : LaneMask) (r : Nat) (x : Row) : (w.setRow m r x).h = w.h := rfl
@[simp] theorem setRow_rstack (w : Warp) (m : LaneMask) (r : Nat) (x : Row) : (w.setRow m r x).rstack = w.rstack := rfl
@[simp] theorem setRow_mask (w : Warp) (m : LaneMask) (r : Nat) (x : Row) : (w.setRow m r x).mask = w.mask := rfl
@[simp] theorem setRow_cwin (w : Warp) (m : LaneMask) (r : Nat) (x : Row) : (w.setRow m r x).cwin = w.cwin := rfl
@[simp] theorem setRow_cause (w : Warp) (m : LaneMask) (r : Nat) (x : Row) : (w.setRow m r x).cause = w.cause := rfl
@[simp] theorem setRow_faddr (w : Warp) (m : LaneMask) (r : Nat) (x : Row) : (w.setRow m r x).faddr = w.faddr := rfl
@[simp] theorem setRow_fpc (w : Warp) (m : LaneMask) (r : Nat) (x : Row) : (w.setRow m r x).fpc = w.fpc := rfl
@[simp] theorem setRow_fpcWritten (w : Warp) (m : LaneMask) (r : Nat) (x : Row) : (w.setRow m r x).fpcWritten = w.fpcWritten := rfl
@[simp] theorem setRow_mode (w : Warp) (m : LaneMask) (r : Nat) (x : Row) : (w.setRow m r x).mode = w.mode := rfl
@[simp] theorem setRow_frame (w : Warp) (m : LaneMask) (r : Nat) (x : Row) : (w.setRow m r x).frame = w.frame := rfl
@[simp] theorem setRow_slots (w : Warp) (m : LaneMask) (r : Nat) (x : Row) : (w.setRow m r x).slots = w.slots := rfl
@[simp] theorem setRow_parked (w : Warp) (m : LaneMask) (r : Nat) (x : Row) : (w.setRow m r x).parked = w.parked := rfl
@[simp] theorem setRow_lastSlot (w : Warp) (m : LaneMask) (r : Nat) (x : Row) : (w.setRow m r x).lastSlot = w.lastSlot := rfl
@[simp] theorem setRow_inGroup (w : Warp) (m : LaneMask) (r : Nat) (x : Row) : (w.setRow m r x).inGroup = w.inGroup := rfl
@[simp] theorem setRow_exited (w : Warp) (m : LaneMask) (r : Nat) (x : Row) : (w.setRow m r x).exited = w.exited := rfl
@[simp] theorem setRow_logid (w : Warp) (m : LaneMask) (r : Nat) (x : Row) : (w.setRow m r x).logid = w.logid := rfl
@[simp] theorem setRow_rank (w : Warp) (m : LaneMask) (r : Nat) (x : Row) : (w.setRow m r x).rank = w.rank := rfl
@[simp] theorem setRow_lineage (w : Warp) (m : LaneMask) (r : Nat) (x : Row) : (w.setRow m r x).lineage = w.lineage := rfl
@[simp] theorem setRow_parent (w : Warp) (m : LaneMask) (r : Nat) (x : Row) : (w.setRow m r x).parent = w.parent := rfl
@[simp] theorem setRow_rays (w : Warp) (m : LaneMask) (r : Nat) (x : Row) : (w.setRow m r x).rays = w.rays := rfl
@[simp] theorem setRow_idxLatch (w : Warp) (m : LaneMask) (r : Nat) (x : Row) : (w.setRow m r x).idxLatch = w.idxLatch := rfl
@[simp] theorem setRow_region (w : Warp) (m : LaneMask) (r : Nat) (x : Row) : (w.setRow m r x).region = w.region := rfl
@[simp] theorem setRow_stepFlag (w : Warp) (m : LaneMask) (r : Nat) (x : Row) : (w.setRow m r x).stepFlag = w.stepFlag := rfl
@[simp] theorem setRow_stepDue (w : Warp) (m : LaneMask) (r : Nat) (x : Row) : (w.setRow m r x).stepDue = w.stepDue := rfl
@[simp] theorem setRow_due (w : Warp) (m : LaneMask) (r : Nat) (x : Row) : (w.setRow m r x).due = w.due := rfl
@[simp] theorem setRow_growReq (w : Warp) (m : LaneMask) (r : Nat) (x : Row) : (w.setRow m r x).growReq = w.growReq := rfl
@[simp] theorem setRow_sq (w : Warp) (m : LaneMask) (r : Nat) (x : Row) : (w.setRow m r x).sq = w.sq := rfl
@[simp] theorem setRow_loads (w : Warp) (m : LaneMask) (r : Nat) (x : Row) : (w.setRow m r x).loads = w.loads := rfl
@[simp] theorem setRow_stores (w : Warp) (m : LaneMask) (r : Nat) (x : Row) : (w.setRow m r x).stores = w.stores := rfl
@[simp] theorem setRow_copies (w : Warp) (m : LaneMask) (r : Nat) (x : Row) : (w.setRow m r x).copies = w.copies := rfl
@[simp] theorem setRow_tileops (w : Warp) (m : LaneMask) (r : Nat) (x : Row) : (w.setRow m r x).tileops = w.tileops := rfl
@[simp] theorem setRow_issued (w : Warp) (m : LaneMask) (r : Nat) (x : Row) : (w.setRow m r x).issued = w.issued := rfl
@[simp] theorem setRow_asyncs (w : Warp) (m : LaneMask) (r : Nat) (x : Row) : (w.setRow m r x).asyncs = w.asyncs.map fun a => a.overwritten r m := rfl
@[simp] theorem setRow_lostOps (w : Warp) (m : LaneMask) (r : Nat) (x : Row) : (w.setRow m r x).lostOps = w.lostOps := rfl
@[simp] theorem setRow_seq (w : Warp) (m : LaneMask) (r : Nat) (x : Row) : (w.setRow m r x).seq = w.seq := rfl
@[simp] theorem setRow_relDeps (w : Warp) (m : LaneMask) (r : Nat) (x : Row) : (w.setRow m r x).relDeps = w.relDeps := rfl
@[simp] theorem setRow_fences (w : Warp) (m : LaneMask) (r : Nat) (x : Row) : (w.setRow m r x).fences = w.fences := rfl
@[simp] theorem setRow_seen (w : Warp) (m : LaneMask) (r : Nat) (x : Row) : (w.setRow m r x).seen = w.seen := rfl
@[simp] theorem setRow_rv (w : Warp) (m : LaneMask) (r : Nat) (x : Row) : (w.setRow m r x).rv = w.rv := rfl
@[simp] theorem setRow_xchg (w : Warp) (m : LaneMask) (r : Nat) (x : Row) : (w.setRow m r x).xchg = w.xchg := rfl
@[simp] theorem setRow_issuedAt (w : Warp) (m : LaneMask) (r : Nat) (x : Row) : (w.setRow m r x).issuedAt = w.issuedAt := rfl
@[simp] theorem setRow_doneAt (w : Warp) (m : LaneMask) (r : Nat) (x : Row) : (w.setRow m r x).doneAt = w.doneAt := rfl
@[simp] theorem setRow_orphan (w : Warp) (m : LaneMask) (r : Nat) (x : Row) : (w.setRow m r x).orphan = w.orphan := rfl

/-! ### `Warp.setS` -/

@[simp] theorem setS_uid (w : Warp) (r : Nat) (x : Word) : (w.setS r x).uid = w.uid := by unfold Warp.setS; split <;> rfl
@[simp] theorem setS_block (w : Warp) (r : Nat) (x : Word) : (w.setS r x).block = w.block := by unfold Warp.setS; split <;> rfl
@[simp] theorem setS_core (w : Warp) (r : Nat) (x : Word) : (w.setS r x).core = w.core := by unfold Warp.setS; split <;> rfl
@[simp] theorem setS_slot (w : Warp) (r : Nat) (x : Word) : (w.setS r x).slot = w.slot := by unfold Warp.setS; split <;> rfl
@[simp] theorem setS_wid (w : Warp) (r : Nat) (x : Word) : (w.setS r x).wid = w.wid := by unfold Warp.setS; split <;> rfl
@[simp] theorem setS_alloc (w : Warp) (r : Nat) (x : Word) : (w.setS r x).alloc = w.alloc := by unfold Warp.setS; split <;> rfl
@[simp] theorem setS_v (w : Warp) (r : Nat) (x : Word) : (w.setS r x).v = w.v := by unfold Warp.setS; split <;> rfl
@[simp] theorem setS_p (w : Warp) (r : Nat) (x : Word) : (w.setS r x).p = w.p := by unfold Warp.setS; split <;> rfl
@[simp] theorem setS_h (w : Warp) (r : Nat) (x : Word) : (w.setS r x).h = w.h := by unfold Warp.setS; split <;> rfl
@[simp] theorem setS_rstack (w : Warp) (r : Nat) (x : Word) : (w.setS r x).rstack = w.rstack := by unfold Warp.setS; split <;> rfl
@[simp] theorem setS_mask (w : Warp) (r : Nat) (x : Word) : (w.setS r x).mask = w.mask := by unfold Warp.setS; split <;> rfl
@[simp] theorem setS_cwin (w : Warp) (r : Nat) (x : Word) : (w.setS r x).cwin = w.cwin := by unfold Warp.setS; split <;> rfl
@[simp] theorem setS_cause (w : Warp) (r : Nat) (x : Word) : (w.setS r x).cause = w.cause := by unfold Warp.setS; split <;> rfl
@[simp] theorem setS_faddr (w : Warp) (r : Nat) (x : Word) : (w.setS r x).faddr = w.faddr := by unfold Warp.setS; split <;> rfl
@[simp] theorem setS_fpc (w : Warp) (r : Nat) (x : Word) : (w.setS r x).fpc = w.fpc := by unfold Warp.setS; split <;> rfl
@[simp] theorem setS_fpcWritten (w : Warp) (r : Nat) (x : Word) : (w.setS r x).fpcWritten = w.fpcWritten := by unfold Warp.setS; split <;> rfl
@[simp] theorem setS_mode (w : Warp) (r : Nat) (x : Word) : (w.setS r x).mode = w.mode := by unfold Warp.setS; split <;> rfl
@[simp] theorem setS_frame (w : Warp) (r : Nat) (x : Word) : (w.setS r x).frame = w.frame := by unfold Warp.setS; split <;> rfl
@[simp] theorem setS_slots (w : Warp) (r : Nat) (x : Word) : (w.setS r x).slots = w.slots := by unfold Warp.setS; split <;> rfl
@[simp] theorem setS_parked (w : Warp) (r : Nat) (x : Word) : (w.setS r x).parked = w.parked := by unfold Warp.setS; split <;> rfl
@[simp] theorem setS_lastSlot (w : Warp) (r : Nat) (x : Word) : (w.setS r x).lastSlot = w.lastSlot := by unfold Warp.setS; split <;> rfl
@[simp] theorem setS_inGroup (w : Warp) (r : Nat) (x : Word) : (w.setS r x).inGroup = w.inGroup := by unfold Warp.setS; split <;> rfl
@[simp] theorem setS_exited (w : Warp) (r : Nat) (x : Word) : (w.setS r x).exited = w.exited := by unfold Warp.setS; split <;> rfl
@[simp] theorem setS_logid (w : Warp) (r : Nat) (x : Word) : (w.setS r x).logid = w.logid := by unfold Warp.setS; split <;> rfl
@[simp] theorem setS_rank (w : Warp) (r : Nat) (x : Word) : (w.setS r x).rank = w.rank := by unfold Warp.setS; split <;> rfl
@[simp] theorem setS_lineage (w : Warp) (r : Nat) (x : Word) : (w.setS r x).lineage = w.lineage := by unfold Warp.setS; split <;> rfl
@[simp] theorem setS_parent (w : Warp) (r : Nat) (x : Word) : (w.setS r x).parent = w.parent := by unfold Warp.setS; split <;> rfl
@[simp] theorem setS_rays (w : Warp) (r : Nat) (x : Word) : (w.setS r x).rays = w.rays := by unfold Warp.setS; split <;> rfl
@[simp] theorem setS_idxLatch (w : Warp) (r : Nat) (x : Word) : (w.setS r x).idxLatch = w.idxLatch := by unfold Warp.setS; split <;> rfl
@[simp] theorem setS_region (w : Warp) (r : Nat) (x : Word) : (w.setS r x).region = w.region := by unfold Warp.setS; split <;> rfl
@[simp] theorem setS_stepFlag (w : Warp) (r : Nat) (x : Word) : (w.setS r x).stepFlag = w.stepFlag := by unfold Warp.setS; split <;> rfl
@[simp] theorem setS_stepDue (w : Warp) (r : Nat) (x : Word) : (w.setS r x).stepDue = w.stepDue := by unfold Warp.setS; split <;> rfl
@[simp] theorem setS_due (w : Warp) (r : Nat) (x : Word) : (w.setS r x).due = w.due := by unfold Warp.setS; split <;> rfl
@[simp] theorem setS_growReq (w : Warp) (r : Nat) (x : Word) : (w.setS r x).growReq = w.growReq := by unfold Warp.setS; split <;> rfl
@[simp] theorem setS_sq (w : Warp) (r : Nat) (x : Word) : (w.setS r x).sq = w.sq := by unfold Warp.setS; split <;> rfl
@[simp] theorem setS_loads (w : Warp) (r : Nat) (x : Word) : (w.setS r x).loads = w.loads := by unfold Warp.setS; split <;> rfl
@[simp] theorem setS_stores (w : Warp) (r : Nat) (x : Word) : (w.setS r x).stores = w.stores := by unfold Warp.setS; split <;> rfl
@[simp] theorem setS_copies (w : Warp) (r : Nat) (x : Word) : (w.setS r x).copies = w.copies := by unfold Warp.setS; split <;> rfl
@[simp] theorem setS_tileops (w : Warp) (r : Nat) (x : Word) : (w.setS r x).tileops = w.tileops := by unfold Warp.setS; split <;> rfl
@[simp] theorem setS_issued (w : Warp) (r : Nat) (x : Word) : (w.setS r x).issued = w.issued := by unfold Warp.setS; split <;> rfl
@[simp] theorem setS_asyncs (w : Warp) (r : Nat) (x : Word) : (w.setS r x).asyncs = w.asyncs := by unfold Warp.setS; split <;> rfl
@[simp] theorem setS_lostOps (w : Warp) (r : Nat) (x : Word) : (w.setS r x).lostOps = w.lostOps := by unfold Warp.setS; split <;> rfl
@[simp] theorem setS_seq (w : Warp) (r : Nat) (x : Word) : (w.setS r x).seq = w.seq := by unfold Warp.setS; split <;> rfl
@[simp] theorem setS_relDeps (w : Warp) (r : Nat) (x : Word) : (w.setS r x).relDeps = w.relDeps := by unfold Warp.setS; split <;> rfl
@[simp] theorem setS_fences (w : Warp) (r : Nat) (x : Word) : (w.setS r x).fences = w.fences := by unfold Warp.setS; split <;> rfl
@[simp] theorem setS_seen (w : Warp) (r : Nat) (x : Word) : (w.setS r x).seen = w.seen := by unfold Warp.setS; split <;> rfl
@[simp] theorem setS_rv (w : Warp) (r : Nat) (x : Word) : (w.setS r x).rv = w.rv := by unfold Warp.setS; split <;> rfl
@[simp] theorem setS_xchg (w : Warp) (r : Nat) (x : Word) : (w.setS r x).xchg = w.xchg := by unfold Warp.setS; split <;> rfl
@[simp] theorem setS_issuedAt (w : Warp) (r : Nat) (x : Word) : (w.setS r x).issuedAt = w.issuedAt := by unfold Warp.setS; split <;> rfl
@[simp] theorem setS_doneAt (w : Warp) (r : Nat) (x : Word) : (w.setS r x).doneAt = w.doneAt := by unfold Warp.setS; split <;> rfl
@[simp] theorem setS_orphan (w : Warp) (r : Nat) (x : Word) : (w.setS r x).orphan = w.orphan := by unfold Warp.setS; split <;> rfl

/-! ### `Warp.setPred` -/

@[simp] theorem setPred_uid (w : Warp) (m : LaneMask) (q : Nat) (x : LaneMask) : (w.setPred m q x).uid = w.uid := by unfold Warp.setPred; split <;> rfl
@[simp] theorem setPred_block (w : Warp) (m : LaneMask) (q : Nat) (x : LaneMask) : (w.setPred m q x).block = w.block := by unfold Warp.setPred; split <;> rfl
@[simp] theorem setPred_core (w : Warp) (m : LaneMask) (q : Nat) (x : LaneMask) : (w.setPred m q x).core = w.core := by unfold Warp.setPred; split <;> rfl
@[simp] theorem setPred_slot (w : Warp) (m : LaneMask) (q : Nat) (x : LaneMask) : (w.setPred m q x).slot = w.slot := by unfold Warp.setPred; split <;> rfl
@[simp] theorem setPred_wid (w : Warp) (m : LaneMask) (q : Nat) (x : LaneMask) : (w.setPred m q x).wid = w.wid := by unfold Warp.setPred; split <;> rfl
@[simp] theorem setPred_alloc (w : Warp) (m : LaneMask) (q : Nat) (x : LaneMask) : (w.setPred m q x).alloc = w.alloc := by unfold Warp.setPred; split <;> rfl
@[simp] theorem setPred_v (w : Warp) (m : LaneMask) (q : Nat) (x : LaneMask) : (w.setPred m q x).v = w.v := by unfold Warp.setPred; split <;> rfl
@[simp] theorem setPred_s (w : Warp) (m : LaneMask) (q : Nat) (x : LaneMask) : (w.setPred m q x).s = w.s := by unfold Warp.setPred; split <;> rfl
@[simp] theorem setPred_bank (w : Warp) (m : LaneMask) (q : Nat) (x : LaneMask) : (w.setPred m q x).bank = w.bank := by unfold Warp.setPred; split <;> rfl
@[simp] theorem setPred_h (w : Warp) (m : LaneMask) (q : Nat) (x : LaneMask) : (w.setPred m q x).h = w.h := by unfold Warp.setPred; split <;> rfl
@[simp] theorem setPred_rstack (w : Warp) (m : LaneMask) (q : Nat) (x : LaneMask) : (w.setPred m q x).rstack = w.rstack := by unfold Warp.setPred; split <;> rfl
@[simp] theorem setPred_mask (w : Warp) (m : LaneMask) (q : Nat) (x : LaneMask) : (w.setPred m q x).mask = w.mask := by unfold Warp.setPred; split <;> rfl
@[simp] theorem setPred_cwin (w : Warp) (m : LaneMask) (q : Nat) (x : LaneMask) : (w.setPred m q x).cwin = w.cwin := by unfold Warp.setPred; split <;> rfl
@[simp] theorem setPred_cause (w : Warp) (m : LaneMask) (q : Nat) (x : LaneMask) : (w.setPred m q x).cause = w.cause := by unfold Warp.setPred; split <;> rfl
@[simp] theorem setPred_faddr (w : Warp) (m : LaneMask) (q : Nat) (x : LaneMask) : (w.setPred m q x).faddr = w.faddr := by unfold Warp.setPred; split <;> rfl
@[simp] theorem setPred_fpc (w : Warp) (m : LaneMask) (q : Nat) (x : LaneMask) : (w.setPred m q x).fpc = w.fpc := by unfold Warp.setPred; split <;> rfl
@[simp] theorem setPred_fpcWritten (w : Warp) (m : LaneMask) (q : Nat) (x : LaneMask) : (w.setPred m q x).fpcWritten = w.fpcWritten := by unfold Warp.setPred; split <;> rfl
@[simp] theorem setPred_mode (w : Warp) (m : LaneMask) (q : Nat) (x : LaneMask) : (w.setPred m q x).mode = w.mode := by unfold Warp.setPred; split <;> rfl
@[simp] theorem setPred_frame (w : Warp) (m : LaneMask) (q : Nat) (x : LaneMask) : (w.setPred m q x).frame = w.frame := by unfold Warp.setPred; split <;> rfl
@[simp] theorem setPred_slots (w : Warp) (m : LaneMask) (q : Nat) (x : LaneMask) : (w.setPred m q x).slots = w.slots := by unfold Warp.setPred; split <;> rfl
@[simp] theorem setPred_parked (w : Warp) (m : LaneMask) (q : Nat) (x : LaneMask) : (w.setPred m q x).parked = w.parked := by unfold Warp.setPred; split <;> rfl
@[simp] theorem setPred_lastSlot (w : Warp) (m : LaneMask) (q : Nat) (x : LaneMask) : (w.setPred m q x).lastSlot = w.lastSlot := by unfold Warp.setPred; split <;> rfl
@[simp] theorem setPred_inGroup (w : Warp) (m : LaneMask) (q : Nat) (x : LaneMask) : (w.setPred m q x).inGroup = w.inGroup := by unfold Warp.setPred; split <;> rfl
@[simp] theorem setPred_exited (w : Warp) (m : LaneMask) (q : Nat) (x : LaneMask) : (w.setPred m q x).exited = w.exited := by unfold Warp.setPred; split <;> rfl
@[simp] theorem setPred_logid (w : Warp) (m : LaneMask) (q : Nat) (x : LaneMask) : (w.setPred m q x).logid = w.logid := by unfold Warp.setPred; split <;> rfl
@[simp] theorem setPred_rank (w : Warp) (m : LaneMask) (q : Nat) (x : LaneMask) : (w.setPred m q x).rank = w.rank := by unfold Warp.setPred; split <;> rfl
@[simp] theorem setPred_lineage (w : Warp) (m : LaneMask) (q : Nat) (x : LaneMask) : (w.setPred m q x).lineage = w.lineage := by unfold Warp.setPred; split <;> rfl
@[simp] theorem setPred_parent (w : Warp) (m : LaneMask) (q : Nat) (x : LaneMask) : (w.setPred m q x).parent = w.parent := by unfold Warp.setPred; split <;> rfl
@[simp] theorem setPred_rays (w : Warp) (m : LaneMask) (q : Nat) (x : LaneMask) : (w.setPred m q x).rays = w.rays := by unfold Warp.setPred; split <;> rfl
@[simp] theorem setPred_idxLatch (w : Warp) (m : LaneMask) (q : Nat) (x : LaneMask) : (w.setPred m q x).idxLatch = w.idxLatch := by unfold Warp.setPred; split <;> rfl
@[simp] theorem setPred_region (w : Warp) (m : LaneMask) (q : Nat) (x : LaneMask) : (w.setPred m q x).region = w.region := by unfold Warp.setPred; split <;> rfl
@[simp] theorem setPred_stepFlag (w : Warp) (m : LaneMask) (q : Nat) (x : LaneMask) : (w.setPred m q x).stepFlag = w.stepFlag := by unfold Warp.setPred; split <;> rfl
@[simp] theorem setPred_stepDue (w : Warp) (m : LaneMask) (q : Nat) (x : LaneMask) : (w.setPred m q x).stepDue = w.stepDue := by unfold Warp.setPred; split <;> rfl
@[simp] theorem setPred_due (w : Warp) (m : LaneMask) (q : Nat) (x : LaneMask) : (w.setPred m q x).due = w.due := by unfold Warp.setPred; split <;> rfl
@[simp] theorem setPred_growReq (w : Warp) (m : LaneMask) (q : Nat) (x : LaneMask) : (w.setPred m q x).growReq = w.growReq := by unfold Warp.setPred; split <;> rfl
@[simp] theorem setPred_sq (w : Warp) (m : LaneMask) (q : Nat) (x : LaneMask) : (w.setPred m q x).sq = w.sq := by unfold Warp.setPred; split <;> rfl
@[simp] theorem setPred_loads (w : Warp) (m : LaneMask) (q : Nat) (x : LaneMask) : (w.setPred m q x).loads = w.loads := by unfold Warp.setPred; split <;> rfl
@[simp] theorem setPred_stores (w : Warp) (m : LaneMask) (q : Nat) (x : LaneMask) : (w.setPred m q x).stores = w.stores := by unfold Warp.setPred; split <;> rfl
@[simp] theorem setPred_copies (w : Warp) (m : LaneMask) (q : Nat) (x : LaneMask) : (w.setPred m q x).copies = w.copies := by unfold Warp.setPred; split <;> rfl
@[simp] theorem setPred_tileops (w : Warp) (m : LaneMask) (q : Nat) (x : LaneMask) : (w.setPred m q x).tileops = w.tileops := by unfold Warp.setPred; split <;> rfl
@[simp] theorem setPred_issued (w : Warp) (m : LaneMask) (q : Nat) (x : LaneMask) : (w.setPred m q x).issued = w.issued := by unfold Warp.setPred; split <;> rfl
@[simp] theorem setPred_asyncs (w : Warp) (m : LaneMask) (q : Nat) (x : LaneMask) : (w.setPred m q x).asyncs = w.asyncs := by unfold Warp.setPred; split <;> rfl
@[simp] theorem setPred_lostOps (w : Warp) (m : LaneMask) (q : Nat) (x : LaneMask) : (w.setPred m q x).lostOps = w.lostOps := by unfold Warp.setPred; split <;> rfl
@[simp] theorem setPred_seq (w : Warp) (m : LaneMask) (q : Nat) (x : LaneMask) : (w.setPred m q x).seq = w.seq := by unfold Warp.setPred; split <;> rfl
@[simp] theorem setPred_relDeps (w : Warp) (m : LaneMask) (q : Nat) (x : LaneMask) : (w.setPred m q x).relDeps = w.relDeps := by unfold Warp.setPred; split <;> rfl
@[simp] theorem setPred_fences (w : Warp) (m : LaneMask) (q : Nat) (x : LaneMask) : (w.setPred m q x).fences = w.fences := by unfold Warp.setPred; split <;> rfl
@[simp] theorem setPred_seen (w : Warp) (m : LaneMask) (q : Nat) (x : LaneMask) : (w.setPred m q x).seen = w.seen := by unfold Warp.setPred; split <;> rfl
@[simp] theorem setPred_rv (w : Warp) (m : LaneMask) (q : Nat) (x : LaneMask) : (w.setPred m q x).rv = w.rv := by unfold Warp.setPred; split <;> rfl
@[simp] theorem setPred_xchg (w : Warp) (m : LaneMask) (q : Nat) (x : LaneMask) : (w.setPred m q x).xchg = w.xchg := by unfold Warp.setPred; split <;> rfl
@[simp] theorem setPred_issuedAt (w : Warp) (m : LaneMask) (q : Nat) (x : LaneMask) : (w.setPred m q x).issuedAt = w.issuedAt := by unfold Warp.setPred; split <;> rfl
@[simp] theorem setPred_doneAt (w : Warp) (m : LaneMask) (q : Nat) (x : LaneMask) : (w.setPred m q x).doneAt = w.doneAt := by unfold Warp.setPred; split <;> rfl
@[simp] theorem setPred_orphan (w : Warp) (m : LaneMask) (q : Nat) (x : LaneMask) : (w.setPred m q x).orphan = w.orphan := by unfold Warp.setPred; split <;> rfl

/-! ### `Warp.mapSplits` -/

@[simp] theorem mapSplits_uid (w : Warp) (g : Split → Split) : (w.mapSplits g).uid = w.uid := rfl
@[simp] theorem mapSplits_block (w : Warp) (g : Split → Split) : (w.mapSplits g).block = w.block := rfl
@[simp] theorem mapSplits_core (w : Warp) (g : Split → Split) : (w.mapSplits g).core = w.core := rfl
@[simp] theorem mapSplits_slot (w : Warp) (g : Split → Split) : (w.mapSplits g).slot = w.slot := rfl
@[simp] theorem mapSplits_wid (w : Warp) (g : Split → Split) : (w.mapSplits g).wid = w.wid := rfl
@[simp] theorem mapSplits_alloc (w : Warp) (g : Split → Split) : (w.mapSplits g).alloc = w.alloc := rfl
@[simp] theorem mapSplits_v (w : Warp) (g : Split → Split) : (w.mapSplits g).v = w.v := rfl
@[simp] theorem mapSplits_s (w : Warp) (g : Split → Split) : (w.mapSplits g).s = w.s := rfl
@[simp] theorem mapSplits_bank (w : Warp) (g : Split → Split) : (w.mapSplits g).bank = w.bank := rfl
@[simp] theorem mapSplits_p (w : Warp) (g : Split → Split) : (w.mapSplits g).p = w.p := rfl
@[simp] theorem mapSplits_h (w : Warp) (g : Split → Split) : (w.mapSplits g).h = w.h := rfl
@[simp] theorem mapSplits_rstack (w : Warp) (g : Split → Split) : (w.mapSplits g).rstack = w.rstack := rfl
@[simp] theorem mapSplits_mask (w : Warp) (g : Split → Split) : (w.mapSplits g).mask = w.mask := rfl
@[simp] theorem mapSplits_cwin (w : Warp) (g : Split → Split) : (w.mapSplits g).cwin = w.cwin := rfl
@[simp] theorem mapSplits_cause (w : Warp) (g : Split → Split) : (w.mapSplits g).cause = w.cause := rfl
@[simp] theorem mapSplits_faddr (w : Warp) (g : Split → Split) : (w.mapSplits g).faddr = w.faddr := rfl
@[simp] theorem mapSplits_fpc (w : Warp) (g : Split → Split) : (w.mapSplits g).fpc = w.fpc := rfl
@[simp] theorem mapSplits_fpcWritten (w : Warp) (g : Split → Split) : (w.mapSplits g).fpcWritten = w.fpcWritten := rfl
@[simp] theorem mapSplits_mode (w : Warp) (g : Split → Split) : (w.mapSplits g).mode = w.mode := rfl
@[simp] theorem mapSplits_frame (w : Warp) (g : Split → Split) : (w.mapSplits g).frame = w.frame := rfl
@[simp] theorem mapSplits_slots (w : Warp) (g : Split → Split) : (w.mapSplits g).slots = w.slots.map fun (o : Option Split) => o.map g := rfl
@[simp] theorem mapSplits_parked (w : Warp) (g : Split → Split) : (w.mapSplits g).parked = w.parked.map g := rfl
@[simp] theorem mapSplits_lastSlot (w : Warp) (g : Split → Split) : (w.mapSplits g).lastSlot = w.lastSlot := rfl
@[simp] theorem mapSplits_inGroup (w : Warp) (g : Split → Split) : (w.mapSplits g).inGroup = w.inGroup := rfl
@[simp] theorem mapSplits_exited (w : Warp) (g : Split → Split) : (w.mapSplits g).exited = w.exited := rfl
@[simp] theorem mapSplits_logid (w : Warp) (g : Split → Split) : (w.mapSplits g).logid = w.logid := rfl
@[simp] theorem mapSplits_rank (w : Warp) (g : Split → Split) : (w.mapSplits g).rank = w.rank := rfl
@[simp] theorem mapSplits_lineage (w : Warp) (g : Split → Split) : (w.mapSplits g).lineage = w.lineage := rfl
@[simp] theorem mapSplits_parent (w : Warp) (g : Split → Split) : (w.mapSplits g).parent = w.parent := rfl
@[simp] theorem mapSplits_rays (w : Warp) (g : Split → Split) : (w.mapSplits g).rays = w.rays := rfl
@[simp] theorem mapSplits_idxLatch (w : Warp) (g : Split → Split) : (w.mapSplits g).idxLatch = w.idxLatch := rfl
@[simp] theorem mapSplits_region (w : Warp) (g : Split → Split) : (w.mapSplits g).region = w.region := rfl
@[simp] theorem mapSplits_stepFlag (w : Warp) (g : Split → Split) : (w.mapSplits g).stepFlag = w.stepFlag := rfl
@[simp] theorem mapSplits_stepDue (w : Warp) (g : Split → Split) : (w.mapSplits g).stepDue = w.stepDue := rfl
@[simp] theorem mapSplits_due (w : Warp) (g : Split → Split) : (w.mapSplits g).due = w.due := rfl
@[simp] theorem mapSplits_growReq (w : Warp) (g : Split → Split) : (w.mapSplits g).growReq = w.growReq := rfl
@[simp] theorem mapSplits_sq (w : Warp) (g : Split → Split) : (w.mapSplits g).sq = w.sq := rfl
@[simp] theorem mapSplits_loads (w : Warp) (g : Split → Split) : (w.mapSplits g).loads = w.loads := rfl
@[simp] theorem mapSplits_stores (w : Warp) (g : Split → Split) : (w.mapSplits g).stores = w.stores := rfl
@[simp] theorem mapSplits_copies (w : Warp) (g : Split → Split) : (w.mapSplits g).copies = w.copies := rfl
@[simp] theorem mapSplits_tileops (w : Warp) (g : Split → Split) : (w.mapSplits g).tileops = w.tileops := rfl
@[simp] theorem mapSplits_issued (w : Warp) (g : Split → Split) : (w.mapSplits g).issued = w.issued := rfl
@[simp] theorem mapSplits_asyncs (w : Warp) (g : Split → Split) : (w.mapSplits g).asyncs = w.asyncs := rfl
@[simp] theorem mapSplits_lostOps (w : Warp) (g : Split → Split) : (w.mapSplits g).lostOps = w.lostOps := rfl
@[simp] theorem mapSplits_seq (w : Warp) (g : Split → Split) : (w.mapSplits g).seq = w.seq := rfl
@[simp] theorem mapSplits_relDeps (w : Warp) (g : Split → Split) : (w.mapSplits g).relDeps = w.relDeps := rfl
@[simp] theorem mapSplits_fences (w : Warp) (g : Split → Split) : (w.mapSplits g).fences = w.fences := rfl
@[simp] theorem mapSplits_seen (w : Warp) (g : Split → Split) : (w.mapSplits g).seen = w.seen := rfl
@[simp] theorem mapSplits_rv (w : Warp) (g : Split → Split) : (w.mapSplits g).rv = w.rv := rfl
@[simp] theorem mapSplits_xchg (w : Warp) (g : Split → Split) : (w.mapSplits g).xchg = w.xchg := rfl
@[simp] theorem mapSplits_issuedAt (w : Warp) (g : Split → Split) : (w.mapSplits g).issuedAt = w.issuedAt := rfl
@[simp] theorem mapSplits_doneAt (w : Warp) (g : Split → Split) : (w.mapSplits g).doneAt = w.doneAt := rfl
@[simp] theorem mapSplits_orphan (w : Warp) (g : Split → Split) : (w.mapSplits g).orphan = w.orphan := rfl

/-! ### `Warp.modSplit` -/

@[simp] theorem modSplit_uid (w : Warp) (k : Nat) (g : Split → Split) : (w.modSplit k g).uid = w.uid := rfl
@[simp] theorem modSplit_block (w : Warp) (k : Nat) (g : Split → Split) : (w.modSplit k g).block = w.block := rfl
@[simp] theorem modSplit_core (w : Warp) (k : Nat) (g : Split → Split) : (w.modSplit k g).core = w.core := rfl
@[simp] theorem modSplit_slot (w : Warp) (k : Nat) (g : Split → Split) : (w.modSplit k g).slot = w.slot := rfl
@[simp] theorem modSplit_wid (w : Warp) (k : Nat) (g : Split → Split) : (w.modSplit k g).wid = w.wid := rfl
@[simp] theorem modSplit_alloc (w : Warp) (k : Nat) (g : Split → Split) : (w.modSplit k g).alloc = w.alloc := rfl
@[simp] theorem modSplit_v (w : Warp) (k : Nat) (g : Split → Split) : (w.modSplit k g).v = w.v := rfl
@[simp] theorem modSplit_s (w : Warp) (k : Nat) (g : Split → Split) : (w.modSplit k g).s = w.s := rfl
@[simp] theorem modSplit_bank (w : Warp) (k : Nat) (g : Split → Split) : (w.modSplit k g).bank = w.bank := rfl
@[simp] theorem modSplit_p (w : Warp) (k : Nat) (g : Split → Split) : (w.modSplit k g).p = w.p := rfl
@[simp] theorem modSplit_h (w : Warp) (k : Nat) (g : Split → Split) : (w.modSplit k g).h = w.h := rfl
@[simp] theorem modSplit_rstack (w : Warp) (k : Nat) (g : Split → Split) : (w.modSplit k g).rstack = w.rstack := rfl
@[simp] theorem modSplit_mask (w : Warp) (k : Nat) (g : Split → Split) : (w.modSplit k g).mask = w.mask := rfl
@[simp] theorem modSplit_cwin (w : Warp) (k : Nat) (g : Split → Split) : (w.modSplit k g).cwin = w.cwin := rfl
@[simp] theorem modSplit_cause (w : Warp) (k : Nat) (g : Split → Split) : (w.modSplit k g).cause = w.cause := rfl
@[simp] theorem modSplit_faddr (w : Warp) (k : Nat) (g : Split → Split) : (w.modSplit k g).faddr = w.faddr := rfl
@[simp] theorem modSplit_fpc (w : Warp) (k : Nat) (g : Split → Split) : (w.modSplit k g).fpc = w.fpc := rfl
@[simp] theorem modSplit_fpcWritten (w : Warp) (k : Nat) (g : Split → Split) : (w.modSplit k g).fpcWritten = w.fpcWritten := rfl
@[simp] theorem modSplit_mode (w : Warp) (k : Nat) (g : Split → Split) : (w.modSplit k g).mode = w.mode := rfl
@[simp] theorem modSplit_frame (w : Warp) (k : Nat) (g : Split → Split) : (w.modSplit k g).frame = w.frame := rfl
@[simp] theorem modSplit_slots (w : Warp) (k : Nat) (g : Split → Split) : (w.modSplit k g).slots = w.slots.setIfInBounds k ((w.split? k).map g) := rfl
@[simp] theorem modSplit_parked (w : Warp) (k : Nat) (g : Split → Split) : (w.modSplit k g).parked = w.parked := rfl
@[simp] theorem modSplit_lastSlot (w : Warp) (k : Nat) (g : Split → Split) : (w.modSplit k g).lastSlot = w.lastSlot := rfl
@[simp] theorem modSplit_inGroup (w : Warp) (k : Nat) (g : Split → Split) : (w.modSplit k g).inGroup = w.inGroup := rfl
@[simp] theorem modSplit_exited (w : Warp) (k : Nat) (g : Split → Split) : (w.modSplit k g).exited = w.exited := rfl
@[simp] theorem modSplit_logid (w : Warp) (k : Nat) (g : Split → Split) : (w.modSplit k g).logid = w.logid := rfl
@[simp] theorem modSplit_rank (w : Warp) (k : Nat) (g : Split → Split) : (w.modSplit k g).rank = w.rank := rfl
@[simp] theorem modSplit_lineage (w : Warp) (k : Nat) (g : Split → Split) : (w.modSplit k g).lineage = w.lineage := rfl
@[simp] theorem modSplit_parent (w : Warp) (k : Nat) (g : Split → Split) : (w.modSplit k g).parent = w.parent := rfl
@[simp] theorem modSplit_rays (w : Warp) (k : Nat) (g : Split → Split) : (w.modSplit k g).rays = w.rays := rfl
@[simp] theorem modSplit_idxLatch (w : Warp) (k : Nat) (g : Split → Split) : (w.modSplit k g).idxLatch = w.idxLatch := rfl
@[simp] theorem modSplit_region (w : Warp) (k : Nat) (g : Split → Split) : (w.modSplit k g).region = w.region := rfl
@[simp] theorem modSplit_stepFlag (w : Warp) (k : Nat) (g : Split → Split) : (w.modSplit k g).stepFlag = w.stepFlag := rfl
@[simp] theorem modSplit_stepDue (w : Warp) (k : Nat) (g : Split → Split) : (w.modSplit k g).stepDue = w.stepDue := rfl
@[simp] theorem modSplit_due (w : Warp) (k : Nat) (g : Split → Split) : (w.modSplit k g).due = w.due := rfl
@[simp] theorem modSplit_growReq (w : Warp) (k : Nat) (g : Split → Split) : (w.modSplit k g).growReq = w.growReq := rfl
@[simp] theorem modSplit_sq (w : Warp) (k : Nat) (g : Split → Split) : (w.modSplit k g).sq = w.sq := rfl
@[simp] theorem modSplit_loads (w : Warp) (k : Nat) (g : Split → Split) : (w.modSplit k g).loads = w.loads := rfl
@[simp] theorem modSplit_stores (w : Warp) (k : Nat) (g : Split → Split) : (w.modSplit k g).stores = w.stores := rfl
@[simp] theorem modSplit_copies (w : Warp) (k : Nat) (g : Split → Split) : (w.modSplit k g).copies = w.copies := rfl
@[simp] theorem modSplit_tileops (w : Warp) (k : Nat) (g : Split → Split) : (w.modSplit k g).tileops = w.tileops := rfl
@[simp] theorem modSplit_issued (w : Warp) (k : Nat) (g : Split → Split) : (w.modSplit k g).issued = w.issued := rfl
@[simp] theorem modSplit_asyncs (w : Warp) (k : Nat) (g : Split → Split) : (w.modSplit k g).asyncs = w.asyncs := rfl
@[simp] theorem modSplit_lostOps (w : Warp) (k : Nat) (g : Split → Split) : (w.modSplit k g).lostOps = w.lostOps := rfl
@[simp] theorem modSplit_seq (w : Warp) (k : Nat) (g : Split → Split) : (w.modSplit k g).seq = w.seq := rfl
@[simp] theorem modSplit_relDeps (w : Warp) (k : Nat) (g : Split → Split) : (w.modSplit k g).relDeps = w.relDeps := rfl
@[simp] theorem modSplit_fences (w : Warp) (k : Nat) (g : Split → Split) : (w.modSplit k g).fences = w.fences := rfl
@[simp] theorem modSplit_seen (w : Warp) (k : Nat) (g : Split → Split) : (w.modSplit k g).seen = w.seen := rfl
@[simp] theorem modSplit_rv (w : Warp) (k : Nat) (g : Split → Split) : (w.modSplit k g).rv = w.rv := rfl
@[simp] theorem modSplit_xchg (w : Warp) (k : Nat) (g : Split → Split) : (w.modSplit k g).xchg = w.xchg := rfl
@[simp] theorem modSplit_issuedAt (w : Warp) (k : Nat) (g : Split → Split) : (w.modSplit k g).issuedAt = w.issuedAt := rfl
@[simp] theorem modSplit_doneAt (w : Warp) (k : Nat) (g : Split → Split) : (w.modSplit k g).doneAt = w.doneAt := rfl
@[simp] theorem modSplit_orphan (w : Warp) (k : Nat) (g : Split → Split) : (w.modSplit k g).orphan = w.orphan := rfl

end Sys2Proof.Machine
end

