-- ==== Sys2Proof/Laws/Issue.lean ====
section
/-! SUPPORT. What the checks before an effect and the completion of a group do, said once: the claims about single instructions rest on
these lemmas. -/

namespace Sys2Proof.Machine

open Sys2Proof

theorem warp?_uid {s : State} {u : Nat} {w : Warp} (h : s.warp? u = some w) : w.uid = u := by
  have := List.find?_some h
  simpa using this

theorem roundShadows_warps (s : State) (ks : List Nat) : (s.roundShadows ks).warps = s.warps := by
  unfold State.roundShadows State.roundThose State.remember
  dsimp only
  split <;> rfl

theorem noteCached_warp? (s : State) (ks : List Nat) (u : Nat) : (s.noteCached ks).warp? u = s.warp? u := by
  unfold State.noteCached
  dsimp only
  split
  · rfl
  · rw [State.warp?, roundShadows_warps]; rfl

theorem cacheConsts_warp? (s : State) (j : Job) (k : Nat) (ws : List Nat) (u : Nat) : (s.cacheConsts j k ws).warp? u = s.warp? u := by
  unfold State.cacheConsts
  dsimp only
  rw [noteCached_warp?]
  split <;> rfl

theorem cacheOperand_warp? (s : State) (m : Meta) (j : Job) (u : Nat) : (s.cacheOperand m j).warp? u = s.warp? u := by
  unfold State.cacheOperand
  split
  · split
    · rfl
    · exact cacheConsts_warp? ..
  · rfl

/-- The last of the checks lets a group go with the job it was given. -/
theorem judgeMembers_go {s s' : State} {m : Meta} {j j' : Job} {x : Option (BitVec 20)} {k : LaneMask}
    (h : s.judgeMembers m j x k = .go s' j') : j' = j ∧ s' = s.cacheOperand m j := by
  unfold State.judgeMembers at h
  split at h
  · cases h
  · dsimp only at h
    split at h
    · cases h
    · cases h; exact ⟨rfl, rfl⟩

/-- A group that passes its checks is of the issuing warp as it then is, at the scope that the instruction names. -/
theorem judge_go {s s' : State} {m : Meta} {j : Job} (h : s.judge m = .go s' j) : s'.warp? j.w.uid = some j.w ∧ j.scope = m.scope := by
  unfold State.judge at h
  split at h
  · cases h
  · split at h
    · dsimp only at h
      split at h
      · cases h
      · split at h
        · cases h
        · split at h
          · cases h
          · split at h
            · cases h
            · split at h
              · cases h
              · split at h
                · cases h
                · split at h
                  · cases h
                  · rename_i hw
                    obtain ⟨rfl, rfl⟩ := judgeMembers_go h
                    rw [cacheOperand_warp?]
                    refine ⟨?_, rfl⟩
                    rw [warp?_uid hw]; exact hw
    · cases h

theorem judge_warp {s s' : State} {m : Meta} {j : Job} (h : s.judge m = .go s' j) : s'.warp? j.w.uid = some j.w := (judge_go h).1

theorem find_map_uid (l : List Warp) (f : Warp → Warp) (hf : ∀ w, (f w).uid = w.uid) (v : Nat) :
    (l.map f).find? (·.uid == v) = (l.find? (·.uid == v)).map f := by
  induction l with
  | nil => rfl
  | cons x xs ih =>
    simp only [List.map_cons, List.find?_cons, hf]
    split <;> simp_all

/-- The warps of a machine after a change of every warp that keeps their numbers. -/
theorem warp?_of_map {s t : State} (f : Warp → Warp) (hf : ∀ w, (f w).uid = w.uid) (h : t.warps = s.warps.map f) (v : Nat) :
    t.warp? v = (s.warp? v).map f := by
  rw [State.warp?, h, find_map_uid _ _ hf]; rfl

/-- A change of warps that a program cannot see, and that moves no split. -/
structure Quiet (s t : State) : Prop where
  rest : t.rest = s.rest
  seen : ∀ u, t.seen u = s.seen u
  pc : ∀ u k, t.pcOf u k = s.pcOf u k

theorem Quiet.refl (s : State) : Quiet s s := ⟨rfl, fun _ => rfl, fun _ _ => rfl⟩
theorem Quiet.trans {s t r : State} (h : Quiet s t) (k : Quiet t r) : Quiet s r :=
  ⟨k.rest.trans h.rest, fun u => (k.seen u).trans (h.seen u), fun u n => (k.pc u n).trans (h.pc u n)⟩

theorem modRv_quiet (s : State) (w : Warp) (sc : Scope) (g : Rv → Rv) : Quiet s (s.modRv w sc g) := by
  refine ⟨?_, fun _ => rfl, fun _ _ => rfl⟩
  simp only [State.rest, State.modRv, State.modBlock, mapWhere, List.map_map]
  congr 1
  apply List.map_congr_left
  intro b _
  simp only [Function.comp]
  split
  · split <;> rfl
  · rfl

theorem mapSplits_pc (x : Warp) (g : Split → Split) (hg : ∀ y, (g y).pc = y.pc) (k : Nat) :
    ((x.mapSplits g).split? k).map (·.pc) = (x.split? k).map (·.pc) := by
  simp only [Warp.mapSplits, Warp.split?, Vector.getElem?_map]
  cases x.slots[k]? with
  | none => rfl
  | some o => cases o <;> simp [hg]

theorem quiet_of_map {s t : State} (f : Warp → Warp) (hf : ∀ w, (f w).uid = w.uid) (hr : ∀ w, (f w).regs = w.regs)
    (hp : ∀ w k, ((f w).split? k).map (·.pc) = (w.split? k).map (·.pc)) (hw : t.warps = s.warps.map f) (h : t.rest = s.rest) :
    Quiet s t := by
  refine ⟨h, fun u => ?_, fun u k => ?_⟩
  · simp only [State.seen, warp?_of_map f hf hw, Option.map_map]
    congr 1; funext w; exact hr w
  · simp only [State.pcOf, warp?_of_map f hf hw]
    cases s.warp? u with
    | none => rfl
    | some w => exact hp w k

theorem mapFrame_pc (x : Warp) (g : Split → Split) (k : Nat) : ((x.mapFrame g).split? k).map (·.pc) = (x.split? k).map (·.pc) := by
  rfl

theorem mapFrame_regs (x : Warp) : (x.mapFrame Split.unreleased).regs = x.regs := by
  simp only [Warp.regs, Warp.mapFrame, Option.map_map]
  congr 2
  funext fr
  simp only [Function.comp, Vector.map_map, List.map_map]
  congr 2
  funext o
  cases o <;> rfl

theorem setRv_uid (x : Warp) (r : RvState) : (x.setRv r).uid = x.uid := by unfold Warp.setRv; split <;> rfl
theorem setRv_regs (x : Warp) (r : RvState) : (x.setRv r).regs = x.regs := by unfold Warp.setRv; split <;> rfl
theorem setRv_split (x : Warp) (r : RvState) (k : Nat) : (x.setRv r).split? k = x.split? k := by unfold Warp.setRv; split <;> rfl

/-- Forgetting a release changes nothing that a program sees. -/
theorem unrelease_quiet (s : State) (w : Warp) (sc : Scope) : Quiet s (s.unrelease w sc) := by
  refine quiet_of_map (fun x => if ((s.members w sc).map (·.uid)).contains x.uid then
    (x.mapSplits Split.unreleased).mapFrame Split.unreleased else x) ?_ ?_ ?_ rfl rfl
  · intro w; split <;> rfl
  · intro w; split
    · exact mapFrame_regs _
    · rfl
  · intro w k; split
    · rw [mapFrame_pc]; exact mapSplits_pc _ Split.unreleased (fun _ => rfl) k
    · rfl

theorem partDone_quiet (s : State) (w : Warp) (sc : Scope) : Quiet s (s.partDone w sc) := by
  unfold State.partDone
  split
  · exact Quiet.refl _
  · refine quiet_of_map (fun x => if x.uid == w.uid then (x.mapSplits (fun y => { y with released := none })).setRv .opened else x) ?_ ?_ ?_ rfl rfl
    · intro w; split
      · rw [setRv_uid]; rfl
      · rfl
    · intro w; split
      · rw [setRv_regs]; rfl
      · rfl
    · intro x k; split
      · rw [setRv_split]; exact mapSplits_pc _ (fun y => { y with released := none }) (fun _ => rfl) k
      · rfl
  · dsimp only
    split
    · exact (modRv_quiet _ _ _ _).trans (unrelease_quiet _ _ _)
    · exact modRv_quiet _ _ _ _

theorem split_modSplit (w : Warp) (k : Nat) (g : Split → Split) : (w.modSplit k g).split? k = (w.split? k).map g := by
  simp only [Warp.modSplit, Warp.split?]
  by_cases h : k < 4
  · simp [h]
  · simp [h]

/-- A group completes in a warp: only the bookkeeping of its issue changes, and its split stands at the address given. -/
theorem finishAt_effect (s : State) (w w0 : Warp) (slot : Nat) (sc : Scope) (pc : Dword) (h : s.warp? w.uid = some w0) :
    (s.finishAt w slot sc pc).rest = s.rest ∧ (∀ u, (s.finishAt w slot sc pc).seen u = s.seen u) ∧
    (s.finishAt w slot sc pc).pcOf w.uid slot = (w0.split? slot).map fun _ => pc := by
  have q := fun t => partDone_quiet t w sc
  unfold State.finishAt
  dsimp only
  refine ⟨(q _).rest.trans rfl, fun u => ((q _).seen u).trans ?_, ((q _).pc _ _).trans ?_⟩
  · let f : Warp → Warp := fun x => if x.uid == w.uid then
      { x.modSplit slot (fun y => y.atGroup pc) with inGroup := none, lastSlot := slot, issuedAt := s.fresh, stepDue := if (x.modSplit slot (fun y => y.atGroup pc)).stepFlag && (x.modSplit slot (fun y => y.atGroup pc)).mode == .normal && ((x.modSplit slot (fun y => y.atGroup pc)).split? slot).isSome then some slot else none } else x
    simp only [State.seen]
    rw [warp?_of_map f (fun x => by simp only [f]; split <;> rfl) rfl]
    rw [Option.map_map]; congr 1; funext x
    simp only [Function.comp, f]; split <;> rfl
  · let f : Warp → Warp := fun x => if x.uid == w.uid then
      { x.modSplit slot (fun y => y.atGroup pc) with inGroup := none, lastSlot := slot, issuedAt := s.fresh, stepDue := if (x.modSplit slot (fun y => y.atGroup pc)).stepFlag && (x.modSplit slot (fun y => y.atGroup pc)).mode == .normal && ((x.modSplit slot (fun y => y.atGroup pc)).split? slot).isSome then some slot else none } else x
    simp only [State.pcOf]
    rw [warp?_of_map f (fun x => by simp only [f]; split <;> rfl) rfl, h]
    have hu := warp?_uid h
    simp only [Option.map_some, Option.bind_some, f, hu, beq_self_eq_true, if_true]
    show Option.map _ ((w0.modSplit slot _).split? slot) = _
    rw [split_modSplit, Option.map_map]; rfl

theorem finish_effect (s : State) (m : Meta) (j : Job) (w0 : Warp) (hm : m.cls.once = false) (h : s.warp? j.w.uid = some w0) :
    (s.finish m j).rest = s.rest ∧ (∀ u, (s.finish m j).seen u = s.seen u) ∧
    (s.finish m j).pcOf j.w.uid j.slot = (w0.split? j.slot).map fun _ => j.next := by
  unfold State.finish
  rw [hm]
  exact finishAt_effect s j.w w0 j.slot m.scope j.next h

theorem warp?_modWarp (s : State) (u v : Nat) (g : Warp → Warp) (hg : ∀ w, (g w).uid = w.uid) :
    (s.modWarp u g).warp? v = if v = u then (s.warp? v).map g else s.warp? v := by
  rw [warp?_of_map (fun x => if x.uid == u then g x else x) (fun x => by split <;> simp [hg]) rfl]
  cases h : s.warp? v with
  | none => simp
  | some w =>
    have := warp?_uid h
    simp only [Option.map_some, this]
    split <;> simp_all

/-- An instruction whose effect changes its warp alone completes. -/
theorem completes_of_put {i : Instr} {s s' : State} {j : Job} {m : Meta} {body : State → Job → Eff} (g : Warp → Warp)
    (hi : exec i s = issue m s body) (hj : s.judge m = .go s' j) (hb : body s' j = .next (s'.put j g))
    (hm : m.cls.once = false) (hg : ∀ w, (g w).uid = w.uid) (hs : ∀ w k, ((g w).split? k).map (·.pc) = (w.split? k).map (·.pc)) :
    Completes i s s' j (g j.w) := by
  have hw := judge_warp hj
  have hp : (s'.put j g).warp? j.w.uid = some (g j.w) := by
    rw [State.put, warp?_modWarp _ _ _ _ hg, if_pos rfl, hw]; rfl
  obtain ⟨h1, h2, h3⟩ := finish_effect (s'.put j g) m j (g j.w) hm hp
  refine ⟨(s'.put j g).finish m j, ?_, h1, fun u hu => (h2 u).trans ?_, (h2 _).trans ?_, ?_⟩
  · rw [hi]; simp only [issue, hj, hb, State.conclude]
  · simp only [State.seen, State.put, warp?_modWarp _ _ _ _ hg, if_neg hu]
  · simp only [State.seen, hp, Option.map_some]
  · unfold Passed
    rw [h3]
    have := hs j.w j.slot
    cases h : (g j.w).split? j.slot <;> cases h' : j.w.split? j.slot <;> simp_all

theorem lane_of_issue {i : Instr} {m : Meta} {k : ImmRow} {b : Opb} {f : Word → Word → Word → Word}
    (hi : ∀ s, exec i s = issue m s (laneOp k b f)) (hm : m.cls.once = false) : LaneResult i m k b f := by
  intro s s' j y hj hy
  refine completes_of_put (fun w => w.setRow j.live j.d _) (hi s) hj ?_ hm (fun _ => rfl) (fun _ _ => rfl)
  simp only [laneOp, hy, Got.eff, State.putRow]

/-! ## Updates that keep a warp's number and its splits -/

theorem setPred_split (w : Warp) (l : LaneMask) (q : Nat) (x : LaneMask) (k : Nat) : (w.setPred l q x).split? k = w.split? k := by
  unfold Warp.setPred; split <;> rfl
theorem setS_split (w : Warp) (r : Nat) (x : Word) (k : Nat) : (w.setS r x).split? k = w.split? k := by
  unfold Warp.setS; split <;> rfl

theorem combined_eq (comb : BitVec 2) (old new : Bool) :
    combined comb old new = if comb = 1 then old && new else if comb = 2 then old || new else new := by
  obtain rfl | rfl | rfl | rfl : comb = 0 ∨ comb = 1 ∨ comb = 2 ∨ comb = 3 := by revert comb; decide
  all_goals rfl

theorem floatTrap_none {j : Job} {fx : Nat → Fx} (h : ∀ n ∈ lanesOf j.live, fx n &&& j.ctx.fpxen = 0) : j.floatTrap fx = none := by
  unfold Job.floatTrap
  rw [List.find?_eq_none.mpr]
  intro n hn
  simp [h n hn]

/-! ## The shared shapes -/

theorem lane64_of_issue {i : Instr} {m : Meta} {s s' : State} {j : Job} {body : State → Job → Eff} {x : Row64}
    (hi : exec i s = issue m s body) (hj : s.judge m = .go s' j) (hm : m.cls.once = false) (hb : body s' j = .next (s'.putRow64 j x)) :
    Completes i s s' j (j.w.setRow64 j.live j.d x) :=
  completes_of_put (fun w => w.setRow64 j.live j.d x) hi hj hb hm (fun _ => rfl) (fun _ _ => rfl)

theorem compare_of_issue {i : Instr} {m : Meta} {b : Opb} {q : BitVec 3} {comb : BitVec 2} {c : Word → Word → Bool}
    (hi : ∀ s, exec i s = issue m s (laneCmp b q comb c)) (hm : m.cls.once = false) : CompareResult i m b q comb c := by
  intro s s' j y hj hy
  have := completes_of_put (i := i)
    (fun w => w.combine j.live q.toNat comb fun n => c (laneOf (j.w.row j.a) n) (laneOf y n)) (hi s) hj
    (by simp only [laneCmp, hy, Got.eff]) hm (fun _ => setPred_uid _ _ _ _) (fun _ _ => by rw [Warp.combine, setPred_split])
  simpa only [Warp.combine, combined_eq] using this

theorem float_of_issue {i : Instr} {m : Meta} {k : ImmRow} {b : Opb} {f : Job → Word → Word → Word → Word × Fx}
    (hi : ∀ s, exec i s = issue m s fun s j => laneFloat k b (f j) s j) (hm : m.cls.once = false) : FloatResult i m k b f := by
  intro s s' j y hj hy r hr
  refine completes_of_put (fun w => w.setRow j.live j.d _) (hi s) hj ?_ hm (fun _ => rfl) (fun _ _ => rfl)
  have := floatTrap_none hr
  simp only [r] at this
  simp only [laneFloat, hy, Got.eff, this, State.putRow, r]

theorem floatCompare_of_issue {i : Instr} {m : Meta} {b : Opb} {q : BitVec 3} {comb : BitVec 2} {c : Job → Word → Word → Bool × Fx}
    (hi : ∀ s, exec i s = issue m s fun s j => laneFcmp b q comb (c j) s j) (hm : m.cls.once = false) :
    FloatCompareResult i m b q comb c := by
  intro s s' j y hj hy r hr
  have ht := floatTrap_none hr
  simp only [r] at ht
  have := completes_of_put (i := i)
    (fun w => w.combine j.live q.toNat comb fun n => (c j (laneOf (j.w.row j.a) n) (laneOf y n)).1) (hi s) hj
    (by simp only [laneFcmp, hy, Got.eff, ht]) hm (fun _ => setPred_uid _ _ _ _) (fun _ _ => by rw [Warp.combine, setPred_split])
  simpa only [Warp.combine, combined_eq] using this

theorem scalar_of_issue {i : Instr} {m : Meta} {d a : Reg} {b : Opb} {f : Word → Word → Word}
    (hi : ∀ s, exec i s = issue m s (scalarOp d a b f)) (hm : m.cls.once = false) : ScalarResult i m d a b f := by
  intro s s' j y hj hy
  refine completes_of_put (fun w => w.setS d.toNat _) (hi s) hj ?_ hm (fun _ => setS_uid _ _ _) (fun _ _ => by rw [setS_split])
  simp only [scalarOp, hy, Got.eff]

/-! ## Effects beyond the warp -/

theorem concluded {i : Instr} {s s' : State} {j : Job} {m : Meta} {body : State → Job → Eff}
    (hi : exec i s = issue m s body) (hj : s.judge m = .go s' j) : exec i s = .next (s'.conclude m j (body s' j)) := by
  rw [hi]; simp only [issue, hj]

theorem ends_of {i : Instr} {s s' t : State} {j : Job} {m : Meta} {body : State → Job → Eff}
    (hi : exec i s = issue m s body) (hj : s.judge m = .go s' j) (hb : body s' j = .next t) : Ends i m s j t := by
  rw [Ends, concluded hi hj, hb]; rfl

theorem finishAt_quiet (s : State) (w : Warp) (slot : Nat) (sc : Scope) (pc : Dword) :
    (s.finishAt w slot sc pc).rest = s.rest ∧ ∀ u, (s.finishAt w slot sc pc).seen u = s.seen u := by
  have q := fun t => partDone_quiet t w sc
  unfold State.finishAt
  dsimp only
  refine ⟨(q _).rest.trans rfl, fun u => ((q _).seen u).trans ?_⟩
  let f : Warp → Warp := fun x => if x.uid == w.uid then
    { x.modSplit slot (fun y => y.atGroup pc) with inGroup := none, lastSlot := slot, issuedAt := s.fresh, stepDue := if (x.modSplit slot (fun y => y.atGroup pc)).stepFlag && (x.modSplit slot (fun y => y.atGroup pc)).mode == .normal && ((x.modSplit slot (fun y => y.atGroup pc)).split? slot).isSome then some slot else none } else x
  simp only [State.seen]
  rw [warp?_of_map f (fun x => by simp only [f]; split <;> rfl) rfl]
  rw [Option.map_map]; congr 1; funext x
  simp only [Function.comp, f]; split <;> rfl

/-- A group's completion changes nothing that a program sees. -/
theorem finish_quiet (s : State) (m : Meta) (j : Job) :
    (s.finish m j).rest = s.rest ∧ ∀ u, (s.finish m j).seen u = s.seen u := by
  unfold State.finish
  split
  · generalize j.members = ms
    induction ms generalizing s with
    | nil => exact ⟨rfl, fun _ => rfl⟩
    | cons w ws ih =>
      have h := finishAt_quiet s w (if w.uid = j.w.uid then j.slot else w.onlySlot) m.scope j.next
      have k := ih (s.finishAt w (if w.uid = j.w.uid then j.slot else w.onlySlot) m.scope j.next)
      exact ⟨k.1.trans h.1, fun u => (k.2 u).trans (h.2 u)⟩
  · exact finishAt_quiet _ _ _ _ _

/-- Changes of some warps leave the others and everything else alone. -/
theorem foldl_modWarp (ws : List Warp) (g : Warp → Warp → Warp) (hg : ∀ w x, (g w x).uid = x.uid) (s : State) :
    (ws.foldl (fun s w => s.modWarp w.uid (g w)) s).rest = s.rest ∧
    ∀ u, u ∉ ws.map (·.uid) → (ws.foldl (fun s w => s.modWarp w.uid (g w)) s).seen u = s.seen u := by
  induction ws generalizing s with
  | nil => exact ⟨rfl, fun _ _ => rfl⟩
  | cons w ws ih =>
    have k := ih (s.modWarp w.uid (g w))
    refine ⟨k.1.trans rfl, fun u hu => ?_⟩
    simp only [List.map_cons, List.mem_cons, not_or] at hu
    refine (k.2 u hu.2).trans ?_
    simp only [State.seen, warp?_modWarp _ _ _ _ (hg w), if_neg hu.1]

theorem span_of {i : Instr} {m : Meta} {s s' : State} {j : Job} {body : State → Job → Eff} {val : Warp → Nat → Word}
    (hi : exec i s = issue m s body) (hj : s.judge m = .go s' j) (hb : body s' j = .next (s'.putSpan j val)) :
    SpanResult i m s s' j val := by
  refine ⟨ends_of hi hj hb, ?_⟩
  have h := finish_quiet (s'.putSpan j val) m j
  have k := foldl_modWarp j.members (fun w x => x.setRow (j.contrib w) j.d (rowOf (val w))) (fun _ _ => rfl) s'
  exact ⟨h.1.trans k.1, fun u hu => (h.2 u).trans (k.2 u hu)⟩

theorem spanPred_of {i : Instr} {m : Meta} {s s' : State} {j : Job} {body : State → Job → Eff} {q : BitVec 3} {val : Bool}
    (hi : exec i s = issue m s body) (hj : s.judge m = .go s' j) (hb : body s' j = .next (s'.putSpanPred j q.toNat val)) :
    SpanPredResult i m s s' j q val := by
  refine ⟨ends_of hi hj hb, ?_⟩
  have h := finish_quiet (s'.putSpanPred j q.toNat val) m j
  have k := foldl_modWarp j.members (fun w x => x.setPred (j.contrib w) q.toNat (if val then 0xFFFFFFFF#32 else 0))
    (fun _ _ => setPred_uid _ _ _ _) s'
  exact ⟨h.1.trans k.1, fun u hu => (h.2 u).trans (k.2 u hu)⟩

/-- An operand that every member can read. -/
theorem eachMember_ok {α : Type} (j : Job) (ms : List Warp) (f : Job → Got α) (g : Warp → α) (k : List (Warp × α) → Eff)
    (h : ∀ w ∈ ms, f (j.onWarp w) = .ok (g w)) : eachMember j ms f k = k (ms.map fun w => (w, g w)) := by
  induction ms generalizing k with
  | nil => rfl
  | cons w ws ih =>
    rw [eachMember, h w (List.mem_cons_self ..)]
    exact ih _ fun x hx => h x (List.mem_cons_of_mem _ hx)

/-- What a job keeps of its checks. -/
theorem judge_scope {s s' : State} {m : Meta} {j : Job} (h : s.judge m = .go s' j) : j.scope = m.scope := (judge_go h).2

theorem put_id (s : State) (j : Job) : s.put j (fun w => w) = s := by
  have : mapWhere (fun w : Warp => w.uid == j.w.uid) (fun w => w) s.warps = s.warps := by simp [mapWhere]
  show { s with warps := mapWhere (fun w : Warp => w.uid == j.w.uid) (fun w => w) s.warps } = s
  rw [this]

theorem mem_lanesOf {m : LaneMask} {i : Nat} (h : i ∈ lanesOf m) : m.getLsbD i = true := by
  unfold lanesOf at h
  exact (List.mem_filter.mp h).2

theorem lanesOf_ne_nil {m : LaneMask} (h : m ≠ 0) : lanesOf m ≠ [] := by
  intro hn
  apply h
  apply BitVec.eq_of_getLsbD_eq
  intro i hi
  unfold lanesOf at hn
  rw [List.filter_eq_nil_iff] at hn
  have := hn i (by unfold lanes32; exact List.mem_range.mpr hi)
  simpa using this

/-- Lanes that all go to one target keep their slot there. -/
theorem divide_all (w : Warp) (slot : Nat) (f t : Dword) (l : List Nat) (h : l ≠ []) :
    w.divide slot (some f) (l.map fun i => (i, t)) =
      w.modSplit slot fun x =>
        { x.atGroup t with mask := maskOf fun i => (l.map fun i => (i, t)).any fun x => x.1 == i && x.2 == t } := by
  have e : ((l.map fun i => (i, t)).map fun x => x.2).eraseDups = [t] := by
    rw [List.map_map]
    cases l with
    | nil => exact absurd rfl h
    | cons x xs =>
      rw [List.map_cons, List.eraseDups_cons]
      have : (List.map ((fun x : Nat × Dword => x.2) ∘ fun i => (i, t)) xs).filter (fun b => !b == t) = [] := by
        rw [List.filter_eq_nil_iff]; intro a ha
        simp only [List.mem_map] at ha
        obtain ⟨_, _, rfl⟩ := ha
        simp
      show t :: (List.filter (fun b => !b == t) (List.map ((fun x : Nat × Dword => x.2) ∘ fun i => (i, t)) xs)).eraseDups = [t]
      rw [this]; rfl
  have ho : (if (sortBy BitVec.toNat [t]).contains f then f :: (sortBy BitVec.toNat [t]).filter (· != f)
      else sortBy BitVec.toNat [t]) = [t] := by
    have : sortBy BitVec.toNat [t] = [t] := rfl
    rw [this]
    by_cases hf : f = t
    · subst hf; simp
    · rw [if_neg]
      simp; exact fun h => hf h
  unfold Warp.divide
  simp only [e]
  rw [ho]
  rfl

end Sys2Proof.Machine
end

