-- ==== Sys2Proof/Laws/Mem.lean ====
section
/-! SUPPORT. Byte memory: what is written is read, and every operation keeps the canonical form. -/

namespace Sys2Proof.Machine

open Sys2Proof

theorem cellsAbove_weaken {lo : Option Nat} {l : Nat} {m : List Host.Cell} (h : cellsAbove (some l) m = true) (hl : ∀ x, lo = some x → x ≤ l) :
    cellsAbove lo m = true := by
  cases m with
  | nil => rfl
  | cons c t =>
    obtain ⟨a, b⟩ := c
    simp only [cellsAbove, Bool.and_eq_true, decide_eq_true_eq] at h ⊢
    refine ⟨⟨?_, h.1.2⟩, h.2⟩
    cases lo with
    | none => rfl
    | some x => have := hl x rfl; simp; omega

theorem memSet_above (m : List Host.Cell) (k : Nat) (b : Byte) : ∀ lo : Option Nat, (∀ x, lo = some x → x < k) → cellsAbove lo m = true →
    cellsAbove lo (memSet m k b) = true := by
  induction m with
  | nil =>
    intro lo hlo h
    unfold memSet
    split
    · rfl
    · rename_i hb
      cases lo with
      | none => simp [cellsAbove, hb]
      | some x => have := hlo x rfl; simp [cellsAbove, hb, this]
  | cons c t ih =>
    obtain ⟨a, x⟩ := c
    intro lo hlo h
    have h0 := h
    simp only [cellsAbove, Bool.and_eq_true, decide_eq_true_eq] at h
    unfold memSet
    split
    · rename_i hk
      split
      · exact h0
      · rename_i hb
        simp only [cellsAbove, Bool.and_eq_true, decide_eq_true_eq]
        refine ⟨⟨?_, hb⟩, ⟨hk, h.1.2⟩, h.2⟩
        cases lo with
        | none => rfl
        | some y => simpa using hlo y rfl
    · split
      · rename_i _ e; subst e
        split
        · exact cellsAbove_weaken h.2 (fun y hy => by have := hlo y hy; omega)
        · rename_i hb
          simp only [cellsAbove, Bool.and_eq_true, decide_eq_true_eq]
          exact ⟨⟨h.1.1, hb⟩, h.2⟩
      · rename_i h1 h2
        simp only [cellsAbove, Bool.and_eq_true, decide_eq_true_eq]
        refine ⟨h.1, ih (some a) (fun y hy => by cases hy; omega) h.2⟩

theorem memSet_wf {m : List Host.Cell} (h : Memory.wf m = true) (k : Nat) (b : Byte) : Memory.wf (memSet m k b) = true :=
  memSet_above m k b none (fun _ h => by cases h) h

theorem memWrite_wf {m : List Host.Cell} (h : Memory.wf m = true) (k : Nat) (bs : List Byte) : Memory.wf (memWrite m k bs) = true := by
  induction bs generalizing m k with
  | nil => exact h
  | cons b bs ih => exact ih (memSet_wf h k b) (k + 1)

theorem memGet_below {m : List Host.Cell} {lo : Nat} (h : cellsAbove (some lo) m = true) {k : Nat} (hk : k ≤ lo) : memGet m k = unlisted := by
  cases m with
  | nil => rfl
  | cons c t =>
    obtain ⟨a, b⟩ := c
    simp only [cellsAbove, Bool.and_eq_true, decide_eq_true_eq] at h
    unfold memGet
    rw [if_neg (by omega), if_pos (by omega)]

theorem memGet_cons (a : Nat) (b : Byte) (t : List Host.Cell) (k : Nat) :
    memGet ((a, b) :: t) k = if a = k then b else if k < a then unlisted else memGet t k := rfl

theorem memGet_memSet {m : List Host.Cell} : ∀ {lo : Option Nat}, cellsAbove lo m = true → ∀ (k : Nat) (b : Byte) (a : Nat),
    memGet (memSet m k b) a = if a = k then b else memGet m a := by
  induction m with
  | nil =>
    intro lo h k b a
    unfold memSet
    split
    · rename_i e; split
      · rw [e]; rfl
      · rfl
    · simp only [memGet]
      split
      · rename_i e; rw [if_pos e.symm]
      · rename_i e; rw [if_neg (Ne.symm e)]; split <;> rfl
  | cons c t ih =>
    obtain ⟨x, y⟩ := c
    intro lo h k b a
    simp only [cellsAbove, Bool.and_eq_true, decide_eq_true_eq] at h
    unfold memSet
    split
    · rename_i hk
      split
      · rename_i e
        split
        · rename_i ea; subst ea
          rw [e]; unfold memGet; rw [if_neg (by omega), if_pos hk]
        · rfl
      · rw [memGet_cons k b]
        split
        · rename_i e; rw [if_pos e.symm]
        · rename_i e
          rw [if_neg (Ne.symm e)]
          split
          · rename_i ha
            unfold memGet; rw [if_neg (by omega), if_pos (by omega)]
          · rfl
    · split
      · rename_i _ e; subst e
        split
        · rename_i e
          split
          · rename_i ea; subst ea; rw [e, memGet_below h.2 (Nat.le_refl _)]
          · rename_i ea
            rw [memGet_cons k y, if_neg (Ne.symm ea)]
            split
            · exact memGet_below h.2 (by omega)
            · rfl
        · simp only [memGet]
          split
          · rename_i ea; rw [if_pos ea.symm]
          · rename_i ea; rw [if_neg (Ne.symm ea)]
      · rename_i h1 h2
        simp only [memGet]
        split
        · rename_i e; rw [if_neg (by omega)]
        · split
          · rw [if_neg (by omega)]
          · exact ih h.2 k b a

theorem memGet_memWrite (bs : List Byte) : ∀ {m : List Host.Cell}, Memory.wf m = true → ∀ (k a : Nat),
    memGet (memWrite m k bs) a = if k ≤ a ∧ a < k + bs.length then bs.getD (a - k) 0 else memGet m a := by
  induction bs with
  | nil => intro m h k a; rw [if_neg (fun e => by have := e.2; simp at this; omega)]; rfl
  | cons b bs ih =>
    intro m h k a
    rw [show memWrite m k (b :: bs) = memWrite (memSet m k b) (k + 1) bs from rfl, ih (memSet_wf h k b), memGet_memSet h]
    simp only [List.length_cons]
    by_cases h1 : a = k
    · subst h1
      rw [if_neg (by omega), if_pos rfl, if_pos (by omega)]; simp
    · by_cases h2 : k + 1 ≤ a ∧ a < k + 1 + bs.length
      · rw [if_pos h2, if_pos (by omega)]
        rw [show a - k = (a - (k + 1)) + 1 by omega]; simp
      · rw [if_neg h2, if_neg h1, if_neg (by omega)]

theorem cells_ext (m m' : List Host.Cell) : ∀ lo, cellsAbove lo m = true → cellsAbove lo m' = true →
    (∀ a, memGet m a = memGet m' a) → m = m' := by
  induction m generalizing m' with
  | nil =>
    intro lo _ h' e
    cases m' with
    | nil => rfl
    | cons c t =>
      obtain ⟨a, b⟩ := c
      simp only [cellsAbove, Bool.and_eq_true, decide_eq_true_eq] at h'
      have := e a
      simp only [memGet, if_pos] at this
      exact absurd this.symm h'.1.2
  | cons c t ih =>
    obtain ⟨a, b⟩ := c
    intro lo h h' e
    have h0 := h
    simp only [cellsAbove, Bool.and_eq_true, decide_eq_true_eq] at h
    cases m' with
    | nil =>
      have := e a
      simp only [memGet, if_pos] at this
      exact absurd this h.1.2
    | cons c' t' =>
      obtain ⟨a', b'⟩ := c'
      simp only [cellsAbove, Bool.and_eq_true, decide_eq_true_eq] at h'
      have ea : a = a' := by
        rcases Nat.lt_trichotomy a a' with hl | hl | hl
        · have := e a
          simp only [memGet, if_pos] at this
          rw [if_neg (by omega), if_pos hl] at this
          exact absurd this h.1.2
        · exact hl
        · have := e a'
          simp only [memGet, if_pos] at this
          rw [if_neg (by omega), if_pos hl] at this
          exact absurd this.symm h'.1.2
      subst ea
      have eb : b = b' := by have := e a; simpa [memGet] using this
      subst eb
      rw [ih t' (some a) h.2 h'.2 (fun k => ?_)]
      by_cases hk : k ≤ a
      · rw [memGet_below h.2 hk, memGet_below h'.2 hk]
      · have := e k
        simp only [memGet] at this
        rw [if_neg (by omega), if_neg (by omega), if_neg (by omega), if_neg (by omega)] at this
        exact this

theorem leNat_leBytes (n : Nat) : ∀ x, leNat (leBytes n x) = x % 2 ^ (8 * n) := by
  induction n with
  | zero => intro x; simp [leBytes, leNat, Nat.mod_one]
  | succ n ih =>
    intro x
    simp only [leBytes, leNat, ih, BitVec.toNat_ofNat]
    rw [show 2 ^ (8 * (n + 1)) = 256 * 2 ^ (8 * n) by rw [show 8 * (n + 1) = 8 + 8 * n by omega, Nat.pow_add], Nat.mod_mul]

theorem leBytes_length (n : Nat) : ∀ x, (leBytes n x).length = n := by
  induction n with
  | zero => intro x; rfl
  | succ n ih => intro x; simp [leBytes, ih]

theorem memCells_wf {m : List Host.Cell} (h : Memory.wf m = true) (cs : List Host.Cell) : Memory.wf (memCells m cs) = true := by
  unfold memCells
  induction cs generalizing m with
  | nil => exact h
  | cons c cs ih => exact ih (memSet_wf h c.1 c.2)

/-- A memory keeps its form when cells are taken out of it. -/
theorem filter_above (p : Host.Cell → Bool) (m : List Host.Cell) : ∀ lo, cellsAbove lo m = true → cellsAbove lo (m.filter p) = true := by
  induction m with
  | nil => intro lo h; exact h
  | cons c t ih =>
    obtain ⟨a, b⟩ := c
    intro lo h
    have h0 := h
    simp only [cellsAbove, Bool.and_eq_true, decide_eq_true_eq] at h
    rw [List.filter_cons]
    split
    · simp only [cellsAbove, Bool.and_eq_true, decide_eq_true_eq]
      exact ⟨h.1, ih (some a) h.2⟩
    · have := ih (some a) h.2
      refine cellsAbove_weaken this (fun x hx => ?_)
      subst hx
      have := h.1.1
      simp only [decide_eq_true_eq] at this
      omega

theorem filter_wf {m : List Host.Cell} (h : Memory.wf m = true) (p : Host.Cell → Bool) : Memory.wf (m.filter p) = true :=
  filter_above p m none h

/-- A number written is read back. -/
theorem readNat_writeNat (s : State) (h : Memory.wf s.mem = true) (k n x : Nat) : (s.writeNat k n x).readNat k n = x % 2 ^ (8 * n) := by
  have : memRead (memWrite s.mem k (leBytes n x)) k n = leBytes n x := by
    apply List.ext_getElem
    · simp [memRead, leBytes_length]
    · intro i h1 h2
      simp only [memRead, List.getElem_map, List.getElem_range]
      rw [memGet_memWrite _ h, if_pos ⟨by omega, by rw [leBytes_length] at h2 ⊢; omega⟩]
      rw [show k + i - k = i by omega]
      rw [List.getD_eq_getElem?_getD, List.getElem?_eq_getElem h2]; rfl
  simp only [State.readNat, State.writeNat, this, leNat_leBytes]

end Sys2Proof.Machine
end

