-- ==== Sys2Proof/Laws/PerInstr.lean ====
section
/-! SUPPORT. One lemma for each constructor of Instr: its words decode to it (R21 to R51). -/

namespace Sys2Proof

/-- The words of a well-formed instruction decode to it, whatever bytes come after them. -/
def Laws.RoundTrip.Statement (i : Instr) : Prop :=
  WellFormed i → ∀ rest, decodeBytes (encodeBytes i ++ rest) = .ok (i, rest)

end Sys2Proof

namespace Sys2Proof.Laws.RoundTrip

open Sys2Proof

theorem iadd (sc : Scope) (d : Reg) (a : Reg) (b : Opb) : Statement (.iadd sc d a b) := by
  intro hw rest
  have hb : b.wf = true := hw.1
  refine roundOpb (fun x => .iadd sc d a x) b _ (fun _ => rfl) rfl (fun l => ?_) rest
  simp only [decodeMajor_1 _ _ (hdr_major _ _ _), hdr_scope, Scope.ofBits_bits, rForm_d, rForm_a, rForm_b, rForm_k, rForm_f, opbOf_bits _ hb]
  rfl

theorem isub (sc : Scope) (d : Reg) (a : Reg) (b : Opb) : Statement (.isub sc d a b) := by
  intro hw rest
  have hb : b.wf = true := hw.1
  refine roundOpb (fun x => .isub sc d a x) b _ (fun _ => rfl) rfl (fun l => ?_) rest
  simp only [decodeMajor_1 _ _ (hdr_major _ _ _), hdr_scope, Scope.ofBits_bits, rForm_d, rForm_a, rForm_b, rForm_k, rForm_f, opbOf_bits _ hb]
  rfl

theorem imul (sc : Scope) (d : Reg) (a : Reg) (b : Opb) : Statement (.imul sc d a b) := by
  intro hw rest
  have hb : b.wf = true := hw.1
  refine roundOpb (fun x => .imul sc d a x) b _ (fun _ => rfl) rfl (fun l => ?_) rest
  simp only [decodeMajor_1 _ _ (hdr_major _ _ _), hdr_scope, Scope.ofBits_bits, rForm_d, rForm_a, rForm_b, rForm_k, rForm_f, opbOf_bits _ hb]
  rfl

theorem imulhi (sc : Scope) (d : Reg) (a : Reg) (b : Opb) : Statement (.imulhi sc d a b) := by
  intro hw rest
  have hb : b.wf = true := hw.1
  refine roundOpb (fun x => .imulhi sc d a x) b _ (fun _ => rfl) rfl (fun l => ?_) rest
  simp only [decodeMajor_1 _ _ (hdr_major _ _ _), hdr_scope, Scope.ofBits_bits, rForm_d, rForm_a, rForm_b, rForm_k, rForm_f, opbOf_bits _ hb]
  rfl

theorem imulhiu (sc : Scope) (d : Reg) (a : Reg) (b : Opb) : Statement (.imulhiu sc d a b) := by
  intro hw rest
  have hb : b.wf = true := hw.1
  refine roundOpb (fun x => .imulhiu sc d a x) b _ (fun _ => rfl) rfl (fun l => ?_) rest
  simp only [decodeMajor_1 _ _ (hdr_major _ _ _), hdr_scope, Scope.ofBits_bits, rForm_d, rForm_a, rForm_b, rForm_k, rForm_f, opbOf_bits _ hb]
  rfl

theorem imin (sc : Scope) (d : Reg) (a : Reg) (b : Opb) : Statement (.imin sc d a b) := by
  intro hw rest
  have hb : b.wf = true := hw.1
  refine roundOpb (fun x => .imin sc d a x) b _ (fun _ => rfl) rfl (fun l => ?_) rest
  simp only [decodeMajor_1 _ _ (hdr_major _ _ _), hdr_scope, Scope.ofBits_bits, rForm_d, rForm_a, rForm_b, rForm_k, rForm_f, opbOf_bits _ hb]
  rfl

theorem imax (sc : Scope) (d : Reg) (a : Reg) (b : Opb) : Statement (.imax sc d a b) := by
  intro hw rest
  have hb : b.wf = true := hw.1
  refine roundOpb (fun x => .imax sc d a x) b _ (fun _ => rfl) rfl (fun l => ?_) rest
  simp only [decodeMajor_1 _ _ (hdr_major _ _ _), hdr_scope, Scope.ofBits_bits, rForm_d, rForm_a, rForm_b, rForm_k, rForm_f, opbOf_bits _ hb]
  rfl

theorem iminu (sc : Scope) (d : Reg) (a : Reg) (b : Opb) : Statement (.iminu sc d a b) := by
  intro hw rest
  have hb : b.wf = true := hw.1
  refine roundOpb (fun x => .iminu sc d a x) b _ (fun _ => rfl) rfl (fun l => ?_) rest
  simp only [decodeMajor_1 _ _ (hdr_major _ _ _), hdr_scope, Scope.ofBits_bits, rForm_d, rForm_a, rForm_b, rForm_k, rForm_f, opbOf_bits _ hb]
  rfl

theorem imaxu (sc : Scope) (d : Reg) (a : Reg) (b : Opb) : Statement (.imaxu sc d a b) := by
  intro hw rest
  have hb : b.wf = true := hw.1
  refine roundOpb (fun x => .imaxu sc d a x) b _ (fun _ => rfl) rfl (fun l => ?_) rest
  simp only [decodeMajor_1 _ _ (hdr_major _ _ _), hdr_scope, Scope.ofBits_bits, rForm_d, rForm_a, rForm_b, rForm_k, rForm_f, opbOf_bits _ hb]
  rfl

theorem iabsd (sc : Scope) (d : Reg) (a : Reg) (b : Opb) : Statement (.iabsd sc d a b) := by
  intro hw rest
  have hb : b.wf = true := hw.1
  refine roundOpb (fun x => .iabsd sc d a x) b _ (fun _ => rfl) rfl (fun l => ?_) rest
  simp only [decodeMajor_1 _ _ (hdr_major _ _ _), hdr_scope, Scope.ofBits_bits, rForm_d, rForm_a, rForm_b, rForm_k, rForm_f, opbOf_bits _ hb]
  rfl

theorem iaddsat (sc : Scope) (d : Reg) (a : Reg) (b : Opb) : Statement (.iaddsat sc d a b) := by
  intro hw rest
  have hb : b.wf = true := hw.1
  refine roundOpb (fun x => .iaddsat sc d a x) b _ (fun _ => rfl) rfl (fun l => ?_) rest
  simp only [decodeMajor_1 _ _ (hdr_major _ _ _), hdr_scope, Scope.ofBits_bits, rForm_d, rForm_a, rForm_b, rForm_k, rForm_f, opbOf_bits _ hb]
  rfl

theorem isubsat (sc : Scope) (d : Reg) (a : Reg) (b : Opb) : Statement (.isubsat sc d a b) := by
  intro hw rest
  have hb : b.wf = true := hw.1
  refine roundOpb (fun x => .isubsat sc d a x) b _ (fun _ => rfl) rfl (fun l => ?_) rest
  simp only [decodeMajor_1 _ _ (hdr_major _ _ _), hdr_scope, Scope.ofBits_bits, rForm_d, rForm_a, rForm_b, rForm_k, rForm_f, opbOf_bits _ hb]
  rfl

theorem iaddsatu (sc : Scope) (d : Reg) (a : Reg) (b : Opb) : Statement (.iaddsatu sc d a b) := by
  intro hw rest
  have hb : b.wf = true := hw.1
  refine roundOpb (fun x => .iaddsatu sc d a x) b _ (fun _ => rfl) rfl (fun l => ?_) rest
  simp only [decodeMajor_1 _ _ (hdr_major _ _ _), hdr_scope, Scope.ofBits_bits, rForm_d, rForm_a, rForm_b, rForm_k, rForm_f, opbOf_bits _ hb]
  rfl

theorem isubsatu (sc : Scope) (d : Reg) (a : Reg) (b : Opb) : Statement (.isubsatu sc d a b) := by
  intro hw rest
  have hb : b.wf = true := hw.1
  refine roundOpb (fun x => .isubsatu sc d a x) b _ (fun _ => rfl) rfl (fun l => ?_) rest
  simp only [decodeMajor_1 _ _ (hdr_major _ _ _), hdr_scope, Scope.ofBits_bits, rForm_d, rForm_a, rForm_b, rForm_k, rForm_f, opbOf_bits _ hb]
  rfl

theorem iavgu (sc : Scope) (d : Reg) (a : Reg) (b : Opb) : Statement (.iavgu sc d a b) := by
  intro hw rest
  have hb : b.wf = true := hw.1
  refine roundOpb (fun x => .iavgu sc d a x) b _ (fun _ => rfl) rfl (fun l => ?_) rest
  simp only [decodeMajor_1 _ _ (hdr_major _ _ _), hdr_scope, Scope.ofBits_bits, rForm_d, rForm_a, rForm_b, rForm_k, rForm_f, opbOf_bits _ hb]
  rfl

theorem irsub (sc : Scope) (d : Reg) (a : Reg) (b : Opb) : Statement (.irsub sc d a b) := by
  intro hw rest
  have hb : b.wf = true := hw.1
  refine roundOpb (fun x => .irsub sc d a x) b _ (fun _ => rfl) rfl (fun l => ?_) rest
  simp only [decodeMajor_1 _ _ (hdr_major _ _ _), hdr_scope, Scope.ofBits_bits, rForm_d, rForm_a, rForm_b, rForm_k, rForm_f, opbOf_bits _ hb]
  rfl

theorem and (sc : Scope) (d : Reg) (a : Reg) (b : Opb) : Statement (.and sc d a b) := by
  intro hw rest
  have hb : b.wf = true := hw.1
  refine roundOpb (fun x => .and sc d a x) b _ (fun _ => rfl) rfl (fun l => ?_) rest
  simp only [decodeMajor_2 _ _ (hdr_major _ _ _), hdr_scope, Scope.ofBits_bits, rForm_d, rForm_a, rForm_b, rForm_k, rForm_f, opbOf_bits _ hb]
  rfl

theorem or (sc : Scope) (d : Reg) (a : Reg) (b : Opb) : Statement (.or sc d a b) := by
  intro hw rest
  have hb : b.wf = true := hw.1
  refine roundOpb (fun x => .or sc d a x) b _ (fun _ => rfl) rfl (fun l => ?_) rest
  simp only [decodeMajor_2 _ _ (hdr_major _ _ _), hdr_scope, Scope.ofBits_bits, rForm_d, rForm_a, rForm_b, rForm_k, rForm_f, opbOf_bits _ hb]
  rfl

theorem xor (sc : Scope) (d : Reg) (a : Reg) (b : Opb) : Statement (.xor sc d a b) := by
  intro hw rest
  have hb : b.wf = true := hw.1
  refine roundOpb (fun x => .xor sc d a x) b _ (fun _ => rfl) rfl (fun l => ?_) rest
  simp only [decodeMajor_2 _ _ (hdr_major _ _ _), hdr_scope, Scope.ofBits_bits, rForm_d, rForm_a, rForm_b, rForm_k, rForm_f, opbOf_bits _ hb]
  rfl

theorem andn (sc : Scope) (d : Reg) (a : Reg) (b : Opb) : Statement (.andn sc d a b) := by
  intro hw rest
  have hb : b.wf = true := hw.1
  refine roundOpb (fun x => .andn sc d a x) b _ (fun _ => rfl) rfl (fun l => ?_) rest
  simp only [decodeMajor_2 _ _ (hdr_major _ _ _), hdr_scope, Scope.ofBits_bits, rForm_d, rForm_a, rForm_b, rForm_k, rForm_f, opbOf_bits _ hb]
  rfl

theorem orn (sc : Scope) (d : Reg) (a : Reg) (b : Opb) : Statement (.orn sc d a b) := by
  intro hw rest
  have hb : b.wf = true := hw.1
  refine roundOpb (fun x => .orn sc d a x) b _ (fun _ => rfl) rfl (fun l => ?_) rest
  simp only [decodeMajor_2 _ _ (hdr_major _ _ _), hdr_scope, Scope.ofBits_bits, rForm_d, rForm_a, rForm_b, rForm_k, rForm_f, opbOf_bits _ hb]
  rfl

theorem xnor (sc : Scope) (d : Reg) (a : Reg) (b : Opb) : Statement (.xnor sc d a b) := by
  intro hw rest
  have hb : b.wf = true := hw.1
  refine roundOpb (fun x => .xnor sc d a x) b _ (fun _ => rfl) rfl (fun l => ?_) rest
  simp only [decodeMajor_2 _ _ (hdr_major _ _ _), hdr_scope, Scope.ofBits_bits, rForm_d, rForm_a, rForm_b, rForm_k, rForm_f, opbOf_bits _ hb]
  rfl

theorem shl (sc : Scope) (d : Reg) (a : Reg) (b : Opb) : Statement (.shl sc d a b) := by
  intro hw rest
  have hb : b.wf = true := hw.1
  refine roundOpb (fun x => .shl sc d a x) b _ (fun _ => rfl) rfl (fun l => ?_) rest
  simp only [decodeMajor_2 _ _ (hdr_major _ _ _), hdr_scope, Scope.ofBits_bits, rForm_d, rForm_a, rForm_b, rForm_k, rForm_f, opbOf_bits _ hb]
  rfl

theorem shr (sc : Scope) (d : Reg) (a : Reg) (b : Opb) : Statement (.shr sc d a b) := by
  intro hw rest
  have hb : b.wf = true := hw.1
  refine roundOpb (fun x => .shr sc d a x) b _ (fun _ => rfl) rfl (fun l => ?_) rest
  simp only [decodeMajor_2 _ _ (hdr_major _ _ _), hdr_scope, Scope.ofBits_bits, rForm_d, rForm_a, rForm_b, rForm_k, rForm_f, opbOf_bits _ hb]
  rfl

theorem sar (sc : Scope) (d : Reg) (a : Reg) (b : Opb) : Statement (.sar sc d a b) := by
  intro hw rest
  have hb : b.wf = true := hw.1
  refine roundOpb (fun x => .sar sc d a x) b _ (fun _ => rfl) rfl (fun l => ?_) rest
  simp only [decodeMajor_2 _ _ (hdr_major _ _ _), hdr_scope, Scope.ofBits_bits, rForm_d, rForm_a, rForm_b, rForm_k, rForm_f, opbOf_bits _ hb]
  rfl

theorem rotl (sc : Scope) (d : Reg) (a : Reg) (b : Opb) : Statement (.rotl sc d a b) := by
  intro hw rest
  have hb : b.wf = true := hw.1
  refine roundOpb (fun x => .rotl sc d a x) b _ (fun _ => rfl) rfl (fun l => ?_) rest
  simp only [decodeMajor_2 _ _ (hdr_major _ _ _), hdr_scope, Scope.ofBits_bits, rForm_d, rForm_a, rForm_b, rForm_k, rForm_f, opbOf_bits _ hb]
  rfl

theorem rotr (sc : Scope) (d : Reg) (a : Reg) (b : Opb) : Statement (.rotr sc d a b) := by
  intro hw rest
  have hb : b.wf = true := hw.1
  refine roundOpb (fun x => .rotr sc d a x) b _ (fun _ => rfl) rfl (fun l => ?_) rest
  simp only [decodeMajor_2 _ _ (hdr_major _ _ _), hdr_scope, Scope.ofBits_bits, rForm_d, rForm_a, rForm_b, rForm_k, rForm_f, opbOf_bits _ hb]
  rfl

theorem popc (sc : Scope) (d : Reg) (b : Opb) : Statement (.popc sc d b) := by
  intro hw rest
  have hb : b.wf = true := hw.1
  refine roundOpb (fun x => .popc sc d x) b _ (fun _ => rfl) rfl (fun l => ?_) rest
  simp only [decodeMajor_2 _ _ (hdr_major _ _ _), hdr_scope, Scope.ofBits_bits, rForm_d, rForm_a, rForm_b, rForm_k, rForm_f, opbOf_bits _ hb]
  rfl

theorem clz (sc : Scope) (d : Reg) (b : Opb) : Statement (.clz sc d b) := by
  intro hw rest
  have hb : b.wf = true := hw.1
  refine roundOpb (fun x => .clz sc d x) b _ (fun _ => rfl) rfl (fun l => ?_) rest
  simp only [decodeMajor_2 _ _ (hdr_major _ _ _), hdr_scope, Scope.ofBits_bits, rForm_d, rForm_a, rForm_b, rForm_k, rForm_f, opbOf_bits _ hb]
  rfl

theorem brev (sc : Scope) (d : Reg) (b : Opb) : Statement (.brev sc d b) := by
  intro hw rest
  have hb : b.wf = true := hw.1
  refine roundOpb (fun x => .brev sc d x) b _ (fun _ => rfl) rfl (fun l => ?_) rest
  simp only [decodeMajor_2 _ _ (hdr_major _ _ _), hdr_scope, Scope.ofBits_bits, rForm_d, rForm_a, rForm_b, rForm_k, rForm_f, opbOf_bits _ hb]
  rfl

theorem bfxu (sc : Scope) (d : Reg) (a : Reg) (b : Opb) : Statement (.bfxu sc d a b) := by
  intro hw rest
  have hb : b.wf = true := hw.1
  refine roundOpb (fun x => .bfxu sc d a x) b _ (fun _ => rfl) rfl (fun l => ?_) rest
  simp only [decodeMajor_3 _ _ (hdr_major _ _ _), hdr_scope, Scope.ofBits_bits, rForm_d, rForm_a, rForm_b, rForm_k, rForm_f, opbOf_bits _ hb]
  rfl

theorem bfxs (sc : Scope) (d : Reg) (a : Reg) (b : Opb) : Statement (.bfxs sc d a b) := by
  intro hw rest
  have hb : b.wf = true := hw.1
  refine roundOpb (fun x => .bfxs sc d a x) b _ (fun _ => rfl) rfl (fun l => ?_) rest
  simp only [decodeMajor_3 _ _ (hdr_major _ _ _), hdr_scope, Scope.ofBits_bits, rForm_d, rForm_a, rForm_b, rForm_k, rForm_f, opbOf_bits _ hb]
  rfl

theorem bfi (sc : Scope) (d : Reg) (a : Reg) (b : Opb) : Statement (.bfi sc d a b) := by
  intro hw rest
  have hb : b.wf = true := hw.1
  refine roundOpb (fun x => .bfi sc d a x) b _ (fun _ => rfl) rfl (fun l => ?_) rest
  simp only [decodeMajor_3 _ _ (hdr_major _ _ _), hdr_scope, Scope.ofBits_bits, rForm_d, rForm_a, rForm_b, rForm_k, rForm_f, opbOf_bits _ hb]
  rfl

theorem bysel (sc : Scope) (d : Reg) (a : Reg) (b : Opb) : Statement (.bysel sc d a b) := by
  intro hw rest
  have hb : b.wf = true := hw.1
  refine roundOpb (fun x => .bysel sc d a x) b _ (fun _ => rfl) rfl (fun l => ?_) rest
  simp only [decodeMajor_3 _ _ (hdr_major _ _ _), hdr_scope, Scope.ofBits_bits, rForm_d, rForm_a, rForm_b, rForm_k, rForm_f, opbOf_bits _ hb]
  rfl

theorem fshl (sc : Scope) (d : Reg) (a : Reg) (b : Opb) : Statement (.fshl sc d a b) := by
  intro hw rest
  have hb : b.wf = true := hw.1
  refine roundOpb (fun x => .fshl sc d a x) b _ (fun _ => rfl) rfl (fun l => ?_) rest
  simp only [decodeMajor_3 _ _ (hdr_major _ _ _), hdr_scope, Scope.ofBits_bits, rForm_d, rForm_a, rForm_b, rForm_k, rForm_f, opbOf_bits _ hb]
  rfl

theorem fshr (sc : Scope) (d : Reg) (a : Reg) (b : Opb) : Statement (.fshr sc d a b) := by
  intro hw rest
  have hb : b.wf = true := hw.1
  refine roundOpb (fun x => .fshr sc d a x) b _ (fun _ => rfl) rfl (fun l => ?_) rest
  simp only [decodeMajor_3 _ _ (hdr_major _ _ _), hdr_scope, Scope.ofBits_bits, rForm_d, rForm_a, rForm_b, rForm_k, rForm_f, opbOf_bits _ hb]
  rfl

theorem icmpEq (sc : Scope) (p : BitVec 3) (comb : BitVec 2) (a : Reg) (b : Opb) : Statement (.icmpEq sc p comb a b) := by
  intro hw rest
  have hc : comb ≠ 3#2 ∧ b.wf = true := by have h0 : (decide (comb ≠ 3#2) && b.wf) = true := hw.1; simpa using h0
  have hb := hc.2
  refine roundOpb (fun x => .icmpEq sc p comb a x) b _ (fun _ => rfl) rfl (fun l => ?_) rest
  show decodeWord (hdr _ _ (six (0#1 ++ comb ++ p) ++ a ++ b.bits ++ b.kind ++ 0#4)) l = _
  simp only [decodeMajor_4 _ _ (hdr_major _ _ _), hdr_scope, Scope.ofBits_bits, rForm_d, rForm_a, rForm_b, rForm_k, rForm_f, opbOf_bits _ hb]
  show decIcmp sc _ _ _ _ = _
  have e : ∀ (d a : Reg) (o : Opb), decIcmp sc d a o (0#4).toNat = (if (d &&& 0x20#6) = 0 ∧ d.extractLsb' 3 2 ≠ 3#2 then some (.icmpEq sc (d.extractLsb' 0 3) (d.extractLsb' 3 2) a o) else none) := fun _ _ _ => rfl
  rw [e]
  simp [cmp_p, cmp_comb, cmp_zero, hc.1]

theorem icmpNe (sc : Scope) (p : BitVec 3) (comb : BitVec 2) (a : Reg) (b : Opb) : Statement (.icmpNe sc p comb a b) := by
  intro hw rest
  have hc : comb ≠ 3#2 ∧ b.wf = true := by have h0 : (decide (comb ≠ 3#2) && b.wf) = true := hw.1; simpa using h0
  have hb := hc.2
  refine roundOpb (fun x => .icmpNe sc p comb a x) b _ (fun _ => rfl) rfl (fun l => ?_) rest
  show decodeWord (hdr _ _ (six (0#1 ++ comb ++ p) ++ a ++ b.bits ++ b.kind ++ 1#4)) l = _
  simp only [decodeMajor_4 _ _ (hdr_major _ _ _), hdr_scope, Scope.ofBits_bits, rForm_d, rForm_a, rForm_b, rForm_k, rForm_f, opbOf_bits _ hb]
  show decIcmp sc _ _ _ _ = _
  have e : ∀ (d a : Reg) (o : Opb), decIcmp sc d a o (1#4).toNat = (if (d &&& 0x20#6) = 0 ∧ d.extractLsb' 3 2 ≠ 3#2 then some (.icmpNe sc (d.extractLsb' 0 3) (d.extractLsb' 3 2) a o) else none) := fun _ _ _ => rfl
  rw [e]
  simp [cmp_p, cmp_comb, cmp_zero, hc.1]

theorem icmpLt (sc : Scope) (p : BitVec 3) (comb : BitVec 2) (a : Reg) (b : Opb) : Statement (.icmpLt sc p comb a b) := by
  intro hw rest
  have hc : comb ≠ 3#2 ∧ b.wf = true := by have h0 : (decide (comb ≠ 3#2) && b.wf) = true := hw.1; simpa using h0
  have hb := hc.2
  refine roundOpb (fun x => .icmpLt sc p comb a x) b _ (fun _ => rfl) rfl (fun l => ?_) rest
  show decodeWord (hdr _ _ (six (0#1 ++ comb ++ p) ++ a ++ b.bits ++ b.kind ++ 2#4)) l = _
  simp only [decodeMajor_4 _ _ (hdr_major _ _ _), hdr_scope, Scope.ofBits_bits, rForm_d, rForm_a, rForm_b, rForm_k, rForm_f, opbOf_bits _ hb]
  show decIcmp sc _ _ _ _ = _
  have e : ∀ (d a : Reg) (o : Opb), decIcmp sc d a o (2#4).toNat = (if (d &&& 0x20#6) = 0 ∧ d.extractLsb' 3 2 ≠ 3#2 then some (.icmpLt sc (d.extractLsb' 0 3) (d.extractLsb' 3 2) a o) else none) := fun _ _ _ => rfl
  rw [e]
  simp [cmp_p, cmp_comb, cmp_zero, hc.1]

theorem icmpLe (sc : Scope) (p : BitVec 3) (comb : BitVec 2) (a : Reg) (b : Opb) : Statement (.icmpLe sc p comb a b) := by
  intro hw rest
  have hc : comb ≠ 3#2 ∧ b.wf = true := by have h0 : (decide (comb ≠ 3#2) && b.wf) = true := hw.1; simpa using h0
  have hb := hc.2
  refine roundOpb (fun x => .icmpLe sc p comb a x) b _ (fun _ => rfl) rfl (fun l => ?_) rest
  show decodeWord (hdr _ _ (six (0#1 ++ comb ++ p) ++ a ++ b.bits ++ b.kind ++ 3#4)) l = _
  simp only [decodeMajor_4 _ _ (hdr_major _ _ _), hdr_scope, Scope.ofBits_bits, rForm_d, rForm_a, rForm_b, rForm_k, rForm_f, opbOf_bits _ hb]
  show decIcmp sc _ _ _ _ = _
  have e : ∀ (d a : Reg) (o : Opb), decIcmp sc d a o (3#4).toNat = (if (d &&& 0x20#6) = 0 ∧ d.extractLsb' 3 2 ≠ 3#2 then some (.icmpLe sc (d.extractLsb' 0 3) (d.extractLsb' 3 2) a o) else none) := fun _ _ _ => rfl
  rw [e]
  simp [cmp_p, cmp_comb, cmp_zero, hc.1]

theorem icmpGt (sc : Scope) (p : BitVec 3) (comb : BitVec 2) (a : Reg) (b : Opb) : Statement (.icmpGt sc p comb a b) := by
  intro hw rest
  have hc : comb ≠ 3#2 ∧ b.wf = true := by have h0 : (decide (comb ≠ 3#2) && b.wf) = true := hw.1; simpa using h0
  have hb := hc.2
  refine roundOpb (fun x => .icmpGt sc p comb a x) b _ (fun _ => rfl) rfl (fun l => ?_) rest
  show decodeWord (hdr _ _ (six (0#1 ++ comb ++ p) ++ a ++ b.bits ++ b.kind ++ 4#4)) l = _
  simp only [decodeMajor_4 _ _ (hdr_major _ _ _), hdr_scope, Scope.ofBits_bits, rForm_d, rForm_a, rForm_b, rForm_k, rForm_f, opbOf_bits _ hb]
  show decIcmp sc _ _ _ _ = _
  have e : ∀ (d a : Reg) (o : Opb), decIcmp sc d a o (4#4).toNat = (if (d &&& 0x20#6) = 0 ∧ d.extractLsb' 3 2 ≠ 3#2 then some (.icmpGt sc (d.extractLsb' 0 3) (d.extractLsb' 3 2) a o) else none) := fun _ _ _ => rfl
  rw [e]
  simp [cmp_p, cmp_comb, cmp_zero, hc.1]

theorem icmpGe (sc : Scope) (p : BitVec 3) (comb : BitVec 2) (a : Reg) (b : Opb) : Statement (.icmpGe sc p comb a b) := by
  intro hw rest
  have hc : comb ≠ 3#2 ∧ b.wf = true := by have h0 : (decide (comb ≠ 3#2) && b.wf) = true := hw.1; simpa using h0
  have hb := hc.2
  refine roundOpb (fun x => .icmpGe sc p comb a x) b _ (fun _ => rfl) rfl (fun l => ?_) rest
  show decodeWord (hdr _ _ (six (0#1 ++ comb ++ p) ++ a ++ b.bits ++ b.kind ++ 5#4)) l = _
  simp only [decodeMajor_4 _ _ (hdr_major _ _ _), hdr_scope, Scope.ofBits_bits, rForm_d, rForm_a, rForm_b, rForm_k, rForm_f, opbOf_bits _ hb]
  show decIcmp sc _ _ _ _ = _
  have e : ∀ (d a : Reg) (o : Opb), decIcmp sc d a o (5#4).toNat = (if (d &&& 0x20#6) = 0 ∧ d.extractLsb' 3 2 ≠ 3#2 then some (.icmpGe sc (d.extractLsb' 0 3) (d.extractLsb' 3 2) a o) else none) := fun _ _ _ => rfl
  rw [e]
  simp [cmp_p, cmp_comb, cmp_zero, hc.1]

theorem icmpLtu (sc : Scope) (p : BitVec 3) (comb : BitVec 2) (a : Reg) (b : Opb) : Statement (.icmpLtu sc p comb a b) := by
  intro hw rest
  have hc : comb ≠ 3#2 ∧ b.wf = true := by have h0 : (decide (comb ≠ 3#2) && b.wf) = true := hw.1; simpa using h0
  have hb := hc.2
  refine roundOpb (fun x => .icmpLtu sc p comb a x) b _ (fun _ => rfl) rfl (fun l => ?_) rest
  show decodeWord (hdr _ _ (six (0#1 ++ comb ++ p) ++ a ++ b.bits ++ b.kind ++ 6#4)) l = _
  simp only [decodeMajor_4 _ _ (hdr_major _ _ _), hdr_scope, Scope.ofBits_bits, rForm_d, rForm_a, rForm_b, rForm_k, rForm_f, opbOf_bits _ hb]
  show decIcmp sc _ _ _ _ = _
  have e : ∀ (d a : Reg) (o : Opb), decIcmp sc d a o (6#4).toNat = (if (d &&& 0x20#6) = 0 ∧ d.extractLsb' 3 2 ≠ 3#2 then some (.icmpLtu sc (d.extractLsb' 0 3) (d.extractLsb' 3 2) a o) else none) := fun _ _ _ => rfl
  rw [e]
  simp [cmp_p, cmp_comb, cmp_zero, hc.1]

theorem icmpLeu (sc : Scope) (p : BitVec 3) (comb : BitVec 2) (a : Reg) (b : Opb) : Statement (.icmpLeu sc p comb a b) := by
  intro hw rest
  have hc : comb ≠ 3#2 ∧ b.wf = true := by have h0 : (decide (comb ≠ 3#2) && b.wf) = true := hw.1; simpa using h0
  have hb := hc.2
  refine roundOpb (fun x => .icmpLeu sc p comb a x) b _ (fun _ => rfl) rfl (fun l => ?_) rest
  show decodeWord (hdr _ _ (six (0#1 ++ comb ++ p) ++ a ++ b.bits ++ b.kind ++ 7#4)) l = _
  simp only [decodeMajor_4 _ _ (hdr_major _ _ _), hdr_scope, Scope.ofBits_bits, rForm_d, rForm_a, rForm_b, rForm_k, rForm_f, opbOf_bits _ hb]
  show decIcmp sc _ _ _ _ = _
  have e : ∀ (d a : Reg) (o : Opb), decIcmp sc d a o (7#4).toNat = (if (d &&& 0x20#6) = 0 ∧ d.extractLsb' 3 2 ≠ 3#2 then some (.icmpLeu sc (d.extractLsb' 0 3) (d.extractLsb' 3 2) a o) else none) := fun _ _ _ => rfl
  rw [e]
  simp [cmp_p, cmp_comb, cmp_zero, hc.1]

theorem icmpGtu (sc : Scope) (p : BitVec 3) (comb : BitVec 2) (a : Reg) (b : Opb) : Statement (.icmpGtu sc p comb a b) := by
  intro hw rest
  have hc : comb ≠ 3#2 ∧ b.wf = true := by have h0 : (decide (comb ≠ 3#2) && b.wf) = true := hw.1; simpa using h0
  have hb := hc.2
  refine roundOpb (fun x => .icmpGtu sc p comb a x) b _ (fun _ => rfl) rfl (fun l => ?_) rest
  show decodeWord (hdr _ _ (six (0#1 ++ comb ++ p) ++ a ++ b.bits ++ b.kind ++ 8#4)) l = _
  simp only [decodeMajor_4 _ _ (hdr_major _ _ _), hdr_scope, Scope.ofBits_bits, rForm_d, rForm_a, rForm_b, rForm_k, rForm_f, opbOf_bits _ hb]
  show decIcmp sc _ _ _ _ = _
  have e : ∀ (d a : Reg) (o : Opb), decIcmp sc d a o (8#4).toNat = (if (d &&& 0x20#6) = 0 ∧ d.extractLsb' 3 2 ≠ 3#2 then some (.icmpGtu sc (d.extractLsb' 0 3) (d.extractLsb' 3 2) a o) else none) := fun _ _ _ => rfl
  rw [e]
  simp [cmp_p, cmp_comb, cmp_zero, hc.1]

theorem icmpGeu (sc : Scope) (p : BitVec 3) (comb : BitVec 2) (a : Reg) (b : Opb) : Statement (.icmpGeu sc p comb a b) := by
  intro hw rest
  have hc : comb ≠ 3#2 ∧ b.wf = true := by have h0 : (decide (comb ≠ 3#2) && b.wf) = true := hw.1; simpa using h0
  have hb := hc.2
  refine roundOpb (fun x => .icmpGeu sc p comb a x) b _ (fun _ => rfl) rfl (fun l => ?_) rest
  show decodeWord (hdr _ _ (six (0#1 ++ comb ++ p) ++ a ++ b.bits ++ b.kind ++ 9#4)) l = _
  simp only [decodeMajor_4 _ _ (hdr_major _ _ _), hdr_scope, Scope.ofBits_bits, rForm_d, rForm_a, rForm_b, rForm_k, rForm_f, opbOf_bits _ hb]
  show decIcmp sc _ _ _ _ = _
  have e : ∀ (d a : Reg) (o : Opb), decIcmp sc d a o (9#4).toNat = (if (d &&& 0x20#6) = 0 ∧ d.extractLsb' 3 2 ≠ 3#2 then some (.icmpGeu sc (d.extractLsb' 0 3) (d.extractLsb' 3 2) a o) else none) := fun _ _ _ => rfl
  rw [e]
  simp [cmp_p, cmp_comb, cmp_zero, hc.1]

theorem imac (sc : Scope) (d : Reg) (a : Reg) (b : Opb) : Statement (.imac sc d a b) := by
  intro hw rest
  have hb : b.wf = true := hw.1
  refine roundOpb (fun x => .imac sc d a x) b _ (fun _ => rfl) rfl (fun l => ?_) rest
  simp only [decodeMajor_5 _ _ (hdr_major _ _ _), hdr_scope, Scope.ofBits_bits, rForm_d, rForm_a, rForm_b, rForm_k, rForm_f, opbOf_bits _ hb]
  rfl

theorem imad (sc : Scope) (d : Reg) (a : Reg) (b : Opb) : Statement (.imad sc d a b) := by
  intro hw rest
  have hb : b.wf = true := hw.1
  refine roundOpb (fun x => .imad sc d a x) b _ (fun _ => rfl) rfl (fun l => ?_) rest
  simp only [decodeMajor_5 _ _ (hdr_major _ _ _), hdr_scope, Scope.ofBits_bits, rForm_d, rForm_a, rForm_b, rForm_k, rForm_f, opbOf_bits _ hb]
  rfl

theorem lea (sc : Scope) (d : Reg) (a : Reg) (b : Opb) : Statement (.lea sc d a b) := by
  intro hw rest
  have hb : b.wf = true := hw.1
  refine roundOpb (fun x => .lea sc d a x) b _ (fun _ => rfl) rfl (fun l => ?_) rest
  simp only [decodeMajor_5 _ _ (hdr_major _ _ _), hdr_scope, Scope.ofBits_bits, rForm_d, rForm_a, rForm_b, rForm_k, rForm_f, opbOf_bits _ hb]
  rfl

theorem lea2 (sc : Scope) (d : Reg) (a : Reg) (b : Opb) : Statement (.lea2 sc d a b) := by
  intro hw rest
  have hb : b.wf = true := hw.1
  refine roundOpb (fun x => .lea2 sc d a x) b _ (fun _ => rfl) rfl (fun l => ?_) rest
  simp only [decodeMajor_5 _ _ (hdr_major _ _ _), hdr_scope, Scope.ofBits_bits, rForm_d, rForm_a, rForm_b, rForm_k, rForm_f, opbOf_bits _ hb]
  rfl

theorem lea4 (sc : Scope) (d : Reg) (a : Reg) (b : Opb) : Statement (.lea4 sc d a b) := by
  intro hw rest
  have hb : b.wf = true := hw.1
  refine roundOpb (fun x => .lea4 sc d a x) b _ (fun _ => rfl) rfl (fun l => ?_) rest
  simp only [decodeMajor_5 _ _ (hdr_major _ _ _), hdr_scope, Scope.ofBits_bits, rForm_d, rForm_a, rForm_b, rForm_k, rForm_f, opbOf_bits _ hb]
  rfl

theorem lea8 (sc : Scope) (d : Reg) (a : Reg) (b : Opb) : Statement (.lea8 sc d a b) := by
  intro hw rest
  have hb : b.wf = true := hw.1
  refine roundOpb (fun x => .lea8 sc d a x) b _ (fun _ => rfl) rfl (fun l => ?_) rest
  simp only [decodeMajor_5 _ _ (hdr_major _ _ _), hdr_scope, Scope.ofBits_bits, rForm_d, rForm_a, rForm_b, rForm_k, rForm_f, opbOf_bits _ hb]
  rfl

theorem lea16 (sc : Scope) (d : Reg) (a : Reg) (b : Opb) : Statement (.lea16 sc d a b) := by
  intro hw rest
  have hb : b.wf = true := hw.1
  refine roundOpb (fun x => .lea16 sc d a x) b _ (fun _ => rfl) rfl (fun l => ?_) rest
  simp only [decodeMajor_5 _ _ (hdr_major _ _ _), hdr_scope, Scope.ofBits_bits, rForm_d, rForm_a, rForm_b, rForm_k, rForm_f, opbOf_bits _ hb]
  rfl

theorem iadd64 (sc : Scope) (d : Reg) (a : Reg) (b : Opb) : Statement (.iadd64 sc d a b) := by
  intro hw rest
  have hb : b.wf = true := hw.1
  refine roundOpb (fun x => .iadd64 sc d a x) b _ (fun _ => rfl) rfl (fun l => ?_) rest
  simp only [decodeMajor_5 _ _ (hdr_major _ _ _), hdr_scope, Scope.ofBits_bits, rForm_d, rForm_a, rForm_b, rForm_k, rForm_f, opbOf_bits _ hb]
  rfl

theorem isub64 (sc : Scope) (d : Reg) (a : Reg) (b : Opb) : Statement (.isub64 sc d a b) := by
  intro hw rest
  have hb : b.wf = true := hw.1
  refine roundOpb (fun x => .isub64 sc d a x) b _ (fun _ => rfl) rfl (fun l => ?_) rest
  simp only [decodeMajor_5 _ _ (hdr_major _ _ _), hdr_scope, Scope.ofBits_bits, rForm_d, rForm_a, rForm_b, rForm_k, rForm_f, opbOf_bits _ hb]
  rfl

theorem imulw (sc : Scope) (d : Reg) (a : Reg) (b : Opb) : Statement (.imulw sc d a b) := by
  intro hw rest
  have hb : b.wf = true := hw.1
  refine roundOpb (fun x => .imulw sc d a x) b _ (fun _ => rfl) rfl (fun l => ?_) rest
  simp only [decodeMajor_5 _ _ (hdr_major _ _ _), hdr_scope, Scope.ofBits_bits, rForm_d, rForm_a, rForm_b, rForm_k, rForm_f, opbOf_bits _ hb]
  rfl

theorem mov (sc : Scope) (d : Reg) (b : Opb) : Statement (.mov sc d b) := by
  intro hw rest
  have hb : b.wf = true := hw.1
  refine roundOpb (fun x => .mov sc d x) b _ (fun _ => rfl) rfl (fun l => ?_) rest
  simp only [decodeMajor_6 _ _ (hdr_major _ _ _), hdr_scope, Scope.ofBits_bits, rForm_d, rForm_a, rForm_b, rForm_k, rForm_f, opbOf_bits _ hb]
  rfl

theorem sel (sc : Scope) (p : BitVec 3) (d : Reg) (a : Reg) (b : Opb) : Statement (.sel sc p d a b) := by
  intro hw rest
  have hc : p ≠ 0#3 ∧ b.wf = true := by have h0 : (decide (p ≠ 0#3) && b.wf) = true := hw.1; simpa using h0
  have hb := hc.2
  refine roundOpb (fun x => .sel sc p d a x) b _ (fun _ => rfl) rfl (fun l => ?_) rest
  rw [join_fn]
  simp only [decodeMajor_6 _ _ (hdr_major _ _ _), hdr_scope, Scope.ofBits_bits, rForm_d, rForm_a, rForm_b, rForm_k, rForm_f, opbOf_bits _ hb]
  exact selCase _ _ _ _ p hc.1

theorem pand (sc : Scope) (d : BitVec 3) (a : BitVec 3) (b : Opb) : Statement (.pand sc d a b) := by
  intro hw rest
  have hc : b.wf = true ∧ b.bits &&& 0x38#6 = 0 := by have h0 : (b.wf && decide (b.bits &&& 0x38#6 = 0)) = true := hw.1; simpa using h0
  have hb := hc.1
  refine roundOpb (fun x => .pand sc d a x) b _ (fun _ => rfl) rfl (fun l => ?_) rest
  show decodeWord (hdr _ _ (six (0#3 ++ d) ++ 0#3 ++ a ++ b.bits ++ b.kind ++ 8#4)) l = _
  rw [join_pred]
  simp only [decodeMajor_6 _ _ (hdr_major _ _ _), hdr_scope, Scope.ofBits_bits, rForm_d, rForm_a, rForm_b, rForm_k, rForm_f, opbOf_bits _ hb]
  show decMovsel sc _ _ _ _ = _
  have e : ∀ (d a : Reg) (o : Opb), decMovsel sc d a o (8#4).toNat = (if (d &&& 0x38#6) = 0 ∧ (a &&& 0x38#6) = 0 ∧ (o.bits &&& 0x38#6) = 0 then some (.pand sc (d.extractLsb' 0 3) (a.extractLsb' 0 3) o) else none) := fun _ _ _ => rfl
  rw [e]
  simp [z3_x, z3_zero, opbBitsRelit, hc.2]

theorem por (sc : Scope) (d : BitVec 3) (a : BitVec 3) (b : Opb) : Statement (.por sc d a b) := by
  intro hw rest
  have hc : b.wf = true ∧ b.bits &&& 0x38#6 = 0 := by have h0 : (b.wf && decide (b.bits &&& 0x38#6 = 0)) = true := hw.1; simpa using h0
  have hb := hc.1
  refine roundOpb (fun x => .por sc d a x) b _ (fun _ => rfl) rfl (fun l => ?_) rest
  show decodeWord (hdr _ _ (six (0#3 ++ d) ++ 0#3 ++ a ++ b.bits ++ b.kind ++ 9#4)) l = _
  rw [join_pred]
  simp only [decodeMajor_6 _ _ (hdr_major _ _ _), hdr_scope, Scope.ofBits_bits, rForm_d, rForm_a, rForm_b, rForm_k, rForm_f, opbOf_bits _ hb]
  show decMovsel sc _ _ _ _ = _
  have e : ∀ (d a : Reg) (o : Opb), decMovsel sc d a o (9#4).toNat = (if (d &&& 0x38#6) = 0 ∧ (a &&& 0x38#6) = 0 ∧ (o.bits &&& 0x38#6) = 0 then some (.por sc (d.extractLsb' 0 3) (a.extractLsb' 0 3) o) else none) := fun _ _ _ => rfl
  rw [e]
  simp [z3_x, z3_zero, opbBitsRelit, hc.2]

theorem pxor (sc : Scope) (d : BitVec 3) (a : BitVec 3) (b : Opb) : Statement (.pxor sc d a b) := by
  intro hw rest
  have hc : b.wf = true ∧ b.bits &&& 0x38#6 = 0 := by have h0 : (b.wf && decide (b.bits &&& 0x38#6 = 0)) = true := hw.1; simpa using h0
  have hb := hc.1
  refine roundOpb (fun x => .pxor sc d a x) b _ (fun _ => rfl) rfl (fun l => ?_) rest
  show decodeWord (hdr _ _ (six (0#3 ++ d) ++ 0#3 ++ a ++ b.bits ++ b.kind ++ 10#4)) l = _
  rw [join_pred]
  simp only [decodeMajor_6 _ _ (hdr_major _ _ _), hdr_scope, Scope.ofBits_bits, rForm_d, rForm_a, rForm_b, rForm_k, rForm_f, opbOf_bits _ hb]
  show decMovsel sc _ _ _ _ = _
  have e : ∀ (d a : Reg) (o : Opb), decMovsel sc d a o (10#4).toNat = (if (d &&& 0x38#6) = 0 ∧ (a &&& 0x38#6) = 0 ∧ (o.bits &&& 0x38#6) = 0 then some (.pxor sc (d.extractLsb' 0 3) (a.extractLsb' 0 3) o) else none) := fun _ _ _ => rfl
  rw [e]
  simp [z3_x, z3_zero, opbBitsRelit, hc.2]

theorem pnot (sc : Scope) (d : BitVec 3) (a : BitVec 3) : Statement (.pnot sc d a) := by
  intro hw rest
  refine roundPlain _ _ rfl rfl (fun l => ?_) rest
  show decodeWord (hdr _ _ (six (0#3 ++ d) ++ 0#3 ++ a ++ 0#6 ++ 0#2 ++ 11#4)) l = _
  rw [join_pred]
  simp only [decodeMajor_6 _ _ (hdr_major _ _ _), hdr_scope, Scope.ofBits_bits, rForm_d, rForm_a, rForm_b, rForm_k, rForm_f, show ∀ l, opbOf 0#2 0#6 l = .v 0#6 from fun _ => rfl]
  show decMovsel sc _ _ _ _ = _
  have e : ∀ (d a : Reg) (o : Opb), decMovsel sc d a o (11#4).toNat = (if (d &&& 0x38#6) = 0 ∧ (a &&& 0x38#6) = 0 ∧ o = .v 0 then some (.pnot sc (d.extractLsb' 0 3) (a.extractLsb' 0 3)) else none) := fun _ _ _ => rfl
  rw [e]
  simp [z3_x, z3_zero]

theorem p2v (sc : Scope) (d : Reg) : Statement (.p2v sc d) := by
  intro hw rest
  refine roundPlain _ _ rfl rfl (fun l => ?_) rest
  simp only [decodeMajor_6 _ _ (hdr_major _ _ _), hdr_scope, Scope.ofBits_bits, rForm_d, rForm_a, rForm_b, rForm_k, rForm_f, show ∀ l, opbOf 0#2 0#6 l = .v 0#6 from fun _ => rfl]
  rfl

theorem v2p (sc : Scope) (a : Reg) : Statement (.v2p sc a) := by
  intro hw rest
  refine roundPlain _ _ rfl rfl (fun l => ?_) rest
  simp only [decodeMajor_6 _ _ (hdr_major _ _ _), hdr_scope, Scope.ofBits_bits, rForm_d, rForm_a, rForm_b, rForm_k, rForm_f, show ∀ l, opbOf 0#2 0#6 l = .v 0#6 from fun _ => rfl]
  rfl

theorem cvt (sc : Scope) (d : Reg) (a : Reg) (code : BitVec 6) (sat : Bool) (rnd : BitVec 2) : Statement (.cvt sc d a code sat rnd) := by
  intro hw rest
  have hn : cvtCodes.contains code.toNat = true := hw.1
  refine roundPlain _ _ rfl rfl (fun l => ?_) rest
  rw [join_cvt]
  simp only [decodeMajor_7 _ _ (hdr_major _ _ _), hdr_scope, Scope.ofBits_bits, tForm_d, tForm_a]
  show decCvt _ _ _ _ = _
  simp only [decCvt, tForm_b, tForm_x _ _ _ _ _ _ 3 3 (by omega), tForm_x _ _ _ _ _ _ 0 2 (by omega), tForm_bit _ _ _ _ _ _ 2 (by omega), cvt_k, cvt_sat, cvt_rnd, hn]
  rfl

theorem fadd (sc : Scope) (d : Reg) (a : Reg) (b : Opb) : Statement (.fadd sc d a b) := by
  intro hw rest
  have hb : b.wf = true := hw.1
  refine roundOpb (fun x => .fadd sc d a x) b _ (fun _ => rfl) rfl (fun l => ?_) rest
  simp only [decodeMajor_8 _ _ (hdr_major _ _ _), hdr_scope, Scope.ofBits_bits, rForm_d, rForm_a, rForm_b, rForm_k, rForm_f, opbOf_bits _ hb]
  rfl

theorem fsub (sc : Scope) (d : Reg) (a : Reg) (b : Opb) : Statement (.fsub sc d a b) := by
  intro hw rest
  have hb : b.wf = true := hw.1
  refine roundOpb (fun x => .fsub sc d a x) b _ (fun _ => rfl) rfl (fun l => ?_) rest
  simp only [decodeMajor_8 _ _ (hdr_major _ _ _), hdr_scope, Scope.ofBits_bits, rForm_d, rForm_a, rForm_b, rForm_k, rForm_f, opbOf_bits _ hb]
  rfl

theorem fmul (sc : Scope) (d : Reg) (a : Reg) (b : Opb) : Statement (.fmul sc d a b) := by
  intro hw rest
  have hb : b.wf = true := hw.1
  refine roundOpb (fun x => .fmul sc d a x) b _ (fun _ => rfl) rfl (fun l => ?_) rest
  simp only [decodeMajor_8 _ _ (hdr_major _ _ _), hdr_scope, Scope.ofBits_bits, rForm_d, rForm_a, rForm_b, rForm_k, rForm_f, opbOf_bits _ hb]
  rfl

theorem fmac (sc : Scope) (d : Reg) (a : Reg) (b : Opb) : Statement (.fmac sc d a b) := by
  intro hw rest
  have hb : b.wf = true := hw.1
  refine roundOpb (fun x => .fmac sc d a x) b _ (fun _ => rfl) rfl (fun l => ?_) rest
  simp only [decodeMajor_8 _ _ (hdr_major _ _ _), hdr_scope, Scope.ofBits_bits, rForm_d, rForm_a, rForm_b, rForm_k, rForm_f, opbOf_bits _ hb]
  rfl

theorem fmad (sc : Scope) (d : Reg) (a : Reg) (b : Opb) : Statement (.fmad sc d a b) := by
  intro hw rest
  have hb : b.wf = true := hw.1
  refine roundOpb (fun x => .fmad sc d a x) b _ (fun _ => rfl) rfl (fun l => ?_) rest
  simp only [decodeMajor_8 _ _ (hdr_major _ _ _), hdr_scope, Scope.ofBits_bits, rForm_d, rForm_a, rForm_b, rForm_k, rForm_f, opbOf_bits _ hb]
  rfl

theorem fmns (sc : Scope) (d : Reg) (a : Reg) (b : Opb) : Statement (.fmns sc d a b) := by
  intro hw rest
  have hb : b.wf = true := hw.1
  refine roundOpb (fun x => .fmns sc d a x) b _ (fun _ => rfl) rfl (fun l => ?_) rest
  simp only [decodeMajor_8 _ _ (hdr_major _ _ _), hdr_scope, Scope.ofBits_bits, rForm_d, rForm_a, rForm_b, rForm_k, rForm_f, opbOf_bits _ hb]
  rfl

theorem fmin (sc : Scope) (d : Reg) (a : Reg) (b : Opb) : Statement (.fmin sc d a b) := by
  intro hw rest
  have hb : b.wf = true := hw.1
  refine roundOpb (fun x => .fmin sc d a x) b _ (fun _ => rfl) rfl (fun l => ?_) rest
  simp only [decodeMajor_8 _ _ (hdr_major _ _ _), hdr_scope, Scope.ofBits_bits, rForm_d, rForm_a, rForm_b, rForm_k, rForm_f, opbOf_bits _ hb]
  rfl

theorem fmax (sc : Scope) (d : Reg) (a : Reg) (b : Opb) : Statement (.fmax sc d a b) := by
  intro hw rest
  have hb : b.wf = true := hw.1
  refine roundOpb (fun x => .fmax sc d a x) b _ (fun _ => rfl) rfl (fun l => ?_) rest
  simp only [decodeMajor_8 _ _ (hdr_major _ _ _), hdr_scope, Scope.ofBits_bits, rForm_d, rForm_a, rForm_b, rForm_k, rForm_f, opbOf_bits _ hb]
  rfl

theorem fabs (sc : Scope) (d : Reg) (b : Opb) : Statement (.fabs sc d b) := by
  intro hw rest
  have hb : b.wf = true := hw.1
  refine roundOpb (fun x => .fabs sc d x) b _ (fun _ => rfl) rfl (fun l => ?_) rest
  simp only [decodeMajor_8 _ _ (hdr_major _ _ _), hdr_scope, Scope.ofBits_bits, rForm_d, rForm_a, rForm_b, rForm_k, rForm_f, opbOf_bits _ hb]
  rfl

theorem fneg (sc : Scope) (d : Reg) (b : Opb) : Statement (.fneg sc d b) := by
  intro hw rest
  have hb : b.wf = true := hw.1
  refine roundOpb (fun x => .fneg sc d x) b _ (fun _ => rfl) rfl (fun l => ?_) rest
  simp only [decodeMajor_8 _ _ (hdr_major _ _ _), hdr_scope, Scope.ofBits_bits, rForm_d, rForm_a, rForm_b, rForm_k, rForm_f, opbOf_bits _ hb]
  rfl

theorem fsat (sc : Scope) (d : Reg) (b : Opb) : Statement (.fsat sc d b) := by
  intro hw rest
  have hb : b.wf = true := hw.1
  refine roundOpb (fun x => .fsat sc d x) b _ (fun _ => rfl) rfl (fun l => ?_) rest
  simp only [decodeMajor_8 _ _ (hdr_major _ _ _), hdr_scope, Scope.ofBits_bits, rForm_d, rForm_a, rForm_b, rForm_k, rForm_f, opbOf_bits _ hb]
  rfl

theorem ffloor (sc : Scope) (d : Reg) (b : Opb) : Statement (.ffloor sc d b) := by
  intro hw rest
  have hb : b.wf = true := hw.1
  refine roundOpb (fun x => .ffloor sc d x) b _ (fun _ => rfl) rfl (fun l => ?_) rest
  simp only [decodeMajor_8 _ _ (hdr_major _ _ _), hdr_scope, Scope.ofBits_bits, rForm_d, rForm_a, rForm_b, rForm_k, rForm_f, opbOf_bits _ hb]
  rfl

theorem fceil (sc : Scope) (d : Reg) (b : Opb) : Statement (.fceil sc d b) := by
  intro hw rest
  have hb : b.wf = true := hw.1
  refine roundOpb (fun x => .fceil sc d x) b _ (fun _ => rfl) rfl (fun l => ?_) rest
  simp only [decodeMajor_8 _ _ (hdr_major _ _ _), hdr_scope, Scope.ofBits_bits, rForm_d, rForm_a, rForm_b, rForm_k, rForm_f, opbOf_bits _ hb]
  rfl

theorem ftrunc (sc : Scope) (d : Reg) (b : Opb) : Statement (.ftrunc sc d b) := by
  intro hw rest
  have hb : b.wf = true := hw.1
  refine roundOpb (fun x => .ftrunc sc d x) b _ (fun _ => rfl) rfl (fun l => ?_) rest
  simp only [decodeMajor_8 _ _ (hdr_major _ _ _), hdr_scope, Scope.ofBits_bits, rForm_d, rForm_a, rForm_b, rForm_k, rForm_f, opbOf_bits _ hb]
  rfl

theorem frint (sc : Scope) (d : Reg) (b : Opb) : Statement (.frint sc d b) := by
  intro hw rest
  have hb : b.wf = true := hw.1
  refine roundOpb (fun x => .frint sc d x) b _ (fun _ => rfl) rfl (fun l => ?_) rest
  simp only [decodeMajor_8 _ _ (hdr_major _ _ _), hdr_scope, Scope.ofBits_bits, rForm_d, rForm_a, rForm_b, rForm_k, rForm_f, opbOf_bits _ hb]
  rfl

theorem fcsgn (sc : Scope) (d : Reg) (a : Reg) (b : Opb) : Statement (.fcsgn sc d a b) := by
  intro hw rest
  have hb : b.wf = true := hw.1
  refine roundOpb (fun x => .fcsgn sc d a x) b _ (fun _ => rfl) rfl (fun l => ?_) rest
  simp only [decodeMajor_8 _ _ (hdr_major _ _ _), hdr_scope, Scope.ofBits_bits, rForm_d, rForm_a, rForm_b, rForm_k, rForm_f, opbOf_bits _ hb]
  rfl

theorem fcmpEq (sc : Scope) (p : BitVec 3) (comb : BitVec 2) (a : Reg) (b : Opb) : Statement (.fcmpEq sc p comb a b) := by
  intro hw rest
  have hc : comb ≠ 3#2 ∧ b.wf = true := by have h0 : (decide (comb ≠ 3#2) && b.wf) = true := hw.1; simpa using h0
  have hb := hc.2
  refine roundOpb (fun x => .fcmpEq sc p comb a x) b _ (fun _ => rfl) rfl (fun l => ?_) rest
  show decodeWord (hdr _ _ (six (0#1 ++ comb ++ p) ++ a ++ b.bits ++ b.kind ++ 0#4)) l = _
  simp only [decodeMajor_9 _ _ (hdr_major _ _ _), hdr_scope, Scope.ofBits_bits, rForm_d, rForm_a, rForm_b, rForm_k, rForm_f, opbOf_bits _ hb]
  show decFcmp sc _ _ _ _ = _
  have e : ∀ (d a : Reg) (o : Opb), decFcmp sc d a o (0#4).toNat = (if (d &&& 0x20#6) = 0 ∧ d.extractLsb' 3 2 ≠ 3#2 then some (.fcmpEq sc (d.extractLsb' 0 3) (d.extractLsb' 3 2) a o) else none) := fun _ _ _ => rfl
  rw [e]
  simp [cmp_p, cmp_comb, cmp_zero, hc.1]

theorem fcmpNe (sc : Scope) (p : BitVec 3) (comb : BitVec 2) (a : Reg) (b : Opb) : Statement (.fcmpNe sc p comb a b) := by
  intro hw rest
  have hc : comb ≠ 3#2 ∧ b.wf = true := by have h0 : (decide (comb ≠ 3#2) && b.wf) = true := hw.1; simpa using h0
  have hb := hc.2
  refine roundOpb (fun x => .fcmpNe sc p comb a x) b _ (fun _ => rfl) rfl (fun l => ?_) rest
  show decodeWord (hdr _ _ (six (0#1 ++ comb ++ p) ++ a ++ b.bits ++ b.kind ++ 1#4)) l = _
  simp only [decodeMajor_9 _ _ (hdr_major _ _ _), hdr_scope, Scope.ofBits_bits, rForm_d, rForm_a, rForm_b, rForm_k, rForm_f, opbOf_bits _ hb]
  show decFcmp sc _ _ _ _ = _
  have e : ∀ (d a : Reg) (o : Opb), decFcmp sc d a o (1#4).toNat = (if (d &&& 0x20#6) = 0 ∧ d.extractLsb' 3 2 ≠ 3#2 then some (.fcmpNe sc (d.extractLsb' 0 3) (d.extractLsb' 3 2) a o) else none) := fun _ _ _ => rfl
  rw [e]
  simp [cmp_p, cmp_comb, cmp_zero, hc.1]

theorem fcmpLt (sc : Scope) (p : BitVec 3) (comb : BitVec 2) (a : Reg) (b : Opb) : Statement (.fcmpLt sc p comb a b) := by
  intro hw rest
  have hc : comb ≠ 3#2 ∧ b.wf = true := by have h0 : (decide (comb ≠ 3#2) && b.wf) = true := hw.1; simpa using h0
  have hb := hc.2
  refine roundOpb (fun x => .fcmpLt sc p comb a x) b _ (fun _ => rfl) rfl (fun l => ?_) rest
  show decodeWord (hdr _ _ (six (0#1 ++ comb ++ p) ++ a ++ b.bits ++ b.kind ++ 2#4)) l = _
  simp only [decodeMajor_9 _ _ (hdr_major _ _ _), hdr_scope, Scope.ofBits_bits, rForm_d, rForm_a, rForm_b, rForm_k, rForm_f, opbOf_bits _ hb]
  show decFcmp sc _ _ _ _ = _
  have e : ∀ (d a : Reg) (o : Opb), decFcmp sc d a o (2#4).toNat = (if (d &&& 0x20#6) = 0 ∧ d.extractLsb' 3 2 ≠ 3#2 then some (.fcmpLt sc (d.extractLsb' 0 3) (d.extractLsb' 3 2) a o) else none) := fun _ _ _ => rfl
  rw [e]
  simp [cmp_p, cmp_comb, cmp_zero, hc.1]

theorem fcmpLe (sc : Scope) (p : BitVec 3) (comb : BitVec 2) (a : Reg) (b : Opb) : Statement (.fcmpLe sc p comb a b) := by
  intro hw rest
  have hc : comb ≠ 3#2 ∧ b.wf = true := by have h0 : (decide (comb ≠ 3#2) && b.wf) = true := hw.1; simpa using h0
  have hb := hc.2
  refine roundOpb (fun x => .fcmpLe sc p comb a x) b _ (fun _ => rfl) rfl (fun l => ?_) rest
  show decodeWord (hdr _ _ (six (0#1 ++ comb ++ p) ++ a ++ b.bits ++ b.kind ++ 3#4)) l = _
  simp only [decodeMajor_9 _ _ (hdr_major _ _ _), hdr_scope, Scope.ofBits_bits, rForm_d, rForm_a, rForm_b, rForm_k, rForm_f, opbOf_bits _ hb]
  show decFcmp sc _ _ _ _ = _
  have e : ∀ (d a : Reg) (o : Opb), decFcmp sc d a o (3#4).toNat = (if (d &&& 0x20#6) = 0 ∧ d.extractLsb' 3 2 ≠ 3#2 then some (.fcmpLe sc (d.extractLsb' 0 3) (d.extractLsb' 3 2) a o) else none) := fun _ _ _ => rfl
  rw [e]
  simp [cmp_p, cmp_comb, cmp_zero, hc.1]

theorem fcmpGt (sc : Scope) (p : BitVec 3) (comb : BitVec 2) (a : Reg) (b : Opb) : Statement (.fcmpGt sc p comb a b) := by
  intro hw rest
  have hc : comb ≠ 3#2 ∧ b.wf = true := by have h0 : (decide (comb ≠ 3#2) && b.wf) = true := hw.1; simpa using h0
  have hb := hc.2
  refine roundOpb (fun x => .fcmpGt sc p comb a x) b _ (fun _ => rfl) rfl (fun l => ?_) rest
  show decodeWord (hdr _ _ (six (0#1 ++ comb ++ p) ++ a ++ b.bits ++ b.kind ++ 4#4)) l = _
  simp only [decodeMajor_9 _ _ (hdr_major _ _ _), hdr_scope, Scope.ofBits_bits, rForm_d, rForm_a, rForm_b, rForm_k, rForm_f, opbOf_bits _ hb]
  show decFcmp sc _ _ _ _ = _
  have e : ∀ (d a : Reg) (o : Opb), decFcmp sc d a o (4#4).toNat = (if (d &&& 0x20#6) = 0 ∧ d.extractLsb' 3 2 ≠ 3#2 then some (.fcmpGt sc (d.extractLsb' 0 3) (d.extractLsb' 3 2) a o) else none) := fun _ _ _ => rfl
  rw [e]
  simp [cmp_p, cmp_comb, cmp_zero, hc.1]

theorem fcmpGe (sc : Scope) (p : BitVec 3) (comb : BitVec 2) (a : Reg) (b : Opb) : Statement (.fcmpGe sc p comb a b) := by
  intro hw rest
  have hc : comb ≠ 3#2 ∧ b.wf = true := by have h0 : (decide (comb ≠ 3#2) && b.wf) = true := hw.1; simpa using h0
  have hb := hc.2
  refine roundOpb (fun x => .fcmpGe sc p comb a x) b _ (fun _ => rfl) rfl (fun l => ?_) rest
  show decodeWord (hdr _ _ (six (0#1 ++ comb ++ p) ++ a ++ b.bits ++ b.kind ++ 5#4)) l = _
  simp only [decodeMajor_9 _ _ (hdr_major _ _ _), hdr_scope, Scope.ofBits_bits, rForm_d, rForm_a, rForm_b, rForm_k, rForm_f, opbOf_bits _ hb]
  show decFcmp sc _ _ _ _ = _
  have e : ∀ (d a : Reg) (o : Opb), decFcmp sc d a o (5#4).toNat = (if (d &&& 0x20#6) = 0 ∧ d.extractLsb' 3 2 ≠ 3#2 then some (.fcmpGe sc (d.extractLsb' 0 3) (d.extractLsb' 3 2) a o) else none) := fun _ _ _ => rfl
  rw [e]
  simp [cmp_p, cmp_comb, cmp_zero, hc.1]

theorem fcmpUn (sc : Scope) (p : BitVec 3) (comb : BitVec 2) (a : Reg) (b : Opb) : Statement (.fcmpUn sc p comb a b) := by
  intro hw rest
  have hc : comb ≠ 3#2 ∧ b.wf = true := by have h0 : (decide (comb ≠ 3#2) && b.wf) = true := hw.1; simpa using h0
  have hb := hc.2
  refine roundOpb (fun x => .fcmpUn sc p comb a x) b _ (fun _ => rfl) rfl (fun l => ?_) rest
  show decodeWord (hdr _ _ (six (0#1 ++ comb ++ p) ++ a ++ b.bits ++ b.kind ++ 6#4)) l = _
  simp only [decodeMajor_9 _ _ (hdr_major _ _ _), hdr_scope, Scope.ofBits_bits, rForm_d, rForm_a, rForm_b, rForm_k, rForm_f, opbOf_bits _ hb]
  show decFcmp sc _ _ _ _ = _
  have e : ∀ (d a : Reg) (o : Opb), decFcmp sc d a o (6#4).toNat = (if (d &&& 0x20#6) = 0 ∧ d.extractLsb' 3 2 ≠ 3#2 then some (.fcmpUn sc (d.extractLsb' 0 3) (d.extractLsb' 3 2) a o) else none) := fun _ _ _ => rfl
  rw [e]
  simp [cmp_p, cmp_comb, cmp_zero, hc.1]

theorem fcmpOr (sc : Scope) (p : BitVec 3) (comb : BitVec 2) (a : Reg) (b : Opb) : Statement (.fcmpOr sc p comb a b) := by
  intro hw rest
  have hc : comb ≠ 3#2 ∧ b.wf = true := by have h0 : (decide (comb ≠ 3#2) && b.wf) = true := hw.1; simpa using h0
  have hb := hc.2
  refine roundOpb (fun x => .fcmpOr sc p comb a x) b _ (fun _ => rfl) rfl (fun l => ?_) rest
  show decodeWord (hdr _ _ (six (0#1 ++ comb ++ p) ++ a ++ b.bits ++ b.kind ++ 7#4)) l = _
  simp only [decodeMajor_9 _ _ (hdr_major _ _ _), hdr_scope, Scope.ofBits_bits, rForm_d, rForm_a, rForm_b, rForm_k, rForm_f, opbOf_bits _ hb]
  show decFcmp sc _ _ _ _ = _
  have e : ∀ (d a : Reg) (o : Opb), decFcmp sc d a o (7#4).toNat = (if (d &&& 0x20#6) = 0 ∧ d.extractLsb' 3 2 ≠ 3#2 then some (.fcmpOr sc (d.extractLsb' 0 3) (d.extractLsb' 3 2) a o) else none) := fun _ _ _ => rfl
  rw [e]
  simp [cmp_p, cmp_comb, cmp_zero, hc.1]

theorem frcp (sc : Scope) (d : Reg) (b : Opb) : Statement (.frcp sc d b) := by
  intro hw rest
  have hb : b.wf = true := hw.1
  refine roundOpb (fun x => .frcp sc d x) b _ (fun _ => rfl) rfl (fun l => ?_) rest
  simp only [decodeMajor_10 _ _ (hdr_major _ _ _), hdr_scope, Scope.ofBits_bits, rForm_d, rForm_a, rForm_b, rForm_k, rForm_f, opbOf_bits _ hb]
  rfl

theorem frsq (sc : Scope) (d : Reg) (b : Opb) : Statement (.frsq sc d b) := by
  intro hw rest
  have hb : b.wf = true := hw.1
  refine roundOpb (fun x => .frsq sc d x) b _ (fun _ => rfl) rfl (fun l => ?_) rest
  simp only [decodeMajor_10 _ _ (hdr_major _ _ _), hdr_scope, Scope.ofBits_bits, rForm_d, rForm_a, rForm_b, rForm_k, rForm_f, opbOf_bits _ hb]
  rfl

theorem fsqrt (sc : Scope) (d : Reg) (b : Opb) : Statement (.fsqrt sc d b) := by
  intro hw rest
  have hb : b.wf = true := hw.1
  refine roundOpb (fun x => .fsqrt sc d x) b _ (fun _ => rfl) rfl (fun l => ?_) rest
  simp only [decodeMajor_10 _ _ (hdr_major _ _ _), hdr_scope, Scope.ofBits_bits, rForm_d, rForm_a, rForm_b, rForm_k, rForm_f, opbOf_bits _ hb]
  rfl

theorem fexp2 (sc : Scope) (d : Reg) (b : Opb) : Statement (.fexp2 sc d b) := by
  intro hw rest
  have hb : b.wf = true := hw.1
  refine roundOpb (fun x => .fexp2 sc d x) b _ (fun _ => rfl) rfl (fun l => ?_) rest
  simp only [decodeMajor_10 _ _ (hdr_major _ _ _), hdr_scope, Scope.ofBits_bits, rForm_d, rForm_a, rForm_b, rForm_k, rForm_f, opbOf_bits _ hb]
  rfl

theorem flog2 (sc : Scope) (d : Reg) (b : Opb) : Statement (.flog2 sc d b) := by
  intro hw rest
  have hb : b.wf = true := hw.1
  refine roundOpb (fun x => .flog2 sc d x) b _ (fun _ => rfl) rfl (fun l => ?_) rest
  simp only [decodeMajor_10 _ _ (hdr_major _ _ _), hdr_scope, Scope.ofBits_bits, rForm_d, rForm_a, rForm_b, rForm_k, rForm_f, opbOf_bits _ hb]
  rfl

theorem fsint (sc : Scope) (d : Reg) (b : Opb) : Statement (.fsint sc d b) := by
  intro hw rest
  have hb : b.wf = true := hw.1
  refine roundOpb (fun x => .fsint sc d x) b _ (fun _ => rfl) rfl (fun l => ?_) rest
  simp only [decodeMajor_10 _ _ (hdr_major _ _ _), hdr_scope, Scope.ofBits_bits, rForm_d, rForm_a, rForm_b, rForm_k, rForm_f, opbOf_bits _ hb]
  rfl

theorem fcost (sc : Scope) (d : Reg) (b : Opb) : Statement (.fcost sc d b) := by
  intro hw rest
  have hb : b.wf = true := hw.1
  refine roundOpb (fun x => .fcost sc d x) b _ (fun _ => rfl) rfl (fun l => ?_) rest
  simp only [decodeMajor_10 _ _ (hdr_major _ _ _), hdr_scope, Scope.ofBits_bits, rForm_d, rForm_a, rForm_b, rForm_k, rForm_f, opbOf_bits _ hb]
  rfl

theorem ftanh (sc : Scope) (d : Reg) (b : Opb) : Statement (.ftanh sc d b) := by
  intro hw rest
  have hb : b.wf = true := hw.1
  refine roundOpb (fun x => .ftanh sc d x) b _ (fun _ => rfl) rfl (fun l => ?_) rest
  simp only [decodeMajor_10 _ _ (hdr_major _ _ _), hdr_scope, Scope.ofBits_bits, rForm_d, rForm_a, rForm_b, rForm_k, rForm_f, opbOf_bits _ hb]
  rfl

theorem hpadd (sc : Scope) (d : Reg) (a : Reg) (b : Opb) : Statement (.hpadd sc d a b) := by
  intro hw rest
  have hb : b.wf = true := hw.1
  refine roundOpb (fun x => .hpadd sc d a x) b _ (fun _ => rfl) rfl (fun l => ?_) rest
  simp only [decodeMajor_11 _ _ (hdr_major _ _ _), hdr_scope, Scope.ofBits_bits, rForm_d, rForm_a, rForm_b, rForm_k, rForm_f, opbOf_bits _ hb]
  rfl

theorem hpmul (sc : Scope) (d : Reg) (a : Reg) (b : Opb) : Statement (.hpmul sc d a b) := by
  intro hw rest
  have hb : b.wf = true := hw.1
  refine roundOpb (fun x => .hpmul sc d a x) b _ (fun _ => rfl) rfl (fun l => ?_) rest
  simp only [decodeMajor_11 _ _ (hdr_major _ _ _), hdr_scope, Scope.ofBits_bits, rForm_d, rForm_a, rForm_b, rForm_k, rForm_f, opbOf_bits _ hb]
  rfl

theorem hpfma (sc : Scope) (d : Reg) (a : Reg) (b : Opb) : Statement (.hpfma sc d a b) := by
  intro hw rest
  have hb : b.wf = true := hw.1
  refine roundOpb (fun x => .hpfma sc d a x) b _ (fun _ => rfl) rfl (fun l => ?_) rest
  simp only [decodeMajor_11 _ _ (hdr_major _ _ _), hdr_scope, Scope.ofBits_bits, rForm_d, rForm_a, rForm_b, rForm_k, rForm_f, opbOf_bits _ hb]
  rfl

theorem hpmin (sc : Scope) (d : Reg) (a : Reg) (b : Opb) : Statement (.hpmin sc d a b) := by
  intro hw rest
  have hb : b.wf = true := hw.1
  refine roundOpb (fun x => .hpmin sc d a x) b _ (fun _ => rfl) rfl (fun l => ?_) rest
  simp only [decodeMajor_11 _ _ (hdr_major _ _ _), hdr_scope, Scope.ofBits_bits, rForm_d, rForm_a, rForm_b, rForm_k, rForm_f, opbOf_bits _ hb]
  rfl

theorem hpmax (sc : Scope) (d : Reg) (a : Reg) (b : Opb) : Statement (.hpmax sc d a b) := by
  intro hw rest
  have hb : b.wf = true := hw.1
  refine roundOpb (fun x => .hpmax sc d a x) b _ (fun _ => rfl) rfl (fun l => ?_) rest
  simp only [decodeMajor_11 _ _ (hdr_major _ _ _), hdr_scope, Scope.ofBits_bits, rForm_d, rForm_a, rForm_b, rForm_k, rForm_f, opbOf_bits _ hb]
  rfl

theorem bpadd (sc : Scope) (d : Reg) (a : Reg) (b : Opb) : Statement (.bpadd sc d a b) := by
  intro hw rest
  have hb : b.wf = true := hw.1
  refine roundOpb (fun x => .bpadd sc d a x) b _ (fun _ => rfl) rfl (fun l => ?_) rest
  simp only [decodeMajor_11 _ _ (hdr_major _ _ _), hdr_scope, Scope.ofBits_bits, rForm_d, rForm_a, rForm_b, rForm_k, rForm_f, opbOf_bits _ hb]
  rfl

theorem bpmul (sc : Scope) (d : Reg) (a : Reg) (b : Opb) : Statement (.bpmul sc d a b) := by
  intro hw rest
  have hb : b.wf = true := hw.1
  refine roundOpb (fun x => .bpmul sc d a x) b _ (fun _ => rfl) rfl (fun l => ?_) rest
  simp only [decodeMajor_11 _ _ (hdr_major _ _ _), hdr_scope, Scope.ofBits_bits, rForm_d, rForm_a, rForm_b, rForm_k, rForm_f, opbOf_bits _ hb]
  rfl

theorem bpfma (sc : Scope) (d : Reg) (a : Reg) (b : Opb) : Statement (.bpfma sc d a b) := by
  intro hw rest
  have hb : b.wf = true := hw.1
  refine roundOpb (fun x => .bpfma sc d a x) b _ (fun _ => rfl) rfl (fun l => ?_) rest
  simp only [decodeMajor_11 _ _ (hdr_major _ _ _), hdr_scope, Scope.ofBits_bits, rForm_d, rForm_a, rForm_b, rForm_k, rForm_f, opbOf_bits _ hb]
  rfl

theorem bpmin (sc : Scope) (d : Reg) (a : Reg) (b : Opb) : Statement (.bpmin sc d a b) := by
  intro hw rest
  have hb : b.wf = true := hw.1
  refine roundOpb (fun x => .bpmin sc d a x) b _ (fun _ => rfl) rfl (fun l => ?_) rest
  simp only [decodeMajor_11 _ _ (hdr_major _ _ _), hdr_scope, Scope.ofBits_bits, rForm_d, rForm_a, rForm_b, rForm_k, rForm_f, opbOf_bits _ hb]
  rfl

theorem bpmax (sc : Scope) (d : Reg) (a : Reg) (b : Opb) : Statement (.bpmax sc d a b) := by
  intro hw rest
  have hb : b.wf = true := hw.1
  refine roundOpb (fun x => .bpmax sc d a x) b _ (fun _ => rfl) rfl (fun l => ?_) rest
  simp only [decodeMajor_11 _ _ (hdr_major _ _ _), hdr_scope, Scope.ofBits_bits, rForm_d, rForm_a, rForm_b, rForm_k, rForm_f, opbOf_bits _ hb]
  rfl

theorem pk2 (sc : Scope) (d : Reg) (a : Reg) (b : Opb) : Statement (.pk2 sc d a b) := by
  intro hw rest
  have hb : b.wf = true := hw.1
  refine roundOpb (fun x => .pk2 sc d a x) b _ (fun _ => rfl) rfl (fun l => ?_) rest
  simp only [decodeMajor_11 _ _ (hdr_major _ _ _), hdr_scope, Scope.ofBits_bits, rForm_d, rForm_a, rForm_b, rForm_k, rForm_f, opbOf_bits _ hb]
  rfl

theorem pkb2 (sc : Scope) (d : Reg) (a : Reg) (b : Opb) : Statement (.pkb2 sc d a b) := by
  intro hw rest
  have hb : b.wf = true := hw.1
  refine roundOpb (fun x => .pkb2 sc d a x) b _ (fun _ => rfl) rfl (fun l => ?_) rest
  simp only [decodeMajor_11 _ _ (hdr_major _ _ _), hdr_scope, Scope.ofBits_bits, rForm_d, rForm_a, rForm_b, rForm_k, rForm_f, opbOf_bits _ hb]
  rfl

theorem upkl (sc : Scope) (d : Reg) (b : Opb) : Statement (.upkl sc d b) := by
  intro hw rest
  have hb : b.wf = true := hw.1
  refine roundOpb (fun x => .upkl sc d x) b _ (fun _ => rfl) rfl (fun l => ?_) rest
  simp only [decodeMajor_11 _ _ (hdr_major _ _ _), hdr_scope, Scope.ofBits_bits, rForm_d, rForm_a, rForm_b, rForm_k, rForm_f, opbOf_bits _ hb]
  rfl

theorem upkh (sc : Scope) (d : Reg) (b : Opb) : Statement (.upkh sc d b) := by
  intro hw rest
  have hb : b.wf = true := hw.1
  refine roundOpb (fun x => .upkh sc d x) b _ (fun _ => rfl) rfl (fun l => ?_) rest
  simp only [decodeMajor_11 _ _ (hdr_major _ _ _), hdr_scope, Scope.ofBits_bits, rForm_d, rForm_a, rForm_b, rForm_k, rForm_f, opbOf_bits _ hb]
  rfl

theorem idp4 (sc : Scope) (d : Reg) (a : Reg) (b : Opb) : Statement (.idp4 sc d a b) := by
  intro hw rest
  have hb : b.wf = true := hw.1
  refine roundOpb (fun x => .idp4 sc d a x) b _ (fun _ => rfl) rfl (fun l => ?_) rest
  simp only [decodeMajor_12 _ _ (hdr_major _ _ _), hdr_scope, Scope.ofBits_bits, rForm_d, rForm_a, rForm_b, rForm_k, rForm_f, opbOf_bits _ hb]
  rfl

theorem idp4u (sc : Scope) (d : Reg) (a : Reg) (b : Opb) : Statement (.idp4u sc d a b) := by
  intro hw rest
  have hb : b.wf = true := hw.1
  refine roundOpb (fun x => .idp4u sc d a x) b _ (fun _ => rfl) rfl (fun l => ?_) rest
  simp only [decodeMajor_12 _ _ (hdr_major _ _ _), hdr_scope, Scope.ofBits_bits, rForm_d, rForm_a, rForm_b, rForm_k, rForm_f, opbOf_bits _ hb]
  rfl

theorem bdp2 (sc : Scope) (d : Reg) (a : Reg) (b : Opb) : Statement (.bdp2 sc d a b) := by
  intro hw rest
  have hb : b.wf = true := hw.1
  refine roundOpb (fun x => .bdp2 sc d a x) b _ (fun _ => rfl) rfl (fun l => ?_) rest
  simp only [decodeMajor_12 _ _ (hdr_major _ _ _), hdr_scope, Scope.ofBits_bits, rForm_d, rForm_a, rForm_b, rForm_k, rForm_f, opbOf_bits _ hb]
  rfl

theorem edp4 (sc : Scope) (d : Reg) (a : Reg) (b : Opb) : Statement (.edp4 sc d a b) := by
  intro hw rest
  have hb : b.wf = true := hw.1
  refine roundOpb (fun x => .edp4 sc d a x) b _ (fun _ => rfl) rfl (fun l => ?_) rest
  simp only [decodeMajor_12 _ _ (hdr_major _ _ _), hdr_scope, Scope.ofBits_bits, rForm_d, rForm_a, rForm_b, rForm_k, rForm_f, opbOf_bits _ hb]
  rfl

theorem dsdp4 (sc : Scope) (d : Reg) (a : Reg) (b : Opb) : Statement (.dsdp4 sc d a b) := by
  intro hw rest
  have hb : b.wf = true := hw.1
  refine roundOpb (fun x => .dsdp4 sc d a x) b _ (fun _ => rfl) rfl (fun l => ?_) rest
  simp only [decodeMajor_12 _ _ (hdr_major _ _ _), hdr_scope, Scope.ofBits_bits, rForm_d, rForm_a, rForm_b, rForm_k, rForm_f, opbOf_bits _ hb]
  rfl

theorem movi (sc : Scope) (d : Reg) (imm : BitVec 18) : Statement (.movi sc d imm) := by
  intro hw rest
  refine roundPlain _ _ rfl rfl (fun l => ?_) rest
  simp only [decodeMajor_13 _ _ (hdr_major _ _ _), hdr_scope, Scope.ofBits_bits, mv_d]
  show decMovi _ _ _ = _
  simp only [decMovi, mv_i]

theorem smovi (sc : Scope) (d : Reg) (imm : BitVec 18) : Statement (.smovi sc d imm) := by
  intro hw rest
  refine roundPlain _ _ rfl rfl (fun l => ?_) rest
  simp only [decodeMajor_14 _ _ (hdr_major _ _ _), hdr_scope, Scope.ofBits_bits, mv_d]
  show decSmovi _ _ _ = _
  simp only [decSmovi, mv_i]

theorem ld (sc : Scope) (d : Reg) (a : Reg) (pol : Reg) (size : BitVec 3) (sx : Bool) (as : Bool) : Statement (.ld sc d a pol size sx as) := by
  intro hw rest
  have hc : size ≤ 4#3 ∧ (sx = true → size ≤ 1#3) := by have h0 : (decide (size ≤ 4#3) && (!sx || decide (size ≤ 1#3))) = true := hw.1; cases sx <;> simp_all
  refine roundPlain _ _ rfl rfl (fun l => ?_) rest
  rw [join_ld]
  simp only [decodeMajor_16 _ _ (hdr_major _ _ _), hdr_scope, Scope.ofBits_bits, tForm_d, tForm_a]
  show decLd _ _ _ _ = _
  simp only [decLd, tForm_b, tForm_x _ _ _ _ _ _ 3 3 (by omega), tForm_bit _ _ _ _ _ _ 2 (by omega), tForm_bit _ _ _ _ _ _ 1 (by omega), tForm_bit _ _ _ _ _ _ 0 (by omega), ld_size, ld_sx, ld_as, ld_0]
  rw [if_pos ⟨trivial, hc⟩]

theorem st (sc : Scope) (d : Reg) (a : Reg) (pol : Reg) (size : BitVec 3) (g : Bool) (as : Bool) : Statement (.st sc d a pol size g as) := by
  intro hw rest
  have hc : size ≤ 4#3 := by have h0 : (decide (size ≤ 4#3)) = true := hw.1; simpa using h0
  refine roundPlain _ _ rfl rfl (fun l => ?_) rest
  rw [join_ld]
  simp only [decodeMajor_17 _ _ (hdr_major _ _ _), hdr_scope, Scope.ofBits_bits, tForm_d, tForm_a]
  show decSt _ _ _ _ = _
  simp only [decSt, tForm_b, tForm_x _ _ _ _ _ _ 3 3 (by omega), tForm_bit _ _ _ _ _ _ 2 (by omega), tForm_bit _ _ _ _ _ _ 1 (by omega), tForm_bit _ _ _ _ _ _ 0 (by omega), ld_size, ld_sx, ld_as, ld_0]
  rw [if_pos ⟨trivial, hc⟩]

theorem lds (sc : Scope) (d : Reg) (off : Reg) (alloc : BitVec 3) (size : BitVec 3) (ok : Bool) : Statement (.lds sc d off alloc size ok) := by
  intro hw rest
  have hc : size ≤ 4#3 := by have h0 : (decide (size ≤ 4#3)) = true := hw.1; simpa using h0
  refine roundPlain _ _ rfl rfl (fun l => ?_) rest
  rw [show (0#1 : BitVec 1) = BitVec.ofBool false from rfl, join_lds]
  simp only [decodeMajor_18 _ _ (hdr_major _ _ _), hdr_scope, Scope.ofBits_bits, uForm_d, uForm_a]
  show decLds _ _ _ _ = _
  simp only [decLds, uForm_x _ _ _ _ _ 0 4 (by omega), uForm_x _ _ _ _ _ 5 3 (by omega), uForm_x _ _ _ _ _ 9 3 (by omega), uForm_bit _ _ _ _ _ 8 (by omega), uForm_bit _ _ _ _ _ 4 (by omega), lds_0, lds_ok, lds_size, lds_g, lds_alloc]
  rw [if_pos ⟨trivial, hc⟩]; rfl

theorem sts (sc : Scope) (d : Reg) (off : Reg) (alloc : BitVec 3) (size : BitVec 3) (ok : Bool) : Statement (.sts sc d off alloc size ok) := by
  intro hw rest
  have hc : size ≤ 4#3 := by have h0 : (decide (size ≤ 4#3)) = true := hw.1; simpa using h0
  refine roundPlain _ _ rfl rfl (fun l => ?_) rest
  rw [show (1#1 : BitVec 1) = BitVec.ofBool true from rfl, join_lds]
  simp only [decodeMajor_18 _ _ (hdr_major _ _ _), hdr_scope, Scope.ofBits_bits, uForm_d, uForm_a]
  show decLds _ _ _ _ = _
  simp only [decLds, uForm_x _ _ _ _ _ 0 4 (by omega), uForm_x _ _ _ _ _ 5 3 (by omega), uForm_x _ _ _ _ _ 9 3 (by omega), uForm_bit _ _ _ _ _ 8 (by omega), uForm_bit _ _ _ _ _ 4 (by omega), lds_0, lds_ok, lds_size, lds_g, lds_alloc]
  rw [if_pos ⟨trivial, hc⟩]; rfl

theorem ldc (sc : Scope) (d : Reg) (a : Reg) (b : Opb) : Statement (.ldc sc d a b) := by
  intro hw rest
  have hb : b.wf = true := hw.1
  refine roundOpb (fun x => .ldc sc d a x) b _ (fun _ => rfl) rfl (fun l => ?_) rest
  simp only [decodeMajor_19 _ _ (hdr_major _ _ _), hdr_scope, Scope.ofBits_bits, rForm_d, rForm_a, rForm_b, rForm_k, rForm_f, opbOf_bits _ hb]
  rfl

theorem cwin (sc : Scope) (b : Opb) : Statement (.cwin sc b) := by
  intro hw rest
  have hb : b.wf = true := hw.1
  refine roundOpb (fun x => .cwin sc x) b _ (fun _ => rfl) rfl (fun l => ?_) rest
  simp only [decodeMajor_19 _ _ (hdr_major _ _ _), hdr_scope, Scope.ofBits_bits, rForm_d, rForm_a, rForm_b, rForm_k, rForm_f, opbOf_bits _ hb]
  rfl

theorem ldmc (sc : Scope) (d : Reg) (a : Reg) (c : Reg) : Statement (.ldmc sc d a c) := by
  intro hw rest
  refine roundPlain _ _ rfl rfl (fun l => ?_) rest
  simp only [decodeMajor_20 _ _ (hdr_major _ _ _), hdr_scope, Scope.ofBits_bits, tForm_d, tForm_a]
  show decLdmc _ _ _ _ = _
  simp [decLdmc, tForm_b, tForm_x _ _ _ _ _ _ 0 6 (by omega)]

theorem atomAadd (sc : Scope) (d : Reg) (a : Reg) (b : Reg) (w64 : Bool) : Statement (.atomAadd sc d a b w64) := by
  intro hw rest
  refine roundPlain _ _ rfl rfl (fun l => ?_) rest
  rw [join_atom]
  simp only [decodeMajor_21 _ _ (hdr_major _ _ _), hdr_scope, Scope.ofBits_bits, tForm_d, tForm_a]
  show decAtom _ _ _ _ = _
  simp only [decAtom, tForm_b, tForm_x _ _ _ _ _ _ 0 5 (by omega), tForm_bit _ _ _ _ _ _ 5 (by omega), atom_fn, atom_w]
  rfl

theorem atomAmin (sc : Scope) (d : Reg) (a : Reg) (b : Reg) (w64 : Bool) : Statement (.atomAmin sc d a b w64) := by
  intro hw rest
  refine roundPlain _ _ rfl rfl (fun l => ?_) rest
  rw [join_atom]
  simp only [decodeMajor_21 _ _ (hdr_major _ _ _), hdr_scope, Scope.ofBits_bits, tForm_d, tForm_a]
  show decAtom _ _ _ _ = _
  simp only [decAtom, tForm_b, tForm_x _ _ _ _ _ _ 0 5 (by omega), tForm_bit _ _ _ _ _ _ 5 (by omega), atom_fn, atom_w]
  rfl

theorem atomAmax (sc : Scope) (d : Reg) (a : Reg) (b : Reg) (w64 : Bool) : Statement (.atomAmax sc d a b w64) := by
  intro hw rest
  refine roundPlain _ _ rfl rfl (fun l => ?_) rest
  rw [join_atom]
  simp only [decodeMajor_21 _ _ (hdr_major _ _ _), hdr_scope, Scope.ofBits_bits, tForm_d, tForm_a]
  show decAtom _ _ _ _ = _
  simp only [decAtom, tForm_b, tForm_x _ _ _ _ _ _ 0 5 (by omega), tForm_bit _ _ _ _ _ _ 5 (by omega), atom_fn, atom_w]
  rfl

theorem atomAminu (sc : Scope) (d : Reg) (a : Reg) (b : Reg) (w64 : Bool) : Statement (.atomAminu sc d a b w64) := by
  intro hw rest
  refine roundPlain _ _ rfl rfl (fun l => ?_) rest
  rw [join_atom]
  simp only [decodeMajor_21 _ _ (hdr_major _ _ _), hdr_scope, Scope.ofBits_bits, tForm_d, tForm_a]
  show decAtom _ _ _ _ = _
  simp only [decAtom, tForm_b, tForm_x _ _ _ _ _ _ 0 5 (by omega), tForm_bit _ _ _ _ _ _ 5 (by omega), atom_fn, atom_w]
  rfl

theorem atomAmaxu (sc : Scope) (d : Reg) (a : Reg) (b : Reg) (w64 : Bool) : Statement (.atomAmaxu sc d a b w64) := by
  intro hw rest
  refine roundPlain _ _ rfl rfl (fun l => ?_) rest
  rw [join_atom]
  simp only [decodeMajor_21 _ _ (hdr_major _ _ _), hdr_scope, Scope.ofBits_bits, tForm_d, tForm_a]
  show decAtom _ _ _ _ = _
  simp only [decAtom, tForm_b, tForm_x _ _ _ _ _ _ 0 5 (by omega), tForm_bit _ _ _ _ _ _ 5 (by omega), atom_fn, atom_w]
  rfl

theorem atomAand (sc : Scope) (d : Reg) (a : Reg) (b : Reg) (w64 : Bool) : Statement (.atomAand sc d a b w64) := by
  intro hw rest
  refine roundPlain _ _ rfl rfl (fun l => ?_) rest
  rw [join_atom]
  simp only [decodeMajor_21 _ _ (hdr_major _ _ _), hdr_scope, Scope.ofBits_bits, tForm_d, tForm_a]
  show decAtom _ _ _ _ = _
  simp only [decAtom, tForm_b, tForm_x _ _ _ _ _ _ 0 5 (by omega), tForm_bit _ _ _ _ _ _ 5 (by omega), atom_fn, atom_w]
  rfl

theorem atomAor (sc : Scope) (d : Reg) (a : Reg) (b : Reg) (w64 : Bool) : Statement (.atomAor sc d a b w64) := by
  intro hw rest
  refine roundPlain _ _ rfl rfl (fun l => ?_) rest
  rw [join_atom]
  simp only [decodeMajor_21 _ _ (hdr_major _ _ _), hdr_scope, Scope.ofBits_bits, tForm_d, tForm_a]
  show decAtom _ _ _ _ = _
  simp only [decAtom, tForm_b, tForm_x _ _ _ _ _ _ 0 5 (by omega), tForm_bit _ _ _ _ _ _ 5 (by omega), atom_fn, atom_w]
  rfl

theorem atomAxor (sc : Scope) (d : Reg) (a : Reg) (b : Reg) (w64 : Bool) : Statement (.atomAxor sc d a b w64) := by
  intro hw rest
  refine roundPlain _ _ rfl rfl (fun l => ?_) rest
  rw [join_atom]
  simp only [decodeMajor_21 _ _ (hdr_major _ _ _), hdr_scope, Scope.ofBits_bits, tForm_d, tForm_a]
  show decAtom _ _ _ _ = _
  simp only [decAtom, tForm_b, tForm_x _ _ _ _ _ _ 0 5 (by omega), tForm_bit _ _ _ _ _ _ 5 (by omega), atom_fn, atom_w]
  rfl

theorem atomAexch (sc : Scope) (d : Reg) (a : Reg) (b : Reg) (w64 : Bool) : Statement (.atomAexch sc d a b w64) := by
  intro hw rest
  refine roundPlain _ _ rfl rfl (fun l => ?_) rest
  rw [join_atom]
  simp only [decodeMajor_21 _ _ (hdr_major _ _ _), hdr_scope, Scope.ofBits_bits, tForm_d, tForm_a]
  show decAtom _ _ _ _ = _
  simp only [decAtom, tForm_b, tForm_x _ _ _ _ _ _ 0 5 (by omega), tForm_bit _ _ _ _ _ _ 5 (by omega), atom_fn, atom_w]
  rfl

theorem atomAcas (sc : Scope) (d : Reg) (a : Reg) (b : Reg) (w64 : Bool) : Statement (.atomAcas sc d a b w64) := by
  intro hw rest
  refine roundPlain _ _ rfl rfl (fun l => ?_) rest
  rw [join_atom]
  simp only [decodeMajor_21 _ _ (hdr_major _ _ _), hdr_scope, Scope.ofBits_bits, tForm_d, tForm_a]
  show decAtom _ _ _ _ = _
  simp only [decAtom, tForm_b, tForm_x _ _ _ _ _ _ 0 5 (by omega), tForm_bit _ _ _ _ _ _ 5 (by omega), atom_fn, atom_w]
  rfl

theorem atomAinc (sc : Scope) (d : Reg) (a : Reg) (b : Reg) (w64 : Bool) : Statement (.atomAinc sc d a b w64) := by
  intro hw rest
  refine roundPlain _ _ rfl rfl (fun l => ?_) rest
  rw [join_atom]
  simp only [decodeMajor_21 _ _ (hdr_major _ _ _), hdr_scope, Scope.ofBits_bits, tForm_d, tForm_a]
  show decAtom _ _ _ _ = _
  simp only [decAtom, tForm_b, tForm_x _ _ _ _ _ _ 0 5 (by omega), tForm_bit _ _ _ _ _ _ 5 (by omega), atom_fn, atom_w]
  rfl

theorem atomAdec (sc : Scope) (d : Reg) (a : Reg) (b : Reg) (w64 : Bool) : Statement (.atomAdec sc d a b w64) := by
  intro hw rest
  refine roundPlain _ _ rfl rfl (fun l => ?_) rest
  rw [join_atom]
  simp only [decodeMajor_21 _ _ (hdr_major _ _ _), hdr_scope, Scope.ofBits_bits, tForm_d, tForm_a]
  show decAtom _ _ _ _ = _
  simp only [decAtom, tForm_b, tForm_x _ _ _ _ _ _ 0 5 (by omega), tForm_bit _ _ _ _ _ _ 5 (by omega), atom_fn, atom_w]
  rfl

theorem atomAfadd (sc : Scope) (d : Reg) (a : Reg) (b : Reg) : Statement (.atomAfadd sc d a b) := by
  intro hw rest
  refine roundPlain _ _ rfl rfl (fun l => ?_) rest
  rw [join_atom]
  simp only [decodeMajor_21 _ _ (hdr_major _ _ _), hdr_scope, Scope.ofBits_bits, tForm_d, tForm_a]
  show decAtom _ _ _ _ = _
  simp only [decAtom, tForm_b, tForm_x _ _ _ _ _ _ 0 5 (by omega), tForm_bit _ _ _ _ _ _ 5 (by omega), atomf_fn, atomf_w]
  rfl

theorem atomAfaddb (sc : Scope) (d : Reg) (a : Reg) (b : Reg) : Statement (.atomAfaddb sc d a b) := by
  intro hw rest
  refine roundPlain _ _ rfl rfl (fun l => ?_) rest
  rw [join_atom]
  simp only [decodeMajor_21 _ _ (hdr_major _ _ _), hdr_scope, Scope.ofBits_bits, tForm_d, tForm_a]
  show decAtom _ _ _ _ = _
  simp only [decAtom, tForm_b, tForm_x _ _ _ _ _ _ 0 5 (by omega), tForm_bit _ _ _ _ _ _ 5 (by omega), atomf_fn, atomf_w]
  rfl

theorem atomAfadde (sc : Scope) (d : Reg) (a : Reg) (b : Reg) : Statement (.atomAfadde sc d a b) := by
  intro hw rest
  refine roundPlain _ _ rfl rfl (fun l => ?_) rest
  rw [join_atom]
  simp only [decodeMajor_21 _ _ (hdr_major _ _ _), hdr_scope, Scope.ofBits_bits, tForm_d, tForm_a]
  show decAtom _ _ _ _ = _
  simp only [decAtom, tForm_b, tForm_x _ _ _ _ _ _ 0 5 (by omega), tForm_bit _ _ _ _ _ _ 5 (by omega), atomf_fn, atomf_w]
  rfl

theorem atomAfmin (sc : Scope) (d : Reg) (a : Reg) (b : Reg) : Statement (.atomAfmin sc d a b) := by
  intro hw rest
  refine roundPlain _ _ rfl rfl (fun l => ?_) rest
  rw [join_atom]
  simp only [decodeMajor_21 _ _ (hdr_major _ _ _), hdr_scope, Scope.ofBits_bits, tForm_d, tForm_a]
  show decAtom _ _ _ _ = _
  simp only [decAtom, tForm_b, tForm_x _ _ _ _ _ _ 0 5 (by omega), tForm_bit _ _ _ _ _ _ 5 (by omega), atomf_fn, atomf_w]
  rfl

theorem atomAfmax (sc : Scope) (d : Reg) (a : Reg) (b : Reg) : Statement (.atomAfmax sc d a b) := by
  intro hw rest
  refine roundPlain _ _ rfl rfl (fun l => ?_) rest
  rw [join_atom]
  simp only [decodeMajor_21 _ _ (hdr_major _ _ _), hdr_scope, Scope.ofBits_bits, tForm_d, tForm_a]
  show decAtom _ _ _ _ = _
  simp only [decAtom, tForm_b, tForm_x _ _ _ _ _ _ 0 5 (by omega), tForm_bit _ _ _ _ _ _ 5 (by omega), atomf_fn, atomf_w]
  rfl

theorem redAadd (sc : Scope) (a : Reg) (b : Reg) (w64 : Bool) : Statement (.redAadd sc a b w64) := by
  intro hw rest
  refine roundPlain _ _ rfl rfl (fun l => ?_) rest
  rw [join_atom]
  simp only [decodeMajor_22 _ _ (hdr_major _ _ _), hdr_scope, Scope.ofBits_bits, tForm_d, tForm_a]
  show decRed _ _ _ _ = _
  simp only [decRed, tForm_b, tForm_x _ _ _ _ _ _ 0 5 (by omega), tForm_bit _ _ _ _ _ _ 5 (by omega), atom_fn, atom_w]
  rfl

theorem redAmin (sc : Scope) (a : Reg) (b : Reg) (w64 : Bool) : Statement (.redAmin sc a b w64) := by
  intro hw rest
  refine roundPlain _ _ rfl rfl (fun l => ?_) rest
  rw [join_atom]
  simp only [decodeMajor_22 _ _ (hdr_major _ _ _), hdr_scope, Scope.ofBits_bits, tForm_d, tForm_a]
  show decRed _ _ _ _ = _
  simp only [decRed, tForm_b, tForm_x _ _ _ _ _ _ 0 5 (by omega), tForm_bit _ _ _ _ _ _ 5 (by omega), atom_fn, atom_w]
  rfl

theorem redAmax (sc : Scope) (a : Reg) (b : Reg) (w64 : Bool) : Statement (.redAmax sc a b w64) := by
  intro hw rest
  refine roundPlain _ _ rfl rfl (fun l => ?_) rest
  rw [join_atom]
  simp only [decodeMajor_22 _ _ (hdr_major _ _ _), hdr_scope, Scope.ofBits_bits, tForm_d, tForm_a]
  show decRed _ _ _ _ = _
  simp only [decRed, tForm_b, tForm_x _ _ _ _ _ _ 0 5 (by omega), tForm_bit _ _ _ _ _ _ 5 (by omega), atom_fn, atom_w]
  rfl

theorem redAminu (sc : Scope) (a : Reg) (b : Reg) (w64 : Bool) : Statement (.redAminu sc a b w64) := by
  intro hw rest
  refine roundPlain _ _ rfl rfl (fun l => ?_) rest
  rw [join_atom]
  simp only [decodeMajor_22 _ _ (hdr_major _ _ _), hdr_scope, Scope.ofBits_bits, tForm_d, tForm_a]
  show decRed _ _ _ _ = _
  simp only [decRed, tForm_b, tForm_x _ _ _ _ _ _ 0 5 (by omega), tForm_bit _ _ _ _ _ _ 5 (by omega), atom_fn, atom_w]
  rfl

theorem redAmaxu (sc : Scope) (a : Reg) (b : Reg) (w64 : Bool) : Statement (.redAmaxu sc a b w64) := by
  intro hw rest
  refine roundPlain _ _ rfl rfl (fun l => ?_) rest
  rw [join_atom]
  simp only [decodeMajor_22 _ _ (hdr_major _ _ _), hdr_scope, Scope.ofBits_bits, tForm_d, tForm_a]
  show decRed _ _ _ _ = _
  simp only [decRed, tForm_b, tForm_x _ _ _ _ _ _ 0 5 (by omega), tForm_bit _ _ _ _ _ _ 5 (by omega), atom_fn, atom_w]
  rfl

theorem redAand (sc : Scope) (a : Reg) (b : Reg) (w64 : Bool) : Statement (.redAand sc a b w64) := by
  intro hw rest
  refine roundPlain _ _ rfl rfl (fun l => ?_) rest
  rw [join_atom]
  simp only [decodeMajor_22 _ _ (hdr_major _ _ _), hdr_scope, Scope.ofBits_bits, tForm_d, tForm_a]
  show decRed _ _ _ _ = _
  simp only [decRed, tForm_b, tForm_x _ _ _ _ _ _ 0 5 (by omega), tForm_bit _ _ _ _ _ _ 5 (by omega), atom_fn, atom_w]
  rfl

theorem redAor (sc : Scope) (a : Reg) (b : Reg) (w64 : Bool) : Statement (.redAor sc a b w64) := by
  intro hw rest
  refine roundPlain _ _ rfl rfl (fun l => ?_) rest
  rw [join_atom]
  simp only [decodeMajor_22 _ _ (hdr_major _ _ _), hdr_scope, Scope.ofBits_bits, tForm_d, tForm_a]
  show decRed _ _ _ _ = _
  simp only [decRed, tForm_b, tForm_x _ _ _ _ _ _ 0 5 (by omega), tForm_bit _ _ _ _ _ _ 5 (by omega), atom_fn, atom_w]
  rfl

theorem redAxor (sc : Scope) (a : Reg) (b : Reg) (w64 : Bool) : Statement (.redAxor sc a b w64) := by
  intro hw rest
  refine roundPlain _ _ rfl rfl (fun l => ?_) rest
  rw [join_atom]
  simp only [decodeMajor_22 _ _ (hdr_major _ _ _), hdr_scope, Scope.ofBits_bits, tForm_d, tForm_a]
  show decRed _ _ _ _ = _
  simp only [decRed, tForm_b, tForm_x _ _ _ _ _ _ 0 5 (by omega), tForm_bit _ _ _ _ _ _ 5 (by omega), atom_fn, atom_w]
  rfl

theorem redAinc (sc : Scope) (a : Reg) (b : Reg) (w64 : Bool) : Statement (.redAinc sc a b w64) := by
  intro hw rest
  refine roundPlain _ _ rfl rfl (fun l => ?_) rest
  rw [join_atom]
  simp only [decodeMajor_22 _ _ (hdr_major _ _ _), hdr_scope, Scope.ofBits_bits, tForm_d, tForm_a]
  show decRed _ _ _ _ = _
  simp only [decRed, tForm_b, tForm_x _ _ _ _ _ _ 0 5 (by omega), tForm_bit _ _ _ _ _ _ 5 (by omega), atom_fn, atom_w]
  rfl

theorem redAdec (sc : Scope) (a : Reg) (b : Reg) (w64 : Bool) : Statement (.redAdec sc a b w64) := by
  intro hw rest
  refine roundPlain _ _ rfl rfl (fun l => ?_) rest
  rw [join_atom]
  simp only [decodeMajor_22 _ _ (hdr_major _ _ _), hdr_scope, Scope.ofBits_bits, tForm_d, tForm_a]
  show decRed _ _ _ _ = _
  simp only [decRed, tForm_b, tForm_x _ _ _ _ _ _ 0 5 (by omega), tForm_bit _ _ _ _ _ _ 5 (by omega), atom_fn, atom_w]
  rfl

theorem redAfadd (sc : Scope) (a : Reg) (b : Reg) : Statement (.redAfadd sc a b) := by
  intro hw rest
  refine roundPlain _ _ rfl rfl (fun l => ?_) rest
  rw [join_atom]
  simp only [decodeMajor_22 _ _ (hdr_major _ _ _), hdr_scope, Scope.ofBits_bits, tForm_d, tForm_a]
  show decRed _ _ _ _ = _
  simp only [decRed, tForm_b, tForm_x _ _ _ _ _ _ 0 5 (by omega), tForm_bit _ _ _ _ _ _ 5 (by omega), atomf_fn, atomf_w]
  rfl

theorem redAfaddb (sc : Scope) (a : Reg) (b : Reg) : Statement (.redAfaddb sc a b) := by
  intro hw rest
  refine roundPlain _ _ rfl rfl (fun l => ?_) rest
  rw [join_atom]
  simp only [decodeMajor_22 _ _ (hdr_major _ _ _), hdr_scope, Scope.ofBits_bits, tForm_d, tForm_a]
  show decRed _ _ _ _ = _
  simp only [decRed, tForm_b, tForm_x _ _ _ _ _ _ 0 5 (by omega), tForm_bit _ _ _ _ _ _ 5 (by omega), atomf_fn, atomf_w]
  rfl

theorem redAfadde (sc : Scope) (a : Reg) (b : Reg) : Statement (.redAfadde sc a b) := by
  intro hw rest
  refine roundPlain _ _ rfl rfl (fun l => ?_) rest
  rw [join_atom]
  simp only [decodeMajor_22 _ _ (hdr_major _ _ _), hdr_scope, Scope.ofBits_bits, tForm_d, tForm_a]
  show decRed _ _ _ _ = _
  simp only [decRed, tForm_b, tForm_x _ _ _ _ _ _ 0 5 (by omega), tForm_bit _ _ _ _ _ _ 5 (by omega), atomf_fn, atomf_w]
  rfl

theorem redAfmin (sc : Scope) (a : Reg) (b : Reg) : Statement (.redAfmin sc a b) := by
  intro hw rest
  refine roundPlain _ _ rfl rfl (fun l => ?_) rest
  rw [join_atom]
  simp only [decodeMajor_22 _ _ (hdr_major _ _ _), hdr_scope, Scope.ofBits_bits, tForm_d, tForm_a]
  show decRed _ _ _ _ = _
  simp only [decRed, tForm_b, tForm_x _ _ _ _ _ _ 0 5 (by omega), tForm_bit _ _ _ _ _ _ 5 (by omega), atomf_fn, atomf_w]
  rfl

theorem redAfmax (sc : Scope) (a : Reg) (b : Reg) : Statement (.redAfmax sc a b) := by
  intro hw rest
  refine roundPlain _ _ rfl rfl (fun l => ?_) rest
  rw [join_atom]
  simp only [decodeMajor_22 _ _ (hdr_major _ _ _), hdr_scope, Scope.ofBits_bits, tForm_d, tForm_a]
  show decRed _ _ _ _ = _
  simp only [decRed, tForm_b, tForm_x _ _ _ _ _ _ 0 5 (by omega), tForm_bit _ _ _ _ _ _ 5 (by omega), atomf_fn, atomf_w]
  rfl

theorem cbwait (sc : Scope) (d : Reg) (b : Opb) : Statement (.cbwait sc d b) := by
  intro hw rest
  have hb : b.wf = true := hw.1
  refine roundOpb (fun x => .cbwait sc d x) b _ (fun _ => rfl) rfl (fun l => ?_) rest
  simp only [decodeMajor_23 _ _ (hdr_major _ _ _), hdr_scope, Scope.ofBits_bits, rForm_d, rForm_a, rForm_b, rForm_k, rForm_f, opbOf_bits _ hb]
  rfl

theorem cbpop (sc : Scope) (b : Opb) : Statement (.cbpop sc b) := by
  intro hw rest
  have hb : b.wf = true := hw.1
  refine roundOpb (fun x => .cbpop sc x) b _ (fun _ => rfl) rfl (fun l => ?_) rest
  simp only [decodeMajor_23 _ _ (hdr_major _ _ _), hdr_scope, Scope.ofBits_bits, rForm_d, rForm_a, rForm_b, rForm_k, rForm_f, opbOf_bits _ hb]
  rfl

theorem cbrsv (sc : Scope) (d : Reg) (b : Opb) : Statement (.cbrsv sc d b) := by
  intro hw rest
  have hb : b.wf = true := hw.1
  refine roundOpb (fun x => .cbrsv sc d x) b _ (fun _ => rfl) rfl (fun l => ?_) rest
  simp only [decodeMajor_23 _ _ (hdr_major _ _ _), hdr_scope, Scope.ofBits_bits, rForm_d, rForm_a, rForm_b, rForm_k, rForm_f, opbOf_bits _ hb]
  rfl

theorem cbcmt (sc : Scope) (b : Opb) : Statement (.cbcmt sc b) := by
  intro hw rest
  have hb : b.wf = true := hw.1
  refine roundOpb (fun x => .cbcmt sc x) b _ (fun _ => rfl) rfl (fun l => ?_) rest
  simp only [decodeMajor_23 _ _ (hdr_major _ _ _), hdr_scope, Scope.ofBits_bits, rForm_d, rForm_a, rForm_b, rForm_k, rForm_f, opbOf_bits _ hb]
  rfl

theorem cbinit (sc : Scope) (a : Reg) (b : Opb) : Statement (.cbinit sc a b) := by
  intro hw rest
  have hb : b.wf = true := hw.1
  refine roundOpb (fun x => .cbinit sc a x) b _ (fun _ => rfl) rfl (fun l => ?_) rest
  simp only [decodeMajor_23 _ _ (hdr_major _ _ _), hdr_scope, Scope.ofBits_bits, rForm_d, rForm_a, rForm_b, rForm_k, rForm_f, opbOf_bits _ hb]
  rfl

theorem cbqry (sc : Scope) (d : Reg) (b : Opb) : Statement (.cbqry sc d b) := by
  intro hw rest
  have hb : b.wf = true := hw.1
  refine roundOpb (fun x => .cbqry sc d x) b _ (fun _ => rfl) rfl (fun l => ?_) rest
  simp only [decodeMajor_23 _ _ (hdr_major _ _ _), hdr_scope, Scope.ofBits_bits, rForm_d, rForm_a, rForm_b, rForm_k, rForm_f, opbOf_bits _ hb]
  rfl

theorem fenceAcq (sc : Scope) (ms : BitVec 2) : Statement (.fenceAcq sc ms) := by
  intro hw rest
  refine roundPlain _ _ rfl rfl (fun l => ?_) rest
  show decodeWord (hdr _ _ (six (0#4 ++ ms) ++ 0#6 ++ 0#6 ++ 0#2 ++ 0#4)) l = _
  simp only [decodeMajor_24 _ _ (hdr_major _ _ _), hdr_scope, Scope.ofBits_bits, rForm_d, rForm_a, rForm_b, rForm_k, rForm_f, show ∀ l, opbOf 0#2 0#6 l = .v 0#6 from fun _ => rfl]
  show decFence sc _ _ _ _ = _
  have e : ∀ (d a : Reg) (o : Opb), decFence sc d a o (0#4).toNat = (if (d &&& 0x3C#6) = 0 ∧ a = 0 ∧ o = .v 0 then some (.fenceAcq sc (d.extractLsb' 0 2)) else none) := fun _ _ _ => rfl
  rw [e]
  simp [z4_x, z4_zero]

theorem fenceRel (sc : Scope) (ms : BitVec 2) : Statement (.fenceRel sc ms) := by
  intro hw rest
  refine roundPlain _ _ rfl rfl (fun l => ?_) rest
  show decodeWord (hdr _ _ (six (0#4 ++ ms) ++ 0#6 ++ 0#6 ++ 0#2 ++ 1#4)) l = _
  simp only [decodeMajor_24 _ _ (hdr_major _ _ _), hdr_scope, Scope.ofBits_bits, rForm_d, rForm_a, rForm_b, rForm_k, rForm_f, show ∀ l, opbOf 0#2 0#6 l = .v 0#6 from fun _ => rfl]
  show decFence sc _ _ _ _ = _
  have e : ∀ (d a : Reg) (o : Opb), decFence sc d a o (1#4).toNat = (if (d &&& 0x3C#6) = 0 ∧ a = 0 ∧ o = .v 0 then some (.fenceRel sc (d.extractLsb' 0 2)) else none) := fun _ _ _ => rfl
  rw [e]
  simp [z4_x, z4_zero]

theorem fenceFull (sc : Scope) (ms : BitVec 2) : Statement (.fenceFull sc ms) := by
  intro hw rest
  refine roundPlain _ _ rfl rfl (fun l => ?_) rest
  show decodeWord (hdr _ _ (six (0#4 ++ ms) ++ 0#6 ++ 0#6 ++ 0#2 ++ 2#4)) l = _
  simp only [decodeMajor_24 _ _ (hdr_major _ _ _), hdr_scope, Scope.ofBits_bits, rForm_d, rForm_a, rForm_b, rForm_k, rForm_f, show ∀ l, opbOf 0#2 0#6 l = .v 0#6 from fun _ => rfl]
  show decFence sc _ _ _ _ = _
  have e : ∀ (d a : Reg) (o : Opb), decFence sc d a o (2#4).toNat = (if (d &&& 0x3C#6) = 0 ∧ a = 0 ∧ o = .v 0 then some (.fenceFull sc (d.extractLsb' 0 2)) else none) := fun _ _ _ => rfl
  rw [e]
  simp [z4_x, z4_zero]

theorem flushv (sc : Scope) (a : Reg) (b : Opb) : Statement (.flushv sc a b) := by
  intro hw rest
  have hb : b.wf = true := hw.1
  refine roundOpb (fun x => .flushv sc a x) b _ (fun _ => rfl) rfl (fun l => ?_) rest
  simp only [decodeMajor_24 _ _ (hdr_major _ _ _), hdr_scope, Scope.ofBits_bits, rForm_d, rForm_a, rForm_b, rForm_k, rForm_f, opbOf_bits _ hb]
  rfl

theorem invl1 (sc : Scope) : Statement (.invl1 sc) := by
  intro hw rest
  refine roundPlain _ _ rfl rfl (fun l => ?_) rest
  simp only [decodeMajor_24 _ _ (hdr_major _ _ _), hdr_scope, Scope.ofBits_bits, rForm_d, rForm_a, rForm_b, rForm_k, rForm_f, show ∀ l, opbOf 0#2 0#6 l = .v 0#6 from fun _ => rfl]
  rfl

theorem wcrd (sc : Scope) (d : Reg) (b : Opb) : Statement (.wcrd sc d b) := by
  intro hw rest
  have hb : b.wf = true := hw.1
  refine roundOpb (fun x => .wcrd sc d x) b _ (fun _ => rfl) rfl (fun l => ?_) rest
  simp only [decodeMajor_25 _ _ (hdr_major _ _ _), hdr_scope, Scope.ofBits_bits, rForm_d, rForm_a, rForm_b, rForm_k, rForm_f, opbOf_bits _ hb]
  rfl

theorem wcwait (sc : Scope) (a : Reg) (b : Opb) : Statement (.wcwait sc a b) := by
  intro hw rest
  have hb : b.wf = true := hw.1
  refine roundOpb (fun x => .wcwait sc a x) b _ (fun _ => rfl) rfl (fun l => ?_) rest
  simp only [decodeMajor_25 _ _ (hdr_major _ _ _), hdr_scope, Scope.ofBits_bits, rForm_d, rForm_a, rForm_b, rForm_k, rForm_f, opbOf_bits _ hb]
  rfl

theorem wcrst (sc : Scope) (b : Opb) : Statement (.wcrst sc b) := by
  intro hw rest
  have hb : b.wf = true := hw.1
  refine roundOpb (fun x => .wcrst sc x) b _ (fun _ => rfl) rfl (fun l => ?_) rest
  simp only [decodeMajor_25 _ _ (hdr_major _ _ _), hdr_scope, Scope.ofBits_bits, rForm_d, rForm_a, rForm_b, rForm_k, rForm_f, opbOf_bits _ hb]
  rfl

theorem br (sc : Scope) (p : BitVec 3) (n : Bool) (disp : BitVec 20) : Statement (.br sc p n disp) := by
  intro hw rest
  refine roundPlain _ _ rfl rfl (fun l => ?_) rest
  simp only [decodeMajor_26 _ _ (hdr_major _ _ _), hdr_scope, Scope.ofBits_bits]
  show decBr _ _ = _
  simp only [decBr, br_p, br_bit, br_disp]

theorem nop (sc : Scope) : Statement (.nop sc) := by
  intro hw rest
  refine roundPlain _ _ rfl rfl (fun l => ?_) rest
  simp only [decodeMajor_27 _ _ (hdr_major _ _ _), hdr_scope, Scope.ofBits_bits, rForm_d, rForm_a, rForm_b, rForm_k, rForm_f, show ∀ l, opbOf 0#2 0#6 l = .v 0#6 from fun _ => rfl]
  rfl

theorem brx (sc : Scope) (b : Opb) : Statement (.brx sc b) := by
  intro hw rest
  have hb : b.wf = true := hw.1
  refine roundOpb (fun x => .brx sc x) b _ (fun _ => rfl) rfl (fun l => ?_) rest
  simp only [decodeMajor_27 _ _ (hdr_major _ _ _), hdr_scope, Scope.ofBits_bits, rForm_d, rForm_a, rForm_b, rForm_k, rForm_f, opbOf_bits _ hb]
  rfl

theorem callx (sc : Scope) (b : Opb) : Statement (.callx sc b) := by
  intro hw rest
  have hb : b.wf = true := hw.1
  refine roundOpb (fun x => .callx sc x) b _ (fun _ => rfl) rfl (fun l => ?_) rest
  simp only [decodeMajor_27 _ _ (hdr_major _ _ _), hdr_scope, Scope.ofBits_bits, rForm_d, rForm_a, rForm_b, rForm_k, rForm_f, opbOf_bits _ hb]
  rfl

theorem ret (sc : Scope) : Statement (.ret sc) := by
  intro hw rest
  refine roundPlain _ _ rfl rfl (fun l => ?_) rest
  simp only [decodeMajor_27 _ _ (hdr_major _ _ _), hdr_scope, Scope.ofBits_bits, rForm_d, rForm_a, rForm_b, rForm_k, rForm_f, show ∀ l, opbOf 0#2 0#6 l = .v 0#6 from fun _ => rfl]
  rfl

theorem exit (sc : Scope) : Statement (.exit sc) := by
  intro hw rest
  refine roundPlain _ _ rfl rfl (fun l => ?_) rest
  simp only [decodeMajor_27 _ _ (hdr_major _ _ _), hdr_scope, Scope.ofBits_bits, rForm_d, rForm_a, rForm_b, rForm_k, rForm_f, show ∀ l, opbOf 0#2 0#6 l = .v 0#6 from fun _ => rfl]
  rfl

theorem yield (sc : Scope) : Statement (.yield sc) := by
  intro hw rest
  refine roundPlain _ _ rfl rfl (fun l => ?_) rest
  simp only [decodeMajor_27 _ _ (hdr_major _ _ _), hdr_scope, Scope.ofBits_bits, rForm_d, rForm_a, rForm_b, rForm_k, rForm_f, show ∀ l, opbOf 0#2 0#6 l = .v 0#6 from fun _ => rfl]
  rfl

theorem sadd (sc : Scope) (d : Reg) (a : Reg) (b : Opb) : Statement (.sadd sc d a b) := by
  intro hw rest
  have hb : b.wf = true := hw.1
  refine roundOpb (fun x => .sadd sc d a x) b _ (fun _ => rfl) rfl (fun l => ?_) rest
  simp only [decodeMajor_28 _ _ (hdr_major _ _ _), hdr_scope, Scope.ofBits_bits, rForm_d, rForm_a, rForm_b, rForm_k, rForm_f, opbOf_bits _ hb]
  rfl

theorem ssub (sc : Scope) (d : Reg) (a : Reg) (b : Opb) : Statement (.ssub sc d a b) := by
  intro hw rest
  have hb : b.wf = true := hw.1
  refine roundOpb (fun x => .ssub sc d a x) b _ (fun _ => rfl) rfl (fun l => ?_) rest
  simp only [decodeMajor_28 _ _ (hdr_major _ _ _), hdr_scope, Scope.ofBits_bits, rForm_d, rForm_a, rForm_b, rForm_k, rForm_f, opbOf_bits _ hb]
  rfl

theorem smul (sc : Scope) (d : Reg) (a : Reg) (b : Opb) : Statement (.smul sc d a b) := by
  intro hw rest
  have hb : b.wf = true := hw.1
  refine roundOpb (fun x => .smul sc d a x) b _ (fun _ => rfl) rfl (fun l => ?_) rest
  simp only [decodeMajor_28 _ _ (hdr_major _ _ _), hdr_scope, Scope.ofBits_bits, rForm_d, rForm_a, rForm_b, rForm_k, rForm_f, opbOf_bits _ hb]
  rfl

theorem sand (sc : Scope) (d : Reg) (a : Reg) (b : Opb) : Statement (.sand sc d a b) := by
  intro hw rest
  have hb : b.wf = true := hw.1
  refine roundOpb (fun x => .sand sc d a x) b _ (fun _ => rfl) rfl (fun l => ?_) rest
  simp only [decodeMajor_28 _ _ (hdr_major _ _ _), hdr_scope, Scope.ofBits_bits, rForm_d, rForm_a, rForm_b, rForm_k, rForm_f, opbOf_bits _ hb]
  rfl

theorem sor (sc : Scope) (d : Reg) (a : Reg) (b : Opb) : Statement (.sor sc d a b) := by
  intro hw rest
  have hb : b.wf = true := hw.1
  refine roundOpb (fun x => .sor sc d a x) b _ (fun _ => rfl) rfl (fun l => ?_) rest
  simp only [decodeMajor_28 _ _ (hdr_major _ _ _), hdr_scope, Scope.ofBits_bits, rForm_d, rForm_a, rForm_b, rForm_k, rForm_f, opbOf_bits _ hb]
  rfl

theorem sxor (sc : Scope) (d : Reg) (a : Reg) (b : Opb) : Statement (.sxor sc d a b) := by
  intro hw rest
  have hb : b.wf = true := hw.1
  refine roundOpb (fun x => .sxor sc d a x) b _ (fun _ => rfl) rfl (fun l => ?_) rest
  simp only [decodeMajor_28 _ _ (hdr_major _ _ _), hdr_scope, Scope.ofBits_bits, rForm_d, rForm_a, rForm_b, rForm_k, rForm_f, opbOf_bits _ hb]
  rfl

theorem sshl (sc : Scope) (d : Reg) (a : Reg) (b : Opb) : Statement (.sshl sc d a b) := by
  intro hw rest
  have hb : b.wf = true := hw.1
  refine roundOpb (fun x => .sshl sc d a x) b _ (fun _ => rfl) rfl (fun l => ?_) rest
  simp only [decodeMajor_28 _ _ (hdr_major _ _ _), hdr_scope, Scope.ofBits_bits, rForm_d, rForm_a, rForm_b, rForm_k, rForm_f, opbOf_bits _ hb]
  rfl

theorem sshr (sc : Scope) (d : Reg) (a : Reg) (b : Opb) : Statement (.sshr sc d a b) := by
  intro hw rest
  have hb : b.wf = true := hw.1
  refine roundOpb (fun x => .sshr sc d a x) b _ (fun _ => rfl) rfl (fun l => ?_) rest
  simp only [decodeMajor_28 _ _ (hdr_major _ _ _), hdr_scope, Scope.ofBits_bits, rForm_d, rForm_a, rForm_b, rForm_k, rForm_f, opbOf_bits _ hb]
  rfl

theorem ssar (sc : Scope) (d : Reg) (a : Reg) (b : Opb) : Statement (.ssar sc d a b) := by
  intro hw rest
  have hb : b.wf = true := hw.1
  refine roundOpb (fun x => .ssar sc d a x) b _ (fun _ => rfl) rfl (fun l => ?_) rest
  simp only [decodeMajor_28 _ _ (hdr_major _ _ _), hdr_scope, Scope.ofBits_bits, rForm_d, rForm_a, rForm_b, rForm_k, rForm_f, opbOf_bits _ hb]
  rfl

theorem smin (sc : Scope) (d : Reg) (a : Reg) (b : Opb) : Statement (.smin sc d a b) := by
  intro hw rest
  have hb : b.wf = true := hw.1
  refine roundOpb (fun x => .smin sc d a x) b _ (fun _ => rfl) rfl (fun l => ?_) rest
  simp only [decodeMajor_28 _ _ (hdr_major _ _ _), hdr_scope, Scope.ofBits_bits, rForm_d, rForm_a, rForm_b, rForm_k, rForm_f, opbOf_bits _ hb]
  rfl

theorem smax (sc : Scope) (d : Reg) (a : Reg) (b : Opb) : Statement (.smax sc d a b) := by
  intro hw rest
  have hb : b.wf = true := hw.1
  refine roundOpb (fun x => .smax sc d a x) b _ (fun _ => rfl) rfl (fun l => ?_) rest
  simp only [decodeMajor_28 _ _ (hdr_major _ _ _), hdr_scope, Scope.ofBits_bits, rForm_d, rForm_a, rForm_b, rForm_k, rForm_f, opbOf_bits _ hb]
  rfl

theorem sminu (sc : Scope) (d : Reg) (a : Reg) (b : Opb) : Statement (.sminu sc d a b) := by
  intro hw rest
  have hb : b.wf = true := hw.1
  refine roundOpb (fun x => .sminu sc d a x) b _ (fun _ => rfl) rfl (fun l => ?_) rest
  simp only [decodeMajor_28 _ _ (hdr_major _ _ _), hdr_scope, Scope.ofBits_bits, rForm_d, rForm_a, rForm_b, rForm_k, rForm_f, opbOf_bits _ hb]
  rfl

theorem smaxu (sc : Scope) (d : Reg) (a : Reg) (b : Opb) : Statement (.smaxu sc d a b) := by
  intro hw rest
  have hb : b.wf = true := hw.1
  refine roundOpb (fun x => .smaxu sc d a x) b _ (fun _ => rfl) rfl (fun l => ?_) rest
  simp only [decodeMajor_28 _ _ (hdr_major _ _ _), hdr_scope, Scope.ofBits_bits, rForm_d, rForm_a, rForm_b, rForm_k, rForm_f, opbOf_bits _ hb]
  rfl

theorem smov (sc : Scope) (d : Reg) (b : Opb) : Statement (.smov sc d b) := by
  intro hw rest
  have hb : b.wf = true := hw.1
  refine roundOpb (fun x => .smov sc d x) b _ (fun _ => rfl) rfl (fun l => ?_) rest
  simp only [decodeMajor_28 _ _ (hdr_major _ _ _), hdr_scope, Scope.ofBits_bits, rForm_d, rForm_a, rForm_b, rForm_k, rForm_f, opbOf_bits _ hb]
  rfl

theorem sadd64 (sc : Scope) (d : Reg) (a : Reg) (b : Opb) : Statement (.sadd64 sc d a b) := by
  intro hw rest
  have hb : b.wf = true := hw.1
  refine roundOpb (fun x => .sadd64 sc d a x) b _ (fun _ => rfl) rfl (fun l => ?_) rest
  simp only [decodeMajor_28 _ _ (hdr_major _ _ _), hdr_scope, Scope.ofBits_bits, rForm_d, rForm_a, rForm_b, rForm_k, rForm_f, opbOf_bits _ hb]
  rfl

theorem slea (sc : Scope) (d : Reg) (a : Reg) (b : Opb) : Statement (.slea sc d a b) := by
  intro hw rest
  have hb : b.wf = true := hw.1
  refine roundOpb (fun x => .slea sc d a x) b _ (fun _ => rfl) rfl (fun l => ?_) rest
  simp only [decodeMajor_28 _ _ (hdr_major _ _ _), hdr_scope, Scope.ofBits_bits, rForm_d, rForm_a, rForm_b, rForm_k, rForm_f, opbOf_bits _ hb]
  rfl

theorem scmpEq (sc : Scope) (p : BitVec 3) (comb : BitVec 2) (a : Reg) (b : Opb) : Statement (.scmpEq sc p comb a b) := by
  intro hw rest
  have hc : comb ≠ 3#2 ∧ b.wf = true := by have h0 : (decide (comb ≠ 3#2) && b.wf) = true := hw.1; simpa using h0
  have hb := hc.2
  refine roundOpb (fun x => .scmpEq sc p comb a x) b _ (fun _ => rfl) rfl (fun l => ?_) rest
  show decodeWord (hdr _ _ (six (0#1 ++ comb ++ p) ++ a ++ b.bits ++ b.kind ++ 0#4)) l = _
  simp only [decodeMajor_29 _ _ (hdr_major _ _ _), hdr_scope, Scope.ofBits_bits, rForm_d, rForm_a, rForm_b, rForm_k, rForm_f, opbOf_bits _ hb]
  show decScmp sc _ _ _ _ = _
  have e : ∀ (d a : Reg) (o : Opb), decScmp sc d a o (0#4).toNat = (if (d &&& 0x20#6) = 0 ∧ d.extractLsb' 3 2 ≠ 3#2 then some (.scmpEq sc (d.extractLsb' 0 3) (d.extractLsb' 3 2) a o) else none) := fun _ _ _ => rfl
  rw [e]
  simp [cmp_p, cmp_comb, cmp_zero, hc.1]

theorem scmpNe (sc : Scope) (p : BitVec 3) (comb : BitVec 2) (a : Reg) (b : Opb) : Statement (.scmpNe sc p comb a b) := by
  intro hw rest
  have hc : comb ≠ 3#2 ∧ b.wf = true := by have h0 : (decide (comb ≠ 3#2) && b.wf) = true := hw.1; simpa using h0
  have hb := hc.2
  refine roundOpb (fun x => .scmpNe sc p comb a x) b _ (fun _ => rfl) rfl (fun l => ?_) rest
  show decodeWord (hdr _ _ (six (0#1 ++ comb ++ p) ++ a ++ b.bits ++ b.kind ++ 1#4)) l = _
  simp only [decodeMajor_29 _ _ (hdr_major _ _ _), hdr_scope, Scope.ofBits_bits, rForm_d, rForm_a, rForm_b, rForm_k, rForm_f, opbOf_bits _ hb]
  show decScmp sc _ _ _ _ = _
  have e : ∀ (d a : Reg) (o : Opb), decScmp sc d a o (1#4).toNat = (if (d &&& 0x20#6) = 0 ∧ d.extractLsb' 3 2 ≠ 3#2 then some (.scmpNe sc (d.extractLsb' 0 3) (d.extractLsb' 3 2) a o) else none) := fun _ _ _ => rfl
  rw [e]
  simp [cmp_p, cmp_comb, cmp_zero, hc.1]

theorem scmpLt (sc : Scope) (p : BitVec 3) (comb : BitVec 2) (a : Reg) (b : Opb) : Statement (.scmpLt sc p comb a b) := by
  intro hw rest
  have hc : comb ≠ 3#2 ∧ b.wf = true := by have h0 : (decide (comb ≠ 3#2) && b.wf) = true := hw.1; simpa using h0
  have hb := hc.2
  refine roundOpb (fun x => .scmpLt sc p comb a x) b _ (fun _ => rfl) rfl (fun l => ?_) rest
  show decodeWord (hdr _ _ (six (0#1 ++ comb ++ p) ++ a ++ b.bits ++ b.kind ++ 2#4)) l = _
  simp only [decodeMajor_29 _ _ (hdr_major _ _ _), hdr_scope, Scope.ofBits_bits, rForm_d, rForm_a, rForm_b, rForm_k, rForm_f, opbOf_bits _ hb]
  show decScmp sc _ _ _ _ = _
  have e : ∀ (d a : Reg) (o : Opb), decScmp sc d a o (2#4).toNat = (if (d &&& 0x20#6) = 0 ∧ d.extractLsb' 3 2 ≠ 3#2 then some (.scmpLt sc (d.extractLsb' 0 3) (d.extractLsb' 3 2) a o) else none) := fun _ _ _ => rfl
  rw [e]
  simp [cmp_p, cmp_comb, cmp_zero, hc.1]

theorem scmpLe (sc : Scope) (p : BitVec 3) (comb : BitVec 2) (a : Reg) (b : Opb) : Statement (.scmpLe sc p comb a b) := by
  intro hw rest
  have hc : comb ≠ 3#2 ∧ b.wf = true := by have h0 : (decide (comb ≠ 3#2) && b.wf) = true := hw.1; simpa using h0
  have hb := hc.2
  refine roundOpb (fun x => .scmpLe sc p comb a x) b _ (fun _ => rfl) rfl (fun l => ?_) rest
  show decodeWord (hdr _ _ (six (0#1 ++ comb ++ p) ++ a ++ b.bits ++ b.kind ++ 3#4)) l = _
  simp only [decodeMajor_29 _ _ (hdr_major _ _ _), hdr_scope, Scope.ofBits_bits, rForm_d, rForm_a, rForm_b, rForm_k, rForm_f, opbOf_bits _ hb]
  show decScmp sc _ _ _ _ = _
  have e : ∀ (d a : Reg) (o : Opb), decScmp sc d a o (3#4).toNat = (if (d &&& 0x20#6) = 0 ∧ d.extractLsb' 3 2 ≠ 3#2 then some (.scmpLe sc (d.extractLsb' 0 3) (d.extractLsb' 3 2) a o) else none) := fun _ _ _ => rfl
  rw [e]
  simp [cmp_p, cmp_comb, cmp_zero, hc.1]

theorem scmpGt (sc : Scope) (p : BitVec 3) (comb : BitVec 2) (a : Reg) (b : Opb) : Statement (.scmpGt sc p comb a b) := by
  intro hw rest
  have hc : comb ≠ 3#2 ∧ b.wf = true := by have h0 : (decide (comb ≠ 3#2) && b.wf) = true := hw.1; simpa using h0
  have hb := hc.2
  refine roundOpb (fun x => .scmpGt sc p comb a x) b _ (fun _ => rfl) rfl (fun l => ?_) rest
  show decodeWord (hdr _ _ (six (0#1 ++ comb ++ p) ++ a ++ b.bits ++ b.kind ++ 4#4)) l = _
  simp only [decodeMajor_29 _ _ (hdr_major _ _ _), hdr_scope, Scope.ofBits_bits, rForm_d, rForm_a, rForm_b, rForm_k, rForm_f, opbOf_bits _ hb]
  show decScmp sc _ _ _ _ = _
  have e : ∀ (d a : Reg) (o : Opb), decScmp sc d a o (4#4).toNat = (if (d &&& 0x20#6) = 0 ∧ d.extractLsb' 3 2 ≠ 3#2 then some (.scmpGt sc (d.extractLsb' 0 3) (d.extractLsb' 3 2) a o) else none) := fun _ _ _ => rfl
  rw [e]
  simp [cmp_p, cmp_comb, cmp_zero, hc.1]

theorem scmpGe (sc : Scope) (p : BitVec 3) (comb : BitVec 2) (a : Reg) (b : Opb) : Statement (.scmpGe sc p comb a b) := by
  intro hw rest
  have hc : comb ≠ 3#2 ∧ b.wf = true := by have h0 : (decide (comb ≠ 3#2) && b.wf) = true := hw.1; simpa using h0
  have hb := hc.2
  refine roundOpb (fun x => .scmpGe sc p comb a x) b _ (fun _ => rfl) rfl (fun l => ?_) rest
  show decodeWord (hdr _ _ (six (0#1 ++ comb ++ p) ++ a ++ b.bits ++ b.kind ++ 5#4)) l = _
  simp only [decodeMajor_29 _ _ (hdr_major _ _ _), hdr_scope, Scope.ofBits_bits, rForm_d, rForm_a, rForm_b, rForm_k, rForm_f, opbOf_bits _ hb]
  show decScmp sc _ _ _ _ = _
  have e : ∀ (d a : Reg) (o : Opb), decScmp sc d a o (5#4).toNat = (if (d &&& 0x20#6) = 0 ∧ d.extractLsb' 3 2 ≠ 3#2 then some (.scmpGe sc (d.extractLsb' 0 3) (d.extractLsb' 3 2) a o) else none) := fun _ _ _ => rfl
  rw [e]
  simp [cmp_p, cmp_comb, cmp_zero, hc.1]

theorem scmpLtu (sc : Scope) (p : BitVec 3) (comb : BitVec 2) (a : Reg) (b : Opb) : Statement (.scmpLtu sc p comb a b) := by
  intro hw rest
  have hc : comb ≠ 3#2 ∧ b.wf = true := by have h0 : (decide (comb ≠ 3#2) && b.wf) = true := hw.1; simpa using h0
  have hb := hc.2
  refine roundOpb (fun x => .scmpLtu sc p comb a x) b _ (fun _ => rfl) rfl (fun l => ?_) rest
  show decodeWord (hdr _ _ (six (0#1 ++ comb ++ p) ++ a ++ b.bits ++ b.kind ++ 6#4)) l = _
  simp only [decodeMajor_29 _ _ (hdr_major _ _ _), hdr_scope, Scope.ofBits_bits, rForm_d, rForm_a, rForm_b, rForm_k, rForm_f, opbOf_bits _ hb]
  show decScmp sc _ _ _ _ = _
  have e : ∀ (d a : Reg) (o : Opb), decScmp sc d a o (6#4).toNat = (if (d &&& 0x20#6) = 0 ∧ d.extractLsb' 3 2 ≠ 3#2 then some (.scmpLtu sc (d.extractLsb' 0 3) (d.extractLsb' 3 2) a o) else none) := fun _ _ _ => rfl
  rw [e]
  simp [cmp_p, cmp_comb, cmp_zero, hc.1]

theorem scmpLeu (sc : Scope) (p : BitVec 3) (comb : BitVec 2) (a : Reg) (b : Opb) : Statement (.scmpLeu sc p comb a b) := by
  intro hw rest
  have hc : comb ≠ 3#2 ∧ b.wf = true := by have h0 : (decide (comb ≠ 3#2) && b.wf) = true := hw.1; simpa using h0
  have hb := hc.2
  refine roundOpb (fun x => .scmpLeu sc p comb a x) b _ (fun _ => rfl) rfl (fun l => ?_) rest
  show decodeWord (hdr _ _ (six (0#1 ++ comb ++ p) ++ a ++ b.bits ++ b.kind ++ 7#4)) l = _
  simp only [decodeMajor_29 _ _ (hdr_major _ _ _), hdr_scope, Scope.ofBits_bits, rForm_d, rForm_a, rForm_b, rForm_k, rForm_f, opbOf_bits _ hb]
  show decScmp sc _ _ _ _ = _
  have e : ∀ (d a : Reg) (o : Opb), decScmp sc d a o (7#4).toNat = (if (d &&& 0x20#6) = 0 ∧ d.extractLsb' 3 2 ≠ 3#2 then some (.scmpLeu sc (d.extractLsb' 0 3) (d.extractLsb' 3 2) a o) else none) := fun _ _ _ => rfl
  rw [e]
  simp [cmp_p, cmp_comb, cmp_zero, hc.1]

theorem scmpGtu (sc : Scope) (p : BitVec 3) (comb : BitVec 2) (a : Reg) (b : Opb) : Statement (.scmpGtu sc p comb a b) := by
  intro hw rest
  have hc : comb ≠ 3#2 ∧ b.wf = true := by have h0 : (decide (comb ≠ 3#2) && b.wf) = true := hw.1; simpa using h0
  have hb := hc.2
  refine roundOpb (fun x => .scmpGtu sc p comb a x) b _ (fun _ => rfl) rfl (fun l => ?_) rest
  show decodeWord (hdr _ _ (six (0#1 ++ comb ++ p) ++ a ++ b.bits ++ b.kind ++ 8#4)) l = _
  simp only [decodeMajor_29 _ _ (hdr_major _ _ _), hdr_scope, Scope.ofBits_bits, rForm_d, rForm_a, rForm_b, rForm_k, rForm_f, opbOf_bits _ hb]
  show decScmp sc _ _ _ _ = _
  have e : ∀ (d a : Reg) (o : Opb), decScmp sc d a o (8#4).toNat = (if (d &&& 0x20#6) = 0 ∧ d.extractLsb' 3 2 ≠ 3#2 then some (.scmpGtu sc (d.extractLsb' 0 3) (d.extractLsb' 3 2) a o) else none) := fun _ _ _ => rfl
  rw [e]
  simp [cmp_p, cmp_comb, cmp_zero, hc.1]

theorem scmpGeu (sc : Scope) (p : BitVec 3) (comb : BitVec 2) (a : Reg) (b : Opb) : Statement (.scmpGeu sc p comb a b) := by
  intro hw rest
  have hc : comb ≠ 3#2 ∧ b.wf = true := by have h0 : (decide (comb ≠ 3#2) && b.wf) = true := hw.1; simpa using h0
  have hb := hc.2
  refine roundOpb (fun x => .scmpGeu sc p comb a x) b _ (fun _ => rfl) rfl (fun l => ?_) rest
  show decodeWord (hdr _ _ (six (0#1 ++ comb ++ p) ++ a ++ b.bits ++ b.kind ++ 9#4)) l = _
  simp only [decodeMajor_29 _ _ (hdr_major _ _ _), hdr_scope, Scope.ofBits_bits, rForm_d, rForm_a, rForm_b, rForm_k, rForm_f, opbOf_bits _ hb]
  show decScmp sc _ _ _ _ = _
  have e : ∀ (d a : Reg) (o : Opb), decScmp sc d a o (9#4).toNat = (if (d &&& 0x20#6) = 0 ∧ d.extractLsb' 3 2 ≠ 3#2 then some (.scmpGeu sc (d.extractLsb' 0 3) (d.extractLsb' 3 2) a o) else none) := fun _ _ _ => rfl
  rw [e]
  simp [cmp_p, cmp_comb, cmp_zero, hc.1]

theorem shflIdx (sc : Scope) (d : Reg) (a : Reg) (b : Opb) : Statement (.shflIdx sc d a b) := by
  intro hw rest
  have hb : b.wf = true := hw.1
  refine roundOpb (fun x => .shflIdx sc d a x) b _ (fun _ => rfl) rfl (fun l => ?_) rest
  simp only [decodeMajor_30 _ _ (hdr_major _ _ _), hdr_scope, Scope.ofBits_bits, rForm_d, rForm_a, rForm_b, rForm_k, rForm_f, opbOf_bits _ hb]
  rfl

theorem shflUp (sc : Scope) (d : Reg) (a : Reg) (b : Opb) : Statement (.shflUp sc d a b) := by
  intro hw rest
  have hb : b.wf = true := hw.1
  refine roundOpb (fun x => .shflUp sc d a x) b _ (fun _ => rfl) rfl (fun l => ?_) rest
  simp only [decodeMajor_30 _ _ (hdr_major _ _ _), hdr_scope, Scope.ofBits_bits, rForm_d, rForm_a, rForm_b, rForm_k, rForm_f, opbOf_bits _ hb]
  rfl

theorem shflDown (sc : Scope) (d : Reg) (a : Reg) (b : Opb) : Statement (.shflDown sc d a b) := by
  intro hw rest
  have hb : b.wf = true := hw.1
  refine roundOpb (fun x => .shflDown sc d a x) b _ (fun _ => rfl) rfl (fun l => ?_) rest
  simp only [decodeMajor_30 _ _ (hdr_major _ _ _), hdr_scope, Scope.ofBits_bits, rForm_d, rForm_a, rForm_b, rForm_k, rForm_f, opbOf_bits _ hb]
  rfl

theorem shflXor (sc : Scope) (d : Reg) (a : Reg) (b : Opb) : Statement (.shflXor sc d a b) := by
  intro hw rest
  have hb : b.wf = true := hw.1
  refine roundOpb (fun x => .shflXor sc d a x) b _ (fun _ => rfl) rfl (fun l => ?_) rest
  simp only [decodeMajor_30 _ _ (hdr_major _ _ _), hdr_scope, Scope.ofBits_bits, rForm_d, rForm_a, rForm_b, rForm_k, rForm_f, opbOf_bits _ hb]
  rfl

theorem shflBcast (sc : Scope) (d : Reg) (a : Reg) (b : Opb) : Statement (.shflBcast sc d a b) := by
  intro hw rest
  have hb : b.wf = true := hw.1
  refine roundOpb (fun x => .shflBcast sc d a x) b _ (fun _ => rfl) rfl (fun l => ?_) rest
  simp only [decodeMajor_30 _ _ (hdr_major _ _ _), hdr_scope, Scope.ofBits_bits, rForm_d, rForm_a, rForm_b, rForm_k, rForm_f, opbOf_bits _ hb]
  rfl

theorem vall (sc : Scope) (d : BitVec 3) (n : Bool) (p : BitVec 3) : Statement (.vall sc d n p) := by
  intro hw rest
  refine roundPlain _ _ rfl rfl (fun l => ?_) rest
  show decodeWord (hdr _ _ (six (0#3 ++ d) ++ 0#2 ++ BitVec.ofBool n ++ p ++ 0#6 ++ 0#2 ++ 0#4)) l = _
  rw [join_vote]
  simp only [decodeMajor_31 _ _ (hdr_major _ _ _), hdr_scope, Scope.ofBits_bits, rForm_d, rForm_a, rForm_b, rForm_k, rForm_f, show ∀ l, opbOf 0#2 0#6 l = .v 0#6 from fun _ => rfl]
  show decVote sc _ _ _ _ = _
  have e : ∀ (d a : Reg) (o : Opb), decVote sc d a o (0#4).toNat = (if (d &&& 0x38#6) = 0 ∧ (a &&& 0x30#6) = 0 ∧ o = .v 0 then some (.vall sc (d.extractLsb' 0 3) (a.getLsbD 3) (a.extractLsb' 0 3)) else none) := fun _ _ _ => rfl
  rw [e]
  simp [vote_p, vote_n, vote_zero, z3_x, z3_zero]

theorem vany (sc : Scope) (d : BitVec 3) (n : Bool) (p : BitVec 3) : Statement (.vany sc d n p) := by
  intro hw rest
  refine roundPlain _ _ rfl rfl (fun l => ?_) rest
  show decodeWord (hdr _ _ (six (0#3 ++ d) ++ 0#2 ++ BitVec.ofBool n ++ p ++ 0#6 ++ 0#2 ++ 1#4)) l = _
  rw [join_vote]
  simp only [decodeMajor_31 _ _ (hdr_major _ _ _), hdr_scope, Scope.ofBits_bits, rForm_d, rForm_a, rForm_b, rForm_k, rForm_f, show ∀ l, opbOf 0#2 0#6 l = .v 0#6 from fun _ => rfl]
  show decVote sc _ _ _ _ = _
  have e : ∀ (d a : Reg) (o : Opb), decVote sc d a o (1#4).toNat = (if (d &&& 0x38#6) = 0 ∧ (a &&& 0x30#6) = 0 ∧ o = .v 0 then some (.vany sc (d.extractLsb' 0 3) (a.getLsbD 3) (a.extractLsb' 0 3)) else none) := fun _ _ _ => rfl
  rw [e]
  simp [vote_p, vote_n, vote_zero, z3_x, z3_zero]

theorem vbal (sc : Scope) (d : Reg) (n : Bool) (p : BitVec 3) : Statement (.vbal sc d n p) := by
  intro hw rest
  refine roundPlain _ _ rfl rfl (fun l => ?_) rest
  rw [join_vote]
  simp only [decodeMajor_31 _ _ (hdr_major _ _ _), hdr_scope, Scope.ofBits_bits, rForm_d, rForm_a, rForm_b, rForm_k, rForm_f, show ∀ l, opbOf 0#2 0#6 l = .v 0#6 from fun _ => rfl]
  show decVote sc _ _ _ _ = _
  have e : ∀ (d a : Reg) (o : Opb), decVote sc d a o (2#4).toNat = (if (a &&& 0x30#6) = 0 ∧ o = .v 0 then some (.vbal sc d (a.getLsbD 3) (a.extractLsb' 0 3)) else none) := fun _ _ _ => rfl
  rw [e]
  simp [vote_p, vote_n, vote_zero]

theorem vuni (sc : Scope) (d : BitVec 3) (n : Bool) (p : BitVec 3) : Statement (.vuni sc d n p) := by
  intro hw rest
  refine roundPlain _ _ rfl rfl (fun l => ?_) rest
  show decodeWord (hdr _ _ (six (0#3 ++ d) ++ 0#2 ++ BitVec.ofBool n ++ p ++ 0#6 ++ 0#2 ++ 3#4)) l = _
  rw [join_vote]
  simp only [decodeMajor_31 _ _ (hdr_major _ _ _), hdr_scope, Scope.ofBits_bits, rForm_d, rForm_a, rForm_b, rForm_k, rForm_f, show ∀ l, opbOf 0#2 0#6 l = .v 0#6 from fun _ => rfl]
  show decVote sc _ _ _ _ = _
  have e : ∀ (d a : Reg) (o : Opb), decVote sc d a o (3#4).toNat = (if (d &&& 0x38#6) = 0 ∧ (a &&& 0x30#6) = 0 ∧ o = .v 0 then some (.vuni sc (d.extractLsb' 0 3) (a.getLsbD 3) (a.extractLsb' 0 3)) else none) := fun _ _ _ => rfl
  rw [e]
  simp [vote_p, vote_n, vote_zero, z3_x, z3_zero]

theorem vcnt (sc : Scope) (d : Reg) (n : Bool) (p : BitVec 3) : Statement (.vcnt sc d n p) := by
  intro hw rest
  refine roundPlain _ _ rfl rfl (fun l => ?_) rest
  rw [join_vote]
  simp only [decodeMajor_31 _ _ (hdr_major _ _ _), hdr_scope, Scope.ofBits_bits, rForm_d, rForm_a, rForm_b, rForm_k, rForm_f, show ∀ l, opbOf 0#2 0#6 l = .v 0#6 from fun _ => rfl]
  show decVote sc _ _ _ _ = _
  have e : ∀ (d a : Reg) (o : Opb), decVote sc d a o (4#4).toNat = (if (a &&& 0x30#6) = 0 ∧ o = .v 0 then some (.vcnt sc d (a.getLsbD 3) (a.extractLsb' 0 3)) else none) := fun _ _ _ => rfl
  rw [e]
  simp [vote_p, vote_n, vote_zero]

theorem lredIadd (sc : Scope) (d : Reg) (a : Reg) : Statement (.lredIadd sc d a) := by
  intro hw rest
  refine roundPlain _ _ rfl rfl (fun l => ?_) rest
  simp only [decodeMajor_32 _ _ (hdr_major _ _ _), hdr_scope, Scope.ofBits_bits, rForm_d, rForm_a]
  show decLred _ _ _ _ = _
  simp only [decLred, rForm_b, rForm_low]
  rfl

theorem lredImin (sc : Scope) (d : Reg) (a : Reg) : Statement (.lredImin sc d a) := by
  intro hw rest
  refine roundPlain _ _ rfl rfl (fun l => ?_) rest
  simp only [decodeMajor_32 _ _ (hdr_major _ _ _), hdr_scope, Scope.ofBits_bits, rForm_d, rForm_a]
  show decLred _ _ _ _ = _
  simp only [decLred, rForm_b, rForm_low]
  rfl

theorem lredImax (sc : Scope) (d : Reg) (a : Reg) : Statement (.lredImax sc d a) := by
  intro hw rest
  refine roundPlain _ _ rfl rfl (fun l => ?_) rest
  simp only [decodeMajor_32 _ _ (hdr_major _ _ _), hdr_scope, Scope.ofBits_bits, rForm_d, rForm_a]
  show decLred _ _ _ _ = _
  simp only [decLred, rForm_b, rForm_low]
  rfl

theorem lredAnd (sc : Scope) (d : Reg) (a : Reg) : Statement (.lredAnd sc d a) := by
  intro hw rest
  refine roundPlain _ _ rfl rfl (fun l => ?_) rest
  simp only [decodeMajor_32 _ _ (hdr_major _ _ _), hdr_scope, Scope.ofBits_bits, rForm_d, rForm_a]
  show decLred _ _ _ _ = _
  simp only [decLred, rForm_b, rForm_low]
  rfl

theorem lredOr (sc : Scope) (d : Reg) (a : Reg) : Statement (.lredOr sc d a) := by
  intro hw rest
  refine roundPlain _ _ rfl rfl (fun l => ?_) rest
  simp only [decodeMajor_32 _ _ (hdr_major _ _ _), hdr_scope, Scope.ofBits_bits, rForm_d, rForm_a]
  show decLred _ _ _ _ = _
  simp only [decLred, rForm_b, rForm_low]
  rfl

theorem lredXor (sc : Scope) (d : Reg) (a : Reg) : Statement (.lredXor sc d a) := by
  intro hw rest
  refine roundPlain _ _ rfl rfl (fun l => ?_) rest
  simp only [decodeMajor_32 _ _ (hdr_major _ _ _), hdr_scope, Scope.ofBits_bits, rForm_d, rForm_a]
  show decLred _ _ _ _ = _
  simp only [decLred, rForm_b, rForm_low]
  rfl

theorem lredFadd (sc : Scope) (d : Reg) (a : Reg) : Statement (.lredFadd sc d a) := by
  intro hw rest
  refine roundPlain _ _ rfl rfl (fun l => ?_) rest
  simp only [decodeMajor_32 _ _ (hdr_major _ _ _), hdr_scope, Scope.ofBits_bits, rForm_d, rForm_a]
  show decLred _ _ _ _ = _
  simp only [decLred, rForm_b, rForm_low]
  rfl

theorem lredFmin (sc : Scope) (d : Reg) (a : Reg) : Statement (.lredFmin sc d a) := by
  intro hw rest
  refine roundPlain _ _ rfl rfl (fun l => ?_) rest
  simp only [decodeMajor_32 _ _ (hdr_major _ _ _), hdr_scope, Scope.ofBits_bits, rForm_d, rForm_a]
  show decLred _ _ _ _ = _
  simp only [decLred, rForm_b, rForm_low]
  rfl

theorem lredFmax (sc : Scope) (d : Reg) (a : Reg) : Statement (.lredFmax sc d a) := by
  intro hw rest
  refine roundPlain _ _ rfl rfl (fun l => ?_) rest
  simp only [decodeMajor_32 _ _ (hdr_major _ _ _), hdr_scope, Scope.ofBits_bits, rForm_d, rForm_a]
  show decLred _ _ _ _ = _
  simp only [decLred, rForm_b, rForm_low]
  rfl

theorem lscanIadd (sc : Scope) (d : Reg) (a : Reg) : Statement (.lscanIadd sc d a) := by
  intro hw rest
  refine roundPlain _ _ rfl rfl (fun l => ?_) rest
  simp only [decodeMajor_32 _ _ (hdr_major _ _ _), hdr_scope, Scope.ofBits_bits, rForm_d, rForm_a]
  show decLred _ _ _ _ = _
  simp only [decLred, rForm_b, rForm_low]
  rfl

theorem lscanImin (sc : Scope) (d : Reg) (a : Reg) : Statement (.lscanImin sc d a) := by
  intro hw rest
  refine roundPlain _ _ rfl rfl (fun l => ?_) rest
  simp only [decodeMajor_32 _ _ (hdr_major _ _ _), hdr_scope, Scope.ofBits_bits, rForm_d, rForm_a]
  show decLred _ _ _ _ = _
  simp only [decLred, rForm_b, rForm_low]
  rfl

theorem lscanImax (sc : Scope) (d : Reg) (a : Reg) : Statement (.lscanImax sc d a) := by
  intro hw rest
  refine roundPlain _ _ rfl rfl (fun l => ?_) rest
  simp only [decodeMajor_32 _ _ (hdr_major _ _ _), hdr_scope, Scope.ofBits_bits, rForm_d, rForm_a]
  show decLred _ _ _ _ = _
  simp only [decLred, rForm_b, rForm_low]
  rfl

theorem lscanAnd (sc : Scope) (d : Reg) (a : Reg) : Statement (.lscanAnd sc d a) := by
  intro hw rest
  refine roundPlain _ _ rfl rfl (fun l => ?_) rest
  simp only [decodeMajor_32 _ _ (hdr_major _ _ _), hdr_scope, Scope.ofBits_bits, rForm_d, rForm_a]
  show decLred _ _ _ _ = _
  simp only [decLred, rForm_b, rForm_low]
  rfl

theorem lscanOr (sc : Scope) (d : Reg) (a : Reg) : Statement (.lscanOr sc d a) := by
  intro hw rest
  refine roundPlain _ _ rfl rfl (fun l => ?_) rest
  simp only [decodeMajor_32 _ _ (hdr_major _ _ _), hdr_scope, Scope.ofBits_bits, rForm_d, rForm_a]
  show decLred _ _ _ _ = _
  simp only [decLred, rForm_b, rForm_low]
  rfl

theorem lscanXor (sc : Scope) (d : Reg) (a : Reg) : Statement (.lscanXor sc d a) := by
  intro hw rest
  refine roundPlain _ _ rfl rfl (fun l => ?_) rest
  simp only [decodeMajor_32 _ _ (hdr_major _ _ _), hdr_scope, Scope.ofBits_bits, rForm_d, rForm_a]
  show decLred _ _ _ _ = _
  simp only [decLred, rForm_b, rForm_low]
  rfl

theorem lscanFadd (sc : Scope) (d : Reg) (a : Reg) : Statement (.lscanFadd sc d a) := by
  intro hw rest
  refine roundPlain _ _ rfl rfl (fun l => ?_) rest
  simp only [decodeMajor_32 _ _ (hdr_major _ _ _), hdr_scope, Scope.ofBits_bits, rForm_d, rForm_a]
  show decLred _ _ _ _ = _
  simp only [decLred, rForm_b, rForm_low]
  rfl

theorem lscanFmin (sc : Scope) (d : Reg) (a : Reg) : Statement (.lscanFmin sc d a) := by
  intro hw rest
  refine roundPlain _ _ rfl rfl (fun l => ?_) rest
  simp only [decodeMajor_32 _ _ (hdr_major _ _ _), hdr_scope, Scope.ofBits_bits, rForm_d, rForm_a]
  show decLred _ _ _ _ = _
  simp only [decLred, rForm_b, rForm_low]
  rfl

theorem lscanFmax (sc : Scope) (d : Reg) (a : Reg) : Statement (.lscanFmax sc d a) := by
  intro hw rest
  refine roundPlain _ _ rfl rfl (fun l => ?_) rest
  simp only [decodeMajor_32 _ _ (hdr_major _ _ _), hdr_scope, Scope.ofBits_bits, rForm_d, rForm_a]
  show decLred _ _ _ _ = _
  simp only [decLred, rForm_b, rForm_low]
  rfl

theorem lscanExclIadd (sc : Scope) (d : Reg) (a : Reg) : Statement (.lscanExclIadd sc d a) := by
  intro hw rest
  refine roundPlain _ _ rfl rfl (fun l => ?_) rest
  simp only [decodeMajor_32 _ _ (hdr_major _ _ _), hdr_scope, Scope.ofBits_bits, rForm_d, rForm_a]
  show decLred _ _ _ _ = _
  simp only [decLred, rForm_b, rForm_low]
  rfl

theorem lscanExclImin (sc : Scope) (d : Reg) (a : Reg) : Statement (.lscanExclImin sc d a) := by
  intro hw rest
  refine roundPlain _ _ rfl rfl (fun l => ?_) rest
  simp only [decodeMajor_32 _ _ (hdr_major _ _ _), hdr_scope, Scope.ofBits_bits, rForm_d, rForm_a]
  show decLred _ _ _ _ = _
  simp only [decLred, rForm_b, rForm_low]
  rfl

theorem lscanExclImax (sc : Scope) (d : Reg) (a : Reg) : Statement (.lscanExclImax sc d a) := by
  intro hw rest
  refine roundPlain _ _ rfl rfl (fun l => ?_) rest
  simp only [decodeMajor_32 _ _ (hdr_major _ _ _), hdr_scope, Scope.ofBits_bits, rForm_d, rForm_a]
  show decLred _ _ _ _ = _
  simp only [decLred, rForm_b, rForm_low]
  rfl

theorem lscanExclAnd (sc : Scope) (d : Reg) (a : Reg) : Statement (.lscanExclAnd sc d a) := by
  intro hw rest
  refine roundPlain _ _ rfl rfl (fun l => ?_) rest
  simp only [decodeMajor_32 _ _ (hdr_major _ _ _), hdr_scope, Scope.ofBits_bits, rForm_d, rForm_a]
  show decLred _ _ _ _ = _
  simp only [decLred, rForm_b, rForm_low]
  rfl

theorem lscanExclOr (sc : Scope) (d : Reg) (a : Reg) : Statement (.lscanExclOr sc d a) := by
  intro hw rest
  refine roundPlain _ _ rfl rfl (fun l => ?_) rest
  simp only [decodeMajor_32 _ _ (hdr_major _ _ _), hdr_scope, Scope.ofBits_bits, rForm_d, rForm_a]
  show decLred _ _ _ _ = _
  simp only [decLred, rForm_b, rForm_low]
  rfl

theorem lscanExclXor (sc : Scope) (d : Reg) (a : Reg) : Statement (.lscanExclXor sc d a) := by
  intro hw rest
  refine roundPlain _ _ rfl rfl (fun l => ?_) rest
  simp only [decodeMajor_32 _ _ (hdr_major _ _ _), hdr_scope, Scope.ofBits_bits, rForm_d, rForm_a]
  show decLred _ _ _ _ = _
  simp only [decLred, rForm_b, rForm_low]
  rfl

theorem lscanExclFadd (sc : Scope) (d : Reg) (a : Reg) : Statement (.lscanExclFadd sc d a) := by
  intro hw rest
  refine roundPlain _ _ rfl rfl (fun l => ?_) rest
  simp only [decodeMajor_32 _ _ (hdr_major _ _ _), hdr_scope, Scope.ofBits_bits, rForm_d, rForm_a]
  show decLred _ _ _ _ = _
  simp only [decLred, rForm_b, rForm_low]
  rfl

theorem lscanExclFmin (sc : Scope) (d : Reg) (a : Reg) : Statement (.lscanExclFmin sc d a) := by
  intro hw rest
  refine roundPlain _ _ rfl rfl (fun l => ?_) rest
  simp only [decodeMajor_32 _ _ (hdr_major _ _ _), hdr_scope, Scope.ofBits_bits, rForm_d, rForm_a]
  show decLred _ _ _ _ = _
  simp only [decLred, rForm_b, rForm_low]
  rfl

theorem lscanExclFmax (sc : Scope) (d : Reg) (a : Reg) : Statement (.lscanExclFmax sc d a) := by
  intro hw rest
  refine roundPlain _ _ rfl rfl (fun l => ?_) rest
  simp only [decodeMajor_32 _ _ (hdr_major _ _ _), hdr_scope, Scope.ofBits_bits, rForm_d, rForm_a]
  show decLred _ _ _ _ = _
  simp only [decLred, rForm_b, rForm_low]
  rfl

theorem xchg (sc : Scope) (d : Reg) (b : Opb) : Statement (.xchg sc d b) := by
  intro hw rest
  have hb : b.wf = true := hw.1
  refine roundOpb (fun x => .xchg sc d x) b _ (fun _ => rfl) rfl (fun l => ?_) rest
  simp only [decodeMajor_33 _ _ (hdr_major _ _ _), hdr_scope, Scope.ofBits_bits, rForm_d, rForm_a, rForm_b, rForm_k, rForm_f, opbOf_bits _ hb]
  rfl

theorem xchgk (sc : Scope) (d : Reg) (b : Opb) : Statement (.xchgk sc d b) := by
  intro hw rest
  have hb : b.wf = true := hw.1
  refine roundOpb (fun x => .xchgk sc d x) b _ (fun _ => rfl) rfl (fun l => ?_) rest
  simp only [decodeMajor_33 _ _ (hdr_major _ _ _), hdr_scope, Scope.ofBits_bits, rForm_d, rForm_a, rForm_b, rForm_k, rForm_f, opbOf_bits _ hb]
  rfl

theorem hld (sc : Scope) (h : BitVec 4) (a : Reg) (b : Opb) : Statement (.hld sc h a b) := by
  intro hw rest
  have hb : b.wf = true := hw.1
  refine roundOpb (fun x => .hld sc h a x) b _ (fun _ => rfl) rfl (fun l => ?_) rest
  show decodeWord (hdr _ _ (six (0#2 ++ h) ++ a ++ b.bits ++ b.kind ++ 0#4)) l = _
  simp only [decodeMajor_34 _ _ (hdr_major _ _ _), hdr_scope, Scope.ofBits_bits, rForm_d, rForm_a, rForm_b, rForm_k, rForm_f, opbOf_bits _ hb]
  show decTshape sc _ _ _ _ = _
  have e : ∀ (d a : Reg) (o : Opb), decTshape sc d a o (0#4).toNat = (if (d &&& 0x30#6) = 0 then some (.hld sc (d.extractLsb' 0 4) a o) else none) := fun _ _ _ => rfl
  rw [e]
  simp [z2_x, z2_zero]

theorem hst (sc : Scope) (h : BitVec 4) (a : Reg) (b : Opb) : Statement (.hst sc h a b) := by
  intro hw rest
  have hb : b.wf = true := hw.1
  refine roundOpb (fun x => .hst sc h a x) b _ (fun _ => rfl) rfl (fun l => ?_) rest
  show decodeWord (hdr _ _ (six (0#2 ++ h) ++ a ++ b.bits ++ b.kind ++ 1#4)) l = _
  simp only [decodeMajor_34 _ _ (hdr_major _ _ _), hdr_scope, Scope.ofBits_bits, rForm_d, rForm_a, rForm_b, rForm_k, rForm_f, opbOf_bits _ hb]
  show decTshape sc _ _ _ _ = _
  have e : ∀ (d a : Reg) (o : Opb), decTshape sc d a o (1#4).toNat = (if (d &&& 0x30#6) = 0 then some (.hst sc (d.extractLsb' 0 4) a o) else none) := fun _ _ _ => rfl
  rw [e]
  simp [z2_x, z2_zero]

theorem hset (sc : Scope) (h : BitVec 4) (a : Reg) (b : Opb) : Statement (.hset sc h a b) := by
  intro hw rest
  have hb : b.wf = true := hw.1
  refine roundOpb (fun x => .hset sc h a x) b _ (fun _ => rfl) rfl (fun l => ?_) rest
  show decodeWord (hdr _ _ (six (0#2 ++ h) ++ a ++ b.bits ++ b.kind ++ 2#4)) l = _
  simp only [decodeMajor_34 _ _ (hdr_major _ _ _), hdr_scope, Scope.ofBits_bits, rForm_d, rForm_a, rForm_b, rForm_k, rForm_f, opbOf_bits _ hb]
  show decTshape sc _ _ _ _ = _
  have e : ∀ (d a : Reg) (o : Opb), decTshape sc d a o (2#4).toNat = (if (d &&& 0x30#6) = 0 then some (.hset sc (d.extractLsb' 0 4) a o) else none) := fun _ _ _ => rfl
  rw [e]
  simp [z2_x, z2_zero]

theorem hadv (sc : Scope) (h : BitVec 4) (b : Opb) : Statement (.hadv sc h b) := by
  intro hw rest
  have hb : b.wf = true := hw.1
  refine roundOpb (fun x => .hadv sc h x) b _ (fun _ => rfl) rfl (fun l => ?_) rest
  show decodeWord (hdr _ _ (six (0#2 ++ h) ++ 0#6 ++ b.bits ++ b.kind ++ 3#4)) l = _
  simp only [decodeMajor_34 _ _ (hdr_major _ _ _), hdr_scope, Scope.ofBits_bits, rForm_d, rForm_a, rForm_b, rForm_k, rForm_f, opbOf_bits _ hb]
  show decTshape sc _ _ _ _ = _
  have e : ∀ (d a : Reg) (o : Opb), decTshape sc d a o (3#4).toNat = (if (d &&& 0x30#6) = 0 ∧ a = 0 then some (.hadv sc (d.extractLsb' 0 4) o) else none) := fun _ _ _ => rfl
  rw [e]
  simp [z2_x, z2_zero]

theorem mmloop (sc : Scope) (acc : BitVec 3) (span : BitVec 2) (hA : BitVec 4) (hB : BitVec 4) (ks : Reg) (flags : BitVec 5) : Statement (.mmloop sc acc span hA hB ks flags) := by
  intro hw rest
  refine roundPlain _ _ rfl rfl (fun l => ?_) rest
  simp only [decodeMajor_35 _ _ (hdr_major _ _ _), hdr_scope, Scope.ofBits_bits]
  show decMmloop _ _ = _
  simp only [decMmloop, mm_acc, mm_span, mm_hA, mm_hB, mm_ks, mm_fl]

theorem mmidx (sc : Scope) (a : Reg) (b : Opb) : Statement (.mmidx sc a b) := by
  intro hw rest
  have hb : b.wf = true := hw.1
  refine roundOpb (fun x => .mmidx sc a x) b _ (fun _ => rfl) rfl (fun l => ?_) rest
  simp only [decodeMajor_36 _ _ (hdr_major _ _ _), hdr_scope, Scope.ofBits_bits, rForm_d, rForm_a, rForm_b, rForm_k, rForm_f, opbOf_bits _ hb]
  rfl

theorem accz (sc : Scope) (acc : BitVec 3) (span : BitVec 2) (b : Opb) : Statement (.accz sc acc span b) := by
  intro hw rest
  have hw2 : (b.wf && b.zeroImm) = true := hw.1
  rw [Bool.and_eq_true] at hw2
  have hb : b.wf = true := hw2.1
  refine roundOpb (fun x => .accz sc acc span x) b _ (fun _ => rfl) rfl (fun l => ?_) rest
  rw [join_acc]
  simp only [decodeMajor_37 _ _ (hdr_major _ _ _), hdr_scope, Scope.ofBits_bits, rForm_d, rForm_a, rForm_b, rForm_k, rForm_f, opbOf_bits _ hb]
  show decAcc sc _ _ _ _ = _
  have e : ∀ (d a : Reg) (o : Opb), decAcc sc d a o (0#4).toNat = (if d = 0 ∧ (a &&& 0x20#6) = 0 ∧ o.zeroImm then some (.accz sc (a.extractLsb' 0 3) (a.extractLsb' 3 2) o) else none) := fun _ _ _ => rfl
  rw [e]
  have hz : (b.relit l).zeroImm = true := by cases b <;> exact hw2.2
  simp [acc_x, acc_y, acc_zero, hz]

theorem accrd (sc : Scope) (d : Reg) (acc : BitVec 3) (span : BitVec 2) (b : Opb) : Statement (.accrd sc d acc span b) := by
  intro hw rest
  have hb : b.wf = true := hw.1
  refine roundOpb (fun x => .accrd sc d acc span x) b _ (fun _ => rfl) rfl (fun l => ?_) rest
  rw [join_acc]
  simp only [decodeMajor_37 _ _ (hdr_major _ _ _), hdr_scope, Scope.ofBits_bits, rForm_d, rForm_a, rForm_b, rForm_k, rForm_f, opbOf_bits _ hb]
  show decAcc sc _ _ _ _ = _
  have e : ∀ (d a : Reg) (o : Opb), decAcc sc d a o (1#4).toNat = (if (a &&& 0x20#6) = 0 then some (.accrd sc d (a.extractLsb' 0 3) (a.extractLsb' 3 2) o) else none) := fun _ _ _ => rfl
  rw [e]
  simp [acc_x, acc_y, acc_zero]

theorem accwr (sc : Scope) (d : Reg) (acc : BitVec 3) (span : BitVec 2) (b : Opb) : Statement (.accwr sc d acc span b) := by
  intro hw rest
  have hb : b.wf = true := hw.1
  refine roundOpb (fun x => .accwr sc d acc span x) b _ (fun _ => rfl) rfl (fun l => ?_) rest
  rw [join_acc]
  simp only [decodeMajor_37 _ _ (hdr_major _ _ _), hdr_scope, Scope.ofBits_bits, rForm_d, rForm_a, rForm_b, rForm_k, rForm_f, opbOf_bits _ hb]
  show decAcc sc _ _ _ _ = _
  have e : ∀ (d a : Reg) (o : Opb), decAcc sc d a o (2#4).toNat = (if (a &&& 0x20#6) = 0 then some (.accwr sc d (a.extractLsb' 0 3) (a.extractLsb' 3 2) o) else none) := fun _ _ _ => rfl
  rw [e]
  simp [acc_x, acc_y, acc_zero]

theorem accscl (sc : Scope) (acc : BitVec 3) (span : BitVec 2) (b : Opb) : Statement (.accscl sc acc span b) := by
  intro hw rest
  have hb : b.wf = true := hw.1
  refine roundOpb (fun x => .accscl sc acc span x) b _ (fun _ => rfl) rfl (fun l => ?_) rest
  rw [join_acc]
  simp only [decodeMajor_37 _ _ (hdr_major _ _ _), hdr_scope, Scope.ofBits_bits, rForm_d, rForm_a, rForm_b, rForm_k, rForm_f, opbOf_bits _ hb]
  show decAcc sc _ _ _ _ = _
  have e : ∀ (d a : Reg) (o : Opb), decAcc sc d a o (3#4).toNat = (if d = 0 ∧ (a &&& 0x20#6) = 0 then some (.accscl sc (a.extractLsb' 0 3) (a.extractLsb' 3 2) o) else none) := fun _ _ _ => rfl
  rw [e]
  simp [acc_x, acc_y, acc_zero]

theorem accdrn (sc : Scope) (h : BitVec 4) (acc : BitVec 3) (span : BitVec 2) (b : Opb) : Statement (.accdrn sc h acc span b) := by
  intro hw rest
  have hb : b.wf = true := hw.1
  refine roundOpb (fun x => .accdrn sc h acc span x) b _ (fun _ => rfl) rfl (fun l => ?_) rest
  show decodeWord (hdr _ _ (six (0#2 ++ h) ++ 0#1 ++ span ++ acc ++ b.bits ++ b.kind ++ 4#4)) l = _
  rw [join_acc]
  simp only [decodeMajor_37 _ _ (hdr_major _ _ _), hdr_scope, Scope.ofBits_bits, rForm_d, rForm_a, rForm_b, rForm_k, rForm_f, opbOf_bits _ hb]
  show decAcc sc _ _ _ _ = _
  have e : ∀ (d a : Reg) (o : Opb), decAcc sc d a o (4#4).toNat = (if (d &&& 0x30#6) = 0 ∧ (a &&& 0x20#6) = 0 then some (.accdrn sc (d.extractLsb' 0 4) (a.extractLsb' 0 3) (a.extractLsb' 3 2) o) else none) := fun _ _ _ => rfl
  rw [e]
  simp [acc_x, acc_y, acc_zero, z2_x, z2_zero]

theorem accdra (sc : Scope) (h : BitVec 4) (acc : BitVec 3) (span : BitVec 2) (b : Opb) : Statement (.accdra sc h acc span b) := by
  intro hw rest
  have hb : b.wf = true := hw.1
  refine roundOpb (fun x => .accdra sc h acc span x) b _ (fun _ => rfl) rfl (fun l => ?_) rest
  show decodeWord (hdr _ _ (six (0#2 ++ h) ++ 0#1 ++ span ++ acc ++ b.bits ++ b.kind ++ 5#4)) l = _
  rw [join_acc]
  simp only [decodeMajor_37 _ _ (hdr_major _ _ _), hdr_scope, Scope.ofBits_bits, rForm_d, rForm_a, rForm_b, rForm_k, rForm_f, opbOf_bits _ hb]
  show decAcc sc _ _ _ _ = _
  have e : ∀ (d a : Reg) (o : Opb), decAcc sc d a o (5#4).toNat = (if (d &&& 0x30#6) = 0 ∧ (a &&& 0x20#6) = 0 then some (.accdra sc (d.extractLsb' 0 4) (a.extractLsb' 0 3) (a.extractLsb' 3 2) o) else none) := fun _ _ _ => rfl
  rw [e]
  simp [acc_x, acc_y, acc_zero, z2_x, z2_zero]

theorem qsm (sc : Scope) (d : Reg) (a : Reg) (b : Opb) : Statement (.qsm sc d a b) := by
  intro hw rest
  have hb : b.wf = true := hw.1
  refine roundOpb (fun x => .qsm sc d a x) b _ (fun _ => rfl) rfl (fun l => ?_) rest
  simp only [decodeMajor_38 _ _ (hdr_major _ _ _), hdr_scope, Scope.ofBits_bits, rForm_d, rForm_a, rForm_b, rForm_k, rForm_f, opbOf_bits _ hb]
  rfl

theorem qpack (sc : Scope) (d : Reg) (a : Reg) (b : Opb) : Statement (.qpack sc d a b) := by
  intro hw rest
  have hb : b.wf = true := hw.1
  refine roundOpb (fun x => .qpack sc d a x) b _ (fun _ => rfl) rfl (fun l => ?_) rest
  simp only [decodeMajor_38 _ _ (hdr_major _ _ _), hdr_scope, Scope.ofBits_bits, rForm_d, rForm_a, rForm_b, rForm_k, rForm_f, opbOf_bits _ hb]
  rfl

theorem qunpk (sc : Scope) (d : Reg) (a : Reg) (b : Opb) : Statement (.qunpk sc d a b) := by
  intro hw rest
  have hb : b.wf = true := hw.1
  refine roundOpb (fun x => .qunpk sc d a x) b _ (fun _ => rfl) rfl (fun l => ?_) rest
  simp only [decodeMajor_38 _ _ (hdr_major _ _ _), hdr_scope, Scope.ofBits_bits, rForm_d, rForm_a, rForm_b, rForm_k, rForm_f, opbOf_bits _ hb]
  rfl

theorem qapp (sc : Scope) (d : Reg) (a : Reg) (b : Opb) : Statement (.qapp sc d a b) := by
  intro hw rest
  have hb : b.wf = true := hw.1
  refine roundOpb (fun x => .qapp sc d a x) b _ (fun _ => rfl) rfl (fun l => ?_) rest
  simp only [decodeMajor_39 _ _ (hdr_major _ _ _), hdr_scope, Scope.ofBits_bits, rForm_d, rForm_a, rForm_b, rForm_k, rForm_f, opbOf_bits _ hb]
  rfl

theorem tdec (sc : Scope) (a : Reg) (b : Opb) : Statement (.tdec sc a b) := by
  intro hw rest
  have hb : b.wf = true := hw.1
  refine roundOpb (fun x => .tdec sc a x) b _ (fun _ => rfl) rfl (fun l => ?_) rest
  simp only [decodeMajor_40 _ _ (hdr_major _ _ _), hdr_scope, Scope.ofBits_bits, rForm_d, rForm_a, rForm_b, rForm_k, rForm_f, opbOf_bits _ hb]
  rfl

theorem tinc (sc : Scope) (a : Reg) (b : Opb) : Statement (.tinc sc a b) := by
  intro hw rest
  have hb : b.wf = true := hw.1
  refine roundOpb (fun x => .tinc sc a x) b _ (fun _ => rfl) rfl (fun l => ?_) rest
  simp only [decodeMajor_40 _ _ (hdr_major _ _ _), hdr_scope, Scope.ofBits_bits, rForm_d, rForm_a, rForm_b, rForm_k, rForm_f, opbOf_bits _ hb]
  rfl

theorem trd (sc : Scope) (d : Reg) (b : Opb) : Statement (.trd sc d b) := by
  intro hw rest
  have hb : b.wf = true := hw.1
  refine roundOpb (fun x => .trd sc d x) b _ (fun _ => rfl) rfl (fun l => ?_) rest
  simp only [decodeMajor_40 _ _ (hdr_major _ _ _), hdr_scope, Scope.ofBits_bits, rForm_d, rForm_a, rForm_b, rForm_k, rForm_f, opbOf_bits _ hb]
  rfl

theorem phq (sc : Scope) (d : Reg) (a : Reg) (b : Opb) : Statement (.phq sc d a b) := by
  intro hw rest
  have hb : b.wf = true := hw.1
  refine roundOpb (fun x => .phq sc d a x) b _ (fun _ => rfl) rfl (fun l => ?_) rest
  simp only [decodeMajor_40 _ _ (hdr_major _ _ _), hdr_scope, Scope.ofBits_bits, rForm_d, rForm_a, rForm_b, rForm_k, rForm_f, opbOf_bits _ hb]
  rfl

theorem wait (sc : Scope) (ldn : BitVec 6) (stn : BitVec 6) (cpn : BitVec 6) (ton : BitVec 6) : Statement (.wait sc ldn stn cpn ton) := by
  intro hw rest
  refine roundPlain _ _ rfl rfl (fun l => ?_) rest
  simp only [decodeMajor_41 _ _ (hdr_major _ _ _), hdr_scope, Scope.ofBits_bits, wt_l, wt_s]
  show decWait _ _ _ _ = _
  simp only [decWait, wt_c, wt_t]

theorem visld (sc : Scope) (d : Reg) (a : Reg) (b : Opb) : Statement (.visld sc d a b) := by
  intro hw rest
  have hb : b.wf = true := hw.1
  refine roundOpb (fun x => .visld sc d a x) b _ (fun _ => rfl) rfl (fun l => ?_) rest
  simp only [decodeMajor_42 _ _ (hdr_major _ _ _), hdr_scope, Scope.ofBits_bits, rForm_d, rForm_a, rForm_b, rForm_k, rForm_f, opbOf_bits _ hb]
  rfl

theorem visdec (sc : Scope) (d : Reg) (a : Reg) : Statement (.visdec sc d a) := by
  intro hw rest
  refine roundPlain _ _ rfl rfl (fun l => ?_) rest
  simp only [decodeMajor_42 _ _ (hdr_major _ _ _), hdr_scope, Scope.ofBits_bits, rForm_d, rForm_a, rForm_b, rForm_k, rForm_f, show ∀ l, opbOf 0#2 0#6 l = .v 0#6 from fun _ => rfl]
  rfl

theorem bary (sc : Scope) (d : Reg) (a : Reg) (b : Opb) : Statement (.bary sc d a b) := by
  intro hw rest
  have hb : b.wf = true := hw.1
  refine roundOpb (fun x => .bary sc d a x) b _ (fun _ => rfl) rfl (fun l => ?_) rest
  simp only [decodeMajor_43 _ _ (hdr_major _ _ _), hdr_scope, Scope.ofBits_bits, rForm_d, rForm_a, rForm_b, rForm_k, rForm_f, opbOf_bits _ hb]
  rfl

theorem attrf (sc : Scope) (d : Reg) (a : Reg) (b : Opb) : Statement (.attrf sc d a b) := by
  intro hw rest
  have hb : b.wf = true := hw.1
  refine roundOpb (fun x => .attrf sc d a x) b _ (fun _ => rfl) rfl (fun l => ?_) rest
  simp only [decodeMajor_43 _ _ (hdr_major _ _ _), hdr_scope, Scope.ofBits_bits, rForm_d, rForm_a, rForm_b, rForm_k, rForm_f, opbOf_bits _ hb]
  rfl

theorem ordwait (sc : Scope) (a : Reg) (b : Opb) : Statement (.ordwait sc a b) := by
  intro hw rest
  have hb : b.wf = true := hw.1
  refine roundOpb (fun x => .ordwait sc a x) b _ (fun _ => rfl) rfl (fun l => ?_) rest
  simp only [decodeMajor_44 _ _ (hdr_major _ _ _), hdr_scope, Scope.ofBits_bits, rForm_d, rForm_a, rForm_b, rForm_k, rForm_f, opbOf_bits _ hb]
  rfl

theorem orddone (sc : Scope) (a : Reg) : Statement (.orddone sc a) := by
  intro hw rest
  refine roundPlain _ _ rfl rfl (fun l => ?_) rest
  simp only [decodeMajor_44 _ _ (hdr_major _ _ _), hdr_scope, Scope.ofBits_bits, rForm_d, rForm_a, rForm_b, rForm_k, rForm_f, show ∀ l, opbOf 0#2 0#6 l = .v 0#6 from fun _ => rfl]
  rfl

theorem texs (sc : Scope) (d : Reg) (a : Reg) (b : Opb) : Statement (.texs sc d a b) := by
  intro hw rest
  have hb : b.wf = true := hw.1
  refine roundOpb (fun x => .texs sc d a x) b _ (fun _ => rfl) rfl (fun l => ?_) rest
  simp only [decodeMajor_45 _ _ (hdr_major _ _ _), hdr_scope, Scope.ofBits_bits, rForm_d, rForm_a, rForm_b, rForm_k, rForm_f, opbOf_bits _ hb]
  rfl

theorem texl (sc : Scope) (d : Reg) (a : Reg) (b : Opb) : Statement (.texl sc d a b) := by
  intro hw rest
  have hb : b.wf = true := hw.1
  refine roundOpb (fun x => .texl sc d a x) b _ (fun _ => rfl) rfl (fun l => ?_) rest
  simp only [decodeMajor_45 _ _ (hdr_major _ _ _), hdr_scope, Scope.ofBits_bits, rForm_d, rForm_a, rForm_b, rForm_k, rForm_f, opbOf_bits _ hb]
  rfl

theorem texg (sc : Scope) (d : Reg) (a : Reg) (b : Opb) : Statement (.texg sc d a b) := by
  intro hw rest
  have hb : b.wf = true := hw.1
  refine roundOpb (fun x => .texg sc d a x) b _ (fun _ => rfl) rfl (fun l => ?_) rest
  simp only [decodeMajor_45 _ _ (hdr_major _ _ _), hdr_scope, Scope.ofBits_bits, rForm_d, rForm_a, rForm_b, rForm_k, rForm_f, opbOf_bits _ hb]
  rfl

theorem texq (sc : Scope) (d : Reg) (a : Reg) (b : Opb) : Statement (.texq sc d a b) := by
  intro hw rest
  have hw2 : (decide (a = 0) && b.wf) = true := hw.1
  rw [Bool.and_eq_true, decide_eq_true_eq] at hw2
  obtain ⟨rfl, hb⟩ := hw2
  refine roundOpb (fun x => .texq sc d 0 x) b _ (fun _ => rfl) rfl (fun l => ?_) rest
  simp only [decodeMajor_45 _ _ (hdr_major _ _ _), hdr_scope, Scope.ofBits_bits, rForm_d, rForm_a, rForm_b, rForm_k, rForm_f, opbOf_bits _ hb]
  rfl

theorem trav (sc : Scope) (d : Reg) (a : Reg) (b : Opb) : Statement (.trav sc d a b) := by
  intro hw rest
  have hb : b.wf = true := hw.1
  refine roundOpb (fun x => .trav sc d a x) b _ (fun _ => rfl) rfl (fun l => ?_) rest
  simp only [decodeMajor_46 _ _ (hdr_major _ _ _), hdr_scope, Scope.ofBits_bits, rForm_d, rForm_a, rForm_b, rForm_k, rForm_f, opbOf_bits _ hb]
  rfl

theorem travrd (sc : Scope) (d : Reg) (a : Reg) (b : Opb) : Statement (.travrd sc d a b) := by
  intro hw rest
  have hb : b.wf = true := hw.1
  refine roundOpb (fun x => .travrd sc d a x) b _ (fun _ => rfl) rfl (fun l => ?_) rest
  simp only [decodeMajor_46 _ _ (hdr_major _ _ _), hdr_scope, Scope.ofBits_bits, rForm_d, rForm_a, rForm_b, rForm_k, rForm_f, opbOf_bits _ hb]
  rfl

theorem reform (sc : Scope) (d : Reg) (a : Reg) (b : Opb) : Statement (.reform sc d a b) := by
  intro hw rest
  have hb : b.wf = true := hw.1
  refine roundOpb (fun x => .reform sc d a x) b _ (fun _ => rfl) rfl (fun l => ?_) rest
  simp only [decodeMajor_48 _ _ (hdr_major _ _ _), hdr_scope, Scope.ofBits_bits, rForm_d, rForm_a, rForm_b, rForm_k, rForm_f, opbOf_bits _ hb]
  rfl

theorem refill (sc : Scope) (d : Reg) (a : Reg) (b : Opb) : Statement (.refill sc d a b) := by
  intro hw rest
  have hb : b.wf = true := hw.1
  refine roundOpb (fun x => .refill sc d a x) b _ (fun _ => rfl) rfl (fun l => ?_) rest
  simp only [decodeMajor_48 _ _ (hdr_major _ _ _), hdr_scope, Scope.ofBits_bits, rForm_d, rForm_a, rForm_b, rForm_k, rForm_f, opbOf_bits _ hb]
  rfl

theorem rsmpl (sc : Scope) (d : Reg) (a : Reg) (b : Opb) : Statement (.rsmpl sc d a b) := by
  intro hw rest
  have hb : b.wf = true := hw.1
  refine roundOpb (fun x => .rsmpl sc d a x) b _ (fun _ => rfl) rfl (fun l => ?_) rest
  simp only [decodeMajor_49 _ _ (hdr_major _ _ _), hdr_scope, Scope.ofBits_bits, rForm_d, rForm_a, rForm_b, rForm_k, rForm_f, opbOf_bits _ hb]
  rfl

theorem pstat (sc : Scope) (d : Reg) (a : Reg) (b : Opb) : Statement (.pstat sc d a b) := by
  intro hw rest
  have hb : b.wf = true := hw.1
  refine roundOpb (fun x => .pstat sc d a x) b _ (fun _ => rfl) rfl (fun l => ?_) rest
  simp only [decodeMajor_49 _ _ (hdr_major _ _ _), hdr_scope, Scope.ofBits_bits, rForm_d, rForm_a, rForm_b, rForm_k, rForm_f, opbOf_bits _ hb]
  rfl

theorem sread (sc : Scope) (d : Reg) (toS : Bool) (num : BitVec 6) : Statement (.sread sc d toS num) := by
  intro hw rest
  have hn : sregNumbers.contains num.toNat = true := hw.1
  refine roundPlain _ _ rfl rfl (fun l => ?_) rest
  rw [join_sreg]
  simp only [decodeMajor_50 _ _ (hdr_major _ _ _), hdr_scope, Scope.ofBits_bits, rForm_d, rForm_a, rForm_f]
  show decSreg _ _ _ _ _ = _
  simp [decSreg, rForm_b, rForm_k, sreg_bit, sreg_zero]
  simpa [sreg_bit] using hn

theorem swrite (sc : Scope) (a : Reg) (num : BitVec 6) : Statement (.swrite sc a num) := by
  intro hw rest
  have hn : sregNumbers.contains num.toNat = true := hw.1
  refine roundPlain _ _ rfl rfl (fun l => ?_) rest
  simp only [decodeMajor_50 _ _ (hdr_major _ _ _), hdr_scope, Scope.ofBits_bits, rForm_d, rForm_a, rForm_f]
  show decSreg _ _ _ _ _ = _
  simp [decSreg, rForm_b, rForm_k]
  simpa using hn

theorem grow (sc : Scope) (p : BitVec 3) (b : Opb) : Statement (.grow sc p b) := by
  intro hw rest
  have hb : b.wf = true := hw.1
  refine roundOpb (fun x => .grow sc p x) b _ (fun _ => rfl) rfl (fun l => ?_) rest
  show decodeWord (hdr _ _ (six (0#3 ++ p) ++ 0#6 ++ b.bits ++ b.kind ++ 0#4)) l = _
  simp only [decodeMajor_51 _ _ (hdr_major _ _ _), hdr_scope, Scope.ofBits_bits, rForm_d, rForm_a, rForm_b, rForm_k, rForm_f, opbOf_bits _ hb]
  show decFlow sc _ _ _ _ = _
  have e : ∀ (d a : Reg) (o : Opb), decFlow sc d a o (0#4).toNat = (if (d &&& 0x38#6) = 0 ∧ a = 0 then some (.grow sc (d.extractLsb' 0 3) o) else none) := fun _ _ _ => rfl
  rw [e]
  simp [z3_x, z3_zero]

theorem fork (sc : Scope) (d : Reg) (a : Reg) (b : Opb) : Statement (.fork sc d a b) := by
  intro hw rest
  have hb : b.wf = true := hw.1
  refine roundOpb (fun x => .fork sc d a x) b _ (fun _ => rfl) rfl (fun l => ?_) rest
  simp only [decodeMajor_51 _ _ (hdr_major _ _ _), hdr_scope, Scope.ofBits_bits, rForm_d, rForm_a, rForm_b, rForm_k, rForm_f, opbOf_bits _ hb]
  rfl

theorem join (sc : Scope) : Statement (.join sc) := by
  intro hw rest
  refine roundPlain _ _ rfl rfl (fun l => ?_) rest
  simp only [decodeMajor_51 _ _ (hdr_major _ _ _), hdr_scope, Scope.ofBits_bits, rForm_d, rForm_a, rForm_b, rForm_k, rForm_f, show ∀ l, opbOf 0#2 0#6 l = .v 0#6 from fun _ => rfl]
  rfl

theorem npre (sc : Scope) : Statement (.npre sc) := by
  intro hw rest
  refine roundPlain _ _ rfl rfl (fun l => ?_) rest
  simp only [decodeMajor_51 _ _ (hdr_major _ _ _), hdr_scope, Scope.ofBits_bits, rForm_d, rForm_a, rForm_b, rForm_k, rForm_f, show ∀ l, opbOf 0#2 0#6 l = .v 0#6 from fun _ => rfl]
  rfl

theorem nprex (sc : Scope) : Statement (.nprex sc) := by
  intro hw rest
  refine roundPlain _ _ rfl rfl (fun l => ?_) rest
  simp only [decodeMajor_51 _ _ (hdr_major _ _ _), hdr_scope, Scope.ofBits_bits, rForm_d, rForm_a, rForm_b, rForm_k, rForm_f, show ∀ l, opbOf 0#2 0#6 l = .v 0#6 from fun _ => rfl]
  rfl

theorem trap (sc : Scope) (code : BitVec 6) : Statement (.trap sc code) := by
  intro hw rest
  refine roundPlain _ _ rfl rfl (fun l => ?_) rest
  simp only [decodeMajor_52 _ _ (hdr_major _ _ _), hdr_scope, Scope.ofBits_bits, rForm_d, rForm_a, rForm_b, rForm_k, rForm_f, show ∀ l, opbOf 0#2 0#6 l = .v 0#6 from fun _ => rfl]
  show decSys _ _ _ _ _ _ = _
  simp only [decSys, rForm_b, rForm_k]
  rfl

theorem eret (sc : Scope) (code : BitVec 6) : Statement (.eret sc code) := by
  intro hw rest
  refine roundPlain _ _ rfl rfl (fun l => ?_) rest
  simp only [decodeMajor_52 _ _ (hdr_major _ _ _), hdr_scope, Scope.ofBits_bits, rForm_d, rForm_a, rForm_b, rForm_k, rForm_f, show ∀ l, opbOf 0#2 0#6 l = .v 0#6 from fun _ => rfl]
  show decSys _ _ _ _ _ _ = _
  simp only [decSys, rForm_b, rForm_k]
  rfl

theorem bkpt (sc : Scope) (code : BitVec 6) : Statement (.bkpt sc code) := by
  intro hw rest
  refine roundPlain _ _ rfl rfl (fun l => ?_) rest
  simp only [decodeMajor_52 _ _ (hdr_major _ _ _), hdr_scope, Scope.ofBits_bits, rForm_d, rForm_a, rForm_b, rForm_k, rForm_f, show ∀ l, opbOf 0#2 0#6 l = .v 0#6 from fun _ => rfl]
  show decSys _ _ _ _ _ _ = _
  simp only [decSys, rForm_b, rForm_k]
  rfl

theorem halt (sc : Scope) : Statement (.halt sc) := by
  intro hw rest
  refine roundPlain _ _ rfl rfl (fun l => ?_) rest
  simp only [decodeMajor_52 _ _ (hdr_major _ _ _), hdr_scope, Scope.ofBits_bits, rForm_d, rForm_a, rForm_b, rForm_k, rForm_f, show ∀ l, opbOf 0#2 0#6 l = .v 0#6 from fun _ => rfl]
  rfl

theorem call (sc : Scope) (p : BitVec 3) (n : Bool) (disp : BitVec 20) : Statement (.call sc p n disp) := by
  intro hw rest
  refine roundPlain _ _ rfl rfl (fun l => ?_) rest
  simp only [decodeMajor_53 _ _ (hdr_major _ _ _), hdr_scope, Scope.ofBits_bits]
  show decCall _ _ = _
  simp only [decCall, br_p, br_bit, br_disp]

theorem ximm (sc : Scope) (payload : BitVec 20) : Statement (.ximm sc payload) := by
  intro hw rest
  refine roundPlain _ _ rfl rfl (fun l => ?_) rest
  simp only [decodeMajor_62 _ _ (hdr_major _ _ _), hdr_scope, Scope.ofBits_bits]
  show decHint _ _ = _
  simp [decHint, hn_k, hn_p]

theorem xreg (sc : Scope) (payload : BitVec 20) : Statement (.xreg sc payload) := by
  intro hw rest
  have hc : xregOk payload = true := hw.1
  refine roundPlain _ _ rfl rfl (fun l => ?_) rest
  simp only [decodeMajor_62 _ _ (hdr_major _ _ _), hdr_scope, Scope.ofBits_bits]
  show decHint _ _ = _
  simp [decHint, hn_k, hn_p, hc]

theorem xmod (sc : Scope) (payload : BitVec 20) : Statement (.xmod sc payload) := by
  intro hw rest
  have hc : xmodOk payload = true := hw.1
  refine roundPlain _ _ rfl rfl (fun l => ?_) rest
  simp only [decodeMajor_62 _ _ (hdr_major _ _ _), hdr_scope, Scope.ofBits_bits]
  show decHint _ _ = _
  simp [decHint, hn_k, hn_p, hc]

theorem xsched (sc : Scope) (payload : BitVec 20) : Statement (.xsched sc payload) := by
  intro hw rest
  have hc : xlowOk payload = true := hw.1
  refine roundPlain _ _ rfl rfl (fun l => ?_) rest
  simp only [decodeMajor_62 _ _ (hdr_major _ _ _), hdr_scope, Scope.ofBits_bits]
  show decHint _ _ = _
  simp [decHint, hn_k, hn_p, hc]

theorem xpred (sc : Scope) (payload : BitVec 20) : Statement (.xpred sc payload) := by
  intro hw rest
  have hc : xlowOk payload = true := hw.1
  refine roundPlain _ _ rfl rfl (fun l => ?_) rest
  simp only [decodeMajor_62 _ _ (hdr_major _ _ _), hdr_scope, Scope.ofBits_bits]
  show decHint _ _ = _
  simp [decHint, hn_k, hn_p, hc]

theorem splitMerge (w i j : Nat) : Statement (.splitMerge w i j) := fun h => Bool.noConfusion h.2

theorem rendezvousRelease (w : Nat) : Statement (.rendezvousRelease w) := fun h => Bool.noConfusion h.2

theorem waitEnd (w slot : Nat) : Statement (.waitEnd w slot) := fun h => Bool.noConfusion h.2

theorem growGrant (core : Nat) : Statement (.growGrant core) := fun h => Bool.noConfusion h.2

theorem growFail (core : Nat) : Statement (.growFail core) := fun h => Bool.noConfusion h.2

theorem handlerEntry (w code lane : Nat) (faddr : BitVec 64) : Statement (.handlerEntry w code lane faddr) := fun h => Bool.noConfusion h.2

theorem loadComplete (w k : Nat) : Statement (.loadComplete w k) := fun h => Bool.noConfusion h.2

theorem storeDrain (w : Nat) : Statement (.storeDrain w) := fun h => Bool.noConfusion h.2

theorem storeApply (id : Nat) : Statement (.storeApply id) := fun h => Bool.noConfusion h.2

theorem proxyInvalidate (field line : Nat) : Statement (.proxyInvalidate field line) := fun h => Bool.noConfusion h.2

theorem storeAck (id : Nat) : Statement (.storeAck id) := fun h => Bool.noConfusion h.2

theorem l1Eviction (core line : Nat) (repl : Bool) : Statement (.l1Eviction core line repl) := fun h => Bool.noConfusion h.2

theorem sliceEviction (line : Nat) (toVault : Bool) : Statement (.sliceEviction line toVault) := fun h => Bool.noConfusion h.2

theorem atomicApply (id : Nat) : Statement (.atomicApply id) := fun h => Bool.noConfusion h.2

theorem atomicReturn (id : Nat) : Statement (.atomicReturn id) := fun h => Bool.noConfusion h.2

theorem bankWriteApply (block k : Nat) : Statement (.bankWriteApply block k) := fun h => Bool.noConfusion h.2

theorem multicastRequest (id : Nat) : Statement (.multicastRequest id) := fun h => Bool.noConfusion h.2

theorem multicastTimeout (k : Nat) : Statement (.multicastTimeout k) := fun h => Bool.noConfusion h.2

theorem ldmcDelivery (id beat : Nat) : Statement (.ldmcDelivery id beat) := fun h => Bool.noConfusion h.2

theorem kstepApply (core : Nat) : Statement (.kstepApply core) := fun h => Bool.noConfusion h.2

theorem drainComplete (core : Nat) : Statement (.drainComplete core) := fun h => Bool.noConfusion h.2

theorem rayComplete (w lane : Nat) : Statement (.rayComplete w lane) := fun h => Bool.noConfusion h.2

theorem xchgPair (w : Nat) : Statement (.xchgPair w) := fun h => Bool.noConfusion h.2

theorem phaseSweepPair (launch : Nat) : Statement (.phaseSweepPair launch) := fun h => Bool.noConfusion h.2

theorem phqWake (block : Nat) : Statement (.phqWake block) := fun h => Bool.noConfusion h.2

theorem queueConsume (field q : Nat) : Statement (.queueConsume field q) := fun h => Bool.noConfusion h.2

theorem launchAccept (launch : Nat) : Statement (.launchAccept launch) := fun h => Bool.noConfusion h.2

theorem blockDispatch (launch : Nat) : Statement (.blockDispatch launch) := fun h => Bool.noConfusion h.2

theorem gangDispatch (launch : Nat) : Statement (.gangDispatch launch) := fun h => Bool.noConfusion h.2

theorem blockRetire (block cycles : Nat) : Statement (.blockRetire block cycles) := fun h => Bool.noConfusion h.2

theorem launchComplete (launch : Nat) : Statement (.launchComplete launch) := fun h => Bool.noConfusion h.2

theorem joinResume (block : Nat) : Statement (.joinResume block) := fun h => Bool.noConfusion h.2

theorem taskAppendRetry (k : Nat) : Statement (.taskAppendRetry k) := fun h => Bool.noConfusion h.2

theorem copyStart (field q : Nat) : Statement (.copyStart field q) := fun h => Bool.noConfusion h.2

theorem copyComplete (id : Nat) : Statement (.copyComplete id) := fun h => Bool.noConfusion h.2

theorem reduceSessionClose (field k : Nat) : Statement (.reduceSessionClose field k) := fun h => Bool.noConfusion h.2

theorem rasterPacket (id : Nat) : Statement (.rasterPacket id) := fun h => Bool.noConfusion h.2

theorem graphValidate (graph : Nat) : Statement (.graphValidate graph) := fun h => Bool.noConfusion h.2

theorem nodeIssue (graph : Nat) : Statement (.nodeIssue graph) := fun h => Bool.noConfusion h.2

theorem predicateEval (graph : Nat) : Statement (.predicateEval graph) := fun h => Bool.noConfusion h.2

theorem instanceStart (graph k : Nat) : Statement (.instanceStart graph k) := fun h => Bool.noConfusion h.2

theorem waitctrComplete (graph k : Nat) : Statement (.waitctrComplete graph k) := fun h => Bool.noConfusion h.2

theorem graphComplete (graph : Nat) : Statement (.graphComplete graph) := fun h => Bool.noConfusion h.2

theorem tileRelease (graph k tile : Nat) : Statement (.tileRelease graph k tile) := fun h => Bool.noConfusion h.2

theorem tileRetire (graph k tile : Nat) : Statement (.tileRetire graph k tile) := fun h => Bool.noConfusion h.2

theorem relqTake (graph : Nat) : Statement (.relqTake graph) := fun h => Bool.noConfusion h.2

theorem ringExhausted (graph : Nat) : Statement (.ringExhausted graph) := fun h => Bool.noConfusion h.2

theorem footprintPrefetch (graph k tile : Nat) : Statement (.footprintPrefetch graph k tile) := fun h => Bool.noConfusion h.2

theorem resample (launch : Nat) : Statement (.resample launch) := fun h => Bool.noConfusion h.2

theorem placementListAccept (launch : Nat) : Statement (.placementListAccept launch) := fun h => Bool.noConfusion h.2

theorem pageWalk (field ctx : Nat) (va : BitVec 64) : Statement (.pageWalk field ctx va) := fun h => Bool.noConfusion h.2

theorem frameCopyOnWrite (field frame ctx : Nat) : Statement (.frameCopyOnWrite field frame ctx) := fun h => Bool.noConfusion h.2

theorem vaultEccError (field vault : Nat) (both : Bool) : Statement (.vaultEccError field vault both) := fun h => Bool.noConfusion h.2

theorem contextSchedule (field ctx : Nat) : Statement (.contextSchedule field ctx) := fun h => Bool.noConfusion h.2

theorem preemptionStart (field ctx : Nat) (thermal : Bool) : Statement (.preemptionStart field ctx thermal) := fun h => Bool.noConfusion h.2

theorem drainLimitExpiry (field ctx : Nat) : Statement (.drainLimitExpiry field ctx) := fun h => Bool.noConfusion h.2

theorem forcedSave (field ctx : Nat) : Statement (.forcedSave field ctx) := fun h => Bool.noConfusion h.2

theorem regionLimitExpiry (field ctx : Nat) : Statement (.regionLimitExpiry field ctx) := fun h => Bool.noConfusion h.2

theorem watchdog (block : Nat) : Statement (.watchdog block) := fun h => Bool.noConfusion h.2

theorem create (field ctx : Nat) (addr : BitVec 64) : Statement (.create field ctx addr) := fun h => Bool.noConfusion h.2

theorem destroy (field ctx : Nat) : Statement (.destroy field ctx) := fun h => Bool.noConfusion h.2

theorem preempt (field ctx : Nat) : Statement (.preempt field ctx) := fun h => Bool.noConfusion h.2

theorem kill (field ctx : Nat) : Statement (.kill field ctx) := fun h => Bool.noConfusion h.2

theorem stepFlag (field ctx core slot : Nat) : Statement (.stepFlag field ctx core slot) := fun h => Bool.noConfusion h.2

theorem unstepFlag (field ctx core slot : Nat) : Statement (.unstepFlag field ctx core slot) := fun h => Bool.noConfusion h.2

theorem queueAttach (field q ctx : Nat) (desc : BitVec 64) : Statement (.queueAttach field q ctx desc) := fun h => Bool.noConfusion h.2

theorem queueDetach (field q : Nat) : Statement (.queueDetach field q) := fun h => Bool.noConfusion h.2

theorem queueClosed (field q : Nat) : Statement (.queueClosed field q) := fun h => Bool.noConfusion h.2

theorem invalidate (field ctx : Nat) (va : BitVec 64) (log : Nat) : Statement (.invalidate field ctx va log) := fun h => Bool.noConfusion h.2

theorem fillResponse (field ctx : Nat) (vpage pte : BitVec 64) : Statement (.fillResponse field ctx vpage pte) := fun h => Bool.noConfusion h.2

theorem exportHandle (field ctx : Nat) (base : BitVec 64) (target len : Nat) : Statement (.exportHandle field ctx base target len) := fun h => Bool.noConfusion h.2

theorem revoke (field : Nat) (handle : BitVec 64) : Statement (.revoke field handle) := fun h => Bool.noConfusion h.2

theorem bind (field ctx slot : Nat) : Statement (.bind field ctx slot) := fun h => Bool.noConfusion h.2

theorem unbind (field ctx slot : Nat) : Statement (.unbind field ctx slot) := fun h => Bool.noConfusion h.2

theorem revocationNotice (field : Nat) (handle : BitVec 64) : Statement (.revocationNotice field handle) := fun h => Bool.noConfusion h.2

theorem drainMarker (field fromField : Nat) (handle : BitVec 64) : Statement (.drainMarker field fromField handle) := fun h => Bool.noConfusion h.2

theorem countDoorbell (field entry : Nat) (gen : BitVec 32) : Statement (.countDoorbell field entry gen) := fun h => Bool.noConfusion h.2

theorem bar4Read (field : Nat) (addr : BitVec 64) (len : Nat) : Statement (.bar4Read field addr len) := fun h => Bool.noConfusion h.2

theorem hostAtomicop (field : Nat) (addr : BitVec 64) (op : BitVec 2) (w64 : Bool) (operand compare : BitVec 64) : Statement (.hostAtomicop field addr op w64 operand compare) := fun h => Bool.noConfusion h.2

theorem flushingReadComplete (id : Nat) (good : Bool) : Statement (.flushingReadComplete id good) := fun h => Bool.noConfusion h.2

theorem registerWrite (field offset : Nat) (value : BitVec 32) : Statement (.registerWrite field offset value) := fun h => Bool.noConfusion h.2

theorem negativeAck (crossing dir modul : Nat) (ackSeq : BitVec 16) : Statement (.negativeAck crossing dir modul ackSeq) := fun h => Bool.noConfusion h.2

theorem laneRepair (crossing modul : Nat) (repaired : Bool) : Statement (.laneRepair crossing modul repaired) := fun h => Bool.noConfusion h.2

theorem crossingFailure (crossing : Nat) : Statement (.crossingFailure crossing) := fun h => Bool.noConfusion h.2

theorem lossNotice (id : Nat) : Statement (.lossNotice id) := fun h => Bool.noConfusion h.2

theorem powerSample (milliwatts : Nat) (load : List Nat) : Statement (.powerSample milliwatts load) := fun h => Bool.noConfusion h.2

theorem thermalSample (field : Nat) (low high valves : List Nat) : Statement (.thermalSample field low high valves) := fun h => Bool.noConfusion h.2

theorem machineCheck (field : Nat) : Statement (.machineCheck field) := fun h => Bool.noConfusion h.2

theorem wearUpdate (field life hours corrected : Nat) : Statement (.wearUpdate field life hours corrected) := fun h => Bool.noConfusion h.2

theorem bar4Write (field : Nat) (addr : BitVec 64) (write : BarWrite) : Statement (.bar4Write field addr write) := fun h => Bool.noConfusion h.2

theorem flitReceive (crossing dir modul : Nat) (flit : List (BitVec 8)) : Statement (.flitReceive crossing dir modul flit) := fun h => Bool.noConfusion h.2

theorem bringUp (signatureOk : Bool) (report : List (Bool × BitVec 40 × BitVec 40 × BitVec 40)) (trained : List Nat) : Statement (.bringUp signatureOk report trained) := fun h => Bool.noConfusion h.2

theorem modulePowerRemoved : Statement .modulePowerRemoved := fun h => Bool.noConfusion h.2

end Sys2Proof.Laws.RoundTrip
end

