-- ==== Sys2Proof/Tests/Slice0.lean ====
section
/-! SUPPORT. The model's own tests: ill-formed terms that are refused, words that the rules print or that are written out field by
field, results of single instructions and events worked out from the rules by hand, and for every statement of the certificates a
concrete state and operands that meet its premises (names witness_…). -/

namespace Sys2Proof.Tests

set_option Elab.async false

open Sys2Proof Sys2Proof.Machine

set_option maxRecDepth 100000

/-! ## Ill-formed terms -/

/-- Each check of well-formedness refuses a term that breaks it: a reserved extended operand, the combine code 3, SEL on p0, a
predicate number above 7, a conversion code that R88 does not list, a reserved size, SX at 32 bits, a special-register number that
R123 does not list, reserved hint bits. -/
theorem test_ill_formed : [
    Instr.iadd .lane 1 2 (.const 56), .iadd .lane 1 2 (.resv 62), .mov .lane 1 (.resv 3), .icmpEq .lane 1 3 2 (.v 3),
    .fcmpLt .lane 1 3 2 (.v 3), .scmpNe .lane 1 3 2 (.s 3), .sel .lane 0 1 2 (.v 3), .pand .lane 1 2 (.v 8),
    .cvt .lane 1 2 0 false 0, .cvt .lane 1 2 0x0B false 0, .ld .lane 4 2 7 5 false false, .ld .lane 4 2 7 2 true false,
    .st .lane 4 2 7 7 false false, .lds .lane 4 2 0 5 false, .sts .lane 4 2 0 6 true, .sread .lane 1 false 10, .swrite .lane 1 63,
    .xreg .lane 8, .xmod .lane 5, .xmod .lane 0x18, .xmod .lane 0x4000, .xsched .lane 16, .xpred .lane 16].all
      (fun i => !i.wf) = true := by decide +kernel

/-- Terms just inside each check are well formed. -/
theorem test_well_formed : [
    Instr.iadd .lane 1 2 (.const 55), .mov .block 1 (.resv 61), .icmpEq .lane 1 2 2 (.v 3), .sel .lane 1 1 2 (.v 3),
    .pand .lane 1 2 (.v 7), .cvt .lane 1 2 0x26 true 3, .ld .lane 4 2 7 1 true false, .ld .lane 4 2 7 4 false true,
    .sts .lane 4 2 7 4 true, .sread .lane 1 false 56, .xreg .lane 7, .xmod .lane 0x36F4, .xsched .lane 15, .xpred .lane 15].all
      (fun i => i.wf) = true := by decide +kernel

/-! ## Words -/

/-- The decoder reads each word, with the literal behind it, as the instruction beside it. -/
noncomputable def reads (l : List (Word × Word × Instr)) : Bool := l.all fun x => decide (decodeWord x.1 x.2.1 = some x.2.2)

/-- The R format of R25: major, scope, d, a, b, bk, function. -/
def rWord (m : BitVec 6) (sc : BitVec 2) (d a b : BitVec 6) (bk : BitVec 2) (f : BitVec 4) : Word := m ++ sc ++ d ++ a ++ b ++ bk ++ f

/-- Words that the rules print. -/
theorem test_printed_lanes_and_tiles : reads [
    (0x95080064#32, 0, .accdrn .warp 2 0 0 (.imm 1)),
    (0x95098064#32, 0, .accdrn .warp 2 0 3 (.imm 1)),
    (0x95201111#32, 0, .accrd .warp 8 1 0 (.s 4)),
    (0x95018020#32, 0, .accz .warp 0 3 (.imm 0)),
    (0x88000063#32, 0, .hadv .lane 0 (.imm 1)),
    (0x8800A1D0#32, 0, .hld .lane 0 10 (.s 7)),
    (0x8804C1D0#32, 0, .hld .lane 1 12 (.s 7)),
    (0x81081006#32, 0, .lredFadd .warp 2 1),
    (0x810C1020#32, 0, .lscanExclIadd .warp 3 1),
    (0x9100C0A0#32, 0, .mmidx .warp 12 (.imm 2)),
    (0x9C090510#32, 0, .qapp .lane 2 16 (.s 20)),
    (0x98084251#32, 0, .qpack .lane 2 4 (.s 9)),
    (0x98244090#32, 0, .qsm .lane 9 4 (.s 2)),
    (0x98202252#32, 0, .qunpk .lane 8 2 (.s 9)),
    (0x85200110#32, 0, .xchg .warp 8 (.s 4)),
    (0x86D00111#32, 0, .xchgk .set 52 (.s 4))] = true := by decide +kernel

/-- Words that the rules print. -/
theorem test_printed_memory : reads [
    (0x54102180#32, 0, .atomAadd .lane 4 2 6 false),
    (0x54102229#32, 0, .atomAcas .lane 4 2 8 true),
    (0x5414218D#32, 0, .atomAfaddb .lane 5 2 6),
    (0x5C0000E3#32, 0, .cbcmt .lane (.imm 3)),
    (0x5C0000E1#32, 0, .cbpop .lane (.imm 3)),
    (0x5C2400E2#32, 0, .cbrsv .lane 9 (.imm 3)),
    (0x5C2800E0#32, 0, .cbwait .lane 10 (.imm 3)),
    (0x4C000151#32, 0, .cwin .lane (.s 5)),
    (0x60080002#32, 0, .fenceFull .lane 2),
    (0x60080001#32, 0, .fenceRel .lane 2),
    (0x60004193#32, 0, .flushv .lane 4 (.s 6)),
    (0x60000004#32, 0, .invl1 .lane),
    (0x4010C190#32, 0, .ld .lane 4 12 6 2 false false),
    (0x401021D0#32, 0, .ld .lane 4 2 7 2 false false),
    (0x4C0C1120#32, 0, .ldc .lane 3 1 (.imm 4)),
    (0x5120A300#32, 0, .ldmc .warp 8 10 12),
    (0x48141440#32, 0, .lds .lane 5 1 2 2 false),
    (0x58002180#32, 0, .redAadd .lane 2 6 false),
    (0x4404A1D0#32, 0, .st .lane 1 10 7 2 false false),
    (0x4404C150#32, 0, .st .lane 1 12 5 2 false false),
    (0x4404A1D4#32, 0, .st .lane 1 10 7 2 true false),
    (0x442021D8#32, 0, .st .lane 8 2 7 3 false false),
    (0x442021DC#32, 0, .st .lane 8 2 7 3 true false),
    (0x452021DC#32, 0, .st .warp 8 2 7 3 true false),
    (0x64080250#32, 0, .wcrd .lane 2 (.s 9)),
    (0x64004251#32, 0, .wcwait .lane 4 (.s 9))] = true := by decide +kernel

/-- Words that the rules print. -/
theorem test_printed_units : reads [
    (0xAC408511#32, 0, .attrf .lane 16 8 (.s 20)),
    (0xAC308510#32, 0, .bary .lane 12 8 (.s 20)),
    (0xB0002001#32, 0, .orddone .lane 2),
    (0xB0002180#32, 0, .ordwait .lane 2 (.v 6)),
    (0xC42400A1#32, 0, .pstat .lane 9 0 (.imm 2)),
    (0xC1203021#32, 0, .refill .warp 8 3 (.imm 0)),
    (0xC3143020#32, 0, .reform .block 5 3 (.imm 0)),
    (0xA0004250#32, 0, .tdec .lane 4 (.s 9)),
    (0xB4300413#32, 0, .texq .lane 12 0 (.s 16)),
    (0xB4202410#32, 0, .texs .lane 8 2 (.s 16)),
    (0xA0004251#32, 0, .tinc .lane 4 (.s 9)),
    (0xB9010210#32, 0, .trav .warp 0 16 (.s 8)),
    (0xB9600001#32, 0, .travrd .warp 24 0 (.v 0)),
    (0xA0080252#32, 0, .trd .lane 2 (.s 9)),
    (0xA8308001#32, 0, .visdec .lane 12 8),
    (0xA8202310#32, 0, .visld .lane 8 2 (.s 12)),
    (0xA403FFFF#32, 0, .wait .lane 0 63 63 63),
    (0xA4FC0FFF#32, 0, .wait .lane 63 0 63 63)] = true := by decide +kernel

/-- Words that the rules print. -/
theorem test_printed_control : reads [
    (0xD0000022#32, 0, .bkpt .lane 0),
    (0x6C000111#32, 0, .brx .lane (.s 4)),
    (0x6C000182#32, 0, .callx .lane (.v 6)),
    (0x6C000004#32, 0, .exit .lane),
    (0xCC048001#32, 0, .fork .lane 1 8 (.v 0)),
    (0xCC080150#32, 0, .grow .lane 2 (.s 5)),
    (0xD0000003#32, 0, .halt .lane),
    (0x6C000000#32, 0, .nop .lane),
    (0x6C000003#32, 0, .ret .lane),
    (0x79109024#32, 0, .shflBcast .warp 4 9 (.imm 0)),
    (0x79210094#32, 0, .shflBcast .warp 8 16 (.s 2)),
    (0x7A172180#32, 0, .shflIdx .set 5 50 (.v 6)),
    (0xD0000160#32, 0, .trap .lane 5),
    (0xD1000160#32, 0, .trap .warp 5),
    (0x7E0C9000#32, 0, .vall .set 3 true 1),
    (0x7D0C1001#32, 0, .vany .warp 3 false 1),
    (0x7D142002#32, 0, .vbal .warp 5 false 2),
    (0x6C000005#32, 0, .yield .lane)] = true := by decide +kernel

/-- Words that the rules print. -/
theorem test_printed_compute : reads [
    (0x1C144421#32, 0, .cvt .lane 5 4 16 false 1),
    (0x30204143#32, 0, .edp4 .lane 8 4 (.v 5)),
    (0x200800C8#32, 0, .fabs .lane 2 (.v 3)),
    (0x240420C2#32, 0, .fcmpLt .lane 1 0 2 (.v 3)),
    (0x200420C3#32, 0, .fmac .lane 1 2 (.v 3)),
    (0x20040244#32, 0, .fmad .lane 1 0 (.v 9)),
    (0x200C2F62#32, 0, .fmul .lane 3 2 (.imm 61)),
    (0x200C2332#32, 0, .fmul .lane 3 2 (.const 12)),
    (0x200C21C2#32, 0, .fmul .lane 3 2 (.v 7)),
    (0x28140101#32, 0, .frsq .lane 5 (.v 4)),
    (0x2C1820C2#32, 0, .hpfma .lane 6 2 (.v 3)),
    (0x34167960#32, 0, .movi .lane 5 162144)] = true := by decide +kernel

/-- Families whose words the rules do not print, in the R format (R25), field by field. -/
theorem test_words_of_the_r_format : reads [
    (rWord 0x01 2 5 2 61 2 10, 0, .iaddsat .set 5 2 (.imm 61)), (rWord 0x01 0 1 2 3 1 15, 0, .irsub .lane 1 2 (.s 3)),
    (rWord 0x02 0 1 2 63 3 10, 0x12345678, .rotr .lane 1 2 (.lit 0x12345678)), (rWord 0x03 0 1 2 62 3 2, 0, .bfi .lane 1 2 .ximm),
    (rWord 0x03 1 1 2 3 0 5, 0, .fshr .warp 1 2 (.v 3)), (rWord 0x05 0 4 6 2 2 5, 0, .lea8 .lane 4 6 (.imm 2)),
    (rWord 0x06 0 9 4 7 0 5, 0, .sel .lane 5 9 4 (.v 7)), (rWord 0x06 0 9 0 55 3 0, 0, .mov .lane 9 (.const 55)),
    (rWord 0x06 0 2 3 4 0 8, 0, .pand .lane 2 3 (.v 4)), (rWord 0x06 0 2 3 0 0 11, 0, .pnot .lane 2 3),
    (rWord 0x06 0 0 9 0 0 13, 0, .v2p .lane 9), (rWord 0x0A 0 9 0 4 0 7, 0, .ftanh .lane 9 (.v 4)),
    (rWord 0x0B 0 9 3 4 0 11, 0, .pkb2 .lane 9 3 (.v 4)), (rWord 0x0B 0 9 0 4 0 13, 0, .upkh .lane 9 (.v 4)),
    (rWord 0x0C 0 9 3 4 0 2, 0, .bdp2 .lane 9 3 (.v 4)), (rWord 0x17 0 0 3 1 2 4, 0, .cbinit .lane 3 (.imm 1)),
    (rWord 0x17 0 4 0 1 2 5, 0, .cbqry .lane 4 (.imm 1)), (rWord 0x1C 0 4 6 1 1 15, 0, .slea .lane 4 6 (.s 1)),
    (rWord 0x1C 3 4 6 1 1 8, 0, .ssar .block 4 6 (.s 1)), (rWord 0x22 0 3 8 6 1 1, 0, .hst .lane 3 8 (.s 6)),
    (rWord 0x22 0 3 8 6 2 2, 0, .hset .lane 3 8 (.imm 6)), (rWord 0x28 3 7 0 9 2 3, 0, .phq .block 7 0 (.imm 9)),
    (rWord 0x2D 0 8 2 16 1 1, 0, .texl .lane 8 2 (.s 16)), (rWord 0x2D 0 8 2 16 1 2, 0, .texg .lane 8 2 (.s 16)),
    (rWord 0x32 0 8 1 17 2 0, 0, .sread .lane 8 true 17), (rWord 0x32 0 0 5 24 2 1, 0, .swrite .lane 5 24),
    (rWord 0x33 3 0 0 0 0 2, 0, .join .block), (rWord 0x33 0 0 0 0 0 4, 0, .nprex .lane)] = true := by decide +kernel

/-- The layouts of their own: compares (R109: function, combine code and predicate in d), the I, B and T formats and the hint words
(R29, R33, R34, R36), VOTE and the accumulator words (R190, R254), and what no word may hold (R24). -/
theorem test_words_of_other_formats :
    reads [
      ((0x0E : BitVec 6) ++ (0 : BitVec 2) ++ (9 : BitVec 6) ++ (0x3FFFF : BitVec 18), 0, .smovi .lane 9 0x3FFFF),
      ((0x1A : BitVec 6) ++ (0 : BitVec 2) ++ (2 : BitVec 3) ++ (1 : BitVec 1) ++ (0xFFFFF : BitVec 20), 0, .br .lane 2 true 0xFFFFF),
      ((0x35 : BitVec 6) ++ (1 : BitVec 2) ++ (0 : BitVec 3) ++ (0 : BitVec 1) ++ (0x80000 : BitVec 20), 0, .call .warp 0 false 0x80000),
      ((0x23 : BitVec 6) ++ (1 : BitVec 2) ++ (4 : BitVec 3) ++ (2 : BitVec 2) ++ (3 : BitVec 4) ++ (9 : BitVec 4) ++ (17 : BitVec 6) ++
        (0x14 : BitVec 5), 0, .mmloop .warp 4 2 3 9 17 0x14),
      ((0x1F : BitVec 6) ++ (1 : BitVec 2) ++ (5 : BitVec 6) ++ (0 : BitVec 2) ++ (1 : BitVec 1) ++ (6 : BitVec 3) ++ (4 : BitVec 12), 0,
        .vcnt .warp 5 true 6),
      ((0x1F : BitVec 6) ++ (1 : BitVec 2) ++ (5 : BitVec 6) ++ (0 : BitVec 2) ++ (0 : BitVec 1) ++ (6 : BitVec 3) ++ (3 : BitVec 12), 0,
        .vuni .warp 5 false 6),
      ((0x25 : BitVec 6) ++ (1 : BitVec 2) ++ (9 : BitVec 6) ++ (0 : BitVec 1) ++ (1 : BitVec 2) ++ (4 : BitVec 3) ++ (5 : BitVec 6) ++
        (1 : BitVec 2) ++ (2 : BitVec 4), 0, .accwr .warp 9 4 1 (.s 5)),
      ((0x3E : BitVec 6) ++ (0 : BitVec 2) ++ (3 : BitVec 4) ++ (0 : BitVec 16) ++ (0xE : BitVec 4), 0, .xsched .lane 0xE),
      ((0x3E : BitVec 6) ++ (0 : BitVec 2) ++ (4 : BitVec 4) ++ (0 : BitVec 16) ++ (0xB : BitVec 4), 0, .xpred .lane 0xB)] = true ∧
    reads [(0x10084142, 0, .icmpLt .lane 2 0 4 (.v 5))] = true ∧
    decodeWord (rWord 0 0 0 0 0 0 0) 0 = none ∧ decodeWord (rWord 0x3F 0 0 0 0 0 0) 0 = none ∧
    decodeWord (rWord 0x06 0 2 3 0 0 14) 0 = none := by decide +kernel

/-! ## The bench -/

/-- A running context, launch and block, and one warp, number 1, at group address 0x1000 on core 0 in slot 0. -/
noncomputable def bench : State :=
  State.withCode { State.reset with fetch := { slot := 0, start := 0x1000, addr := 0x1000, next := 0x1004 }, hostLink := true, functions := 15 } []

/-- The bench with its warp changed. -/
noncomputable def rig (g : Warp → Warp) : State := bench.modWarp 1 g

/-- A warp with one value in every lane of each listed v register. -/
def withV (l : List (Nat × Word)) (w : Warp) : Warp := { w with v := l.foldl (fun v x => v.setIfInBounds x.1 (splat x.2)) w.v }

/-- A warp with the listed s registers. -/
def withS (l : List (Nat × Word)) (w : Warp) : Warp := { w with s := l.foldl (fun v x => v.setIfInBounds x.1 x.2) w.s }

/-- What holds of the state after an instruction or an event. -/
noncomputable def after (i : Instr) (s : State) (f : State → Bool) : Bool :=
  match exec i s with
  | .next t => f t
  | _ => false

noncomputable def warpIn (t : State) (f : Warp → Bool) : Bool := (t.warp? 1).any f

/-- A warp whose one split holds lane 5 alone. -/
def solo (w : Warp) : Warp := w.modSplit 0 fun x => { x with mask := 0x20 }

/-- The value in lane 5 of v1 after an instruction with x in v2, y in v3 and z in v1. -/
noncomputable def gives (i : Instr) (x y z r : Word) : Bool :=
  after i (rig fun w => solo (withV [(2, x), (3, y), (1, z)] w)) fun t => warpIn t fun w => laneOf (w.row 1) 5 == r

/-- The pair in lane 5 of v10:v11 after an instruction with X in v4:v5, y in v3 and D in v10:v11. -/
noncomputable def gives64 (i : Instr) (x : Dword) (y : Word) (r : Dword) : Bool :=
  after i (rig fun w => solo (withV [(4, loWord x), (5, hiWord x), (3, y), (2, y), (12, 9), (13, 0)] w)) fun t =>
    warpIn t fun w => laneOf64 (w.row64 10) 5 == r

/-- The predicate p2, in lane 5, after a compare of x in v2 and y in v3. -/
noncomputable def tells (i : Instr) (x y : Word) (r : Bool) : Bool :=
  after i (rig fun w => solo (withV [(2, x), (3, y)] w)) fun t => warpIn t fun w => (w.pred 2).getLsbD 5 == r

/-- s8 after an instruction with x in s6 and y in s7. -/
noncomputable def sums (i : Instr) (x y r : Word) : Bool :=
  after i (rig (withS [(6, x), (7, y)])) fun t => warpIn t fun w => w.sreg 8 == r

/-- The address at which a slot of the warp stands after an instruction. -/
noncomputable def standsAt (i : Instr) (s : State) (slot : Nat) (pc : Dword) : Bool :=
  after i s fun t => t.pcOf 1 slot == some pc

/-! ## Integers (R106 to R114) -/

theorem test_ialu :
    gives (.iadd .lane 1 2 (.v 3)) 0xFFFFFFFF 2 0 1 = true ∧ gives (.isub .lane 1 2 (.v 3)) 1 2 0 0xFFFFFFFF = true ∧
    gives (.imul .lane 1 2 (.v 3)) 0xFFFFFFFF 3 0 0xFFFFFFFD = true ∧ gives (.imulhi .lane 1 2 (.v 3)) 0xFFFFFFFF 3 0 0xFFFFFFFF = true ∧
    gives (.imulhiu .lane 1 2 (.v 3)) 0xFFFFFFFF 3 0 2 = true ∧ gives (.imin .lane 1 2 (.v 3)) 0xFFFFFFFF 1 0 0xFFFFFFFF = true ∧
    gives (.imax .lane 1 2 (.v 3)) 0xFFFFFFFF 1 0 1 = true ∧ gives (.iminu .lane 1 2 (.v 3)) 0xFFFFFFFF 1 0 1 = true ∧
    gives (.imaxu .lane 1 2 (.v 3)) 0xFFFFFFFF 1 0 0xFFFFFFFF = true ∧
    gives (.iabsd .lane 1 2 (.v 3)) 0x80000000 0x7FFFFFFF 0 0xFFFFFFFF = true ∧
    gives (.iaddsat .lane 1 2 (.v 3)) 0x7FFFFFFF 1 0 0x7FFFFFFF = true ∧
    gives (.isubsat .lane 1 2 (.v 3)) 0x80000000 1 0 0x80000000 = true ∧
    gives (.iaddsatu .lane 1 2 (.v 3)) 0xFFFFFFFF 2 0 0xFFFFFFFF = true ∧ gives (.isubsatu .lane 1 2 (.v 3)) 1 2 0 0 = true ∧
    gives (.iavgu .lane 1 2 (.v 3)) 0xFFFFFFFF 0xFFFFFFFE 0 0xFFFFFFFF = true ∧ gives (.irsub .lane 1 2 (.v 3)) 1 3 0 2 = true := by decide +kernel

theorem test_logic :
    gives (.and .lane 1 2 (.v 3)) 12 10 0 8 = true ∧ gives (.or .lane 1 2 (.v 3)) 12 10 0 14 = true ∧
    gives (.xor .lane 1 2 (.v 3)) 12 10 0 6 = true ∧ gives (.andn .lane 1 2 (.v 3)) 12 10 0 4 = true ∧
    gives (.orn .lane 1 2 (.v 3)) 12 10 0 0xFFFFFFFD = true ∧ gives (.xnor .lane 1 2 (.v 3)) 12 10 0 0xFFFFFFF9 = true ∧
    gives (.shl .lane 1 2 (.imm 0x3F)) 12 0 7 0 = true ∧ gives (.shr .lane 1 2 (.v 3)) 0x80000000 31 0 1 = true ∧
    gives (.sar .lane 1 2 (.v 3)) 0x80000000 40 0 0xFFFFFFFF = true ∧ gives (.rotl .lane 1 2 (.v 3)) 0x80000001 33 0 3 = true ∧
    gives (.rotr .lane 1 2 (.v 3)) 1 33 0 0x80000000 = true ∧ gives (.popc .lane 1 (.v 3)) 0 0xF0F0 0 8 = true ∧
    gives (.clz .lane 1 (.v 3)) 0 0 7 32 = true ∧ gives (.brev .lane 1 (.v 3)) 0 1 0 0x80000000 = true := by decide +kernel

/-- R108's own examples of BYSEL, and a field at the top of the word. -/
theorem test_bit_fields :
    gives (.bfxu .lane 1 2 (.v 3)) 0xABCD1234 0x0000281C 0 0xA = true ∧ gives (.bfxs .lane 1 2 (.v 3)) 0xABCD1234 0x0000041C 0 0xFFFFFFFA = true ∧
    gives (.bfi .lane 1 2 (.v 3)) 0x1F 0x00000404 0xFFFFFF0F 0xFFFFFFFF = true ∧
    gives (.bfi .lane 1 2 (.v 3)) 0x1F 0x00000404 0 0xF0 = true ∧
    gives (.bysel .lane 1 2 (.v 3)) 0x44332211 0xFAC 0x88776655 0x44332211 = true ∧
    gives (.bysel .lane 1 2 (.v 3)) 0x44332211 0xC018 0x88776655 0x00008855 = true ∧
    gives (.bysel .lane 1 2 (.v 3)) 0x44332211 0x1C018 0x88776655 0xFFFF8855 = true ∧
    gives (.fshl .lane 1 2 (.v 3)) 0x00000001 4 0xF0000000 0x0000001F = true ∧
    gives (.fshr .lane 1 2 (.v 3)) 0x00000003 4 0xF0000000 0x3F000000 = true := by decide +kernel

theorem test_integer_compares :
    tells (.icmpEq .lane 2 0 2 (.v 3)) 5 5 true = true ∧ tells (.icmpNe .lane 2 0 2 (.v 3)) 5 5 false = true ∧
    tells (.icmpLt .lane 2 0 2 (.v 3)) 0xFFFFFFFF 1 true = true ∧ tells (.icmpLe .lane 2 0 2 (.v 3)) 1 1 true = true ∧
    tells (.icmpGt .lane 2 0 2 (.v 3)) 0xFFFFFFFF 1 false = true ∧ tells (.icmpGe .lane 2 0 2 (.v 3)) 1 2 false = true ∧
    tells (.icmpLtu .lane 2 0 2 (.v 3)) 0xFFFFFFFF 1 false = true ∧ tells (.icmpLeu .lane 2 0 2 (.v 3)) 2 1 false = true ∧
    tells (.icmpGtu .lane 2 0 2 (.v 3)) 0xFFFFFFFF 1 true = true ∧ tells (.icmpGeu .lane 2 0 2 (.v 3)) 1 1 true = true ∧
    tells (.icmpEq .lane 2 1 2 (.v 3)) 5 5 false = true ∧ tells (.icmpEq .lane 2 2 2 (.v 3)) 5 5 true = true := by decide +kernel

/-- R110's own examples of LEA4, and the corners of the products. -/
theorem test_multiply_add :
    gives (.imac .lane 1 2 (.v 3)) 5 7 100 135 = true ∧ gives (.imad .lane 1 2 (.v 3)) 5 7 100 507 = true ∧
    gives64 (.lea .lane 10 4 (.v 3)) 0x00007F00FFFFFFF0 0xFFFFFFFF 0x00007F00FFFFFFEF = true ∧
    gives64 (.lea2 .lane 10 4 (.v 3)) 0x00007F00FFFFFFF0 8 0x00007F0100000000 = true ∧
    gives64 (.lea4 .lane 10 4 (.v 3)) 0x00007F00FFFFFFF0 4 0x00007F0100000000 = true ∧
    gives64 (.lea4 .lane 10 4 (.v 3)) 0x00007F00FFFFFFF0 0xFFFFFFFB 0x00007F00FFFFFFDC = true ∧
    gives64 (.lea8 .lane 10 4 (.v 3)) 16 0xFFFFFFFE 0 = true ∧ gives64 (.lea16 .lane 10 4 (.v 3)) 0 1 16 = true ∧
    gives64 (.iadd64 .lane 10 4 (.v 12)) 0xFFFFFFFFFFFFFFFF 0 8 = true ∧ gives64 (.isub64 .lane 10 4 (.v 12)) 0 0 0xFFFFFFFFFFFFFFF7 = true ∧
    gives64 (.imulw .lane 10 2 (.v 3)) 0 0x80000000 0x4000000000000000 = true := by decide +kernel

theorem test_moves :
    gives (.mov .lane 1 (.imm 0x20)) 0 0 0 0xFFFFFFE0 = true ∧ gives (.sel .lane 3 1 2 (.v 3)) 7 9 0 9 = true ∧
    gives (.p2v .lane 1) 0 0 0 1 = true ∧ gives (.movi .lane 1 0x3FFFF) 0 0 0 0xFFFFFFFF = true ∧
    after (.pand .lane 2 0 (.v 0)) bench (fun t => warpIn t fun w => w.pred 2 == 0xFFFFFFFF#32) = true ∧
    after (.por .lane 2 1 (.v 3)) bench (fun t => warpIn t fun w => w.pred 2 == 0) = true ∧
    after (.pxor .lane 2 0 (.v 1)) bench (fun t => warpIn t fun w => w.pred 2 == 0xFFFFFFFF#32) = true ∧
    after (.pnot .lane 0 0) bench (fun t => warpIn t fun w => w.pred 0 == 0xFFFFFFFF#32) = true ∧
    after (.v2p .lane 2) (rig (withV [(2, 0xFFFFFF81)])) (fun t => warpIn t fun w => w.pred 7 == 0xFFFFFFFF#32 && w.pred 1 == 0) = true := by
  decide +kernel

theorem test_scalars :
    sums (.sadd .lane 8 6 (.s 7)) 0xFFFFFFFF 2 1 = true ∧ sums (.ssub .lane 8 6 (.imm 1)) 0 0 0xFFFFFFFF = true ∧
    sums (.smul .lane 8 6 (.s 7)) 0xFFFFFFFF 3 0xFFFFFFFD = true ∧ sums (.sand .lane 8 6 (.s 7)) 12 10 8 = true ∧
    sums (.sor .lane 8 6 (.s 7)) 12 10 14 = true ∧ sums (.sxor .lane 8 6 (.s 7)) 12 10 6 = true ∧
    sums (.sshl .lane 8 6 (.s 7)) 1 32 0 = true ∧ sums (.sshr .lane 8 6 (.s 7)) 0x80000000 4 0x08000000 = true ∧
    sums (.ssar .lane 8 6 (.s 7)) 0x80000000 4 0xF8000000 = true ∧ sums (.smin .lane 8 6 (.s 7)) 0xFFFFFFFF 1 0xFFFFFFFF = true ∧
    sums (.smax .lane 8 6 (.s 7)) 0xFFFFFFFF 1 1 = true ∧ sums (.sminu .lane 8 6 (.s 7)) 0xFFFFFFFF 1 1 = true ∧
    sums (.smaxu .lane 8 6 (.s 7)) 0xFFFFFFFF 1 0xFFFFFFFF = true ∧ sums (.smov .lane 8 (.lit 0x12345678)) 0 0 0x12345678 = true ∧
    sums (.sadd64 .lane 8 6 (.imm 0x3F)) 0 1 0xFFFFFFFF = true ∧ sums (.slea .lane 8 6 (.imm 0x3F)) 0 1 0xFFFFFFFF = true ∧
    sums (.smovi .lane 8 0x20000) 0 0 0xFFFE0000 = true := by decide +kernel

/-- SCMP writes live lanes only, and combines by OR and AND. -/
theorem test_scalar_compares :
    after (.scmpLt .lane 2 0 6 (.s 7)) (rig (withS [(6, 0xFFFFFFFF), (7, 1)])) (fun t => warpIn t fun w => w.pred 2 == 0xFFFFFFFF#32) = true ∧
    after (.scmpLtu .lane 2 0 6 (.s 7)) (rig (withS [(6, 0xFFFFFFFF), (7, 1)])) (fun t => warpIn t fun w => w.pred 2 == 0) = true ∧
    after (.scmpGe .lane 2 1 6 (.s 7)) (rig (withS [(6, 2), (7, 1)])) (fun t => warpIn t fun w => w.pred 2 == 0) = true ∧
    after (.scmpEq .lane 2 2 6 (.s 7)) (rig (withS [(6, 2), (7, 2)])) (fun t => warpIn t fun w => w.pred 2 == 0xFFFFFFFF#32) = true := by decide +kernel

/-! ## Floats (R148 to R155) -/

theorem test_falu :
    gives (.fadd .lane 1 2 (.v 3)) 0x3FC00000 0x40100000 0 0x40700000 = true ∧
    gives (.fadd .lane 1 2 (.v 3)) 0x3F800000 0x33800000 0 0x3F800000 = true ∧
    gives (.fsub .lane 1 2 (.v 3)) 0x3F800000 0x3F800000 7 0 = true ∧
    gives (.fmul .lane 1 2 (.imm 0x3D)) 0x3F000000 0 0 0xBFC00000 = true ∧
    gives (.fmac .lane 1 2 (.v 3)) 0x40000000 0x40400000 0x3F800000 0x40E00000 = true ∧
    gives (.fmad .lane 1 2 (.v 3)) 0x40000000 0x40400000 0x3F800000 0x40A00000 = true ∧
    gives (.fmns .lane 1 2 (.v 3)) 0x40000000 0x40400000 0x3F800000 0xC0A00000 = true ∧
    gives (.fmin .lane 1 2 (.v 3)) 0 0x80000000 0 0x80000000 = true ∧ gives (.fmax .lane 1 2 (.v 3)) 0x7FC00000 0x3F800000 0 0x3F800000 = true ∧
    gives (.fabs .lane 1 (.v 3)) 0 0xBF800000 0 0x3F800000 = true ∧ gives (.fneg .lane 1 (.v 3)) 0 0x3F800000 0 0xBF800000 = true ∧
    gives (.fsat .lane 1 (.v 3)) 0 0x7FC00000 7 0 = true ∧ gives (.fsat .lane 1 (.v 3)) 0 0x40000000 0 0x3F800000 = true ∧
    gives (.ffloor .lane 1 (.v 3)) 0 0xBF000000 0 0xBF800000 = true ∧ gives (.fceil .lane 1 (.v 3)) 0 0xBF000000 0 0x80000000 = true ∧
    gives (.ftrunc .lane 1 (.v 3)) 0 0x40300000 0 0x40000000 = true ∧ gives (.frint .lane 1 (.v 3)) 0 0x40200000 0 0x40000000 = true ∧
    gives (.fcsgn .lane 1 2 (.v 3)) 0x40000000 0xBF800000 0 0xC0000000 = true := by decide +kernel

/-- The special inputs of R152 and one rounded value of each function. -/
theorem test_special_functions :
    gives (.frcp .lane 1 (.v 3)) 0 0x40400000 0 0x3EAAAAAB = true ∧ gives (.frcp .lane 1 (.v 3)) 0 0x80000000 0 0xFF800000 = true ∧
    gives (.frsq .lane 1 (.v 3)) 0 0x40400000 0 0x3F13CD3A = true ∧ gives (.fsqrt .lane 1 (.v 3)) 0 0x40000000 0 0x3FB504F3 = true ∧
    gives (.fsqrt .lane 1 (.v 3)) 0 0x80000000 0 0x80000000 = true ∧
    gives (.fexp2 .lane 1 (.v 3)) 0 0xC3150000 0 0x00000001 = true ∧ gives (.fexp2 .lane 1 (.v 3)) 0 0x3F000000 0 0x3FB504F3 = true ∧
    gives (.flog2 .lane 1 (.v 3)) 0 0x41000000 0 0x40400000 = true ∧ gives (.flog2 .lane 1 (.v 3)) 0 0x40400000 0 0x3FCAE00D = true ∧
    gives (.fsint .lane 1 (.v 3)) 0 0x3E800000 0 0x3F3504F3 = true ∧ gives (.fsint .lane 1 (.v 3)) 0 0xC0400000 0 0x80000000 = true ∧
    gives (.fcost .lane 1 (.v 3)) 0 0x3F800000 0 0xBF800000 = true ∧ gives (.fcost .lane 1 (.v 3)) 0 0x40200000 7 0 = true ∧
    gives (.ftanh .lane 1 (.v 3)) 0 0x3F800000 0 0x3F42F7D6 = true ∧ gives (.ftanh .lane 1 (.v 3)) 0 0xFF800000 0 0xBF800000 = true := by
  decide +kernel

theorem test_float_compares :
    tells (.fcmpEq .lane 2 0 2 (.v 3)) 0x80000000 0 true = true ∧ tells (.fcmpNe .lane 2 0 2 (.v 3)) 0x7FC00000 0 true = true ∧
    tells (.fcmpLt .lane 2 0 2 (.v 3)) 0xBF800000 0x3F800000 true = true ∧ tells (.fcmpLe .lane 2 0 2 (.v 3)) 0x7FC00000 0x3F800000 false = true ∧
    tells (.fcmpGt .lane 2 0 2 (.v 3)) 0x7F800000 0x3F800000 true = true ∧ tells (.fcmpGe .lane 2 0 2 (.v 3)) 0x3F800000 0x3F800000 true = true ∧
    tells (.fcmpUn .lane 2 0 2 (.v 3)) 0x7FC00000 0 true = true ∧ tells (.fcmpOr .lane 2 0 2 (.v 3)) 0 0x7FC00000 false = true := by decide +kernel

theorem test_packed :
    gives (.hpadd .lane 1 2 (.v 3)) 0x40003C00 0x3C003C00 0 0x42004000 = true ∧
    gives (.hpmul .lane 1 2 (.v 3)) 0x40003C00 0x40003C00 0 0x44003C00 = true ∧
    gives (.hpfma .lane 1 2 (.v 3)) 0x40003C00 0x3C003C00 0x3C004000 0x42004200 = true ∧
    gives (.hpmin .lane 1 2 (.v 3)) 0x40003C00 0x3C004000 0 0x3C003C00 = true ∧
    gives (.hpmax .lane 1 2 (.v 3)) 0x40003C00 0x3C004000 0 0x40004000 = true ∧
    gives (.bpadd .lane 1 2 (.v 3)) 0x40003F80 0x3F803F80 0 0x40404000 = true ∧
    gives (.bpmul .lane 1 2 (.imm 2)) 0x40003F80 0 0 0x40804000 = true ∧
    gives (.bpfma .lane 1 2 (.v 3)) 0x40003F80 0x3F803F80 0x3F803F80 0x40404000 = true ∧
    gives (.bpmin .lane 1 2 (.v 3)) 0x40003F80 0x3F804000 0 0x3F803F80 = true ∧
    gives (.bpmax .lane 1 2 (.v 3)) 0x40003F80 0x3F804000 0 0x40004000 = true ∧
    gives (.pk2 .lane 1 2 (.v 3)) 0x3F800000 0x40000000 0 0x40003C00 = true ∧
    gives (.pkb2 .lane 1 2 (.v 3)) 0x3F800000 0x40000000 0 0x40003F80 = true ∧
    gives (.upkl .lane 1 (.v 3)) 0 0x40003C00 0 0x3F800000 = true ∧ gives (.upkh .lane 1 (.v 3)) 0 0x40003C00 0 0x40000000 = true := by decide +kernel

theorem test_dot_products :
    gives (.idp4 .lane 1 2 (.v 3)) 0xFF010203 0x01010101 10 15 = true ∧ gives (.idp4u .lane 1 2 (.v 3)) 0xFF010203 0x01010101 10 271 = true ∧
    gives (.bdp2 .lane 1 2 (.v 3)) 0x40003F80 0x3F803F80 0x3F800000 0x40800000 = true ∧
    gives (.edp4 .lane 1 2 (.v 3)) 0x38383838 0x38383838 0x3F800000 0x40A00000 = true ∧
    gives (.dsdp4 .lane 1 2 (.v 3)) 0x01010101 0x38383838 0x3F800000 0x40E00000 = true := by decide +kernel

/-- The examples of R79 and R89 among them. -/
theorem test_conversions :
    gives (.cvt .lane 1 2 0x01 false 0) 0x3F800000 0 0 0x3C00 = true ∧ gives (.cvt .lane 1 2 0x02 false 0) 0x3F800000 0 0 0x3F80 = true ∧
    gives (.cvt .lane 1 2 0x03 false 0) 0xFFFF3C00 0 0 0x3F800000 = true ∧ gives (.cvt .lane 1 2 0x04 false 0) 0x3F80 0 0 0x3F800000 = true ∧
    gives (.cvt .lane 1 2 0x05 true 0) 0x7F800000 0 0 0x7E = true ∧ gives (.cvt .lane 1 2 0x05 false 0) 0x7F800000 0 0 0x7F = true ∧
    gives (.cvt .lane 1 2 0x06 false 0) 0x3F800000 0 0 0x3C = true ∧ gives (.cvt .lane 1 2 0x07 false 0) 0x38 0 0 0x3F800000 = true ∧
    gives (.cvt .lane 1 2 0x08 false 0) 0x3C 0 0 0x3F800000 = true ∧ gives (.cvt .lane 1 2 0x09 false 0) 0x3FE00000 0 0 0x01 = true ∧
    gives (.cvt .lane 1 2 0x09 false 0) 0x3F400000 0 0 0x0A = true ∧ gives (.cvt .lane 1 2 0x0A false 0) 0x01 0 0 0x3FC00000 = true ∧
    gives (.cvt .lane 1 2 0x10 false 1) 0xBFC00000 0 0 0xFFFFFFFF = true ∧ gives (.cvt .lane 1 2 0x10 false 0) 0x7F800000 0 0 0x7FFFFFFF = true ∧
    gives (.cvt .lane 1 2 0x11 false 0) 0xBF800000 0 7 0 = true ∧ gives (.cvt .lane 1 2 0x12 false 0) 0xFFFFFFFF 0 0 0xBF800000 = true ∧
    gives (.cvt .lane 1 2 0x13 false 0) 0xFFFFFFFF 0 0 0x4F800000 = true ∧
    gives64 (.cvt .lane 10 4 0x14 false 0) 0xBF800000 0 0xFFFFFFFFFFFFFFFF = true ∧
    gives64 (.cvt .lane 10 4 0x15 false 0) 0x5F000000 0 0x8000000000000000 = true ∧
    gives64 (.cvt .lane 10 4 0x16 false 0) 0xFFFFFFFFFFFFFFFF 0 0xBF800000 = true ∧
    gives64 (.cvt .lane 10 4 0x17 false 0) 0x8000000000000000 0 0x5F000000 = true ∧
    gives (.cvt .lane 1 2 0x20 true 0) 200 0 0 127 = true ∧ gives (.cvt .lane 1 2 0x20 false 0) 200 0 0 0xFFFFFFC8 = true ∧
    gives (.cvt .lane 1 2 0x21 false 0) 0xFFFFFFFB 0 0 251 = true ∧ gives (.cvt .lane 1 2 0x22 true 0) 40000 0 0 32767 = true ∧
    gives (.cvt .lane 1 2 0x23 false 0) 0xFFFFFFFF 0 0 0xFFFF = true ∧ gives (.cvt .lane 1 2 0x24 false 0) 8 0 0 0xFFFFFFF8 = true ∧
    gives (.cvt .lane 1 2 0x25 true 0) 300 0 0 255 = true ∧ gives (.cvt .lane 1 2 0x26 true 0) 70000 0 0 65535 = true := by decide +kernel

/-! ## Lanes, control and traps -/

/-- A warp with 100 + i in lane i of v2, and p3 true in the low half. -/
def ranks (w : Warp) : Warp :=
  { w with v := w.v.setIfInBounds 2 (rowOf fun i => BitVec.ofNat 32 (100 + i)), p := w.p.setIfInBounds 3 0xFFFF }

/-- The value in a lane of v1 after an instruction on that warp. -/
noncomputable def laneIs (i : Instr) (lane : Nat) (r : Word) : Bool :=
  after i (rig ranks) fun t => warpIn t fun w => laneOf (w.row 1) lane == r

theorem test_shuffles :
    laneIs (.shflIdx .warp 1 2 (.imm 3)) 9 103 = true ∧ laneIs (.shflUp .warp 1 2 (.imm 1)) 5 104 = true ∧
    laneIs (.shflUp .warp 1 2 (.imm 1)) 0 100 = true ∧ laneIs (.shflDown .warp 1 2 (.imm 1)) 31 131 = true ∧
    laneIs (.shflDown .warp 1 2 (.imm 1)) 5 106 = true ∧ laneIs (.shflXor .warp 1 2 (.imm 1)) 5 104 = true ∧
    laneIs (.shflBcast .warp 1 2 (.imm 7)) 20 107 = true := by decide +kernel

theorem test_votes :
    after (.vall .warp 2 false 3) (rig ranks) (fun t => warpIn t fun w => w.pred 2 == 0) = true ∧
    after (.vany .warp 2 false 3) (rig ranks) (fun t => warpIn t fun w => w.pred 2 == 0xFFFFFFFF#32) = true ∧
    after (.vuni .warp 2 false 0) (rig ranks) (fun t => warpIn t fun w => w.pred 2 == 0xFFFFFFFF#32) = true ∧
    laneIs (.vbal .warp 1 true 3) 7 0xFFFF0000 = true ∧ laneIs (.vcnt .warp 1 false 3) 30 16 = true := by decide +kernel

theorem test_reductions :
    laneIs (.lredIadd .warp 1 2) 0 3696 = true ∧ laneIs (.lredImin .warp 1 2) 31 100 = true ∧ laneIs (.lredImax .warp 1 2) 0 131 = true ∧
    laneIs (.lredAnd .warp 1 2) 0 0 = true ∧ laneIs (.lredOr .warp 1 2) 0 255 = true ∧ laneIs (.lredXor .warp 1 2) 0 0 = true := by
  decide +kernel

theorem test_scans :
    laneIs (.lscanIadd .warp 1 2) 3 406 = true ∧ laneIs (.lscanExclIadd .warp 1 2) 3 303 = true ∧
    laneIs (.lscanImin .warp 1 2) 3 100 = true ∧ laneIs (.lscanExclImin .warp 1 2) 0 0x7FFFFFFF = true ∧
    laneIs (.lscanImax .warp 1 2) 3 103 = true ∧ laneIs (.lscanExclImax .warp 1 2) 0 0x80000000 = true ∧
    laneIs (.lscanAnd .warp 1 2) 1 100 = true ∧ laneIs (.lscanExclAnd .warp 1 2) 0 0xFFFFFFFF = true ∧
    laneIs (.lscanOr .warp 1 2) 1 101 = true ∧ laneIs (.lscanExclOr .warp 1 2) 0 0 = true ∧
    laneIs (.lscanXor .warp 1 2) 1 1 = true ∧ laneIs (.lscanExclXor .warp 1 2) 2 1 = true := by decide +kernel

/-- Ones in every lane of v2: exact sums, and the identities of R191. -/
theorem test_float_reductions :
    let s := rig (withV [(2, 0x3F800000)])
    let is : Instr → Nat → Word → Bool := fun i l r => after i s fun t => warpIn t fun w => laneOf (w.row 1) l == r
    is (.lredFadd .warp 1 2) 0 0x42000000 = true ∧ is (.lredFmin .warp 1 2) 0 0x3F800000 = true ∧ is (.lredFmax .warp 1 2) 9 0x3F800000 = true ∧
    is (.lscanFadd .warp 1 2) 3 0x40800000 = true ∧ is (.lscanExclFadd .warp 1 2) 0 0x80000000 = true ∧
    is (.lscanFmin .warp 1 2) 3 0x3F800000 = true ∧ is (.lscanFmax .warp 1 2) 0 0x3F800000 = true ∧
    is (.lscanExclFmin .warp 1 2) 0 0x7F800000 = true ∧ is (.lscanExclFmax .warp 1 2) 0 0xFF800000 = true := by decide +kernel

/-- A taken branch goes to address + 4 + 4 times its displacement; where the lanes differ the split divides, the taken lanes keep the
slot; CALL pushes the address of its word plus 4. -/
theorem test_branches :
    standsAt (.br .lane 0 false 3) bench 0 0x1010 = true ∧ standsAt (.br .lane 0 true 3) bench 0 0x1004 = true ∧
    standsAt (.br .lane 0 false 0xFFFFF) bench 0 0x1000 = true ∧
    standsAt (.br .lane 3 false 3) (rig ranks) 0 0x1010 = true ∧ standsAt (.br .lane 3 false 3) (rig ranks) 1 0x1004 = true ∧
    standsAt (.call .lane 0 false 3) bench 0 0x1010 = true ∧
    after (.call .lane 0 false 3) bench (fun t => warpIn t fun w => w.stack 7 == [0x1004]) = true ∧
    standsAt (.brx .lane (.s 6)) (rig (withS [(6, 0x2000)])) 0 0x2000 = true ∧
    standsAt (.callx .lane (.v 4)) (rig (withV [(4, 0x3000)])) 0 0x3000 = true ∧
    standsAt (.ret .lane) (rig fun w => { w with rstack := Vector.ofFn fun _ => [0x4000] }) 0 0x4000 = true := by decide +kernel

theorem test_control :
    standsAt (.nop .lane) bench 0 0x1004 = true ∧ standsAt (.nop .warp) bench 0 0x1004 = true ∧ standsAt (.yield .lane) bench 0 0x1004 = true ∧
    after (.exit .lane) bench (fun t => (t.warp? 1).all fun w => w.mode == .ended || w.exited == 0xFFFFFFFF#32) = true := by decide +kernel

/-- Each hint joins the pending hints with its kind (R36 to R42). -/
theorem test_hints :
    let has : Instr → Nat → BitVec 20 → Bool := fun i k p =>
      after i bench fun t => warpIn t fun w => (w.split? 0).any fun x => hintOf x.hints k == some p
    has (.ximm .lane 7) 0 7 = true ∧ has (.xreg .lane 1) 1 1 = true ∧ has (.xmod .lane 0x20) 2 0x20 = true ∧
    has (.xsched .lane 3) 3 3 = true ∧ has (.xpred .lane 9) 4 9 = true := by decide +kernel

/-- LANEID (0) differs by lane and MASK (24) is read back as written; FPC (50) is written in handler mode (R123, R124, R209). -/
theorem test_special_registers :
    after (.sread .lane 1 false 0) bench (fun t => warpIn t fun w => laneOf (w.row 1) 13 == 13) = true ∧
    after (.sread .lane 8 true 24) bench (fun t => warpIn t fun w => w.sreg 8 == 0xFFFFFFFF#32) = true ∧
    after (.swrite .lane 6 24) (rig (withS [(6, 0x0F0F)])) (fun t => warpIn t fun w => w.mask == 0x0F0F) = true ∧
    after (.swrite .lane 6 50) (rig fun w => { withS [(6, 0x1800)] w with mode := .handler })
      (fun t => warpIn t fun w => w.fpc == 0x1800 && w.fpcWritten) = true := by decide +kernel

/-- Taking a cause with a handler: the warp is in handler mode at the handler's address, FPC holds the group and CAUSE the code in bits
[5:0] (R204, R205); without one the context is killed and recorded (R208). -/
theorem test_traps :
    let s := bench.modCtx 0 1 fun c => { c with handler := 0x8000 }
    let in_ : Instr → Nat → Bool := fun i code => after i s fun t => warpIn t fun w =>
      w.mode == .handler && w.fpc == 0x1000 && (w.cause.toNat % 64 == code) && t.pcOf 1 0 == some 0x8000
    in_ (.trap .lane 5) 11 = true ∧ in_ (.bkpt .lane 0) 10 = true ∧ in_ (.sadd .lane 8 6 (.v 7)) 1 = true ∧
    in_ (.halt .lane) 5 = true ∧ in_ (.shflIdx .lane 1 2 (.v 3)) 2 = true ∧
    after (.trap .lane 5) bench (fun t => (t.ctx? 0 1).any fun c => c.state == .killed) = true := by decide +kernel

/-- ERET outside a handler is PRIVILEGED (R51); in one it returns to the frame, after the group for SKIP, at it for REPLAY. -/
theorem test_eret :
    (let s := bench.modCtx 0 1 fun c => { c with handler := 0x8000 }
     match exec (.trap .lane 5) s with
     | .next t =>
       let u : State := { t with fetch := { slot := 0, start := 0x8000, addr := 0x8000, next := 0x8004 } }
       standsAt (.eret .lane 2) u 0 0x1004 && standsAt (.eret .lane 1) u 0 0x1000 &&
         after (.eret .lane 2) u (fun v => warpIn v fun w => w.mode == .normal) &&
         after (.eret .lane 2) s (fun v => warpIn v fun w => w.cause.toNat % 64 == 5)
     | _ => false) = true := by decide +kernel

/-- HALT in a handler writes the host record and kills its context. -/
theorem test_halt :
    after (.halt .lane) (rig fun w => { w with mode := .handler }) (fun t => (t.ctx? 0 1).any fun c => c.state == .killed) = true := by
  decide +kernel

/-! ## The desk: a bench with a readable and writable page, a scratchpad allocation and a window slot -/

/-- The leaf of the data page at 0x2000: local memory, SPREAD, readable and writable (R382). -/
def dataPte : Dword := BitVec.ofNat 64 (0x2000 + 0xC5)

/-- An IMPORT slot 1 whose source counter is 5, and a HOSTED slot 2 whose destination counter is 9. -/
def slotOne : WinSlot :=
  { slot := 1, kind := 1, handle := 0, len := 4096, revoked := false, src := 5, srcOvf := false, dst := 0, dstOvf := false }
def slotTwo : WinSlot :=
  { slot := 2, kind := 2, handle := 0, len := 4096, revoked := false, src := 0, srcOvf := false, dst := 9, dstOvf := false }

/-- The bench with that page, its bytes 0, 8, 16, … up to 248, allocation 0 of 4096 bytes and a circular buffer record. -/
noncomputable def desk : State :=
  let s := bench.modLaunch 1 fun l => { l with scratch := l.scratch.setIfInBounds 0 4096, entry := 0x1000 }
  let s := s.modCtx 0 1 fun c => { c with wins := [slotOne, slotTwo] }
  let e : TlbEntry := { field := 0, ctx := 1, page := 2, pte := dataPte, core := none }
  { s with tlb := e :: s.tlb, mem := memWrite s.mem (physKey 0 0 0x2000) ((List.range 32).map fun i => BitVec.ofNat 8 (8 * i)) }

/-- The desk with its warp changed. -/
noncomputable def deskW (g : Warp → Warp) : State := desk.modWarp 1 g

/-- The checks of an instruction pass in a state, and the machine and the job they give have a property. -/
noncomputable def meets (s : State) (m : Meta) (f : State → Job → Bool) : Bool :=
  match s.judge m with
  | .go s' j => f s' j
  | _ => false

/-- A value was got. -/
def got {α : Type} (g : Got α) (f : α → Bool) : Bool :=
  match g with
  | .ok x => f x
  | _ => false

/-- Addresses 0x2000 + 4 i in v4:v5, 0x2000 in s12:s13. -/
def pointing (w : Warp) : Warp :=
  withS [(12, 0x2000)] { w with v := (w.v.setIfInBounds 4 (rowOf fun i => BitVec.ofNat 32 (0x2000 + 4 * i))).setIfInBounds 5 (splat 0) }

/-- An LD joins the loads class with a pending operation, whose completion writes its lane's four bytes in little-endian order. -/
theorem test_load :
    after (.ld .lane 8 4 7 2 false false) (deskW fun w => solo (pointing w)) (fun t => warpIn t fun w =>
      w.loads.length == 1 && laneOf (w.row 8) 5 == 0) = true ∧
    after (.ld .lane 8 4 7 2 false false) (deskW fun w => solo (pointing w)) (fun t =>
      after (.loadComplete 1 0) t fun u => warpIn u fun w => laneOf (w.row 8) 5 == 0xB8B0A8A0 && w.loads.length == 0) = true ∧
    after (.ld .lane 8 4 7 0 true false) (deskW fun w => solo (withV [(4, 0x2010), (5, 0)] w)) (fun t =>
      after (.loadComplete 1 0) t fun u => warpIn u fun w => laneOf (w.row 8) 5 == 0xFFFFFF80) = true := by decide +kernel

/-- A ST joins the store queue and changes no byte of memory; its drain takes it out. -/
theorem test_store :
    after (.st .lane 8 4 7 2 false false) (deskW fun w => solo (pointing w)) (fun t =>
      (warpIn t fun w => w.sq.length == 1) && t.readByte (physKey 0 0 0x2004) == 0x20) = true ∧
    after (.st .lane 8 4 7 2 false false) (deskW fun w => solo (pointing w)) (fun t =>
      after (.storeDrain 1) t fun u => warpIn u fun w => w.sq.length == 0) = true ∧
    after (.hst .lane 1 12 (.s 7)) (deskW fun w => solo (pointing w)) (fun t => warpIn t fun w => w.sq.length == 1) = true ∧
    after (.flushv .lane 12 (.imm 4)) (deskW fun w => solo (pointing w)) (fun t => warpIn t fun w => w.sq.length == 1) = true := by decide +kernel

/-- A misaligned lane is ALIGNMENT (23); a page without a leaf entry is TRANSLATION_MISS (18) once its walk has ended, and a store to a
read-only page is a WRITE fault (20), each with the address in FADDR. -/
theorem test_access_causes :
    let s := (deskW fun w => solo (pointing w)).modCtx 0 1 fun c => { c with handler := 0x8000 }
    let ld : Instr := .ld .lane 8 4 7 2 false false
    let caused : Nat → Dword → State → Bool := fun c a t => warpIn t fun w => w.cause.toNat % 64 == c && w.faddr == a
    after ld (s.modWarp 1 (withV [(4, 0x2002)])) (caused 23 0x2002) = true ∧
    after ld (s.modWarp 1 (withV [(4, 0x5000)])) (fun t => warpIn t (fun w => w.mode == .normal) && after (.pageWalk 0 1 0x5000) t fun u =>
      after ld u (caused 18 0x5000)) = true ∧
    after (.st .lane 8 4 7 2 false false) (s.modWarp 1 (withV [(4, 0x1000)])) (caused 20 0x1000) = true := by decide +kernel

/-- STS then LDS at the same offset; an offset past the allocation is SCRATCH_RANGE (24). -/
theorem test_scratchpad :
    after (.sts .lane 8 3 0 2 false) (deskW fun w => solo (withV [(8, 0x11223344), (3, 64)] w)) (fun t =>
      after (.lds .lane 9 3 0 1 false) t fun u => warpIn u fun w => laneOf (w.row 9) 5 == 0x3344) = true ∧
    after (.lds .lane 9 3 0 2 false) ((deskW (withV [(3, 4094)])).modCtx 0 1 fun c => { c with handler := 0x8000 })
      (fun t => warpIn t fun w => w.cause.toNat % 64 == 24) = true := by decide +kernel

/-- An integer add at memory: one request for the line, applied in lane order, returning the old values. -/
theorem test_atomic :
    after (.atomAadd .lane 8 4 6 false) (deskW fun w => solo (withV [(4, 0x2010), (5, 0), (6, 2)] w)) (fun t =>
      t.areqs.length == 1 && (match t.areqs.head? with
        | some r => after (.atomicApply r.id) t fun u =>
            u.readNat (physKey 0 0 0x2010) 4 == 0x98908882 && after (.atomicReturn r.id) u fun v => warpIn v fun w =>
              laneOf (w.row 8) 5 == 0x98908880
        | none => false)) = true ∧
    after (.redAadd .lane 4 6 false) (deskW fun w => solo (withV [(4, 0x2010), (5, 0), (6, 2)] w)) (fun t =>
      t.areqs.length == 1 && warpIn t fun w => w.stores.length == 1 && w.loads.length == 0) = true := by decide +kernel

/-- Buffer 3 of 2 slots of 64 bytes, with its counters and claims. -/
def buffer (free resv filled rd wr : Nat) (claims : List (Bool × Bool)) : Cbuf :=
  { init := true, record := 0x02001000, free := free, resv := resv, filled := filled, rd := rd, wr := wr, claims := claims }

/-- The desk with that buffer, and s6 holding its record. -/
noncomputable def deskB (c : Cbuf) : State :=
  (deskW (fun w => solo (withS [(6, 0x02001000)] w))).modBlock 1 fun b => { b with cbufs := b.cbufs.setIfInBounds 3 c }

/-- CBINIT, CBRSV, CBCMT, CBWAIT, CBPOP and CBQRY on that buffer (R140, R141). -/
theorem test_circular_buffer :
    let buf : State → Cbuf → Bool := fun t c => (t.block? 1).any fun b => b.cbufs[3]? == some c
    after (.cbinit .lane 6 (.imm 3)) (deskB noCbuf) (fun t => buf t (buffer 2 0 0 0 0 [])) = true ∧
    after (.cbrsv .lane 8 (.imm 3)) (deskB (buffer 1 0 1 0 1 []))
      (fun t => buf t (buffer 0 1 1 0 0 [(true, false)]) && warpIn t fun w => laneOf (w.row 8) 5 == 64) = true ∧
    after (.cbcmt .lane (.imm 3)) (deskB (buffer 0 1 1 0 0 [(true, false)])) (fun t => buf t (buffer 0 0 2 0 0 [])) = true ∧
    after (.cbwait .lane 8 (.imm 3)) (deskB (buffer 1 0 1 1 0 [])) (fun t => warpIn t fun w => laneOf (w.row 8) 5 == 64) = true ∧
    after (.cbpop .lane (.imm 3)) (deskB (buffer 1 0 1 1 0 [])) (fun t => buf t (buffer 2 0 0 0 0 [])) = true ∧
    after (.cbqry .lane 8 (.imm 3)) (deskB (buffer 1 0 1 1 0 [])) (fun t => warpIn t fun w => laneOf (w.row 8) 5 == 0x01000101) = true := by
  decide +kernel

/-- FENCE, INVL1 and WAIT with nothing outstanding complete at once. -/
theorem test_fences :
    ([Instr.fenceAcq .lane 1, .fenceRel .lane 2, .fenceFull .lane 3, .invl1 .lane, .wait .lane 0 0 0 0].all fun i =>
      standsAt i desk 0 0x1004) = true := by decide +kernel

/-- The counters of an IMPORT slot at its source and of a HOSTED slot at its destination (selector bit 16); the other reads 0; WCRST clears one. -/
theorem test_window_counters :
    after (.wcrd .lane 8 (.s 6)) (deskW (withS [(6, 0x10002)])) (fun t => warpIn t fun w => w.sreg 8 == 9) = true ∧
    after (.wcrd .lane 8 (.s 6)) (deskW (withS [(6, 1)])) (fun t => warpIn t fun w => w.sreg 8 == 5) = true ∧
    standsAt (.wcwait .lane 7 (.s 6)) (deskW (withS [(6, 1), (7, 5)])) 0 0x1004 = true ∧
    after (.wcrst .lane (.s 6)) (deskW (withS [(6, 1)])) (fun t => (t.ctx? 0 1).any fun c => c.wins.all fun x => x.src == 0) = true := by
  decide +kernel

/-! ## Witnesses: the premises of the statements are met -/

/-- The checks pass and operand b is read. -/
noncomputable def ready (s : State) (m : Meta) (k : ImmRow) (b : Opb) : Bool := meets s m fun s' j => got (s'.operand j k b) fun _ => true

/-- The bench in a context that enables every floating exception, with lane 5 alone, 1.0 in v2 and v3 and 0 in v1. -/
noncomputable def strict : State :=
  (rig fun w => solo (withV [(2, 0x3F800000), (3, 0x3F800000), (1, 0)] w)).modCtx 0 1 fun c => { c with fpxen := 0x1F }

/-- The checks pass, operand b is read and no lane's computation raises what the context enables. -/
noncomputable def quiet (m : Meta) (k : ImmRow) (f : Job → Word → Word → Word → Word × Fx) : Bool :=
  meets strict m fun s' j => got (s'.operand j k (.v 3)) fun y => (lanesOf j.live).all fun n =>
    (f j (laneOf (j.w.row j.a) n) (laneOf y n) (laneOf (j.w.row j.d) n)).2 &&& j.ctx.fpxen == 0

theorem witness_IntegerAluResults : ready bench (vecMeta .lane 1 2 (.v 3)) .int (.v 3) = true ∧
    ready bench (vecMeta .warp 127 127 (.imm 0x20)) .int (.imm 0x20) = true := by decide +kernel
theorem witness_LogicResults : ready bench (vecMeta .lane 1 2 (.v 3)) .int (.v 3) = true ∧
    ready bench (vecMeta1 .lane 1 (.lit 0xFFFFFFFF)) .int (.lit 0xFFFFFFFF) = true := by decide +kernel
theorem witness_BitFieldResults : ready bench (vecMeta .lane 1 2 (.v 3)) .int (.v 3) = true ∧
    ready bench (vecMeta3 .lane 1 2 (.s 63)) .int (.s 63) = true := by decide +kernel
theorem witness_CompareResults : ready bench (cmpMeta .lane 2 (.v 3)) .int (.v 3) = true := by decide +kernel
theorem witness_MultiplyAddResults : ready bench (vecMeta3 .lane 1 2 (.v 3)) .int (.v 3) = true ∧
    ready bench (pairMeta .lane 126 4 (.v 3)) .int (.v 3) = true ∧
    meets bench (pairMeta64 .lane 10 4 (.v 126)) (fun s' j => got (s'.operand64 j (.v 126)) fun _ => true) = true ∧
    ready bench { vecMeta .lane 10 2 (.v 3) with nd := 2, bad := (10 : Reg).getLsbD 0 } .int (.v 3) = true := by decide +kernel
theorem witness_MoveResults : ready bench (vecMeta1 .lane 1 (.v 3)) .int (.v 3) = true ∧ ready bench (vecMeta .lane 1 2 (.v 3)) .int (.v 3) = true ∧
    meets bench (pred2Meta .lane (.v 3)) (fun _ _ => true) = true ∧ meets bench (predMeta .lane) (fun _ _ => true) = true ∧
    meets bench { predMeta .lane with d := 9, nd := 1 } (fun _ _ => true) = true ∧
    meets bench { predMeta .lane with a := 9, na := 1 } (fun _ _ => true) = true := by decide +kernel
theorem witness_ImmediateMoves :
    meets bench { cls := .laneWise, scope := .lane, d := 127, nd := 1, xreg := true, xpred := true } (fun _ _ => true) = true ∧
    meets bench { cls := .scalar, scope := .lane } (fun _ _ => true) = true := by decide +kernel
theorem witness_FloatAluResults :
    quiet { vecMeta .lane 1 2 (.v 3) with xmod := xmFloat } .fp32 (fun j x y _ => wordFx (j.fmode.add fp32 x.toNat y.toNat)) = true ∧
    quiet { vecMeta3 .lane 1 2 (.v 3) with xmod := xmFloat } .fp32 (fun j x y z => wordFx (j.fmode.fma fp32 x.toNat y.toNat z.toNat)) = true ∧
    quiet { vecMeta1 .lane 1 (.v 3) with xmod := xmFloat } .fp32 (fun j _ y _ => wordFx (j.fmode.special sfuRcp y.toNat)) = true := by decide +kernel
theorem witness_FloatCompareResults :
    meets strict { cmpMeta .lane 2 (.v 3) with xmod := xmFtz } (fun s' j => got (s'.operand j .fp32 (.v 3)) fun y => (lanesOf j.live).all fun n =>
      (floatCond j.ftz true false (fun o => o == .lt) (laneOf (j.w.row j.a) n) (laneOf y n)).2 &&& j.ctx.fpxen == 0) = true := by decide +kernel
theorem witness_PackedAndDotResults :
    quiet (pkMeta .lane 1 2 (.v 3)) (.packed fp16) (fun j x y z => onHalves (fun x y _ => j.fmode.add fp16 x y) x y z) = true ∧
    quiet { pkMeta .lane 1 2 (.v 3) with readD := true } (.packed bf16) (fun j x y z => onHalves (fun x y z => j.fmode.fma bf16 x y z) x y z) = true ∧
    quiet (wholeMeta (vecMeta .lane 1 2 (.v 3)) (.v 3)) .int (fun j x y _ => packPair (j.fmode.narrow fp16 x) (j.fmode.narrow fp16 y)) = true ∧
    quiet (wholeMeta (vecMeta1 .lane 1 (.v 3)) (.v 3)) .int (fun j _ y _ => j.fmode.widen (half y 0)) = true ∧
    quiet (dotMeta .lane 1 2 (.v 3)) .int (fun j x y z => dotFloat j.ftzDefault (halfProducts j.ftzDefault x y) z) = true := by decide +kernel
theorem witness_ConvertResults :
    meets strict { cls := .laneWise, scope := .lane, d := 10, nd := 2, a := 2, na := 1, xreg := true, xmod := xmFtz, xpred := true, bad := false } (fun _ j => (lanesOf j.live).all fun n =>
        (cvtOf 0x14 j.ftz false (cvtRnd 0) (laneOf64 (j.w.row64 j.a) n)).2 &&& j.ctx.fpxen == 0) = true := by decide +kernel
theorem witness_ScalarResults :
    meets bench (scalarMeta .lane (.s 7)) (fun s' j => got (s'.uniform j .int (.s 7)) fun _ => true) = true ∧
    meets bench { scalarMeta .lane (.s 62) with bad := (Opb.s 62).isV || (8 : Reg).getLsbD 0 || (6 : Reg).getLsbD 0 || (Opb.s 62).badPair }
      (fun s' j => got (s'.uniform64 j (.s 62)) fun _ => true) = true := by decide +kernel
theorem witness_ScalarCompares :
    meets bench (scalarMeta .lane (.s 7)) (fun s' j => got (s'.uniform j .int (.s 7)) fun _ => true) = true ∧
    (Cls.scopeOk .scalar .lane && !(gathers .lane) && !(Opb.s 7).isV && (Opb.v 7).isV) = true := by decide +kernel
theorem witness_ShuffleResults :
    meets bench (shflMeta bench .warp 1 2 (.v 3) pickUp) (fun s' j => j.members.all fun w => got (s'.operand (j.onWarp w) .int (.v 3)) fun _ => true) = true ∧
    meets bench (shflBcastMeta bench .warp 1 2 (.imm 7)) (fun s' j => j.members.all fun w => got (s'.operand (j.onWarp w) .int (.imm 7)) fun _ => true) = true := by
  decide +kernel
theorem witness_VoteResults : meets bench (voteMeta .warp) (fun _ _ => true) = true ∧ meets bench (voteRowMeta .warp 5) (fun _ _ => true) = true := by
  decide +kernel
theorem witness_IntegerReductions : meets bench (lredMeta .warp 1 2) (fun _ _ => true) = true := by decide +kernel
theorem witness_FloatReductions : meets strict (lredMeta .warp 1 2) (fun _ j =>
    sigInvalid ((j.valuesIn j.spanLanes).map fun x => fp32.decode (fp32.flush j.ftz x.toNat)) &&& j.ctx.fpxen == 0 &&
    ((treeSum j.ftz (rowList (j.faddRow j.w))).2 &&& j.ctx.fpxen == 0) &&
    ((scanSteps j.ftz 32 (j.faddRow j.w)).2 &&& j.ctx.fpxen == 0) && !gathers j.scope) = true := by decide +kernel

/-- The desk with lane 5 alone, addresses in v4:v5 and s12:s13, and the circular buffer 3 given. -/
noncomputable def deskS : State := deskW fun w => solo (pointing w)

theorem witness_LoadIssue :
    meets deskS (memMeta .lane 8 4 2 false) (fun s' j => j.live != 0 && !polBad false (j.w.sreg 7) && !classFull j.w.loads &&
      got (s'.checkLanes j .load 4 (j.addrOf false 4)) fun _ => true) = true ∧
    meets (deskS.modWarp 1 fun w => w.modSplit 0 fun x => { x with mask := 0 }) (memMeta .lane 8 4 2 false) (fun _ j => j.live == 0) = true ∧
    meets deskS { shapeMeta .lane 1 with hs := [], hw := [1], opb := some (.s 7), bad := (12 : Reg).getLsbD 0 || notS (.s 7) } (fun s' j =>
      !polBad false (j.w.sreg 7) && !classFull j.w.loads && got (s'.checkLane j.ctx .load 64 (j.w.sreg64 12) 0) fun _ => true) = true ∧
    (meets (deskS.modWarp 1 (withS [(16, 0x10001)])) (ldmcMeta .warp 12) (fun s' j => j.mcTrap (j.w.sreg 16) (j.w.sreg64 12) (j.w.sreg 8).toNat == none &&
       !classFull j.w.loads && got (firstFail (List.range (mcLen (j.w.sreg 16))) fun k =>
         s'.checkLane j.ctx .load 64 (j.w.sreg64 12 + BitVec.ofNat 64 (64 * k)) 0) fun _ => true)) = true := by decide +kernel
theorem witness_StoreIssue :
    meets deskS (stMeta .lane 8 4 7 2 false) (fun s' j => j.live != 0 && !polBad true (j.w.sreg 7) && !j.w.sqFull && !classFull j.w.stores &&
      got (s'.checkLanes j .store 4 (j.addrOf false 4)) fun _ => true) = true ∧
    meets deskS (hstMeta .lane 1 12 (.s 7)) (fun s' j => !polBad true (j.w.sreg 7) && !j.w.sqFull && !classFull j.w.stores &&
      got (s'.checkLane j.ctx .store 64 (j.w.sreg64 12) 0) fun _ => true) = true ∧
    meets deskS { scalarMeta .lane (.imm 4) with bad := (Opb.imm 4).isV || (12 : Reg).getLsbD 0 } (fun s' j =>
      (got (s'.uniform j .int (.imm 4)) fun y => y == 4) && !j.w.sqFull && !classFull j.w.stores &&
      let pages := pagesOf (j.w.sreg64 12) 4
      got (firstFail (List.range pages.length) fun i => s'.checkLane j.ctx .store 1 (pages.getD i 0) 0) fun _ => true) = true := by decide +kernel
theorem witness_ScratchpadAndConstants :
    meets deskS (scratchMeta .lane 8 3 2 false) (fun _ j => j.live != 0 && !classFull j.w.loads && got (j.offsets 0 4 false 3) fun _ => true) = true ∧
    meets deskS { scratchMeta .lane 8 3 2 false with readD := true } (fun _ j => got (j.offsets 0 4 false 3) fun _ => true) = true ∧
    meets (deskS.modLaunch 1 fun l => { l with constSize := l.constSize.setIfInBounds 0 64, constAddr := l.constAddr.setIfInBounds 0 0x2000 }) (vecMeta .lane 8 3 (.imm 4)) (fun s' j =>
      j.live != 0 && !classFull j.w.loads && got (s'.operand j .int (.imm 4)) fun y =>
        got (firstFail (lanesOf j.live) fun i => s'.constWord j (cwinBank j.w.cwin)
          (BitVec.ofNat 32 (cwinWord j.w.cwin) + laneOf (j.w.row j.a) i + laneOf y i : Word).toNat i) fun _ => true) = true ∧
    meets deskS (scalarMeta .lane (.imm 4)) (fun s' j => got (s'.uniform j .int (.imm 4)) fun y => y &&& 0xFFF8C000#32 == 0) = true := by
  decide +kernel

/-- The premises of an atomic in a state. -/
noncomputable def atomReady (s : State) (m : Meta) (k : AccKind) (fn : Nat) (wide returns : Bool) : Bool :=
  meets s m fun s' j => j.live != 0 && (if returns then !classFull j.w.loads else !classFull j.w.stores) &&
    got (firstFail (lanesOf j.live) (s'.atomCheck j k fn wide)) fun ps =>
      !s'.quadrantsFull (j.atomReqs s'.nextUid fn wide returns (j.atomAcc fn wide) (((s'.field? j.w.field).map (·.epoch)).getD 0) ps)

theorem witness_AtomicIssue :
    let s := deskS.modWarp 1 (withV [(4, 0x2010), (5, 0)])
    ([0, 1, 2, 3, 4, 5, 6, 7, 8, 9, 10, 11].all fun fn => atomReady s { atomMeta fn .lane 8 4 6 false with dep := atomDep } .atom fn false true) = true ∧
    ([12, 13, 14, 15, 16].all fun fn => atomReady s { atomMeta fn .lane 8 4 6 false with dep := atomDep } .atom fn false true) = true ∧
    atomReady s { atomMeta 9 .lane 8 4 8 true with dep := atomDep } .atom 9 true true = true ∧
    ([0, 1, 2, 3, 4, 5, 6, 7, 10, 11].all fun fn => atomReady s { redMeta fn .lane 4 6 true with dep := atomDep } .red fn true false) = true ∧
    ([12, 13, 14, 15, 16].all fun fn => atomReady s { redMeta fn .lane 4 6 false with dep := atomDep } .red fn false false) = true := by
  decide +kernel
theorem witness_AtomicValues : (0xFFFFFFFF : Nat) < 2 ^ 32 ∧ atomNew 10 false 0xFFFFFFFF 0xFFFFFFFF 0 = 0 ∧ atomNew 11 false 0 7 0 = 7 ∧
    atomNew 1 false 0 0xFFFFFFFF 0 = 0xFFFFFFFF ∧ atomNew 9 true 5 5 9 = 9 := by decide +kernel

/-- A buffer of the desk is got, with a property. -/
noncomputable def hasBuf (m : Meta) (c : Cbuf) (f : State → Job → Cbuf → Bool) : Bool :=
  meets (deskB c) m fun s' j => j.live != 0 && got (s'.cbuf j (.imm 3)) fun x => f s' j x.2

theorem witness_CircularBuffers :
    let md : Meta := { cbMeta .lane (.imm 3) with d := 8, nd := 1 }
    let mw : Meta := { md with dep := cbwaitDep (.imm 3) }
    hasBuf mw (buffer 1 0 1 1 0 []) (fun s' j c => c.filled != 0 && (s'.awaitLoads j.w.uid).2) = true ∧
    hasBuf (cbMeta .lane (.imm 3)) (buffer 0 1 1 0 0 [(true, false)]) (fun _ _ c => c.filled != 0 && c.claims.any fun x => x.1 && !x.2) = true ∧
    meets (deskB noCbuf) (cbMeta .lane (.imm 3)) (fun s' j => j.live != 0 && (got (s'.uniform j .int (.imm 3)) fun y => y == 3) &&
      !cbInvalid j.launch (j.w.sreg 6) && (j.block.cbufs[3]?).any fun c => !c.claims.any fun x => !x.1) = true ∧
    hasBuf md (buffer 1 0 1 1 0 []) (fun _ _ c => c.free != 0) = true := by decide +kernel
theorem witness_FencesAndWaits :
    meets desk (fenceMeta .lane 2 false) (fun s' j => (s'.awaitLoads j.w.uid).2) = true ∧
    meets desk (fenceMeta .lane 2 true) (fun s' j => (s'.awaitLoads j.w.uid).2 &&
      ((s'.awaitLoads j.w.uid).1.drainAll j.w.uid 40).storesDone j.w.uid 2) = true ∧
    meets (deskW fun w => w.modSplit 0 fun x => { x with released := some .block }) (fenceMeta .block 2 true) (fun s' j =>
      (((s'.settleAll j.w.uid 256).drainAll j.w.uid 40).warp? j.w.uid).any fun w => w.sq.isEmpty) = true ∧
    meets desk { cls := .scalar, scope := .lane } (fun _ _ => true) = true ∧
    meets desk (waitMeta .lane 0 63 0 0) (fun s' j => ((s'.settleAll j.w.uid 256).warp? j.w.uid).any fun w =>
      !(w.asyncs.any (waitDep 0 63 0 0 w)) && w.loads.length == 0 && w.copies.length == 0 && w.tileops.length == 0) = true := by decide +kernel
theorem witness_WindowCounters :
    let s := deskW (withS [(6, 1), (7, 5)])
    meets s (scalarMeta .lane (.s 6)) (fun s' j => got (s'.selected j (.s 6)) fun x => !(x.2.counter false).2) = true ∧
    meets s { scalarMeta .lane (.s 6) with dep := wcwaitDep (.s 6) } (fun s' j => got (s'.selected j (.s 6)) fun x =>
      !x.2.blind false && !(x.2.counter false).2 && decide ((j.w.sreg 7).toNat ≤ (x.2.counter false).1.toNat) && (s'.awaitLoads j.w.uid).2) = true ∧
    meets (deskW (withS [(6, 0x10002), (7, 9)])) { scalarMeta .lane (.s 6) with dep := wcwaitDep (.s 6) } (fun s' j =>
      got (s'.selected j (.s 6)) fun x => !x.2.blind true && decide ((j.w.sreg 7).toNat ≤ (x.2.counter true).1.toNat)) = true := by decide +kernel
theorem witness_Branches :
    meets bench { cls := .branch, scope := .lane } (fun s' j => j.live != 0 && (j.w.split? j.slot).isSome && (j.w.fullStack (s'.goers j 0 false).2).isNone) = true ∧
    meets (rig fun w => { w with rstack := Vector.ofFn fun _ => [0x4000] }) { cls := .branch, scope := .lane } (fun s' j =>
      got (s'.routes j fun w => .ok w.tops) fun x => (badTarget x.2).isNone) = true ∧
    meets (rig (withS [(6, 0x2000)])) (brxMeta .lane (.s 6)) (fun s' j => got (s'.routes j fun w => s'.targetsOf j w (.s 6)) fun x =>
      (badTarget x.2).isNone && (j.w.fullStack j.live).isNone) = true := by decide +kernel
theorem witness_NopYieldExit : meets bench { cls := .laneWise, scope := .warp } (fun _ _ => true) = true ∧
    meets bench { cls := .scalar, scope := .lane } (fun _ _ => true) = true ∧ meets bench (exitMeta .lane) (fun _ _ => true) = true := by decide +kernel
theorem witness_HintWords : (bench.warp? bench.cur).isSome = true := by decide +kernel

/-! ## Units, queues, threads and kernels: results and witnesses -/

/-- Write a number of n bytes at an address of the data page. -/
def poke (a n x : Nat) (s : State) : State := { s with mem := memWrite s.mem (physKey 0 0 a) (leBytes n x) }

/-- A shape record: base, outer extent, K extent, stride and format (R256). -/
def shape (base odim kdim stride fmt : Nat) : BitVec 512 :=
  BitVec.ofNat 512 (base + odim * 2 ^ 64 + kdim * 2 ^ 96 + stride * 2 ^ 128 + fmt * 2 ^ 288)

/-- The bench with the data page, empty but for what is poked, a launch with an allocation, lane 5 alone, BF16 records of one element
in h0 and h1, an FP32 one in h2, and a count of 1 in s20. -/
noncomputable def mill : State :=
  let s := (rig fun w => solo (withS [(20, 1)] { w with
    h := ((w.h.setIfInBounds 0 (shape 0x2000 1 1 2 0)).setIfInBounds 1 (shape 0x2000 1 1 2 0)).setIfInBounds 2 (shape 0x2000 1 1 4 2) })).modLaunch 1
    fun l => { l with scratch := l.scratch.setIfInBounds 0 4096 }
  let e : TlbEntry := { field := 0, ctx := 1, page := 2, pte := dataPte, core := none }
  { s with tlb := e :: s.tlb }

theorem test_tile_shapes :
    after (.hset .lane 3 8 (.imm 6)) (mill.modWarp 1 (withS [(8, 0x55667788), (9, 0x11223344)])) (fun t => warpIn t fun w =>
      (w.hreg 3).extractLsb' 384 64 == 0x1122334455667788#64 && (w.hreg 3).extractLsb' 448 64 == 0#64) = true ∧
    after (.hadv .lane 4 (.imm 2)) (mill.modWarp 1 fun w => { w with h := w.h.setIfInBounds 4 (BitVec.ofNat 512 (64 * 2 ^ 256 + 0xFFFFFFFF * 2 ^ 224)) })
      (fun t => warpIn t fun w => shapeTilek (w.hreg 4) == 128 && shapeTileo (w.hreg 4) == 0xFFFFFFFE) = true ∧
    after (.mmidx .warp 2 (.imm 1)) (mill.modWarp 1 (withV [(2, 7)]))
      (fun t => warpIn t fun w => w.idxLatch[32]? == some 7 && w.idxLatch[0]? == some 0xFFFFFFFF#32) = true := by decide +kernel

/-- MMLOOP and the drains queue one job for the engine of core 0 and count it in their class (R253, R259, R264); what ACCWR wrote ACCRD
reads and ACCZ clears (R254). -/
theorem test_engine_words :
    let one : Instr → (Warp → Nat) → Bool := fun i f => after i mill fun t => t.engine.length == 1 && warpIn t fun w => f w == 1
    let s := mill.modWarp 1 (withV [(8, 0x3F800000)])
    let reads : Word → State → Bool := fun x t => after (.accrd .warp 9 1 0 (.imm 0)) t fun u => warpIn u fun w => laneOf (w.row 9) 5 == x
    one (.mmloop .warp 0 0 0 1 20 0x10) (fun w => w.tileops.length) = true ∧ one (.accdrn .warp 2 0 0 (.imm 0)) (fun w => w.copies.length) = true ∧
    one (.accdra .warp 2 0 0 (.imm 0)) (fun w => w.copies.length) = true ∧
    after (.accwr .warp 8 1 0 (.imm 0)) s (reads 0x3F800000) = true ∧
    after (.accwr .warp 8 1 0 (.imm 0)) s (fun t => after (.accz .warp 1 0 (.imm 0)) t (reads 0)) = true := by decide +kernel

theorem witness_TileShapes :
    meets mill (hsetMeta .lane 3 8 (.imm 7)) (fun _ _ => true) = true ∧
    meets mill { shapeMeta .lane 0 with b := 1, opb := some (.imm 1), bad := (Opb.imm 1).isV } (fun s' j => got (s'.uniform j .int (.imm 1)) fun _ => true) = true ∧
    meets mill (mmidxMeta .warp 2 (.imm 7)) (fun s' j => got (s'.uniform j .int (.imm 7)) fun y => decide (y.toNat ≤ 7)) = true := by decide +kernel

/-- The conflict, the class and the scratchpad of an engine word are free. -/
noncomputable def engineFree (m : Meta) (acc : Nat) (f : State → Job → Bool) : Bool :=
  meets mill m fun s' j => !s'.accConflict j.w.core acc 1 (s'.holderOf j) && f s' j

theorem witness_EngineJobs :
    engineFree (mmloopMeta mill .warp 0 0 0 1 0x10) 0 (fun s' j =>
      let ha := j.w.hreg 0
      let hb := j.w.hreg 1
      let rA := footprint ha (outerLines ha 0 (groupRows 1)) (stepStarts ha 1) (stepSize ha)
      !shapeInvalid j.launch false (.opA false) ha && !shapeInvalid j.launch false (.opB false) hb && shapeKdim ha == shapeKdim hb &&
        stepSize ha == stepSize hb && !classFull j.w.tileops && (scratchFail j.launch ([] ++ [])).isNone && !shapeSpace ha && !shapeSpace hb &&
        got (s'.checkRanges j.ctx .load (fun _ => false) (rA ++ rA)) fun _ => true) = true ∧
    engineFree (acczMeta .warp 0 0 (.imm 0)) 0 (fun _ j => !classFull j.w.tileops) = true ∧
    engineFree (accrdMeta .warp 8 1 0 (.imm 0)) 1 (fun s' j => !classFull j.w.loads && got (s'.uniform j .int (.imm 0)) fun y => (accPosition 0 y).isSome) = true ∧
    engineFree (accwrMeta .warp 8 1 0 (.imm 0)) 1 (fun s' j => !classFull j.w.tileops && got (s'.uniform j .int (.imm 0)) fun y => (accPosition 0 y).isSome) = true ∧
    engineFree (accsclMeta .warp 1 0 (.imm 2)) 1 (fun s' j => !classFull j.w.tileops && got (s'.uniform j .fp32 (.imm 2)) fun _ => true) = true ∧
    engineFree (drainMeta mill .warp 2 0 0 (.imm 0)) 0 (fun s' j =>
      let x := j.w.hreg 2
      let rs := (outerLines x 0 (groupRows 1)).flatMap fun o =>
        if shapeOdim x ≤ o then [] else (kRuns x (shapeTilek x % 2 ^ 32) (groupCols 1)).map (runBytes x o)
      !shapeInvalid j.launch false (.drain false) x && !shapeInvalid j.launch false (.drain true) x && !classFull j.w.copies && !shapeSpace x &&
        (got (s'.checkRanges j.ctx .store (fun _ => false) rs) fun _ => true) &&
        got (s'.checkRanges j.ctx .red (fun p => atomRefused 12 p) rs) fun _ => true) = true := by decide +kernel

/-- QPACK and QUNPK of E4M3 (code 1) with scale 127, and QSM of 62 zeros, which gives the block of zeros (R83, R156 to R158). -/
theorem test_blocks :
    after (.qpack .lane 8 4 (.s 20)) (mill.modWarp 1 fun w => withS [(20, 0x7F01)] (withV [(4, 0x3F800000), (5, 0x40000000), (6, 0), (7, 0xBF800000)] w))
      (fun t => warpIn t fun w => laneOf (w.row 8) 5 == 0xB8004038) = true ∧
    after (.qunpk .lane 8 2 (.s 20)) (mill.modWarp 1 fun w => withS [(20, 0x7F01)] (withV [(2, 0xB8004038)] w)) (fun t => warpIn t fun w =>
      laneOf (w.row 8) 5 == 0x3F800000 && laneOf (w.row 9) 5 == 0x40000000 && laneOf (w.row 10) 5 == 0 && laneOf (w.row 11) 5 == 0xBF800000) = true ∧
    after (.qsm .lane 8 4 (.s 20)) (mill.modWarp 1 fun w => withS [(20, 0x02000000)] (withV [(4, 0), (5, 512)] w)) (fun t => warpIn t fun w =>
      laneOf (w.row 8) 5 == 0x1000) = true := by decide +kernel

/-- Two triangles' worth of R343's worked case: draw 0 with its vertices at 0x2040 and attributes at 0x2100, an 8-byte image row at
0x2180 and a sample record at 0x21C0. -/
noncomputable def gallery : State :=
  let s := [(0x2000, 8, 0x2040), (0x2010, 8, 0x2100), (0x2018, 4, 1), (0x201C, 2, 1), (0x2028, 2, 4),
    (0x2048, 4, 0x3F000000), (0x204C, 4, 0x3F800000), (0x2050, 4, 0x40800000), (0x2058, 4, 0x3F000000), (0x205C, 4, 0x3F800000),
    (0x2064, 4, 0x40800000), (0x2068, 4, 0x3F000000), (0x206C, 4, 0x3F800000), (0x2108, 4, 77), (0x2184, 1, 255),
    (0x21C4, 4, 0x1000), (0x21C8, 4, 0x3E800000)].foldl (fun s (x : Nat × Nat × Nat) => poke x.1 x.2.1 x.2.2 s) mill
  s.modWarp 1 (withS [(12, 0x21C0), (14, 0x00010001), (16, 0x2180), (18, 0x00010002), (19, 8), (20, 0x100), (24, 0x2000), (26, 0), (28, 0x2000), (30, 0x20000)])

/-- The four registers from v8 in lane 5 after an instruction on the gallery, with some v registers. -/
noncomputable def four (i : Instr) (l : List (Nat × Word)) (r : List Word) : Bool :=
  after i (gallery.modWarp 1 (withV l)) fun t => warpIn t fun w => ((List.range r.length).map fun k => laneOf (w.row (8 + k)) 5) == r

/-- VISLD of the worked sample, the identifier of draw 1 taken apart, BARY of an absent primitive, BARY's
worked value 0.75, 0.125, 0.125, 1 and one attribute (R343 to R347). -/
theorem test_surface :
    four (.visld .lane 8 2 (.s 12)) [(2, 0)] [0, 0x1000, 0x3E800000, 0] = true ∧
    four (.visld .lane 8 2 (.s 12)) [(2, 1)] [0xFFFFFFFF, 0xFFFFFFFF, 0x7F800000, 1] = true ∧
    four (.visdec .lane 8 2) [(2, 0x3002), (3, 0x1000)] [1, 3, 2, 1] = true ∧
    four (.bary .lane 8 4 (.s 24)) [(4, 0), (5, 0x10000), (7, 0)] [0x7FC00000, 0x7FC00000, 0x7FC00000, 0x7FC00000] = true ∧
    meets gallery (attrMeta .lane 8 4 (.s 24) 4) (fun _ j => j.baryOf [cornerOf false [0, 0, 0x3F000000, 0x3F800000],
      cornerOf false [0x40800000, 0, 0x3F000000, 0x3F800000], cornerOf false [0, 0x40800000, 0x3F000000, 0x3F800000]] 0 0 ==
      [0x3F400000, 0x3E000000, 0x3E000000, 0x3F800000]) = true ∧
    four (.attrf .lane 8 4 (.s 28)) [(4, 0), (5, 0), (7, 0)] [77] = true := by decide +kernel

/-- R351's worked case: an image of two texels with R 0 and 255, bilinear, at u = 0.5. -/
theorem test_texture :
    four (.texs .lane 8 2 (.s 16)) [(2, 0x3F000000), (3, 0)] [0x3F000000, 0, 0, 0] = true ∧
    four (.texl .lane 8 2 (.s 16)) [(2, 1), (3, 0)] [0x3F800000, 0, 0, 0] = true ∧
    four (.texg .lane 8 2 (.s 16)) [(2, 0x3F000000), (3, 0)] [0, 0x3F800000, 0, 0x3F800000] = true ∧
    four (.texq .lane 8 0 (.s 16)) [] [2, 1, 0x3F000000, 0x3F800000] = true := by decide +kernel

/-- ORDWAIT whose word has come goes on; ORDDONE sends one request to add 1 (R348). -/
theorem test_pixel_order :
    standsAt (.ordwait .lane 2 (.v 6)) (gallery.modWarp 1 (withV [(2, 0x2108), (3, 0), (6, 77)])) 0 0x1004 = true ∧
    after (.orddone .lane 2) (gallery.modWarp 1 (withV [(2, 0x2108), (3, 0)])) (fun t =>
      (t.areqs.map fun r => r.accs.map fun a => (a.key, a.y)) == [[(physKey 0 0 0x2108, 1)]]) = true := by decide +kernel

/-- A descriptor with an empty root over 128 bytes at 0x2000. -/
def rooted (w : Warp) : Warp := withS [(40, 0), (41, 0), (42, 0x2000), (43, 0), (44, 128), (45, 0)] w

/-- TRAV starts a ray and counts a load; TRAVRD of an empty slot gives +∞ and status 0xFF (R358 to R361). -/
theorem test_traversal :
    after (.trav .warp 0 8 (.s 40)) (mill.modWarp 1 rooted) (fun t => warpIn t fun w => w.raysRun 0x20 && w.loads.length == 1) = true ∧
    after (.travrd .warp 16 0 (.v 0)) mill (fun t => warpIn t fun w => laneOf (w.row 16) 5 == 0x7F800000 && laneOf (w.row 20) 5 == 0xFF) = true := by decide +kernel

theorem witness_SurfaceWords :
    meets gallery (visldMeta .lane 8 2 (.s 12)) (fun s' j => !sizeBad (j.w.sreg 14) && decide ((j.w.sreg 15).toNat < 2) &&
      !s'.visPlaceBad j.ctx (j.w.sreg64 12) (visBytes (j.w.sreg 14) (samplesOf (j.w.sreg 15).toNat)) && j.live != 0 && !classFull j.w.loads &&
      ((lanesOf j.live).all fun i => (laneOf (j.w.row j.a) i).extractLsb' 30 2 == 0 && coordS (laneOf (j.w.row j.a) i) < samplesOf (j.w.sreg 15).toNat) &&
      (got (({ s := s'.settleAll j.w.uid 256, faults := [] } : Reader).lanes (visldLane j (j.w.sreg64 12) (j.w.sreg 14) (samplesOf (j.w.sreg 15).toNat))
        (lanesOf j.live)) fun _ => true) &&
      ((s'.settleAll j.w.uid 256).warp? j.w.uid).any fun w => !(w.loads.any LoadOp.pendingMem) && !w.acquiring w.seq) = true ∧
    meets gallery (visdecMeta .lane 8 2) (fun _ _ => true) = true ∧
    meets (gallery.modWarp 1 (withV [(5, 0x10000)])) (attrMeta .lane 8 4 (.s 24) 4) (fun s' j => j.w.sreg 27 == 0 && decide ((j.w.sreg 26).toNat < 2) &&
      (j.w.sreg64 24).toNat % 64 == 0 && j.live != 0 && !classFull j.w.loads &&
      got (({ s := s'.settleAll j.w.uid 256, faults := [] } : Reader).lanes (baryLane j (j.w.sreg64 24) 0) (lanesOf j.live)) fun _ => true) = true ∧
    meets gallery (attrMeta .lane 8 4 (.s 28) (gallery.attrRegs (.s 28))) (fun s' j => j.w.sreg 31 == 0 && attrVertex (j.w.sreg 30) == 2 &&
      (j.w.sreg 30).extractLsb' 21 11 == 0 && (j.w.sreg64 28).toNat % 64 == 0 && j.live != 0 && !classFull j.w.loads &&
      (((s'.settleAll j.w.uid 256).warp? j.w.uid).any fun w => !(w.loads.any LoadOp.pendingMem) && !w.acquiring w.seq) &&
      got (({ s := s'.settleAll j.w.uid 256, faults := [] } : Reader).lanes (attrfLane j (j.w.sreg64 28) (j.w.sreg 30)) (lanesOf j.live))
        fun _ => true) = true ∧
    (let s := gallery.modWarp 1 (withV [(2, 0x2108), (3, 0), (6, 77)])
     meets s (ordwaitMeta .lane 2 (.v 6)) (fun s' j => j.live != 0 && got (s'.operand j .int (.v 6)) fun ys =>
       got (firstFail (lanesOf j.live) (s'.atomCheck j .atom 0 false)) fun ps =>
         let q := s'.drainAll j.w.uid 40
         let r := q.roundShadows (ps.flatMap fun x => (List.range 4).map (x.2.key + ·))
         !q.orderBusy j.w.uid (ps.map fun x => x.2.key) && orderFault r ps (laneOf ys) == none &&
           (ps.all fun x => r.orderWord x.2.key == laneOf ys x.1) && (r.awaitLoads j.w.uid).2) &&
     meets s (orddoneMeta .lane 2) (fun s' j => j.live != 0 && !classFull j.w.stores &&
       let jr : Job := { j with xmod := 0x80#20 }
       got (firstFail (lanesOf j.live) (s'.atomCheck jr .atom 0 false)) fun ps => !s'.quadrantsFull (jr.atomReqs s'.nextUid 0 false false
         (fun lane p => { lane := lane, key := p.key, y := 1, z := 0 }) (((s'.field? j.w.field).map (·.epoch)).getD 0) ps))) = true := by decide +kernel
theorem witness_TextureWords :
    meets (gallery.modWarp 1 (withV [(2, 0x3F000000), (3, 0)])) (texMeta .lane 8 2 (.s 16) 2) (fun s' j => !imageBad (j.w.octet 16) && j.live != 0 &&
      !classFull j.w.loads && got (({ s := s'.settleAll j.w.uid 256, faults := [] } : Reader).lanes (texsLane j (imageOf (j.w.octet 16)))
        (lanesOf j.live)) fun _ => true) = true ∧
    meets gallery (texMeta .lane 8 0 (.s 16) 0) (fun _ j => !imageBad (j.w.octet 16)) = true := by decide +kernel
theorem witness_RayWords :
    meets (mill.modWarp 1 rooted) (travMeta .warp 0 8 (.s 40)) (fun _ j => !rayDescBad (j.w.octet 40) && j.live != 0 && !j.w.raysRun j.live &&
      !classFull j.w.loads) = true ∧
    meets mill (travrdMeta .warp 16 0 (.v 0)) (fun _ j => !j.w.raysRun j.live) = true := by decide +kernel

/-- The mill with an item queue's descriptor at 0x2000 (ring 0x2400, stamps 0x2080) holding one stamped item, an attached launch queue 0
with its task table at 0x2200, a launch record at 0x2600, and the warp released at BLOCK scope. -/
noncomputable def depot : State :=
  let s := [(0x2000, 8, 0x2400), (0x2008, 8, 0x2080), (0x2010, 8, 1), (0x2020, 1, 2), (0x2021, 1, 4), (0x2080, 4, 1), (0x2400, 4, 70),
    (0x2404, 4, 71), (0x2200, 4, 5)].foldl (fun s (x : Nat × Nat × Nat) => poke x.1 x.2.1 x.2.2 s) mill
  let s := { s with queues := [{ field := 0, q := 0, state := .attached, ctx := 1, desc := 0x2000, kind := 0, taskTab := 0x2200 }] }
  let s := s.modLaunch 1 fun l => { l with itemq := l.itemq.setIfInBounds 1 0x2000 }
  s.modWarp 1 fun w => (withS [(12, 0x2000), (6, 2), (7, 3)] w).modSplit 0 fun x => { x with released := some .block }

/-- A counter of the depot's task table after an instruction. -/
noncomputable def counts (i : Instr) (n : Nat) : Bool := after i depot fun t => leNat ((List.range 4).map fun k => t.readByte (physKey 0 0 (0x2230 + k))) == n

/-- QAPP claims slot 1, writes and stamps it and sets p2; TINC, TDEC and TRD of counter 3 (R286, R297). -/
theorem test_queue_words :
    after (.qapp .lane 2 16 (.s 12)) (depot.modWarp 1 (withS [(16, 0xAB)])) (fun t => t.readByte (physKey 0 0 0x2010) == 2 &&
      t.readByte (physKey 0 0 0x2410) == 0xAB && t.readByte (physKey 0 0 0x2084) == 2 && warpIn t fun w => (w.pred 2).getLsbD 5) = true ∧
    counts (.tinc .lane 6 (.s 7)) 2 = true ∧
    after (.tdec .lane 20 (.imm 0)) depot (fun t => t.readByte (physKey 0 0 0x2200) == 4) = true ∧
    after (.trd .lane 8 (.imm 0)) depot (fun t => warpIn t fun w => w.sreg 8 == 5) = true := by decide +kernel

/-- REFILL gives the warp's lowest exited lane the item (R181, R182). -/
theorem test_refill :
    after (.refill .block 8 9 (.imm 1)) (depot.modWarp 1 fun w => { w with exited := 0xFFFFFFDF }) (fun t => warpIn t fun w =>
      w.exited == 0xFFFFFFDE#32 && laneOf (w.row 8) 0 == 70 && laneOf (w.row 9) 0 == 71 && w.sreg 9 == 1) = true := by decide +kernel

theorem witness_BlockConversions :
    meets (mill.modWarp 1 fun w => withS [(20, 0x02000000)] (withV [(4, 0), (5, 512)] w)) (blockMeta .lane 8 1 4 2 (.s 20)) (fun s' j =>
      j.live != 0 && !classFull j.w.loads && got (s'.operand j .int (.s 20)) fun ys =>
        (got (firstFail (lanesOf j.live) (fun i => qsmCheck j.launch (laneOf ys i) (laneOf (j.w.row j.a) i) (laneOf (j.w.row (j.a + 1)) i) i)) fun _ => true) &&
        ((j.qsmLane j.block (laneOf ys 5) 0 512).2.2 &&& j.ctx.fpxen == 0)) = true ∧
    meets (mill.modWarp 1 fun w => w.modSplit 0 fun x => { x with mask := 0 }) (blockMeta .lane 8 1 4 2 (.s 20))
      (fun _ j => j.live == 0) = true ∧
    meets (mill.modWarp 1 fun w => withS [(20, 0x7F01)] (withV [(4, 0x3F800000), (5, 0x40000000), (6, 0), (7, 0xBF800000)] w)) (blockMeta .lane 8 1 4 4 (.s 20))
      (fun s' j => got (s'.operand j .int (.s 20)) fun ys => (got (j.qpCheck true ys) fun _ => true) &&
        ((qpack j (laneOf ys 5) ([0, 1, 2, 3].map fun k => laneOf (j.w.row (j.a + k)) 5)).2 &&& j.ctx.fpxen == 0)) = true ∧
    meets (mill.modWarp 1 fun w => withS [(20, 0x7F01)] (withV [(2, 0xB8004038)] w)) (blockMeta .lane 8 4 2 1 (.s 20))
      (fun s' j => got (s'.operand j .int (.s 20)) fun ys => (got (j.qpCheck false ys) fun _ => true) &&
        ((qunpk j (laneOf ys 5) (laneOf (j.w.row j.a) 5) 0).2 &&& j.ctx.fpxen == 0)) = true := by decide +kernel
/-- The premises of QAPP, for a queue with room or without. -/
noncomputable def appends (s : State) (room : Bool) : Bool :=
  meets s (qappMeta .lane 2 16 (.s 12)) fun s' j => got (s'.appendDesc j.ctx (j.w.sreg64 12)) fun x => x.2.any fun q =>
    !(q.kind == 1 && classFull j.w.copies) && (x.1.awaitRelease j.w.uid 2).2 &&
    got ((x.1.awaitRelease j.w.uid 2).1.readDesc j.ctx .atom (j.w.sreg64 12)) fun y => y.2.any fun r => r.room == room && r.kind == 2 &&
      got (y.1.appendSlot j.ctx r (j.w.payload 16 r.slotBytes)) fun _ => true

theorem witness_QueueWords :
    appends depot true = true ∧ appends (poke 0x2010 8 16 depot) false = true ∧
    meets depot { taskMeta .lane (.s 7) with dep := releaseAt 2 } (fun s' j => got (s'.taskOf j (.s 7)) fun x =>
      (got (s'.checkLane j.ctx .atom 4 (x.1.taskAddr x.2) 0) fun _ => true) && (s'.awaitRelease j.w.uid 2).2 &&
        got ((s'.awaitRelease j.w.uid 2).1.taskDec j.w.field x.1.q x.2 (j.w.sreg 6).toNat) fun _ => true) = true ∧
    meets depot (taskMeta .lane (.s 7)) (fun s' j => got (s'.taskOf j (.s 7)) fun x =>
      (got (s'.checkLane j.ctx .atom 4 (x.1.taskAddr x.2) 0) fun _ => true) && got (s'.checkLane j.ctx .load 4 (x.1.taskAddr x.2) 0) fun _ => true) = true ∧
    (let s := depot.modLaunch 1 fun l => { l with kind := 1 }
     meets s (phqMeta s .block 0 (.imm 2)) (fun _ _ => true)) = true := by decide +kernel
theorem witness_ThreadMoves :
    meets depot (reformMeta .block 2 (.imm 0)) (fun s' j =>
      let key : Warp → Nat → Nat := fun w i => (laneOf (w.row j.a) i).toNat * 2 ^ 32 + (laneOf w.logid i).toNat
      (j.members.all fun w => w.alloc == j.w.alloc) && !s'.reformFull j (threadsOf j.members key).length j.w.alloc &&
        (s'.quiesceAll j.members).2 &&
        (s'.block? j.block.uid).all fun x => !x.bankq.any fun q => (j.members.map (·.uid)).contains q.warp) = true ∧
    meets depot (refillMeta depot .block 8 (.imm 1)) (fun s' j => got (s'.readDesc j.ctx .atom ((j.launch.itemq[1]?).getD 0)) fun x =>
      (x.2.any fun qd => got (s'.checkRing j.ctx qd) fun _ => true) &&
        (s'.quiesceAll j.members).2) = true ∧
    meets (depot.modLaunch 1 fun l => { l with kind := 2 }) (rsmplMeta .block 2 (.imm 4)) (fun s' j => j.launch.kind == 2 && got (s'.uniform j .int (.imm 4)) fun _ => true) = true ∧
    meets depot (pstatMeta .warp 0 (.imm 4)) (fun _ _ => true) = true := by decide +kernel
theorem witness_SpecialRegisters :
    meets mill (sreadMeta .lane 8 false 0) (fun _ _ => true) = true ∧ meets mill (sreadMeta .lane 8 true 32) (fun _ _ => true) = true ∧
    meets mill (swriteMeta .lane 8 24) (fun _ _ => true) = true ∧
    meets (mill.modWarp 1 fun w => { w with mode := .handler }) (swriteMeta .lane 8 50) (fun _ _ => true) = true := by decide +kernel

/-- The depot with a second block of a gang on core 1. -/
noncomputable def twins : State :=
  let s := depot.modLaunch 1 fun l => { l with kind := 1, griddim := 2 }
  { s with blocks := s.blocks ++ [newBlock 90 1 1 1],
           warps := s.warps ++ [newWarp 91 90 1 0 0 128 0x1000 (startScalars 1 0 2 0) (startLogid 1 1 0)] }

/-- The depot with a launch record at 0x2600 (R303): a grid of 1, entry 0x1000, one warp of 16 registers. -/
noncomputable def forge : State :=
  [(0x2600, 2, 1), (0x2604, 4, 1), (0x2608, 8, 0x1000), (0x2610, 1, 1), (0x2611, 1, 0x11)].foldl (fun s (x : Nat × Nat × Nat) => poke x.1 x.2.1 x.2.2 s)
    ((mill.modCtx 0 1 fun c => { c with coremask := 1 }).modWarp 1 fun w => (withS [(12, 0x2600), (6, 64)] w).modSplit 0 fun x => { x with released := some .block })

/-- GROW down sets p3 and the allocation; FORK adds a launch at depth 1 and sets p2; NPRE and NPREX count the region depth
(R174, R178, R308). -/
theorem test_kernel_words :
    after (.grow .lane 3 (.s 6)) forge (fun t => warpIn t fun w => w.alloc == 64 && (w.pred 3).getLsbD 5) = true ∧
    after (.fork .lane 2 12 (.v 0)) forge (fun t => t.launches.length == 2 && (t.blocks.any fun b => b.children == 1) && warpIn t fun w => (w.pred 2).getLsbD 5) = true ∧
    standsAt (.join .block) forge 0 0x1004 = true ∧
    after (.npre .lane) forge (fun t => warpIn t fun w => w.region == 1) = true ∧
    after (.nprex .lane) (forge.modWarp 1 fun w => { w with region := 15 }) (fun t => warpIn t fun w => w.region == 14) = true := by decide +kernel

/-- XCHG leaves an offer and waits; with the partner's offer in place XCHG_PAIR swaps v8 of the two warps (R194). -/
theorem test_exchange :
    let offer : XchgOffer := { keyed := false, setWide := false, desc := 0x100, reg := 8, live := 0x20, start := 0x1000, next := 0x1004 }
    let s := (twins.modWarp 1 (withV [(8, 5)])).modWarp 91 fun w => { withV [(8, 6)] w with xchg := some offer }
    after (.xchg .warp 8 (.s 20)) (s.modWarp 1 (withS [(20, 0x101)])) (fun t => (warpIn t fun w => w.xchg.isSome) &&
      after (.xchgPair 1) t fun u => (warpIn u fun w => laneOf (w.row 8) 5 == 6 && laneOf (w.row 8) 4 == 5 && w.xchg.isNone) &&
        (u.warp? 91).any fun w => laneOf (w.row 8) 5 == 5) = true := by decide +kernel

/-- The forge with 1024 launches that FORK made. -/
noncomputable def crowd : State :=
  { forge with launches := forge.launches ++ (List.range 1024).map fun k => { probeLaunch (1000 + k) [] with origin := .fork 1 } }

/-- The premises of GROW for an operand, with the part that its clause adds. -/
noncomputable def growing (y : Word) (f : State → Job → Bool) : Bool :=
  meets (forge.modWarp 1 fun w => { withS [(6, y)] w with alloc := 64 }) { cls := .scalar, scope := .lane, opb := some (.s 6), bad := false } fun s' j =>
    got (s'.uniform j .int (.s 6)) fun z => z == y && z.toNat % 16 == 0 && decide (16 ≤ z.toNat) && decide (z.toNat ≤ j.launch.regsMax) && f s' j

/-- The premises of FORK, with a condition on the child count. -/
noncomputable def forking (f : Nat → Bool) (s' : State) (j : Job) : Bool :=
  let addr := j.w.sreg64 12
  let q := s'.settleAll j.w.uid 256
  (q.warp? j.w.uid).any (fun w => !w.loads.any LoadOp.pendingMem && !w.acquiring w.seq) &&
    got (({ s := q, faults := [] } : Reader).units j addr 4) (fun x => x.1.faults.isEmpty && got (x.1.s.judgeRecord j.ctx [0] addr x.2) fun y =>
      y.2.2 && (y.1.awaitRelease j.w.uid 1).2 && f ((y.1.awaitRelease j.w.uid 1).1.childCount j.w.field)) &&
    decide (j.block.children < 16) && decide (j.launch.depth + 1 ≤ 8)

theorem witness_KernelWords :
    growing 16 (fun s' j => decide (16 ≤ j.w.alloc) && (s'.settleTop j.w 16).isSome) = true ∧ growing 128 (fun _ j => decide (j.w.alloc < 128)) = true ∧
    meets forge (forkMeta .lane 2 12 (.v 0)) (forking fun n => decide (n < 1024)) = true ∧
    meets crowd (forkMeta .lane 2 12 (.v 0)) (forking fun n => decide (1024 ≤ n)) = true ∧
    meets forge { cls := .gathered, scope := .block, dep := lostStoreDep } (fun _ j => j.block.children == 0) = true ∧
    meets forge { cls := .scalar, scope := .lane } (fun _ j => decide (j.w.region < 15)) = true := by decide +kernel

/-- A warp in its handler, with the frame of a split at 0x1000 whose next group is at 0x1004. -/
def handling (w : Warp) : Warp :=
  { w with mode := .handler, fpc := 0x1000,
           frame := some { slots := w.slots, parked := [], slot := 0, next := 0x1004, member := none, once := false, diverged := false, lost := none,
                           pop := false } }

theorem witness_TrapWords :
    meets bench { cls := .scalar, scope := .lane } (fun _ _ => true) = true ∧
    meets (rig handling) (eretMeta .lane 0) (fun s' j => j.w.frame.any fun fr =>
      got (s'.resumeCheck j.ctx (if eretMode j.w 0 = .skip then fr.next else j.w.fpc)) fun _ => true) = true ∧
    meets (rig handling) { cls := .laneOnly, scope := .lane, privileged := true } (fun _ _ => true) = true := by decide +kernel
theorem witness_Exchanges :
    let s := twins.modWarp 1 (withS [(20, 0x101)])
    meets s (xchgMeta s false .warp 8 (.s 20)) (fun s' j => j.launch.gang && decide ((1 : Nat) ≠ j.block.bid) && decide (1 < j.launch.griddim.toNat) &&
      !(s'.partnerSide j 1).isEmpty) = true ∧
    (let s := twins.modWarp 1 (withS [(20, 0x101)])
     meets s (xchgMeta s true .warp 48 (.s 20)) (fun s' j => !(s'.partnerSide j 1).isEmpty)) = true := by decide +kernel

/-! ## Events: witnesses -/

/-- The state after an instruction or an event, when there is one. -/
noncomputable def next (i : Instr) (s : State) : State :=
  match exec i s with
  | .next t => t
  | _ => s

/-- A desk whose warp has a pending load, one whose warp has a store in its queue, one with that store in flight, and the same with an
atomic. -/
noncomputable def loading : State := next (.ld .lane 8 4 7 2 false false) (deskW fun w => solo (pointing w))
noncomputable def storing : State := next (.st .lane 8 4 7 2 false false) (deskW fun w => solo (pointing w))
noncomputable def flying : State := next (.storeDrain 1) storing
noncomputable def adding : State := next (.atomAadd .lane 8 4 6 false) (deskW fun w => solo (pointing w))
noncomputable def reducing : State := next (.redAadd .lane 4 6 false) (deskW fun w => solo (pointing w))

/-- Two splits at one address. -/
def forked (w : Warp) : Warp :=
  { w with slots := w.slots.setIfInBounds 1 ((w.slots[0]?).getD none), inGroup := none }

/-- A warp that asks for n registers. -/
def asking (n : Nat) (w : Warp) : Warp := { w with growReq := some n, alloc := 16 }

/-- A desk with a cause due in its warp. -/
noncomputable def dueOne : State :=
  rig fun w => { w with due := some { u := 1, slot := 0, fpc := 0x1000, next := 0x1004, trap := .at 13 0 5, member := none, once := false, diverged := false, lost := none } }

theorem witness_CoreEvents :
    ((rig forked).warp? 1).any (fun x => x.due.isNone && x.mergeable 0 1) = true ∧
    (let s := rig fun w => w.modSplit 0 fun x => { x with waiting := true, want := some (.warp, 0x1000) }
     (s.warp? 1).any fun x => x.mode == .normal && x.growReq.isNone && x.due.isNone && s.canRelease x == some .warp) = true ∧
    (let s := rig fun w => w.modSplit 0 fun x => { x with blocked := some (.classes 63 63 63 63) }
     (s.warp? 1).any fun x => (x.split? 0).any fun z => z.blocked.any fun c => s.waitOver x c) = true ∧
    ((rig (asking 32)).grantable 0).isSome = true ∧
    (let s := rig (asking 5000)
     (s.grantable 0).isNone && ((s.coreWarps 0).all fun x => (s.growBlocked 0 64).contains x.uid) && ((s.growOrder 0).getLast?).isSome) = true ∧
    ((dueOne.warp? 1).any fun x => x.due.any fun r => r.trap.code == 13 && dueOne.mayRun x) = true ∧
    (let s := bench.modBlock 1 fun b => { b with bankq := [{ alloc := 0, cells := [], warp := 1, op := 7, run := 0 }] }
     (s.block? 1).any fun b => b.bankq[0]?.any fun q => q.add.isNone) = true := by decide +kernel

theorem witness_MemoryEvents :
    ((loading.warp? 1).any fun x => x.loads[0]?.any fun op => op.pendingMem && !loading.atomicAhead x op && op.kind == .mem && loading.shadows.isEmpty &&
      (op.accs.all fun a => !loading.frameLost (loading.ctxidOf x) a.key && (loading.opBytes x op a).all Option.isSome) && !(x.loads.take 0).any LoadOp.pendingMem &&
      op.accs.any fun a => a.lane == 5 && op.lanes.getLsbD 5 && op.accs.find? (fun x => x.lane == a.lane) == some a &&
        (loading.lineFault (a.lines op.size)).isNone && decide (0 < op.nreg ∧ op.dest + op.nreg ≤ 128) && op.accs.length == 1) = true ∧
    ((storing.warp? 1).any fun x => x.sq.head?.any fun e => storing.mayDrain x e && e.flush.isEmpty) = true ∧
    ((flying.flights.head?).any fun f => flying.flight? f.id == some f && flying.mayApply f && !flying.stranded f.leaving f.peer f.src f.dst) = true ∧
    (let s : State := { flying with flights := flying.flights.map fun f => { f with leaving := true, applied := true } }
     (s.flights.head?).any fun f => s.flight? f.id == some f && s.mayAck f) = true ∧
    (let s : State := { reducing with areqs := reducing.areqs.map fun r => { r with leaving := true, applied := true } }
     (s.areqs.head?).any fun r => (s.flight? r.id).isNone && (s.areqs.find? fun q => q.id == r.id) == some r && s.mayAckRed r) = true ∧
    (let s : State := { desk with l1 := [{ core := 0, line := 64, home := 0, filled := true, repl := false, cells := [] }] }
     (s.l1Line? 0 64).isSome && s.pend.isEmpty) = true ∧
    (let s : State := { desk with slices := [{ line := 64, slice := 0, vcache := true, old := [] }] }
     (s.slices.find? fun d => d.line == 64).any fun d => s.cacheable d && s.clocked (d.slice / 40)) = true ∧
    ((adding.areqs.head?).any fun r => (adding.areqs.find? fun q => q.id == r.id) == some r && adding.mayAtom r && !r.peer &&
      !adding.stranded r.leaving r.peer r.src r.dst && !r.accs.isEmpty && (r.accs.all fun a => a.win.isNone) && (adding.lineFault [r.line]).isNone) = true ∧
    (let s : State := { adding with areqs := adding.areqs.map fun r => { r with applied := true } }
     (s.areqs.head?).any fun r => (s.areqs.find? fun q => q.id == r.id) == some r && s.mayReturn r) = true ∧
    (let s : State := { flying with flights := flying.flights.map fun f => { f with lost := true } }
     (s.flights.head?).any fun f => (s.flights.filter fun g => g.id == f.id && g.lost) == [f] &&
       (s.areqs.filter fun r => r.id == f.id && r.lost) == []) = true := by decide +kernel

/-- An engine whose first job is an MMLOOP, and one whose first job is a drain to a shape with the given offsets of its group. -/
noncomputable def looping : State := next (.mmloop .warp 0 0 0 1 20 0x10) mill
noncomputable def draining (h : BitVec 512) : State :=
  let s := next (.accdrn .warp 2 0 0 (.imm 0)) mill
  { s with engine := s.engine.map fun e => { e with kind := .drain h false false 0 0 } }

/-- A shape of n rows of one element in the scratchpad. -/
noncomputable def scratchShape (n : Nat) : BitVec 512 := shape 0 n 1 4 2 ||| BitVec.ofNat 512 (2 ^ 296)

/-- How many queued writes the first drain of a state to the scratchpad makes, its warp and its launch standing. -/
noncomputable def drainCells (h : BitVec 512) : Option Nat :=
  ((draining h).nextDrain 0).bind fun e =>
    if e.wrote || !shapeSpace h || ((draining h).ctx? e.field e.ctx).isNone then none
    else ((draining h).warp? e.warp).bind fun w => if 255 ≤ w.loads.length then none else ((draining h).launch? e.launch).map fun _ =>
      ((groupElems e.span).filterMap fun p => drainOffset h e.span 0 0 p.1 p.2).length

/-- What the first drain of a state still has to write: the lines of its elements. -/
noncomputable def drainLines (h : BitVec 512) : Option (List Nat) :=
  ((draining h).nextDrain 0).bind fun e => match (draining h).ctx? e.field e.ctx with
    | none => none
    | some c => match (draining h).drainElems c e h false 0 0 (groupElems e.span) with
      | .ok r => some (dedupNat (r.1.map fun x => lineOf x.place.key))
      | .error _ => none

/-- Drains that act: one whose writes are made and performed, one to the scratchpad that has elements to write, and one without; to memory
without lines, with one and with two. -/
theorem witness_Drains :
    (let s : State := { draining 0 with engine := (draining 0).engine.map fun e => { e with wrote := true } }
     (s.nextDrain 0).any fun e => e.wrote && (s.ctx? e.field e.ctx).isSome && (s.block? e.block).any (fun b => b.bankq.isEmpty) && s.performed 2 e.id) = true ∧
    drainCells (scratchShape 1) = some 1 ∧ drainCells (scratchShape 0) = some 0 ∧
    drainLines 0 = some [] ∧ drainLines (shape 0x2000 1 1 4 2) = some [64] ∧ drainLines (shape 0x2000 2 1 128 2) = some [64, 65] ∧
    shapeSpace (shape 0x2000 2 1 128 2) = false ∧ (∀ s : State, ∃ l, [64, 65][(s.someWord 1).toNat % [64, 65].length]? = some l) :=
  ⟨by decide +kernel, by decide +kernel, by decide +kernel, by decide +kernel, by decide +kernel, by decide +kernel, by decide +kernel,
    fun _ => ⟨_, List.getElem?_eq_getElem (Nat.mod_lt _ (by decide))⟩⟩

/-- A warp whose lane 5 holds a ray with no readable words. -/
def casting (w : Warp) : Warp :=
  { w with rays := w.rays.setIfInBounds 5 (some { id := 9, seq := 1, scope := 2, words := [], desc := [], deps := [], done := false, result := [], fault := none }) }

/-- A ray without a direction ends at once as a miss. -/
theorem rayEnd_no_ray (read : Nat → Nat → Except (Nat × Nat) (List Byte)) (p : Nat) : rayEnd [] [] read p = .ended 0 0 none 0 := by
  simp only [rayEnd, Option.isNone_iff_eq_none.mp (by decide +kernel : (rayIn []).isNone = true)]

/-- The beat of a multicast request that reads 0x2000. -/
def mcBeat : Access := { lane := 0, key := physKey 0 0 0x2000, home := 0, isLocal := true, nt := false, va := 0x2000 }

/-- A multicast request of 64 bytes, in state x. -/
def mcWaiting (x : McState) : McReq :=
  { id := 20, op := 7, warp := 1, core := 0, block := 1, launch := 1, field := 0, ctx := 1, slice := 0, rank := 0, members := 3, len := 64,
    src := 0x2000, alloc := 0, offset := 0, seq := 0, deps := [], scope := 2, mergeable := true, state := x,
    beats := [(0, mcBeat)], lines := [], bad := [] }

/-- An open session. -/
def mcOpen : McSession :=
  { id := 30, slice := 0, field := 0, ctx := 1, src := 0x2000, len := 64, members := 3, sent := false, recorded := 1, served := 0, lines := [], bad := [], freed := false }

/-- The twins with both sides of an XCHG waiting, and with both blocks PASSIVE. -/
noncomputable def swapping : State :=
  let offer : Word → XchgOffer := fun y => { keyed := false, setWide := false, desc := y, reg := 8, live := 0x20, start := 0x1000, next := 0x1004 }
  (twins.modWarp 1 fun w => { w with xchg := some (offer 0x101) }).modWarp 91 fun w => { w with xchg := some (offer 0x100) }
noncomputable def resting : State :=
  { twins with blocks := twins.blocks.map fun b => { b with passive := true, phqMask := 2 } }

theorem witness_UnitEvents :
    (looping.nextLoop 0).any (fun x => match looping.stepOf x.1 x.2 with
      | .ok _ => true
      | .error _ => false) = true ∧
    ((rig casting).warp? 1).any (fun x => ((x.rays[5]?).getD none).any fun r => !r.done && r.words.isEmpty && r.desc.isEmpty && (rig casting).unitReady 1 r.seq r.deps && ((rig casting).ctxOf x).isSome) = true ∧
    (let s : State := { mill with mcReqs := [mcWaiting .sent] }
     (s.mcReq? 20).any fun r => r.state == .sent && s.mcMayLeave r) = true ∧
    (let s : State := { mill with mcSessions := [mcOpen] }
     (s.mcSession? 30).any fun m => !m.sent) = true ∧
    (let s : State := { mill with mcReqs := [mcWaiting .unicast] }
     (s.mcReq? 20).any fun r => s.mcServing r mcBeat && (r.beats.find? fun b => b.1 == 0) == some (0, mcBeat)) = true ∧
    (swapping.warp? 1).any (fun x => (swapping.xchgIssuer x).any fun a => (swapping.block? a.1.block).any fun ba =>
      ((swapping.xchgPartners a.1 a.2 ba).head?).any fun p => (swapping.xchgIssuer p).any fun b =>
        xchgPartner b.2.desc == ba.bid && a.2.agrees b.2) = true ∧
    resting.phaseOver 1 = true ∧ (resting.block? 1).any (fun b => b.passive && (resting.phqItem b).2) = true := by decide +kernel

/-- The forge with an attached launch queue 0 of KIND k0 whose descriptor at 0x2000 (ring 0x2400, stamps 0x2080) has one packet of kind
k, and an attached copy queue's place, number 1, at the same descriptor. -/
noncomputable def yard (k0 k : Nat) : State :=
  let s := [(0x2000, 8, 0x2400), (0x2008, 8, 0x2080), (0x2010, 8, 1), (0x2020, 1, k0), (0x2021, 1, 4), (0x2024, 4, 1 - k0), (0x2080, 4, 1),
    (0x2400, 4, k + 0xFF0000 * (1 - k0)), (0x2408, 8, 0x2600 * min k 1), (0x2700, 4, 2)].foldl (fun s (x : Nat × Nat × Nat) => poke x.1 x.2.1 x.2.2 s) forge
  { s with queues := [{ field := 0, q := 0, state := .attached, ctx := 1, desc := 0x2000, kind := 0, taskTab := 0 },
                      { field := 0, q := 1, state := .attached, ctx := 1, desc := 0x2000, kind := 1, taskTab := 0 }] }

/-- A copy in progress. -/
def copying (done : Bool) (packet : List Byte) : CopyRun :=
  { id := 40, field := 0, engine := 0, ctx := 1, queue := some 1, order := 0, inst := none, packet := packet, desc := [], tq := 0, task := 0xFF,
    warp := none, op := 0, block := 0, claimed := none, session := none, pos := 0, before := [], done := done, fault := none }

/-- A LINEAR packet of 64 bytes from 0x2000, to memory or to allocation 0 of the scratchpad (R289, R290). -/
def linear (dst space : Nat) : List Byte := leBytes 8 0xFF0003 ++ leBytes 8 0x2000 ++ leBytes 8 dst ++ leBytes 4 64 ++ leBytes 36 space

/-- What head gives a queue of the yard: the packet's kind, and that its checks pass. -/
noncomputable def heads (k : Nat) (used : List Nat) : Bool :=
  ((yard 0 k).head 0 0).2.any fun x => x.1.kind == 0 && x.2.bytes.any fun b => !pkHeadBad b && pkKind b == k && !pkRestBad b used && !pkOrder b &&
    (k != 0 || (x.2.s.unitDec 0 0 (pkTask b)).2)

/-- The copy that COPY_START makes of a packet of queue 1. -/
noncomputable def runOf (x : Queue) (h : Head) (b : List Byte) : CopyRun :=
  let who := h.s.copyIssuer 0 x.ctx h.d.key h.d.rd (pkWord b 1)
  { id := h.s.nextUid, field := 0, engine := h.d.engine, ctx := x.ctx, queue := some 1, order := h.d.rd, inst := none,
    packet := b, desc := [], tq := h.d.tq, task := pkTask b, warp := who.map fun w => w.1, op := (who.map fun w => w.2.1).getD 0,
    block := (who.map fun w => w.2.2).getD 0, claimed := none, session := none, pos := 0, before := [], done := false, fault := none }

theorem witness_QueueEvents :
    (let s : State := { yard 0 0 with queues := [] }
     let u := s.queueWords 0 5 1 0x2000 true
     s.hostReach 0 && (s.queue? 0 5).isNone && (u.ctx? 0 1).any fun c => got (u.readDesc c .load 0x2000) fun x => x.2.any fun d => decide (d.kind < 2)) = true ∧
    ((yard 0 0).queue? 0 0).any (fun x => x.state == .attached && (yard 0 0).hostReach 0) = true ∧
    (let s : State := ((yard 0 0).modQueue 0 0 fun x => { x with state := .closing }).modLaunch 1 fun l => { l with origin := .fork 1 }
     (s.queue? 0 0).any fun x => x.state == .closing && !s.queueBusy 0 0) = true ∧
    heads 0 [] = true ∧ heads 1 [2, 3] = true ∧ heads 2 [2, 3] = true ∧
    (let s : State := { yard 0 0 with taskRetry := [{ field := 0, q := 0, work := .append (linear 0x2100 0) }] }
     s.taskRetry[0]?.any fun r => (s.queue? r.field r.q).any fun x => (s.ctx? x.field x.ctx).any fun c =>
       got (State.readDesc { s with taskRetry := [] } c .atom x.desc) fun y => y.2.any fun d => d.room && got (y.1.appendSlot c d (linear 0x2100 0)) fun _ => true) = true ∧
    (let s : State := { yard 0 0 with taskRetry := [{ field := 0, q := 0, work := .fetch 0x2400 }] }
     s.taskRetry[0]?.any fun r => (s.queue? r.field r.q).any fun x => (s.ctx? x.field x.ctx).any fun c =>
       got (State.getVirt { s with taskRetry := [] } c 0x2400 64) fun _ => true) = true ∧
    (((yard 1 3).head 0 1).2.any fun x => x.2.bytes.any fun b => x.1.kind == 1 && (yard 1 3).engineFree 0 x.2.d.engine &&
      (yard 1 3).copyTurn 0 x.2.d.engine == some 1 &&
      match Started.cleared x.2.c (State.startRun (State.copyServed { x.2.s with nextUid := x.2.s.nextUid + 1 } 0 x.2.d.engine 1) x.2.c (runOf x.1 x.2 b)) with
      | .run _ _ => true
      | _ => false) = true ∧
    (let s : State := { yard 0 0 with copies := [copying true []] }
     (s.copies.find? fun r => r.id == 40).any fun r => (s.ctx? r.field r.ctx).any fun c => c.copying && r.session.isNone && s.copyDone r) = true ∧
    (let s : State := { yard 0 0 with copies := [copying false (linear 0x2100 0)] }
     (s.copies.find? fun r => r.id == 40).any fun r => (s.ctx? r.field r.ctx).any fun c => c.copying && r.session.isNone && !r.done &&
       r.fault.isNone && pkKind r.packet != 6 && dstSpace r.packet == 0 && decide (r.chunk.length ≠ 0) &&
         let u := s.roundShadows (s.copyKeys c r.chunk)
         match u.copyMem c r.id (u.copyMoves c (copyElems r.packet r.desc)) r.before 0 r.chunk with
         | .ok _ _ => true
         | _ => false) = true ∧
    (let s : State := { yard 0 0 with copies := [{ copying false (linear 0x100 1) with warp := some 1, block := 1 }] }
     (s.copies.find? fun r => r.id == 40).any fun r => (s.ctx? r.field r.ctx).any fun c => c.copying && r.session.isNone && !r.done &&
       r.fault.isNone && pkKind r.packet != 6 && dstSpace r.packet != 0 && decide (r.chunk.length ≠ 0) && (r.warp.bind s.warp?).any fun w =>
         !classFull w.loads && (s.block? r.block).any fun b => b.state == .resident && (s.launch? b.launch).any fun l =>
           match (s.roundShadows (s.copyKeys c r.chunk)).copyScratch c (r.target b l).2.1 r.chunk with
           | .ok ws => decide (ws.length ≠ 0)
           | _ => false) = true ∧
    (let s : State := { yard 0 0 with sessions := [{ field := 0, index := 0, ctx := 1, dst := 0, len := 0, expect := 0, words := [], runs := [], cells := [], closed := false }] }
     (s.sessions.find? fun x => x.field == 0 && x.index == 0).any fun x => (s.ctx? x.field x.ctx).any fun c => x.runs.length == x.expect && c.copying) = true ∧
    (let s : State := { yard 0 0 with copies := [copying false [6]] }
     (s.copies.find? fun r => r.id == 40).any fun r => (s.ctx? r.field r.ctx).any fun c => c.copying && pkKind r.packet == 6 && !r.done) = true := by
  decide +kernel

/-- The yard with a launch 50 of KIND k of queue 0, ACCEPTED, whose cores have room. -/
noncomputable def waitingLaunch (k : Nat) : State :=
  let s := yard 0 0
  { s with launches := s.launches ++ [{ probeLaunch 50 [] with state := .accepted, kind := k, record := 0x2600, next := 0, group := 1, order := 5 }],
           fields := s.fields.map fun f => { f with coremask := 1 } }

/-- The yard's launch as a population that gathers, every lane's weight 1. -/
noncomputable def crowded : State :=
  let r : Rsmpl := { start := 0x1000, next := 0x1004, d := 4, a := 2, b := .imm 4, target := 4 }
  let s := (((yard 0 0).modLaunch 1 fun l => { l with kind := 2 }).modBlock 1 fun b => { b with rsmpl := some r }).modWarp 1 (withV [(2, 0x3F800000)])
  { s with populations := [{ launch := 1, state := .gathering, generation := 0, cap := 64, n0 := 32, seed := 1, plist := 0x2700, killed := 0, clones := 0,
                             statS := [0, 0, 0], statU := 0, target := 4, cloneCount := 0, pending := [], post := none }] }

/-- A bench whose watchdog has a limit, with the step it watches its block from. -/
noncomputable def ticking (x : Option Nat) : State :=
  (bench.modCtx 0 1 fun c => { c with wdoglim := 1 }).modBlock 1 fun b => { b with watch := x }

theorem witness_LaunchEvents :
    (let s := (waitingLaunch 0).modLaunch 50 fun l => { l with state := .submitted }
     (s.launch? 50).any fun l => (s.ctx? l.field l.ctx).any fun c => l.state == .submitted && got (s.readLaunch c [0, 1, 2] l.record) fun x => x.2.2) = true ∧
    (let s := waitingLaunch 0
     (s.launch? 50).any fun l => s.queueOf l == some 0 && (s.hasTurn l.field 0).isSome && !l.whole && (s.queueWait 0 0).isNone && ((s.nextLaunch l.field 0).any fun n => n.uid == l.uid) &&
       !((s.queueJoins l.field 0).any fun (x : Block × Launch) => x.2.uid == l.uid) && (s.emptiest (openCores l (s.takes l))).isSome) = true ∧
    (let s := waitingLaunch 1
     (s.launch? 50).any fun l => s.queueOf l == some 0 && (s.hasTurn l.field 0).isSome && l.whole && (s.queueWait 0 0).isNone && ((s.nextLaunch l.field 0).any fun n => n.uid == l.uid) &&
       (s.gangCores l).isSome) = true ∧
    (let s := bench.modWarp 1 fun w => { w with mode := .ended }
     (s.block? 1).any fun b => (s.launch? b.launch).any fun l => s.mayRetire b && (s.queueOf l).isSome && l.kind != 2 && ((s.queueOf l).bind (s.queueWait l.field)).isNone) = true ∧
    (let s := crowded.modWarp 1 fun w => { w with mode := .ended }
     (s.block? 1).any fun b => (s.launch? b.launch).any fun l => l.kind == 2 && ((s.queueOf l).bind (s.queueWait l.field)).isNone &&
       !(s.launchBlocks l.uid).isEmpty && (s.launchBlocks l.uid).all s.mayRetire) = true ∧
    (let s := bench.modLaunch 1 fun l => { l with retired := 1 }
     (s.launch? 1).any fun l => (s.ctx? l.field l.ctx).isSome && s.mayComplete l && l.origin == .queue 0 && l.done == 0 && (s.unitDec l.field 0 l.task).2) = true ∧
    (let s := bench.modLaunch 1 fun l => { l with retired := 1, done := 0x2000 }
     (s.launch? 1).any fun l => (s.ctx? l.field l.ctx).isSome && s.mayComplete l && l.origin == .queue 0 && l.done != 0 && (s.unitDec l.field 0 l.task).2) = true ∧
    (let s := desk.modLaunch 1 fun l => { l with state := .complete, done := 0x2000 }
     (s.launch? 1).any fun l => (s.ctx? l.field l.ctx).any fun c => l.state == .complete && s.writesDone l.writers 3 &&
       got ((s.forget l).putVirt c true l.done (leBytes 4 1)) fun _ => true) = true ∧
    (let s := bench.modLaunch 1 fun l => { l with retired := 1, origin := .fork 77 }
     (s.launch? 1).any fun l => (s.ctx? l.field l.ctx).isSome && s.mayComplete l && l.origin == .fork 77 && ((s.forget l).block? 77).isNone) = true ∧
    (let s : State := bench.modLaunch 1 fun l => { l with retired := 1, origin := .fork 77 }
     let s : State := { s with blocks := s.blocks ++ [newBlock 77 9 0 0] }
     (s.launch? 1).any fun l => (s.ctx? l.field l.ctx).isSome && s.mayComplete l && l.origin == .fork 77 && ((s.forget l).block? 77).isSome) = true ∧
    (let s := (waitingLaunch 0).modBlock 1 fun b => { b with state := .swapped }
     (s.block? 1).any fun b => (s.launch? b.launch).any fun l => s.queueOf l == some 0 && b.children == 0 && s.movable b && s.imageHere l b && (s.queueWait 0 0).isNone && (s.hasTurn l.field 0).isSome &&
       (s.emptiest (s.joinCores b { l with group := 1 })).isSome) = true ∧
    (let s := crowded
     (s.pop? 1).any fun p => (s.launch? 1).any fun l => p.state == .gathering && ((s.countedBlocks 1).filterMap Block.rsmpl).length == 1 &&
       ((s.countedBlocks 1).all fun b => b.rsmpl.isSome && (b.state != .swapped || b.children == 0) &&
         s.warps.all fun w => w.block != b.uid || w.mode == .dormant || !w.asyncs.any (releaseDep 1)) &&
       ((s.launchWarps 1).all fun w => w.mode != .handler && w.mode != .held && w.due.isNone) &&
       let t := (s.launchWarps 1).foldl (fun s w => s.quiesce w.uid) s
       t.popQuiet (s.launchWarps 1) && (t.popCheck p (membersOf ((s.launchWarps 1).filter fun w => (s.countedBlocks 1).any fun b => b.uid == w.block))
         ((s.countedBlocks 1).filterMap Block.rsmpl)).isNone && (t.ctx? l.field l.ctx).isSome) = true ∧
    (let s := crowded.modPop 1 fun p => { p with state := .placing, post := some (7, true) }
     (s.pop? 1).any fun p => (s.launch? 1).any fun l => (s.ctx? l.field l.ctx).any fun c => p.state == .placing && p.post == some (7, true) &&
       (s.countedBlocks 1).any (fun b => b.rsmpl.isSome) && ((s.countedBlocks 1).all fun b => b.state == .resident) &&
       got (s.getVirt c p.plist 4) fun x => leNat x.2 == 2 && got (x.1.checkRuns c .load []) fun ps => let y := x.1.unitLoad (ps.map (·.key))
         y.1.targetLanes 1 [] == some [] && got (y.1.putVirt c true p.plist (leBytes 4 3)) fun _ => true) = true ∧
    (let s := ticking none
     (s.block? 1).any fun b => (s.launch? b.launch).any fun l => (s.ctx? l.field l.ctx).any fun c => s.counts l b && c.wdoglim != 0 && b.watch.isNone) = true ∧
    (let s := ticking (some 0)
     (s.block? 1).any fun b => (s.launch? b.launch).any fun l => (s.ctx? l.field l.ctx).any fun c => s.counts l b && c.wdoglim != 0 && b.watch == some 0 &&
       !s.progressed b 0 && (s.modWarp 1 fun w => { w with issuedAt := 1 }).progressed b 0) = true := by
  decide +kernel

/-- A node's record of a kind, with some bytes. -/
def nd (k : Nat) (l : List (Nat × Nat)) : List Byte :=
  (List.range 64).map fun i => if i = 0 then BitVec.ofNat 8 k else BitVec.ofNat 8 (((l.find? fun x => x.1 == i).map fun x => x.2).getD 0)

/-- A running graph of one node with some instances. -/
def plan (node : List Byte) (is_ : List Inst) : Graph :=
  { uid := 60, field := 0, ctx := 1, queue := 0, order := 9, task := 0xFF, barrier := false, state := .running, addr := 0x2800,
    header := (List.range 64).map fun i => if i = 25 then 0x29 else 0, nodes := [node], kinfos := [[]], ress := [nd 1 []], cursor := 0, loops := [0],
    insts := is_, slots := [], status := 0, relIdx := 0, retIdx := 0, writers := [] }

/-- An instance of node 0 with one tile, for launch 50. -/
def inst (x : InstState) (t : TileState) : Inst :=
  { index := 0, node := 0, turn := 0, state := x, tiles := [{ index := 0, state := t, wait := 0, slots := [], block := 1 }], producers := [], launch := 50, copy := 0 }

/-- A PASS of one tile that writes the Saggar of resource 0, or nothing. -/
def pass (writes : Nat) : List Byte := nd 0 [(19, writes), (28, 1), (30, 1), (35, 0x80)]

/-- The mill with a graph, and with the graph that validates at 0x2800. -/
noncomputable def graphing (g : Graph) : State := { waitingLaunch 3 with graphs := [g] }
noncomputable def drafting : State :=
  let s := [(0x2800, 2, 1), (0x2802, 2, 1), (0x2808, 8, 0x2840), (0x2810, 8, 0x2880), (0x2840, 1, 2), (0x2844, 8, 0xFFFFFFFFFFFFFFFF), (0x284C, 2, 1),
    (0x284E, 2, 1)].foldl (fun s (x : Nat × Nat × Nat) => poke x.1 x.2.1 x.2.2 s) mill
  { s with graphs := [{ plan [] [] with state := .submitted }] }

/-- A graph goes, and it and its context have a property. -/
noncomputable def goes (g : Graph) (f : State → Graph → Context → Bool) : Bool :=
  ((graphing g).goingGraph 60).any fun x => f (graphing g) x.1 x.2

/-- Its instance of a node of kind k may start. -/
noncomputable def starts (k : Nat) : Bool :=
  goes (plan (nd k []) [inst .issued .ready]) fun _ g _ => (g.inst? 0).any fun i => g.mayStart i && ndKind (g.node i.node) == k

/-- A graph without nodes whose STATUS is at 0x2100. -/
def statusPlan : Graph := { plan [] [] with nodes := [], header := (List.range 64).map fun i => if i = 41 then 0x21 else 0 }

theorem witness_GraphEvents :
    ((drafting.graph? 60).any fun g => (drafting.ctx? g.field g.ctx).any fun c => drafting.mayValidate g && !addrBad g.addr 64 &&
      got (drafting.readChunks c 64 g.addr 1) fun hs => !headerBad c (hs.2.getD 0 []) &&
        got (hs.1.readGraph c { g with header := hs.2.getD 0 [] }) fun r => (r.1.graphWait c r.2).isNone && (r.1.verdict c r.2).isNone) = true ∧
    goes (plan (nd 5 []) []) (fun _ g _ => decide (g.cursor < g.nodes.length) && !g.atBranch) = true ∧
    goes (plan (nd 2 []) []) (fun _ g _ => decide (g.cursor < g.nodes.length) && g.atBranch && g.allDone && recAddr (g.node g.cursor) 16 == 0) = true ∧
    goes (plan (nd 3 [(17, 0x20)]) []) (fun s g c => g.atBranch && g.allDone && recAddr (g.node g.cursor) 16 == 0x2000 && got (s.getVirt c 0x2000 4) fun _ => true) = true ∧
    starts 0 = true ∧ starts 1 = true ∧ starts 4 = true ∧ starts 5 = true ∧
    (let g := plan (nd 4 [(12, 1)]) [inst .started .ready]
     let s := (graphing g).modCtx 0 1 fun c => { c with wins := [slotOne] }
     (s.goingGraph 60).any fun x => (x.1.inst? 0).any fun i => i.state == .started && ndKind (x.1.node i.node) == 4 &&
       (x.2.win? (recNat (x.1.node i.node) 12 1)).any fun w => let b := x.1.node i.node
         recNat b 13 1 == 0 && !w.srcOvf && decide (recNat b 16 4 + recNat b 20 4 * i.turn ≤ w.src.toNat)) = true ∧
    goes { plan [] [] with nodes := [], header := [] } (fun s g _ => g.allDone && g.statusAddr == 0 && g.nodes.length == 0 &&
      s.writesDone g.writers 2 && (s.unitDec g.field g.queue g.task).2) = true ∧
    goes statusPlan (fun s g _ => g.allDone && g.statusAddr == 0x2100 && g.nodes.length == 0 && s.writesDone g.writers 2 &&
      (s.unitDec g.field g.queue g.task).2) = true ∧
    (let s := graphing { statusPlan with state := .complete }
     (s.graph? 60).any fun g => (s.ctx? g.field g.ctx).any fun c => c.going && g.state == .complete && s.writesDone g.writers 3 &&
       got (State.putVirt { s with graphs := [] } c true g.statusAddr (leBytes 4 0x80000000)) fun _ => true) = true ∧
    goes (plan (pass 0) [inst .started .ready]) (fun s g c => c.hwRelease && (s.queueWait g.field g.queue).isNone && (s.hasTurn g.field g.queue).isSome &&
      (s.openTiles g.field g.queue s.takes).head?.any fun x => x.1 == g && x.2.1.index == 0 && x.2.2.index == 0 &&
        (s.launch? x.2.1.launch).any fun l => (s.emptiest (openCores l fun n => s.takes l n && (!((binds (g.node x.2.1.node)).any fun z => !bdWrite z && rsSaggar (g.res (bdRes z))) ||
          s.vaultOnline g.field (n % 40)))).isSome) = true ∧
    (let g := plan (pass 0) [inst .started .ready]
     let s := poke 0x2900 4 0x80000000 ((graphing g).modCtx 0 1 fun c => { c with modes := 2 })
     (s.goingGraph 60).any fun x => !x.2.hwRelease && got (s.relqWord x.2 x.1) fun w => bitOf w.2 31 && (x.1.named w.2).any fun y =>
       let u := w.1.release1 x.1 y.1.index y.2.index
       u.blocks.length != w.1.blocks.length && got (u.relqNext x.2 x.1) fun _ => true) = true ∧
    (let g := plan (pass 1) [inst .started .ready]
     let s := poke 0x2900 4 0x80000000 ((graphing g).modCtx 0 1 fun c => { c with modes := 2 })
     (s.goingGraph 60).any fun x => !x.2.hwRelease && got (s.relqWord x.2 x.1) fun w => bitOf w.2 31 && (x.1.named w.2).any fun y =>
       (w.1.release1 x.1 y.1.index y.2.index).blocks.length == w.1.blocks.length) = true ∧
    goes { plan (pass 1) [inst .started .ready] with cursor := 1 } (fun _ g c => c.hwRelease && g.stalled && g.starved == some 0) = true ∧
    (let s := (graphing (plan (pass 0) [inst .started .running])).modBlock 1 fun b => { b with state := .retired }
     (s.graph? 60).any fun g => (g.inst? 0).any fun i => (s.ctx? g.field g.ctx).any fun c => c.hwRelease && (i.tile? 0).any fun y => y.state == .running &&
       (s.block? y.block).any fun b => s.mayRetireTile b) = true := by decide +kernel

/-- The mill with a context record for context 5 at 0x2800 (R268), a window entry at 0x2900 and an exported handle of entry 3. -/
noncomputable def court : State :=
  let h : Handle := { field := 0, index := 3, modul := 0, state := 1, gen := 4, ctx := 1, target := 0, base := 0, len := 9, mask := 0, drains := [], byHost := false }
  let s := [(0x2800, 2, 1), (0x2802, 2, 5), (0x2808, 1, 2), (0x280D, 1, 1), (0x280F, 1, 2), (0x2810, 1, 1), (0x2900, 1, 2), (0x2908, 8, (handleOf 0 0 3 4).toNat),
    (0x2910, 4, 9)].foldl (fun s (x : Nat × Nat × Nat) => poke x.1 x.2.1 x.2.2 s) mill
  { (s.modCtx 0 1 fun c => { c with wintab := 0x2900 }) with handles := [h] }

/-- A second context of higher priority with work, on the same cores. -/
noncomputable def rivals (x : CtxState) : State :=
  let s := waitingLaunch 0
  { s with contexts := s.contexts ++ [{ probeCtx with ctxid := 2, state := x, prio := 3 }],
           launches := s.launches ++ [{ probeLaunch 80 [] with ctx := 2 }], blocks := s.blocks ++ [{ newBlock 81 80 0 0 with state := .saved }] }

/-- Context 1 of a state in a state of its own, with a property. -/
noncomputable def ctxAt (s : State) (x : CtxState) (f : State → Context → Bool) : Bool :=
  ((s.modCtx 0 1 fun c => { c with state := x }).ctx? 0 1).any fun c => c.state == x && f (s.modCtx 0 1 fun c => { c with state := x }) c

/-- A bench whose context owns the frame that its image starts in. -/
noncomputable def held : State :=
  { bench with frames := [{ field := 0, frame := keyPa (imageRange probeCtx 0).1 / 2 ^ 16, owner := 1, clean := true, out := [] }] }

theorem witness_ContextEvents :
    (let u := court.slotWords 0 0x1000 1 [5, 0x2800, 0]
     let r := u.engineRead ((List.range 128).map fun i => physKey 0 0 (0x2800 + i))
     court.hostReach 0 && ((u.field? 0).any fun f => decide (0x2800 + 128 ≤ f.membytes)) && !r.1.ctxBad 0 5 r.2 &&
       decide ((r.1.contexts.filter fun y => y.field == 0).length < 64)) = true ∧
    ctxAt court .idle (fun s _ => s.hostReach 0) = true ∧ ctxAt court .running (fun _ c => c.preemptible) = true ∧
    ((court.slotWords 0 0x1000 5 [1, 0, 0]).slotHolder 0 1 0 0).isSome = true ∧ ((court.slotWords 0 0x1000 6 [1, 0, 0]).slotHolder 0 1 0 0).isSome = true ∧
    ctxAt (waitingLaunch 0) .idle (fun s c => s.ctxWork c && !s.outranked c) = true ∧
    ctxAt (waitingLaunch 0) .saved (fun s c => (s.blocksIn c .saved).isEmpty && s.ctxWork c && !s.outranked c) = true ∧
    ctxAt (rivals .saved) .running (fun s c => c.preemptible && s.outranked c) = true ∧
    ctxAt (bench.modField 0 fun f => { f with hot := 1 }) .running (fun s c => s.inHotZone c) = true ∧
    ctxAt bench .draining (fun s c => s.blocksIn c .resident != []) = true ∧ ctxAt bench .saving (fun _ c => !c.thermal) = true ∧
    ctxAt held .saving (fun s c => let bs := s.blocksIn c .resident
      let us := (s.warpsIn bs).map (·.uid)
      let t := us.foldl State.quiesce s
      us.length == 1 && bs.length == 1 && (bs.all fun b => t.quietBlock b.1) && (imagesOf c (bs.map (·.1))).all (fun x => t.vaultOnline 0 x.1) && t.ownsImages c (bs.map (·.1))) = true := by
  decide +kernel

/-- The desk with a miss of page 2 that the host has not answered. -/
noncomputable def missing : State :=
  { (desk.modCtx 0 1 fun c => { c with modes := 1 }) with misses := [{ field := 0, ctx := 1, page := 2, kind := 0, joined := [], answered := false }] }

/-- The same without host-assisted fill, a table for page 2 at 0x4000 to 0x7FFF when there is one. -/
noncomputable def walking (entry : Nat) : State :=
  let s := [(0x4000, 8, 0x5001), (0x5000, 8, 0x6001), (0x6000, 8, 0x7001), (0x7010, 8, entry)].foldl (fun s (x : Nat × Nat × Nat) => poke x.1 x.2.1 x.2.2 s) missing
  s.modCtx 0 1 fun c => { c with modes := 0, ptroot := 0x4000 }

/-- Its walk, with the premises of PAGE_WALK. -/
noncomputable def walked (s : State) : Option (Option Dword) :=
  (s.ctx? 0 1).bind fun c =>
    if c.modes.getLsbD 0 || !(s.misses.any fun m => m.field == c.field && m.ctx == c.ctxid && m.page == va56 0x2000 / 2 ^ 12 && !m.answered) then none
    else some (s.walkNow c (va56 0x2000)).2

theorem witness_PageEvents :
    walked (walking 0) = some none ∧ walked (walking dataPte.toNat) = some (some dataPte) ∧
    (desk.ctx? 0 1).any (fun c => !c.modes.getLsbD 0 && desk.misses.isEmpty) = true ∧
    (let t := missing.fillWords 0 1 0x2000 dataPte
     missing.hostReach 0 && (missing.ctx? 0 1).any fun c =>
       (t.misses.find? fun m => m.field == 0 && m.ctx == 1 && m.page == va56 0x2000 / 2 ^ 12 && !m.answered).isSome && t.fillOk c dataPte) = true ∧
    (desk.hostReach 0 && (desk.ctx? 0 1).isSome && va56 0x2000 % 2 ^ 12 == 0 && canonical 0x2000 && !desk.usesRange 0 1 (va56 0x2000) 12) = true ∧
    (desk.usesRange 0 1 0 56 = false) ∧
    (desk.ctx? 0 1).any (fun c => c.framePos 0 == some 0 && (desk.frameOf 0 0).owner != 1 && desk.vaultOnline 0 0) = true ∧
    (desk.present 0 && desk.vaultOnline 0 39 && (desk.field? 0).any fun x => !x.remapBad.getLsbD 39 && !x.mirrorBad.getLsbD 39) = true := by decide +kernel

/-- A peer store, applied at its own end. -/
noncomputable def peering : State := { flying with flights := flying.flights.map fun f => { f with peer := true, applied := true } }

theorem witness_WindowEvents :
    (let t := court.slotWords 0 0x1200 1 [1, 0, 0, 0, 9]
     court.hostReach 0 && (t.ctx? 0 1).any fun c => c.state != .killed && t.exportable c 0 0 9 && (t.freeHandle c.field).isSome) = true ∧
    (let v := handleOf 0 0 3 4
     let t := court.slotWords 0 0x1200 2 [0, 0, 0, 0, 0, loWord v, hiWord v]
     (t.handle? 0 (handleEntry v)).any fun h => v == handleOf h.modul 0 h.index h.gen && h.state == 1) = true ∧
    (let t := court.slotWords 0 0x1200 3 [1, 0]
     (t.ctx? 0 1).any fun c => c.state != .killed && (c.win? 0).isNone &&
       !(t.engineRead ((List.range 32).map fun i => physKey 0 0 (c.wintab.toNat + i))).1.bindBad c
         (t.engineRead ((List.range 32).map fun i => physKey 0 0 (c.wintab.toNat + i))).2) = true ∧
    ((desk.slotWords 0 0x1200 4 [1, 1]).ctx? 0 1).any (fun c => (c.win? 1).isSome) = true ∧
    (let s : State := { court with notices := [{ field := 0, handle := 7, marker := false }] }
     s.notices.contains { field := 0, handle := 7, marker := false }) = true ∧
    (let v := handleOf 0 0 3 4
     let s : State := { court with notices := [{ field := 2, handle := v, marker := true }] }
     handleField v == 0 && s.itemsIn 2 v && s.notices.contains { field := 2, handle := v, marker := true }) = true ∧
    (court.handle? 0 3).any (fun h => h.state == 1 && h.gen == 4) = true ∧
    ((peering.flights.head?).any fun f => (peering.peerItem f.id).isSome && peering.hostWrites.isEmpty) = true ∧
    (let s : State := { bench with hostWrites := [(9, 1, 1)] }
     s.hostWrites.any fun x => x.1 == 9) = true := by decide +kernel

/-- A crossing that is UP with five healthy modules. -/
noncomputable def linked (q : List FlitSeq) : State :=
  { bench with crossings := [{ index := 0, fa := 0, fb := 1, cstate := 2, healthy := 0x1F, repairing := 0, seqs := q, lanes := [] }] }

/-- A data flit of a sequence number without a packet, with its own CRC. -/
def flit (n : Byte) : List Byte :=
  let b := (List.range 248).map fun i => if i = 0 then (1 : Byte) else if i = 2 then n else 0
  b ++ leBytes 8 (crc64 b)

/-- The state of module 0 from the first field, which sends n next. -/
def sending (n : Nat) (due : Bool) : FlitSeq :=
  { dir := 0, modul := 0, nextSend := n, expect := 0, acked := 0, replay := [], again := none, moved := [], nackDue := due, nacks := 0,
    credits := Vector.replicate 9 0 }

/-- The premises of FLIT_RECEIVE for a good data flit, with a condition on its SEQ and what the receiver expects. -/
noncomputable def carries (n : Byte) (f : Nat → Nat → Bool) : Bool :=
  let s := linked [sending n.toNat false]
  (s.crossing? 0).any fun c => s.crossingUp 0 && c.healthy.getLsbD 0 && !c.repairing.getLsbD 0 && !flitBad (flit n) && flType (flit n) == 1 &&
    ((c.seq 0 0).sent (flit n)).isSome && ((flitPackets 16 (flPayload (flit n))).all fun p => c.laneFits 0 p) && flCtl (flit n) != 1 &&
    f (flSeq (flit n)) (c.seq 0 0).expect

/-- A state whose last power samples were all x milliwatts, with a count of low means. -/
noncomputable def powered (x low : Nat) : State := { bench with power := List.replicate 99 x, powerLow := low }

/-- The sum and the count of the samples that a power sample makes. -/
noncomputable def meanOf (s : State) (x : Nat) : Nat × Nat := ((((x :: s.power).take 100).foldl (· + ·) 0), ((x :: s.power).take 100).length)

theorem witness_HostAndLinkEvents :
    bench.hostReach 0 = true ∧ (bench.hasByte 0 (0x2000 + 4 - 1) && bench.hasByte 0 (0x2000 + 8 - 1)) = true ∧
    (court.hostReach 0 && (court.handle? 0 3).any fun h => h.state == 1 && h.gen == 4 && h.target == 0 && decide (h.base ≤ 0x2000) &&
      decide (0x2000 + 8 ≤ h.base + h.len * 2 ^ 12)) = true ∧ (court.handle? 0 4).isNone = true ∧
    (!actingWord 0x5400 3 && !actingWord 0x1000 0 && !partWord 0x5400 && !partWord 0x1000) = true ∧
    carries 0 (fun a e => a == e) = true ∧ carries 1 (fun a e => a != e) = true ∧ flitBad [] = true ∧
    ((linked [sending 0 true]).crossing? 0).any (fun c => (c.seq 0 0).nackDue) = true ∧
    ((((linked []).modCrossing 0 fun c => c.disable 0).logError 5 0 0 0).crossing? 0).any
      (fun d => decide (4 ≤ ((List.range 16).filter fun k => d.healthy.getLsbD k).length)) = true ∧
    (bench.powerOn.flash.keyDigest == bench.powerOn.fuses.keyDigest && decide (bench.powerOn.fuses.version ≤ bench.powerOn.flash.version)) = true ∧
    850000 * (meanOf (powered 900000 0) 900000).2 < (meanOf (powered 900000 0) 900000).1 ∧
    (800000 * (meanOf (powered 820000 0) 820000).2 ≤ (meanOf (powered 820000 0) 820000).1 ∧
      (meanOf (powered 820000 0) 820000).1 ≤ 850000 * (meanOf (powered 820000 0) 820000).2) ∧
    ((meanOf (powered 700000 0) 700000).1 < 800000 * (meanOf (powered 700000 0) 700000).2 ∧ (powered 700000 0).powerLow < 99) ∧
    ((meanOf (powered 700000 99) 700000).1 < 800000 * (meanOf (powered 700000 99) 700000).2 ∧ 99 ≤ (powered 700000 99).powerLow) ∧
    ((List.range 4).all fun z => decide (hottest (sensorsOf [400] []) z < 1150)) = true ∧
    (decide (1150 ≤ hottest (sensorsOf [0, 0, 0, 0, 1150] []) 1) && decide (hottest (sensorsOf [0, 0, 0, 0, 1150] []) 0 < 1150)) = true ∧
    bench.present 0 = true ∧ (bench.field? 0).any (fun x => x.fstate != 0) = true := by decide +kernel

/-! ## The machine: witnesses -/

theorem witness_DecodeOfEncode : WellFormed (.ld .warp 8 4 7 2 false false) ∧ WellFormed (.fmul .lane 3 2 (.lit 5)) := by
  constructor <;> exact ⟨by decide, by decide⟩

/-- The conditions of an issue turn of the warp that withFetchWord makes, for a word. -/
noncomputable def turns (nbits w : Nat) (addr : Nat) (f : State → Warp → Split → Word → Bool) : Bool :=
  let s := (State.reset.withFetchWord nbits w).modWarp 1 fun w => w.modSplit 0 fun x => { x with pc := BitVec.ofNat 64 addr }
  let t : State := { s with fresh := s.fresh + 1 }
  s.agenda.isEmpty && (t.warp? s.cur).any fun w => t.mayRun w && w.due.isNone && w.stepDue.isNone && w.mergePair.isNone && (t.pickSlot w).any fun k =>
    (w.split? k).any fun x => match t.fetchWordAt w x.pc with
      | .ok word => f t w x word
      | _ => false

/-- A word decodes, with the bytes after it. -/
noncomputable def decodes (bs : List Byte) : Bool := match decodeBytes bs with
  | .ok _ => true
  | .error _ => false

theorem witness_StepRunsTheDecodedInstruction :
    turns 32 0x6C000000 0x1000 (fun _ _ _ word => !takesLiteral word && decodes (bytesOfWord word)) = true ∧
    turns 32 0xFFFFFFFF 0x1000 (fun _ _ _ word => !takesLiteral word && !decodes (bytesOfWord word)) = true ∧
    turns 64 0x3E2AAAAB200C2FF2 0x1000 (fun t w x word => takesLiteral word && x.pc.toNat % 64 != 0x3C && match t.fetchWordAt w (x.pc + 4) with
      | .ok lit => decodes (bytesOfWord word ++ bytesOfWord lit)
      | _ => false) = true ∧
    (let s := State.reset.withCode ((List.range 60).map (fun _ => (0 : Byte)) ++ bytesOfWord 0x200C2FF2)
     let t := s.modWarp 1 fun w => w.modSplit 0 fun x => { x with pc := 0x103C }
     (t.warp? t.cur).any fun w => t.mayRun w && w.due.isNone && w.stepDue.isNone && w.mergePair.isNone && (t.pickSlot w).any fun k => (w.split? k).any fun x =>
       match t.fetchWordAt w x.pc with
       | .ok word => takesLiteral word && x.pc.toNat % 64 == 0x3C && decodes (bytesOfWord word ++ bytesOfWord 0)
       | _ => false) = true ∧
    (Instr.isEvent (.machineCheck 0) && !bench.holds (.machineCheck 0)) = true ∧
    (Instr.isEvent (.kstepApply 0) && (bench.modField 0 fun f => { f with stopped := true }).holds (.kstepApply 0)) = true ∧
    bench.present 0 = true := by decide +kernel

/-- The decode cause of a warp of the bench for what an instruction names, on a variant. -/
noncomputable def causeOn (v : Variant) (m : Meta) (hs : List Hint) : Option (Nat × Dword) :=
  let s : State := { bench with variant := v }
  (s.warp? 1).bind fun w => m.decodeCause s w hs 0x103C
noncomputable def causeOf (m : Meta) (hs : List Hint) : Option (Nat × Dword) := causeOn bench.variant m hs

/-- The conditions of the last clause of DecodeCauses for an instruction of no operands and a state. -/
noncomputable def passes (m : Meta) (s : State) : Bool :=
  (s.warp? s.cur).any fun w => (w.split? s.fetch.slot).any fun sp => (s.ctxOf w).isSome && (s.launchOf w).isSome &&
    (s.block? w.block).isSome && (m.decodeCause s w sp.hints s.fetch.addr).isNone && w.loads.isEmpty && w.asyncs.isEmpty &&
    (sp.released.isSome || (!gathers m.scope && (m.scope != .warp || w.gathered))) &&
    let t := s.passWarp m w.uid s.fetch.slot
    (t.warp? w.uid).any fun v =>
      (t.members v m.scope).all (fun y => y.uid == w.uid && (t.warp? y.uid).all fun z => z.loads.isEmpty) && !m.noPartial &&
      match s.judge m with
      | .go _ _ => true
      | _ => false

theorem witness_DecodeCauses :
    causeOf { cls := .laneOnly, scope := .warp } [] = some (2, 0x103C) ∧ causeOf { cls := .laneOnly, scope := .lane, privileged := true } [] = some (5, 0x103C) ∧
    causeOf { vecMeta .lane 8 4 (.v 3) with bad := true } [] = some (1, 0x103C) ∧ causeOf (vecMeta .lane 8 4 (.lit 5)) [] = some (4, 0x103C) ∧
    causeOf (vecMeta .lane 8 4 (.v 3)) [] = none ∧
    ((bench.modWarp 1 fun w => { w with alloc := 16 }).warp? 1).bind (fun w => (vecMeta .lane 16 4 (.v 3)).decodeCause bench w [] 0x1000) = some (9, 0x1000) ∧
    passes (vecMeta .lane 8 4 (.v 3)) bench = true ∧ passes { cls := .scalar, scope := .warp } bench = true ∧
    passes { cls := .scalar, scope := .block } (bench.modWarp 1 fun w => w.modSplit 0 fun x => { x with released := some .block }) = true ∧
    causeOn .lk2080n { cls := .scalar, scope := .lane, rasterOnly := true } [] = some (6, 0x103C) ∧
    causeOf (vecMeta .lane 8 4 (.v 3)) [{ kind := 2, payload := 1, addr := 0x1038 }] = some (3, 0x1038) := by decide +kernel

theorem witness_TakingAnException :
    let r : Report := { u := 1, slot := 0, fpc := 0x1000, next := 0x1004, trap := Trap.plain 1, member := none, once := false, diverged := false, lost := none }
    let s := bench.modCtx 0 1 fun c => { c with handler := 0x8000 }
    ((s.warp? r.u).any fun w => (s.ctx? w.field (s.ctxidOf w)).any fun c => w.mode != .handler && c.handler != 0 && r.trap.code != 18 &&
      let q := (s.backToGroup r.u r.slot r.fpc).quiesce r.u
      q.quiet r.u && (q.warp? r.u).any fun v => (v.split? r.slot).isSome) = true ∧
    ((bench.warp? r.u).any fun w => (bench.ctx? w.field (bench.ctxidOf w)).any fun c => w.mode != .handler && c.handler == 0) = true ∧
    (((rig handling).warp? 1).any fun w => w.mode == .handler && w.frame.any fun fr => ((fr.slots[0]?).join).any fun x => x.mask &&& ~~~w.exited != 0) = true := by
  decide +kernel

theorem witness_ByteMemory : Memory.wf [(5, 7), (9, 1)] = true ∧ memGet (memWrite [(5, 7), (9, 1)] 4 [1, 0]) 5 = 0 := by decide +kernel
theorem witness_StepKeepsMemoryForm : Memory.wf (State.reset.withFetchWord 32 0x6C000000).mem = true ∧
    (match step (State.reset.withFetchWord 32 0x6C000000) with
      | .next t => Memory.wf t.mem
      | _ => false) = true := by decide +kernel
theorem witness_WarpStart :
    (newWarp 1 1 0 0 0 16 0x1000 (startScalars 0x123456789 0 1 0) (startLogid 0 1 0)).sreg 1 = 1 ∧ (8 : Nat) < 128 := by decide +kernel

end Sys2Proof.Tests
end

section
/-! The register file: what each write of a warp's v, p, s and h registers makes each read return (R5, R27, R100, R207). Each
file is a vector of fixed length, so a read after a write is decided by the number written and by that length. -/

namespace Sys2Proof.Machine

open Sys2Proof

/-! ## Rows over the lanes -/

@[simp] theorem laneOf_rowOf (f : Nat → Word) {i : Nat} (hi : i < 32) : laneOf (rowOf f) i = f i := by
  simp [laneOf, rowOf, hi]

/-- A merged row takes the new row in the live lanes and the old one in the others (R5). -/
@[simp] theorem laneOf_mergeRow (live : LaneMask) (new old : Row) {i : Nat} (hi : i < 32) :
    laneOf (mergeRow live new old) i = if live.getLsbD i then laneOf new i else laneOf old i := by
  simp [laneOf, mergeRow, hi]

@[simp] theorem pairOf_loWord_hiWord (x : Dword) : pairOf (loWord x) (hiWord x) = x :=
  BitVec.extractLsb'_append_extractLsb' (w := 32) (len := 32)

/-! ## v registers -/

@[simp] theorem row_setRow_self (w : Warp) (live : LaneMask) {r : Nat} (x : Row) (hr : r < 128) :
    (w.setRow live r x).row r = mergeRow live x (w.row r) := by
  rw [Warp.row, setRow_v, Vector.getElem?_setIfInBounds_self_of_lt hr, Option.getD_some]

theorem row_setRow_ne (w : Warp) (live : LaneMask) {r q : Nat} (x : Row) (h : q ≠ r) : (w.setRow live r x).row q = w.row q := by
  rw [Warp.row, setRow_v, Vector.getElem?_setIfInBounds_ne h.symm, Warp.row]

@[simp] theorem pred_setRow (w : Warp) (live : LaneMask) (r : Nat) (x : Row) (q : Nat) : (w.setRow live r x).pred q = w.pred q := rfl

@[simp] theorem sreg_setRow (w : Warp) (live : LaneMask) (r : Nat) (x : Row) (q : Nat) : (w.setRow live r x).sreg q = w.sreg q := rfl

@[simp] theorem laneOf64_row64 (w : Warp) (r : Nat) {i : Nat} (hi : i < 32) :
    laneOf64 (w.row64 r) i = pairOf (laneOf (w.row r) i) (laneOf (w.row (r + 1)) i) := by
  simp [laneOf64, Warp.row64, hi]

/-- The low register of a written pair: the second write names the other register. -/
theorem row_setRow64_low (w : Warp) (live : LaneMask) {r : Nat} (x : Row64) (hr : r < 128) :
    (w.setRow64 live r x).row r = mergeRow live (rowOf fun i => loWord (laneOf64 x i)) (w.row r) := by
  rw [Warp.setRow64, row_setRow_ne _ _ _ (Nat.ne_of_lt r.lt_succ_self), row_setRow_self _ _ _ hr]

/-- The high register of a written pair: the first write leaves it alone. -/
theorem row_setRow64_high (w : Warp) (live : LaneMask) {r : Nat} (x : Row64) (hr : r + 1 < 128) :
    (w.setRow64 live r x).row (r + 1) = mergeRow live (rowOf fun i => hiWord (laneOf64 x i)) (w.row (r + 1)) := by
  rw [Warp.setRow64, row_setRow_self _ _ _ hr, row_setRow_ne _ _ _ r.succ_ne_self]

theorem laneOf64_setRow64 (w : Warp) (live : LaneMask) {r : Nat} (x : Row64) (hr : r + 1 < 128) {i : Nat} (hi : i < 32)
    (hl : live.getLsbD i = true) : laneOf64 ((w.setRow64 live r x).row64 r) i = laneOf64 x i := by
  rw [laneOf64_row64 _ _ hi, row_setRow64_low _ _ _ (by omega), row_setRow64_high _ _ _ hr]
  simp [hi, hl]

/-! ## Predicates -/

@[simp] theorem pred_zero (w : Warp) : w.pred 0 = 0xFFFFFFFF#32 := rfl

theorem pred_of_ne_zero (w : Warp) {q : Nat} (h : q ≠ 0) : w.pred q = (w.p[q]?).getD 0 := if_neg h

@[simp] theorem setPred_zero (w : Warp) (live x : LaneMask) : w.setPred live 0 x = w := rfl

theorem setPred_p (w : Warp) (live : LaneMask) {q : Nat} (x : LaneMask) (h : q ≠ 0) :
    (w.setPred live q x).p = w.p.setIfInBounds q ((x &&& live) ||| (w.pred q &&& ~~~live)) := by
  rw [Warp.setPred, if_neg h]

theorem pred_setPred_self (w : Warp) (live : LaneMask) {q : Nat} (x : LaneMask) (h0 : q ≠ 0) (hq : q < 8) :
    (w.setPred live q x).pred q = (x &&& live) ||| (w.pred q &&& ~~~live) := by
  rw [pred_of_ne_zero _ h0, setPred_p _ _ _ h0, Vector.getElem?_setIfInBounds_self_of_lt hq, Option.getD_some]

theorem pred_setPred_ne (w : Warp) (live : LaneMask) {q k : Nat} (x : LaneMask) (h : k ≠ q) :
    (w.setPred live q x).pred k = w.pred k := by
  by_cases hq : q = 0
  · rw [hq, setPred_zero]
  by_cases hk : k = 0
  · rw [hk, pred_zero, pred_zero]
  · rw [pred_of_ne_zero _ hk, setPred_p _ _ _ hq, Vector.getElem?_setIfInBounds_ne h.symm, pred_of_ne_zero _ hk]

/-! ## s registers: a number names the warp's bank in handler mode from s56 on, and the file otherwise (R207) -/

theorem sreg_banked {w : Warp} {r : Nat} (h : w.mode = .handler ∧ 56 ≤ r) : w.sreg r = (w.bank[r - 56]?).getD 0 := if_pos h

theorem sreg_unbanked {w : Warp} {r : Nat} (h : ¬(w.mode = .handler ∧ 56 ≤ r)) : w.sreg r = (w.s[r]?).getD 0 := if_neg h

theorem setS_banked {w : Warp} {r : Nat} (x : Word) (h : w.mode = .handler ∧ 56 ≤ r) :
    w.setS r x = { w with bank := w.bank.setIfInBounds (r - 56) x } := if_pos h

theorem setS_unbanked {w : Warp} {r : Nat} (x : Word) (h : ¬(w.mode = .handler ∧ 56 ≤ r)) :
    w.setS r x = { w with s := w.s.setIfInBounds r x } := if_neg h

theorem setS_s_of_banked {w : Warp} {r : Nat} (x : Word) (h : w.mode = .handler ∧ 56 ≤ r) : (w.setS r x).s = w.s := by
  rw [setS_banked x h]

theorem setS_bank_of_unbanked {w : Warp} {r : Nat} (x : Word) (h : ¬(w.mode = .handler ∧ 56 ≤ r)) : (w.setS r x).bank = w.bank := by
  rw [setS_unbanked x h]

theorem sreg_setS_self (w : Warp) {r : Nat} (x : Word) (hr : r < 64) : (w.setS r x).sreg r = x := by
  by_cases h : w.mode = .handler ∧ 56 ≤ r
  · have hb : r - 56 < 8 := by omega
    rw [sreg_banked (by rwa [setS_mode]), setS_banked x h, Vector.getElem?_setIfInBounds_self_of_lt hb, Option.getD_some]
  · rw [sreg_unbanked (by rwa [setS_mode]), setS_unbanked x h, Vector.getElem?_setIfInBounds_self_of_lt hr, Option.getD_some]

/-- Where the read and the write go to different files nothing changes; in one file the two numbers differ. -/
theorem sreg_setS_ne (w : Warp) {r q : Nat} (x : Word) (hne : q ≠ r) : (w.setS r x).sreg q = w.sreg q := by
  by_cases hq : w.mode = .handler ∧ 56 ≤ q
  · rw [sreg_banked (by rwa [setS_mode]), sreg_banked hq]
    by_cases h : w.mode = .handler ∧ 56 ≤ r
    · have hb : r - 56 ≠ q - 56 := by omega
      rw [setS_banked x h, Vector.getElem?_setIfInBounds_ne hb]
    · rw [setS_bank_of_unbanked x h]
  · rw [sreg_unbanked (by rwa [setS_mode]), sreg_unbanked hq]
    by_cases h : w.mode = .handler ∧ 56 ≤ r
    · rw [setS_s_of_banked x h]
    · rw [setS_unbanked x h, Vector.getElem?_setIfInBounds_ne hne.symm]

/-! ## h registers -/

@[simp] theorem setH_h (w : Warp) (h : BitVec 4) (x : BitVec 512) : (w.setH h x).h = w.h.setIfInBounds h.toNat x := rfl

theorem hreg_setH (w : Warp) (h k : BitVec 4) (x : BitVec 512) : (w.setH h x).hreg k = if k = h then x else w.hreg k := by
  by_cases e : k = h
  · rw [if_pos e, e, Warp.hreg, setH_h, Vector.getElem?_setIfInBounds_self_of_lt h.isLt, Option.getD_some]
  · have hne : h.toNat ≠ k.toNat := fun c => e (BitVec.eq_of_toNat_eq c.symm)
    rw [if_neg e, Warp.hreg, setH_h, Vector.getElem?_setIfInBounds_ne hne, Warp.hreg]

/-- Settles O56: one read-after-write law for each kind of register. -/
theorem registerFile : Obligations.RegisterFile := by
  intro w
  refine ⟨fun live r x hr => ⟨fun i hi => ?_, fun q => row_setRow_ne w live x, pred_setRow w live r x, sreg_setRow w live r x⟩,
    fun live r x hr i hi => laneOf64_setRow64 w live x hr hi, ⟨pred_zero w, setPred_zero w⟩,
    fun live x q h0 hq => ⟨pred_setPred_self w live x (Nat.ne_of_gt h0) hq, fun k => pred_setPred_ne w live x⟩,
    fun r x hr => ⟨sreg_setS_self w x hr, fun q => sreg_setS_ne w x, fun hm h56 => setS_s_of_banked x ⟨hm, h56⟩,
      fun hm => setS_bank_of_unbanked x fun h => hm h.1⟩,
    hreg_setH w⟩
  rw [row_setRow_self w live x hr, laneOf_mergeRow live x _ hi]

end Sys2Proof.Machine
end

section
/-! The machine before bring-up (R18, R410, R428): with empty tables no field is present, no byte is listed and no warp can issue,
and a bring-up whose image fails leaves the tables as power-on makes them. -/

namespace Sys2Proof.Machine

open Sys2Proof

/-! ## What empty tables answer -/

@[simp] theorem memGet_nil (k : Nat) : memGet [] k = 0 := rfl

theorem readByte_of_no_cells {s : State} (h : s.mem = []) (k : Nat) : s.readByte k = 0 := by
  rw [State.readByte, h, memGet_nil]

theorem field?_of_no_fields {s : State} (h : s.fields = []) (f : Nat) : s.field? f = none := by
  rw [State.field?, h, List.find?_nil]

theorem present_of_no_fields {s : State} (h : s.fields = []) (f : Nat) : s.present f = false := by
  rw [State.present, field?_of_no_fields h]

theorem warp?_of_no_warps {s : State} (h : s.warps = []) (u : Nat) : s.warp? u = none := by
  rw [State.warp?, h, List.find?_nil]

/-! ## A turn without a warp -/

theorem fetchTurn_of_no_warps {s : State} (h : s.warps = []) : s.fetchTurn = .idle s := by
  rw [State.fetchTurn, warp?_of_no_warps h]

theorem issueTurn_of_no_warps {s : State} (h : s.warps = []) : s.issueTurn = .next s := by
  rw [State.issueTurn, fetchTurn_of_no_warps h]

theorem step_of_no_agenda {s : State} (h : s.agenda = []) :
    step s = State.issueTurn { s with fresh := s.fresh + 1 } := by
  rw [step, h]

/-- With no turn waiting and no warp, a step counts itself (log 5) and does nothing else. -/
theorem step_of_no_agenda_no_warps {s : State} (ha : s.agenda = []) (hw : s.warps = []) :
    step s = .next { s with fresh := s.fresh + 1 } :=
  (step_of_no_agenda ha).trans (issueTurn_of_no_warps hw)

/-! ## Crossings at reset -/

@[simp] theorem resetCrossing_cstate (x : Nat × Nat × Nat) : (resetCrossing x).cstate = 0 := rfl

theorem cstate_of_mem_resetCrossings {l : List (Nat × Nat × Nat)} {c : Crossing} (h : c ∈ l.map resetCrossing) : c.cstate = 0 := by
  obtain ⟨x, -, rfl⟩ := List.mem_map.mp h
  exact resetCrossing_cstate x

/-! ## A bring-up whose image fails (R428) -/

@[simp] theorem powerOn_fields (s : State) : s.powerOn.fields = [] := rfl

@[simp] theorem imageGood_of_bad_signature (s : State) : s.imageGood false = false := rfl

/-- Whichever check of the image fails, BRING_UP stops after power-on and presents function 0 alone. -/
theorem exec_bringUp_of_bad_image {s : State} {signatureOk : Bool} (h : s.powerOn.imageGood signatureOk = false)
    (report : List (Bool × BitVec 40 × BitVec 40 × BitVec 40)) (trained : List Nat) :
    exec (.bringUp signatureOk report trained) s = .next { s.powerOn with hostLink := true, functions := 1 } := by
  rw [exec, execBringUp, h, if_neg Bool.false_ne_true]

/-- Settles O59: the tables at reset are empty, so nothing reads, is present or issues; power-on empties the fields again. -/
theorem resetState : Obligations.ResetState := by
  refine ⟨rfl, readByte_of_no_cells rfl, present_of_no_fields rfl, rfl, rfl, rfl, rfl, rfl,
    fun c hc => cstate_of_mem_resetCrossings hc, step_of_no_agenda_no_warps rfl rfl, fun s rs ts => ?_⟩
  exact ⟨_, exec_bringUp_of_bad_image (imageGood_of_bad_signature _) rs ts, present_of_no_fields (powerOn_fields s)⟩

end Sys2Proof.Machine
end

section
/-! The round trip of every instruction word (R21 to R51), put together from the round trips of the single words, and the words
that the rules print, each of which is what the encoder writes. -/

namespace Sys2Proof.Laws.RoundTrip

open Sys2Proof

/-- An event has no words: it is not well formed. -/
theorem statement_of_isEvent {i : Instr} (h : i.isEvent = true) : Statement i :=
  fun hw => absurd (hw.2.symm.trans h) Bool.false_ne_true

/-- The words of every well-formed instruction decode to it. -/
theorem statement_holds (i : Instr) : Statement i := by
  cases i with
  | iadd => apply iadd
  | isub => apply isub
  | imul => apply imul
  | imulhi => apply imulhi
  | imulhiu => apply imulhiu
  | imin => apply imin
  | imax => apply imax
  | iminu => apply iminu
  | imaxu => apply imaxu
  | iabsd => apply iabsd
  | iaddsat => apply iaddsat
  | isubsat => apply isubsat
  | iaddsatu => apply iaddsatu
  | isubsatu => apply isubsatu
  | iavgu => apply iavgu
  | irsub => apply irsub
  | and => apply and
  | or => apply or
  | xor => apply xor
  | andn => apply andn
  | orn => apply orn
  | xnor => apply xnor
  | shl => apply shl
  | shr => apply shr
  | sar => apply sar
  | rotl => apply rotl
  | rotr => apply rotr
  | popc => apply popc
  | clz => apply clz
  | brev => apply brev
  | bfxu => apply bfxu
  | bfxs => apply bfxs
  | bfi => apply bfi
  | bysel => apply bysel
  | fshl => apply fshl
  | fshr => apply fshr
  | icmpEq => apply icmpEq
  | icmpNe => apply icmpNe
  | icmpLt => apply icmpLt
  | icmpLe => apply icmpLe
  | icmpGt => apply icmpGt
  | icmpGe => apply icmpGe
  | icmpLtu => apply icmpLtu
  | icmpLeu => apply icmpLeu
  | icmpGtu => apply icmpGtu
  | icmpGeu => apply icmpGeu
  | imac => apply imac
  | imad => apply imad
  | lea => apply lea
  | lea2 => apply lea2
  | lea4 => apply lea4
  | lea8 => apply lea8
  | lea16 => apply lea16
  | iadd64 => apply iadd64
  | isub64 => apply isub64
  | imulw => apply imulw
  | mov => apply mov
  | sel => apply sel
  | pand => apply pand
  | por => apply por
  | pxor => apply pxor
  | pnot => apply pnot
  | p2v => apply p2v
  | v2p => apply v2p
  | cvt => apply cvt
  | fadd => apply fadd
  | fsub => apply fsub
  | fmul => apply fmul
  | fmac => apply fmac
  | fmad => apply fmad
  | fmns => apply fmns
  | fmin => apply fmin
  | fmax => apply fmax
  | fabs => apply fabs
  | fneg => apply fneg
  | fsat => apply fsat
  | ffloor => apply ffloor
  | fceil => apply fceil
  | ftrunc => apply ftrunc
  | frint => apply frint
  | fcsgn => apply fcsgn
  | fcmpEq => apply fcmpEq
  | fcmpNe => apply fcmpNe
  | fcmpLt => apply fcmpLt
  | fcmpLe => apply fcmpLe
  | fcmpGt => apply fcmpGt
  | fcmpGe => apply fcmpGe
  | fcmpUn => apply fcmpUn
  | fcmpOr => apply fcmpOr
  | frcp => apply frcp
  | frsq => apply frsq
  | fsqrt => apply fsqrt
  | fexp2 => apply fexp2
  | flog2 => apply flog2
  | fsint => apply fsint
  | fcost => apply fcost
  | ftanh => apply ftanh
  | hpadd => apply hpadd
  | hpmul => apply hpmul
  | hpfma => apply hpfma
  | hpmin => apply hpmin
  | hpmax => apply hpmax
  | bpadd => apply bpadd
  | bpmul => apply bpmul
  | bpfma => apply bpfma
  | bpmin => apply bpmin
  | bpmax => apply bpmax
  | pk2 => apply pk2
  | pkb2 => apply pkb2
  | upkl => apply upkl
  | upkh => apply upkh
  | idp4 => apply idp4
  | idp4u => apply idp4u
  | bdp2 => apply bdp2
  | edp4 => apply edp4
  | dsdp4 => apply dsdp4
  | movi => apply movi
  | smovi => apply smovi
  | ld => apply ld
  | st => apply st
  | lds => apply lds
  | sts => apply sts
  | ldc => apply ldc
  | cwin => apply cwin
  | ldmc => apply ldmc
  | atomAadd => apply atomAadd
  | atomAmin => apply atomAmin
  | atomAmax => apply atomAmax
  | atomAminu => apply atomAminu
  | atomAmaxu => apply atomAmaxu
  | atomAand => apply atomAand
  | atomAor => apply atomAor
  | atomAxor => apply atomAxor
  | atomAexch => apply atomAexch
  | atomAcas => apply atomAcas
  | atomAinc => apply atomAinc
  | atomAdec => apply atomAdec
  | atomAfadd => apply atomAfadd
  | atomAfaddb => apply atomAfaddb
  | atomAfadde => apply atomAfadde
  | atomAfmin => apply atomAfmin
  | atomAfmax => apply atomAfmax
  | redAadd => apply redAadd
  | redAmin => apply redAmin
  | redAmax => apply redAmax
  | redAminu => apply redAminu
  | redAmaxu => apply redAmaxu
  | redAand => apply redAand
  | redAor => apply redAor
  | redAxor => apply redAxor
  | redAinc => apply redAinc
  | redAdec => apply redAdec
  | redAfadd => apply redAfadd
  | redAfaddb => apply redAfaddb
  | redAfadde => apply redAfadde
  | redAfmin => apply redAfmin
  | redAfmax => apply redAfmax
  | cbwait => apply cbwait
  | cbpop => apply cbpop
  | cbrsv => apply cbrsv
  | cbcmt => apply cbcmt
  | cbinit => apply cbinit
  | cbqry => apply cbqry
  | fenceAcq => apply fenceAcq
  | fenceRel => apply fenceRel
  | fenceFull => apply fenceFull
  | flushv => apply flushv
  | invl1 => apply invl1
  | wcrd => apply wcrd
  | wcwait => apply wcwait
  | wcrst => apply wcrst
  | br => apply br
  | nop => apply nop
  | brx => apply brx
  | callx => apply callx
  | ret => apply ret
  | exit => apply exit
  | yield => apply yield
  | sadd => apply sadd
  | ssub => apply ssub
  | smul => apply smul
  | sand => apply sand
  | sor => apply sor
  | sxor => apply sxor
  | sshl => apply sshl
  | sshr => apply sshr
  | ssar => apply ssar
  | smin => apply smin
  | smax => apply smax
  | sminu => apply sminu
  | smaxu => apply smaxu
  | smov => apply smov
  | sadd64 => apply sadd64
  | slea => apply slea
  | scmpEq => apply scmpEq
  | scmpNe => apply scmpNe
  | scmpLt => apply scmpLt
  | scmpLe => apply scmpLe
  | scmpGt => apply scmpGt
  | scmpGe => apply scmpGe
  | scmpLtu => apply scmpLtu
  | scmpLeu => apply scmpLeu
  | scmpGtu => apply scmpGtu
  | scmpGeu => apply scmpGeu
  | shflIdx => apply shflIdx
  | shflUp => apply shflUp
  | shflDown => apply shflDown
  | shflXor => apply shflXor
  | shflBcast => apply shflBcast
  | vall => apply vall
  | vany => apply vany
  | vbal => apply vbal
  | vuni => apply vuni
  | vcnt => apply vcnt
  | lredIadd => apply lredIadd
  | lredImin => apply lredImin
  | lredImax => apply lredImax
  | lredAnd => apply lredAnd
  | lredOr => apply lredOr
  | lredXor => apply lredXor
  | lredFadd => apply lredFadd
  | lredFmin => apply lredFmin
  | lredFmax => apply lredFmax
  | lscanIadd => apply lscanIadd
  | lscanImin => apply lscanImin
  | lscanImax => apply lscanImax
  | lscanAnd => apply lscanAnd
  | lscanOr => apply lscanOr
  | lscanXor => apply lscanXor
  | lscanFadd => apply lscanFadd
  | lscanFmin => apply lscanFmin
  | lscanFmax => apply lscanFmax
  | lscanExclIadd => apply lscanExclIadd
  | lscanExclImin => apply lscanExclImin
  | lscanExclImax => apply lscanExclImax
  | lscanExclAnd => apply lscanExclAnd
  | lscanExclOr => apply lscanExclOr
  | lscanExclXor => apply lscanExclXor
  | lscanExclFadd => apply lscanExclFadd
  | lscanExclFmin => apply lscanExclFmin
  | lscanExclFmax => apply lscanExclFmax
  | xchg => apply xchg
  | xchgk => apply xchgk
  | hld => apply hld
  | hst => apply hst
  | hset => apply hset
  | hadv => apply hadv
  | mmloop => apply mmloop
  | mmidx => apply mmidx
  | accz => apply accz
  | accrd => apply accrd
  | accwr => apply accwr
  | accscl => apply accscl
  | accdrn => apply accdrn
  | accdra => apply accdra
  | qsm => apply qsm
  | qpack => apply qpack
  | qunpk => apply qunpk
  | qapp => apply qapp
  | tdec => apply tdec
  | tinc => apply tinc
  | trd => apply trd
  | phq => apply phq
  | wait => apply wait
  | visld => apply visld
  | visdec => apply visdec
  | bary => apply bary
  | attrf => apply attrf
  | ordwait => apply ordwait
  | orddone => apply orddone
  | texs => apply texs
  | texl => apply texl
  | texg => apply texg
  | texq => apply texq
  | trav => apply trav
  | travrd => apply travrd
  | reform => apply reform
  | refill => apply refill
  | rsmpl => apply rsmpl
  | pstat => apply pstat
  | sread => apply sread
  | swrite => apply swrite
  | grow => apply grow
  | fork => apply fork
  | join => apply join
  | npre => apply npre
  | nprex => apply nprex
  | trap => apply trap
  | eret => apply eret
  | bkpt => apply bkpt
  | halt => apply halt
  | call => apply call
  | ximm => apply ximm
  | xreg => apply xreg
  | xmod => apply xmod
  | xsched => apply xsched
  | xpred => apply xpred
  | _ => exact statement_of_isEvent rfl

/-- Settles O51: an instruction word has its round trip, and an event is not well formed. -/
theorem decodeOfEncode : Obligations.DecodeOfEncode := statement_holds

theorem decodeBytes_eq_of_encodeBytes_eq {i : Instr} {bytes : List Byte} (hi : WellFormed i) (h : encodeBytes i = bytes) :
    decodeBytes bytes = .ok (i, []) := by
  have hr := statement_holds i hi []
  rwa [h, List.append_nil] at hr

/-- Settles O52: the encoder writes each of the words for its instruction, so the round trip reads it back. -/
theorem decodedWords : Obligations.DecodedWords := by
  refine ⟨?_, ?_, ?_, ?_, ?_, ?_, ?_, ?_, ?_, ?_, ?_, ?_, ?_, ?_, ?_, ?_⟩
  all_goals exact decodeBytes_eq_of_encodeBytes_eq ⟨rfl, rfl⟩ rfl

end Sys2Proof.Laws.RoundTrip
end

section
/-! Byte memory (R21, R125), the I-format moves (R29) and the hint words (R36 to R42). -/

namespace Sys2Proof.Machine

open Sys2Proof

/-- Settles O57: one law of byte memory for each part. -/
theorem byteMemory : Obligations.ByteMemory := fun m hm =>
  ⟨fun k bs => ⟨memWrite_wf hm k bs, fun a => memGet_memWrite bs hm k a⟩,
    fun s k n x hs => readNat_writeNat s (hs ▸ hm) k n x,
    fun m' hm' heq => cells_ext m m' none hm hm' heq⟩

/-! ## The I format -/

/-- The fields of an I-format word are a header over its body (R22, R29). -/
theorem iFormat_eq_hdr (maj : BitVec 6) (sc : Scope) (d : Reg) (imm : BitVec 18) :
    maj ++ sc.bits ++ d ++ imm = hdr maj sc (d ++ imm) :=
  BitVec.eq_of_toNat_eq (append_join2 (maj ++ sc.bits) d imm)

theorem decodeWord_movi (sc : Scope) (d : Reg) (imm : BitVec 18) (l : Word) :
    decodeWord (0x0D#6 ++ sc.bits ++ d ++ imm) l = some (.movi sc d imm) := by
  rw [iFormat_eq_hdr, decodeMajor_13 _ _ (hdr_major _ _ _), hdr_scope, Scope.ofBits_bits, mv_d, decMovi, mv_i]

theorem decodeWord_smovi (sc : Scope) (d : Reg) (imm : BitVec 18) (l : Word) :
    decodeWord (0x0E#6 ++ sc.bits ++ d ++ imm) l = some (.smovi sc d imm) := by
  rw [iFormat_eq_hdr, decodeMajor_14 _ _ (hdr_major _ _ _), hdr_scope, Scope.ofBits_bits, mv_d, decSmovi, mv_i]

/-- Settles O7: each word decodes by its major, and its effect is one register write of the issuing warp. -/
theorem immediateMoves : Obligations.ImmediateMoves := by
  intro sc d imm l
  refine ⟨decodeWord_movi sc d imm l, decodeWord_smovi sc d imm l, fun s s' j hj => ?_, fun s s' j hj => ?_⟩
  · exact completes_of_put (fun w => w.setRow j.live j.d (splat (imm.signExtend 32))) rfl hj rfl rfl (fun _ => rfl) fun _ _ => rfl
  · exact completes_of_put (fun w => w.setS d.toNat (imm.signExtend 32)) rfl hj rfl rfl (fun _ => setS_uid _ _ _)
      fun _ _ => by rw [setS_split]

/-! ## The H format -/

/-- The fields of an H-format word are a header over its body, which the decoder reads as a hint (R22, R36). -/
theorem decodeWord_hFormat (sc : Scope) (k : BitVec 4) (payload : BitVec 20) (l : Word) :
    decodeWord (0x3E#6 ++ sc.bits ++ k ++ payload) l = decHint (hdr 0x3E#6 sc (k ++ payload)) sc := by
  have e : 0x3E#6 ++ sc.bits ++ k ++ payload = hdr 0x3E#6 sc (k ++ payload) :=
    BitVec.eq_of_toNat_eq (append_join2 (0x3E#6 ++ sc.bits) k payload)
  rw [e, decodeMajor_62 _ _ (hdr_major _ _ _), hdr_scope, Scope.ofBits_bits]

theorem decHint_reserved_kind (sc : Scope) {k : BitVec 4} (hk : 5 ≤ k.toNat) (payload : BitVec 20) :
    decHint (hdr 0x3E#6 sc (k ++ payload)) sc = none := by
  rw [decHint, hn_k]
  split
  case h_6 => rfl
  all_goals omega

/-- The kinds 0 to 4 of a hint word (R36 to R41). -/
theorem decHint_kinds (sc : Scope) (payload : BitVec 20) :
    decHint (hdr 0x3E#6 sc (0#4 ++ payload)) sc = some (.ximm sc payload) ∧
    decHint (hdr 0x3E#6 sc (1#4 ++ payload)) sc = (if xregOk payload then some (.xreg sc payload) else none) ∧
    decHint (hdr 0x3E#6 sc (2#4 ++ payload)) sc = (if xmodOk payload then some (.xmod sc payload) else none) ∧
    decHint (hdr 0x3E#6 sc (3#4 ++ payload)) sc = (if xlowOk payload then some (.xsched sc payload) else none) ∧
    decHint (hdr 0x3E#6 sc (4#4 ++ payload)) sc = (if xlowOk payload then some (.xpred sc payload) else none) := by
  refine ⟨?_, ?_, ?_, ?_, ?_⟩
  all_goals rw [decHint, hn_k, hn_p]; rfl

/-- A hint word leaves its kind and payload among the pending hints of its split, which goes on at the next word (R42, R46). -/
def Warp.pend (w : Warp) (f : Fetch) (h : Hint) : Warp :=
  { w.modSplit f.slot fun x => { x with pc := f.next, start := f.start, hints := x.hints ++ [h] } with inGroup := some f.slot }

theorem pend_regs (w : Warp) (f : Fetch) (h : Hint) : (w.pend f h).regs = w.regs := rfl

theorem joinHint_lane {s : State} {w : Warp} (hw : s.warp? s.cur = some w) (k : Nat) (payload : BitVec 20) :
    joinHint k payload .lane s =
      .next (s.modWarp s.cur fun w => w.pend s.fetch { kind := k, payload := payload, addr := s.fetch.addr }) := by
  simp only [joinHint, hw, warp?_uid hw]
  rfl

/-- A change of one warp that a program does not see changes nothing that a program sees. -/
theorem seen_modWarp_of_regs {s : State} {u : Nat} {g : Warp → Warp} (hu : ∀ w, (g w).uid = w.uid)
    (hr : ∀ w, (g w).regs = w.regs) (v : Nat) : (s.modWarp u g).seen v = s.seen v := by
  rw [State.seen, warp?_modWarp s u v g hu, State.seen]
  split
  · rw [Option.map_map]
    exact congrArg (Option.map · _) (funext hr)
  · rfl

/-- Settles O28: a word decodes by its kind, and a hint word changes only where its split stands and which hints it holds. -/
theorem hintWords : Obligations.HintWords := by
  intro payload l s w hw word pend
  have decodes := fun k => decodeWord_hFormat .lane k payload l
  have runs := fun k => joinHint_lane hw k payload
  obtain ⟨d0, d1, d2, d3, d4⟩ := decHint_kinds .lane payload
  exact ⟨fun k hk => (decodes k).trans (decHint_reserved_kind .lane hk payload),
    (decodes 0).trans d0, runs 0, (decodes 1).trans d1, runs 1, (decodes 2).trans d2, runs 2, (decodes 3).trans d3, runs 3,
    (decodes 4).trans d4, runs 4, fun k => ⟨rfl, seen_modWarp_of_regs (fun _ => rfl) fun _ => rfl⟩⟩

end Sys2Proof.Machine
end

section
/-! An issue turn up to the word it executes (R44, R46, R165), and the turns of the agenda (log 3, log 4). -/

namespace Sys2Proof.Machine

open Sys2Proof

/-! ## What a turn executes -/

/-- A turn that finds bytes executes the instruction they decode to (R46). -/
theorem issueTurn_of_decodes {s t : State} {bytes rest : List Byte} {i : Instr} (h : s.fetchTurn = .code t bytes)
    (hd : decodeBytes bytes = .ok (i, rest)) : s.issueTurn = exec i t := by
  simp only [State.issueTurn, h, hd]

/-- Bytes that do not decode raise ILLEGAL_ENCODING (R24). -/
theorem issueTurn_of_illegal {s t : State} {bytes : List Byte} {e : Reject} (h : s.fetchTurn = .code t bytes)
    (hd : decodeBytes bytes = .error e) : s.issueTurn = .next t.illegal := by
  simp only [State.issueTurn, h, hd]

/-- A warp that may run, with nothing due, fetches the next word of the split whose turn it is (R165, R166, R204, R213). -/
theorem fetchTurn_eq_fetchSlot {s : State} {w : Warp} {slot : Nat} {x : Split} (hw : s.warp? s.cur = some w)
    (hrun : s.mayRun w = true) (hdue : w.due = none) (hstep : w.stepDue = none) (hmerge : w.mergePair = none)
    (hpick : s.pickSlot w = some slot) (hx : w.split? slot = some x) : s.fetchTurn = s.fetchSlot w slot x := by
  simp only [State.fetchTurn, hw, hrun, if_true, State.fetchWarp, hdue, hmerge, hstep, hpick, hx]

/-! ## The bytes of a word and its literal -/

/-- The machine as an instruction word is executed, with the addresses of its group, its word and the word after it, once the
code cache has taken the words at `pcs` (R46, R96). -/
def State.fetched (s : State) (w : Warp) (slot : Nat) (x : Split) (pcs : List Dword) (next : Dword) : State :=
  { s.noteFetch w pcs with
    fetch := { slot := slot, start := if w.inGroup = some slot then x.start else x.pc, addr := x.pc, next := next } }

section
variable {s : State} {w : Warp} {slot : Nat} {x : Split} {word : Word}

theorem fetchSlot_of_plain (hword : s.fetchWordAt w x.pc = .ok word) (hlit : takesLiteral word = false) :
    s.fetchSlot w slot x = .code (s.fetched w slot x [x.pc] (x.pc + 4)) (bytesOfWord word) := by
  simp only [State.fetchSlot, hword, hlit]
  rfl

theorem fetchSlot_of_literal {lit : Word} (hword : s.fetchWordAt w x.pc = .ok word) (hlit : takesLiteral word = true)
    (hline : x.pc.toNat % 64 ≠ 0x3C) (hnext : s.fetchWordAt w (x.pc + 4) = .ok lit) :
    s.fetchSlot w slot x =
      .code (s.fetched w slot x [x.pc, x.pc + 4] (x.pc + 8)) (bytesOfWord word ++ bytesOfWord lit) := by
  simp only [State.fetchSlot, hword, hlit, if_true, if_neg hline, hnext]
  rfl

/-- At the end of its fetch line a word is executed without its literal (R44). -/
theorem fetchSlot_of_line_end (hword : s.fetchWordAt w x.pc = .ok word) (hlit : takesLiteral word = true)
    (hline : x.pc.toNat % 64 = 0x3C) :
    s.fetchSlot w slot x = .code (s.fetched w slot x [x.pc] (x.pc + 8)) (bytesOfWord word ++ bytesOfWord 0) := by
  simp only [State.fetchSlot, hword, hlit, if_true, if_pos hline]
  rfl

end

/-- Without shadows the code that a fetch reads has nothing to round (R96). -/
theorem noteFetch_of_no_shadows {s : State} (h : s.shadows = []) (w : Warp) (pcs : List Dword) : s.noteFetch w pcs = s := by
  simp [State.noteFetch, h]

/-! ## The turns of the agenda -/

theorem step_of_event {s : State} {e : Instr} {rest : List Turn} (h : s.agenda = .event e :: rest) (he : e.isEvent = true) :
    step s = if State.holds { s with fresh := s.fresh + 1 } e then .next { s with fresh := s.fresh + 1, agenda := rest }
      else exec e { s with fresh := s.fresh + 1, agenda := rest, cur := 0 } := by
  simp only [step, h, he, Bool.true_and]
  cases State.holds { s with fresh := s.fresh + 1, agenda := .event e :: rest } e <;> rfl

/-- The words that the code cache takes are the word, and its literal where that lies in the same fetch line. -/
theorem fetchedWords_plain (pc : Dword) :
    (if pc + 4 = pc + 8 ∧ pc.toNat % 64 ≠ 0x3C then [pc, pc + 4] else [pc]) = [pc] :=
  if_neg fun h => absurd h.1 (by bv_omega)

/-- Settles O53: what a turn finds is the word at its split's program counter, and each kind of waiting turn has its own step. -/
theorem stepRunsTheDecodedInstruction : Obligations.StepRunsTheDecodedInstruction := by
  intro s t
  refine ⟨?_, ?_, ?_, ?_, ?_⟩
  · intro w slot x word lit i rest hagenda hw hrun hdue hstep hmerge hpick hx hword turn
    have hissue : step s = t.issueTurn := step_of_no_agenda hagenda
    have hslot : t.fetchTurn = t.fetchSlot w slot x := fetchTurn_eq_fetchSlot hw hrun hdue hstep hmerge hpick hx
    have hplain : turn (x.pc + 4) = t.fetched w slot x [x.pc] (x.pc + 4) :=
      congrArg (fun pcs => t.fetched w slot x pcs (x.pc + 4)) (fetchedWords_plain x.pc)
    refine ⟨fun h => noteFetch_of_no_shadows (s := t) h w, fun hlit => ?_, fun hlit => ⟨fun hline hnext hd => ?_, fun hline hd => ?_⟩⟩
    · have hcode := hslot.trans (fetchSlot_of_plain hword hlit)
      rw [hissue, hplain]
      exact ⟨issueTurn_of_decodes hcode, fun e => issueTurn_of_illegal hcode⟩
    · have hturn : turn (x.pc + 8) = t.fetched w slot x [x.pc, x.pc + 4] (x.pc + 8) :=
        congrArg (fun pcs => t.fetched w slot x pcs (x.pc + 8)) (if_pos ⟨rfl, hline⟩)
      rw [hissue, hturn]
      exact issueTurn_of_decodes (hslot.trans (fetchSlot_of_literal hword hlit hline hnext)) hd
    · have hturn : turn (x.pc + 8) = t.fetched w slot x [x.pc] (x.pc + 8) :=
        congrArg (fun pcs => t.fetched w slot x pcs (x.pc + 8)) (if_neg fun h => h.2 hline)
      rw [hissue, hturn]
      exact issueTurn_of_decodes (hslot.trans (fetchSlot_of_line_end hword hlit hline)) hd
  · intro e rest hagenda he
    rw [step_of_event hagenda he]
    exact ⟨fun hh => if_neg (by rw [hh]; exact Bool.false_ne_true), fun hh => if_pos hh⟩
  · intro f unit addr rest hagenda hf
    simp only [step, hagenda]
    exact congrArg _ (if_pos hf)
  · intro report modules rest hagenda
    rw [step, hagenda]
  · intro u rest hagenda
    rw [step, hagenda]

end Sys2Proof.Machine
end

section
/-! The checks before an effect (R24, R38 to R53, R103, R167, R210): which decode cause is reported, and what passes them all. -/

namespace Sys2Proof.Machine

open Sys2Proof

/-! ## The decode causes (R47) -/

theorem scopeCause_iff (m : Meta) (s : State) (w : Warp) :
    (!m.cls.scopeOk m.scope || (gathers m.scope && w.mode == .handler) || (m.scope == .set && s.setsOf w == 0)) = true ↔
      m.cls.scopeOk m.scope = false ∨ (gathers m.scope = true ∧ w.mode = .handler) ∨ (m.scope = .set ∧ s.setsOf w = 0) := by
  simp [or_assoc]

theorem privilegeCause_iff (m : Meta) (w : Warp) :
    (m.privileged && w.mode != .handler) = true ↔ m.privileged = true ∧ w.mode ≠ .handler := by
  simp

theorem operandCause_iff (m : Meta) (hs : List Hint) :
    (m.bad || m.opb.any Opb.isResv || (hintOf hs 0).any m.badPayload) = true ↔
      m.bad = true ∨ m.opb.any Opb.isResv = true ∨ ∃ p, hintOf hs 0 = some p ∧ m.badPayload p = true := by
  simp [or_assoc, Option.any_eq_true]

theorem rangeCause_iff (m : Meta) (w : Warp) (x : Option (BitVec 20)) :
    (beyond w.alloc (m.d + xregBit x 0) m.nd || beyond w.alloc (m.a + xregBit x 1) m.na ||
      beyond w.alloc (m.b + xregBit x 2) m.nb) = true ↔
    ∃ r n k, ((r, n, k) = (m.d, m.nd, 0) ∨ (r, n, k) = (m.a, m.na, 1) ∨ (r, n, k) = (m.b, m.nb, 2)) ∧ n ≠ 0 ∧
      w.alloc < r + xregBit x k + n := by
  simp only [beyond, Bool.or_eq_true, Bool.and_eq_true, decide_eq_true_eq]
  constructor
  · rintro ((h | h) | h)
    · exact ⟨_, _, _, .inl rfl, h⟩
    · exact ⟨_, _, _, .inr (.inl rfl), h⟩
    · exact ⟨_, _, _, .inr (.inr rfl), h⟩
  · rintro ⟨r, n, k, e | e | e, h⟩
    · cases e; exact .inl (.inl h)
    · cases e; exact .inl (.inr h)
    · cases e; exact .inr h

theorem variantCause_iff (m : Meta) (s : State) :
    (m.rasterOnly && s.variant == .lk2080n) = true ↔ m.rasterOnly = true ∧ s.variant = .lk2080n := by
  simp

theorem literalCause_iff (m : Meta) (addr : Dword) :
    (m.opb.any Opb.isLit && addr.toNat % 64 == 0x3C) = true ↔ m.opb.any Opb.isLit = true ∧ addr.toNat % 64 = 0x3C := by
  simp

/-! ## Loads, causes and lanes that hold nothing back (R103, R210, R41) -/

theorem settleFor_of_landed {s : State} {m : Meta} {w : Warp} {x : Option (BitVec 20)} (hw : s.warp? w.uid = some w)
    (h : ∀ op ∈ w.loads, m.waitsFor x op = false) : s.settleFor m w x = some s := by
  have hnone : w.loads.filter (m.waitsFor x) = [] := List.filter_eq_nil_iff.mpr fun op ho => ne_true_of_eq_false (h op ho)
  have hany : w.loads.any (m.waitsFor x) = false := List.any_eq_false.mpr fun op ho => ne_true_of_eq_false (h op ho)
  simp only [State.settleFor, hnone, List.foldl_nil, hw, hany]
  rfl

theorem settleMembers_of_landed {s : State} {m : Meta} {x : Option (BitVec 20)} {us : List Nat}
    (h : ∀ u ∈ us, ∀ z, s.warp? u = some z → ∀ op ∈ z.loads, m.waitsFor x op = false) : s.settleMembers m x us = some s := by
  induction us with
  | nil => rfl
  | cons u us ih =>
    have hrest := ih fun u hu => h u (List.mem_cons_of_mem _ hu)
    cases hz : s.warp? u with
    | none => simp only [State.settleMembers, hz, hrest]
    | some z =>
      have hland := settleFor_of_landed ((warp?_uid hz).symm ▸ hz) (h u List.mem_cons_self z hz)
      simp only [State.settleMembers, hz, hland, hrest]

theorem causeIn_eq_none {m : Meta} {s : State} {j : Job} {x : Option (BitVec 20)}
    (h : j.w.mode = .handler ∨ (m.own j = [] ∧ ∀ a ∈ j.w.asyncs, m.dependsOn s j x a = false)) (runs : Bool) :
    m.causeIn s j x runs = none := by
  rw [Meta.causeIn]
  split
  · rfl
  · next hmode =>
    obtain ⟨hown, hdep⟩ := h.resolve_left hmode
    have hnone : j.w.asyncs.filter (m.dependsOn s j x) = [] :=
      List.filter_eq_nil_iff.mpr fun a ha => ne_true_of_eq_false (hdep a ha)
    rw [hown, hnone, ite_self]
    rfl

theorem memberCause_eq_none {m : Meta} {s : State} {j : Job} {x : Option (BitVec 20)}
    (h : ∀ y ∈ j.members, y.uid = j.w.uid ∨ y.mode = .handler ∨ ∀ a ∈ y.asyncs, m.memberDep s (j.onWarp y) x a = false) :
    j.memberCause s m x = none := by
  rw [Job.memberCause]
  split
  · rfl
  · rw [List.head?_eq_none_iff, List.filterMap_eq_nil_iff]
    intro y hy
    split
    · rfl
    · next hother =>
      rw [not_or] at hother
      have hdep := ((h y hy).resolve_left hother.1).resolve_left hother.2
      have hnone : y.asyncs.filter (m.memberDep s (j.onWarp y) x) = [] :=
        List.filter_eq_nil_iff.mpr fun a ha => ne_true_of_eq_false (hdep a ha)
      rw [hnone]
      rfl

/-- The last checks pass a group whose members have no cause pending and keep the lanes they must keep (R41, R211). -/
theorem judgeMembers_passes {s : State} {m : Meta} {j : Job} {x : Option (BitVec 20)} {mask : LaneMask}
    (hcause : j.memberCause s m x = none)
    (hfull : m.noPartial = true → ∀ y ∈ j.members, j.liveOf y =
      if y.uid = j.w.uid then mask else ((y.split? y.onlySlot).map (·.mask)).getD 0) :
    s.judgeMembers m j x mask = .go (s.cacheOperand m j) j := by
  simp only [State.judgeMembers, hcause]
  refine if_neg fun h => ?_
  obtain ⟨hno, hpart⟩ := (Bool.and_eq_true _ _).mp h
  obtain ⟨y, hy, hne⟩ := List.any_eq_true.mp hpart
  exact of_decide_eq_true hne (hfull hno y hy)

/-! ## The warp's own object at WARP scope (R167, R195) -/

theorem passWarp_of_ne_warp {s : State} {m : Meta} (h : m.scope ≠ .warp) (u slot : Nat) : s.passWarp m u slot = s := if_neg h

/-- A warp whose own object has released the split in a slot. -/
def Warp.freed (w : Warp) (slot : Nat) : Warp := (w.modSplit slot fun x => { x with released := some .warp }).setRv .released

theorem freed_uid (w : Warp) (slot : Nat) : (w.freed slot).uid = w.uid := setRv_uid _ _

theorem setRv_block (x : Warp) (r : RvState) : (x.setRv r).block = x.block := by unfold Warp.setRv; split <;> rfl

theorem freed_block (w : Warp) (slot : Nat) : (w.freed slot).block = w.block := setRv_block _ _

theorem passWarp_of_warp {s : State} {m : Meta} (h : m.scope = .warp) (u slot : Nat) :
    s.passWarp m u slot = s.modWarp u fun w => w.freed slot := if_pos h

/-- A release moves no warp out of its block, and no block. -/
theorem passWarp_block? {s : State} {m : Meta} {u slot : Nat} {w v : Warp} (hw : s.warp? u = some w)
    (hv : (s.passWarp m u slot).warp? u = some v) : (s.passWarp m u slot).block? v.block = s.block? w.block := by
  by_cases hsc : m.scope = .warp
  · rw [passWarp_of_warp hsc] at hv ⊢
    rw [warp?_modWarp _ _ _ _ fun x => freed_uid x slot, if_pos rfl, hw] at hv
    cases hv
    rw [freed_block]
    rfl
  · rw [passWarp_of_ne_warp hsc] at hv ⊢
    rw [Option.some.inj (hw.symm.trans hv)]

/-- The rendezvous of a split is behind it: it is released, or its warp gathers no other and stands in one split (R167). -/
theorem gathering_eq_false {m : Meta} {w : Warp} {released : Option Scope}
    (h : released.isSome = true ∨ (gathers m.scope = false ∧ (m.scope = .warp → w.gathered = true))) :
    (released.isNone && (gathers m.scope || (m.scope == .warp && !w.gathered))) = false := by
  obtain hrel | ⟨hwide, hwarp⟩ := h
  · rw [Option.isNone_eq_false_iff.mpr hrel, Bool.false_and]
  · by_cases hsc : m.scope = .warp
    · simp [hwide, hwarp hsc]
    · simp [hwide, hsc]

/-- Only an instruction whose scope gathers more than one warp has partners, all of them members (R186 to R194). -/
theorem mem_partners {m : Meta} {ws : List Warp} {u v : Nat} (h : v ∈ m.partners ws u) :
    gathers m.scope = true ∧ ∃ y ∈ ws, y.uid = v := by
  rw [Meta.partners] at h
  split at h
  · next hspan =>
    obtain ⟨y, hy, hu⟩ := List.mem_map.mp (List.mem_filter.mp h).1
    exact ⟨((Bool.and_eq_true _ _).mp hspan).2, y, hy, hu⟩
  · exact absurd h List.not_mem_nil

/-- Settles O54: the causes are judged in the order of R47, and each check that nothing holds back passes the group on to the next. -/
theorem decodeCauses : Obligations.DecodeCauses := by
  intro m s w
  refine ⟨?_, ?_⟩
  · intro hs addr scope priv absent boundary operand range cause
    have hscope : _ ↔ scope := scopeCause_iff m s w
    have hpriv : _ ↔ priv := privilegeCause_iff m w
    have habsent : _ ↔ absent := variantCause_iff m s
    have hboundary : _ ↔ boundary := literalCause_iff m addr
    have hoperand : _ ↔ operand := operandCause_iff m hs
    have hrange : _ ↔ range := rangeCause_iff m w (hintOf hs 1)
    refine ⟨fun h => ?_, fun nscope h => ?_, fun nscope npriv h => ?_, fun nscope npriv nabsent a h => ?_,
      fun nscope npriv nabsent horphan => ⟨fun h => ?_, fun nboundary h => ?_, fun nboundary noperand h => ?_,
        fun nboundary noperand nrange => ?_⟩⟩
    all_goals simp only [cause, Meta.decodeCause, if_true, if_false, *]
  · intro sp ctx l b hw hsp hctx hl hb
    have hown : s.warp? w.uid = some w := (warp?_uid hw).symm ▸ hw
    refine ⟨fun c a hc => ?_, ?_⟩
    · simp only [State.judge, hw, hsp, hctx, hl, hb, hc]
      rfl
    · intro hc x j hloads hasync hmet t
      refine ⟨fun hsc => passWarp_of_ne_warp hsc _ _, ?_⟩
      intro v hv k hland hmem hfull
      have hvuid : v.uid = w.uid := warp?_uid hv
      have hsettle : s.settleFor m w x = some s := settleFor_of_landed hown hloads
      have hcause : ∀ runs, m.causeIn s j x runs = none := causeIn_eq_none hasync
      have hpart : t.settleMembers m x (m.partners j.members w.uid) = some t := by
        refine settleMembers_of_landed fun u hu z hz => ?_
        obtain ⟨hwide, y, hy, rfl⟩ := mem_partners hu
        have ht : t = s := passWarp_of_ne_warp (fun hsc => by rw [hsc] at hwide; cases hwide) _ _
        have hvw : v = w := Option.some.inj (hv.symm.trans (ht ▸ hown))
        exact hland y (show y ∈ t.members v m.scope by rw [ht, hvw]; exact hy) z hz
      have hblock : (t.block? v.block).getD b = b := by rw [passWarp_block? hown hv, hb, Option.getD_some]
      have hgo : t.judgeMembers m k x sp.mask = .go (t.cacheOperand m k) k :=
        judgeMembers_passes (memberCause_eq_none fun y hy => by rw [hvuid]; exact hmem y hy)
          fun hno y hy => by rw [hvuid]; exact hfull hno y hy
      simp only [State.judge, hw, hsp, hctx, hl, hb, hc]
      rw [show s.settleFor m w (hintOf sp.hints 1) = some s from hsettle]
      simp only [hown, hb, Option.getD_some, gathering_eq_false hmet]
      rw [show m.causeIn s _ _ _ = none from hcause _]
      simp only [Bool.false_eq_true, if_false]
      rw [show State.settleMembers _ m (hintOf sp.hints 1) (m.partners (s.members w m.scope) w.uid) = some t from hpart]
      simp only [hv, hblock]
      exact hgo

end Sys2Proof.Machine
end

section
/-! Branches (R33, R115 to R119): each sends the live lanes to the targets it computes, and lanes that all go one way keep their split. -/

namespace Sys2Proof.Machine

open Sys2Proof

theorem goers_lane {j : Job} (h : j.scope = .lane) (s : State) (p : BitVec 3) (n : Bool) :
    s.goers j p n = (s, j.live &&& condLanes j.w p n) := if_pos h

/-- Where one target takes every live lane or none, all lanes go one way (R115). -/
theorem spread_uniform (j : Job) (t : Dword) (go : Bool) :
    j.spread (if go then j.live else 0) t = (lanesOf j.live).map fun i => (i, if go then t else j.next) := by
  refine List.map_congr_left fun i hi => ?_
  cases go with
  | true => simp only [if_true, mem_lanesOf hi]
  | false => simp

theorem modSplit_regs (w : Warp) (slot : Nat) (g : Split → Split) : (w.modSplit slot g).regs = w.regs := rfl

theorem divide_uniform (slot : Nat) (first t : Dword) {l : List Nat} (hl : l ≠ []) :
    ∃ g : Split → Split, (∀ x, (g x).pc = t) ∧
      ∀ w : Warp, w.divide slot (some first) (l.map fun i => (i, t)) = w.modSplit slot g :=
  ⟨_, fun _ => rfl, fun w => divide_all w slot first t l hl⟩

/-- Lanes that all go to one target keep their slot there, and nothing else that a program sees changes (R115, R164). -/
theorem conclude_jump_uniform {s : State} {j : Job} (hw : s.warp? j.w.uid = some j.w) (hlive : j.live ≠ 0)
    (hx : (j.w.split? j.slot).isSome = true) (m : Meta) (first t : Dword) :
    let u := s.conclude m j (.jump s (some first) ((lanesOf j.live).map fun i => (i, t)))
    u.rest = s.rest ∧ (∀ v, u.seen v = s.seen v) ∧ u.pcOf j.w.uid j.slot = some t := by
  obtain ⟨x, hx⟩ := Option.isSome_iff_exists.mp hx
  obtain ⟨g, hpc, hdiv⟩ := divide_uniform j.slot first t (lanesOf_ne_nil hlive)
  have hsplit : (s.modWarp j.w.uid fun w => w.modSplit j.slot g).warp? j.w.uid = some (j.w.modSplit j.slot g) := by
    rw [warp?_modWarp _ _ _ _ fun w => modSplit_uid w j.slot g, if_pos rfl, hw, Option.map_some]
  have hslot : (j.w.modSplit j.slot g).split? j.slot = some (g x) := by rw [split_modSplit, hx, Option.map_some]
  intro u
  have hu : u = (s.modWarp j.w.uid fun w => w.modSplit j.slot g).finishAt j.w j.slot m.scope t := by
    simp only [u, State.conclude, hdiv, hsplit, Option.bind_some, hslot, Option.map_some, hpc, Option.getD_some]
  obtain ⟨hrest, hseen, hat⟩ := finishAt_effect _ j.w _ j.slot m.scope t hsplit
  rw [hu]
  refine ⟨hrest, fun v => (hseen v).trans (seen_modWarp_of_regs (fun w => modSplit_uid w j.slot g) (fun w => modSplit_regs w j.slot g) v), ?_⟩
  rw [hat, hslot, Option.map_some]

/-- A jump concludes from the state that it names. -/
theorem exec_of_jump {i : Instr} {m : Meta} {s s' q : State} {j : Job} {body : State → Job → Eff} {first : Option Dword}
    {ts : List (Nat × Dword)} (hi : exec i s = issue m s body) (hj : s.judge m = .go s' j)
    (hb : body s' j = .jump q first ts) (r : State) : exec i s = .next (r.conclude m j (.jump q first ts)) := by
  rw [concluded hi hj, hb]
  rfl

/-- Settles O26: each instruction concludes with a jump of its live lanes, and one whose lanes all go one way keeps its split. -/
theorem branches : Obligations.Branches := by
  intro sc p n disp b s s' j mb t r to_
  refine ⟨fun hj => ⟨?_, fun hfull => ?_, fun hsc => ?_, fun hsc hlive hx go hgo => ?_, fun q ts hstack hroutes hgood => ?_⟩,
    fun hj q ts hroutes hgood => ⟨?_, fun hfull => ?_⟩⟩
  · exact exec_of_jump rfl hj rfl _
  · refine exec_of_jump rfl hj ?_ _
    simp only [show j.w.fullStack (s'.goers j p n).2 = none from hfull]
    rfl
  · exact goers_lane ((judge_scope hj).trans hsc) s' p n
  · have hr : r = (s', if go then j.live else 0) :=
      (goers_lane ((judge_scope hj).trans hsc) s' p n).trans (congrArg (Prod.mk s') hgo)
    have hto : to_ = (lanesOf j.live).map fun i => (i, if go then t else j.next) := by
      show j.spread r.2 t = _
      rw [hr]
      exact spread_uniform j t go
    refine ⟨_, exec_of_jump rfl hj ?_ s', conclude_jump_uniform (judge_warp hj) hlive hx mb t (if go then t else j.next)⟩
    show Eff.jump r.1 (some t) to_ = _
    rw [hto, hr]
  · have hany : ((lanesOf j.live).any fun i => (j.w.stack i).isEmpty) = false :=
      List.any_eq_false.mpr fun i hi h => hstack i hi (List.isEmpty_iff.mp h)
    refine exec_of_jump rfl hj ?_ _
    simp only [hany, Bool.false_eq_true, if_false, hroutes, Got.eff, hgood]
  · exact exec_of_jump rfl hj (by simp only [hroutes, Got.eff, hgood]) _
  · exact exec_of_jump rfl hj (by simp only [hroutes, Got.eff, hgood, hfull]) _

end Sys2Proof.Machine
end

section
/-! Floating reductions and scans (R94, R95, R191, R192): each writes its values across the span where no enabled exception arises. -/

namespace Sys2Proof.Machine

open Sys2Proof

/-- Exceptions that the context does not enable trap nowhere in the span (R192). -/
theorem spanTrap_eq_none {j : Job} {fx : Fx} (h : fx &&& j.ctx.fpxen = 0) : j.spanTrap fx = none := if_pos h

/-- A minimum or maximum rounds nothing, so that its effect has no trap (R192). -/
theorem spanResult_minMax {i : Instr} {m : Meta} {s s' : State} {j : Job} {f : Form} {big : Bool}
    (hi : exec i s = issue m s (lredMinMax f big)) (hj : s.judge m = .go s' j) :
    SpanResult i m s s' j (j.formVal f (minMaxOf j.ftz big)) := span_of hi hj rfl

/-- Settles O17: FMIN and FMAX never trap, and the sums trap only where the exceptions of all their roundings meet an enabled one. -/
theorem floatReductions : Obligations.FloatReductions := by
  intro sc d a s s' j hj m
  refine ⟨⟨spanResult_minMax rfl hj, spanResult_minMax rfl hj, spanResult_minMax rfl hj, spanResult_minMax rfl hj,
    spanResult_minMax rfl hj, spanResult_minMax rfl hj⟩, ?_, ?_⟩
  · intro one total hquiet
    refine span_of rfl hj ?_
    simp only [lredAdd]
    rw [spanTrap_eq_none hquiet]
  · intro f hf one across own val hquiet
    have hbody : lscanAdd f s' j = .next (s'.putSpan j fun w i => (val w i).1) := by
      simp only [lscanAdd]
      rw [spanTrap_eq_none hquiet]
    obtain rfl | rfl := hf
    · exact span_of rfl hj hbody
    · exact span_of rfl hj hbody

end Sys2Proof.Machine
end

section
/-! The caches between a core and the homes (R96, R388, R401 to R404): whatever line leaves or enters one, no warp changes and,
where no shadow waits, no byte at its home does. -/

namespace Sys2Proof.Machine

open Sys2Proof

/-! ## Shadows (R96) -/

theorem remember_nil (s : State) : s.remember [] = s := by
  rw [State.remember]
  split
  · rfl
  · rfl

theorem remember_fields (s : State) (ks : List Nat) : (s.remember ks).fields = s.fields := by
  unfold State.remember
  split <;> rfl

theorem remember_slices (s : State) (ks : List Nat) : (s.remember ks).slices = s.slices := by
  unfold State.remember
  split <;> rfl

theorem remember_vaultDirty (s : State) (ks : List Nat) : (s.remember ks).vaultDirty = s.vaultDirty := by
  unfold State.remember
  split <;> rfl

@[simp] theorem roundShadows_fields (s : State) (ks : List Nat) : (s.roundShadows ks).fields = s.fields := remember_fields _ _

@[simp] theorem roundShadows_slices (s : State) (ks : List Nat) : (s.roundShadows ks).slices = s.slices := remember_slices _ _

@[simp] theorem roundShadows_vaultDirty (s : State) (ks : List Nat) : (s.roundShadows ks).vaultDirty = s.vaultDirty :=
  remember_vaultDirty _ _

theorem roundShadows_of_no_shadows {s : State} (h : s.shadows = []) (ks : List Nat) : s.roundShadows ks = s := by
  have hsame : ({ s with mem := s.mem, shadows := [] } : State) = s := by rw [← h]
  simp only [State.roundShadows, State.roundThose, h, List.filter_nil, List.foldl_nil, List.map_nil, hsame, remember_nil]

/-! ## Upkeep -/

/-- The caches have changed: no warp has and, where no shadow waits, neither has a byte at its home. -/
structure Upkeep (s t : State) : Prop where
  warps : t.warps = s.warps
  mem : s.shadows = [] → t.mem = s.mem ∧ t.shadows = []

theorem Upkeep.refl (s : State) : Upkeep s s := ⟨rfl, fun h => ⟨rfl, h⟩⟩

theorem Upkeep.trans {s t u : State} (h : Upkeep s t) (k : Upkeep t u) : Upkeep s u := by
  refine ⟨k.warps.trans h.warps, fun hs => ?_⟩
  obtain ⟨hmem, hshadows⟩ := h.mem hs
  obtain ⟨kmem, kshadows⟩ := k.mem hshadows
  exact ⟨kmem.trans hmem, kshadows⟩

theorem Upkeep.of_eq {s t : State} (hw : t.warps = s.warps) (hm : t.mem = s.mem) (hs : t.shadows = s.shadows) : Upkeep s t :=
  ⟨hw, fun h => ⟨hm, hs.trans h⟩⟩

theorem Upkeep.ite {s t u : State} {p : Prop} [Decidable p] (ht : Upkeep s t) (hu : Upkeep s u) : Upkeep s (if p then t else u) := by
  split
  · exact ht
  · exact hu

theorem Upkeep.foldl {α : Type} {f : State → α → State} (h : ∀ s x, Upkeep s (f s x)) (s : State) (l : List α) :
    Upkeep s (l.foldl f s) := by
  induction l generalizing s with
  | nil => exact Upkeep.refl s
  | cons x xs ih => exact (h s x).trans (ih (f s x))

theorem Upkeep.warp? {s t : State} (h : Upkeep s t) (u : Nat) : t.warp? u = s.warp? u := by
  rw [State.warp?, h.warps, State.warp?]

theorem upkeep_roundShadows (s : State) (ks : List Nat) : Upkeep s (s.roundShadows ks) :=
  ⟨roundShadows_warps s ks, fun h => by rw [roundShadows_of_no_shadows h]; exact ⟨rfl, h⟩⟩

theorem upkeep_setSharers (s : State) (line : Nat) (m : BitVec 4) : Upkeep s (s.setSharers line m) := Upkeep.of_eq rfl rfl rfl

theorem upkeep_evictDirty (s : State) (d : DirtyLine) (toVault : Bool) : Upkeep s (s.evictDirty d toVault) :=
  (upkeep_roundShadows s _).trans (Upkeep.of_eq rfl rfl rfl)

theorem upkeep_evictFrom (s : State) (slice : Nat) (x : Nat × Nat) : Upkeep s (s.evictFrom slice x) := by
  unfold State.evictFrom
  split
  · split
    · exact upkeep_evictDirty _ _ _
    · exact Upkeep.refl s
  · exact Upkeep.of_eq rfl rfl rfl
  · exact Upkeep.of_eq rfl rfl rfl

theorem upkeep_roomSlice (s : State) (slice : Nat) : Upkeep s (s.roomSlice slice) := by
  unfold State.roomSlice
  dsimp only
  split
  · exact Upkeep.refl s
  · split
    · exact upkeep_evictFrom _ _ _
    · exact Upkeep.refl s

theorem upkeep_fillProxy (s : State) (field line home : Nat) : Upkeep s (s.fillProxy field line home) := by
  unfold State.fillProxy
  refine Upkeep.ite (Upkeep.refl s) (Upkeep.trans ?_ (upkeep_setSharers _ _ _))
  exact ((upkeep_roundShadows s _).trans (upkeep_roomSlice _ _)).trans (Upkeep.of_eq rfl rfl rfl)

theorem upkeep_evictL1 (s : State) (x : L1Line) (repl : Bool) : Upkeep s (s.evictL1 x repl) := by
  have hout : Upkeep s { s with l1 := s.l1.filter fun y => !(y.core == x.core && y.line == x.line) } := Upkeep.of_eq rfl rfl rfl
  exact Upkeep.ite (hout.trans (upkeep_fillProxy _ _ _ _)) hout

theorem upkeep_roomL1 (s : State) (core : Nat) : Upkeep s (s.roomL1 core) := by
  unfold State.roomL1
  dsimp only
  split
  · exact Upkeep.refl s
  · split
    · exact upkeep_evictL1 _ _ _
    · exact Upkeep.refl s

theorem upkeep_putL1 (s : State) (core line home : Nat) (fill : Option Bool) (cs : List Host.Cell) :
    Upkeep s (s.putL1 core line home fill cs) := by
  unfold State.putL1
  split
  · exact Upkeep.of_eq rfl rfl rfl
  · exact Upkeep.ite (upkeep_roomL1 s core) ((upkeep_roomL1 s core).trans (Upkeep.of_eq rfl rfl rfl))

theorem upkeep_noteReaders (s : State) (core : Nat) (keys : List Nat) : Upkeep s (s.noteReaders core keys) := Upkeep.of_eq rfl rfl rfl

theorem upkeep_fetchLocal (s : State) (f : Nat) (isLocal : Bool) (line : Nat) : Upkeep s (s.fetchLocal f isLocal line) := by
  unfold State.fetchLocal
  refine Upkeep.ite ?_ (Upkeep.refl s)
  exact ((upkeep_roundShadows s _).trans (upkeep_roomSlice _ _)).trans (Upkeep.of_eq rfl rfl rfl)

theorem upkeep_fillL1 (s : State) (core : Nat) (repl nt : Bool) (a : Access) (line : Nat) : Upkeep s (s.fillL1 core repl nt a line) := by
  unfold State.fillL1
  refine Upkeep.ite (upkeep_noteReaders _ _ _) (Upkeep.ite (upkeep_putL1 _ _ _ _ _ _) ?_)
  exact (Upkeep.ite (upkeep_roundShadows _ _) (Upkeep.refl s)).trans ((upkeep_noteReaders _ _ _).trans (upkeep_putL1 _ _ _ _ _ _))

end Sys2Proof.Machine
end

section
/-! One load (R30, R103, R144, R220): what it writes to its warp's registers, and that it leaves its class as done. -/

namespace Sys2Proof.Machine

open Sys2Proof

/-! ## Masks and rows of lanes -/

theorem getLsbD_laneBit (k : Nat) {i : Nat} (hi : i < 32) : (laneBit k).getLsbD i = (k == i) := by
  rw [laneBit, BitVec.getLsbD_shiftLeft, BitVec.getLsbD_one, Bool.eq_iff_iff]
  simp only [Bool.and_eq_true, Bool.not_eq_true', decide_eq_true_eq, decide_eq_false_iff_not, beq_iff_eq]
  omega

theorem getLsbD_maskFold (f : Nat → Bool) (l : List Nat) (m : LaneMask) {i : Nat} (hi : i < 32) :
    (l.foldl (fun m k => if f k then m ||| laneBit k else m) m).getLsbD i = (m.getLsbD i || (l.contains i && f i)) := by
  induction l generalizing m with
  | nil => simp
  | cons k l ih =>
    rw [List.foldl_cons, ih]
    by_cases hk : k = i
    · subst hk
      cases hf : f k <;> simp [getLsbD_laneBit k hi]
    · have hbit : (laneBit k).getLsbD i = false := by rw [getLsbD_laneBit k hi]; simpa using hk
      cases f k <;> simp [hbit, Ne.symm hk]

theorem getLsbD_maskOf (f : Nat → Bool) {i : Nat} (hi : i < 32) : (maskOf f).getLsbD i = f i := by
  rw [maskOf, getLsbD_maskFold f lanes32 0#32 hi]
  simp [lanes32, hi]

theorem laneOf_of_ge (r : Row) {i : Nat} (hi : 32 ≤ i) : laneOf r i = 0 := by
  rw [laneOf, Vector.getElem?_eq_none hi, Option.getD_none]

/-! ## Several registers written at once (R30, R100) -/

/-- Rows of registers are written one after the other. -/
theorem writeRows_v (w : Warp) (live : LaneMask) (d : Nat) (rows : List Row) :
    (w.writeRows live d rows).v = (rows.zipIdx.foldl (fun w x => w.setRow live (d + x.2) x.1) w).v := by
  have hfold : ∀ (l : List (Row × Nat)) (w : Warp), l.foldl (fun v (x : Row × Nat) =>
      v.setIfInBounds (d + x.2) (mergeRow live x.1 ((v[d + x.2]?).getD (splat 0)))) w.v =
      (l.foldl (fun w x => w.setRow live (d + x.2) x.1) w).v := by
    intro l
    induction l with
    | nil => exact fun _ => rfl
    | cons x l ih => exact fun w => ih (w.setRow live (d + x.2) x.1)
  exact hfold rows.zipIdx w

theorem row_foldl_setRow (live : LaneMask) (d : Nat) (rows : List Row) (n r : Nat) (w : Warp) :
    ((rows.zipIdx n).foldl (fun w x => w.setRow live (d + x.2) x.1) w).row r =
      if d + n ≤ r ∧ r < d + n + rows.length ∧ r < 128 then mergeRow live (rows.getD (r - (d + n)) (splat 0)) (w.row r) else w.row r := by
  induction rows generalizing n w with
  | nil => rw [if_neg (by simp; omega)]; rfl
  | cons x rows ih =>
    rw [List.zipIdx_cons, List.foldl_cons, ih]
    by_cases hr : r = d + n
    · subst hr
      rw [if_neg (by omega)]
      by_cases hb : d + n < 128
      · rw [row_setRow_self _ _ _ hb, if_pos (by simp [hb]), Nat.sub_self, List.getD_cons_zero]
      · rw [if_neg (by omega), Warp.row, setRow_v, Vector.getElem?_eq_none (by omega), Warp.row, Vector.getElem?_eq_none (by omega)]
    · rw [row_setRow_ne _ _ _ hr]
      by_cases hin : d + n ≤ r ∧ r < d + n + (x :: rows).length ∧ r < 128
      · have hlen : r < d + n + (rows.length + 1) := hin.2.1
        have hidx : r - (d + n) = r - (d + (n + 1)) + 1 := by omega
        rw [if_pos hin, if_pos (by omega), hidx, List.getD_cons_succ]
      · have hlen : (x :: rows).length = rows.length + 1 := rfl
        rw [if_neg hin, if_neg (by omega)]

/-- Register d + k takes row k in the live lanes, and every other register stays. -/
theorem row_writeRows (w : Warp) (live : LaneMask) (d : Nat) (rows : List Row) (r : Nat) :
    (w.writeRows live d rows).row r =
      if d ≤ r ∧ r < d + rows.length ∧ r < 128 then mergeRow live (rows.getD (r - d) (splat 0)) (w.row r) else w.row r := by
  rw [Warp.row, writeRows_v]
  exact row_foldl_setRow live d rows 0 r w

/-- A lane that is not written, or of a register that is not, keeps its word. -/
theorem laneOf_writeRows_other (w : Warp) (live : LaneMask) (d : Nat) (rows : List Row) {r i : Nat}
    (h : r < d ∨ d + rows.length ≤ r ∨ (i < 32 → live.getLsbD i = false)) :
    laneOf ((w.writeRows live d rows).row r) i = laneOf (w.row r) i := by
  by_cases hi : i < 32
  · rw [row_writeRows]
    split
    · next hin =>
      have hl : live.getLsbD i = false := (h.resolve_left (by omega)).resolve_left (by omega) hi
      rw [laneOf_mergeRow _ _ _ hi, hl, if_neg Bool.false_ne_true]
    · rfl
  · rw [laneOf_of_ge _ (by omega), laneOf_of_ge _ (by omega)]

theorem laneOf_writeRows (w : Warp) {live : LaneMask} {d : Nat} {rows : List Row} {k i : Nat} (hk : k < rows.length)
    (hd : d + rows.length ≤ 128) (hi : i < 32) (hl : live.getLsbD i = true) :
    laneOf ((w.writeRows live d rows).row (d + k)) i = laneOf (rows[k]) i := by
  rw [row_writeRows, if_pos (by omega), laneOf_mergeRow _ _ _ hi, if_pos hl, Nat.add_sub_cancel_left,
    List.getD_eq_getElem?_getD, List.getElem?_eq_getElem hk, Option.getD_some]

/-! ## What a load writes (R220) -/

/-- The accesses of a load whose lines can be read. -/
def State.goodAccs (s : State) (op : LoadOp) : List Access := op.accs.filter fun a => !((s.loadFaults op).any fun f => f.1.lane == a.lane)

/-- The bytes of an access as a load of a warp takes them. -/
def State.bytesOf (s : State) (w : Warp) (op : LoadOp) (a : Access) : List Byte := (s.opBytes w op a).map fun o => (o.getD (0, false)).1

/-- The bytes that a load takes in a lane. -/
def State.laneBytes (s : State) (w : Warp) (op : LoadOp) (i : Nat) : List Byte :=
  (((((s.goodAccs op).map fun a => (a.lane, s.bytesOf w op a)).find? fun x => x.1 == i)).map (·.2)).getD []

/-- The lanes in which a load writes its registers. -/
def State.loadMask (s : State) (op : LoadOp) : LaneMask :=
  maskOf fun i => op.lanes.getLsbD i && (s.goodAccs op).any fun a => a.lane == i

/-- The rows that a load writes, one for each of its registers. -/
def State.loadRows (s : State) (w : Warp) (op : LoadOp) : List Row :=
  (List.range op.nreg).map fun j => rowOf fun i => loadWord op.size op.sext (s.laneBytes w op i) j

@[simp] theorem loadRows_length (s : State) (w : Warp) (op : LoadOp) : (s.loadRows w op).length = op.nreg := by simp [State.loadRows]

theorem fst_mem_of_mem_loadFaults {s : State} {op : LoadOp} {f : Access × Nat} (h : f ∈ s.loadFaults op) :
    f.1 ∈ op.accs ∧ s.lineFault (f.1.lines op.size) = some f.2 := by
  obtain ⟨a, ha, hf⟩ := List.mem_filterMap.mp h
  obtain ⟨c, hc, rfl⟩ := Option.map_eq_some_iff.mp hf
  exact ⟨ha, hc⟩

section
variable {s : State} {op : LoadOp} {a : Access} (hmem : a ∈ op.accs) (hgood : s.lineFault (a.lines op.size) = none)
  (hone : ∀ o ∈ op.accs, o.lane = a.lane → o = a)
include hmem hgood hone

/-- The one access of a lane, its lines readable, is good. -/
theorem mem_goodAccs : a ∈ s.goodAccs op := by
  refine List.mem_filter.mpr ⟨hmem, ?_⟩
  rw [Bool.not_eq_true', List.any_eq_false]
  intro f hf hlane
  obtain ⟨hin, hbad⟩ := fst_mem_of_mem_loadFaults hf
  rw [hone f.1 hin (by simpa using hlane), hgood] at hbad
  cases hbad

theorem laneBytes_of_single (w : Warp) : s.laneBytes w op a.lane = s.bytesOf w op a := by
  have hfind : (s.goodAccs op).find? (fun o => o.lane == a.lane) = some a := by
    cases hf : (s.goodAccs op).find? fun o => o.lane == a.lane with
    | none => exact absurd (beq_self_eq_true a.lane) (List.find?_eq_none.mp hf a (mem_goodAccs hmem hgood hone))
    | some o =>
      have hin : o ∈ op.accs := (List.mem_filter.mp (List.mem_of_find?_eq_some hf)).1
      rw [hone o hin (by simpa using List.find?_some hf)]
  have hcomp : ((fun x : Nat × List Byte => x.1 == a.lane) ∘ fun a => (a.lane, s.bytesOf w op a)) = fun o : Access => o.lane == a.lane := rfl
  rw [State.laneBytes, List.find?_map, hcomp, hfind]
  rfl

theorem getLsbD_loadMask (hi : a.lane < 32) (hlive : op.lanes.getLsbD a.lane = true) : (s.loadMask op).getLsbD a.lane = true := by
  rw [State.loadMask, getLsbD_maskOf _ hi, hlive, Bool.true_and]
  exact List.any_eq_true.mpr ⟨a, mem_goodAccs hmem hgood hone, beq_self_eq_true _⟩

end

/-- The warp as a load of it leaves its registers: an h register, or the good lanes of its v registers. -/
def State.loadedWarp (s : State) (w : Warp) (op : LoadOp) : Warp :=
  match op.kind with
  | .hreg =>
    match ((s.goodAccs op).map fun a => (a.lane, s.bytesOf w op a)).head? with
    | some x => w.writeH op.dest (BitVec.ofNat 512 (leNat x.2))
    | none => w
  | _ => w.writeRows (s.loadMask op) op.dest (s.loadRows w op)

theorem loadedWarp_hreg {op : LoadOp} (h : op.kind = .hreg) (s : State) (w : Warp) :
    (s.loadedWarp w op).uid = w.uid ∧ (s.loadedWarp w op).v = w.v := by
  unfold State.loadedWarp
  rw [h]
  dsimp only
  split
  · exact ⟨rfl, rfl⟩
  · exact ⟨rfl, rfl⟩

theorem loadedWarp_mem {op : LoadOp} (h : op.kind = .mem) (s : State) (w : Warp) :
    s.loadedWarp w op = w.writeRows (s.loadMask op) op.dest (s.loadRows w op) := by
  rw [State.loadedWarp, h]

theorem pendingMem_kind {op : LoadOp} (h : op.pendingMem = true) : op.kind = .mem ∨ op.kind = .hreg := by
  simpa using ((Bool.and_eq_true _ _).mp h).2

theorem loadedWarp_uid {op : LoadOp} (h : op.pendingMem = true) (s : State) (w : Warp) : (s.loadedWarp w op).uid = w.uid := by
  obtain hk | hk := pendingMem_kind h
  · rw [loadedWarp_mem hk]
    rfl
  · exact (loadedWarp_hreg hk s w).1

end Sys2Proof.Machine
end

section
/-! LOAD_COMPLETE (R103, R220): a load that nothing holds back takes its bytes, writes its registers and is done. -/

namespace Sys2Proof.Machine

open Sys2Proof

/-! ## Leaving the loads class (R144) -/

theorem mem_of_mem_leaveClass {α : Type} {done : α → Bool} {l : List α} {x : α} (h : x ∈ leaveClass done l) : x ∈ l := by
  induction l with
  | nil => exact h
  | cons y l ih =>
    rw [leaveClass] at h
    split at h
    · exact List.mem_cons_of_mem y (ih h)
    · exact h

/-- Whatever is left of a finished operation in its class is done. -/
theorem done_of_mem_finish {id : Nat} {l : List LoadOp} {o : LoadOp} (h : o ∈ LoadOp.finish id l) (hid : o.id = id) : o.done = true := by
  obtain ⟨p, -, rfl⟩ := List.mem_map.mp (mem_of_mem_leaveClass h)
  by_cases hp : (p.id == id) = true
  · rw [if_pos hp]
  · rw [if_neg hp] at hid
    exact absurd (beq_iff_eq.mpr hid) hp

/-! ## What follows a load in its warp (R229, R230) -/

/-- A change of the warps of one number that keeps the number. -/
theorem warp?_of_mapWhere {s t : State} {u : Nat} {w : Warp} {g : Warp → Warp}
    (ht : t.warps = mapWhere (fun x => x.uid == u) g s.warps) (hg : ∀ x, x.uid = u → (g x).uid = u) (hw : s.warp? u = some w) :
    t.warp? u = some (g w) := by
  have hcomp : ((fun x : Warp => x.uid == u) ∘ fun x => if x.uid == u then g x else x) = fun x => x.uid == u := by
    funext x
    by_cases hx : x.uid = u <;> simp [hx, hg x]
  have hfind : s.warps.find? (fun x => x.uid == u) = some w := hw
  rw [State.warp?, ht, mapWhere, List.find?_map, hcomp, hfind, Option.map_some, if_pos (List.find?_some hfind)]

/-- The releases behind a load change neither its warp's registers nor its loads. -/
theorem lateSeen_warp? {s : State} {u : Nat} {w : Warp} (hw : s.warp? u = some w) (seq : Nat) (ops : List Nat) :
    ∃ y, (s.lateSeen u seq ops).warp? u = some y ∧ y.v = w.v ∧ y.loads = w.loads := by
  unfold State.lateSeen
  dsimp only
  split
  · exact ⟨w, hw, rfl, rfl⟩
  · refine ⟨_, warp?_of_mapWhere rfl ?_ hw, rfl, rfl⟩
    exact fun _ hx => hx

theorem lateSeen_mem (s : State) (u seq : Nat) (ops : List Nat) : (s.lateSeen u seq ops).mem = s.mem := by
  unfold State.lateSeen
  dsimp only
  split <;> rfl

theorem ite_invalL1_warp? (p : Prop) [Decidable p] (s : State) (core u : Nat) :
    (if p then s.invalL1 core else s).warp? u = s.warp? u := by
  split <;> rfl

theorem ite_invalL1_mem (p : Prop) [Decidable p] (s : State) (core : Nat) : (if p then s.invalL1 core else s).mem = s.mem := by
  split <;> rfl

/-- A load that no atomic, no frame and no pending byte holds back completes: some shadows are rounded, and its warp takes its values. -/
theorem completeLoad_effect {s : State} {w : Warp} {op : LoadOp} (hw : s.warp? w.uid = some w) (hop : op.pendingMem = true)
    (hahead : s.atomicAhead w op = false)
    (hbytes : ∀ a ∈ op.accs, s.frameLost (s.ctxidOf w) a.key = false ∧ ∀ b ∈ s.opBytes w op a, b.isSome = true) :
    ∃ t y ks, s.completeLoad w op = some t ∧ t.warp? w.uid = some y ∧ y.v = ((s.roundShadows ks).loadedWarp w op).v ∧
      (∀ o ∈ y.loads, o.id = op.id → o.done = true) ∧ (s.shadows = [] → t.mem = s.mem) := by
  have hfree : (s.atomicAhead w op || op.accs.any fun a => s.frameLost (s.ctxidOf w) a.key) = false := by
    rw [hahead, Bool.false_or, List.any_eq_false]
    exact fun a ha => ne_true_of_eq_false (hbytes a ha).1
  have hall : ((op.accs.map fun a => (a, s.opBytes w op a)).any fun g => g.2.any Option.isNone) = false := by
    rw [List.any_map, List.any_eq_false]
    intro a ha hsome
    obtain ⟨b, hb, hnone⟩ := List.any_eq_true.mp hsome
    rw [Option.isNone_iff_eq_none.mp hnone] at hb
    cases (hbytes a ha).2 none hb
  unfold State.completeLoad
  rw [if_neg (ne_true_of_eq_false hfree)]
  extract_lets got homeKeys s1 faults bytesOf okAccs byLane laneBytes mask w1 newAsyncs keys ops f s2 s3 s4
  rw [if_neg (ne_true_of_eq_false hall)]
  have hupkeep : Upkeep s s2 := (upkeep_roundShadows s homeKeys).trans
    (Upkeep.foldl (fun _ a => Upkeep.foldl (fun _ l => (upkeep_fetchLocal _ _ _ _).trans (upkeep_fillL1 _ _ _ _ _ _)) _ _) _ _)
  have hw1 : w1 = s1.loadedWarp w op := rfl
  have hv1 : w1.v = (s1.loadedWarp w op).v := congrArg Warp.v hw1
  have hs3 : s3.warp? w.uid = some _ := warp?_of_mapWhere rfl (fun _ _ => (congrArg Warp.uid hw1).trans (loadedWarp_uid hop s1 w))
    ((hupkeep.warp? _).trans hw)
  obtain ⟨y, hy, hv, hloads⟩ := lateSeen_warp? hs3 op.seq ops
  refine ⟨_, y, homeKeys, rfl, (ite_invalL1_warp? _ _ _ _).trans hy, hv.trans hv1, fun o ho hid => ?_, fun hs => ?_⟩
  · rw [hloads] at ho
    obtain ⟨p, hp, rfl⟩ := List.mem_map.mp ho
    exact done_of_mem_finish (o := p) hp hid
  · exact (ite_invalL1_mem _ _ _).trans ((lateSeen_mem _ _ _ _).trans (hupkeep.mem hs).1)

/-- A load to an h register changes no v register, and one to v registers only its own in its own lanes (R103). -/
theorem laneOf_loadedWarp_other {s : State} {w : Warp} {op : LoadOp} (hop : op.pendingMem = true) {r i : Nat}
    (h : op.kind = .hreg ∨ r < op.dest ∨ op.dest + op.nreg ≤ r ∨ op.lanes.getLsbD i = false) :
    laneOf ((s.loadedWarp w op).row r) i = laneOf (w.row r) i := by
  obtain hmem | hhreg := pendingMem_kind hop
  · obtain hhreg | h := h
    · rw [hmem] at hhreg
      cases hhreg
    · rw [loadedWarp_mem hmem]
      refine laneOf_writeRows_other _ _ _ _ ?_
      rw [loadRows_length]
      refine h.imp_right (Or.imp_right fun hl hi => ?_)
      rw [State.loadMask, getLsbD_maskOf _ hi, hl, Bool.false_and]
  · rw [Warp.row, (loadedWarp_hreg hhreg s w).2, Warp.row]

/-- The lane of a load's one good access takes the words of its bytes (R30). -/
theorem laneOf_loadedWarp {s : State} {w : Warp} {op : LoadOp} {a : Access} (hk : op.kind = .mem) (hmem : a ∈ op.accs)
    (hgood : s.lineFault (a.lines op.size) = none) (hone : ∀ o ∈ op.accs, o.lane = a.lane → o = a) (hi : a.lane < 32)
    (hlive : op.lanes.getLsbD a.lane = true) {n : Nat} (hn : n < op.nreg) (hd : op.dest + op.nreg ≤ 128) :
    laneOf ((s.loadedWarp w op).row (op.dest + n)) a.lane = loadWord op.size op.sext (s.bytesOf w op a) n := by
  have hlen : n < (s.loadRows w op).length := by rwa [loadRows_length]
  rw [loadedWarp_mem hk, laneOf_writeRows w hlen (by rwa [loadRows_length]) hi (getLsbD_loadMask hmem hgood hone hi hlive)]
  simp only [State.loadRows, List.getElem_map, List.getElem_range, laneOf_rowOf _ hi, laneBytes_of_single hmem hgood hone]

theorem exec_loadComplete {s : State} {w k : Nat} {x : Warp} {op : LoadOp} (hw : s.warp? w = some x) (hk : x.loads[k]? = some op)
    (hop : op.pendingMem = true) (hfirst : (x.loads.take k).any LoadOp.pendingMem = false) {t : State} (ht : s.completeLoad x op = some t) :
    exec (.loadComplete w k) s = .next t := by
  have hexec : exec (.loadComplete w k) s = execLoadComplete w k s := rfl
  simp only [hexec, execLoadComplete, hw, hk, hop, hfirst, ht, Bool.not_true, Bool.false_eq_true, if_false, Option.getD_some]

end Sys2Proof.Machine
end

section
/-! The events of memory (R96, R218, R225, R231, R243, R244, R401, R403, R417): what each does when it is enabled. -/

namespace Sys2Proof.Machine

open Sys2Proof

/-! ## Stores -/

theorem drainOne_eq {s : State} {w : Nat} {x : Warp} {e : SqEntry} {rest : List SqEntry} (hw : s.warp? w = some x)
    (hsq : x.sq = e :: rest) (hmay : s.mayDrain x e = true) :
    let t := s.modWarp w fun x => { x with sq := rest }
    let u : State :=
      if e.flush = [] then e.groups.foldl (fun t g => t.launchFlight x (s.ctxidOf x) e g) t
      else { t with vaultDirty := t.vaultDirty.filter fun d => d.slice / 40 != x.field ||
        !(e.flush.any fun r => decide (r.1 / 128 ≤ d.line) && decide (d.line ≤ (r.1 + r.2 - 1) / 128)) }
    s.drainOne w = some (u.closeStore e.id) := by
  intro t u
  simp only [State.drainOne, hw, hsq, hmay, Bool.not_true, Bool.false_eq_true, if_false]
  cases hf : e.flush with
  | nil => simp only [u, t, hf, List.isEmpty_nil, Bool.not_true, Bool.false_eq_true, if_false, if_true]
  | cons r rs => simp only [u, t, hf, List.isEmpty_cons, Bool.not_false, if_true, reduceCtorEq, if_false]

theorem exec_storeApply {s : State} {id : Nat} {f : Flight} (hf : s.flight? id = some f) (hmay : s.mayApply f = true)
    (hpath : s.stranded f.leaving f.peer f.src f.dst = false) : exec (.storeApply id) s = .next (s.applyFlight f).settleMoved := by
  have hexec : exec (.storeApply id) s = execStoreApply id s := rfl
  simp only [hexec, execStoreApply, hf, hpath, hmay, Bool.and_false, Bool.not_true, Bool.false_eq_true, if_false]

theorem exec_storeAck_flight {s : State} {id : Nat} {f : Flight} (hf : s.flight? id = some f) (hmay : s.mayAck f = true) :
    exec (.storeAck id) s = .next (s.ackFlight f).settleMoved := by
  have hexec : exec (.storeAck id) s = execStoreAck id s := rfl
  simp only [hexec, execStoreAck, hf, hmay, if_true]

theorem exec_storeAck_red {s : State} {id : Nat} {r : AtomReq} (hf : s.flight? id = none)
    (hr : s.areqs.find? (fun r => r.id == id) = some r) (hmay : s.mayAckRed r = true) :
    exec (.storeAck id) s = .next (s.ackRed r).settleMoved := by
  have hexec : exec (.storeAck id) s = execStoreAck id s := rfl
  simp only [hexec, execStoreAck, hf, hr, hmay, if_true]

/-! ## Copies of lines -/

/-- A mask that was set is the home's mask; an empty one reads as an unlisted line. -/
theorem sharersOf_setSharers (s : State) (line : Nat) (m : BitVec 4) : (s.setSharers line m).sharersOf line = m := by
  by_cases hm : m = 0
  · have hnone : (s.sharers.filter fun (x : Nat × BitVec 4) => x.1 != line).find? (fun x => x.1 == line) = none := by
      rw [List.find?_eq_none]
      intro x hx heq
      simp [beq_iff_eq.mp heq] at hx
    simp only [State.sharersOf, State.setSharers, hm, if_true, hnone]
    rfl
  · simp only [State.sharersOf, State.setSharers, if_neg hm, List.find?_cons, beq_self_eq_true]
    rfl

theorem l1Line?_eq {s : State} {core line : Nat} {x : L1Line} (h : s.l1Line? core line = some x) : x.core = core ∧ x.line = line := by
  simpa using List.find?_some h

theorem exec_l1Eviction {s : State} {core line : Nat} {x : L1Line} (hx : s.l1Line? core line = some x)
    (hpend : ∀ p ∈ s.pend, ¬(p.core = core ∧ lineOf p.key = line)) :
    exec (.l1Eviction core line false) s = .next { s with l1 := s.l1.filter fun y => !(y.core == core && y.line == line) } := by
  have hexec : exec (.l1Eviction core line false) s = execL1Eviction core line false s := rfl
  have hfree : (s.pend.any fun p => p.core == core && lineOf p.key == line) = false :=
    List.any_eq_false.mpr fun p hp h => hpend p hp (by simpa using h)
  obtain ⟨hcore, hline⟩ := l1Line?_eq hx
  simp only [hexec, execL1Eviction, hx, hfree, Bool.false_eq_true, if_false, State.evictL1, Bool.false_and, hcore, hline]

/-- Whether a vault cache part may take a line is a matter of the fields alone (R395). -/
theorem cacheable_of_fields {s t : State} (h : t.fields = s.fields) (d : DirtyLine) : t.cacheable d = s.cacheable d := by
  have honline : t.vaultOnline = s.vaultOnline := by
    funext f column
    simp only [State.vaultOnline, State.field?, h]
  rw [State.cacheable, honline, State.cacheable]

/-- A dirty line that is evicted stands in no slice, and in a vault cache part where it goes there and may. -/
theorem evictDirty_lines (s : State) (d : DirtyLine) (toVault : Bool) :
    (∀ e ∈ (s.evictDirty d toVault).slices, e.line ≠ d.line) ∧
    ((∃ e ∈ (s.evictDirty d toVault).vaultDirty, e.line = d.line) ↔ toVault = true ∧ s.cacheable d = true) := by
  simp only [State.evictDirty, roundShadows_slices, roundShadows_vaultDirty, cacheable_of_fields (roundShadows_fields s _)]
  refine ⟨fun e he => by simpa using (List.mem_filter.mp he).2, ?_⟩
  have hrest : ¬∃ e ∈ s.vaultDirty.filter fun e => e.line != d.line, e.line = d.line := by
    rintro ⟨e, he, heq⟩
    simp [heq] at he
  by_cases hgo : (toVault && s.cacheable d) = true
  · rw [if_pos hgo]
    exact iff_of_true ⟨d, List.mem_append_right _ (List.mem_singleton_self d), rfl⟩ ((Bool.and_eq_true _ _).mp hgo)
  · rw [if_neg hgo]
    exact iff_of_false hrest fun h => hgo ((Bool.and_eq_true _ _).mpr h)

/-- The copies of a line in slices other than its home's go, as the free bits say, before its home slice is looked at (log 111). -/
def State.dropCopies (s : State) (line : Nat) : State :=
  { s with
    localHome := s.localHome.filter fun x => !(x.line == line && s.clocked x.core && s.someBit (1 + x.core))
    proxy := s.proxy.filter fun p => !(lineOf p.key == line && p.held.isNone && s.clocked p.field && s.someBit (5 + p.field) &&
      !s.proxy.any fun q => q.field == p.field && lineOf q.key == line && q.held.isSome) }

theorem exec_sliceEviction {s : State} {line : Nat} {d : DirtyLine} (hd : s.slices.find? (fun d => d.line == line) = some d)
    (hclock : s.clocked (d.slice / 40) = true) (toVault : Bool) :
    exec (.sliceEviction line toVault) s =
      .next (if s.someBit 9 then s.dropCopies line else (s.dropCopies line).evictDirty d toVault) := by
  have hexec : exec (.sliceEviction line toVault) s = execSliceEviction line toVault s := rfl
  have hbit : (s.dropCopies line).someBit 9 = s.someBit 9 := rfl
  have hfind : (s.dropCopies line).slices.find? (fun d => d.line == line) = some d := hd
  have hrun : (s.dropCopies line).clocked (d.slice / 40) = true := hclock
  rw [hexec]
  unfold execSliceEviction
  extract_lets t
  rw [show t = s.dropCopies line from rfl, hbit]
  split
  · rfl
  · simp only [hfind, hrun, if_true]

/-! ## Atomics -/

theorem exec_atomicApply {s : State} {id : Nat} {r : AtomReq} (hr : s.areqs.find? (fun r => r.id == id) = some r)
    (hmay : s.mayAtom r = true) (hpeer : r.peer = false) (hpath : s.stranded r.leaving r.peer r.src r.dst = false) (haccs : r.accs ≠ [])
    (hwin : ∀ a ∈ r.accs, a.win = none) (hline : s.lineFault [r.line] = none) :
    exec (.atomicApply id) s = .next (s.atomGood r).settleMoved := by
  have hexec : exec (.atomicApply id) s = execAtomicApply id s := rfl
  have hlive : r.accs.filter (fun a => a.win.isNone || s.handleLive a.handle) = r.accs :=
    List.filter_eq_self.mpr fun a ha => by rw [hwin a ha]; rfl
  have hsome : r.accs.isEmpty = false := List.isEmpty_eq_false_iff.mpr haccs
  simp only [hexec, execAtomicApply, hr, hpath, hmay, if_neg (ne_true_of_eq_false hpeer), hlive, hsome, hline, Bool.and_false, Bool.not_true, Bool.false_eq_true, if_false]

theorem exec_atomicReturn {s : State} {id : Nat} {r : AtomReq} (hr : s.areqs.find? (fun r => r.id == id) = some r)
    (hmay : s.mayReturn r = true) :
    exec (.atomicReturn id) s =
      .next (State.atomEnd { s.atomWrite r with areqs := (s.atomWrite r).areqs.filter fun q => q.id != id } r) := by
  have hexec : exec (.atomicReturn id) s = execAtomicReturn id s := rfl
  simp only [hexec, execAtomicReturn, hr, hmay, Bool.not_true, Bool.false_eq_true, if_false]

theorem exec_lossNotice {s : State} {id : Nat} {f : Flight} (hf : s.flights.filter (fun f => f.id == id && f.lost) = [f])
    (hr : s.areqs.filter (fun r => r.id == id && r.lost) = []) :
    exec (.lossNotice id) s = .next (State.breakItem { s with
      flights := s.flights.filter fun f => !(f.id == id && f.lost)
      areqs := s.areqs.filter fun r => !(r.id == id && r.lost) } f.op 2) := by
  have hexec : exec (.lossNotice id) s = execLossNotice id s := rfl
  simp only [hexec, execLossNotice, hf, hr, List.map_cons, List.map_nil, List.append_nil, List.foldl_cons, List.foldl_nil]

/-- Settles O42: each event that is enabled takes its one step; a completed load writes its registers through `loadedWarp`. -/
theorem memoryEvents : Obligations.MemoryEvents := by
  intro s
  refine ⟨?_, ?_, fun id f hf hmay hpath => exec_storeApply hf hmay hpath, fun id f hf hmay => exec_storeAck_flight hf hmay,
    fun id r hf hr hmay => exec_storeAck_red hf hr hmay,
    fun field line => ⟨rfl, rfl, sharersOf_setSharers _ line _, rfl⟩, fun core line x hx hpend => exec_l1Eviction hx hpend, ?_,
    fun id r hr hmay hpeer hpath haccs hwin hline => exec_atomicApply hr hmay hpeer hpath haccs hwin hline,
    fun id r hr hmay => exec_atomicReturn hr hmay, fun id f hf hr => exec_lossNotice hf hr⟩
  · intro w k x op hw hk hop hfirst hahead hbytes
    obtain rfl : x.uid = w := warp?_uid hw
    obtain ⟨t, y, ks, ht, hy, hv, hdone, hmem⟩ := completeLoad_effect hw hop hahead hbytes
    have hrow : ∀ r, y.row r = ((s.roundShadows ks).loadedWarp x op).row r := fun r => by rw [Warp.row, hv, Warp.row]
    refine ⟨t, y, exec_loadComplete hw hk hop hfirst ht, hy, hdone, fun r i h => ?_, fun hs => ⟨hmem hs, ?_⟩⟩
    · rw [hrow]
      exact laneOf_loadedWarp_other hop h
    · intro a n hkind hn hd hi hlive hfind hgood hone
      rw [hrow, roundShadows_of_no_shadows hs]
      exact laneOf_loadedWarp hkind (List.mem_of_find?_eq_some hfind) hgood hone hi hlive hn hd
  · intro w x e rest hw hsq hmay t u
    have hexec : exec (.storeDrain w) s = .next ((s.drainOne w).getD s).settleGone := rfl
    rw [hexec, drainOne_eq hw hsq hmay]
    rfl
  · intro line toVault d hd hclock
    refine ⟨_, exec_sliceEviction hd hclock toVault, ?_⟩
    split
    · exact ⟨rfl, rfl, rfl⟩
    · have hline : d.line = line := by simpa using List.find?_some hd
      rw [← hline, ← cacheable_of_fields (show (s.dropCopies d.line).fields = s.fields from rfl) d]
      exact evictDirty_lines _ d toVault

end Sys2Proof.Machine
end

section
/-! The integer lane families IALU, LOGIC, BITF, ICMP and IMAD (R106 to R110): the machine's word functions are the functions of
exact integers that the rules give, and each instruction writes its function through one shared shape. -/

namespace Sys2Proof.Machine

open Sys2Proof

/-! ## Words and exact integers (R106, R110) -/

theorem ofInt_toInt_add {n : Nat} (x y : BitVec n) : BitVec.ofInt n (x.toInt + y.toInt) = x + y := by
  rw [BitVec.ofInt_add, BitVec.ofInt_toInt, BitVec.ofInt_toInt]

theorem ofInt_toInt_sub {n : Nat} (x y : BitVec n) : BitVec.ofInt n (x.toInt - y.toInt) = x - y :=
  BitVec.eq_of_toInt_eq (by rw [BitVec.toInt_ofInt, BitVec.toInt_sub])

theorem ofInt_toInt_mul {n : Nat} (x y : BitVec n) : BitVec.ofInt n (x.toInt * y.toInt) = x * y := by
  rw [BitVec.ofInt_mul, BitVec.ofInt_toInt, BitVec.ofInt_toInt]

theorem ofInt_toInt_mul_add {n : Nat} (x y z : BitVec n) : BitVec.ofInt n (x.toInt * y.toInt + z.toInt) = x * y + z := by
  rw [BitVec.ofInt_add, ofInt_toInt_mul, BitVec.ofInt_toInt]

/-- The product of two words in 64 bits, as IMULW takes it. -/
theorem ofInt_toInt_mul_wide (x y : Word) : BitVec.ofInt 64 (x.toInt * y.toInt) = x.signExtend 64 * y.signExtend 64 :=
  BitVec.ofInt_mul _ _

theorem highWord_natCast (p : Nat) : highWord p = BitVec.ofNat 32 (p / 4294967296) := BitVec.ofInt_natCast 32 (p / 4294967296)

theorem clampS_32 (i : Int) : clampS 32 i = max (-2147483648) (min i 2147483647) := rfl

/-! ## Counts and bit fields (R107, R108) -/

theorem foldl_count (p : Nat → Bool) (l : List Nat) (k : Nat) :
    l.foldl (fun n i => if p i then n + 1 else n) k = k + (l.filter p).length := by
  induction l generalizing k with
  | nil => rfl
  | cons i l ih =>
    rw [List.foldl_cons, ih, List.filter_cons]
    split
    · rw [List.length_cons, Nat.add_right_comm, Nat.add_assoc]
    · rfl

theorem popcount_eq (y : Word) : popcount y = ((List.range 32).filter fun i => y.getLsbD i).length :=
  (foldl_count _ _ 0).trans (Nat.zero_add _)

theorem fieldStart_eq (y : Word) : fieldStart y = y.toNat % 32 := BitVec.extractLsb'_toNat 0 5 y

/-! ## The shared shapes -/

/-- A lane-wise instruction whose function agrees, word by word, with the one that its rule gives. -/
theorem lane_of_issue_eq {i : Instr} {m : Meta} {k : ImmRow} {b : Opb} {f g : Word → Word → Word → Word}
    (hi : ∀ s, exec i s = issue m s (laneOp k b f)) (hm : m.cls.once = false) (h : ∀ x y z, f x y z = g x y z) :
    LaneResult i m k b g := by
  obtain rfl : f = g := funext fun x => funext fun y => funext (h x y)
  exact lane_of_issue hi hm

theorem lea_of_issue {i : Instr} {m : Meta} {b : Opb} {s s' : State} {j : Job} {y : Row} {f : Dword → Dword → Dword} {k : Dword}
    (hi : exec i s = issue m s (laneLea b f)) (hj : s.judge m = .go s' j) (hm : m.cls.once = false)
    (hy : s'.operand j .int b = .ok y) (hf : ∀ p x, f p x = p + x * k) :
    Completes i s s' j (j.w.setRow64 j.live j.d
      (Vector.ofFn fun n => laneOf64 (j.w.row64 j.a) n + (laneOf y n).signExtend 64 * k)) :=
  lane64_of_issue hi hj hm (by simp only [laneLea, hy, Got.eff, hf])

theorem pair_of_issue {i : Instr} {m : Meta} {b : Opb} {s s' : State} {j : Job} {y : Row64} {f : Dword → Dword → Dword}
    (hi : exec i s = issue m s (laneOp64 b f)) (hj : s.judge m = .go s' j) (hm : m.cls.once = false)
    (hy : s'.operand64 j b = .ok y) :
    Completes i s s' j (j.w.setRow64 j.live j.d (Vector.ofFn fun n => f (laneOf64 (j.w.row64 j.a) n) (laneOf64 y n))) :=
  lane64_of_issue hi hj hm (by simp only [laneOp64, hy, Got.eff])

/-! ## The families -/

/-- Settles O1: the functions of exact integers are the machine's word functions, and IALU writes those lane by lane. -/
theorem integerAluResults : Obligations.IntegerAluResults := fun _ _ _ _ =>
  ⟨lane_of_issue_eq (fun _ => rfl) rfl fun x y _ => (ofInt_toInt_add x y).symm,
    lane_of_issue_eq (fun _ => rfl) rfl fun x y _ => (ofInt_toInt_sub x y).symm,
    lane_of_issue_eq (fun _ => rfl) rfl fun x y _ => (ofInt_toInt_mul x y).symm,
    lane_of_issue (fun _ => rfl) rfl,
    lane_of_issue_eq (fun _ => rfl) rfl fun x y _ => highWord_natCast (x.toNat * y.toNat),
    lane_of_issue (fun _ => rfl) rfl,
    lane_of_issue (fun _ => rfl) rfl,
    lane_of_issue (fun _ => rfl) rfl,
    lane_of_issue (fun _ => rfl) rfl,
    lane_of_issue (fun _ => rfl) rfl,
    lane_of_issue_eq (fun _ => rfl) rfl fun x y _ => congrArg (BitVec.ofInt 32) (clampS_32 (x.toInt + y.toInt)),
    lane_of_issue_eq (fun _ => rfl) rfl fun x y _ => congrArg (BitVec.ofInt 32) (clampS_32 (x.toInt - y.toInt)),
    lane_of_issue (fun _ => rfl) rfl,
    lane_of_issue (fun _ => rfl) rfl,
    lane_of_issue (fun _ => rfl) rfl,
    lane_of_issue_eq (fun _ => rfl) rfl fun x y _ => (ofInt_toInt_sub y x).symm⟩

/-- Settles O2: the counts are brought to the form of the rule, and LOGIC writes its functions lane by lane. -/
theorem logicResults : Obligations.LogicResults := fun _ _ _ _ =>
  ⟨lane_of_issue (fun _ => rfl) rfl, lane_of_issue (fun _ => rfl) rfl, lane_of_issue (fun _ => rfl) rfl,
    lane_of_issue (fun _ => rfl) rfl, lane_of_issue (fun _ => rfl) rfl, lane_of_issue (fun _ => rfl) rfl,
    lane_of_issue (fun _ => rfl) rfl, lane_of_issue (fun _ => rfl) rfl, lane_of_issue (fun _ => rfl) rfl,
    lane_of_issue (fun _ => rfl) rfl, lane_of_issue (fun _ => rfl) rfl,
    lane_of_issue_eq (fun _ => rfl) rfl fun _ y _ => congrArg (BitVec.ofNat 32) (popcount_eq y),
    lane_of_issue (fun _ => rfl) rfl, lane_of_issue (fun _ => rfl) rfl⟩

/-- Settles O3: BITF writes its functions lane by lane, and the count of a funnel shift is the field's start. -/
theorem bitFieldResults : Obligations.BitFieldResults := fun _ _ _ _ =>
  ⟨lane_of_issue (fun _ => rfl) rfl, lane_of_issue (fun _ => rfl) rfl, lane_of_issue (fun _ => rfl) rfl,
    lane_of_issue (fun _ => rfl) rfl,
    lane_of_issue_eq (fun _ => rfl) rfl fun x y z => by rw [fshl, hiWord, fieldStart_eq],
    lane_of_issue_eq (fun _ => rfl) rfl fun x y z => by rw [fshr, loWord, fieldStart_eq]⟩

/-- Settles O4: each condition goes through the shape that all compares share. -/
theorem compareResults : Obligations.CompareResults := fun _ _ _ _ _ =>
  ⟨compare_of_issue (fun _ => rfl) rfl, compare_of_issue (fun _ => rfl) rfl, compare_of_issue (fun _ => rfl) rfl,
    compare_of_issue (fun _ => rfl) rfl, compare_of_issue (fun _ => rfl) rfl, compare_of_issue (fun _ => rfl) rfl,
    compare_of_issue (fun _ => rfl) rfl, compare_of_issue (fun _ => rfl) rfl, compare_of_issue (fun _ => rfl) rfl,
    compare_of_issue (fun _ => rfl) rfl⟩

/-- Settles O5: the words of IMAC and IMAD are those of exact integers, and the pairs are written by one shape for each operand. -/
theorem multiplyAddResults : Obligations.MultiplyAddResults := by
  intro sc d a b
  refine ⟨lane_of_issue_eq (fun _ => rfl) rfl fun x y z => (ofInt_toInt_mul_add x y z).symm,
    lane_of_issue_eq (fun _ => rfl) rfl fun x y z => (ofInt_toInt_mul_add z x y).symm,
    fun s s' j y hj hy => ⟨?_, ?_, ?_, ?_, ?_⟩, fun s s' j y hj hy => ⟨?_, ?_⟩, fun s s' j y hj hy => ?_⟩
  · exact lea_of_issue rfl hj rfl hy fun p x => congrArg (p + ·) (BitVec.mul_one x).symm
  · exact lea_of_issue rfl hj rfl hy fun _ _ => rfl
  · exact lea_of_issue rfl hj rfl hy fun _ _ => rfl
  · exact lea_of_issue rfl hj rfl hy fun _ _ => rfl
  · exact lea_of_issue rfl hj rfl hy fun _ _ => rfl
  · exact pair_of_issue rfl hj rfl hy
  · exact pair_of_issue rfl hj rfl hy
  · exact lane64_of_issue rfl hj rfl (by simp only [hy, Got.eff, ofInt_toInt_mul_wide])

end Sys2Proof.Machine
end

section
/-! Moves, selects and predicates (R111, R112), and NOP, YIELD and EXIT (R117, R121). -/

namespace Sys2Proof.Machine

open Sys2Proof

/-! ## The predicates of a lane as a number (R112) -/

/-- The powers of two below 2^n that a lane's bits name sum to less than 2^n. -/
theorem sum_two_pow_lt (f : Nat → Bool) (n : Nat) : (((List.range n).filter f).map fun k => 2 ^ k).sum < 2 ^ n := by
  induction n with
  | zero => simp
  | succ n ih =>
    rw [List.range_succ, List.filter_append, List.map_append, List.sum_append, Nat.pow_succ]
    cases hf : f n with
    | false => simp [hf]; omega
    | true => simp [hf]; omega

/-- Setting the named bits one after another gives their sum, for each bit lies above the bits set before it. -/
theorem foldl_or_two_pow (f : Nat → Bool) (n : Nat) :
    (List.range n).foldl (fun x k => if f k then x ||| BitVec.ofNat 32 (2 ^ k) else x) 0 =
      BitVec.ofNat 32 (((List.range n).filter f).map fun k => 2 ^ k).sum := by
  induction n with
  | zero => rfl
  | succ n ih =>
    rw [List.range_succ, List.foldl_append, ih, List.filter_append, List.map_append, List.sum_append]
    cases hf : f n with
    | false => simp [hf]
    | true =>
      have hor := Nat.two_pow_add_eq_or_of_lt (sum_two_pow_lt f n) 1
      rw [Nat.mul_one] at hor
      simp only [List.foldl_cons, List.foldl_nil, List.filter_cons, List.filter_nil, hf, if_true, List.map_cons, List.map_nil,
        List.sum_cons, List.sum_nil, Nat.add_zero]
      rw [← BitVec.ofNat_or, Nat.or_comm, ← hor, Nat.add_comm]

theorem predByte_eq (w : Warp) (i : Nat) :
    predByte w i = BitVec.ofNat 32 (((List.range 8).filter fun k => (w.pred k).getLsbD i).map fun k => 2 ^ k).sum :=
  foldl_or_two_pow _ 8

/-! ## Writes of predicates -/

/-- Writing predicates one after another keeps the warp's number and its splits. -/
theorem foldl_setPred_uid_split (live : LaneMask) (x : Nat → LaneMask) (l : List Nat) (w : Warp) :
    (l.foldl (fun w q => w.setPred live q (x q)) w).uid = w.uid ∧
      ∀ k, (l.foldl (fun w q => w.setPred live q (x q)) w).split? k = w.split? k := by
  induction l generalizing w with
  | nil => exact ⟨rfl, fun _ => rfl⟩
  | cons q l ih =>
    obtain ⟨hu, hs⟩ := ih (w.setPred live q (x q))
    exact ⟨hu.trans (setPred_uid _ _ _ _), fun k => (hs k).trans (setPred_split _ _ _ _ _)⟩

/-- An instruction that writes one predicate of its warp completes. -/
theorem pred_of_issue {i : Instr} {m : Meta} {s s' : State} {j : Job} {body : State → Job → Eff} {q : Nat} {x : LaneMask}
    (hi : exec i s = issue m s body) (hj : s.judge m = .go s' j) (hm : m.cls.once = false)
    (hb : body s' j = .next (s'.put j fun w => w.setPred j.live q x)) : Completes i s s' j (j.w.setPred j.live q x) :=
  completes_of_put (fun w => w.setPred j.live q x) hi hj hb hm (fun _ => setPred_uid _ _ _ _)
    fun _ _ => by rw [setPred_split]

/-- An instruction that writes one v register of its warp completes. -/
theorem row_of_issue {i : Instr} {m : Meta} {s s' : State} {j : Job} {body : State → Job → Eff} {x : Row}
    (hi : exec i s = issue m s body) (hj : s.judge m = .go s' j) (hm : m.cls.once = false)
    (hb : body s' j = .next (s'.putRow j x)) : Completes i s s' j (j.w.setRow j.live j.d x) :=
  completes_of_put (fun w => w.setRow j.live j.d x) hi hj hb hm (fun _ => rfl) fun _ _ => rfl

/-- Settles O6: each instruction is one write of its warp, and V2P seven. -/
theorem moveResults : Obligations.MoveResults := by
  intro sc d a p q b
  refine ⟨lane_of_issue (fun _ => rfl) rfl, fun s s' j y hj hy => ?_, fun s s' j hj => ⟨?_, ?_, ?_⟩, fun s s' j hj => ?_,
    fun s s' j hj => ?_, fun s s' j hj => ?_⟩
  · exact row_of_issue rfl hj rfl (by simp only [hy, Got.eff])
  · exact pred_of_issue rfl hj rfl rfl
  · exact pred_of_issue rfl hj rfl rfl
  · exact pred_of_issue rfl hj rfl rfl
  · exact pred_of_issue rfl hj rfl rfl
  · exact row_of_issue rfl hj rfl (by simp only [predByte_eq])
  · have hkeep := foldl_setPred_uid_split j.live (fun k => maskOf fun n => (laneOf (j.w.row j.a) n).getLsbD k) [1, 2, 3, 4, 5, 6, 7]
    exact completes_of_put (fun w => [1, 2, 3, 4, 5, 6, 7].foldl _ w) rfl hj rfl rfl (fun w => (hkeep w).1)
      fun w k => congrArg _ ((hkeep w).2 k)

/-! ## NOP, YIELD and EXIT -/

/-- An instruction whose effect is to do nothing completes with its warp as it was. -/
theorem idle_of_issue {i : Instr} {m : Meta} {s s' : State} {j : Job} {body : State → Job → Eff}
    (hi : exec i s = issue m s body) (hj : s.judge m = .go s' j) (hm : m.cls.once = false) (hb : body s' j = .next s') :
    Completes i s s' j j.w :=
  completes_of_put (fun w => w) hi hj (by rw [hb, put_id]) hm (fun _ => rfl) fun _ _ => rfl

/-- Settles O27: NOP and YIELD do nothing before their group ends, and EXIT ends its lanes in place of it. -/
theorem nopYieldExit : Obligations.NopYieldExit := fun _ _ _ _ =>
  ⟨fun hj => idle_of_issue rfl hj rfl rfl, fun hj => idle_of_issue rfl hj rfl rfl, fun hj => Eq.trans (concluded rfl hj) rfl⟩

end Sys2Proof.Machine
end

section
/-! The scalar families SALU and SCMP (R113, R114) and the special registers (R122 to R124). -/

namespace Sys2Proof.Machine

open Sys2Proof

/-! ## Writes of s pairs -/

theorem setS64_uid (w : Warp) (r : Nat) (x : Dword) : (w.setS64 r x).uid = w.uid := by rw [Warp.setS64, setS_uid, setS_uid]

theorem setS64_split (w : Warp) (r : Nat) (x : Dword) (k : Nat) : (w.setS64 r x).split? k = w.split? k := by
  rw [Warp.setS64, setS_split, setS_split]

theorem scalar64_of_issue {i : Instr} {m : Meta} {s s' : State} {j : Job} {body : State → Job → Eff} {d : Nat} {x : Dword}
    (hi : exec i s = issue m s body) (hj : s.judge m = .go s' j) (hm : m.cls.once = false)
    (hb : body s' j = .next (s'.put j fun w => w.setS64 d x)) : Completes i s s' j (j.w.setS64 d x) :=
  completes_of_put (fun w => w.setS64 d x) hi hj hb hm (fun _ => setS64_uid _ _ _) fun _ _ => by rw [setS64_split]

/-- Settles O12: the words go through the shape that SALU shares, the pairs through one write of a pair. -/
theorem scalarResults : Obligations.ScalarResults := fun _ _ _ _ =>
  ⟨scalar_of_issue (fun _ => rfl) rfl, scalar_of_issue (fun _ => rfl) rfl, scalar_of_issue (fun _ => rfl) rfl,
    scalar_of_issue (fun _ => rfl) rfl, scalar_of_issue (fun _ => rfl) rfl, scalar_of_issue (fun _ => rfl) rfl,
    scalar_of_issue (fun _ => rfl) rfl, scalar_of_issue (fun _ => rfl) rfl, scalar_of_issue (fun _ => rfl) rfl,
    scalar_of_issue (fun _ => rfl) rfl, scalar_of_issue (fun _ => rfl) rfl, scalar_of_issue (fun _ => rfl) rfl,
    scalar_of_issue (fun _ => rfl) rfl, scalar_of_issue (fun _ => rfl) rfl,
    fun _ _ _ _ hj hy => scalar64_of_issue rfl hj rfl (by simp only [hy, Got.eff]),
    fun _ _ _ _ hj hy => scalar64_of_issue rfl hj rfl (by simp only [hy, Got.eff])⟩

/-! ## SCMP -/

theorem scalarCombine_of_issue {i : Instr} {m : Meta} {s s' : State} {j : Job} {a : Reg} {b : Opb} {q : BitVec 3} {comb : BitVec 2}
    {c : Word → Word → Bool} {y : Word} (hi : exec i s = issue m s (scalarCmp a b q comb c)) (hj : s.judge m = .go s' j)
    (hm : m.cls.once = false) (hy : s'.uniform j .int b = .ok y) :
    Completes i s s' j (j.w.combine j.live q.toNat comb fun _ => c (j.w.sreg a.toNat) y) :=
  completes_of_put (fun w => w.combine j.live q.toNat comb fun _ => c (j.w.sreg a.toNat) y) hi hj
    (by simp only [scalarCmp, hy, Got.eff]) hm (fun _ => setPred_uid _ _ _ _) fun _ _ => by rw [Warp.combine, setPred_split]

/-- A scalar R-format word refuses every hint but XIMM and XSCHED (R43). -/
theorem scalarMeta_refusesHint (sc : Scope) (b : Opb) (h : Hint) :
    (scalarMeta sc b).refusesHint h = true ↔ h.kind ≠ 0 ∧ h.kind ≠ 3 := by
  obtain ⟨kind, payload, addr⟩ := h
  match kind with
  | 0 | 1 | 2 | 3 | n + 4 => simp [Meta.refusesHint, scalarMeta]

/-- A hint word alone repeats no kind: the group is orphaned by it where it is refused, or by b = 62 where it is no XIMM (R42). -/
theorem orphan_single (m : Meta) (h : Hint) (addr : Dword) :
    m.orphan [h] addr = if m.refusesHint h then some h.addr
      else if m.opb.any Opb.isXimm && decide (h.kind ≠ 0) then some addr else none := by
  have hrep : repeated [] [h] = [] := rfl
  cases href : m.refusesHint h with
  | true => simp [Meta.orphan, hrep, href, sortBy, insertBy]
  | false => by_cases hk : h.kind = 0 <;> simp [Meta.orphan, hrep, href, sortBy, hintOf, hk]

theorem orphan_nil (m : Meta) (addr : Dword) : m.orphan [] addr = if m.opb.any Opb.isXimm then some addr else none := by
  simp [Meta.orphan, repeated, sortBy, hintOf]

/-- Past the scope checks a scalar word is orphaned, or cut off from its literal, or names a v register or a reserved field; it
has no v register that could lie beyond the allocation, and no payload that it refuses (R47, R113). -/
theorem scalar_decodeCause {sc : Scope} {b : Opb} {s : State} {w : Warp} {hs : List Hint} {addr : Dword}
    (hok : Cls.scopeOk .scalar sc = true) (hmode : (gathers sc && w.mode == .handler) = false)
    (hset : (sc == .set && s.setsOf w == 0) = false) :
    (∀ a, (scalarMeta sc b).orphan hs addr = some a → (scalarMeta sc b).decodeCause s w hs addr = some (3, a)) ∧
    ((scalarMeta sc b).orphan hs addr = none → (b.isLit = true → addr.toNat % 64 ≠ 0x3C) →
      (b.isV = true → (scalarMeta sc b).decodeCause s w hs addr = some (1, addr)) ∧
      (b.isV = false → b.isResv = false → (scalarMeta sc b).decodeCause s w hs addr = none)) := by
  have nscope := mt (scopeCause_iff (scalarMeta sc b) s w).mpr (ne_true_of_eq_false (by simp only [scalarMeta, hok, hmode, hset]; rfl))
  have npriv : ¬((scalarMeta sc b).privileged = true ∧ w.mode ≠ .handler) := fun h => Bool.false_ne_true h.1
  have nabsent : ¬((scalarMeta sc b).rasterOnly = true ∧ s.variant = .lk2080n) := fun h => Bool.false_ne_true h.1
  obtain ⟨-, -, -, horphan, hclear⟩ := (decodeCauses (scalarMeta sc b) s w).1 hs addr
  refine ⟨horphan nscope npriv nabsent, fun hnone hlit => ?_⟩
  obtain ⟨-, hoperand, -, hpass⟩ := hclear nscope npriv nabsent hnone
  have nboundary : ¬(b.isLit = true ∧ addr.toNat % 64 = 0x3C) := fun h => hlit h.1 h.2
  refine ⟨fun hv => hoperand nboundary (.inl hv), fun hv hresv => hpass nboundary ?_ ?_⟩
  · rintro (h | h | ⟨p, -, h⟩)
    · exact ne_true_of_eq_false hv h
    · exact ne_true_of_eq_false hresv h
    · exact Bool.false_ne_true h
  · rintro ⟨r, n, k, h | h | h, hn, -⟩ <;> cases h <;> exact hn rfl

/-- Settles O13: the ten conditions share one shape, and the hints of a scalar word decide its cause. -/
theorem scalarCompares : Obligations.ScalarCompares := by
  intro sc p comb a b
  refine ⟨fun s s' j y hj hy => ?_, fun s w h addr hok hmode hset => ⟨fun hkind => ?_, fun hkind hximm hv hresv hlit => ?_, fun hv => ?_⟩⟩
  · intro into
    have hinto : ∀ c, into c = j.w.combine j.live p.toNat comb fun _ => c (j.w.sreg a.toNat) y := fun c => by
      simp only [into, Warp.combine, combined_eq]
    clear_value into
    have completes : ∀ {i : Instr} {c : Word → Word → Bool}, exec i s = issue (scalarMeta sc b) s (scalarCmp a b p comb c) →
        Completes i s s' j (into c) := fun hi => by
      rw [hinto]
      exact scalarCombine_of_issue hi hj rfl hy
    exact ⟨completes rfl, completes rfl, completes rfl, completes rfl, completes rfl, completes rfl, completes rfl, completes rfl,
      completes rfl, completes rfl⟩
  · have href : (scalarMeta sc b).refusesHint h = true := (scalarMeta_refusesHint sc b h).mpr (by omega)
    exact (scalar_decodeCause hok hmode hset).1 h.addr (by rw [orphan_single, if_pos href])
  · have href : ¬(scalarMeta sc b).refusesHint h = true := fun hr => by
      have := (scalarMeta_refusesHint sc b h).mp hr
      omega
    have hgiven : ¬(b.isXimm && decide (h.kind ≠ 0)) = true := fun hx => by
      obtain ⟨hb, hne⟩ := (Bool.and_eq_true _ _).mp hx
      exact of_decide_eq_true hne (hximm hb)
    exact ((scalar_decodeCause hok hmode hset).2 (by rw [orphan_single, if_neg href]; exact if_neg hgiven) hlit).2 hv hresv
  · obtain ⟨r, rfl⟩ : ∃ r, b = .v r := by
      cases b with
      | v r => exact ⟨r, rfl⟩
      | _ => cases hv
    exact ((scalar_decodeCause (b := .v r) hok hmode hset).2 (orphan_nil _ addr) fun h => absurd h Bool.false_ne_true).1 hv

/-! ## Special registers -/

/-- An instruction that changes its warp alone, in a machine that differs from the judged one beyond its warps, passes its group. -/
theorem onlyWarp_finish_put {q : State} {j : Job} {m : Meta} (g : Warp → Warp) (hw : q.warp? j.w.uid = some j.w)
    (hm : m.cls.once = false) (hg : ∀ w, (g w).uid = w.uid) (hs : ∀ w k, (g w).split? k = w.split? k) :
    OnlyWarp q ((q.put j g).finish m j) j (g j.w) := by
  have hp : (q.put j g).warp? j.w.uid = some (g j.w) := by
    rw [State.put, warp?_modWarp _ _ _ _ hg, if_pos rfl, hw, Option.map_some]
  obtain ⟨hrest, hseen, hpc⟩ := finish_effect (q.put j g) m j (g j.w) hm hp
  refine ⟨hrest, fun u hu => (hseen u).trans ?_, (hseen _).trans ?_, ?_⟩
  · simp only [State.seen, State.put, warp?_modWarp _ _ _ _ hg, if_neg hu]
  · rw [State.seen, hp, Option.map_some]
  · rw [Passed, hpc, hs]

theorem tick_warp? (s : State) (core u : Nat) : (s.tick core).warp? u = s.warp? u := rfl

theorem sregWide_iff (n : Nat) : sregWide n = true ↔ n = 17 ∨ n = 32 ∨ n = 49 ∨ n = 50 := by
  simp [sregWide, or_assoc]

/-- What SREAD of register n makes of its warp, from the machine in which it reads: s[d] or v[d], a word or a pair (R122, R123). -/
def State.sreadInto (q : State) (j : Job) (d : Reg) (toS : Bool) (n : Nat) (w : Warp) : Warp :=
  if toS then
    if sregWide n then w.setS64 d.toNat (q.sregWarp j n) else w.setS d.toNat (loWord (q.sregWarp j n))
  else if sregWide n then w.setRow64 j.live j.d (Vector.ofFn fun i => q.sregLane j n i)
  else w.setRow j.live j.d (rowOf fun i => loWord (q.sregLane j n i))

theorem sreadInto_uid (q : State) (j : Job) (d : Reg) (toS : Bool) (n : Nat) (w : Warp) : (q.sreadInto j d toS n w).uid = w.uid := by
  unfold State.sreadInto
  split
  · split
    · exact setS64_uid _ _ _
    · exact setS_uid _ _ _
  · split <;> rfl

theorem sreadInto_split (q : State) (j : Job) (d : Reg) (toS : Bool) (n : Nat) (w : Warp) (k : Nat) :
    (q.sreadInto j d toS n w).split? k = w.split? k := by
  unfold State.sreadInto
  split
  · split
    · exact setS64_split _ _ _ _
    · exact setS_split _ _ _ _
  · split <;> rfl

/-- SREAD ends its group in the machine that it reads, which is the judged one but for the cycles that a read of CYCLES lets pass. -/
theorem ends_sread {sc : Scope} {d : Reg} {toS : Bool} {num : BitVec 6} {s s' q : State} {j : Job}
    (hj : s.judge (sreadMeta sc d toS num) = .go s' j) (hq : (if num.toNat = 32 then s'.tick j.w.core else s') = q) :
    Ends (.sread sc d toS num) (sreadMeta sc d toS num) s j (q.put j (q.sreadInto j d toS num.toNat)) := by
  refine ends_of rfl hj ?_
  subst hq
  unfold State.sreadInto
  cases toS <;> cases sregWide num.toNat <;> rfl

/-- Settles O37: SREAD is one write of its warp in the machine that it reads, and SWRITE one write of a special register. -/
theorem specialRegisters : Obligations.SpecialRegisters := by
  refine ⟨fun sc d toS num s s' j hj => ?_, fun sc a num s s' j hj => ⟨?_, ?_⟩⟩
  · intro n wide w
    have hw : ∀ q : State, w q = q.sreadInto j d toS n j.w := fun q => by simp only [w, wide, State.sreadInto, sregWide_iff]
    have passes : ∀ q : State, q.warp? j.w.uid = some j.w →
        OnlyWarp q ((q.put j (q.sreadInto j d toS n)).finish (sreadMeta sc d toS num) j) j (w q) := fun q hq => by
      rw [hw]
      exact onlyWarp_finish_put _ hq rfl (sreadInto_uid q j d toS n) (sreadInto_split q j d toS n)
    exact ⟨fun hn => ⟨_, ends_sread hj (if_neg hn), passes s' (judge_warp hj)⟩,
      fun hn => ⟨_, ends_sread hj (if_pos hn), passes _ ((tick_warp? s' j.w.core j.w.uid).trans (judge_warp hj))⟩⟩
  · rintro rfl
    exact completes_of_put (fun w => { w with mask := j.w.sreg a.toNat }) rfl hj (if_pos rfl) rfl (fun _ => rfl) fun _ _ => rfl
  · rintro rfl
    exact completes_of_put (fun w => { w with fpc := j.w.sreg64 a.toNat, fpcWritten := true }) rfl hj (if_neg (by decide)) rfl
      (fun _ => rfl) fun _ _ => rfl

end Sys2Proof.Machine
end

section
/-! A warp at its start (R102, R304) and the registers that GROW adds (R102, R175). -/

namespace Sys2Proof.Machine

open Sys2Proof

/-! ## The registers of a new warp -/

/-- A file that holds one value reads it at every number, given that a number beyond the file reads it too. -/
theorem getD_ofFn_const {α : Type} {n : Nat} (x : α) (i : Nat) : ((Vector.ofFn fun _ : Fin n => x)[i]?).getD x = x := by
  rw [Vector.getElem?_ofFn]
  split <;> rfl

section
variable {uid block core slot wid alloc : Nat} {pc : Dword} {f : Vector Word 64} {logid : Row}

theorem row_newWarp (r : Nat) : (newWarp uid block core slot wid alloc pc f logid).row r = splat 0 := getD_ofFn_const _ r

theorem pred_newWarp {q : Nat} (hq : q ≠ 0) : (newWarp uid block core slot wid alloc pc f logid).pred q = 0 :=
  (pred_of_ne_zero _ hq).trans (getD_ofFn_const 0 q)

theorem rstack_newWarp (i : Nat) : ((newWarp uid block core slot wid alloc pc f logid).rstack[i]?).getD [] = [] := getD_ofFn_const [] i

/-- A new warp is not in handler mode: its s registers are those of its file. -/
theorem sreg_newWarp (r : Nat) : (newWarp uid block core slot wid alloc pc f logid).sreg r = (f[r]?).getD 0 :=
  sreg_unbanked fun h => nomatch h.1

end

/-- The scalars above s4 are 0 at the start (R304). -/
theorem startScalars_high (args : Dword) (bid grid wid : Nat) {r : Nat} (hr : 5 ≤ r) :
    ((startScalars args bid grid wid)[r]?).getD 0 = 0 := by
  have hne : ∀ k, k < 5 → k ≠ r := fun k hk => by omega
  rw [startScalars, Vector.getElem?_setIfInBounds_ne (hne 4 (by decide)), Vector.getElem?_setIfInBounds_ne (hne 3 (by decide)),
    Vector.getElem?_setIfInBounds_ne (hne 2 (by decide)), Vector.getElem?_setIfInBounds_ne (hne 1 (by decide)),
    Vector.getElem?_setIfInBounds_ne (hne 0 (by decide)), getD_ofFn_const]

/-! ## The registers that GROW adds -/

theorem row_setAlloc (w : Warp) (n : Nat) {r : Nat} (hr : r < 128) :
    (w.setAlloc n).row r = if w.alloc ≤ r ∧ r < n then splat 0 else w.row r := by
  have hv : (w.setAlloc n).v = Vector.ofFn fun i => if w.alloc ≤ i.val ∧ i.val < n then splat 0 else w.v[i] := rfl
  rw [Warp.row, hv, Vector.getElem?_ofFn, dif_pos hr, Option.getD_some, Warp.row, Vector.getElem?_eq_getElem hr, Option.getD_some]
  rfl

/-- Settles O60: the files of a new warp are constant but for its five scalars, and GROW clears what it adds, even what it took away. -/
theorem warpStart : Obligations.WarpStart := by
  refine ⟨fun _ _ _ _ => rfl, fun uid block core slot wid alloc bid grid pc args logid => ?_, fun w n k r hr => ⟨?_, ?_, ?_⟩⟩
  · refine ⟨row_newWarp, fun q hq => pred_newWarp (Nat.ne_of_gt hq), rstack_newWarp, rfl, rfl, rfl, rfl, rfl, rfl, fun r hr => ?_⟩
    rw [sreg_newWarp, startScalars_high args bid grid wid hr]
  · exact fun hlo hhi => by rw [row_setAlloc w n hr, if_pos ⟨hlo, hhi⟩]
  · exact fun hlt => by rw [row_setAlloc w n hr, if_neg fun h => Nat.not_le_of_lt hlt h.1]
  · exact fun hlo hhi => by rw [row_setAlloc (w.setAlloc k) n hr, if_pos ⟨hlo, hhi⟩]

end Sys2Proof.Machine
end

section
/-! The float families FALU and SFU, FCMP, PK16, DOT and CVT (R148 to R155) and the block conversions (R156 to R158): where no live
lane raises an enabled exception, each instruction is one write of its warp. -/

namespace Sys2Proof.Machine

open Sys2Proof

/-- A computation that raises no enabled exception goes on with its effect (R147). -/
theorem match_floatTrap {j : Job} {fx : Nat → Fx} (h : ∀ n ∈ lanesOf j.live, fx n &&& j.ctx.fpxen = 0) (e : Eff) :
    (match j.floatTrap fx with
      | some t => .trap t
      | none => e) = e := by
  rw [floatTrap_none h]

/-! ## The families of one shape -/

/-- Settles O8: each instruction goes through the shape that all floats share; `absBits`, `negBits` and `copySign` raise nothing. -/
theorem floatAluResults : Obligations.FloatAluResults := fun _ _ _ _ =>
  ⟨float_of_issue (fun _ => rfl) rfl, float_of_issue (fun _ => rfl) rfl, float_of_issue (fun _ => rfl) rfl,
    float_of_issue (fun _ => rfl) rfl, float_of_issue (fun _ => rfl) rfl, float_of_issue (fun _ => rfl) rfl,
    float_of_issue (fun _ => rfl) rfl, float_of_issue (fun _ => rfl) rfl, float_of_issue (fun _ => rfl) rfl,
    float_of_issue (fun _ => rfl) rfl, float_of_issue (fun _ => rfl) rfl, float_of_issue (fun _ => rfl) rfl,
    float_of_issue (fun _ => rfl) rfl, float_of_issue (fun _ => rfl) rfl, float_of_issue (fun _ => rfl) rfl,
    float_of_issue (fun _ => rfl) rfl, float_of_issue (fun _ => rfl) rfl, float_of_issue (fun _ => rfl) rfl,
    float_of_issue (fun _ => rfl) rfl, float_of_issue (fun _ => rfl) rfl, float_of_issue (fun _ => rfl) rfl,
    float_of_issue (fun _ => rfl) rfl, float_of_issue (fun _ => rfl) rfl, float_of_issue (fun _ => rfl) rfl⟩

/-- Settles O9: each condition goes through the shape that all float compares share. -/
theorem floatCompareResults : Obligations.FloatCompareResults := fun _ _ _ _ _ =>
  ⟨floatCompare_of_issue (fun _ => rfl) rfl, floatCompare_of_issue (fun _ => rfl) rfl, floatCompare_of_issue (fun _ => rfl) rfl,
    floatCompare_of_issue (fun _ => rfl) rfl, floatCompare_of_issue (fun _ => rfl) rfl, floatCompare_of_issue (fun _ => rfl) rfl,
    floatCompare_of_issue (fun _ => rfl) rfl, floatCompare_of_issue (fun _ => rfl) rfl⟩

/-- Settles O10: packed halves and dot products are float functions of whole words, and go through the same shape. -/
theorem packedAndDotResults : Obligations.PackedAndDotResults := fun _ _ _ _ =>
  ⟨float_of_issue (fun _ => rfl) rfl, float_of_issue (fun _ => rfl) rfl, float_of_issue (fun _ => rfl) rfl,
    float_of_issue (fun _ => rfl) rfl, float_of_issue (fun _ => rfl) rfl, float_of_issue (fun _ => rfl) rfl,
    float_of_issue (fun _ => rfl) rfl, float_of_issue (fun _ => rfl) rfl, float_of_issue (fun _ => rfl) rfl,
    float_of_issue (fun _ => rfl) rfl, float_of_issue (fun _ => rfl) rfl, float_of_issue (fun _ => rfl) rfl,
    float_of_issue (fun _ => rfl) rfl, float_of_issue (fun _ => rfl) rfl, float_of_issue (fun _ => rfl) rfl,
    float_of_issue (fun _ => rfl) rfl, float_of_issue (fun _ => rfl) rfl, float_of_issue (fun _ => rfl) rfl,
    float_of_issue (fun _ => rfl) rfl⟩

/-! ## CVT -/

/-- Settles O11: the result of the code is a pair or a word, and CVT writes it in one go. -/
theorem convertResults : Obligations.ConvertResults := by
  intro sc d a code sat rnd s s' j c nd na r hj hfx
  by_cases hwide : cvtWideResult c = true
  · rw [if_pos hwide]
    exact lane64_of_issue rfl hj rfl ((match_floatTrap hfx _).trans (if_pos hwide))
  · rw [if_neg hwide]
    exact row_of_issue rfl hj rfl ((match_floatTrap hfx _).trans (if_neg hwide))

/-! ## QSM, QPACK and QUNPK -/

/-- Writing v registers one after another keeps the warp's number and its splits. -/
theorem foldl_setRow_uid_split (live : LaneMask) (d : Nat) (x : Nat → Row) (l : List Nat) (w : Warp) :
    (l.foldl (fun w k => w.setRow live (d + k) (x k)) w).uid = w.uid ∧
      ∀ n, (l.foldl (fun w k => w.setRow live (d + k) (x k)) w).split? n = w.split? n := by
  induction l generalizing w with
  | nil => exact ⟨rfl, fun _ => rfl⟩
  | cons k l ih => exact ih (w.setRow live (d + k) (x k))

/-- The scratchpad of a block, a v register and a class of operations are no bytes of memory (R156). -/
theorem countTaken_putRow_mem (s : State) (j : Job) (x : Row) : ((s.putRow j x).countTaken j).mem = s.mem := rfl

/-- Settles O31: QSM ends in the machine that its lanes leave behind, and QPACK and QUNPK are writes of v registers. -/
theorem blockConversions : Obligations.BlockConversions := by
  intro sc d a b s s' j ys
  refine ⟨fun hj => ⟨fun hlive => ?_, fun us hlive hfull hy => ?_⟩, fun hj us hy hcheck => ?_, fun hj us hy hcheck => ?_⟩
  · exact ends_of rfl hj (if_pos hlive)
  · intro src dst hcheck run res hfx t
    refine ⟨ends_of rfl hj ?_, (countTaken_putRow_mem _ _ _).trans (modBlock_mem _ _ _)⟩
    simp only [if_neg hlive, hfull, hy, Bool.false_eq_true, if_false, Got.eff]
    rw [hcheck]
    exact match_floatTrap hfx _
  · intro r hfx
    refine row_of_issue rfl hj rfl ?_
    simp only [hy, hcheck, Got.eff]
    exact match_floatTrap hfx _
  · intro r hfx
    have hkeep := foldl_setRow_uid_split j.live j.d (fun k => rowOf fun i => (r k i).1) [0, 1, 2, 3]
    refine completes_of_put (fun w => [0, 1, 2, 3].foldl _ w) rfl hj ?_ rfl (fun w => (hkeep w).1) fun w k => congrArg _ ((hkeep w).2 k)
    simp only [hy, hcheck, Got.eff]
    exact match_floatTrap hfx _

end Sys2Proof.Machine
end

section
/-! The threads that move between lanes (R182, R364, R365) and the population (R367, R370, R379). -/

namespace Sys2Proof.Machine

open Sys2Proof

/-! ## Operands and reads that are there -/

theorem eff_ok {α : Type} (x : α) (k : α → Eff) : (Got.ok x).eff k = k x := rfl

theorem bind_ok {α β : Type} (x : α) (k : α → Got β) : (Got.ok x).bind k = k x := rfl

/-! ## REFORM, REFILL, RSMPL and PSTAT -/

/-- Members that hold as many registers as the issuing warp leave none with another number (R364). -/
theorem any_alloc_ne_eq_false {j : Job} (h : ∀ w ∈ j.members, w.alloc = j.w.alloc) :
    (j.members.any fun w => w.alloc != j.w.alloc) = false :=
  List.any_eq_false.mpr fun w hw => by simp [h w hw]

/-- An arrival at RSMPL starts the gathering of a population that runs (R367). -/
theorem populationArrives_rsmpl (s : State) (launch : Nat) :
    s.populationArrives .rsmpl launch = s.modPop launch fun p => if p.state = .running then { p with state := .gathering } else p := rfl

/-- Settles O36: REFORM and REFILL pass their own checks once their members are quiet, RSMPL blocks, and PSTAT is one write of an
s register. -/
theorem threadMoves : Obligations.ThreadMoves := by
  intro sc d a b s s' j
  refine ⟨fun hj hsame hroom hquiet hbank => ?_, fun hj u qd ps hdesc hring hquiet => ?_, fun hj hkind y hy => ?_, fun hj => ?_⟩
  · refine (concluded rfl hj).trans ?_
    simp only [any_alloc_ne_eq_false hsame, hroom, hquiet, Bool.not_true, Bool.false_or, Bool.false_eq_true, if_false]
    -- what is left to pass is the queue at the block's banks
    rw [if_neg]
    · rfl
    · cases hblock : s'.block? j.block.uid with
      | none => exact Bool.false_ne_true
      | some x => exact Bool.eq_false_iff.mp (hbank x hblock)
  · refine ends_of rfl hj ?_
    simp only [hdesc, hring, hquiet, eff_ok, Bool.not_true, Bool.false_eq_true, if_false]
  · refine (concluded rfl hj).trans ?_
    simp only [hkind, hy, eff_ok, ne_eq, not_true_eq_false, if_false, populationArrives_rsmpl]
  · exact completes_of_put (fun w => w.setS d.toNat _) rfl hj rfl rfl (fun _ => setS_uid _ _ _) fun _ _ => by rw [setS_split]

end Sys2Proof.Machine
end

section
/-! The words of the kernel: GROW (R174, R175), FORK (R307, R308), JOIN (R310) and the regions (R312). -/

namespace Sys2Proof.Machine

open Sys2Proof

/-! ## The reads of an instruction (R210, R226) -/

/-- Once no load of the warp is pending and no acquire holds it, an instruction's reads begin with no fault. -/
theorem readsOf_settled {s : State} {j : Job} {w : Warp} (hw : (s.settleAll j.w.uid 256).warp? j.w.uid = some w)
    (hloads : w.loads.any LoadOp.pendingMem = false) (hacq : w.acquiring w.seq = false) (go : Reader → Eff) :
    s.readsOf j go = go { s := s.settleAll j.w.uid 256, faults := [] } := by
  simp only [State.readsOf, hw, hloads, hacq, Bool.or_self, Bool.false_eq_true, if_false]

theorem lost_of_no_faults {r : Reader} (h : r.faults = []) : r.lost = none := by
  rw [Reader.lost, h]; rfl

/-! ## GROW, FORK, JOIN, NPRE and NPREX -/

/-- Settles O38: GROW's number, FORK's record and limits and NPRE's depth pass their checks, and the effect is what is left. -/
theorem kernelWords : Obligations.KernelWords := by
  intro sc p d a b s s' j mg
  refine ⟨fun hj y hy hstep hlow hhigh hmax => ?_,
    fun hj w x raw v bytes hw hloads hacq hread hfaults hrecord hkids hdepth hrel => ?_,
    fun hj hkids => ends_of rfl hj (if_pos hkids), fun hj => ⟨fun hin => ?_, ?_⟩⟩
  · have hn : ¬ (y.toNat % 16 ≠ 0 ∨ y.toNat < 16 ∨ 128 < y.toNat) := by omega
    refine ⟨fun q hkeep htop => ends_of rfl hj ?_, fun hmore => (concluded rfl hj).trans ?_⟩
    · simp only [hy, eff_ok, if_neg hn, if_neg (Nat.not_lt.mpr hmax), if_pos hkeep, htop]
    · simp only [hy, eff_ok, if_neg hn, if_neg (Nat.not_lt.mpr hmax), if_neg (Nat.not_le.mpr hmore)]
  · have hlimits : ¬ (16 ≤ j.block.children ∨ 8 < j.launch.depth + 1) := by omega
    refine ⟨fun hroom => ends_of rfl hj ?_, fun hfull => ends_of rfl hj ?_⟩
    all_goals
      simp only [readsOf_settled hw hloads hacq, hread, bind_ok, lost_of_no_faults hfaults, hrecord, eff_ok, if_neg hlimits, hrel,
        Bool.not_true, Bool.false_eq_true, if_false]
    · simp only [decide_eq_true hroom, if_true]
    · simp only [decide_eq_false (Nat.not_lt.mpr hfull), Bool.false_eq_true, if_false]
  · exact completes_of_put (fun w => { w with region := w.region + 1 }) rfl hj (if_neg (Nat.not_le.mpr hin)) rfl (fun _ => rfl)
      fun _ _ => rfl
  · exact completes_of_put (fun w => { w with region := w.region - 1 }) rfl hj rfl rfl (fun _ => rfl) fun _ _ => rfl

end Sys2Proof.Machine
end

section
/-! The cross-lane families (R186 to R191): SHFL reads the lane that an index names, VOTE counts the contributors whose condition is
true, and an integer LRED or LSCAN folds the contributors that its form covers. -/

namespace Sys2Proof.Machine

open Sys2Proof

/-! ## What is written across the span (R187) -/

/-- Only what the members' lanes receive matters to a write across the span. -/
theorem putSpan_congr {j : Job} {f g : Warp → Nat → Word} (h : ∀ w ∈ j.members, f w = g w) (s : State) : s.putSpan j f = s.putSpan j g := by
  unfold State.putSpan
  revert h
  generalize j.members = ms
  intro h
  induction ms generalizing s with
  | nil => rw [List.foldl_nil, List.foldl_nil]
  | cons w ws ih =>
    rw [List.foldl_cons, List.foldl_cons, h w List.mem_cons_self]
    exact ih _ fun x hx => h x (List.mem_cons_of_mem w hx)

/-! ## SHFL (R186, R188, R189) -/

/-- Among the operands that the members have read, a member finds its own. -/
theorem find?_uid_map {ms : List Warp} {y : Nat → Row} {w : Warp} (hw : w ∈ ms) :
    ((ms.map fun x => (x, y x.uid)).find? fun e => e.1.uid == w.uid).map (fun e => e.2) = some (y w.uid) := by
  have hsome : ((ms.map fun x => (x, y x.uid)).find? fun e => e.1.uid == w.uid).isSome :=
    List.find?_isSome.mpr ⟨(w, y w.uid), List.mem_map.mpr ⟨w, hw, rfl⟩, beq_self_eq_true _⟩
  obtain ⟨e, he⟩ := Option.isSome_iff_exists.mp hsome
  have huid : e.1.uid = w.uid := by simpa only [beq_iff_eq] using List.find?_some he
  obtain ⟨x, -, rfl⟩ := List.mem_map.mp (List.mem_of_find?_eq_some he)
  rw [he, Option.map_some, ← huid]

/-- Where every member can read its operand, SHFL gives each contributor the lane that its pick names. -/
theorem shfl_eq_next {b : Opb} {s : State} {j : Job} {y : Nat → Row} (hy : ∀ w ∈ j.members, s.operand (j.onWarp w) .int b = .ok (y w.uid))
    (pick : Nat → Nat → Nat → Nat) :
    shfl b pick s j = .next (s.putSpan j fun w i =>
      j.shflSource w (pick (32 * j.rankOf w * (if j.scope = .set then 1 else 0) + i) (laneOf (y w.uid) i).toNat j.shflSize)) := by
  rw [shfl, eachMember_ok j j.members _ (fun w => y w.uid) _ hy]
  refine congrArg Eff.next (putSpan_congr (fun w hw => ?_) s)
  simp only [find?_uid_map hw, Option.getD_some]

/-- Settles O14: each function is one `pick`, and the operands that the members read are those of the premise. -/
theorem shuffleResults : Obligations.ShuffleResults := by
  intro sc d a b s s' j y hy n from_
  exact ⟨fun hj => span_of rfl hj (shfl_eq_next hy pickIdx), fun hj => span_of rfl hj (shfl_eq_next hy pickUp),
    fun hj => span_of rfl hj (shfl_eq_next hy pickDown), fun hj => span_of rfl hj (shfl_eq_next hy pickXor),
    fun hj => span_of rfl hj (shfl_eq_next hy pickIdx)⟩

/-! ## VOTE (R190) -/

/-- Settles O15: a vote never traps, so that its effect is one write across the span. -/
theorem voteResults : Obligations.VoteResults := by
  intro sc q p d n s s' j yes all none_
  exact ⟨fun hj => ⟨spanPred_of rfl hj rfl, spanPred_of rfl hj rfl, spanPred_of rfl hj rfl⟩,
    fun hj => ⟨span_of rfl hj rfl, span_of rfl hj rfl⟩⟩

/-! ## LRED and LSCAN over integers (R191) -/

/-- A choice by the machine's signed comparison is the choice by the order of the integers. -/
theorem ite_ltS (x y u v : Word) : (if ltS x y then u else v) = if x.toInt < y.toInt then u else v := by simp only [ltS, decide_eq_true_eq]

/-- An integer reduction or scan whose operation is `op` on words folds `op` over what its form covers. -/
theorem spanResult_fold {i : Instr} {m : Meta} {s s' : State} {j : Job} {f : Form} {op op' : Word → Word → Word} {unit : Word}
    (hi : exec i s = issue m s (lredInt f op' unit)) (hj : s.judge m = .go s' j) (hop : ∀ x y, op' x y = op x y) :
    SpanResult i m s s' j (j.formVal f fun xs => xs.foldl op unit) := by
  obtain rfl : op' = op := funext fun x => funext (hop x)
  exact span_of hi hj rfl

/-- Settles O16: each form is one fold, with the machine's signed comparison read as the order of the integers. -/
theorem integerReductions : Obligations.IntegerReductions := by
  intro sc d a s s' j hj r
  have same : ∀ (op : Word → Word → Word) (x y : Word), op x y = op x y := fun _ _ _ => rfl
  have hmin : ∀ x y : Word, (if ltS y x then y else x) = if y.toInt < x.toInt then y else x := fun x y => ite_ltS y x y x
  have hmax : ∀ x y : Word, (if ltS x y then y else x) = if x.toInt < y.toInt then y else x := fun x y => ite_ltS x y y x
  exact ⟨spanResult_fold rfl hj (same _), spanResult_fold rfl hj hmin, spanResult_fold rfl hj hmax, spanResult_fold rfl hj (same _),
    spanResult_fold rfl hj (same _), spanResult_fold rfl hj (same _), spanResult_fold rfl hj (same _), spanResult_fold rfl hj hmin,
    spanResult_fold rfl hj hmax, spanResult_fold rfl hj (same _), spanResult_fold rfl hj (same _), spanResult_fold rfl hj (same _),
    spanResult_fold rfl hj (same _), spanResult_fold rfl hj hmin, spanResult_fold rfl hj hmax, spanResult_fold rfl hj (same _),
    spanResult_fold rfl hj (same _), spanResult_fold rfl hj (same _)⟩

end Sys2Proof.Machine
end

section
/-! XCHG and XCHGK at issue (R193, R194): the offers of a side. -/

namespace Sys2Proof.Machine

open Sys2Proof

/-- With a partner block other than its own that has a warp left on the side, a side places its offers and waits. -/
theorem xchg_eq_block {k : Bool} {b : Opb} {s : State} {j : Job} (hgang : j.launch.gang = true)
    (hother : xchgPartner (j.w.sreg b.num) ≠ j.block.bid) (hrank : xchgPartner (j.w.sreg b.num) < j.launch.griddim.toNat)
    (hside : s.partnerSide j (xchgPartner (j.w.sreg b.num)) ≠ []) :
    xchg k b s j = .block (j.members.foldl
      (fun s w => s.modWarp w.uid fun x => { x with xchg := some (j.offer k (j.w.sreg b.num) w) }) s) .xchg := by
  have hok : (!j.launch.gang || xchgPartner (j.w.sreg b.num) == j.block.bid ||
      decide (j.launch.griddim.toNat ≤ xchgPartner (j.w.sreg b.num)) || (s.partnerSide j (xchgPartner (j.w.sreg b.num))).isEmpty) = false := by
    rw [hgang, beq_false_of_ne hother, decide_eq_false (Nat.not_le.mpr hrank), List.isEmpty_eq_false_iff.mpr hside]
    rfl
  simp only [xchg, hok, Bool.false_eq_true, if_false]

/-- Settles O40: the checks of the partner pass, and what is left of the effect are the offers and the wait. -/
theorem exchanges : Obligations.Exchanges := by
  intro k sc d b s s' j hj y rank hgang hother hrank hside
  have hbody := xchg_eq_block (k := k) hgang hother hrank hside
  cases k with
  | false => exact (concluded rfl hj).trans (by rw [hbody]; rfl)
  | true => exact (concluded rfl hj).trans (by rw [hbody]; rfl)

end Sys2Proof.Machine
end

section
/-! The events of the units beside a core (R194, R201, R202, R260, R264, R359, R406 to R408): what each does when it is enabled. -/

namespace Sys2Proof.Machine

open Sys2Proof

/-! ## The matrix engine (R260, R264) -/

/-- A K-step that nothing stops puts its sums in place, and the loop goes on to its next step. -/
theorem kstep_of_stepOf {s t : State} {core : Nat} {e : EngJob} {l : Loop} (hloop : s.nextLoop core = some (e, l))
    (hstep : s.stepOf e l = .ok t) :
    let more : EngJob → EngJob := fun g => { g with kind := .loop { l with t := l.t + 1 }, stamp := s.fresh + 1 }
    let u := State.noteDone { t with engine := mapWhere (fun g => g.id == e.id) more t.engine } e.warp
    s.kstep core = u.engineRun core (u.engine.length + 1) := by
  simp only [State.kstep, hloop, hstep]

theorem exec_drainComplete_of {s t : State} {core : Nat} (h : s.drainDone core = t) : exec (.drainComplete core) s = .next t.settleGone := by
  subst h; rfl

/-- A drain whose queued writes are applied and whose stores are performed is over. -/
theorem drainWait_of_performed {s : State} {e : EngJob} (hqueue : ∀ b, s.block? e.block = some b → ∀ q ∈ b.bankq, q.run ≠ e.id)
    (hdone : s.performed 2 e.id = true) (free : Bool) : s.drainWait e free = s.drainEnd e free := by
  have hq : ((s.block? e.block).any fun b => b.bankq.any fun q => q.run == e.id) = false := by
    cases hb : s.block? e.block with
    | none => rfl
    | some b => exact List.any_eq_false.mpr fun q hmem h => hqueue b hb q hmem (beq_iff_eq.mp h)
  simp only [State.drainWait, hq, hdone, Bool.not_true, Bool.or_self, Bool.false_eq_true, if_false]

section
variable {s : State} {core : Nat} {e : EngJob} {h : BitVec 512} {add free : Bool} {gr gc : Nat} {c : Context}

/-- The queued writes of a drain to scratchpad: one for each element that is not clipped (R135, R264). -/
def State.drainWrites (s : State) (e : EngJob) (h : BitVec 512) (add : Bool) (gr gc : Nat) (w : Warp) (l : Launch) : List BankWrite :=
  (groupElems e.span).filterMap fun p =>
    (drainOffset h e.span gr gc p.1 p.2).map fun o =>
      { alloc := shapeAlloc h, cells := l.drainCells h o (drainBits h (s.accGet e.core e.first e.span p.1 p.2)), warp := w.uid, op := s.nextUid,
        run := e.id, add := if add then some (shapeFmt h) else none }

theorem drainQueue_of_none {w : Warp} {l : Launch} (hw : s.warp? e.warp = some w) (hl : s.launch? e.launch = some l)
    (hnone : s.drainWrites e h add gr gc w l = []) : s.drainQueue e h add free gr gc = s.drainEnd e free := by
  rw [State.drainWrites] at hnone
  simp only [State.drainQueue, hw, hl, hnone, List.isEmpty_nil, if_true]

theorem drainQueue_of_some {w : Warp} {l : Launch} (hw : s.warp? e.warp = some w) (hl : s.launch? e.launch = some l)
    (hsome : s.drainWrites e h add gr gc w l ≠ []) (hroom : w.loads.length < 255) :
    s.drainQueue e h add free gr gc =
      ((State.modWarp { s with nextUid := s.nextUid + 1 } w.uid fun w =>
        w.addLoad { LoadOp.taken s.nextUid with kind := .bankq, done := false }).modBlock e.block fun b =>
          { b with bankq := b.bankq ++ s.drainWrites e h add gr gc w l }).drainWait e free := by
  have hempty := List.isEmpty_eq_false_iff.mpr hsome
  rw [State.drainWrites] at hempty
  simp only [State.drainQueue, hw, hl, hempty, Bool.false_eq_true, if_false, if_neg (Nat.not_le.mpr hroom), State.drainWrites]

variable (hnext : s.nextDrain core = some e) (hkind : e.kind = .drain h add free gr gc) (hctx : s.ctx? e.field e.ctx = some c)
include hnext hkind hctx

theorem drainDone_of_wrote (hwrote : e.wrote = true) : s.drainDone core = s.drainWait e free := by
  simp only [State.drainDone, hnext, hkind, hctx, hwrote, if_true]

theorem drainDone_of_scratchpad (hwrote : e.wrote = false) (hspace : shapeSpace h = true) :
    s.drainDone core = s.drainQueue e h add free gr gc := by
  simp only [State.drainDone, hnext, hkind, hctx, hwrote, hspace, Bool.false_eq_true, if_false, if_true]

section
variable {xs : List DrainElem} {fault : Option Nat} (hwrote : e.wrote = false) (hspace : shapeSpace h = false)
  (helems : s.drainElems c e h add gr gc (groupElems e.span) = .ok (xs, fault))
include hwrote hspace helems

/-- A drain to memory with no line left to write waits for what it has written. -/
theorem drainDone_of_no_lines (hlines : dedupNat (xs.map fun x => lineOf x.place.key) = []) :
    s.drainDone core = s.drainWait { e with fault := e.fault.or fault } free := by
  simp only [State.drainDone, hnext, hkind, hctx, hwrote, hspace, helems, hlines, Bool.false_eq_true, if_false, List.getElem?_nil]

/-- A drain to memory writes the line that is free, or at the last line or by a free choice all that are left. -/
theorem drainDone_of_line {l : Nat}
    (hline : (dedupNat (xs.map fun x => lineOf x.place.key))[(s.someWord 1).toNat %
      (dedupNat (xs.map fun x => lineOf x.place.key)).length]? = some l) :
    s.drainDone core =
      if (dedupNat (xs.map fun x => lineOf x.place.key)).length = 1 ∨ s.someBit 2 then
        (s.drainWrite c e h add xs).drainWait { e with fault := e.fault.or fault } free
      else (s.drainWrite c e h add (xs.filter fun x => lineOf x.place.key == l)).modJob e.id fun g => { g with lines := l :: g.lines } := by
  simp only [State.drainDone, hnext, hkind, hctx, hwrote, hspace, helems, hline, Bool.false_eq_true, if_false]

end
end

/-! ## The traversal units (R359) -/

/-- A ray that has not ended, may read, and whose walk ends takes its result. -/
theorem rayDone_of_ended {s : State} {w lane status faddr visits : Nat} {x : Warp} {r : Ray} {c : Context} {best : Option Hit}
    (hw : s.warp? w = some x) (hr : (x.rays[lane]?).getD none = some r) (hctx : s.ctxOf x = some c) (hrun : r.done = false)
    (hready : s.unitReady w r.seq r.deps = true)
    (hend : rayEnd r.words r.desc (fun a n => s.rayRead c x.core r a n) (s.someWord lane).toNat = .ended status faddr best visits) :
    let ray : Ray := { r with done := true, result := rayResult status visits best, fault := rayFault r.desc status faddr }
    let t := if status = 2 then s.unitMet c.field c.ctxid (BitVec.ofNat 64 faddr) else s
    s.rayDone w lane = ((t.modWarp w fun y => { y with rays := y.rays.setIfInBounds lane (some ray) }).noteDone w).closeRays w := by
  simp only [State.rayDone, hw, hr, hctx, hrun, hready, hend, Bool.not_true, Bool.or_self, Bool.false_eq_true, if_false]

/-! ## Multicast (R406 to R408) -/

theorem exec_multicastRequest {s : State} {id : Nat} {r : McReq} (hr : s.mcReq? id = some r) (hsent : r.state = .sent)
    (hmay : s.mcMayLeave r = true) : exec (.multicastRequest id) s = .next (s.mcArrive r) := by
  have hexec : exec (.multicastRequest id) s = execMulticastRequest id s := rfl
  simp only [hexec, execMulticastRequest, hr, hsent, hmay, beq_self_eq_true, Bool.and_self, if_true]

theorem exec_multicastTimeout {s : State} {k : Nat} {m : McSession} (hm : s.mcSession? k = some m) (hsent : m.sent = false) :
    exec (.multicastTimeout k) s = .next (s.mcSend m) := by
  have hexec : exec (.multicastTimeout k) s = execMulticastTimeout k s := rfl
  simp only [hexec, execMulticastTimeout, hm, hsent, Bool.false_eq_true, if_false]

theorem exec_ldmcDelivery {s : State} {id beat : Nat} {r : McReq} {a : Access} (hr : s.mcReq? id = some r) (hserve : s.mcServing r a = true)
    (hbeat : r.beats.find? (fun b => b.1 == beat) = some (beat, a)) : exec (.ldmcDelivery id beat) s = .next (s.mcDeliver r beat a) := by
  have hexec : exec (.ldmcDelivery id beat) s = execLdmcDelivery id beat s := rfl
  simp only [hexec, execLdmcDelivery, hr, hbeat, hserve, if_true]

/-! ## Pairs of XCHG (R194) -/

theorem exec_xchgPair {s : State} {w : Nat} {x p : Warp} {a b : Warp × XchgOffer} {ba : Block} {ps : List Warp} (hw : s.warp? w = some x)
    (ha : s.xchgIssuer x = some a) (hblock : s.block? a.1.block = some ba) (hpartners : s.xchgPartners a.1 a.2 ba = p :: ps)
    (hb : s.xchgIssuer p = some b) (hnames : xchgPartner b.2.desc = ba.bid) (hagree : a.2.agrees b.2 = true) :
    exec (.xchgPair w) s = .next (s.xchgSwap a b) := by
  have hexec : exec (.xchgPair w) s = execXchgPair w s := rfl
  have hissuer : (s.warp? w).bind s.xchgIssuer = some a := by rw [hw, Option.bind_some, ha]
  simp only [hexec, execXchgPair, hissuer, hblock, hpartners, hb, if_pos (And.intro hnames hagree)]

/-! ## PASSIVE nodes (R201, R202) -/

theorem exec_phaseSweepPair {s : State} {launch : Nat} (hover : s.phaseOver launch = true) :
    let t := ((s.blocks.filter fun b => b.launch == launch).filter fun b => b.passive).foldl (fun s b => s.phqEnd b 1 true) s
    exec (.phaseSweepPair launch) s =
      .next { t with blocks := mapWhere (fun b => b.launch == launch) (fun (b : Block) => { b with sent := 0, recv := 0 }) t.blocks } := by
  have hexec : exec (.phaseSweepPair launch) s = execPhaseSweepPair launch s := rfl
  simp only [hexec, execPhaseSweepPair, hover, Bool.not_true, Bool.false_eq_true, if_false]

theorem exec_phqWake {s : State} {block : Nat} {b : Block} (hb : s.block? block = some b) (hpassive : b.passive = true)
    (hitem : (s.phqItem b).2 = true) : exec (.phqWake block) s = .next ((s.phqItem b).1.phqEnd b 0 false) := by
  have hexec : exec (.phqWake block) s = execPhqWake block s := rfl
  simp only [hexec, execPhqWake, hb, hpassive, hitem, Bool.not_true, Bool.false_eq_true, if_false, if_true]

/-! ## The events together -/

/-- Settles O43: each event that is enabled takes its one step. A drain goes on by where it stands: its writes all made, its
destination the scratchpad, or the number of lines of memory that it has left. -/
theorem unitEvents : Obligations.UnitEvents := by
  intro s
  refine ⟨fun core e l t hloop hstep => congrArg Host.Outcome.next (kstep_of_stepOf hloop hstep), ?_,
    fun w lane status faddr visits x r c best hw hr hctx hrun hready hend =>
      congrArg Host.Outcome.next (rayDone_of_ended hw hr hctx hrun hready hend),
    fun id r hr hsent hmay => exec_multicastRequest hr hsent hmay, fun k m hm hsent => exec_multicastTimeout hm hsent,
    fun id beat r a hr hserve hbeat => exec_ldmcDelivery hr hserve hbeat,
    fun w x p a b ba ps hw ha hblock hpartners hb hnames hagree => exec_xchgPair hw ha hblock hpartners hb hnames hagree,
    fun launch hover => exec_phaseSweepPair hover, fun block b hb hpassive hitem => exec_phqWake hb hpassive hitem⟩
  intro core e h add free gr gc c hnext hkind hctx
  refine ⟨fun hwrote hqueue hdone => ?_, ?_, ?_⟩
  · exact exec_drainComplete_of ((drainDone_of_wrote hnext hkind hctx hwrote).trans (drainWait_of_performed hqueue hdone free))
  · intro w l hwrote hspace hw hl qs
    have hqueue := drainDone_of_scratchpad hnext hkind hctx hwrote hspace
    exact ⟨fun hnone => exec_drainComplete_of (hqueue.trans (drainQueue_of_none hw hl hnone)),
      fun hsome hroom => exec_drainComplete_of (hqueue.trans (drainQueue_of_some hw hl hsome hroom))⟩
  · intro xs fault hwrote hspace helems lines last
    refine ⟨fun hnone => exec_drainComplete_of (drainDone_of_no_lines hnext hkind hctx hwrote hspace helems hnone),
      fun hone => ?_, fun l hmany hline => ?_⟩
    · obtain ⟨l, hl⟩ : ∃ l, lines = [l] := List.length_eq_one_iff.mp hone
      have hline : lines[(s.someWord 1).toNat % lines.length]? = some l := by
        rw [hone, Nat.mod_one, hl]; rfl
      exact exec_drainComplete_of ((drainDone_of_line hnext hkind hctx hwrote hspace helems hline).trans (if_pos (.inl hone)))
    · have hchoice : (lines.length = 1 ∨ s.someBit 2 = true) = (s.someBit 2 = true) := propext (or_iff_right (Nat.ne_of_gt hmany))
      refine exec_drainComplete_of ((drainDone_of_line hnext hkind hctx hwrote hspace helems hline).trans ?_)
      simp only [lines, last] at hchoice ⊢
      simp only [hchoice]

end Sys2Proof.Machine
end

section
/-! The queue words: QAPP (R285, R286), TDEC, TINC and TRD (R297) and PHQ (R200, R201). -/

namespace Sys2Proof.Machine

open Sys2Proof

/-- Settles O32: past its checks, and its release where it has one, QAPP goes by whether the queue has room, a counter word is its one
access, and PHQ blocks at once. -/
theorem queueWords : Obligations.QueueWords := by
  intro sc d a b s s' j
  refine ⟨fun hj u q v r hdesc hclass hmet hread => ⟨fun hfull => ?_, fun hroom t hslot => ?_⟩,
    fun q n p htask => ⟨fun hj hcheck hmet t hdec => ?_, fun hj hcheck => ?_, fun hj hcheck => ?_⟩,
    fun hj => Eq.trans (concluded rfl hj) rfl⟩
  -- QAPP answers 0 without room; with room it takes the slot, counts it and answers all ones
  · refine ends_of rfl hj ?_
    simp only [hdesc, eff_ok, hclass, hmet, hread, hfull, Bool.not_true, Bool.not_false, Bool.false_eq_true, if_false, if_true]
  · refine ends_of rfl hj ?_
    simp only [hdesc, eff_ok, hclass, hmet, hread, hroom, hslot, Bool.not_true, Bool.false_eq_true, if_false, if_true]
  -- TDEC goes by its release, TINC and TRD by the place of the counter alone
  · refine ends_of rfl hj ?_
    simp only [htask, hcheck, eff_ok, hmet, hdec, if_true]
  · refine ends_of rfl hj ?_
    simp only [htask, hcheck, eff_ok]
  · refine ends_of rfl hj ?_
    simp only [htask, hcheck, eff_ok]

end Sys2Proof.Machine
end

section
/-! Taking an exception and returning from it (R204 to R209): what a report does to its warp, to the other warps and to memory, and what the
splits of a trap frame become when the handler returns. -/

namespace Sys2Proof.Machine

open Sys2Proof

/-! ## The splits of a warp -/

theorem split_modSplit_ne (w : Warp) {k i : Nat} (g : Split → Split) (h : k ≠ i) : (w.modSplit i g).split? k = w.split? k := by
  rw [Warp.split?, modSplit_slots, Vector.getElem?_setIfInBounds_ne (Ne.symm h)]
  rfl

/-! ## CAUSE (R205) -/

/-- The fields of CAUSE below its bit 31. -/
def Trap.fields (t : Trap) : Nat := t.code2 % 64 * 2 ^ 16 + t.fpx.toNat * 2 ^ 11 + t.lane % 32 * 2 ^ 6 + t.code % 64

theorem Trap.word_eq (t : Trap) : t.word = (if t.async then 0x80000000#32 else 0#32) ||| BitVec.ofNat 32 t.fields := rfl

theorem Trap.fields_lt (t : Trap) : t.fields < 2 ^ 22 := by
  have := t.fpx.isLt
  unfold Trap.fields
  omega

theorem Trap.word_bit31 (t : Trap) : t.word.getLsbD 31 = t.async := by
  have hlow : (BitVec.ofNat 32 t.fields).getLsbD 31 = false := by
    rw [BitVec.getLsbD_ofNat, Nat.testBit_lt_two_pow (Nat.lt_trans t.fields_lt (by decide)), Bool.and_false]
  rw [Trap.word_eq, BitVec.getLsbD_or, hlow, Bool.or_false]
  cases t.async <;> rfl

/-- Bit 31 is ASYNC alone: the bits below it are the fields'. -/
theorem Trap.word_extract (t : Trap) {i n : Nat} (h : i + n ≤ 31) : t.word.extractLsb' i n = BitVec.ofNat n (t.fields / 2 ^ i) := by
  have hfields := t.fields_lt
  apply BitVec.eq_of_getLsbD_eq
  intro k hk
  have hbit : (if t.async then 0x80000000#32 else 0#32).getLsbD (i + k) = false := by
    cases t.async
    · exact BitVec.getLsbD_zero
    · have : ∀ m < 31, (0x80000000#32).getLsbD m = false := by decide
      exact this _ (by omega)
  rw [BitVec.getLsbD_extractLsb', Trap.word_eq, BitVec.getLsbD_or, hbit, Bool.false_or, BitVec.getLsbD_ofNat, BitVec.getLsbD_ofNat,
    Nat.testBit_div_two_pow, decide_eq_true hk, decide_eq_true (show i + k < 32 by omega), Nat.add_comm i k, Bool.true_and, Bool.true_and]

theorem Trap.word_fields (t : Trap) :
    t.word.getLsbD 31 = t.async ∧ t.word.extractLsb' 22 9 = 0 ∧ t.word.extractLsb' 16 6 = BitVec.ofNat 6 t.code2 ∧
    t.word.extractLsb' 11 5 = t.fpx ∧ t.word.extractLsb' 6 5 = BitVec.ofNat 5 t.lane ∧ t.word.extractLsb' 0 6 = BitVec.ofNat 6 t.code := by
  have hfpx := t.fpx.isLt
  refine ⟨t.word_bit31, ?_, ?_, ?_, ?_, ?_⟩ <;> rw [Trap.word_extract _ (by decide)]
  · rw [Nat.div_eq_of_lt t.fields_lt]; rfl
  all_goals
    apply BitVec.eq_of_toNat_eq
    simp only [BitVec.toNat_ofNat, Trap.fields]
    omega

/-! ## Leaving the handler (R209) -/

/-- A parked split goes to a free slot. -/
def Warp.unparkAt (w : Warp) (i : Nat) : Warp :=
  match w.split? i, w.parked with
  | none, x :: rest => { w with slots := w.slots.setIfInBounds i (some x), parked := rest }
  | _, _ => w

theorem unpark_eq_foldl (w : Warp) : w.unpark = (List.range 4).foldl Warp.unparkAt w := rfl

/-- Unparking changes the slots and the parked splits alone, and no slot that is taken. -/
theorem unparkAt_eq (w : Warp) (i : Nat) : ∃ slots parked, w.unparkAt i = { w with slots := slots, parked := parked } ∧
    ∀ k x, w.split? k = some x → (w.unparkAt i).split? k = some x := by
  unfold Warp.unparkAt
  split
  · next x rest hfree _ =>
    refine ⟨_, _, rfl, fun k y hy => ?_⟩
    have hne : i ≠ k := fun h => by simp [h, hy] at hfree
    rw [Warp.split?, Vector.getElem?_setIfInBounds_ne hne]
    exact hy
  · exact ⟨w.slots, w.parked, rfl, fun _ _ h => h⟩

theorem foldl_unparkAt_eq (l : List Nat) (w : Warp) : ∃ slots parked, l.foldl Warp.unparkAt w = { w with slots := slots, parked := parked } ∧
    ∀ k x, w.split? k = some x → (l.foldl Warp.unparkAt w).split? k = some x := by
  induction l generalizing w with
  | nil => exact ⟨w.slots, w.parked, rfl, fun _ _ h => h⟩
  | cons i is ih =>
    obtain ⟨_, _, hone, hkeep⟩ := unparkAt_eq w i
    obtain ⟨slots, parked, hrest, hkeeps⟩ := ih (w.unparkAt i)
    refine ⟨slots, parked, ?_, fun k x h => hkeeps k x (hkeep k x h)⟩
    rw [List.foldl_cons, hrest, hone]

theorem unpark_eq (w : Warp) : ∃ slots parked, w.unpark = { w with slots := slots, parked := parked } ∧
    ∀ k x, w.split? k = some x → w.unpark.split? k = some x := foldl_unparkAt_eq _ w

/-- A split of the frame as it comes back, but for the reporting one's address: without the lanes that exited in the handler. -/
def Warp.keepSplit (w : Warp) (x : Split) : Split := { x with mask := x.mask &&& w.here, hints := [] }

/-- The warp with the splits of its frame back in their slots. -/
def Warp.unframe (w : Warp) (fr : Frame) : Warp :=
  { w with
    slots := fr.slots.map fun (o : Option Split) => o.map w.keepSplit
    parked := fr.parked.map w.keepSplit
    frame := none
    mode := .normal
    inGroup := none
    lastSlot := fr.slot
    lostOps := match fr.lost with
      | some op => w.lostOps.filter fun l => l.1 != op
      | none => w.lostOps }

/-- The reporting split stands at its group again. -/
def Warp.resumeSplit (w : Warp) (fr : Frame) (how : Resume) (x : Split) : Split :=
  match how with
  | .replay =>
    { x.atGroup w.fpc with
      waiting := fr.diverged
      want := if fr.diverged then some (causeScope w.cause, fr.next) else none
      released := fr.member.or x.released }
  | .skip => { x.atGroup fr.next with released := fr.keeps x }
  | .written => { x.atGroup w.fpc with released := fr.keeps x }

/-- The splits without a lane are gone. -/
def Warp.dropEmpty (w : Warp) : Warp :=
  let full : Option Split → Option Split := fun o => o.bind fun x => if x.mask = 0 then none else some x
  { w with slots := w.slots.map full, parked := w.parked.filter fun x => x.mask != 0 }

theorem leaveHandler_eq (w : Warp) (fr : Frame) (how : Resume) :
    w.leaveHandler fr how = (((w.unframe fr).modSplit fr.slot (w.resumeSplit fr how)).dropEmpty).unpark := by
  cases how <;> rfl

theorem resumeSplit_mask (w : Warp) (fr : Frame) (how : Resume) (x : Split) : (w.resumeSplit fr how x).mask = x.mask := by
  cases how <;> rfl

theorem resumeSplit_hints (w : Warp) (fr : Frame) (how : Resume) (x : Split) : (w.resumeSplit fr how x).hints = [] := by
  cases how <;> rfl

theorem resumeSplit_pc (w : Warp) (fr : Frame) (how : Resume) (x : Split) :
    (w.resumeSplit fr how x).pc = if how = .skip then fr.next else w.fpc := by
  cases how <;> rfl

theorem split?_unframe (w : Warp) {fr : Frame} {k : Nat} {x : Split} (h : (fr.slots[k]?).join = some x) :
    (w.unframe fr).split? k = some (w.keepSplit x) := by
  rw [Option.join_eq_some_iff] at h
  simp [Warp.split?, Warp.unframe, h]

theorem split?_dropEmpty {w : Warp} {k : Nat} {x : Split} (h : w.split? k = some x) (hmask : x.mask ≠ 0) : w.dropEmpty.split? k = some x := by
  rw [Warp.split?, Option.join_eq_some_iff] at h
  simp only [Warp.split?, Warp.dropEmpty, Vector.getElem?_map, h, Option.map_some, Option.bind_some, if_neg hmask, Option.join_some]

/-- A split of the frame that has a lane left is back in its slot, the reporting one where the handler's return sends it. -/
theorem split?_leaveHandler (w : Warp) {fr : Frame} (how : Resume) {k : Nat} {x : Split} (h : (fr.slots[k]?).join = some x)
    (hlanes : x.mask &&& w.here ≠ 0) :
    (w.leaveHandler fr how).split? k = some (if k = fr.slot then w.resumeSplit fr how (w.keepSplit x) else w.keepSplit x) := by
  obtain ⟨_, _, _, hkeep⟩ := unpark_eq (((w.unframe fr).modSplit fr.slot (w.resumeSplit fr how)).dropEmpty)
  have hback := split?_unframe w h
  rw [leaveHandler_eq]
  refine hkeep k _ (split?_dropEmpty ?_ ?_)
  · split
    · next hk => rw [hk, split_modSplit, ← hk, hback]; rfl
    · next hk => rw [split_modSplit_ne _ _ hk, hback]
  · split
    · rw [resumeSplit_mask]; exact hlanes
    · exact hlanes

/-- The return changes no register. -/
theorem leaveHandler_regs (w : Warp) (fr : Frame) (how : Resume) :
    let y := w.leaveHandler fr how
    y.mode = .normal ∧ y.frame = none ∧ y.v = w.v ∧ y.s = w.s ∧ y.bank = w.bank ∧ y.p = w.p ∧ y.h = w.h ∧ y.rstack = w.rstack := by
  obtain ⟨_, _, hunpark, _⟩ := unpark_eq (((w.unframe fr).modSplit fr.slot (w.resumeSplit fr how)).dropEmpty)
  rw [leaveHandler_eq, hunpark]
  exact ⟨rfl, rfl, rfl, rfl, rfl, rfl, rfl, rfl⟩

/-! ## Delivering a cause (R210, R211) -/

/-- One destination of a faulted load reads 0 in its affected lanes. -/
def Warp.zeroDest (w : Warp) (z : Nat × LaneMask) : Warp :=
  if hZero 0 ≤ z.1 then (if z.2 = 0 then w else { w with h := w.h.setIfInBounds (z.1 - hZero 0) 0 })
  else { w with v := w.v.setIfInBounds z.1 (mergeRow z.2 (splat 0) (w.row z.1)) }

theorem zeroFaulted_eq_foldl (w : Warp) (a : AsyncCause) : w.zeroFaulted a = a.zero.foldl Warp.zeroDest w := rfl

/-- Zeroing changes v and h alone, and goes by them alone. -/
theorem zeroDest_eq (w : Warp) (z : Nat × LaneMask) : ∃ v h, w.zeroDest z = { w with v := v, h := h } ∧
    ∀ y : Warp, y.v = w.v → y.h = w.h → y.zeroDest z = { y with v := v, h := h } := by
  unfold Warp.zeroDest
  split
  · split
    · exact ⟨w.v, w.h, rfl, fun _ hv hh => by rw [← hv, ← hh]⟩
    · exact ⟨w.v, _, rfl, fun _ hv hh => by rw [← hv, ← hh]⟩
  · refine ⟨_, w.h, rfl, fun y hv hh => ?_⟩
    simp only [Warp.row, hv, ← hh]

theorem foldl_zeroDest_eq (l : List (Nat × LaneMask)) (w : Warp) : ∃ v h, l.foldl Warp.zeroDest w = { w with v := v, h := h } ∧
    ∀ y : Warp, y.v = w.v → y.h = w.h → l.foldl Warp.zeroDest y = { y with v := v, h := h } := by
  induction l generalizing w with
  | nil => exact ⟨w.v, w.h, rfl, fun _ hv hh => by rw [← hv, ← hh]; rfl⟩
  | cons z zs ih =>
    obtain ⟨_, _, hone, hlike⟩ := zeroDest_eq w z
    obtain ⟨v, h, hrest, hlikes⟩ := ih (w.zeroDest z)
    refine ⟨v, h, by rw [List.foldl_cons, hrest, hone], fun y hv hh => ?_⟩
    rw [List.foldl_cons, hlikes _ (by rw [hlike y hv hh, hone]) (by rw [hlike y hv hh, hone]), hlike y hv hh]

/-- A delivery changes v and h, the rays and the pending causes alone; v and h become what they become in any warp with the same v and h. -/
theorem deliver_eq (w : Warp) (a : AsyncCause) : ∃ rays asyncs v h,
    w.deliver a = { w with v := v, h := h, rays := rays, asyncs := asyncs } ∧ (a.kind ≠ .ray → a ∉ asyncs) ∧
    ∀ y : Warp, y.v = w.v → y.h = w.h → (y.deliver a).v = v ∧ (y.deliver a).h = h := by
  by_cases hray : a.kind = .ray
  · refine ⟨_, w.asyncs, w.v, w.h, if_pos hray, fun h => absurd hray h, fun y hv hh => ?_⟩
    rw [Warp.deliver, if_pos hray]
    exact ⟨hv, hh⟩
  · obtain ⟨v, h, hzero, hlike⟩ := foldl_zeroDest_eq a.zero w
    refine ⟨w.rays, w.asyncs.filter fun b => decide (b ≠ a), v, h, ?_, fun _ => by simp, fun y hv hh => ?_⟩
    · rw [Warp.deliver, if_neg hray, zeroFaulted_eq_foldl, hzero]
    · rw [Warp.deliver, if_neg hray, zeroFaulted_eq_foldl, hlike y hv hh]
      exact ⟨rfl, rfl⟩

/-! ## Entering the handler (R204) -/

/-- The reporting split stands at its group's first word again. -/
def Report.regroup (r : Report) (x : Split) : Split := { x with pc := r.fpc, start := r.fpc, hints := [] }

/-- The trap frame of a report: the warp's splits, the reporting one at its group again. -/
def Warp.frameOf (w : Warp) (r : Report) : Frame :=
  { slots := (w.modSplit r.slot r.regroup).slots, parked := w.parked, slot := r.slot,
    next := r.next, member := r.member, once := r.once, diverged := r.diverged, lost := r.lost, pop := r.pop }

theorem frameOf_split (w : Warp) {r : Report} {x : Split} (hx : w.split? r.slot = some x) (k : Nat) :
    ((w.frameOf r).slots[k]?).join = if k = r.slot then some (r.regroup x) else w.split? k := by
  split
  · next hk => exact hk ▸ (split_modSplit w r.slot _).trans (congrArg _ hx)
  · next hk => exact split_modSplit_ne w _ hk

theorem single_split (n : Nat) (x : Split) (k : Nat) :
    (((Vector.ofFn fun _ : Fin (n + 1) => (none : Option Split)).setIfInBounds 0 (some x))[k]?).join = if k = 0 then some x else none := by
  split
  · next hk => simp [hk]
  · next hk =>
    rw [Vector.getElem?_setIfInBounds_ne (Ne.symm hk)]
    cases h : (Vector.ofFn fun _ : Fin (n + 1) => (none : Option Split))[k]? with
    | none => rfl
    | some o =>
      obtain ⟨_, ho⟩ := Vector.getElem?_eq_some_iff.mp h
      rw [Vector.getElem_ofFn] at ho
      rw [← ho]; rfl

/-- In the handler the warp has one split, of the reporting lanes. -/
theorem split?_enterHandler (w : Warp) {r : Report} {x : Split} (hx : w.split? r.slot = some x) (handler : Dword) (k : Nat) :
    (w.enterHandler r handler).split? k = if k = 0 then some (Split.fresh handler x.mask) else none := by
  have hmask : (((w.modSplit r.slot r.regroup).split? r.slot).map (·.mask)).getD 0 = x.mask := by
    rw [split_modSplit, hx]; rfl
  rw [← hmask]
  exact single_split 3 _ k

/-- The reporting warp as it stands in the handler, its cause delivered. -/
def Warp.handled (w : Warp) (r : Report) (handler : Dword) : Warp :=
  match r.cause with
  | some a => (w.enterHandler r handler).deliver a
  | none => w.enterHandler r handler

theorem deliver_uid (w : Warp) (a : AsyncCause) : (w.deliver a).uid = w.uid := by
  obtain ⟨_, _, _, _, heq, _, _⟩ := deliver_eq w a
  rw [heq]

theorem handled_uid (w : Warp) (r : Report) (handler : Dword) : (w.handled r handler).uid = w.uid := by
  unfold Warp.handled
  split
  · exact deliver_uid _ _
  · rfl

/-! ## What the entry does to the other warps -/

/-- Warps that a change passes by stand as they stood. -/
theorem warp?_of_mapWhere_skips {s t : State} {p : Warp → Bool} {g : Warp → Warp} {u : Nat} (ht : t.warps = mapWhere p g s.warps)
    (hg : ∀ x, (g x).uid = x.uid) (hp : ∀ x, x.uid = u → p x = false) : t.warp? u = s.warp? u := by
  rw [warp?_of_map (fun x => if p x then g x else x) (fun x => by split <;> simp [hg]) ht]
  cases h : s.warp? u with
  | none => rfl
  | some w => rw [Option.map_some, hp w (warp?_uid h)]; rfl

theorem setRvState_warp?_ne (s : State) (w : Warp) (sc : Scope) (x : RvState) {u : Nat} (hu : u ≠ w.uid) :
    (s.setRvState w sc x).warp? u = s.warp? u := by
  cases sc with
  | lane => rfl
  | warp => exact warp?_of_mapWhere_skips rfl (fun _ => rfl) fun y hy => beq_false_of_ne (hy ▸ hu)
  | set => rfl
  | block => rfl

/-- The object that a warp gathers in changes its rendezvous state at most. -/
theorem setRvState_warp?_self {s : State} {w y : Warp} (sc : Scope) (x : RvState) (hy : s.warp? w.uid = some y) :
    ∃ rv, (s.setRvState w sc x).warp? w.uid = some { y with rv := rv } := by
  cases sc with
  | lane => exact ⟨y.rv, hy⟩
  | warp => exact ⟨x, warp?_of_mapWhere (g := fun y => { y with rv := x }) rfl (fun _ h => h) hy⟩
  | set => exact ⟨y.rv, hy⟩
  | block => exact ⟨y.rv, hy⟩

theorem setRvState_mem (s : State) (w : Warp) (sc : Scope) (x : RvState) : (s.setRvState w sc x).mem = s.mem := by cases sc <;> rfl

theorem holdOthers_warp?_self (s : State) (w : Warp) (sc : Scope) (old new : Mode) : (s.holdOthers w sc old new).warp? w.uid = s.warp? w.uid :=
  warp?_of_mapWhere_skips rfl (fun _ => rfl) fun x hx => by simp [hx]

theorem holdPopulation_warp?_self (s : State) (w : Warp) : (s.holdPopulation w).warp? w.uid = s.warp? w.uid := by
  unfold State.holdPopulation
  split
  · rfl
  · exact warp?_of_mapWhere_skips rfl (fun _ => rfl) fun x hx => by simp [hx]

theorem holdPopulation_mem (s : State) (w : Warp) : (s.holdPopulation w).mem = s.mem := by
  unfold State.holdPopulation
  split <;> rfl

/-- The entry of the reporting warp alone. -/
def State.enterOne (s : State) (r : Report) (handler : Dword) : State :=
  match r.cause with
  | some a => (s.modWarp r.u fun w => w.enterHandler r handler).modWarp r.u fun w => w.deliver a
  | none => s.modWarp r.u fun w => w.enterHandler r handler

/-- What the entry does beyond the reporting warp: a population's check holds the population, and the rendezvous object of a divergence or of
a member's fault is FAULTED. -/
def State.faultGroup (s : State) (w : Warp) (r : Report) : State :=
  let s := if r.pop then s.holdPopulation w else s
  if r.diverged then s.setRvState w (causeScope r.trap.word) .faulted
  else
    match r.member with
    | none => s
    | some sc => (s.setRvState w sc .faulted).holdOthers w sc .normal .held

theorem enter_eq (s : State) (w : Warp) (r : Report) (handler : Dword) : s.enter w r handler = (s.enterOne r handler).faultGroup w r := rfl

theorem enterOne_warp?_self {s : State} {r : Report} {v : Warp} (hv : s.warp? r.u = some v) (handler : Dword) :
    (s.enterOne r handler).warp? r.u = some (v.handled r handler) := by
  have hone : (s.modWarp r.u fun w => w.enterHandler r handler).warp? r.u = some (v.enterHandler r handler) :=
    warp?_of_mapWhere (g := fun w => w.enterHandler r handler) rfl (fun _ h => h) hv
  unfold State.enterOne Warp.handled
  split
  · next a _ => exact warp?_of_mapWhere (g := fun w => w.deliver a) rfl (fun x hx => (deliver_uid x a).trans hx) hone
  · exact hone

theorem enterOne_warp?_ne (s : State) (r : Report) (handler : Dword) {u : Nat} (hu : u ≠ r.u) :
    (s.enterOne r handler).warp? u = s.warp? u := by
  have hskip : ∀ x : Warp, x.uid = u → (x.uid == r.u) = false := fun x hx => beq_false_of_ne (hx ▸ hu)
  have hone : (s.modWarp r.u fun w => w.enterHandler r handler).warp? u = s.warp? u :=
    warp?_of_mapWhere_skips rfl (fun _ => rfl) hskip
  unfold State.enterOne
  split
  · exact (warp?_of_mapWhere_skips rfl (fun x => deliver_uid x _) hskip).trans hone
  · exact hone

theorem enterOne_mem (s : State) (r : Report) (handler : Dword) : (s.enterOne r handler).mem = s.mem := by
  unfold State.enterOne
  split <;> rfl

theorem holds_warp?_self (s : State) (w : Warp) (p : Prop) [Decidable p] :
    (if p then s.holdPopulation w else s).warp? w.uid = s.warp? w.uid := by
  split
  · exact holdPopulation_warp?_self s w
  · rfl

theorem faultGroup_warp?_self {s : State} {w y : Warp} (r : Report) (hy : s.warp? w.uid = some y) :
    ∃ rv, (s.faultGroup w r).warp? w.uid = some { y with rv := rv } := by
  have hheld := (holds_warp?_self s w (r.pop = true)).trans hy
  unfold State.faultGroup
  dsimp only
  split
  · exact setRvState_warp?_self _ _ hheld
  · split
    · exact ⟨y.rv, hheld⟩
    · next sc _ =>
      obtain ⟨rv, hrv⟩ := setRvState_warp?_self sc .faulted hheld
      exact ⟨rv, (holdOthers_warp?_self ..).trans hrv⟩

/-- A cause of the warp's own, no member's fault and no population's check, leaves the other warps alone. -/
theorem faultGroup_warp?_ne (s : State) (w : Warp) {r : Report} (hmember : r.member = none) (hpop : r.pop = false) {u : Nat}
    (hu : u ≠ w.uid) : (s.faultGroup w r).warp? u = s.warp? u := by
  unfold State.faultGroup
  rw [hpop, hmember]
  dsimp only
  split
  · exact setRvState_warp?_ne s w _ _ hu
  · rfl

theorem faultGroup_mem (s : State) (w : Warp) (r : Report) : (s.faultGroup w r).mem = s.mem := by
  have hheld : (if r.pop then s.holdPopulation w else s).mem = s.mem := by
    split
    · exact holdPopulation_mem s w
    · rfl
  unfold State.faultGroup
  dsimp only
  split
  · exact (setRvState_mem ..).trans hheld
  · split
    · exact hheld
    · exact (setRvState_mem _ w _ _).trans hheld

/-! ## The report -/

section
variable {s : State} {r : Report} {w : Warp} {c : Context} (hw : s.warp? r.u = some w) (hc : s.ctx? w.field (s.ctxidOf w) = some c)
include hw hc

theorem report_in_handler (hmode : w.mode = .handler) :
    s.report r = (s.hostRecord w.field (s.ctxidOf w) ({ Trap.plain 16 with code2 := r.trap.code }).word r.trap.faddr r.fpc w.core
      w.slot).killCtx w.field (s.ctxidOf w) := by
  simp only [State.report, hw, hc, hmode, if_true]

theorem report_without_handler (hmode : w.mode ≠ .handler) (hhandler : c.handler = 0) :
    s.report r = (s.hostRecord w.field (s.ctxidOf w) ({ r.trap with code := 61, code2 := r.trap.code }).word r.trap.faddr r.fpc w.core
      w.slot).killCtx w.field (s.ctxidOf w) := by
  simp only [State.report, hw, hc, if_neg hmode]
  exact if_pos hhandler

theorem report_enters (hmode : w.mode ≠ .handler) (hhandler : c.handler ≠ 0) (hcode : r.trap.code ≠ 18)
    (hquiet : ((s.backToGroup r.u r.slot r.fpc).quiesce r.u).quiet r.u = true) :
    s.report r = ((s.backToGroup r.u r.slot r.fpc).quiesce r.u).enter w r c.handler := by
  simp only [State.report, hw, hc, if_neg hmode, hquiet, Bool.not_true, Bool.false_eq_true, if_false, if_neg hcode]
  exact if_neg hhandler

end

/-- What the reporting warp is in its handler: its splits are in the frame, its one split has the reporting lanes, and of its registers v and h
alone change, as the delivery of its cause changes them. -/
theorem handled_spec (v : Warp) {r : Report} {x : Split} (hx : v.split? r.slot = some x) (handler : Dword) :
    let y := v.handled r handler
    y.frame = some (v.frameOf r) ∧ y.mode = .handler ∧ y.cause = r.trap.word ∧ y.faddr = r.trap.faddr ∧ y.fpc = r.fpc ∧
    (∀ k, y.split? k = if k = 0 then some (Split.fresh handler x.mask) else none) ∧ y.parked = [] ∧
    y.s = v.s ∧ y.bank = v.bank ∧ y.p = v.p ∧ y.rstack = v.rstack ∧ y.mask = v.mask ∧
    (r.cause = none → y.v = v.v ∧ y.h = v.h) ∧
    (∀ a, r.cause = some a → y.v = (v.deliver a).v ∧ y.h = (v.deliver a).h ∧ (a.kind ≠ .ray → a ∉ y.asyncs)) := by
  have hone := split?_enterHandler v hx handler
  cases hcause : r.cause with
  | none =>
    simp only [Warp.handled, hcause]
    exact ⟨rfl, rfl, rfl, rfl, rfl, hone, rfl, rfl, rfl, rfl, rfl, rfl, fun _ => ⟨rfl, rfl⟩, fun _ h => nomatch h⟩
  | some a =>
    obtain ⟨_, asyncs, _, _, hdeliver, hgone, hlike⟩ := deliver_eq (v.enterHandler r handler) a
    obtain ⟨hv, hh⟩ := hlike v rfl rfl
    simp only [Warp.handled, hcause, hdeliver]
    refine ⟨rfl, rfl, rfl, rfl, rfl, hone, rfl, rfl, rfl, rfl, rfl, rfl, fun h => (nomatch h), fun b hb => ?_⟩
    obtain rfl := Option.some.inj hb
    exact ⟨hv.symm, hh.symm, hgone⟩

/-- Settles O55: the report of a quiet warp is its entry, whose parts `handled_spec` and `faultGroup` describe; the other clauses are the two
reports that kill, the fields of CAUSE, and what leaving the handler gives back. -/
theorem takingAnException : Obligations.TakingAnException := by
  refine ⟨fun s r w c hw hc => ⟨report_in_handler hw hc, report_without_handler hw hc, ?_⟩, Trap.word_fields, fun w fr how => ?_⟩
  · intro hmode hhandler hcode q v x hquiet hv hx
    have huid : w.uid = r.u := warp?_uid hw
    have hone : (q.enterOne r c.handler).warp? r.u = some (v.handled r c.handler) := enterOne_warp?_self hv c.handler
    obtain ⟨rv, hy⟩ := faultGroup_warp?_self (w := w) r (by rw [huid]; exact hone)
    rw [huid] at hy
    obtain ⟨hframe, hhmode, hcause, hfaddr, hfpc, hsplit, hparked, hregs⟩ := handled_spec v hx c.handler
    obtain ⟨hs, hbank, hp, hrstack, hmask, hown, hasync⟩ := hregs
    rw [report_enters hw hc hmode hhandler hcode hquiet, enter_eq]
    refine ⟨_, v.frameOf r, hy, hframe, hhmode, hcause, hfaddr, hfpc, hsplit 0, fun k hk => (hsplit k).trans (if_neg hk), hparked,
      rfl, rfl, rfl, frameOf_split v hx, hs, hbank, hp, hrstack, hmask, hown, hasync, ?_, fun hmember hpop u hu => ?_⟩
    · exact (faultGroup_mem ..).trans (enterOne_mem ..)
    · exact (faultGroup_warp?_ne _ w hmember hpop (huid ▸ hu)).trans (enterOne_warp?_ne _ r _ hu)
  · obtain ⟨hmode, hframe, hv, hs, hbank, hp, hh, hrstack⟩ := leaveHandler_regs w fr how
    refine ⟨hmode, hframe, hv, hs, hbank, hp, hh, hrstack, fun k x hk hlanes => ⟨_, split?_leaveHandler w how hk hlanes, ?_⟩⟩
    split
    · exact ⟨resumeSplit_mask .., resumeSplit_hints .., resumeSplit_pc ..⟩
    · exact ⟨rfl, rfl, rfl⟩

end Sys2Proof.Machine
end

section
/-! TRAP, BKPT, ERET and HALT (R209, R212). -/

namespace Sys2Proof.Machine

open Sys2Proof

theorem exec_of_done {i : Instr} {m : Meta} {s s' t : State} {j : Job} {body : State → Job → Eff}
    (hi : exec i s = issue m s body) (hj : s.judge m = .go s' j) (hb : body s' j = .done t) : exec i s = .next (t.noteIssue j.w.uid) :=
  (concluded hi hj).trans (by rw [hb]; rfl)

theorem resumeAddr_eq (w : Warp) (fr : Frame) (how : Resume) : resumeAddr w fr how = if how = .skip then fr.next else w.fpc := by
  cases how <;> rfl

/-- Settles O39: TRAP and BKPT are the report of their cause; ERET and HALT in a handler are done with the return of the frame and with the
kill of the context. -/
theorem trapWords : Obligations.TrapWords := by
  intro sc code s s' j rep
  refine ⟨fun hj => ⟨Eq.trans (concluded rfl hj) rfl, Eq.trans (concluded rfl hj) rfl⟩, ?_, fun hj => exec_of_done rfl hj rfl⟩
  intro hj fr hframe how addr hgood
  have hcheck : s'.resumeCheck j.ctx (resumeAddr j.w fr how) = .ok () := by rw [resumeAddr_eq]; exact hgood
  refine exec_of_done rfl hj ?_
  simp only [hframe]
  exact congrArg (Got.eff · _) hcheck

end Sys2Proof.Machine
end

section
/-! The life of contexts: the host's commands (R267 to R270), scheduling, pre-emption (R274) and the forced save (R275). -/

namespace Sys2Proof.Machine

open Sys2Proof

/-! ## The command slot (R267) -/

theorem setStep_of_holder {s : State} {field ctx core slot : Nat} {w : Warp} (hw : s.slotHolder field ctx core slot = some w) (on : Bool) :
    s.setStep field ctx core slot on = (s.modWarp w.uid fun x => { x with stepFlag := on }).commandStatus field 0 := by
  simp only [State.setStep, hw]

section
variable {s : State} {field ctx : Nat} (hreach : s.hostReach field = true)
include hreach

/-- A command of a field that the host reaches is performed. -/
theorem ite_hostReach {α : Type} (x y : α) : (if !s.hostReach field then x else y) = y := by rw [hreach]; rfl

theorem exec_create {addr : Dword} {f : Field} {u : State} {r : State × List Byte}
    (hu : s.slotWords field 0x1000 1 [BitVec.ofNat 32 ctx, loWord addr, hiWord addr] = u)
    (hr : u.engineRead ((List.range 128).map fun i => physKey 0 field (addr.toNat + i)) = r) (hfield : u.field? field = some f)
    (halign : addr.toNat % 64 = 0) (hfits : addr.toNat + 128 ≤ f.membytes) (hgood : r.1.ctxBad field ctx r.2 = false)
    (hroom : (r.1.contexts.filter fun y => y.field == field).length < 64) :
    exec (.create field ctx addr) s =
      .next (State.commandStatus { r.1 with contexts := r.1.contexts ++ [contextOf field r.2] } field 0) := by
  have hplace : ¬(addr.toNat % 64 ≠ 0 ∨ f.membytes < addr.toNat + 128) := by omega
  refine (ite_hostReach hreach _ _).trans ?_
  simp only [State.createCtx, hu, hfield, Option.map_some, Option.getD_some, if_neg hplace, hr, hgood, if_neg (Nat.not_le.mpr hroom),
    Bool.false_eq_true, if_false]

theorem exec_destroy {c : Context} (hctx : (s.slotWords field 0x1000 2 [BitVec.ofNat 32 ctx]).ctx? field ctx = some c)
    (hstate : c.state = .idle ∨ c.state = .saved ∨ c.state = .killed) :
    let u := s.slotWords field 0x1000 2 [BitVec.ofNat 32 ctx]
    let t := ((u.emptyCtx field ctx).revokeAll field ctx).modCtx field ctx fun y =>
      { y with state := if y.state = .killed then .killed else .idle }
    exec (.destroy field ctx) s = .next (State.settleDestroys
      { t with destroying := t.destroying.filter (fun y => y != (field, ctx)) ++ [(field, ctx)] }) := by
  have hends : (c.state == .idle || c.state == .saved || c.state == .killed) = true := by
    rcases hstate with h | h | h <;> rw [h] <;> rfl
  refine (ite_hostReach hreach _ _).trans ?_
  simp only [State.destroyCtx, hctx, hends, if_true]

theorem exec_preempt {c : Context} (hctx : (s.slotWords field 0x1000 3 [BitVec.ofNat 32 ctx]).ctx? field ctx = some c)
    (hmay : c.preemptible = true) :
    exec (.preempt field ctx) s =
      .next (((s.slotWords field 0x1000 3 [BitVec.ofNat 32 ctx]).startDrain c false).commandStatus field 0) := by
  refine (ite_hostReach hreach _ _).trans ?_
  simp only [hctx, hmay, if_true]

theorem exec_kill {c : Context} (hctx : (s.slotWords field 0x1000 4 [BitVec.ofNat 32 ctx]).ctx? field ctx = some c) :
    exec (.kill field ctx) s = .next ((((s.slotWords field 0x1000 4 [BitVec.ofNat 32 ctx]).kilnRecord field ctx 61 0).killCtx field
      ctx).commandStatus field 0) := by
  refine (ite_hostReach hreach _ _).trans ?_
  simp only [hctx]

end

/-! ## Scheduling, pre-emption and the forced save (R266, R274, R275) -/

section
variable {s : State} {field ctx : Nat} {c : Context} (hctx : s.ctx? field ctx = some c)
include hctx

theorem exec_contextSchedule (hstate : c.state = .idle ∨ c.state = .running ∨ (c.state = .saved ∧ s.blocksIn c .saved = []))
    (hwork : s.ctxWork c = true) (hfirst : s.outranked c = false) :
    exec (.contextSchedule field ctx) s =
      .next ((s.restoreAll (sortBy (fun (x : Block × Launch) => x.1.uid) (s.blocksIn c .saved))).modCtx field ctx fun x =>
        { x with state := .running }) := by
  have hmay : (c.state == .idle || c.state == .saved || c.state == .running) = true := by
    rcases hstate with h | h | ⟨h, _⟩ <;> rw [h] <;> rfl
  -- a SAVED context waits for a first block only while it has a saved one
  have hgo : ∀ n : Nat, ¬(c.state = .saved ∧ (!(sortBy (fun (x : Block × Launch) => x.1.uid) (s.blocksIn c .saved)).isEmpty) = true ∧
      n = (sortBy (fun (x : Block × Launch) => x.1.uid) (s.blocksIn c .saved)).length) := by
    rintro n ⟨hsaved, hsome, _⟩
    rcases hstate with h | h | ⟨_, hnone⟩
    · exact nomatch h.symm.trans hsaved
    · exact nomatch h.symm.trans hsaved
    · rw [hnone] at hsome
      exact nomatch hsome
  show execContextSchedule field ctx s = _
  simp only [execContextSchedule, hctx, hmay, hwork, hfirst, Bool.not_true, Bool.or_self, Bool.false_eq_true, if_false, if_neg (hgo _)]

theorem exec_preemptionStart (hmay : c.preemptible = true) (hranked : s.outranked c = true) :
    exec (.preemptionStart field ctx false) s = .next (s.startDrain c false) := by
  show execPreemptionStart field ctx false s = _
  simp only [execPreemptionStart, hctx, hmay, hranked, Bool.and_self, Bool.false_eq_true, if_false, if_true]

theorem exec_preemptionStart_thermal (hstate : c.state = .running) (hhot : s.inHotZone c = true) :
    exec (.preemptionStart field ctx true) s = .next (s.startDrain c true) := by
  show execPreemptionStart field ctx true s = _
  simp only [execPreemptionStart, hctx, hstate, hhot, beq_self_eq_true, Bool.and_self, if_true]

theorem exec_drainLimitExpiry (hstate : c.state = .draining) (hblocks : s.blocksIn c .resident ≠ []) :
    exec (.drainLimitExpiry field ctx) s = .next (s.modCtx field ctx fun x => { x with state := .saving }) := by
  show execDrainLimitExpiry field ctx s = _
  simp only [execDrainLimitExpiry, hctx, hstate, List.isEmpty_iff, hblocks, ne_eq, not_true_eq_false, if_false]

theorem exec_regionLimitExpiry (hstate : c.state = .saving) (hcold : c.thermal = false) :
    exec (.regionLimitExpiry field ctx) s =
      .next (((s.warpsIn (s.blocksIn c .resident)).filter fun w => decide (0 < w.region)).foldl (fun s w =>
        (s.hostRecord field ctx (cutCause w).trap.word 0 w.groupAddr w.core w.slot).modWarp w.uid fun x =>
          { x with region := 0, asyncs := x.asyncs ++ [cutCause w] }) s) := by
  show execRegionLimitExpiry field ctx s = _
  simp only [execRegionLimitExpiry, hctx, hstate, hcold, ne_eq, not_true_eq_false, Bool.false_eq_true, or_self, if_false]

theorem exec_forcedSave (hstate : c.state = .saving) {bs : List (Block × Launch)} {images : List Block} {t : State}
    (hbs : s.blocksIn c .resident = bs) (himages : bs.map (·.1) = images)
    (ht : ((s.warpsIn bs).map (·.uid)).foldl State.quiesce s = t) (hquiet : ∀ b ∈ images, t.quietBlock b = true)
    (honline : ∀ x ∈ imagesOf c images, t.vaultOnline field x.1 = true) (howns : t.ownsImages c images = true) :
    exec (.forcedSave field ctx) s =
      .next ((images.foldl State.saveBlock (t.writeImages c images)).modCtx field ctx fun x =>
        { x with state := .saved, thermal := false }) := by
  have hall : images.all t.quietBlock = true := List.all_eq_true.mpr hquiet
  have hup : ((imagesOf c images).any fun x => !t.vaultOnline field x.1) = false := List.any_eq_false.mpr fun x hx => by simp [honline x hx]
  show execForcedSave field ctx s = _
  simp only [execForcedSave, hctx, hstate, hbs, himages, ht, hall, hup, howns, ne_eq, not_true_eq_false, Bool.not_true, Bool.false_eq_true,
    if_false]

end

/-- Settles O47: each command and each event that is enabled takes its one step. -/
theorem contextEvents : Obligations.ContextEvents := by
  intro s
  refine ⟨fun field ctx addr f hreach => exec_create hreach rfl rfl,
    fun field ctx c hreach => ⟨exec_destroy hreach, exec_preempt hreach, exec_kill hreach⟩,
    fun field ctx core slot w hreach => ⟨fun hw => ?_, fun hw => ?_⟩, fun field ctx c hctx => ?_⟩
  · exact (ite_hostReach hreach _ _).trans (congrArg Host.Outcome.next (setStep_of_holder hw true))
  · exact (ite_hostReach hreach _ _).trans (congrArg Host.Outcome.next (setStep_of_holder hw false))
  · exact ⟨exec_contextSchedule hctx, exec_preemptionStart hctx, exec_preemptionStart_thermal hctx, exec_drainLimitExpiry hctx,
      exec_regionLimitExpiry hctx, fun hstate => exec_forcedSave hctx hstate rfl rfl rfl⟩

end Sys2Proof.Machine
end

section
/-! ATOM and RED (R242 to R248): what is sent at issue, and the new value of each integer operation. -/

namespace Sys2Proof.Machine

open Sys2Proof

/-! ## Issue (R242, R243, R247) -/

/-- Requests join those under way, and the core that sends them drops its copies of their lines (R247). -/
def State.reqsSent (s : State) (j : Job) (rs : List AtomReq) : State :=
  { s with
    nextUid := s.nextUid + 1 + rs.length
    areqs := s.areqs ++ rs
    l1 := s.l1.filter fun x => !(x.core == j.w.core && rs.any fun r => r.line == x.line) }

/-- The operation of the loads class that an ATOM counts as. -/
def Job.atomOp (j : Job) (id fn : Nat) (wide : Bool) : LoadOp :=
  { id := id, seq := 0, ord := 0, kind := .atom, dest := j.d, nreg := if wide then 2 else 1, lanes := j.live,
    size := atomSize fn wide, sext := false, acqScope := if j.acquires then some (BitVec.ofNat 3 j.ascope) else none,
    repl := false, nt := false, accs := [], early := [], done := false }

section
variable {s : State} {j : Job} {k : AccKind} {fn : Nat} {wide returns : Bool} {acc : Nat → Place → AtomAcc}

theorem sendAtoms_of_no_lanes (h : j.live = 0) : s.sendAtoms j k fn wide returns acc = .next s := if_pos h

/-- With every live lane checked and room in the class and in the request queues, the requests of all lines are sent at once. -/
theorem sendAtoms_of_room {ps : List (Nat × Place)} {rs : List AtomReq} (hlive : j.live ≠ 0)
    (hps : firstFail (lanesOf j.live) (s.atomCheck j k fn wide) = .ok ps)
    (hclass : (if returns then classFull j.w.loads else classFull j.w.stores) = false)
    (hrs : j.atomReqs s.nextUid fn wide returns acc (((s.field? j.w.field).map (·.epoch)).getD 0) ps = rs)
    (hroom : s.quadrantsFull rs = false) :
    s.sendAtoms j k fn wide returns acc =
      .next ((s.reqsSent j rs).put j fun w => if returns then w.addLoad (j.atomOp s.nextUid fn wide) else w.addStore s.nextUid) := by
  subst hrs
  simp only [State.sendAtoms, if_neg hlive, hps, eff_ok, hclass, hroom, Bool.or_self, Bool.false_eq_true, if_false]
  rfl

end

theorem atomResult_of_issue {i : Instr} {m : Meta} {k : AccKind} {fn : Nat} {wide returns : Bool}
    (hi : ∀ s, exec i s = issue m s fun s j => s.sendAtoms j k fn wide returns (j.atomAcc fn wide)) :
    AtomResult i m k fn wide returns := by
  intro s s' j hj
  refine ⟨fun hnone => ends_of (hi s) hj (sendAtoms_of_no_lanes hnone), ?_⟩
  intro ps hlive hps hclass rs hroom op sent t
  exact ⟨ends_of (hi s) hj (sendAtoms_of_room hlive hps hclass rfl hroom), rfl⟩

/-- Settles O21: every ATOM and RED is one call of `sendAtoms`. -/
theorem atomicIssue : Obligations.AtomicIssue := by
  intro sc d a b wide
  refine ⟨?_, ?_, ?_, ?_, ?_, ?_, ?_, ?_, ?_, ?_, ?_, ?_, ?_, ?_, ?_, ?_, ?_, ?_, ?_, ?_, ?_, ?_, ?_, ?_, ?_, ?_, ?_, ?_, ?_, ?_, ?_, ?_⟩
  all_goals exact atomResult_of_issue fun _ => rfl

/-! ## Values (R246) -/

theorem atomNew_integer {fn : Nat} (h : fn ≤ 11) (wide : Bool) (old y z : Nat) :
    atomNew fn wide old y z = atomInt fn (if wide then 64 else 32) old y z := by
  rw [atomNew, if_pos h]
  have hsize : atomSize fn wide = if wide then 8 else 4 := by
    rw [atomSize]
    · omega
    · omega
  rw [hsize]
  cases wide <;> rfl

/-- A number within n bits, read as a signed one. -/
theorem sintOf_of_lt {n x : Nat} (h : x < 2 ^ n) : sintOf n x = if x < 2 ^ (n - 1) then (x : Int) else (x : Int) - 2 ^ n := by
  rw [sintOf, Nat.mod_eq_of_lt h, Int.natCast_pow, Int.cast_ofNat_Int]

/-- Settles O22: each row of R246, where no wrap can arise below the operand of AINC and the signed reading is that of the width. -/
theorem atomicValues : Obligations.AtomicValues := by
  intro wide old y z n signed hold hy
  have hsigned : ∀ x, x < 2 ^ n → sintOf n x = signed x := fun x hx => sintOf_of_lt hx
  have hnew : ∀ fn, fn ≤ 11 → atomNew fn wide old y z = atomInt fn n old y z := fun fn hfn => atomNew_integer hfn wide old y z
  refine ⟨hnew 0 (by decide), ?_, ?_, ?_, ?_, hnew 5 (by decide), hnew 6 (by decide), hnew 7 (by decide), hnew 8 (by decide),
    hnew 9 (by decide), ?_, hnew 11 (by decide)⟩
  · rw [hnew 1 (by decide), ← hsigned old hold, ← hsigned y hy]; rfl
  · rw [hnew 2 (by decide), ← hsigned old hold, ← hsigned y hy]; rfl
  · rw [hnew 3 (by decide)]
    show min old y = _
    rw [Nat.min_def]; split <;> split <;> omega
  · rw [hnew 4 (by decide)]
    show max old y = _
    rw [Nat.max_def]; split <;> split <;> omega
  · rw [hnew 10 (by decide)]
    show (if y ≤ old then 0 else (old + 1) % 2 ^ n) = _
    by_cases h : old < y
    · rw [if_neg (Nat.not_le.mpr h), if_pos h, Nat.mod_eq_of_lt (Nat.lt_of_le_of_lt h hy)]
    · rw [if_pos (Nat.not_lt.mp h), if_neg h]

end Sys2Proof.Machine
end

section
/-! Matrix words at issue (R252 to R264): HSET, HADV and MMIDX, and the jobs that MMLOOP and the ACC family queue. -/

namespace Sys2Proof.Machine

open Sys2Proof

/-! ## Shape records and the index latch (R258, R263) -/

/-- A word that writes one h register of its warp and nothing else completes. -/
theorem completes_of_setH {i : Instr} {s s' : State} {j : Job} {m : Meta} {body : State → Job → Eff} (h : BitVec 4) (f : Warp → BitVec 512)
    (hi : exec i s = issue m s body) (hj : s.judge m = .go s' j) (hb : body s' j = .next (s'.put j fun w => w.setH h (f w)))
    (hm : m.cls.once = false) : Completes i s s' j (j.w.setH h (f j.w)) :=
  completes_of_put (fun w => w.setH h (f w)) hi hj hb hm (fun _ => rfl) fun _ _ => rfl

/-- Settles O29: HSET and HADV are one write of an h register, MMIDX one of the index latch. -/
theorem tileShapes : Obligations.TileShapes := by
  intro sc h a b s s' j x
  refine ⟨fun hj => ?_, fun hj y hy => ?_, fun hj y hy hle => ?_⟩
  · exact completes_of_setH h (fun w => (w.hreg h &&& ~~~((0xFFFFFFFFFFFFFFFF#64).zeroExtend 512 <<< (64 * b.num))) |||
      ((j.w.sreg64 a.toNat).zeroExtend 512 <<< (64 * b.num))) rfl hj rfl rfl
  · exact completes_of_setH h (fun _ => _) rfl hj (by simp only [hy, eff_ok]; rfl) rfl
  · refine ends_of rfl hj ?_
    simp only [hy, eff_ok, if_neg (Nat.not_lt.mpr hle)]

/-! ## The engine does not touch memory until a drain or a store writes it (R254, R260) -/

@[simp] theorem accPut_mem (s : State) (core first span i j : Nat) (x : Word) : (s.accPut core first span i j x).mem = s.mem := rfl
@[simp] theorem accClear_mem (s : State) (core first span : Nat) : (s.accClear core first span).mem = s.mem := rfl
@[simp] theorem accClaim_mem (s : State) (core first span : Nat) (h : Holder) : (s.accClaim core first span h).mem = s.mem := rfl
@[simp] theorem finishTile_mem (s : State) (u id : Nat) : (s.finishTile u id).mem = s.mem := rfl
@[simp] theorem finishLoad_mem (s : State) (u id : Nat) : (s.finishLoad u id).mem = s.mem := rfl
@[simp] theorem finishLoop_mem (s : State) (e : EngJob) : (s.finishLoop e).mem = s.mem := rfl
@[simp] theorem dropJob_mem (s : State) (e : EngJob) : (s.dropJob e).mem = s.mem := rfl
@[simp] theorem freeAccums_mem (s : State) : s.freeAccums.mem = s.mem := rfl

theorem foldl_mem {α : Type} (f : State → α → State) (hf : ∀ s x, (f s x).mem = s.mem) (l : List α) (s : State) :
    (l.foldl f s).mem = s.mem := by
  induction l generalizing s with
  | nil => rfl
  | cons x xs ih => exact (ih (f s x)).trans (hf s x)

theorem doInstant_mem (s : State) (e : EngJob) : (s.doInstant e).mem = s.mem := by
  unfold State.doInstant
  cases e.kind with
  | clear => rfl
  | read dest lanes r c => rfl
  | write vals lanes r c =>
    dsimp only
    rw [finishTile_mem]
    exact foldl_mem _ (fun _ _ => accPut_mem ..) _ _
  | scale y =>
    dsimp only
    rw [finishTile_mem]
    exact foldl_mem _ (fun _ _ => accPut_mem ..) _ _
  | loop l =>
    dsimp only
    rw [finishLoop_mem]
    split <;> rfl
  | drain h add free gr gc => rfl

theorem engineRun_mem (core fuel : Nat) (s : State) : (s.engineRun core fuel).mem = s.mem := by
  induction fuel generalizing s with
  | zero => rfl
  | succ n ih =>
    rw [State.engineRun]
    split
    · rfl
    · exact (ih _).trans (doInstant_mem s _)

theorem jobStarted_mem (s : State) (j : Job) (e : EngJob) (claim : Bool) (count : Warp → Warp) : (s.jobStarted j e claim count).mem = s.mem := by
  cases claim <;> exact engineRun_mem _ _ _

/-! ## Jobs (R254, R259, R264) -/

/-- A word whose checks pass and whose effect is to queue a job ends its group with the job queued and memory as it was. -/
theorem queues_of {i : Instr} {s s' : State} {j : Job} {m : Meta} {body : State → Job → Eff} {e : EngJob} {claim : Bool} {count : Warp → Warp}
    (hi : exec i s = issue m s body) (hj : s.judge m = .go s' j) (hb : body s' j = s'.startJob j e claim count) :
    Ends i m s j (s'.jobStarted j e claim count) ∧ (s'.jobStarted j e claim count).mem = s'.mem :=
  ⟨ends_of hi hj hb, jobStarted_mem s' j e claim count⟩

/-- An ACC function without a conflict over its group and with room in its class goes on. -/
theorem accIssue_of_free {acc : BitVec 3} {span : BitVec 2} {full : Warp → Bool} {s : State} {j : Job}
    (hfree : s.accConflict j.w.core acc.toNat (spanOf span) (s.holderOf j) = false) (hroom : full j.w = false) (k : Eff) :
    accIssue acc span full s j k = k := by
  simp only [accIssue, hfree, hroom, Bool.false_eq_true, if_false]

/-- Settles O30: past its own checks, each word queues its one job. -/
theorem engineJobs : Obligations.EngineJobs := by
  refine ⟨?_, ?_, ?_⟩
  · intro sc acc span hA hB ks flags s s' j hj ha hb sp gath gang l rA rB ps hshapeA hshapeB hkdim hstep hfree hclass hscratch hranges far
      hgather t
    have hsizes : ¬(shapeKdim ha ≠ shapeKdim hb ∨ stepSize ha ≠ stepSize hb) := not_or.mpr ⟨not_not_intro hkdim, not_not_intro hstep⟩
    refine queues_of rfl hj ?_
    simp only [ha, hb, sp, gath, gang, l, rA, rB] at hshapeA hshapeB hsizes hfree hclass hscratch hranges hgather
    simp only [hshapeA, hshapeB, if_neg hsizes, hfree, hclass, hgather, hscratch, hranges, eff_ok, Bool.or_self, Bool.false_eq_true, if_false]
    rfl
  · intro sc d acc span b s s' j hfree
    refine ⟨fun hj hclass => ?_, fun hj y r c hy hpos hclass => ?_, fun hj y r c hy hpos hclass => ?_, fun hj y hy hclass => ?_⟩
    · exact queues_of rfl hj (accIssue_of_free hfree hclass _)
    · refine queues_of rfl hj ?_
      simp only [hy, eff_ok, hpos]
      exact accIssue_of_free hfree hclass _
    · refine queues_of rfl hj ?_
      simp only [hy, eff_ok, hpos]
      exact accIssue_of_free hfree hclass _
    · refine queues_of rfl hj ?_
      simp only [hy, eff_ok]
      exact accIssue_of_free hfree hclass _
  · intro sc h acc span b s s' j hj x gang sp gr gc rs hfree hclass hscratch job
    have hpass := accIssue_of_free (full := fun w => classFull w.copies) hfree hclass
    simp only [x, gang, sp, gr, gc, rs] at hpass hscratch
    refine ⟨fun hshape ps hranges => queues_of rfl hj ?_, fun hshape ps hranges => queues_of rfl hj ?_⟩
    all_goals
      simp only [x, gang, sp, gr, gc, rs] at hshape hranges
      simp only [drain, hshape, hpass, hscratch, hranges, eff_ok, Bool.false_and, Bool.true_and, Bool.false_eq_true, if_false, if_true]
      rfl

end Sys2Proof.Machine
end

section
/-! The words of the surface units: the visibility buffer and pixel order (R344 to R348), images (R349 to R351) and rays (R357 to R361). -/

namespace Sys2Proof.Machine

open Sys2Proof

/-! ## Instructions that load in every live lane (R344 to R350) -/

section
variable {s : State} {j : Job} {n : Nat} {f : Reader → Nat → Got (Reader × List Word)}

theorem laneLoads_of_no_lanes (h : j.live = 0) : s.laneLoads j n f = .next s := if_pos h

/-- With room in the class and no load before it in the way, what the live lanes read goes to the registers. -/
theorem laneLoads_of_read {w : Warp} {r : Reader × List (Nat × List Word)} (hlive : j.live ≠ 0) (hroom : classFull j.w.loads = false)
    (hw : (s.settleAll j.w.uid 256).warp? j.w.uid = some w) (hloads : w.loads.any LoadOp.pendingMem = false)
    (hacq : w.acquiring w.seq = false)
    (hread : ({ s := s.settleAll j.w.uid 256, faults := [] } : Reader).lanes f (lanesOf j.live) = .ok r) :
    s.laneLoads j n f = .next (r.1.finish j n r.2) := by
  simp only [State.laneLoads, if_neg hlive, hroom, readsOf_settled hw hloads hacq, hread, eff_ok, Bool.false_eq_true, if_false]

/-- A word that passes its own checks and then loads in its live lanes ends as `laneLoads` does. -/
theorem ends_of_laneLoads {i : Instr} {s₀ : State} {m : Meta} {body : State → Job → Eff} (hi : exec i s₀ = issue m s₀ body)
    (hj : s₀.judge m = .go s j) (hb : body s j = s.laneLoads j n f) :
    (j.live = 0 → Ends i m s₀ j s) ∧
    ∀ w r, j.live ≠ 0 → classFull j.w.loads = false → (s.settleAll j.w.uid 256).warp? j.w.uid = some w →
      w.loads.any LoadOp.pendingMem = false → w.acquiring w.seq = false →
      ({ s := s.settleAll j.w.uid 256, faults := [] } : Reader).lanes f (lanesOf j.live) = .ok r →
      Ends i m s₀ j (r.1.finish j n r.2) :=
  ⟨fun hnone => ends_of hi hj (hb.trans (laneLoads_of_no_lanes hnone)),
    fun _ _ hlive hroom hw hloads hacq hread => ends_of hi hj (hb.trans (laneLoads_of_read hlive hroom hw hloads hacq hread))⟩

end

/-- Such a word loads in its live lanes wherever its operands are good. -/
theorem laneLoadResult_of_issue {i : Instr} {m : Meta} {n : Job → Nat} {ok : State → Job → Prop} {body : State → Job → Eff}
    {f : Job → Reader → Nat → Got (Reader × List Word)} (hi : ∀ s, exec i s = issue m s body)
    (hb : ∀ s j, ok s j → body s j = s.laneLoads j (n j) (f j)) : LaneLoadResult i m n ok f :=
  fun s s' j hj hok => ends_of_laneLoads (hi s) hj (hb s' j hok)

/-! ## The visibility buffer and pixel order (R344 to R348) -/

/-- Writing v registers one after another is a write of the issuing warp alone. -/
theorem completes_of_rows {i : Instr} {s s' : State} {j : Job} {m : Meta} {body : State → Job → Eff} (x : Nat → Row) (l : List Nat)
    (hi : exec i s = issue m s body) (hj : s.judge m = .go s' j)
    (hb : body s' j = .next (s'.put j fun w => l.foldl (fun w k => w.setRow j.live (j.d + k) (x k)) w)) (hm : m.cls.once = false) :
    Completes i s s' j (l.foldl (fun w k => w.setRow j.live (j.d + k) (x k)) j.w) :=
  have hkeep := foldl_setRow_uid_split j.live j.d x l
  completes_of_put (fun w => l.foldl (fun w k => w.setRow j.live (j.d + k) (x k)) w) hi hj hb hm (fun w => (hkeep w).1)
    fun w k => congrArg _ ((hkeep w).2 k)

theorem drawsBad_of_aligned {x : Dword} (h : x.toNat % 64 = 0) : drawsBad x = false := decide_eq_false (not_not_intro h)

/-- Settles O33: the loads are `laneLoads` past their checks, VISDEC writes four registers, ORDWAIT passes its waits one after another,
and ORDDONE is a call of `sendAtoms`. -/
theorem surfaceWords : Obligations.SurfaceWords := by
  intro sc d a b
  refine ⟨?_, fun s s' j hj => ?_, ?_, fun s s' j hj => ?_, fun s s' j hj => ?_, fun s s' j hj => ?_⟩
  · refine laneLoadResult_of_issue (fun _ => rfl) ?_
    rintro s j ⟨hsize, hcode, hplace, hcoords⟩
    have hgood : (lanesOf j.live).find? (fun i =>
        let c := laneOf (j.w.row j.a) i
        decide (c.extractLsb' 30 2 ≠ 0) || decide (samplesOf (j.w.sreg (b.num + 3)).toNat ≤ coordS c)) = none := by
      rw [List.find?_eq_none]
      intro i hi
      obtain ⟨hzero, hsample⟩ := hcoords i hi
      simp [hzero, hsample]
    simp only [hsize, decide_eq_false (Nat.not_le.mpr hcode), hplace, Bool.or_self, Bool.false_eq_true, if_false]
    simp only at hgood
    rw [hgood]
  · exact completes_of_rows _ (List.range 4) rfl hj rfl rfl
  · refine laneLoadResult_of_issue (fun _ => rfl) ?_
    rintro s j ⟨hzero, hcode, hdraws⟩
    have hgood : ¬(j.w.sreg (b.num + 3) ≠ 0 ∨ 2 ≤ (j.w.sreg (b.num + 2)).toNat ∨ drawsBad (j.w.sreg64 b.num) = true) := by
      simp [hzero, drawsBad_of_aligned hdraws, hcode]
    exact if_neg hgood
  · intro x hzero hvertex hhigh hdraws
    refine ends_of_laneLoads rfl hj (if_neg ?_)
    simp [hzero, drawsBad_of_aligned hdraws, x, hvertex, hhigh]
  · refine ⟨fun hnone => ends_of rfl hj (if_pos hnone), ?_⟩
    intro ys ps hlive hy hps q hbusy r hfault hwords hdone
    have hall : (ps.map fun x => (x.2.key, laneOf ys x.1)).all (fun w => r.orderWord w.1 == w.2) = true := by
      simp only [List.all_map, List.all_eq_true]
      exact fun x hx => beq_iff_eq.mpr (hwords x hx)
    refine ends_of rfl hj ?_
    simp only [r, q] at hbusy hfault hall hdone
    simp only [if_neg hlive, hy, hps, eff_ok, hbusy, hfault, hall, hdone, Bool.false_eq_true, if_false, if_true]
    rfl
  · intro one jr
    refine ⟨fun hnone => ends_of rfl hj (sendAtoms_of_no_lanes hnone), ?_⟩
    intro ps hlive hps hroom rs hqueues sent t
    exact ⟨ends_of rfl hj (sendAtoms_of_room hlive hps hroom rfl hqueues), rfl⟩

/-! ## Images (R349 to R351) -/

theorem texLoad_result {i : Instr} {sc : Scope} {d a : Reg} {b : Opb} {f : Job → Image → Reader → Nat → Got (Reader × List Word)}
    (hi : ∀ s, exec i s = texLoad sc d a b f s) :
    LaneLoadResult i (texMeta sc d a b 2) (fun _ => 4) (fun _ j => imageBad (j.w.octet b.num) = false)
      fun j => f j (imageOf (j.w.octet b.num)) :=
  laneLoadResult_of_issue hi fun _ _ hgood => if_neg (Bool.eq_false_iff.mp hgood)

/-- Settles O34: TEXS, TEXL and TEXG are `texLoad` with their rule, and TEXQ writes four registers. -/
theorem textureWords : Obligations.TextureWords := by
  intro sc d a b
  refine ⟨texLoad_result fun _ => rfl, texLoad_result fun _ => rfl, texLoad_result fun _ => rfl, ?_⟩
  intro s s' j hj hgood m vals
  exact completes_of_rows (fun k => splat (vals.getD k 0)) (List.range 4) rfl hj (if_neg (Bool.eq_false_iff.mp hgood)) rfl

/-! ## Rays (R357 to R361) -/

end Sys2Proof.Machine

namespace Sys2Proof.Laws

open Sys2Proof Sys2Proof.Machine

/-- Settles O35: TRAV and TRAVRD pass their waits one after another. -/
theorem rayWords : Obligations.RayWords := by
  intro sc d a b s s' j
  refine ⟨fun hj hgood => ⟨fun hnone => ends_of rfl hj ?_, ?_⟩, ?_⟩
  · simp only [hgood, if_pos hnone, Bool.false_eq_true, if_false]
  · intro hlive hrun hroom op t
    refine ⟨ends_of rfl hj ?_, rfl⟩
    simp only [hgood, if_neg hlive, hrun, hroom, Bool.or_self, Bool.false_eq_true, if_false]
    rfl
  · intro hj hrun word
    refine ends_of rfl hj ?_
    simp only [hrun, Bool.false_eq_true, if_false]
    rfl

end Sys2Proof.Laws
end

section
/-! The events of translation and of the vault frames (R276, R384, R390, R392, R394, R395): what each does when it is enabled. -/

namespace Sys2Proof.Machine

open Sys2Proof

/-! ## Changes of the entries that a predicate picks out -/

/-- The first entry of a list that a predicate picks out, after a change of those that keeps them picked out. -/
theorem find?_mapWhere {α : Type} {p : α → Bool} {f : α → α} (hf : ∀ x, p x = true → p (f x) = true) (l : List α) :
    (mapWhere p f l).find? p = (l.find? p).map f := by
  have hself : (p ∘ fun x => if p x then f x else x) = p := by
    funext x
    by_cases hx : p x = true <;> simp [hx, hf x]
  rw [mapWhere, List.find?_map, hself]
  cases hx : l.find? p with
  | none => rfl
  | some x => rw [Option.map_some, Option.map_some, if_pos (List.find?_some hx)]

/-! ## Walks and fills (R384, R390, R394) -/

section
variable {s : State} {field ctx : Nat} {c : Context} (hctx : s.ctx? field ctx = some c)
include hctx

theorem exec_pageWalk {va : Dword} (hwalks : c.modes.getLsbD 0 = false) :
    exec (.pageWalk field ctx va) s = .next (s.walkPage c (va56 va)) := by
  show execPageWalk field ctx va s = _
  simp only [execPageWalk, hctx, hwalks, Bool.false_eq_true, if_false]

theorem exec_fillResponse {vpage pte : Dword} {m : Miss} {t : State} (hreach : s.hostReach field = true)
    (ht : s.fillWords field ctx vpage pte = t) (hm : t.misses.find? (fun m => m.isFor field ctx (va56 vpage / 2 ^ 12)) = some m) :
    exec (.fillResponse field ctx vpage pte) s = .next (t.serveMiss c m (if t.fillOk c pte then some pte else none)) := by
  show execFillResponse field ctx vpage pte s = _
  simp only [execFillResponse, hctx, hreach, ht, hm, Bool.not_true, Bool.false_eq_true, if_false]

end

/-- A walk for a page that an access has missed serves the miss with what it finds. -/
theorem walkPage_of_miss {s : State} {c : Context} {va : Nat} {m : Miss}
    (hm : s.misses.find? (fun m => m.isFor c.field c.ctxid (va / 2 ^ 12)) = some m) :
    s.walkPage c va = (s.walkNow c va).1.serveMiss c m (s.walkNow c va).2 := by
  simp only [State.walkPage, hm]

/-- The walk of a page that none has missed drops an entry of one TLB. -/
theorem walkPage_of_no_miss {s : State} {c : Context} {va : Nat}
    (hm : s.misses.find? (fun m => m.isFor c.field c.ctxid (va / 2 ^ 12)) = none) :
    s.walkPage c va =
      s.cachePage c (if s.someBit 0 then some (40 * c.field + (s.someWord 1).toNat % 40) else none) (va / 2 ^ 12) none := by
  simp only [State.walkPage, hm]

theorem page_of_find?_isFor {l : List Miss} {f c page : Nat} {m : Miss} (h : l.find? (fun m => m.isFor f c page) = some m) : m.page = page := by
  have hm := List.find?_some h
  simp only [Miss.isFor, Bool.and_eq_true, beq_iff_eq] at hm
  exact hm.1.2

/-! ## Invalidation (R392) -/

theorem exec_invalidate {s : State} {field ctx log : Nat} {va : Dword} {c : Context} (hreach : s.hostReach field = true)
    (hctx : s.ctx? field ctx = some c) (hlow : 12 ≤ log) (hhigh : log ≤ 56) (halign : va56 va % 2 ^ log = 0) (hva : canonical va = true)
    (hidle : s.usesRange field ctx (va56 va) log = false) :
    let t := s.slotWords field 0x1100 1 [BitVec.ofNat 32 ctx, loWord va, hiWord va, BitVec.ofNat 32 log]
    let size : TlbEntry → Nat := fun e => pageBits (pteSize e.pte)
    exec (.invalidate field ctx va log) s = .next (State.setReg { t with
      tlb := t.tlb.filter fun e =>
        !(e.field == field && e.ctx == ctx && decide (e.page / 2 ^ (size e - 12) * 2 ^ size e < va56 va + 2 ^ log) &&
          decide (va56 va < (e.page / 2 ^ (size e - 12) + 1) * 2 ^ size e))
      misses := t.misses.filter fun m =>
        !(m.field == field && m.ctx == ctx && m.answered && inRange (va56 va) log m.page) } field 0x1120 0) := by
  intro t size
  have hrange : ¬((s.ctx? field ctx).isNone = true ∨ log < 12 ∨ 56 < log ∨ va56 va % 2 ^ log ≠ 0 ∨ (!canonical va) = true) := by
    simp [hctx, hva, halign, Nat.not_lt.mpr hlow, Nat.not_lt.mpr hhigh]
  refine (ite_hostReach hreach _ _).trans ((if_neg hrange).trans ?_)
  rw [hidle]
  rfl

/-! ## Vault frames and vault errors (R276, R395) -/

theorem exec_frameCopyOnWrite {s : State} {field frame ctx pos : Nat} {c : Context} (hctx : s.ctx? field ctx = some c)
    (hpos : c.framePos frame = some pos) (howner : (s.frameOf field frame).owner ≠ ctx) (honline : s.vaultOnline field (frame / 512) = true) :
    exec (.frameCopyOnWrite field frame ctx) s = .next ((s.frameOut (s.frameOf field frame)).frameIn c frame pos) := by
  have hgo : ¬((s.frameOf field frame).owner = ctx ∨ (!s.vaultOnline field (frame / 512)) = true) := by simp [howner, honline]
  show execFrameCopyOnWrite field frame ctx s = _
  simp only [execFrameCopyOnWrite, hctx, hpos, if_neg hgo]

theorem field?_modField_same {s : State} {f : Nat} {x : Field} {g : Field → Field} (hg : ∀ x, (g x).number = x.number)
    (hx : s.field? f = some x) : (s.modField f g).field? f = some (g x) :=
  (find?_mapWhere (fun y hy => by rwa [hg y]) s.fields).trans (congrArg (Option.map g) hx)

theorem modField_modField {s : State} {f : Nat} {g h : Field → Field} (hg : ∀ x, (g x).number = x.number) :
    (s.modField f g).modField f h = s.modField f (h ∘ g) := by
  have hlist : mapWhere (fun x : Field => x.number == f) h (mapWhere (fun x => x.number == f) g s.fields) =
      mapWhere (fun x => x.number == f) (h ∘ g) s.fields := by
    simp only [mapWhere, List.map_map]
    refine List.map_congr_left fun x _ => ?_
    simp only [Function.comp]
    by_cases hx : (x.number == f) = true
    · simp only [if_pos hx, hg]
    · simp only [if_neg hx]
  simp only [State.modField, hlist]

theorem field?_of_present {s : State} {f : Nat} (h : s.present f = true) : ∃ x, s.field? f = some x := by
  cases hx : s.field? f with
  | none => simp only [State.present, hx, Bool.false_eq_true] at h
  | some x => exact ⟨x, rfl⟩

/-- The copies of a vault's remap table that an error spoils: which of the two is free where it is one (R395). -/
def State.spoilRemap (s : State) (vault : Nat) (both : Bool) (x : Field) : Field :=
  { x with
    remapBad := if both || s.someBit 0 then x.remapBad ||| 1#40 <<< vault else x.remapBad
    mirrorBad := if both || !s.someBit 0 then x.mirrorBad ||| 1#40 <<< vault else x.mirrorBad }

/-- Both copies of a vault's remap table are good again. -/
def repairRemap (vault : Nat) (x : Field) : Field :=
  { x with remapBad := x.remapBad &&& ~~~(1#40 <<< vault), mirrorBad := x.mirrorBad &&& ~~~(1#40 <<< vault) }

theorem exec_vaultEccError {s : State} {field vault : Nat} (hpresent : s.present field = true) (honline : s.vaultOnline field vault = true)
    (both : Bool) :
    exec (.vaultEccError field vault both) s = .next ((s.modField field (s.spoilRemap vault both)).consultRemap field vault) := by
  have hgo : ¬((!s.present field) = true ∨ (!s.vaultOnline field vault) = true) := by simp [hpresent, honline]
  exact if_neg hgo

/-- The bit of a column that lies in a mask. -/
theorem getLsbD_column {vault : Nat} (h : vault < 40) (x : BitVec 40) : (x ||| 1#40 <<< vault).getLsbD vault = true := by
  simp [h]

/-- A repaired table has its bit clear, whether the error had set it or not. -/
theorem or_and_not_column (x b : BitVec 40) : (x ||| b) &&& ~~~b = x &&& ~~~b := by
  ext i hi
  cases hb : b[i] <;> simp [hb]

/-- One spoiled copy is rewritten from the other, which is logged. -/
theorem consultRemap_of_one {s : State} {field vault : Nat} {x : Field} (hx : s.field? field = some x) (hvault : vault < 40)
    (hremap : x.remapBad.getLsbD vault = false) (hmirror : x.mirrorBad.getLsbD vault = false) :
    (s.modField field (s.spoilRemap vault false)).consultRemap field vault =
      (s.modField field (repairRemap vault)).logError 2 field vault 0 := by
  have hfield := field?_modField_same (g := s.spoilRemap vault false) (fun _ => rfl) hx
  have hfix : (s.modField field (s.spoilRemap vault false)).modField field (repairRemap vault) = s.modField field (repairRemap vault) := by
    rw [modField_modField (g := s.spoilRemap vault false) fun _ => rfl]
    refine congrArg _ (funext fun y => ?_)
    cases hbit : s.someBit 0 <;> simp [Function.comp, repairRemap, State.spoilRemap, hbit, or_and_not_column]
  refine Eq.trans ?_ (congrArg (fun t => State.logError t 2 field vault 0) hfix)
  cases hbit : s.someBit 0 <;>
    simp only [State.consultRemap, hfield, Option.map_some, State.spoilRemap, hbit, Bool.or_self, Bool.or_true, Bool.not_true, Bool.not_false,
      Bool.false_eq_true, if_true, if_false, hremap, hmirror, getLsbD_column hvault] <;> rfl

/-- With both copies spoiled the vault goes offline. -/
theorem consultRemap_of_both {s : State} {field vault : Nat} {x : Field} (hx : s.field? field = some x) (hvault : vault < 40) :
    (s.modField field (s.spoilRemap vault true)).consultRemap field vault =
      (s.modField field fun x => { x with
        remapBad := x.remapBad ||| 1#40 <<< vault, mirrorBad := x.mirrorBad ||| 1#40 <<< vault }).vaultOffline field vault := by
  have hfield := field?_modField_same (g := s.spoilRemap vault true) (fun _ => rfl) hx
  simp only [State.consultRemap, hfield, Option.map_some, State.spoilRemap, Bool.true_or, if_true, getLsbD_column hvault]
  rfl

/-- Settles O48: each event that is enabled takes its one step. -/
theorem pageEvents : Obligations.PageEvents := by
  intro s
  refine ⟨?_, ?_, fun field ctx va log c hreach hctx hlow hhigh halign hva hidle => exec_invalidate hreach hctx hlow hhigh halign hva hidle,
    fun field frame ctx pos c hctx hpos howner honline => exec_frameCopyOnWrite hctx hpos howner honline, ?_⟩
  · intro field ctx va c hctx hwalks page mine
    have hexec := exec_pageWalk (va := va) hctx hwalks
    refine ⟨fun m t hm => ?_, fun hm => hexec.trans (congrArg _ (walkPage_of_no_miss hm))⟩
    have hserve := hexec.trans (congrArg _ (walkPage_of_miss hm))
    have hpage : m.page = page := page_of_find?_isFor hm
    refine ⟨fun hwalk => ?_, ?_⟩
    · rw [hserve, hwalk, State.serveMiss, hpage]; rfl
    · intro p hwalk u
      rw [hserve, hwalk, State.serveMiss, hpage]; rfl
  · intro field ctx vpage pte c m hctx hreach t hm
    exact exec_fillResponse hctx hreach rfl hm
  · intro field vault hpresent honline bit
    obtain ⟨x, hx⟩ := field?_of_present hpresent
    refine ⟨fun y hy hvault hremap hmirror => ?_, fun hvault => ?_⟩
    · exact (exec_vaultEccError hpresent honline false).trans (congrArg _ (consultRemap_of_one hy hvault hremap hmirror))
    · exact (exec_vaultEccError hpresent honline true).trans (congrArg _ (consultRemap_of_both hx hvault))

end Sys2Proof.Machine
end

section
/-! The events of handles, windows and peer modules (R227, R420 to R424, R427): what each does when it is enabled. -/

namespace Sys2Proof.Machine

open Sys2Proof

/-! ## Commands of the window slot (R421, R422, R424) -/

section
variable {s : State} {field : Nat} (hreach : s.hostReach field = true)
include hreach

theorem exec_exportHandle {ctx target len i : Nat} {base : Dword} {c : Context} {t : State}
    (ht : s.slotWords field 0x1200 1 [BitVec.ofNat 32 ctx, loWord base, hiWord base, BitVec.ofNat 32 target, BitVec.ofNat 32 len] = t)
    (hctx : t.ctx? field ctx = some c) (hstate : c.state ≠ .killed) (hgood : t.exportable c base.toNat target len = true)
    (hfree : t.freeHandle c.field = some i) :
    let gen := nextGen (((t.handle? c.field i).map (·.gen)).getD 0)
    let h : Handle :=
      { field := c.field, index := i, modul := t.moduleOf c.field, state := 1, gen := gen, ctx := c.ctxid, target := target,
        base := base.toNat, len := len, mask := 0, drains := [], byHost := false }
    let v := handleOf h.modul c.field i gen
    let u : State := { t with handles := t.handles.filter (fun x => !(x.field == c.field && x.index == i)) ++ [h] }
    exec (.exportHandle field ctx base target len) s =
      .next (((u.setReg c.field 0x1228 (loWord v)).setReg c.field 0x122C (hiWord v)).windowStatus c.field 0) := by
  refine (ite_hostReach hreach _ _).trans ?_
  simp only [ht, hctx, if_neg hstate, State.exportRegion, hgood, hfree, Bool.not_true, Bool.false_eq_true, if_false]

theorem exec_revoke {handle : Dword} {h : Handle} {t : State}
    (ht : s.slotWords field 0x1200 2 [0, 0, 0, 0, 0, loWord handle, hiWord handle] = t)
    (hentry : t.handle? field (handleEntry handle) = some h) (hgen : handle = handleOf h.modul field h.index h.gen) (hstate : h.state = 1) :
    exec (.revoke field handle) s = .next (t.revokeEntry field h.index true).settleDestroys := by
  refine (ite_hostReach hreach _ _).trans ?_
  simp only [ht, hentry, if_neg (not_not_intro hgen), if_neg (not_not_intro hstate)]

theorem exec_bind {ctx slot : Nat} {c : Context} {t : State} {r : State × List Byte}
    (ht : s.slotWords field 0x1200 3 [BitVec.ofNat 32 ctx, BitVec.ofNat 32 slot] = t)
    (hr : t.engineRead ((List.range 32).map fun i => physKey 0 field (c.wintab.toNat + 32 * slot + i)) = r)
    (hslot : slot < 256) (hctx : t.ctx? field ctx = some c) (hstate : c.state ≠ .killed) (hfree : c.win? slot = none)
    (hgood : r.1.bindBad c r.2 = false) :
    exec (.bind field ctx slot) s = .next ((r.1.bindWindow c slot r.2).windowStatus field 0) := by
  have hbinds : ¬(c.state = .killed ∨ (c.win? slot).isSome = true) := by simp [hstate, hfree]
  refine (ite_hostReach hreach _ _).trans ?_
  simp only [ht, hctx, if_neg (Nat.not_le.mpr hslot), if_neg hbinds, hr, hgood, Bool.false_eq_true, if_false]

theorem exec_unbind {ctx slot : Nat} {c : Context} {w : WinSlot} {t : State}
    (ht : s.slotWords field 0x1200 4 [BitVec.ofNat 32 ctx, BitVec.ofNat 32 slot] = t) (hslot : slot < 256)
    (hctx : t.ctx? field ctx = some c) (hbound : c.win? slot = some w) :
    exec (.unbind field ctx slot) s =
      .next ((t.modCtx field ctx fun x => { x with wins := x.wins.filter fun w => w.slot != slot }).windowStatus field 0) := by
  refine (ite_hostReach hreach _ _).trans ?_
  simp only [ht, hctx, if_neg (Nat.not_le.mpr hslot), hbound, Option.isNone_some, Bool.false_eq_true, if_false]

end

/-! ## Notices, markers and counts (R424, R425, R427) -/

theorem exec_revocationNotice {s : State} {field : Nat} {handle : Dword} {n : Notice}
    (hn : ({ field := field, handle := handle, marker := false } : Notice) = n) (hmem : n ∈ s.notices) :
    exec (.revocationNotice field handle) s = .next { s with
      contexts := mapWhere (fun c => c.field == field) (fun (c : Context) => { c with
        wins := mapWhere (fun w => w.handle == handle) (fun (w : WinSlot) => { w with revoked := true }) c.wins }) s.contexts
      notices := s.notices.erase n ++ [{ n with marker := true }] } := by
  have hgo : ¬(!s.notices.contains n) = true := by simp [hmem]
  subst hn
  exact if_neg hgo

theorem exec_drainMarker {s : State} {field fromField : Nat} {handle : Dword} {n : Notice}
    (hn : ({ field := fromField, handle := handle, marker := true } : Notice) = n) (hfield : handleField handle = field)
    (hitems : s.itemsIn fromField handle = true) (hmem : n ∈ s.notices) :
    exec (.drainMarker field fromField handle) s =
      .next (((State.modHandle { s with notices := s.notices.erase n } field (handleEntry handle) fun h =>
        if h.gen = handleGen handle then { h with drains := h.drains.filter (· != fromField) } else h).freeEntry
          field (handleEntry handle)).settleDestroys) := by
  have hgo : ¬(handleField handle ≠ field ∨ (!s.notices.contains n) = true ∨ (!s.itemsIn fromField handle) = true) := by
    simp [hfield, hmem, hitems]
  subst hn
  exact if_neg hgo

theorem exec_countDoorbell {s : State} {field entry : Nat} {gen : Word} {h : Handle} (hentry : s.handle? field entry = some h)
    (hreach : s.hostReach field = true) (hstate : h.state = 1) (hgen : h.gen = gen) :
    exec (.countDoorbell field entry gen) s = .next (s.countDst (handleOf h.modul field entry gen)) := by
  show execCountDoorbell field entry gen s = _
  simp only [execCountDoorbell, hentry, hreach, hstate, hgen, beq_self_eq_true, Bool.and_self, if_true]

/-! ## Flushing reads (R227, R427) -/

theorem exec_flushingRead_host {s : State} {id : Nat} (h : ∃ x ∈ s.hostWrites, x.1 = id) :
    exec (.flushingReadComplete id true) s = .next (s.hostCover id).settleSignals := by
  have hany : (s.hostWrites.any fun (x : Nat × Nat × Nat) => x.1 == id) = true := by simpa using h
  exact if_pos hany

theorem exec_flushingRead_peer {s : State} {id : Nat} {h : Dword} (good : Bool) (hhost : ∀ x ∈ s.hostWrites, x.1 ≠ id)
    (hitem : s.peerItem id = some h) :
    let same : Dword → Bool := fun x => handleModule x == handleModule h && handleField x == handleField h
    let t : State := { s with posts := s.posts.filter fun p => !(decide (p.flight ≤ id) && same p.handle) }
    exec (.flushingReadComplete id good) s = .next (State.settleMoved
      ((s.areqs.filter fun r => r.peer && r.applied && decide (r.id ≤ id) && same r.handle).foldl (fun s r => s.peerRed good r)
        ((s.flights.filter fun f => f.peer && f.applied && decide (f.id ≤ id) && same f.handle).foldl (fun s f => s.peerEnd good f) t))) := by
  have hany : (s.hostWrites.any fun (x : Nat × Nat × Nat) => x.1 == id) = false :=
    List.any_eq_false.mpr fun x hx h => hhost x hx (beq_iff_eq.mp h)
  show execFlushingReadComplete id good s = _
  simp only [execFlushingReadComplete, hany, hitem, Bool.false_eq_true, if_false]

/-- Settles O49: each command and each event that is enabled takes its one step. -/
theorem windowEvents : Obligations.WindowEvents := by
  intro s
  refine ⟨?_, ?_, ?_, ?_, ?_, fun field entry gen h hentry hreach hstate hgen => exec_countDoorbell hentry hreach hstate hgen,
    fun id good h hhost hitem => exec_flushingRead_peer good hhost hitem, fun id h => exec_flushingRead_host h⟩
  · exact fun field ctx base target len i c hreach => exec_exportHandle hreach rfl
  · exact fun field handle h hreach => exec_revoke hreach rfl
  · exact fun field ctx slot c hreach hslot => ⟨exec_bind hreach rfl rfl hslot, fun w => exec_unbind hreach rfl hslot⟩
  · exact fun field handle hmem => exec_revocationNotice rfl hmem
  · exact fun field fromField handle hfield hitems => exec_drainMarker rfl hfield hitems

end Sys2Proof.Machine
end

section
/-! The host's accesses (R284, R419, R426), the flits of a crossing (R412 to R414), bring-up (R428), power, heat, machine checks and wear
(R429 to R434): what each event does when it is enabled. -/

namespace Sys2Proof.Machine

open Sys2Proof

/-! ## The host's accesses (R284, R419, R426) -/

@[simp] theorem remember_mem (s : State) (ks : List Nat) : (s.remember ks).mem = s.mem := by
  unfold State.remember
  split <;> rfl

@[simp] theorem putCells_mem (s : State) (cells : List Host.Cell) : (s.putCells cells).mem = memCells s.mem cells := remember_mem _ _

section
variable {s : State} {field : Nat} {addr : Dword} (hreach : s.hostReach field = true)
include hreach

/-- A write of the host, or of a peer inside its entry, puts the bytes below MEMBYTES in memory. -/
theorem exec_bar4Write {data : List Byte} {peer : Option (Nat × Word)}
    (hfits : ∀ e g, peer = some (e, g) → s.peerFits field e g addr.toNat data.length = true) :
    let cells := (data.zipIdx.filter fun x => s.hasByte field (addr.toNat + x.2)).map fun x => (physKey 0 field (addr.toNat + x.2), x.1)
    exec (.bar4Write field addr ⟨data, peer⟩) s = .next ((s.evictLines (dedupNat (cells.map fun c => lineOf c.1))).putCells cells) := by
  intro cells
  have hgood : ¬(peer.any fun (x : Nat × Word) => !s.peerFits field x.1 x.2 addr.toNat data.length) = true := by
    cases peer with
    | none => exact Bool.false_ne_true
    | some x => simp [hfits x.1 x.2 rfl]
  exact (ite_hostReach hreach _ _).trans (if_neg hgood)

/-- A peer's write outside its entry is dropped and logged. -/
theorem exec_bar4Write_dropped {data : List Byte} {e : Nat} {g : Word} (hout : s.peerFits field e g addr.toNat data.length = false) :
    exec (.bar4Write field addr ⟨data, some (e, g)⟩) s = .next (s.logError ((s.someWord 0).toNat % 256) field e addr.toNat) := by
  have hbad : ((some (e, g)).any fun (x : Nat × Word) => !s.peerFits field x.1 x.2 addr.toNat data.length) = true := by simp [hout]
  exact (ite_hostReach hreach _ _).trans (if_pos hbad)

theorem exec_bar4Read (len : Nat) :
    let t := s.roundShadows ((List.range len).map fun i => physKey 0 field (addr.toNat + i))
    exec (.bar4Read field addr len) s = .next { t with hostData := (List.range len).map fun i => t.bar4Byte field (addr.toNat + i) } :=
  ite_hostReach hreach _ _

theorem exec_hostAtomicop {op : BitVec 2} {w64 : Bool} (operand compare : Dword) (hop : op ≠ 3)
    (halign : addr.toNat % (if w64 then 8 else 4) = 0) (hmem : s.hasByte field (addr.toNat + (if w64 then 8 else 4) - 1) = true) :
    let n := if w64 then 8 else 4
    let k := physKey 0 field addr.toNat
    let t := s.roundShadows ((List.range n).map (k + ·))
    exec (.hostAtomicop field addr op w64 operand compare) s =
      .next { t.putNat k n (hostAtomic op (8 * n) (t.readNat k n) operand.toNat compare.toNat) with hostData := leBytes n (t.readNat k n) } := by
  have hgo : ¬((!s.hostReach field) = true ∨ op = 3 ∨ addr.toNat % (if w64 then 8 else 4) ≠ 0 ∨
      (!s.hasByte field (addr.toNat + (if w64 then 8 else 4) - 1)) = true) := by
    rintro (h | h | h | h)
    · simp [hreach] at h
    · exact hop h
    · exact h halign
    · simp [hmem] at h
  exact if_neg hgo

theorem exec_registerWrite {offset : Nat} {value : Word} (halign : offset % 4 = 0) (hsize : offset < 2 ^ 16)
    (hpart : partWord offset = false) (hacts : actingWord offset value.toNat = false) :
    exec (.registerWrite field offset value) s =
      .next (((s.setReg field offset value).modField field fun x => x.hostWord offset value).unknownCommand field offset) := by
  have hgo : ¬((!s.hostReach field) = true ∨ offset % 4 ≠ 0 ∨ 2 ^ 16 ≤ offset ∨ partWord offset = true ∨
      actingWord offset value.toNat = true) := by
    rintro (h | h | h | h | h)
    · simp [hreach] at h
    · exact h halign
    · exact Nat.not_lt.mpr h hsize
    · exact Bool.false_ne_true (hpart.symm.trans h)
    · exact Bool.false_ne_true (hacts.symm.trans h)
  exact if_neg hgo

end

/-- A peer's write lies inside an EXPORTED entry of its GEN that covers it. -/
theorem peerFits_of_covering {s : State} {f e addr len : Nat} {g : Word} {h : Handle} (hentry : s.handle? f e = some h) (hstate : h.state = 1)
    (hgen : h.gen = g) (htarget : h.target = 0) (hbase : h.base ≤ addr) (hend : addr + len ≤ h.base + h.len * 2 ^ 12) :
    s.peerFits f e g addr len = true := by
  simp only [State.peerFits, hentry, hstate, hgen, htarget, hbase, hend, beq_self_eq_true, decide_true, Bool.and_self]

/-- It lies in none where the entry is not EXPORTED under its GEN. -/
theorem peerFits_of_no_entry {s : State} {f e : Nat} {g : Word} (h : ∀ h, s.handle? f e = some h → h.state ≠ 1 ∨ h.gen ≠ g) (addr len : Nat) :
    s.peerFits f e g addr len = false := by
  unfold State.peerFits
  cases hentry : s.handle? f e with
  | none => rfl
  | some x =>
    rcases h x hentry with hstate | hgen
    · simp [hstate]
    · simp [hgen]

/-! ## The state of a module of a crossing (R413) -/

@[simp] theorem ackedTo_dir (q : FlitSeq) (a : Nat) : (q.ackedTo a).dir = q.dir := by
  simp only [FlitSeq.ackedTo]
  split <;> rfl
@[simp] theorem ackedTo_modul (q : FlitSeq) (a : Nat) : (q.ackedTo a).modul = q.modul := by
  simp only [FlitSeq.ackedTo]
  split <;> rfl
@[simp] theorem refused_dir (q : FlitSeq) (a : Nat) : (q.refused a).dir = q.dir := by
  simp only [FlitSeq.refused, ackedTo_dir]
@[simp] theorem refused_modul (q : FlitSeq) (a : Nat) : (q.refused a).modul = q.modul := by
  simp only [FlitSeq.refused, ackedTo_modul]

/-- The state of a direction of a module is of that direction and module. -/
theorem seq_dir_modul (c : Crossing) (dir modul : Nat) : (c.seq dir modul).dir = dir ∧ (c.seq dir modul).modul = modul := by
  unfold Crossing.seq
  cases h : c.seqs.find? fun q => q.dir == dir && q.modul == modul with
  | none => exact ⟨rfl, rfl⟩
  | some q => simpa using List.find?_some h

theorem seq_putSeq (c : Crossing) (q : FlitSeq) : (c.putSeq q).seq q.dir q.modul = q := by
  have hrest : (c.seqs.filter fun x => !(x.dir == q.dir && x.modul == q.modul)).find? (fun x => x.dir == q.dir && x.modul == q.modul) = none :=
    List.find?_eq_none.mpr fun x hx h => by simpa [h] using (List.mem_filter.mp hx).2
  have hself : [q].find? (fun x => x.dir == q.dir && x.modul == q.modul) = some q := by simp
  simp only [Crossing.seq, Crossing.putSeq, List.find?_append, hrest, hself, Option.none_or, Option.getD_some]

theorem crossing?_modCrossing {s : State} {i : Nat} {c : Crossing} {g : Crossing → Crossing} (hg : ∀ c, (g c).index = c.index)
    (hc : s.crossing? i = some c) : (s.modCrossing i g).crossing? i = some (g c) :=
  (find?_mapWhere (fun y hy => by rwa [hg y]) s.crossings).trans (congrArg (Option.map g) hc)

/-- A crossing after a negative acknowledgement: its sender sends again, and with the eighth in a row lane repair is at work (R413). -/
def nackedCrossing (dir modul ack : Nat) (c : Crossing) : Crossing :=
  let q := (c.seq dir modul).refused ack
  let c := c.putSeq q
  if 8 ≤ q.nacks then { c with repairing := c.repairing ||| (1#16 <<< modul) } else c

theorem nack_eq (s : State) (crossing dir modul ack : Nat) :
    s.nack crossing dir modul ack = s.modCrossing crossing (nackedCrossing dir modul ack) := rfl

theorem nacked_index (dir modul ack : Nat) (c : Crossing) : (nackedCrossing dir modul ack c).index = c.index := by
  simp only [nackedCrossing]
  split <;> rfl

theorem nacked_seq (dir modul ack : Nat) (c : Crossing) : (nackedCrossing dir modul ack c).seq dir modul = (c.seq dir modul).refused ack := by
  have hput := seq_putSeq c ((c.seq dir modul).refused ack)
  rw [refused_dir, refused_modul, (seq_dir_modul c dir modul).1, (seq_dir_modul c dir modul).2] at hput
  simp only [nackedCrossing]
  split <;> exact hput

theorem nacked_repairing (dir modul ack : Nat) (c : Crossing) : (nackedCrossing dir modul ack c).repairing =
    if 8 ≤ ((c.seq dir modul).refused ack).nacks then c.repairing ||| (1#16 <<< modul) else c.repairing := by
  simp only [nackedCrossing]
  split <;> rfl

/-! ## Flits and lane repair (R410, R412 to R414) -/

section
variable {s : State} {crossing dir modul : Nat} {c : Crossing} (hcarries : s.carries crossing dir modul = some c)
include hcarries

/-- A flit that breaks the table is discarded, and its receiver owes a negative acknowledgement. -/
theorem exec_flitReceive_bad {flit : List Byte} (hbad : flitBad flit = true) :
    exec (.flitReceive crossing dir modul flit) s =
      .next (s.modCrossing crossing fun x => x.putSeq { (c.seq dir modul).sentBad (s.someBit 0) with nackDue := true }) := by
  show execFlitReceive crossing dir modul flit s = _
  simp only [execFlitReceive, hcarries, hbad, if_true]

/-- A good data flit is accepted where its SEQ is the one expected, and discarded otherwise. -/
theorem exec_flitReceive_data {flit : List Byte} {q : FlitSeq} (hgood : flitBad flit = false) (hdata : flType flit = 1)
    (hsent : (c.seq dir modul).sent flit = some q) (hlanes : ∀ p ∈ flitPackets 16 (flPayload flit), c.laneFits modul p = true)
    (hctl : flCtl flit ≠ 1 ∨ (c.seq (1 - dir) modul).nackDue = true) :
    exec (.flitReceive crossing dir modul flit) s = .next (
      if flSeq flit ≠ (c.seq dir modul).expect then s.modCrossing crossing fun x => x.putSeq { q with nackDue := true }
      else (s.modCrossing crossing fun x => x.putSeq { q with expect := ((c.seq dir modul).expect + 1) % 2 ^ 16 }).takeFlit
        crossing dir modul flit) := by
  have hall : (flitPackets 16 (flPayload flit)).all (fun p => c.laneFits modul p) = true := List.all_eq_true.mpr hlanes
  have hgo : ¬((!(flitPackets 16 (flPayload flit)).all fun p => c.laneFits modul p) = true ∨
      (flCtl flit = 1 ∧ (!(c.seq (1 - dir) modul).nackDue) = true)) := by
    rcases hctl with h | h <;> simp [hall, h]
  show execFlitReceive crossing dir modul flit s = _
  simp only [execFlitReceive, hcarries, hgood, hsent, hdata, if_true, if_neg hgo, Bool.false_eq_true, if_false, true_and]
  by_cases hseq : flSeq flit ≠ (c.seq dir modul).expect
  · simp only [if_pos hseq]
  · simp only [if_neg hseq]

theorem exec_negativeAck (ack : BitVec 16) (hdue : (c.seq dir modul).nackDue = true) :
    exec (.negativeAck crossing dir modul ack) s = .next (s.modCrossing crossing (nackedCrossing dir modul ack.toNat)) := by
  show execNegativeAck crossing dir modul ack s = _
  simp only [execNegativeAck, hcarries, hdue, if_true, nack_eq]

end

theorem carries_of_healthy {s : State} {crossing dir modul : Nat} {c : Crossing} (hc : s.crossing? crossing = some c)
    (hup : s.crossingUp crossing = true) (hmodul : modul < 16) (hhealthy : c.healthy.getLsbD modul = true) (hdir : dir ≤ 1)
    (hrepair : c.repairing.getLsbD modul = false) : s.carries crossing dir modul = some c := by
  have hgo : ¬((!s.crossingUp crossing) = true ∨ 1 < dir ∨ 16 ≤ modul ∨ (!c.healthy.getLsbD modul) = true ∨
      c.repairing.getLsbD modul = true) := by
    simp [hup, hhealthy, hrepair, Nat.not_lt.mpr hdir, Nat.not_le.mpr hmodul]
  simp only [State.carries, hc, if_neg hgo]

section
variable {s : State} {crossing modul : Nat} {c : Crossing} (hc : s.crossing? crossing = some c) (hup : s.crossingUp crossing = true)
  (hmodul : modul < 16) (hhealthy : c.healthy.getLsbD modul = true)
include hc hup hmodul hhealthy

theorem exec_laneRepair_repaired :
    exec (.laneRepair crossing modul true) s = .next ((s.modCrossing crossing fun c => { c with
      repairing := c.repairing &&& ~~~(1#16 <<< modul)
      seqs := mapWhere (fun q => q.modul == modul) FlitSeq.resend c.seqs }).logError 4 c.fa modul 0) := by
  have hgo : ¬((!s.crossingUp crossing) = true ∨ 16 ≤ modul ∨ (!c.healthy.getLsbD modul) = true) := by
    simp [hup, hhealthy, Nat.not_le.mpr hmodul]
  show execLaneRepair crossing modul true s = _
  simp only [execLaneRepair, hc, if_neg hgo, if_true]

/-- A module that cannot be repaired is disabled; with four left the crossing goes on. -/
theorem exec_laneRepair_disabled {t : State} {d : Crossing} (ht : (s.modCrossing crossing fun c => c.disable modul).logError 5 c.fa modul 0 = t)
    (hd : t.crossing? crossing = some d) (hleft : 4 ≤ ((List.range 16).filter fun k => d.healthy.getLsbD k).length) :
    exec (.laneRepair crossing modul false) s = .next t := by
  have hgo : ¬((!s.crossingUp crossing) = true ∨ 16 ≤ modul ∨ (!c.healthy.getLsbD modul) = true) := by
    simp [hup, hhealthy, Nat.not_le.mpr hmodul]
  show execLaneRepair crossing modul false s = _
  simp only [execLaneRepair, hc, if_neg hgo, ht, hd, Option.any_some, decide_eq_true hleft, Bool.false_eq_true, if_false, if_true]

end

theorem exec_crossingFailure {s : State} {crossing : Nat} (hup : s.crossingUp crossing = true) :
    exec (.crossingFailure crossing) s = .next (s.failCrossing crossing) := by
  show execCrossingFailure crossing s = _
  simp only [execCrossingFailure, hup, if_true]

/-! ## Bring-up (R428) -/

theorem exec_bringUp_of_good_image {s : State} {signature : Bool} (h : s.powerOn.imageGood signature = true)
    (report : List (Bool × BitVec 40 × BitVec 40 × BitVec 40)) (modules : List Nat) :
    exec (.bringUp signature report modules) s = .next { s.powerOn with
      hostLink := true
      functions := 1
      crossings := s.powerOn.crossings.map fun c => { c with cstate := 1 }
      agenda := .trained report modules :: s.powerOn.agenda } := by
  rw [exec, execBringUp, h, if_pos rfl]
  rfl

theorem imageGood_of_checks {s : State} (hkey : s.flash.keyDigest = s.fuses.keyDigest) (hversion : s.fuses.version ≤ s.flash.version) :
    s.imageGood true = true := by
  simp only [State.imageGood, hkey, hversion, beq_self_eq_true, decide_true, Bool.and_self]

/-! ## Power, heat, machine checks and wear (R429 to R434) -/

/-- A sample joins the last 100, and a clock that was stopped runs again (R429). -/
def State.sampled (s : State) (milliwatts : Nat) : State :=
  { s with power := (milliwatts :: s.power).take 100, fields := s.fields.map fun x => { x with stopped := false } }

section
variable {s : State} {milliwatts n sum : Nat} (load : List Nat) (hn : ((milliwatts :: s.power).take 100).length = n)
  (hsum : ((milliwatts :: s.power).take 100).foldl (· + ·) 0 = sum)
include hn hsum

theorem exec_powerSample_high (h : 850000 * n < sum) :
    exec (.powerSample milliwatts load) s = .next (State.throttle load { s.sampled milliwatts with powerLow := 0 }) := by
  subst hn hsum
  exact if_pos h

theorem exec_powerSample_between (hlow : 800000 * n ≤ sum) (hhigh : sum ≤ 850000 * n) :
    exec (.powerSample milliwatts load) s = .next { s.sampled milliwatts with powerLow := 0 } := by
  subst hn hsum
  exact (if_neg (Nat.not_lt.mpr hhigh)).trans (if_pos hlow)

theorem exec_powerSample_low (h : sum < 800000 * n) :
    exec (.powerSample milliwatts load) s = .next (
      if s.powerLow + 1 < 100 then { s.sampled milliwatts with powerLow := s.powerLow + 1 }
      else State.unthrottle { s.sampled milliwatts with powerLow := 0 }) := by
  have hhigh : ¬850000 * n < sum := by omega
  have hlow : ¬800000 * n ≤ sum := Nat.not_le.mpr h
  subst hn hsum
  exact (if_neg hhigh).trans ((if_neg hlow).trans (apply_ite _ _ _ _).symm)

end

section
variable {s : State} {field : Nat} {low high : List Nat} (valves : List Nat) (hpresent : s.present field = true)
include hpresent

theorem exec_thermalSample_cool (hcool : ∀ z, z < 4 → hottest (sensorsOf low high) z < 1150) :
    exec (.thermalSample field low high valves) s = .next (s.modField field fun x => x.heat (sensorsOf low high) valves) := by
  have hnone : (List.range 4).find? (fun z => decide (1150 ≤ hottest (sensorsOf low high) z)) = none :=
    List.find?_eq_none.mpr fun z hz h => Nat.not_lt.mpr (of_decide_eq_true h) (hcool z (List.mem_range.mp hz))
  show execThermalSample field low high valves s = _
  simp only [execThermalSample, hpresent, hnone, Bool.not_true, Bool.false_eq_true, if_false]

/-- The first zone at 115 °C stops the field. -/
theorem exec_thermalSample_trip {z : Nat} (hz : z < 4) (hhot : 1150 ≤ hottest (sensorsOf low high) z)
    (hfirst : ∀ y, y < z → hottest (sensorsOf low high) y < 1150) :
    exec (.thermalSample field low high valves) s =
      .next ((s.modField field fun x => x.heat (sensorsOf low high) valves).stopField field 7 z) := by
  have hsome : (List.range 4).find? (fun z => decide (1150 ≤ hottest (sensorsOf low high) z)) = some z :=
    List.find?_range_eq_some.mpr ⟨decide_eq_true hhot, List.mem_range.mpr hz, fun y hy => by simp [hfirst y hy]⟩
  show execThermalSample field low high valves s = _
  simp only [execThermalSample, hpresent, hsome, Bool.not_true, Bool.false_eq_true, if_false]

theorem exec_machineCheck : exec (.machineCheck field) s = .next (s.stopField field 6 0) := by
  show execMachineCheck field s = _
  simp only [execMachineCheck, hpresent, if_true]

end

theorem exec_wearUpdate {s : State} {field : Nat} {x : Field} (life hours corrected : Nat) (hx : s.field? field = some x)
    (hstate : x.fstate ≠ 0) :
    exec (.wearUpdate field life hours corrected) s = .next { s with
      wear := s.wear.filter (fun y => y.field != field) ++
        [{ field := field, life := life % 2 ^ 16, hours := hours % 2 ^ 32, corrected := corrected % 2 ^ 64 }] } := by
  have hgo : ¬(!(s.field? field).any fun x => x.fstate != 0) = true := by simp [hx, hstate]
  exact if_neg hgo

/-- Settles O50: each event that is enabled takes its one step. -/
theorem hostAndLinkEvents : Obligations.HostAndLinkEvents := by
  intro s
  refine ⟨fun field addr hreach => ⟨fun data peer => ?_, putCells_mem, fun len => exec_bar4Read hreach len, ?_,
      fun offset value halign hsize hpart hacts => exec_registerWrite hreach halign hsize hpart hacts⟩,
    fun crossing dir modul c hc hup hmodul hhealthy hdir => ⟨fun hrepair => ?_, exec_laneRepair_repaired hc hup hmodul hhealthy, ?_,
      exec_crossingFailure hup⟩,
    fun report modules signature => ⟨fun hsig hkey hversion => ?_, fun hsig => ?_⟩, rfl, fun milliwatts load => ⟨?_, ?_, ?_, ?_⟩,
    fun field low high valves hpresent => ⟨exec_thermalSample_cool valves hpresent, fun z => exec_thermalSample_trip valves hpresent⟩,
    fun field hpresent => exec_machineCheck hpresent,
    fun field life hours corrected x hx hstate => exec_wearUpdate life hours corrected hx hstate⟩
  · intro cells t
    refine ⟨fun hcovers => exec_bar4Write hreach fun e g hpeer => ?_, fun e g hpeer hout => ?_⟩
    · obtain ⟨h, hentry, hstate, hgen, htarget, hbase, hend⟩ := hcovers e g hpeer
      exact peerFits_of_covering hentry hstate hgen htarget hbase hend
    · subst hpeer
      exact exec_bar4Write_dropped hreach (peerFits_of_no_entry hout _ _)
  · intro op w64 operand compare n hop halign hmem
    exact exec_hostAtomicop hreach operand compare hop halign hmem
  · have hcarries := carries_of_healthy hc hup hmodul hhealthy hdir hrepair
    refine ⟨fun flit q hgood hdata hsent hlanes hctl => ?_, fun flit hbad => exec_flitReceive_bad hcarries hbad, fun ack hdue => ?_⟩
    · have hexec := exec_flitReceive_data hcarries hgood hdata hsent hlanes hctl
      exact ⟨fun hseq => hexec.trans (congrArg _ (if_neg (not_not_intro hseq))), fun hseq => hexec.trans (congrArg _ (if_pos hseq))⟩
    · exact ⟨_, _, exec_negativeAck hcarries ack hdue, crossing?_modCrossing (nacked_index _ _ _) hc, nacked_seq _ _ _ c,
        nacked_repairing _ _ _ c⟩
  · intro t d hd hleft
    exact exec_laneRepair_disabled hc hup hmodul hhealthy rfl hd hleft
  · subst hsig
    exact exec_bringUp_of_good_image (imageGood_of_checks hkey hversion) report modules
  · subst hsig
    exact exec_bringUp_of_bad_image (imageGood_of_bad_signature _) report modules
  · exact exec_powerSample_high load rfl rfl
  · exact exec_powerSample_between load rfl rfl
  · exact fun h hcount => (exec_powerSample_low load rfl rfl h).trans (congrArg _ (if_pos (Nat.add_lt_add_right hcount 1)))
  · exact fun h hcount => (exec_powerSample_low load rfl rfl h).trans (congrArg _ (if_neg (Nat.not_lt.mpr (Nat.add_le_add_right hcount 1))))

end Sys2Proof.Machine
end

section
/-! The events of launches, blocks and populations (R300 to R306, R310 to R313, R372, R377): what each does when it is enabled. -/

namespace Sys2Proof.Machine

open Sys2Proof

/-! ## Acceptance and dispatch (R301, R303, R304, R306) -/

section
variable {s : State} {launch : Nat} {l : Launch} (hl : s.launch? launch = some l)
include hl

theorem exec_launchAccept {c : Context} {t : State} {b : List Byte} (hctx : s.ctx? l.field l.ctx = some c) (hstate : l.state = .submitted)
    (hread : s.readLaunch c [0, 1, 2] l.record = .ok (t, b, true)) : exec (.launchAccept launch) s = .next (t.accept c l b) := by
  show execLaunchAccept launch s = _
  simp only [execLaunchAccept, hl, hctx, if_neg (not_not_intro hstate), hread, if_true]

theorem exec_blockDispatch {q core : Nat} {n : Launch} {c : Context} (hq : s.queueOf l = some q) (hwait : s.queueWait l.field q = none)
    (hturn : s.hasTurn l.field q = some c) (hnext : s.nextLaunch l.field q = some n) (hown : n.uid = l.uid) (hwhole : l.whole = false)
    (hjoins : (s.queueJoins l.field q).any (fun (x : Block × Launch) => x.2.uid == l.uid) = false)
    (hcore : s.emptiest (openCores l (s.takes l)) = some core) :
    exec (.blockDispatch launch) s = .next (s.choose l.field c.coremask q fun t => t.dispatchTo l core) := by
  have hgo : ¬(n.uid ≠ l.uid ∨ l.whole = true ∨
      (s.queueJoins l.field q).any (fun (x : Block × Launch) => x.2.uid == l.uid) = true) := by
    rw [hown, hwhole, hjoins]
    simp only [ne_eq, not_true_eq_false, Bool.false_eq_true, or_self, not_false_eq_true]
  show execBlockDispatch launch s = _
  simp only [execBlockDispatch, hl, hq, hwait, hturn, hnext, if_neg hgo, hcore]

theorem exec_gangDispatch {q : Nat} {n : Launch} {c : Context} {cores : List Nat} (hq : s.queueOf l = some q)
    (hwait : s.queueWait l.field q = none) (hturn : s.hasTurn l.field q = some c) (hnext : s.nextLaunch l.field q = some n)
    (hcores : s.gangCores l = some cores) (hown : n.uid = l.uid) (hwhole : l.whole = true) :
    exec (.gangDispatch launch) s = .next (s.choose l.field c.coremask q fun t => t.dispatchWhole l cores) := by
  have hgo : ¬(n.uid ≠ l.uid ∨ (!l.whole) = true) := by simp [hown, hwhole]
  show execGangDispatch launch s = _
  simp only [execGangDispatch, hl, hq, hwait, hturn, hnext, hcores, if_neg hgo]

end

theorem exec_joinResume {s : State} {block q core : Nat} {b : Block} {l : Launch} {c : Context} (hb : s.block? block = some b)
    (hl : s.launch? b.launch = some l) (hq : s.queueOf l = some q) (hstate : b.state = .swapped) (hchildren : b.children = 0)
    (hmovable : s.movable b = true) (himage : s.imageHere l b = true) (hwait : s.queueWait l.field q = none)
    (hturn : s.hasTurn l.field q = some c) (hcore : s.emptiest (s.joinCores b l) = some core) :
    exec (.joinResume block) s = .next (s.choose l.field c.coremask q fun t => (t.packBlock b core).acquire core 2) := by
  have hgo : ¬(b.state ≠ .swapped ∨ b.children ≠ 0 ∨ (!s.movable b) = true ∨ (!s.imageHere l b) = true) := by
    simp [hstate, hchildren, hmovable, himage]
  show execJoinResume block s = _
  simp only [execJoinResume, hb, hl, hq, if_neg hgo, hwait, hturn, hcore]

/-! ## Retirement and completion (R300, R305) -/

theorem block?_uid {s : State} {u : Nat} {b : Block} (h : s.block? u = some b) : b.uid = u := by
  simpa using List.find?_some h

section
variable {s : State} {block cycles : Nat} {b : Block} {l : Launch} (hb : s.block? block = some b) (hl : s.launch? b.launch = some l)
  (hwait : (s.queueOf l).bind (s.queueWait l.field) = none)
include hb hl hwait

/-- A block outside a population retires alone. -/
theorem exec_blockRetire_alone (hkind : l.kind ≠ 2) (hmay : s.mayRetire b = true) :
    exec (.blockRetire block cycles) s = .next ((s.retireBlock l b cycles).freeAccums.restCtx l.field l.ctx) := by
  show execBlockRetire block cycles s = _
  simp only [execBlockRetire, hb, hl, hwait, if_neg hkind, List.all_cons, List.all_nil, hmay, Bool.and_true, Bool.not_true, Bool.false_eq_true,
    if_false, List.foldl_cons, List.foldl_nil, if_pos (block?_uid hb)]

/-- The blocks of a population retire together (R369). -/
theorem exec_blockRetire_population (hkind : l.kind = 2) (hmay : (s.launchBlocks l.uid).all s.mayRetire = true) :
    exec (.blockRetire block cycles) s =
      .next (((s.launchBlocks l.uid).foldl (fun t x => t.retireBlock l x (if x.uid = block then cycles else (s.someWord x.bid).toNat))
        s).freeAccums.restCtx l.field l.ctx) := by
  show execBlockRetire block cycles s = _
  simp only [execBlockRetire, hb, hl, hwait, if_pos hkind, hmay, Bool.not_true, Bool.false_eq_true, if_false]

end

/-- The charge of a block that retires goes to its launch's queue (R300). -/
theorem retireBlock_of_queue {s : State} {l : Launch} {b : Block} {cycles q : Nat}
    (hq : ((s.modBlock b.uid fun x => { x with state := .retired }).modLaunch l.uid fun x => { x with retired := x.retired + 1 }).queueOf l =
      some q) :
    s.retireBlock l b cycles =
      ((s.modBlock b.uid fun x => { x with state := .retired }).modLaunch l.uid fun x =>
        { x with retired := x.retired + 1 }).chargeQueue l.field q (cycles / 64) := by
  simp only [State.retireBlock, hq]

theorem state_ne_complete_of_mayComplete {s : State} {l : Launch} (h : s.mayComplete l = true) : l.state ≠ .complete := by
  intro hstate
  simp [State.mayComplete, hstate] at h

section
variable {s : State} {launch : Nat} {l : Launch} {c : Context} (hl : s.launch? launch = some l) (hctx : s.ctx? l.field l.ctx = some c)
include hl hctx

section
variable (hmay : s.mayComplete l = true)
include hmay

theorem exec_launchComplete_queued {q : Nat} (horigin : l.origin = .queue q) :
    exec (.launchComplete launch) s = .next (s.finishQueued l q) := by
  have hstate := state_ne_complete_of_mayComplete hmay
  show execLaunchComplete launch s = _
  simp only [execLaunchComplete, hl, hctx, if_neg hstate, hmay, horigin, Bool.not_true, Bool.false_eq_true, if_false]

theorem exec_launchComplete_child {b : Nat} (horigin : l.origin = .fork b) :
    exec (.launchComplete launch) s = .next (s.childOver l b) := by
  have hstate := state_ne_complete_of_mayComplete hmay
  show execLaunchComplete launch s = _
  simp only [execLaunchComplete, hl, hctx, if_neg hstate, hmay, horigin, Bool.not_true, Bool.false_eq_true, if_false]

end

theorem exec_launchComplete_done {v : State} (hstate : l.state = .complete) (hwrites : s.writesDone l.writers 3 = true)
    (hput : (s.forget l).putVirt c true l.done (leBytes 4 1) = .ok v) : exec (.launchComplete launch) s = .next v := by
  show execLaunchComplete launch s = _
  simp only [execLaunchComplete, hl, hctx, if_pos hstate, State.writeDone, hwrites, hput, Bool.not_true, Bool.false_eq_true, if_false]

end

/-! ## Populations (R372, R377) -/

theorem any_eq_false_of_forall {α : Type} {l : List α} {p : α → Bool} (h : ∀ x ∈ l, p x = false) : l.any p = false :=
  List.any_eq_false.mpr fun x hx => Bool.eq_false_iff.mp (h x hx)

/-- A population whose counted blocks have all arrived with nothing to report is resampled once its warps are quiet and its checks pass. -/
theorem exec_resample {s t : State} {launch : Nat} {p : Population} {l : Launch} {c : Context} {r : Rsmpl} {rs : List Rsmpl} {ms : List Member}
    (hp : s.pop? launch = some p) (hl : s.launch? launch = some l) (hstate : p.state = .gathering)
    (hrs : (s.countedBlocks launch).filterMap Block.rsmpl = r :: rs)
    (hblocks : ∀ b ∈ s.countedBlocks launch, b.rsmpl.isSome = true ∧ (b.state = .swapped → b.children = 0) ∧
      ∀ w ∈ s.warps, w.block = b.uid → w.mode ≠ .dormant → w.asyncs.any (releaseDep 1) = false)
    (hwarps : ∀ w ∈ s.launchWarps launch, w.mode ≠ .handler ∧ w.mode ≠ .held ∧ w.due = none)
    (hms : membersOf ((s.launchWarps launch).filter fun w => (s.countedBlocks launch).any fun b => b.uid == w.block) = ms)
    (ht : (s.launchWarps launch).foldl (fun s w => s.quiesce w.uid) s = t) (hquiet : t.popQuiet (s.launchWarps launch) = true)
    (hcheck : t.popCheck p ms (r :: rs) = none) (hctx : t.ctx? l.field l.ctx = some c) :
    exec (.resample launch) s = .next (t.resampleNow p l c ms r) := by
  have hhere : (s.countedBlocks launch).filter (fun b => b.rsmpl.isSome) = s.countedBlocks launch :=
    List.filter_eq_self.mpr fun b hb => (hblocks b hb).1
  have hsome : (s.countedBlocks launch).isEmpty = false := by
    cases hbs : s.countedBlocks launch with
    | nil => rw [hbs] at hrs; exact nomatch hrs
    | cons b bs => rfl
  have hmodes : (s.launchWarps launch).any (fun w => w.mode == .handler || w.mode == .held || w.due.isSome) = false := by
    refine any_eq_false_of_forall fun w hw => ?_
    obtain ⟨hhandler, hheld, hdue⟩ := hwarps w hw
    simp [hhandler, hheld, hdue]
  have hgather : ¬(p.state ≠ .gathering ∨ (s.countedBlocks launch).isEmpty = true ∨
      (s.launchWarps launch).any (fun w => w.mode == .handler || w.mode == .held || w.due.isSome) = true) := by
    rw [hsome, hmodes, hstate]
    decide
  have hreports : (s.countedBlocks launch).find? (fun b => s.warps.any fun w =>
      w.block == b.uid && w.mode != .dormant && w.asyncs.any (releaseDep 1)) = none := by
    refine List.find?_eq_none.mpr fun b hb => Bool.eq_false_iff.mp (any_eq_false_of_forall fun w hw => ?_)
    by_cases hown : w.block = b.uid ∧ w.mode ≠ .dormant
    · simp only [(hblocks b hb).2.2 w hw hown.1 hown.2, Bool.and_false]
    · have hskip : (w.block == b.uid && w.mode != .dormant) = false := by simpa using hown
      simp only [hskip, Bool.false_and]
  have hchildren : (s.countedBlocks launch).any (fun b => b.state == .swapped && b.children != 0) = false := by
    refine any_eq_false_of_forall fun b hb => ?_
    by_cases hswapped : b.state = .swapped
    · simp [(hblocks b hb).2.1 hswapped]
    · simp [hswapped]
  show Host.Outcome.next (s.popRendezvous launch) = _
  simp only [State.popRendezvous, hp, hl, hhere, if_neg hgather, hreports, hchildren, ht, hquiet, hms, hrs, hcheck, hctx, Nat.lt_irrefl,
    Bool.not_true, Bool.false_eq_true, if_false]

/-- The host's answer to a placement list: each clone goes to the lane that its entry names. -/
theorem exec_placementListAccept {s v : State} {launch op : Nat} {p : Population} {r : Rsmpl} {rs : List Rsmpl} {l : Launch} {c : Context}
    {ls : List (Nat × Nat)} {x y : State × List Byte} {ps : List Place} (hp : s.pop? launch = some p)
    (hrs : (s.countedBlocks launch).filterMap Block.rsmpl = r :: rs) (hl : s.launch? launch = some l)
    (hctx : s.ctx? l.field l.ctx = some c) (hstate : p.state = .placing) (hpost : p.post = some (op, true))
    (hresident : ∀ b ∈ s.countedBlocks launch, b.state = .resident) (hstatus : s.getVirt c p.plist 4 = .ok x) (htwo : leNat x.2 = 2)
    (hruns : x.1.checkRuns c .load ((List.range p.pending.length).map fun k => (p.plist + BitVec.ofNat 64 (68 + 8 * k), 4)) = .ok ps)
    (hy : x.1.unitLoad (ps.map (·.key)) = y)
    (hlanes : y.1.targetLanes p.launch ((List.range p.pending.length).map fun k => leNat ((y.2.drop (4 * k)).take 4)) = some ls)
    (hput : y.1.putVirt c true p.plist (leBytes 4 3) = .ok v) :
    exec (.placementListAccept launch) s = .next (((p.pending.zip ls).foldl (fun (s : State) (x : Clone × Nat × Nat) =>
      s.putClone x.2.1 x.2.2 x.1) v).finishResample p r) := by
  have hall : (s.countedBlocks launch).all (fun b => b.state == .resident) = true :=
    List.all_eq_true.mpr fun b hb => beq_iff_eq.mpr (hresident b hb)
  have hgo : ¬(p.state ≠ .placing ∨ (!(s.countedBlocks launch).all fun b => b.state == .resident) = true) := by
    simp [hstate, hall]
  have hrecs : (fun k => recNat y.2 (4 * k) 4) = fun k => leNat ((y.2.drop (4 * k)).take 4) := rfl
  show Host.Outcome.next (s.acceptList launch) = _
  simp only [State.acceptList, hp, hrs, hl, Option.bind_some, hctx, if_neg hgo, State.postList, hpost, hstatus, if_pos htwo, State.takeList,
    hruns, bind_ok, hy, hrecs, hlanes, State.answerList, hput]

/-! ## The watchdog (R313) -/

section
variable {s : State} {block : Nat} {b : Block} {l : Launch} {c : Context} (hb : s.block? block = some b) (hl : s.launch? b.launch = some l)
  (hctx : s.ctx? l.field l.ctx = some c) (hcounts : s.counts l b = true) (hlimit : c.wdoglim ≠ 0)
include hctx hcounts hlimit

/-- The cycles of the block count against a limit. -/
theorem not_idle_watchdog : ¬(!s.counts l b || (s.ctx? l.field l.ctx).all fun c => decide (c.wdoglim = 0)) = true := by
  simp [hctx, hcounts, hlimit]

include hb hl

/-- After progress, or at its first, the watchdog notes the step. -/
theorem exec_watchdog_notes (h : ∀ t, b.watch = some t → s.progressed b t = true) :
    exec (.watchdog block) s = .next (s.modBlock block fun x => { x with watch := some s.fresh }) := by
  have hgo := not_idle_watchdog hctx hcounts hlimit
  show execWatchdog block s = _
  cases hwatch : b.watch with
  | none => simp only [execWatchdog, hb, hl, if_neg hgo, hwatch]
  | some t => simp only [execWatchdog, hb, hl, if_neg hgo, hwatch, h t hwatch, if_true]

theorem exec_watchdog_kills {t : Nat} (hwatch : b.watch = some t) (hstuck : s.progressed b t = false) :
    exec (.watchdog block) s = .next (s.watchdogKill l b) := by
  have hgo := not_idle_watchdog hctx hcounts hlimit
  show execWatchdog block s = _
  simp only [execWatchdog, hb, hl, if_neg hgo, hwatch, hstuck, Bool.false_eq_true, if_false]

end

/-! ## The events together -/

/-- Settles O45: each event that is enabled takes its one step. -/
theorem launchEvents : Obligations.LaunchEvents := by
  intro s
  refine ⟨fun launch l c t b hl hctx hstate => exec_launchAccept hl hctx hstate,
    fun launch q core l n c hl hq hwait hturn hnext hown hwhole => exec_blockDispatch hl hq hwait hturn hnext hown hwhole,
    fun launch q l n c cores hl hq hwait hturn hnext hcores hown => exec_gangDispatch hl hq hwait hturn hnext hcores hown,
    ?_, fun launch l c hl hctx hmay => ⟨fun q t horigin hdec => ?_, ?_⟩,
    fun launch l c v hl hctx hstate hwrites => exec_launchComplete_done hl hctx hstate hwrites,
    fun block q core b l c hb hl hq hstate hchildren hmovable himage hwait hturn =>
      exec_joinResume hb hl hq hstate hchildren hmovable himage hwait hturn, ?_, ?_,
    fun block b l c hb hl hctx hcounts hlimit => ⟨exec_watchdog_notes hb hl hctx hcounts hlimit, fun t =>
      exec_watchdog_kills hb hl hctx hcounts hlimit⟩⟩
  · intro block cycles q b l hb hl hwait
    refine ⟨?_, exec_blockRetire_population hb hl hwait⟩
    intro hkind hmay t hq
    have hown := block?_uid hb
    subst hown
    exact (exec_blockRetire_alone hb hl hwait hkind hmay).trans
      (congrArg (fun u : State => Host.Outcome.next (u.freeAccums.restCtx l.field l.ctx)) (retireBlock_of_queue hq))
  · have hexec := exec_launchComplete_queued hl hctx hmay horigin
    simp only [State.finishQueued, hdec, Bool.not_true, Bool.false_eq_true, if_false] at hexec
    exact ⟨fun hnone => hexec.trans (congrArg _ (if_pos hnone)), fun hdone => hexec.trans (congrArg _ (if_neg hdone))⟩
  · intro b horigin own last t
    have hexec := exec_launchComplete_child hl hctx hmay horigin
    simp only [State.childOver] at hexec
    refine ⟨fun hnone => hexec.trans ?_, fun x hx => hexec.trans ?_⟩
    · simp only [t, last, own] at hnone
      simp only [hnone]
      rfl
    · simp only [t, last, own] at hx
      simp only [hx]
      rfl
  · intro launch p l c r rs hp hl hstate hrs hblocks hwarps ms t hquiet hcheck hctx
    exact exec_resample hp hl hstate hrs hblocks hwarps rfl rfl hquiet hcheck hctx
  · intro launch op p r rs l c ls x ps v hp hrs hl hctx hstate hpost hresident hstatus htwo hruns y hlanes hput
    exact exec_placementListAccept hp hrs hl hctx hstate hpost hresident hstatus htwo hruns rfl hlanes hput

end Sys2Proof.Machine
end

section
/-! The events of graphs and tiles (R317, R322 to R325, R327, R330 to R338): what each does when it is enabled. -/

namespace Sys2Proof.Machine

open Sys2Proof

/-! ## Validation (R325) -/

/-- A graph whose records can be read and pass every check runs. -/
theorem exec_graphValidate {s t : State} {graph : Nat} {g g' : Graph} {c : Context} {hs : State × List (List Byte)}
    (hg : s.graph? graph = some g) (hctx : s.ctx? g.field g.ctx = some c) (hmay : s.mayValidate g = true)
    (haddr : addrBad g.addr 64 = false) (hheader : s.readChunks c 64 g.addr 1 = .ok hs) (hgood : headerBad c (hs.2.getD 0 []) = false)
    (hread : hs.1.readGraph c { g with header := hs.2.getD 0 [] } = .ok (t, g')) (hwait : t.graphWait c g' = none)
    (hverdict : t.verdict c g' = none) :
    exec (.graphValidate graph) s =
      .next { t with graphs := mapWhere (fun x => x.uid == g'.uid) (fun _ => { g' with state := .running }) t.graphs } := by
  have hfind : s.graphs.find? (fun g => g.uid == graph) = some g := hg
  show execGraphValidate graph s = _
  simp only [execGraphValidate, hfind, hctx, hmay, if_true, State.validate, haddr, hheader, hgood, hread, hwait, hverdict, Bool.false_eq_true,
    if_false]

/-! ## A running graph (R314, R322, R323) -/

theorem goingGraph_eq_some {s : State} {graph : Nat} {g : Graph} {c : Context} (h : s.goingGraph graph = some (g, c)) :
    s.graph? graph = some g ∧ s.ctx? g.field g.ctx = some c ∧ g.state = .running ∧ c.going = true := by
  unfold State.goingGraph at h
  cases hg : s.graph? graph with
  | none => simp only [hg, reduceCtorEq] at h
  | some x =>
    cases hc : s.ctx? x.field x.ctx with
    | none => simp only [hg, hc, reduceCtorEq] at h
    | some y =>
      simp only [hg, hc] at h
      by_cases hgo : x.state = .running ∧ y.going = true
      · rw [if_pos hgo] at h
        cases h
        exact ⟨rfl, hc, hgo⟩
      · rw [if_neg hgo] at h
        cases h

section
variable {s : State} {graph : Nat} {g : Graph} {c : Context} (hgo : s.goingGraph graph = some (g, c))
include hgo

theorem exec_nodeIssue (hmore : g.cursor < g.nodes.length) (hnode : g.atBranch = false) :
    exec (.nodeIssue graph) s = .next (s.modGraph graph Graph.issue) := by
  show execNodeIssue graph s = _
  simp only [execNodeIssue, hgo, hmore, hnode, decide_true, Bool.not_false, Bool.and_self, if_true]

/-- The predicate of a branch without an address is true. -/
theorem exec_predicateEval_always (hmore : g.cursor < g.nodes.length) (hbranch : g.atBranch = true) (hdone : g.allDone = true)
    (haddr : recAddr (g.node g.cursor) 16 = 0) :
    exec (.predicateEval graph) s = .next (s.modGraph graph fun x => x.branch true) := by
  show execPredicateEval graph s = _
  simp only [execPredicateEval, hgo, Nat.not_le.mpr hmore, hbranch, hdone, haddr, Bool.not_true, Bool.false_eq_true, or_self, if_false, if_true]

theorem exec_predicateEval_word {r : State × List Byte} (hmore : g.cursor < g.nodes.length) (hbranch : g.atBranch = true)
    (hdone : g.allDone = true) (haddr : recAddr (g.node g.cursor) 16 ≠ 0) (hread : s.getVirt c (recAddr (g.node g.cursor) 16) 4 = .ok r) :
    exec (.predicateEval graph) s = .next (r.1.modGraph graph fun x => x.branch (leNat r.2 != 0)) := by
  show execPredicateEval graph s = _
  simp only [execPredicateEval, hgo, Nat.not_le.mpr hmore, hbranch, hdone, if_neg haddr, hread, Bool.not_true, Bool.false_eq_true, or_self,
    if_false]

/-- What may start goes by the kind of its node: a PASS, a COPY, a WAITCTR or a SIGNAL. -/
theorem exec_instanceStart {k : Nat} {i : Inst} (hi : g.inst? k = some i) (hmay : g.mayStart i = true) :
    let kind := ndKind (g.node i.node)
    (kind = 0 → exec (.instanceStart graph k) s = .next (s.startPass c g i)) ∧
    (kind = 1 → exec (.instanceStart graph k) s = .next (s.startCopyNode c g i)) ∧
    (kind = 4 → exec (.instanceStart graph k) s =
      .next (s.modGraph graph fun x => x.modInst k fun y => { y with state := .started })) ∧
    (kind = 5 → exec (.instanceStart graph k) s = .next (s.startSignal c g i)) := by
  refine ⟨fun hkind => ?_, fun hkind => ?_, fun hkind => ?_, fun hkind => ?_⟩
  all_goals
    show execInstanceStart graph k s = _
    simp only [execInstanceStart, hgo, hi, hmay, hkind, Bool.not_true, Bool.false_eq_true, if_false]

theorem exec_waitctrComplete {k : Nat} {i : Inst} {w : WinSlot} (hi : g.inst? k = some i) (hstate : i.state = .started)
    (hkind : ndKind (g.node i.node) = 4) (hw : c.win? (recNat (g.node i.node) 12 1) = some w)
    (hovf : (if recNat (g.node i.node) 13 1 = 1 then w.dstOvf else w.srcOvf) = false)
    (hvalue : recNat (g.node i.node) 16 4 + recNat (g.node i.node) 20 4 * i.turn ≤
      (if recNat (g.node i.node) 13 1 = 1 then w.dst else w.src).toNat) :
    exec (.waitctrComplete graph k) s = .next (s.instDone graph k 0) := by
  show execWaitctrComplete graph k s = _
  simp only [execWaitctrComplete, hgo, hi, hstate, hkind, ne_eq, not_true_eq_false, or_self, hw, hovf, if_pos hvalue, Bool.false_eq_true, if_false]

theorem exec_ringExhausted {r : Nat} (hhw : c.hwRelease = true) (hstalled : g.stalled = true) (hstarved : g.starved = some r) :
    exec (.ringExhausted graph) s =
      .next ((s.kilnRecord c.field c.ctxid 58 (g.ressAddr + BitVec.ofNat 64 (32 * r))).abandonGraph g) := by
  show execRingExhausted graph s = _
  simp only [execRingExhausted, hgo, hstarved, hhw, hstalled, Bool.not_true, Bool.false_eq_true, or_self, if_false]

/-! ## Completion of a graph (R317) -/

/-- The TASK of a graph whose instances are all complete is decremented; the graph then has its STATUS to write, or is over. -/
theorem exec_graphComplete_running {t : State} (hend : g.nodes.length ≤ g.cursor) (hdone : g.allDone = true)
    (hwrites : s.writesDone g.writers 2 = true) (hdec : s.unitDec g.field g.queue g.task = (t, true)) :
    exec (.graphComplete graph) s =
      .next (if g.statusAddr = 0 then t.endGraph g else t.modGraph g.uid fun x => { x with state := .complete }) := by
  obtain ⟨hg, hctx, hstate, hgoing⟩ := goingGraph_eq_some hgo
  show execGraphComplete graph s = _
  simp only [execGraphComplete, hg, hctx, hstate, hgoing, reduceCtorEq, Nat.not_lt.mpr hend, hdone, hwrites, State.finishGraph, hdec,
    Bool.not_true, Bool.false_eq_true, or_self, if_false]

end

/-- The STATUS of a COMPLETE graph is written, and the graph is over. -/
theorem exec_graphComplete_status {s v : State} {graph : Nat} {g : Graph} {c : Context} (hg : s.graph? graph = some g)
    (hctx : s.ctx? g.field g.ctx = some c) (hgoing : c.going = true) (hstate : g.state = .complete)
    (hwrites : s.writesDone g.writers 3 = true)
    (hput : (s.endGraph g).putVirt c true g.statusAddr (leBytes 4 (g.status ||| 0x80000000#32).toNat) = .ok v) :
    exec (.graphComplete graph) s = .next v := by
  show execGraphComplete graph s = _
  simp only [execGraphComplete, hg, hctx, hgoing, hstate, reduceCtorEq, State.writeStatus, hwrites, hput, Bool.not_true, Bool.false_eq_true,
    or_self, if_false, if_true]

/-! ## Tiles (R327, R332, R335) -/

/-- The first open tile of a queue is found, whether the Kiln or the host releases its tiles. -/
theorem find?_of_head? {α : Type} {p : α → Bool} {l : List α} {x : α} (hhead : l.head? = some x) (hx : p x = true) (one : Bool) :
    (if one then l.take 1 else l).find? p = some x := by
  obtain ⟨rest, rfl⟩ : ∃ rest, l = x :: rest := List.head?_eq_some_iff.mp hhead
  cases one <;> exact List.find?_cons_of_pos hx

/-- A tile that is the next of its queue, whose turn it is, is released to the emptiest core with room. -/
theorem release1_of_head {s : State} {g : Graph} {c : Context} {k tile core : Nat} {i : Inst} {y : Tile} {l : Launch}
    (hwait : s.queueWait g.field g.queue = none) (hturn : s.hasTurn g.field g.queue = some c)
    (hhead : (s.openTiles g.field g.queue s.takes).head? = some (g, i, y)) (hk : i.index = k) (htile : y.index = tile)
    (hl : s.launch? i.launch = some l)
    (hcore : s.emptiest (openCores l fun n => s.takes l n &&
      (!((binds (g.node i.node)).any fun x => !bdWrite x && rsSaggar (g.res (bdRes x))) || s.vaultOnline g.field (n % 40))) = some core) :
    s.release1 g k tile = s.releaseTo c g i tile core := by
  have hfind := find?_of_head? (p := fun (x : Graph × Inst × Tile) => x.1.uid == g.uid && x.2.1.index == k && x.2.2.index == tile) hhead
    (by simp [hk, htile]) c.hwRelease
  simp only [State.release1, hwait, hturn, hfind, hl, Option.bind_some, hcore]

theorem exec_tileRelease {s : State} {graph k tile : Nat} {g : Graph} {c : Context} (hgo : s.goingGraph graph = some (g, c))
    (hhw : c.hwRelease = true) : exec (.tileRelease graph k tile) s = .next (s.release1 g k tile) := by
  show execTileRelease graph k tile s = _
  simp only [execTileRelease, hgo, hhw, if_true]

section
variable {s : State} {graph : Nat} {g : Graph} {c : Context} {w : State × Nat} {i : Inst} {t : Tile}
  (hgo : s.goingGraph graph = some (g, c)) (hhost : c.hwRelease = false) (hword : s.relqWord c g = .ok w) (hvalid : bitOf w.2 31 = true)
  (hnamed : g.named w.2 = some (i, t))
include hgo hhost hword hvalid hnamed

/-- A word whose tile cannot be released now stays in RELQ. -/
theorem exec_relqTake_kept (hsame : (w.1.release1 g i.index t.index).blocks.length = w.1.blocks.length) :
    exec (.relqTake graph) s = .next (w.1.release1 g i.index t.index) := by
  show execRelqTake graph s = _
  simp only [execRelqTake, hgo, hhost, hword, hvalid, State.relqTake, hnamed, hsame, Option.isSome_some, beq_self_eq_true, Bool.and_self,
    Bool.false_eq_true, if_false, if_true]

/-- A word whose tile is released is written back. -/
theorem exec_relqTake_taken {v : State} (hmore : (w.1.release1 g i.index t.index).blocks.length ≠ w.1.blocks.length)
    (hnext : (w.1.release1 g i.index t.index).relqNext c g = .ok v) : exec (.relqTake graph) s = .next v := by
  show execRelqTake graph s = _
  simp only [execRelqTake, hgo, hhost, hword, hvalid, State.relqTake, hnamed, beq_eq_false_iff_ne.mpr hmore, Bool.and_false, hnext,
    Bool.false_eq_true, if_false, if_true]

end

theorem exec_tileRetire {s : State} {graph k tile : Nat} {g : Graph} {i : Inst} {c : Context} {y : Tile} {b : Block}
    (hg : s.graph? graph = some g) (hi : g.inst? k = some i) (hctx : s.ctx? g.field g.ctx = some c) (hy : i.tile? tile = some y)
    (hstate : y.state = .running) (hb : s.block? y.block = some b) (hmay : s.mayRetireTile b = true) (hhw : c.hwRelease = true) :
    let t := s.modGraph graph fun x => x.retire i tile
    exec (.tileRetire graph k tile) s = .next ((t.dropTile graph b i.launch
      (((t.graph? graph).bind fun x => x.inst? k).any fun x => x.state == .complete)).restCtx g.field g.ctx) := by
  show execTileRetire graph k tile s = _
  simp only [execTileRetire, hg, hi, hctx, hy, Option.bind_some, hstate, beq_self_eq_true, if_true, hb, hmay, hhw, Bool.not_true,
    Bool.false_eq_true, if_false]

/-! ## The events together -/

/-- Settles O46: each event that is enabled takes its one step. -/
theorem graphEvents : Obligations.GraphEvents := by
  intro s
  refine ⟨fun graph g g' c hs t hg hctx hmay haddr hheader hgood hread hwait hverdict =>
      exec_graphValidate hg hctx hmay haddr hheader hgood hread hwait hverdict,
    fun graph g c hgo => ⟨exec_nodeIssue hgo, fun hmore hbranch hdone => ?_, fun k i hi hmay => exec_instanceStart hgo hi hmay,
      fun k i w hi hstate hkind hw => exec_waitctrComplete hgo hi hstate hkind hw, fun t hend hdone hwrites hdec => ?_, ?_, ?_,
      fun r hhw hstalled hstarved => exec_ringExhausted hgo hhw hstalled hstarved⟩,
    fun graph g c v hg hctx hgoing hstate hwrites hput => exec_graphComplete_status hg hctx hgoing hstate hwrites hput,
    fun graph k tile g i c y b hg hi hctx hy hstate hb hmay hhw => exec_tileRetire hg hi hctx hy hstate hb hmay hhw, fun _ _ _ => rfl⟩
  · exact ⟨exec_predicateEval_always hgo hmore hbranch hdone, fun r => exec_predicateEval_word hgo hmore hbranch hdone⟩
  · have hexec := exec_graphComplete_running hgo hend hdone hwrites hdec
    exact ⟨fun hnone => hexec.trans (congrArg _ (if_pos hnone)), fun hsome => hexec.trans (congrArg _ (if_neg hsome))⟩
  · intro k tile core i y l c' hhw hwait hturn hhead hk htile table hl hcore
    exact (exec_tileRelease hgo hhw).trans (congrArg _ (release1_of_head hwait hturn hhead hk htile hl hcore))
  · intro w i t hhost hword hvalid hnamed u
    exact ⟨exec_relqTake_kept hgo hhost hword hvalid hnamed, fun v => exec_relqTake_taken hgo hhost hword hvalid hnamed⟩

end Sys2Proof.Machine
end

section
/-! The canonical form of memory (R125, R225) as an invariant: what it asks of a state and of everything that carries states
along (effects, values that may wait, options), with one rule for each shape by which the model puts its operations together. -/

namespace Sys2Proof.Machine

open Sys2Proof

/-- The memory of a state is in canonical form. -/
def State.Formed (s : State) : Prop := Memory.wf s.mem = true

/-- A value that meets `P`, or a wait in a state whose memory is in canonical form. -/
def Got.Formed {α : Type} (P : α → Prop) : Got α → Prop
  | .ok x => P x
  | .trap _ => True
  | .wait s => s.Formed

/-- The states that an effect goes on with have their memories in canonical form. -/
def Eff.Formed : Eff → Prop
  | .next s => s.Formed
  | .jump s _ _ => s.Formed
  | .trap _ => True
  | .trapIn _ _ => True
  | .block s _ => s.Formed
  | .stall s => s.Formed
  | .done s => s.Formed

def Verdict.Formed : Verdict → Prop
  | .go s _ => s.Formed
  | .wait s => s.Formed
  | .lost => True

def Fetched.Formed : Fetched → Prop
  | .idle s => s.Formed
  | .code s _ => s.Formed

def Started.Formed : Started → Prop
  | .waits s => s.Formed
  | .run s _ => s.Formed

def Wrote.Formed : Wrote → Prop
  | .waits _ _ => True
  | .fault s _ => s.Formed
  | .ok s _ => s.Formed

/-- The state that an instruction answers has its memory in canonical form. -/
def OutcomeFormed : Host.Outcome State Fault Refusal → Prop
  | .next s => s.Formed
  | .fault _ => True
  | .refused _ => True

/-- What an option holds, if anything, meets `P`. -/
def OptionFormed {α : Type} (P : α → Prop) : Option α → Prop
  | some x => P x
  | none => True

/-- What a computation gives, unless it fails, meets `P`. -/
def ExceptFormed {ε α : Type} (P : α → Prop) : Except ε α → Prop
  | .ok x => P x
  | .error _ => True

/-! ## What is known of a part once its shape is known -/

/-- What leaves memory as it is keeps its form. -/
theorem formed_of_mem {s t : State} (h : s.Formed) (e : t.mem = s.mem) : t.Formed := (congrArg (Memory.wf · = true) e).mpr h

theorem fst_formed {α : Type} {a : State × α} {t : State} {b : α} (e : a = (t, b)) (h : a.1.Formed) : t.Formed := by
  rw [e] at h
  exact h

theorem got_ok {α : Type} {g : Got α} {x : α} (e : g = .ok x) (P : α → Prop) (h : g.Formed P) : P x := by
  rw [e] at h
  exact h

theorem got_wait {α : Type} {P : α → Prop} {g : Got α} {s : State} (e : g = .wait s) (h : g.Formed P) : s.Formed := by
  rw [e] at h
  exact h

theorem option_some {α : Type} {o : Option α} {x : α} (e : o = some x) (P : α → Prop) (h : OptionFormed P o) : P x := by
  rw [e] at h
  exact h

theorem except_ok {ε α : Type} {o : Except ε α} {x : α} (e : o = .ok x) (P : α → Prop) (h : ExceptFormed P o) : P x := by
  rw [e] at h
  exact h

theorem verdict_go {v : Verdict} {s : State} {j : Job} (e : v = .go s j) (h : v.Formed) : s.Formed := by
  rw [e] at h
  exact h

theorem verdict_wait {v : Verdict} {s : State} (e : v = .wait s) (h : v.Formed) : s.Formed := by
  rw [e] at h
  exact h

theorem fetched_idle {v : Fetched} {s : State} (e : v = .idle s) (h : v.Formed) : s.Formed := by
  rw [e] at h
  exact h

theorem fetched_code {v : Fetched} {s : State} {bs : List Byte} (e : v = .code s bs) (h : v.Formed) : s.Formed := by
  rw [e] at h
  exact h

theorem started_waits {v : Started} {s : State} (e : v = .waits s) (h : v.Formed) : s.Formed := by
  rw [e] at h
  exact h

theorem started_run {v : Started} {s : State} {r : CopyRun} (e : v = .run s r) (h : v.Formed) : s.Formed := by
  rw [e] at h
  exact h

theorem wrote_fault {v : Wrote} {s : State} {a : Nat} (e : v = .fault s a) (h : v.Formed) : s.Formed := by
  rw [e] at h
  exact h

theorem wrote_ok {v : Wrote} {s : State} {b : List Host.Cell} (e : v = .ok s b) (h : v.Formed) : s.Formed := by
  rw [e] at h
  exact h

/-! ## The shapes -/

theorem ite_formed {p : Prop} [Decidable p] {s t : State} (hs : s.Formed) (ht : t.Formed) : (if p then s else t).Formed := by
  split
  · exact hs
  · exact ht

theorem ite_got {α : Type} {P : α → Prop} {p : Prop} [Decidable p] {s t : Got α} (hs : s.Formed P) (ht : t.Formed P) :
    (if p then s else t).Formed P := by
  split
  · exact hs
  · exact ht

theorem ite_eff {p : Prop} [Decidable p] {s t : Eff} (hs : s.Formed) (ht : t.Formed) : (if p then s else t).Formed := by
  split
  · exact hs
  · exact ht

theorem ite_option {α : Type} {P : α → Prop} {p : Prop} [Decidable p] {s t : Option α} (hs : OptionFormed P s) (ht : OptionFormed P t) :
    OptionFormed P (if p then s else t) := by
  split
  · exact hs
  · exact ht

theorem ite_except {ε α : Type} {P : α → Prop} {p : Prop} [Decidable p] {s t : Except ε α} (hs : ExceptFormed P s)
    (ht : ExceptFormed P t) : ExceptFormed P (if p then s else t) := by
  split
  · exact hs
  · exact ht

theorem ite_started {p : Prop} [Decidable p] {s t : Started} (hs : s.Formed) (ht : t.Formed) : (if p then s else t).Formed := by
  split
  · exact hs
  · exact ht

theorem foldl_formed {α : Type} {f : State → α → State} {l : List α} {s : State} (h : s.Formed)
    (hf : ∀ s a, s.Formed → (f s a).Formed) : (l.foldl f s).Formed := by
  induction l generalizing s with
  | nil => exact h
  | cons a l ih => exact ih (hf s a h)

theorem foldl_fst_formed {α β : Type} {f : State × β → α → State × β} {l : List α} {x : State × β} (h : x.1.Formed)
    (hf : ∀ x a, x.1.Formed → (f x a).1.Formed) : (l.foldl f x).1.Formed := by
  induction l generalizing x with
  | nil => exact h
  | cons a l ih => exact ih (hf x a h)

theorem foldl_option_formed {α : Type} {f : Option State → α → Option State} {l : List α} {o : Option State}
    (h : OptionFormed State.Formed o) (hf : ∀ o a, OptionFormed State.Formed o → OptionFormed State.Formed (f o a)) :
    OptionFormed State.Formed (l.foldl f o) := by
  induction l generalizing o with
  | nil => exact h
  | cons a l ih => exact ih (hf o a h)

theorem getD_formed {o : Option State} {s : State} (ho : OptionFormed State.Formed o) (h : s.Formed) : (o.getD s).Formed := by
  cases o with
  | none => exact h
  | some t => exact ho

theorem option_bind_formed {α β : Type} {P : α → Prop} {Q : β → Prop} {o : Option α} {k : α → Option β} (ho : OptionFormed P o)
    (hk : ∀ x, P x → OptionFormed Q (k x)) : OptionFormed Q (o.bind k) := by
  cases o with
  | none => trivial
  | some x => exact hk x ho

theorem option_map_formed {α β : Type} {P : α → Prop} {Q : β → Prop} {o : Option α} {k : α → β} (ho : OptionFormed P o)
    (hk : ∀ x, P x → Q (k x)) : OptionFormed Q (o.map k) := by
  cases o with
  | none => trivial
  | some x => exact hk x ho

theorem option_trivial {α : Type} (o : Option α) : OptionFormed (fun _ => True) o := by cases o <;> trivial

theorem findSome_formed {α β : Type} {P : β → Prop} {l : List α} {k : α → Option β} (hk : ∀ x, OptionFormed P (k x)) :
    OptionFormed P (l.findSome? k) := by
  induction l with
  | nil => trivial
  | cons a l ih =>
    rw [List.findSome?_cons]
    split
    · next e => exact e ▸ hk a
    · exact ih

theorem got_bind_formed {α β : Type} {P : α → Prop} {Q : β → Prop} {g : Got α} {k : α → Got β} (hg : g.Formed P)
    (hk : ∀ x, P x → (k x).Formed Q) : (g.bind k).Formed Q := by
  cases g with
  | ok x => exact hk x hg
  | trap t => trivial
  | wait s => exact hg

theorem got_eff_formed {α : Type} {P : α → Prop} {g : Got α} {k : α → Eff} (hg : g.Formed P) (hk : ∀ x, P x → (k x).Formed) :
    (g.eff k).Formed := by
  cases g with
  | ok x => exact hk x hg
  | trap t => trivial
  | wait s => exact hg

/-! ## The operations of Machine/State.lean -/

theorem reset_formed : State.reset.Formed := rfl

/-! ## The operations of Machine/Mem.lean -/

theorem writeNat_formed {s : State} {k n x : Nat} (h : s.Formed) : (s.writeNat k n x).Formed := memWrite_wf h _ _

theorem modField_formed {s : State} {f : Nat} {g : Field → Field} (h : s.Formed) : (s.modField f g).Formed := h

theorem modCtx_formed {s : State} {f c : Nat} {g : Context → Context} (h : s.Formed) : (s.modCtx f c g).Formed := h

theorem modWarp_formed {s : State} {u : Nat} {g : Warp → Warp} (h : s.Formed) : (s.modWarp u g).Formed := h

theorem noteDone_formed {s : State} {u : Nat} (h : s.Formed) : (s.noteDone u).Formed := modWarp_formed h

theorem modBlock_formed {s : State} {u : Nat} {g : Block → Block} (h : s.Formed) : (s.modBlock u g).Formed := h

theorem modLaunch_formed {s : State} {u : Nat} {g : Launch → Launch} (h : s.Formed) : (s.modLaunch u g).Formed := h

theorem modPop_formed {s : State} {u : Nat} {g : Population → Population} (h : s.Formed) : (s.modPop u g).Formed := h

theorem modQueue_formed {s : State} {f q : Nat} {g : Queue → Queue} (h : s.Formed) : (s.modQueue f q g).Formed := h

theorem modHandle_formed {s : State} {f i : Nat} {g : Handle → Handle} (h : s.Formed) : (s.modHandle f i g).Formed := h

theorem setReg_formed {s : State} {f off : Nat} {v : Word} (h : s.Formed) : (s.setReg f off v).Formed := modField_formed h

theorem remember_formed {s : State} {keys : List Nat} (h : s.Formed) : (s.remember keys).Formed := by
  unfold State.remember
  split
  · exact h
  · extract_lets words
    exact h

theorem foldl_memWrite_wf (l : List Shadow) {m : List Host.Cell} (h : Memory.wf m = true) :
    Memory.wf (l.foldl (fun m h => memWrite m h.key (leBytes h.size h.stored)) m) = true := by
  induction l generalizing m with
  | nil => exact h
  | cons x l ih => exact ih (memWrite_wf h _ _)

theorem roundThose_formed {s : State} {hits : Shadow → Bool} (h : s.Formed) : (s.roundThose hits).Formed :=
  remember_formed (foldl_memWrite_wf _ h)

theorem roundShadows_formed {s : State} {keys : List Nat} (h : s.Formed) : (s.roundShadows keys).Formed := roundThose_formed h

theorem missRecord_formed {s : State} {f : Nat} {m : Miss} (h : s.Formed) : (s.missRecord f m).Formed := by
  unfold State.missRecord
  extract_lets log wr base addr s1 s2 s3 s4
  have h1 : s1.Formed := writeNat_formed h
  have h2 : s2.Formed := writeNat_formed h1
  have h3 : s3.Formed := writeNat_formed h2
  have h4 : s4.Formed := writeNat_formed h3
  exact setReg_formed h4

theorem noteMiss_formed {s : State} {c : Context} {k : AccKind} {a : Dword} (h : s.Formed) : (s.noteMiss c k a).Formed := by
  unfold State.noteMiss
  extract_lets f page here_ join m hosted s1
  have h1 : s1.Formed := h
  exact ite_formed h (ite_formed h (ite_formed h (ite_formed (missRecord_formed h1) h1)))

/-! ## The operations of Machine/Order.lean -/

theorem walkNow_formed {s : State} {c : Context} {va : Nat} (h : s.Formed) : (s.walkNow c va).1.Formed := by
  unfold State.walkNow
  extract_lets s1
  have h1 : s1.Formed := roundShadows_formed h
  exact h1

theorem evictDirty_formed {s : State} {d : DirtyLine} {toVault : Bool} (h : s.Formed) : (s.evictDirty d toVault).Formed := by
  unfold State.evictDirty
  extract_lets s1 rest
  have h1 : s1.Formed := roundShadows_formed h
  exact h1

theorem evictFrom_formed {s : State} {slice : Nat} {x : Nat × Nat} (h : s.Formed) : (s.evictFrom slice x).Formed := by
  unfold State.evictFrom
  split
  · split
    · exact evictDirty_formed h
    · exact h
  · exact h
  · exact h

theorem roomSlice_formed {s : State} {slice : Nat} (h : s.Formed) : (s.roomSlice slice).Formed := by
  unfold State.roomSlice
  extract_lets mine out
  split
  · exact h
  · split
    · exact evictFrom_formed h
    · exact h

theorem setSharers_formed {s : State} {line : Nat} {m : BitVec 4} (h : s.Formed) : (s.setSharers line m).Formed := by
  unfold State.setSharers
  extract_lets rest
  exact h

theorem invalProxy_formed {s : State} {field line : Nat} (h : s.Formed) : (s.invalProxy field line).Formed := setSharers_formed h

theorem invalReplicas_formed {s : State} {line : Nat} (h : s.Formed) : (s.invalReplicas line).Formed :=
  foldl_formed h fun _ _ h1 => invalProxy_formed h1

theorem fillProxy_formed {s : State} {field line home : Nat} (h : s.Formed) : (s.fillProxy field line home).Formed := by
  unfold State.fillProxy
  split
  · exact h
  · extract_lets keys s1 slice put s2
    have h1 : s1.Formed := roundShadows_formed h
    have h2 : s2.Formed := roomSlice_formed h1
    exact setSharers_formed h2

theorem evictL1_formed {s : State} {x : L1Line} {repl : Bool} (h : s.Formed) : (s.evictL1 x repl).Formed := by
  unfold State.evictL1
  extract_lets f s1
  have h1 : s1.Formed := h
  exact ite_formed (fillProxy_formed h1) h1

theorem roomL1_formed {s : State} {core : Nat} (h : s.Formed) : (s.roomL1 core).Formed := by
  unfold State.roomL1
  split
  · exact h
  · extract_lets out
    split
    · exact evictL1_formed h
    · exact h

theorem putL1_formed {s : State} {core line home : Nat} {fill : Option Bool} {cs : List Host.Cell} (h : s.Formed) :
    (s.putL1 core line home fill cs).Formed := by
  unfold State.putL1
  split
  · extract_lets y
    exact h
  · extract_lets s1
    have h1 : s1.Formed := roomL1_formed h
    exact ite_formed h1 h1

theorem cutL1_formed {s : State} {core : Nat} {keys : List Nat} (h : s.Formed) : (s.cutL1 core keys).Formed := h

theorem invalL1_formed {s : State} {core : Nat} (h : s.Formed) : (s.invalL1 core).Formed := h

theorem noteReaders_formed {s : State} {core : Nat} {keys : List Nat} (h : s.Formed) : (s.noteReaders core keys).Formed := by
  unfold State.noteReaders
  extract_lets f note
  exact h

theorem carryReads_formed {s : State} {src dst : Nat} (h : s.Formed) : (s.carryReads src dst).Formed := by
  unfold State.carryReads
  extract_lets carry put
  exact h

theorem fetchLocal_formed {s : State} {f : Nat} {isLocal : Bool} {line : Nat} (h : s.Formed) : (s.fetchLocal f isLocal line).Formed := by
  unfold State.fetchLocal
  split
  · extract_lets s1 cells
    have h1 : s1.Formed := roomSlice_formed (roundShadows_formed h)
    exact h1
  · exact h

theorem fillL1_formed {s : State} {core : Nat} {repl nt : Bool} {a : Access} {line : Nat} (h : s.Formed) :
    (s.fillL1 core repl nt a line).Formed := by
  unfold State.fillL1
  split
  · exact noteReaders_formed h
  · extract_lets keys s1
    have h1 : s1.Formed := ite_formed (roundShadows_formed h) h
    exact ite_formed (putL1_formed h) (putL1_formed (noteReaders_formed h1))

theorem closeStore_formed {s : State} {op : Nat} (h : s.Formed) : (s.closeStore op).Formed := by
  unfold State.closeStore
  split
  · extract_lets open_ seen done_
    exact h
  · exact h

theorem lateSeen_formed {s : State} {u seq : Nat} {ops : List Nat} (h : s.Formed) : (s.lateSeen u seq ops).Formed := by
  unfold State.lateSeen
  split
  · exact h
  · extract_lets at_ fences behind entry atom unit mc ray s1
    have h1 : s1.Formed := modWarp_formed h
    exact h1

theorem fetchEarly_formed {s : State} {w : Warp} {op : LoadOp} (h : s.Formed) : (s.fetchEarly w op).Formed := by
  unfold State.fetchEarly
  split
  · exact h
  · extract_lets s1 got put
    have h1 : s1.Formed := roundShadows_formed h
    exact modWarp_formed h1

theorem completeLoad_formed {s : State} {w : Warp} {op : LoadOp} (h : s.Formed) : OptionFormed State.Formed (s.completeLoad w op) := by
  unfold State.completeLoad
  split
  · exact trivial
  · extract_lets got homeKeys s1 faults bytesOf okAccs byLane laneBytes mask w' newAsyncs keys ops f s2 s3 s4
    have h1 : s1.Formed := roundShadows_formed h
    have h2 : s2.Formed := foldl_formed h1 fun _ _ h2 => foldl_formed h2 fun _ _ h3 => fillL1_formed (fetchLocal_formed h3)
    have h3 : s3.Formed := modWarp_formed h2
    have h4 : s4.Formed := lateSeen_formed h3
    exact ite_option trivial (ite_formed (invalL1_formed h4) h4)

theorem settleTo_formed {s : State} {u seq a : Nat} (h : s.Formed) : OptionFormed State.Formed (s.settleTo u seq a) := by
  induction a generalizing s u seq with
  | zero =>
    rw [State.settleTo]
    exact h
  | succ n ih =>
    rw [State.settleTo]
    split
    · exact h
    · split
      · exact h
      · split
        · exact trivial
        · next e2 => exact ih (option_some e2 State.Formed (completeLoad_formed h))

theorem settleOne_formed {s : State} {u : Nat} {op : LoadOp} (h : s.Formed) : OptionFormed State.Formed (s.settleOne u op) := by
  unfold State.settleOne
  split
  · exact h
  · split
    · next e1 => exact option_some e1 State.Formed (ite_option (completeLoad_formed h) trivial)
    · exact settleTo_formed h

theorem settleAll_formed {s : State} {u a : Nat} (h : s.Formed) : (s.settleAll u a).Formed := by
  induction a generalizing s u with
  | zero =>
    rw [State.settleAll]
    exact h
  | succ n ih =>
    rw [State.settleAll]
    split
    · exact h
    · split
      · exact h
      · split
        · exact h
        · next e2 => exact ih (option_some e2 State.Formed (completeLoad_formed h))

theorem atomsLeave_formed {s : State} {core : Nat} {leaving : Bool} {dst slice : Nat} (h : s.Formed) :
    (s.atomsLeave core leaving dst slice).Formed := by
  unfold State.atomsLeave
  extract_lets way go
  exact h

theorem retakeAll_formed {s : State} {core : Nat} {keys : List Nat} (h : s.Formed) : (s.retakeAll core keys).Formed := h

theorem launchFlight_formed {s : State} {w : Warp} {ctx : Nat} {e : SqEntry} {g : List WByte} (h : s.Formed) :
    (s.launchFlight w ctx e g).Formed := by
  unfold State.launchFlight
  split
  · exact h
  · extract_lets f line cells leaving peer s1 held toProxy id handle fl past s2 ps hold s3 fresh slice ps2 s4
    have h1 : s1.Formed := retakeAll_formed (atomsLeave_formed h)
    have h2 : s2.Formed := h1
    have h3 : s3.Formed := ite_formed h2 (putL1_formed h2)
    have h4 : s4.Formed := ite_formed h3 (roomSlice_formed h3)
    split
    · exact ite_formed (formed_of_mem (ite_formed h2 (roomL1_formed h2)) rfl) h2
    · split
      · exact formed_of_mem (ite_formed (cutL1_formed h2) (roomL1_formed (cutL1_formed h2))) rfl
      · exact ite_formed h4 h3

theorem drainOne_formed {s : State} {u : Nat} (h : s.Formed) : OptionFormed State.Formed (s.drainOne u) := by
  unfold State.drainOne
  split
  · exact trivial
  · split
    · exact trivial
    · split
      · exact trivial
      · extract_lets ctx s1 s2
        have h1 : s1.Formed := modWarp_formed h
        have h2 : s2.Formed := ite_formed h1 (foldl_formed h1 fun _ _ h2 => launchFlight_formed h2)
        exact closeStore_formed h2

theorem drainAll_formed {s : State} {u a : Nat} (h : s.Formed) : (s.drainAll u a).Formed := by
  induction a generalizing s u with
  | zero =>
    rw [State.drainAll]
    exact h
  | succ n ih =>
    rw [State.drainAll]
    split
    · exact h
    · next e => exact ih (option_some e State.Formed (drainOne_formed h))

theorem quiesce_formed {s : State} {u : Nat} (h : s.Formed) : (s.quiesce u).Formed :=
  settleAll_formed (drainAll_formed (settleAll_formed h))

theorem soilFrame_formed {s : State} {line : Nat} (h : s.Formed) : (s.soilFrame line).Formed := by
  unfold State.soilFrame
  extract_lets k soil
  exact ite_formed h h

theorem dirtySlice_formed {s : State} {home : HomeOf} {line : Nat} (h : s.Formed) : (s.dirtySlice home line).Formed := by
  unfold State.dirtySlice
  extract_lets s1 old s2
  have h1 : s1.Formed := soilFrame_formed h
  have h2 : s2.Formed := roomSlice_formed h1
  exact ite_formed h1 h2

theorem putCells_formed {s : State} {cells : List Host.Cell} (h : s.Formed) : (s.putCells cells).Formed := by
  unfold State.putCells
  extract_lets own
  exact remember_formed (memCells_wf h _)

theorem writeHome_formed {s : State} {home : HomeOf} {cells : List Host.Cell} (h : s.Formed) : (s.writeHome home cells).Formed := by
  unfold State.writeHome
  extract_lets s1
  have h1 : s1.Formed := foldl_formed h fun _ _ h1 => dirtySlice_formed h1
  exact putCells_formed (roundShadows_formed h1)

theorem countDst_formed {s : State} {h : Dword} (h1 : s.Formed) : (s.countDst h).Formed := by
  unfold State.countDst
  extract_lets f
  exact h1

theorem countSrc_formed {s : State} {f ctx slot : Nat} (h : s.Formed) : (s.countSrc f ctx slot).Formed := modCtx_formed h

theorem doorbell_formed {s : State} {f id : Nat} {h : Dword} (h1 : s.Formed) : (s.doorbell f id h).Formed := h1

theorem postFlight_formed {s : State} {f : Flight} (h : s.Formed) : (s.postFlight f).Formed := by
  unfold State.postFlight
  extract_lets s1
  have h1 : s1.Formed := h
  exact ite_formed (doorbell_formed h1) h1

theorem applyFlight_formed {s : State} {f : Flight} (h : s.Formed) : (s.applyFlight f).Formed := by
  unfold State.applyFlight
  extract_lets drop past old s1 s2 s3 s4
  have h1 : s1.Formed := writeHome_formed h
  have h2 : s2.Formed := ite_formed (postFlight_formed h) (ite_formed h h1)
  have h3 : s3.Formed := ite_formed h2 h2
  have h4 : s4.Formed := ite_formed (countDst_formed h3) h3
  exact ite_formed h4 (ite_formed (noteDone_formed h4) (closeStore_formed h4))

theorem unhold_formed {s : State} {f : Flight} (h : s.Formed) : (s.unhold f).Formed := by
  unfold State.unhold
  extract_lets rest mine was
  exact h

theorem ackFlight_formed {s : State} {f : Flight} (h : s.Formed) : (s.ackFlight f).Formed := by
  unfold State.ackFlight
  extract_lets mine s1 s2 more s3
  have h1 : s1.Formed := unhold_formed h
  have h2 : s2.Formed := ite_formed h1 (putL1_formed h1)
  have h3 : s3.Formed := by
    unfold s3
    split
    · exact ite_formed h2 (countSrc_formed h2)
    · exact h2
  exact closeStore_formed h3

/-! ## The operations of Machine/Ops.lean -/

theorem finishLoad_formed {s : State} {u id : Nat} (h : s.Formed) : (s.finishLoad u id).Formed := modWarp_formed h

theorem closeRays_formed {s : State} {u : Nat} (h : s.Formed) : (s.closeRays u).Formed := by
  unfold State.closeRays
  split
  · exact h
  · extract_lets finished
    exact foldl_formed h fun _ _ h1 => finishLoad_formed h1

theorem engineWriteAt_formed {s : State} {home : HomeOf} {cells : List Host.Cell} (h : s.Formed) : (s.engineWriteAt home cells).Formed :=
  writeHome_formed (foldl_formed h fun _ _ h1 => invalReplicas_formed h1)

theorem engineWrite_formed {s : State} {cells : List Host.Cell} (h : s.Formed) : (s.engineWrite cells).Formed := engineWriteAt_formed h

theorem placeWrite_formed {s : State} {ps : List (Place × Byte)} (h : s.Formed) : (s.placeWrite ps).Formed := engineWriteAt_formed h

theorem placeNat_formed {s : State} {p : Place} {n x : Nat} (h : s.Formed) : (s.placeNat p n x).Formed := placeWrite_formed h

theorem putNat_formed {s : State} {k n x : Nat} (h : s.Formed) : (s.putNat k n x).Formed := engineWrite_formed h

theorem engineRead_formed {s : State} {keys : List Nat} (h : s.Formed) : (s.engineRead keys).1.Formed := by
  unfold State.engineRead
  extract_lets s1
  have h1 : s1.Formed := roundShadows_formed h
  exact h1

theorem placeRead_formed {s : State} {p : Place} {n : Nat} (h : s.Formed) : (s.placeRead p n).1.Formed := engineRead_formed h

theorem hostRecord_formed {s : State} {f c : Nat} {cause : Word} {faddr fpc : Dword} {core slot : Nat} (h : s.Formed) :
    (s.hostRecord f c cause faddr fpc core slot).Formed := by
  unfold State.hostRecord
  split
  · exact h
  · extract_lets k s1 s2 s3 s4 s5 s6 s7
    have h1 : s1.Formed := modCtx_formed h
    have h2 : s2.Formed := putNat_formed h1
    have h3 : s3.Formed := putNat_formed h2
    have h4 : s4.Formed := putNat_formed h3
    have h5 : s5.Formed := putNat_formed h4
    have h6 : s6.Formed := putNat_formed h5
    have h7 : s7.Formed := putNat_formed h6
    exact putNat_formed h7

theorem metMiss_formed {s : State} {f c u page : Nat} (h : s.Formed) : (s.metMiss f c u page).Formed := by
  unfold State.metMiss
  extract_lets mine met
  exact h

theorem unitMet_formed {s : State} {f c : Nat} {a : Dword} (h : s.Formed) : (s.unitMet f c a).Formed := metMiss_formed h

theorem kilnRecord_formed {s : State} {f c code : Nat} {faddr : Dword} (h : s.Formed) : (s.kilnRecord f c code faddr).Formed :=
  hostRecord_formed (unitMet_formed h)

theorem freeAccums_formed {s : State} (h : s.Formed) : s.freeAccums.Formed := h

theorem queueStatus_formed {s : State} {f q status : Nat} (h : s.Formed) : (s.queueStatus f q status).Formed := by
  unfold State.queueStatus
  extract_lets on
  exact setReg_formed h

theorem detach_formed {s : State} {f q : Nat} (h : s.Formed) : (s.detach f q).Formed := queueStatus_formed h

theorem freeEntry_formed {s : State} {f i : Nat} (h : s.Formed) : (s.freeEntry f i).Formed := by
  unfold State.freeEntry
  split
  · exact h
  · split
    · extract_lets free s1
      have h2 : s1.Formed := modHandle_formed h
      exact ite_formed (setReg_formed h2) h2
    · exact h

theorem revokeEntry_formed {s : State} {f i : Nat} {byHost : Bool} (h : s.Formed) : (s.revokeEntry f i byHost).Formed := by
  unfold State.revokeEntry
  split
  · exact h
  · split
    · exact h
    · extract_lets gs go ns
      exact freeEntry_formed (modHandle_formed h)

theorem revokeAll_formed {s : State} {f c : Nat} (h : s.Formed) : (s.revokeAll f c).Formed :=
  foldl_formed h fun _ _ h1 => revokeEntry_formed h1

theorem abandon_formed {s : State} {f c : Nat} (h : s.Formed) : (s.abandon f c).Formed := by
  unfold State.abandon
  extract_lets ws ls bs qs holds
  exact h

theorem killCtx_formed {s : State} {f c : Nat} (h : s.Formed) : (s.killCtx f c).Formed := by
  unfold State.killCtx
  extract_lets s1 qs s2 s3
  have h1 : s1.Formed := foldl_formed h fun _ _ h1 => quiesce_formed h1
  have h2 : s2.Formed := freeAccums_formed (abandon_formed h1)
  have h3 : s3.Formed := foldl_formed h2 fun _ _ h3 => detach_formed h3
  exact modCtx_formed (revokeAll_formed h3)

theorem commandStatus_formed {s : State} {f x : Nat} (h : s.Formed) : (s.commandStatus f x).Formed := setReg_formed h

theorem emptyCtx_formed {s : State} {f c : Nat} (h : s.Formed) : (s.emptyCtx f c).Formed := by
  unfold State.emptyCtx
  extract_lets qs
  exact foldl_formed (freeAccums_formed (abandon_formed h)) fun _ _ h1 => detach_formed h1

theorem freeCtx_formed {s : State} {f c : Nat} (h : s.Formed) : (s.freeCtx f c).Formed := by
  unfold State.freeCtx
  extract_lets s1 lone
  have h1 : s1.Formed := emptyCtx_formed h
  exact h1

theorem dropOrphans_formed {s : State} (h : s.Formed) : s.dropOrphans.Formed := by
  unfold State.dropOrphans
  extract_lets s1
  have h1 : s1.Formed := h
  exact h1

theorem settleDestroys_formed {s : State} (h : s.Formed) : s.settleDestroys.Formed :=
  foldl_formed h fun _ _ h1 => ite_formed h1 (commandStatus_formed (freeCtx_formed h1))

theorem settleGone_formed {s : State} (h : s.Formed) : s.settleGone.Formed := settleDestroys_formed (dropOrphans_formed h)

theorem modRv_formed {s : State} {w : Warp} {sc : Scope} {g : Rv → Rv} (h : s.Formed) : (s.modRv w sc g).Formed := modBlock_formed h

theorem unrelease_formed {s : State} {w : Warp} {sc : Scope} (h : s.Formed) : (s.unrelease w sc).Formed := by
  unfold State.unrelease
  extract_lets us clear
  exact h

theorem partDone_formed {s : State} {w : Warp} {sc : Scope} (h : s.Formed) : (s.partDone w sc).Formed := by
  unfold State.partDone
  split
  · exact h
  · extract_lets clear
    exact modWarp_formed h
  · extract_lets todo
    exact ite_formed (unrelease_formed (modRv_formed h)) (modRv_formed h)

theorem setRvState_formed {s : State} {w : Warp} {sc : Scope} {x : RvState} (h : s.Formed) : (s.setRvState w sc x).Formed := by
  unfold State.setRvState
  split
  · exact h
  · exact modWarp_formed h
  · exact modRv_formed h

theorem holdOthers_formed {s : State} {w : Warp} {sc : Scope} {old new : Mode} (h : s.Formed) : (s.holdOthers w sc old new).Formed := by
  unfold State.holdOthers
  extract_lets us put
  exact h

theorem backToGroup_formed {s : State} {u slot : Nat} {pc : Dword} (h : s.Formed) : (s.backToGroup u slot pc).Formed := modWarp_formed h

theorem holdPopulation_formed {s : State} {w : Warp} (h : s.Formed) : (s.holdPopulation w).Formed := by
  unfold State.holdPopulation
  split
  · exact h
  · extract_lets bs hold fault
    exact modPop_formed h

theorem enter_formed {s : State} {w : Warp} {r : Report} {handler : Dword} (h : s.Formed) : (s.enter w r handler).Formed := by
  unfold State.enter
  extract_lets s1 s2 s3
  have h1 : s1.Formed := modWarp_formed h
  have h2 : s2.Formed := by
    unfold s2
    split
    · exact modWarp_formed h1
    · exact h1
  have h3 : s3.Formed := ite_formed (holdPopulation_formed h2) h2
  split
  · exact setRvState_formed h3
  · split
    · exact h3
    · exact holdOthers_formed (setRvState_formed h3)

theorem report_formed {s : State} {r : Report} (h : s.Formed) : (s.report r).Formed := by
  unfold State.report
  split
  · exact h
  · extract_lets f c src rec_ src2 rec_2 s1 s2
    have h1 : s1.Formed := quiesce_formed (backToGroup_formed h)
    have h2 : s2.Formed := ite_formed (metMiss_formed h1) h1
    split
    · exact h
    · split
      · exact killCtx_formed (hostRecord_formed h)
      · split
        · exact killCtx_formed (hostRecord_formed h)
        · exact ite_formed (modWarp_formed h1) (enter_formed h2)

theorem passMembers_formed {s : State} {w : Warp} {sc : Scope} {next : Dword} (h : s.Formed) : (s.passMembers w sc next).Formed := by
  unfold State.passMembers
  extract_lets us pass
  exact h

theorem eret_formed {s : State} {w : Warp} {fr : Frame} {how : Resume} (h : s.Formed) : (s.eret w fr how).Formed := by
  unfold State.eret
  extract_lets s1
  have h1 : s1.Formed := modWarp_formed h
  split
  · exact ite_formed (setRvState_formed h1) h1
  · extract_lets s2 s3
    have h2 : s2.Formed := holdOthers_formed h1
    have h3 : s3.Formed := partDone_formed (setRvState_formed h2)
    split
    · exact setRvState_formed h2
    · split
      · exact unrelease_formed (modRv_formed (passMembers_formed h2))
      · exact ite_formed (modWarp_formed h3) h3

theorem popResume_formed {s : State} {reporter : Nat} {spare replay : Bool} {b : Block} (h : s.Formed) :
    (s.popResume reporter spare replay b).Formed := by
  unfold State.popResume
  extract_lets go rv clear
  exact modBlock_formed h

theorem popEret_formed {s : State} {w : Warp} {fr : Frame} {how mode : Resume} (h : s.Formed) : (s.popEret w fr how mode).Formed := by
  unfold State.popEret
  extract_lets replay s1 spare put
  have h1 : s1.Formed := modWarp_formed h
  split
  · exact h1
  · extract_lets s2
    have h2 : s2.Formed := foldl_formed h1 fun _ _ h2 => popResume_formed h2
    exact modPop_formed h2

/-! ## The operations of Machine/Operands.lean -/

theorem noteCached_formed {s : State} {keys : List Nat} (h : s.Formed) : (s.noteCached keys).Formed := by
  unfold State.noteCached
  extract_lets ks
  exact ite_formed h (roundShadows_formed h)

theorem cacheConsts_formed {s : State} {j : Job} {bank : Nat} {words : List Nat} (h : s.Formed) : (s.cacheConsts j bank words).Formed := by
  unfold State.cacheConsts
  extract_lets read new
  exact noteCached_formed (ite_formed h h)

theorem constWord_formed {s : State} {j : Job} {bank word lane : Nat} (h : s.Formed) :
    Got.Formed (fun _ => True) (s.constWord j bank word lane) := by
  unfold State.constWord
  extract_lets table size a
  split
  · exact trivial
  · split
    · exact trivial
    · split
      · exact trivial
      · split
        · exact noteMiss_formed h
        · exact trivial
        · exact trivial

theorem constOp_formed {s : State} {j : Job} {b : Nat} (h : s.Formed) : Got.Formed (fun _ => True) (s.constOp j b) :=
  ite_got trivial (constWord_formed h)

theorem uniform_formed {s : State} {j : Job} {k : ImmRow} {b : Opb} (h : s.Formed) : Got.Formed (fun _ => True) (s.uniform j k b) := by
  unfold State.uniform
  split
  · exact trivial
  · exact trivial
  · exact trivial
  · exact constOp_formed h
  · exact trivial
  · exact trivial
  · exact trivial

theorem operand_formed {s : State} {j : Job} {k : ImmRow} {b : Opb} (h : s.Formed) : Got.Formed (fun _ => True) (s.operand j k b) := by
  unfold State.operand
  split
  · exact trivial
  · exact got_bind_formed (uniform_formed h) fun _ _ => trivial

theorem uniform64_formed {s : State} {j : Job} {b : Opb} (h : s.Formed) : Got.Formed (fun _ => True) (s.uniform64 j b) := by
  unfold State.uniform64
  split
  · exact trivial
  · exact trivial
  · exact trivial
  · exact got_bind_formed (constOp_formed h) fun _ _ => got_bind_formed (constOp_formed h) fun _ _ => trivial
  · exact trivial
  · exact trivial
  · exact trivial

theorem operand64_formed {s : State} {j : Job} {b : Opb} (h : s.Formed) : Got.Formed (fun _ => True) (s.operand64 j b) := by
  unfold State.operand64
  split
  · exact trivial
  · exact got_bind_formed (uniform64_formed h) fun _ _ => trivial

theorem firstFail_formed {α : Type} {lanes : List Nat} {check : Nat → Got α} (h : ∀ (n : Nat), Got.Formed (fun _ => True) (check n)) :
    Got.Formed (fun _ => True) (firstFail lanes check) := by
  induction lanes with
  | nil =>
    rw [firstFail]
    exact trivial
  | cons a l ih =>
    rw [firstFail]
    exact got_bind_formed (h _) fun _ _ => got_bind_formed ih fun _ _ => trivial

theorem checkLane_formed {s : State} {c : Context} {k : AccKind} {size : Nat} {ea : Dword} {lane : Nat} (h : s.Formed) :
    Got.Formed (fun _ => True) (s.checkLane c k size ea lane) := by
  unfold State.checkLane
  split
  · exact trivial
  · split
    · exact trivial
    · split
      · exact trivial
      · exact trivial
      · exact noteMiss_formed h

theorem checkLanes_formed {s : State} {j : Job} {k : AccKind} {size : Nat} {ea : Nat → Dword} (h : s.Formed) :
    Got.Formed (fun _ => True) (s.checkLanes j k size ea) := firstFail_formed fun _ => checkLane_formed h

/-! ## The operations of Machine/Issue.lean -/

theorem settleFor_formed {s : State} {m : Meta} {w : Warp} {x : Option (BitVec 20)} (h : s.Formed) :
    OptionFormed State.Formed (s.settleFor m w x) := by
  unfold State.settleFor
  extract_lets one
  split
  · exact trivial
  · next e =>
      split
      · exact trivial
      · split
        · exact trivial
        · exact option_some e State.Formed (foldl_option_formed h fun _ _ h1 => option_bind_formed h1 fun _ h2 => settleOne_formed h2)

theorem eachMember_formed {α : Type} {j : Job} {ms : List Warp} {f : Job → Got α} {k : List (Warp × α) → Eff}
    (h : ∀ (k1 : Job), Got.Formed (fun _ => True) (f k1)) (h1 : ∀ (xs : List (Warp × α)), (k xs).Formed) :
    (eachMember j ms f k).Formed := by
  induction ms generalizing j f k with
  | nil =>
    rw [eachMember]
    exact h1 _
  | cons a l ih =>
    rw [eachMember]
    split
    · exact ih (fun _ => h _) fun _ => h1 _
    · exact ite_eff trivial trivial
    · next e => exact got_wait e (h _)

theorem finishAt_formed {s : State} {w : Warp} {slot : Nat} {sc : Scope} {pc : Dword} (h : s.Formed) :
    (s.finishAt w slot sc pc).Formed := by
  unfold State.finishAt
  extract_lets s1
  have h1 : s1.Formed := modWarp_formed h
  exact partDone_formed h1

theorem finish_formed {s : State} {m : Meta} {j : Job} (h : s.Formed) : (s.finish m j).Formed :=
  ite_formed (foldl_formed h fun _ _ h1 => finishAt_formed h1) (finishAt_formed h)

theorem noteIssue_formed {s : State} {u : Nat} (h : s.Formed) : (s.noteIssue u).Formed := modWarp_formed h

theorem conclude_formed {s : State} {m : Meta} {j : Job} {e : Eff} (h : s.Formed) (h1 : e.Formed) : (s.conclude m j e).Formed := by
  unfold State.conclude
  split
  · exact finish_formed h1
  · extract_lets s'1 pc
    have h2 : s'1.Formed := modWarp_formed h1
    exact finishAt_formed h2
  · exact report_formed (noteIssue_formed h)
  · extract_lets slot
    exact report_formed (backToGroup_formed (noteIssue_formed h))
  · exact modWarp_formed (backToGroup_formed h1)
  · exact backToGroup_formed h1
  · exact noteIssue_formed h1

theorem arrive_formed {s : State} {w : Warp} {slot : Nat} {start : Dword} {sc : Scope} (h : s.Formed) :
    (s.arrive w slot start sc).Formed := by
  unfold State.arrive
  extract_lets s1
  have h1 : s1.Formed := modWarp_formed (backToGroup_formed h)
  exact ite_formed (modRv_formed h1) h1

theorem passWarp_formed {s : State} {m : Meta} {u slot : Nat} (h : s.Formed) : (s.passWarp m u slot).Formed := by
  unfold State.passWarp
  split
  · extract_lets free
    exact modWarp_formed h
  · exact h

theorem populationArrives_formed {s : State} {cls : Cls} {launch : Nat} (h : s.Formed) : (s.populationArrives cls launch).Formed := by
  unfold State.populationArrives
  extract_lets gather
  exact ite_formed (modPop_formed h) h

theorem settleMembers_formed {s : State} {m : Meta} {x : Option (BitVec 20)} {a : List Nat} (h : s.Formed) :
    OptionFormed State.Formed (s.settleMembers m x a) := by
  induction a generalizing s m x with
  | nil =>
    rw [State.settleMembers]
    exact h
  | cons a1 l ih =>
    rw [State.settleMembers]
    split
    · exact ih h
    · split
      · exact trivial
      · next e1 => exact ih (option_some e1 State.Formed (settleFor_formed h))

theorem cacheOperand_formed {s : State} {m : Meta} {j : Job} (h : s.Formed) : (s.cacheOperand m j).Formed := by
  unfold State.cacheOperand
  split
  · split
    · exact h
    · extract_lets n
      exact cacheConsts_formed h
  · exact h

theorem judgeMembers_formed {s : State} {m : Meta} {j : Job} {x : Option (BitVec 20)} {mask : LaneMask} (h : s.Formed) :
    (s.judgeMembers m j x mask).Formed := by
  unfold State.judgeMembers
  split
  · exact report_formed (backToGroup_formed h)
  · extract_lets full
    split
    · exact report_formed (noteIssue_formed h)
    · exact cacheOperand_formed h

theorem judge_formed {s : State} {m : Meta} (h : s.Formed) : (s.judge m).Formed := by
  unfold State.judge
  split
  · exact trivial
  · split
    · extract_lets slot start addr next x5 rep
      split
      · exact report_formed h
      · split
        · exact backToGroup_formed h
        · next e6 =>
            split
            · exact trivial
            · extract_lets live job j gathering s1
              have h1 : s1.Formed := passWarp_formed (option_some e6 State.Formed (settleFor_formed h))
              split
              · exact report_formed (option_some e6 State.Formed (settleFor_formed h))
              · split
                · exact populationArrives_formed (arrive_formed (option_some e6 State.Formed (settleFor_formed h)))
                · split
                  · exact backToGroup_formed h1
                  · next e9 =>
                      split
                      · exact trivial
                      · exact judgeMembers_formed (option_some e9 State.Formed (settleMembers_formed h1))
    · exact trivial

theorem issue_formed {m : Meta} {s : State} {body : State → Job → Eff} (h : s.Formed)
    (h1 : ∀ (t : State) (k : Job), t.Formed → (body t k).Formed) :
    OutcomeFormed (issue m s body) := by
  unfold issue
  split
  · exact trivial
  · next e => exact verdict_wait e (judge_formed h)
  · next e => exact conclude_formed (verdict_go e (judge_formed h)) (h1 _ _ (verdict_go e (judge_formed h)))

/-! ## The operations of Machine/LaneOps.lean -/

theorem put_formed {s : State} {j : Job} {g : Warp → Warp} (h : s.Formed) : (s.put j g).Formed := modWarp_formed h

theorem putRow_formed {s : State} {j : Job} {x : Row} (h : s.Formed) : (s.putRow j x).Formed := put_formed h

theorem putRow64_formed {s : State} {j : Job} {x : Row64} (h : s.Formed) : (s.putRow64 j x).Formed := put_formed h

theorem laneOp_formed {k : ImmRow} {b : Opb} {f : Word → Word → Word → Word} {s : State} {j : Job} (h : s.Formed) :
    (laneOp k b f s j).Formed := got_eff_formed (operand_formed h) fun _ _ => putRow_formed h

theorem laneOp64_formed {b : Opb} {f : Dword → Dword → Dword} {s : State} {j : Job} (h : s.Formed) : (laneOp64 b f s j).Formed :=
  got_eff_formed (operand64_formed h) fun _ _ => putRow64_formed h

theorem laneLea_formed {b : Opb} {f : Dword → Dword → Dword} {s : State} {j : Job} (h : s.Formed) : (laneLea b f s j).Formed :=
  got_eff_formed (operand_formed h) fun _ _ => putRow64_formed h

theorem laneCmp_formed {b : Opb} {q : BitVec 3} {comb : BitVec 2} {c : Word → Word → Bool} {s : State} {j : Job} (h : s.Formed) :
    (laneCmp b q comb c s j).Formed := got_eff_formed (operand_formed h) fun _ _ => put_formed h

theorem laneFloat_formed {k : ImmRow} {b : Opb} {f : Word → Word → Word → Word × Fx} {s : State} {j : Job} (h : s.Formed) :
    (laneFloat k b f s j).Formed := by
  unfold laneFloat
  refine got_eff_formed (operand_formed h) fun _ _ => ?_
  extract_lets r
  split
  · exact trivial
  · exact putRow_formed h

theorem laneFcmp_formed {b : Opb} {q : BitVec 3} {comb : BitVec 2} {c : Word → Word → Bool × Fx} {s : State} {j : Job} (h : s.Formed) :
    (laneFcmp b q comb c s j).Formed := by
  unfold laneFcmp
  refine got_eff_formed (operand_formed h) fun _ _ => ?_
  extract_lets r
  split
  · exact trivial
  · exact put_formed h

theorem scalarOp_formed {d a : Reg} {b : Opb} {f : Word → Word → Word} {s : State} {j : Job} (h : s.Formed) :
    (scalarOp d a b f s j).Formed := got_eff_formed (uniform_formed h) fun _ _ => put_formed h

theorem scalarCmp_formed {a : Reg} {b : Opb} {q : BitVec 3} {comb : BitVec 2} {c : Word → Word → Bool} {s : State} {j : Job}
    (h : s.Formed) :
    (scalarCmp a b q comb c s j).Formed := got_eff_formed (uniform_formed h) fun _ _ => put_formed h

/-! ## The operations of Machine/LoadStore.lean -/

theorem execLd_formed {sc : Scope} {d a pol : Reg} {size : BitVec 3} {sx as : Bool} {s : State} (h : s.Formed) :
    OutcomeFormed (execLd sc d a pol size sx as s) := by
  unfold execLd
  refine issue_formed h fun _ _ h1 => ?_
  extract_lets p n
  split
  · exact h1
  · split
    · exact trivial
    · split
      · exact h1
      · refine got_eff_formed (checkLanes_formed h1) fun _ _ => ?_
        extract_lets op
        exact put_formed h1

theorem execSt_formed {sc : Scope} {d a pol : Reg} {size : BitVec 3} {g as : Bool} {s : State} (h : s.Formed) :
    OutcomeFormed (execSt sc d a pol size g as s) := by
  unfold execSt
  refine issue_formed h fun _ _ h1 => ?_
  extract_lets p n
  split
  · exact h1
  · split
    · exact trivial
    · refine got_eff_formed (checkLanes_formed h1) fun _ _ => ?_
      split
      · exact h1
      · extract_lets bytes e
        exact put_formed h1

theorem scratchCheck_formed {l : Launch} {alloc n : Nat} {o : Word} {lane : Nat} :
    Got.Formed (fun _ => True) (scratchCheck l alloc n o lane) := ite_got trivial (ite_got trivial trivial)

theorem job_offsets_formed {j : Job} {alloc : BitVec 3} {n : Nat} {ok : Bool} {off : Reg} :
    Got.Formed (fun _ => True) (j.offsets alloc n ok off) := firstFail_formed fun _ => scratchCheck_formed

theorem countTaken_formed {s : State} {j : Job} (h : s.Formed) : (s.countTaken j).Formed := put_formed h

theorem execLds_formed {sc : Scope} {d off : Reg} {alloc size : BitVec 3} {ok : Bool} {s : State} (h : s.Formed) :
    OutcomeFormed (execLds sc d off alloc size ok s) := by
  unfold execLds
  refine issue_formed h fun _ _ h1 => ?_
  extract_lets n
  split
  · exact h1
  · split
    · exact h1
    · refine got_eff_formed job_offsets_formed fun _ _ => ?_
      extract_lets at_ s1
      have h3 : s1.Formed := put_formed h1
      exact countTaken_formed h3

theorem execSts_formed {sc : Scope} {d off : Reg} {alloc size : BitVec 3} {ok : Bool} {s : State} (h : s.Formed) :
    OutcomeFormed (execSts sc d off alloc size ok s) := by
  unfold execSts
  refine issue_formed h fun _ _ h1 => ?_
  extract_lets n
  exact got_eff_formed job_offsets_formed fun _ _ => modBlock_formed h1

theorem execLdc_formed {sc : Scope} {d a : Reg} {b : Opb} {s : State} (h : s.Formed) : OutcomeFormed (execLdc sc d a b s) := by
  unfold execLdc
  refine issue_formed h fun _ _ h1 => ?_
  split
  · exact h1
  · split
    · exact h1
    · refine got_eff_formed (operand_formed h1) fun _ _ => ?_
      extract_lets index
      refine got_eff_formed (firstFail_formed fun _ => constWord_formed h1) fun _ _ => ?_
      extract_lets val
      exact countTaken_formed (putRow_formed (cacheConsts_formed h1))

/-! ## The operations of Machine/Atomic.lean -/

theorem atomCheck_formed {s : State} {j : Job} {k : AccKind} {fn : Nat} {wide : Bool} {lane : Nat} (h : s.Formed) :
    Got.Formed (fun _ => True) (s.atomCheck j k fn wide lane) := by
  unfold State.atomCheck
  extract_lets ea
  exact got_bind_formed (checkLane_formed h) fun _ _ => ite_got trivial trivial

theorem sendAtoms_formed {s : State} {j : Job} {k : AccKind} {fn : Nat} {wide returns : Bool} {acc : Nat → Place → AtomAcc} (h : s.Formed) :
    (s.sendAtoms j k fn wide returns acc).Formed := by
  unfold State.sendAtoms
  split
  · exact h
  · refine got_eff_formed (firstFail_formed fun _ => atomCheck_formed h) fun _ _ => ?_
    extract_lets id rs op s1
    have h2 : s1.Formed := h
    exact ite_eff h (put_formed h2)

theorem atom_formed {fn : Nat} {sc : Scope} {d a b : Reg} {wide : Bool} {s : State} (h : s.Formed) :
    OutcomeFormed (atom fn sc d a b wide s) := issue_formed h fun _ _ h1 => sendAtoms_formed h1

theorem red_formed {fn : Nat} {sc : Scope} {a b : Reg} {wide : Bool} {s : State} (h : s.Formed) : OutcomeFormed (red fn sc a b wide s) :=
  issue_formed h fun _ _ h1 => sendAtoms_formed h1

/-! ## The operations of Machine/Blocks.lean -/

theorem qsmCheck_formed {l : Launch} {y src dst : Word} {lane : Nat} : Got.Formed (fun _ => True) (qsmCheck l y src dst lane) := by
  unfold qsmCheck
  extract_lets n range fail
  split
  · exact trivial
  · split
    · exact trivial
    · exact ite_got trivial (ite_got trivial (ite_got trivial (ite_got trivial trivial)))

theorem execQsm_formed {sc : Scope} {d a : Reg} {b : Opb} {s : State} (h : s.Formed) : OutcomeFormed (execQsm sc d a b s) := by
  unfold execQsm
  refine issue_formed h fun _ _ h1 => ?_
  split
  · exact h1
  · split
    · exact h1
    · refine got_eff_formed (operand_formed h1) fun _ _ => ?_
      extract_lets src dst run res
      refine got_eff_formed (firstFail_formed fun _ => qsmCheck_formed) fun _ _ => ?_
      split
      · exact trivial
      · exact countTaken_formed (putRow_formed (modBlock_formed h1))

theorem job_qpCheck_formed {j : Job} {pack : Bool} {ys : Row} : Got.Formed (fun _ => True) (j.qpCheck pack ys) :=
  firstFail_formed fun _ => ite_got trivial trivial

theorem execQpack_formed {sc : Scope} {d a : Reg} {b : Opb} {s : State} (h : s.Formed) : OutcomeFormed (execQpack sc d a b s) := by
  unfold execQpack
  refine issue_formed h fun _ _ h1 => ?_
  refine got_eff_formed (operand_formed h1) fun _ _ => ?_
  refine got_eff_formed job_qpCheck_formed fun _ _ => ?_
  extract_lets r
  split
  · exact trivial
  · exact putRow_formed h1

theorem execQunpk_formed {sc : Scope} {d a : Reg} {b : Opb} {s : State} (h : s.Formed) : OutcomeFormed (execQunpk sc d a b s) := by
  unfold execQunpk
  refine issue_formed h fun _ _ h1 => ?_
  refine got_eff_formed (operand_formed h1) fun _ _ => ?_
  refine got_eff_formed job_qpCheck_formed fun _ _ => ?_
  extract_lets r
  split
  · exact trivial
  · exact put_formed h1

/-! ## The operations of Machine/Convert.lean -/

theorem execCvt_formed {sc : Scope} {d a : Reg} {code : BitVec 6} {sat : Bool} {rnd : BitVec 2} {s : State} (h : s.Formed) :
    OutcomeFormed (execCvt sc d a code sat rnd s) := by
  unfold execCvt
  extract_lets c
  refine issue_formed h fun _ _ h1 => ?_
  extract_lets r
  split
  · exact trivial
  · exact ite_eff (putRow64_formed h1) (putRow_formed h1)

/-! ## The operations of Machine/Ctrl.lean -/

theorem decide_formed {s : State} {j : Job} {compute : Bool × Dword} (h : s.Formed) : (s.decide_ j compute).1.Formed := by
  unfold State.decide_
  split
  · split
    · exact h
    · exact modRv_formed h
  · exact h

theorem goers_formed {s : State} {j : Job} {p : BitVec 3} {n : Bool} (h : s.Formed) : (s.goers j p n).1.Formed := by
  unfold State.goers
  split
  · exact h
  · extract_lets any r
    have h1 : r.1.Formed := decide_formed h
    exact h1

theorem execBr_formed {sc : Scope} {p : BitVec 3} {n : Bool} {disp : BitVec 20} {s : State} (h : s.Formed) :
    OutcomeFormed (execBr sc p n disp s) := by
  unfold execBr
  refine issue_formed h fun _ _ h1 => ?_
  extract_lets t1 r
  have h2 : r.1.Formed := goers_formed h1
  exact h2

theorem execCall_formed {sc : Scope} {p : BitVec 3} {n : Bool} {disp : BitVec 20} {s : State} (h : s.Formed) :
    OutcomeFormed (execCall sc p n disp s) := by
  unfold execCall
  refine issue_formed h fun _ _ h1 => ?_
  extract_lets t1 r
  have h2 : r.1.Formed := goers_formed h1
  split
  · exact trivial
  · exact put_formed h2

theorem targetsOf_formed {s : State} {j : Job} {w : Warp} {b : Opb} (h : s.Formed) : Got.Formed (fun _ => True) (s.targetsOf j w b) :=
  operand64_formed h

theorem routes_formed {s : State} {j : Job} {own : Warp → Got Row64} (h : s.Formed)
    (h1 : ∀ (y : Warp), Got.Formed (fun _ => True) (own y)) :
    Got.Formed (fun x => x.1.Formed) (s.routes j own) := by
  unfold State.routes
  split
  · exact got_bind_formed (h1 _) fun _ _ => h
  · extract_lets w0
    refine got_bind_formed (h1 _) fun _ _ => ?_
    extract_lets r
    have h3 : r.1.Formed := decide_formed h
    exact h3

theorem execBrx_formed {sc : Scope} {b : Opb} {s : State} (h : s.Formed) : OutcomeFormed (execBrx sc b s) := by
  unfold execBrx
  refine issue_formed h fun _ _ h1 => ?_
  refine got_eff_formed (routes_formed h1 fun _ => targetsOf_formed h1) fun _ h2 => ?_
  split
  · exact trivial
  · exact h2

theorem execCallx_formed {sc : Scope} {b : Opb} {s : State} (h : s.Formed) : OutcomeFormed (execCallx sc b s) := by
  unfold execCallx
  refine issue_formed h fun _ _ h1 => ?_
  refine got_eff_formed (routes_formed h1 fun _ => targetsOf_formed h1) fun _ h2 => ?_
  split
  · exact trivial
  · split
    · exact trivial
    · exact put_formed h2

theorem execRet_formed {sc : Scope} {s : State} (h : s.Formed) : OutcomeFormed (execRet sc s) := by
  unfold execRet
  refine issue_formed h fun _ _ h1 => ?_
  split
  · exact trivial
  · refine got_eff_formed (routes_formed h1 fun _ => trivial) fun _ h2 => ?_
    split
    · exact trivial
    · exact put_formed h2

theorem reopen_formed {s : State} {w : Warp} (h : s.Formed) : (s.reopen w).Formed := by
  unfold State.reopen
  extract_lets one
  exact setRvState_formed (foldl_formed h fun _ _ h1 => ite_formed (setRvState_formed h1) h1)

theorem endWarp_formed {s : State} {w : Warp} (h : s.Formed) : (s.endWarp w).Formed := by
  unfold State.endWarp
  extract_lets f c lost s1
  have h1 : s1.Formed := foldl_formed h fun _ _ h1 => hostRecord_formed h1
  exact reopen_formed (freeAccums_formed (modWarp_formed h1))

theorem endPopulation_formed {s : State} {launch : Nat} (h : s.Formed) : (s.endPopulation launch).Formed := by
  unfold State.endPopulation
  extract_lets bs ended
  exact ite_formed h (foldl_formed (modPop_formed h) fun _ _ h1 => endWarp_formed h1)

theorem vacate_formed {s : State} {w : Warp} (h : s.Formed) : (s.vacate w).Formed := by
  unfold State.vacate
  split
  · exact ite_formed (endPopulation_formed (reopen_formed (modWarp_formed h))) (endWarp_formed h)
  · exact endWarp_formed h

theorem exitSplit_formed {s : State} {w : Warp} {slot : Nat} {m : LaneMask} (h : s.Formed) : (s.exitSplit w slot m).Formed := by
  unfold State.exitSplit
  extract_lets s1 s2
  have h1 : s1.Formed := modWarp_formed h
  have h2 : s2.Formed := closeRays_formed h1
  split
  · exact h2
  · exact ite_formed (vacate_formed h2) h2

theorem joinHint_formed {kind : Nat} {payload : BitVec 20} {sc : Scope} {s : State} (h : s.Formed) :
    OutcomeFormed (joinHint kind payload sc s) := by
  unfold joinHint
  split
  · exact trivial
  · split
    · exact report_formed h
    · extract_lets h1
      exact modWarp_formed h

/-! ## The operations of Machine/Engine.lean -/

theorem atomicAt_formed {s : State} {home : HomeOf} {fn : Nat} {wide : Bool} {key y z : Nat} (h : s.Formed) :
    (s.atomicAt home fn wide key y z).1.Formed := by
  unfold State.atomicAt
  extract_lets n keys s1 fmt own s2 old sum new s3 old2
  have h1 : s1.Formed := dirtySlice_formed h
  have h2 : s2.Formed := roundThose_formed h1
  have h3 : s3.Formed := roundThose_formed h1
  split
  · exact h2
  · exact remember_formed (memWrite_wf h3 _ _)

theorem accPut_formed {s : State} {core first span i j : Nat} {x : Word} (h : s.Formed) : (s.accPut core first span i j x).Formed := by
  unfold State.accPut
  extract_lets put
  exact h

theorem accClear_formed {s : State} {core first span : Nat} (h : s.Formed) : (s.accClear core first span).Formed := by
  unfold State.accClear
  extract_lets put
  exact h

theorem accClaim_formed {s : State} {core first span : Nat} {h : Holder} (h1 : s.Formed) : (s.accClaim core first span h).Formed := by
  unfold State.accClaim
  extract_lets free
  exact h1

theorem checkRanges_formed {s : State} {c : Context} {k : AccKind} {refuse : Place → Bool} {rs : List (Nat × Nat)} (h : s.Formed) :
    Got.Formed (fun _ => True) (s.checkRanges c k refuse rs) :=
  firstFail_formed fun _ => got_bind_formed (checkLane_formed h) fun _ _ => ite_got trivial trivial

theorem finishTile_formed {s : State} {u id : Nat} (h : s.Formed) : (s.finishTile u id).Formed := modWarp_formed h

theorem finishCopy_formed {s : State} {u id : Nat} (h : s.Formed) : (s.finishCopy u id).Formed := modWarp_formed h

theorem finishLoop_formed {s : State} {e : EngJob} (h : s.Formed) : (s.finishLoop e).Formed := finishLoad_formed (finishTile_formed h)

theorem dropJob_formed {s : State} {e : EngJob} (h : s.Formed) : (s.dropJob e).Formed := h

theorem doInstant_formed {s : State} {e : EngJob} (h : s.Formed) : (s.doInstant e).Formed := by
  unfold State.doInstant
  extract_lets s1
  have h1 : s1.Formed := dropJob_formed h
  split
  · exact finishTile_formed (accClear_formed h1)
  · extract_lets row
    exact finishLoad_formed (modWarp_formed h1)
  · exact finishTile_formed (foldl_formed h1 fun _ _ h2 => accPut_formed h2)
  · extract_lets f
    refine finishTile_formed ?_
    refine foldl_formed h1 fun _ _ h2 => ?_
    extract_lets x1
    exact accPut_formed h2
  · exact finishLoop_formed (ite_formed (accClear_formed h1) h1)
  · exact h1

theorem engineRun_formed {s : State} {core a : Nat} (h : s.Formed) : (s.engineRun core a).Formed := by
  induction a generalizing s core with
  | zero =>
    rw [State.engineRun]
    exact h
  | succ n ih =>
    rw [State.engineRun]
    split
    · exact freeAccums_formed h
    · exact ih (doInstant_formed h)

theorem pushJob_formed {s : State} {e : EngJob} (h : s.Formed) : (s.pushJob e).Formed := by
  unfold State.pushJob
  extract_lets s1
  have h1 : s1.Formed := h
  exact engineRun_formed h1

theorem stepOf_formed {s : State} {e : EngJob} {l : Loop} (h : s.Formed) : ExceptFormed State.Formed (s.stepOf e l) := by
  unfold State.stepOf
  extract_lets kA kB n m linesA linesB s1 ms old
  have h1 : s1.Formed := roundShadows_formed h
  split
  · exact trivial
  · split
    · exact trivial
    · refine foldl_formed h1 fun _ _ h2 => ?_
      extract_lets sum v
      exact accPut_formed h2

theorem addAsync_formed {s : State} {u : Nat} {a : AsyncCause} (h : s.Formed) : (s.addAsync u a).Formed := by
  unfold State.addAsync
  extract_lets s1
  have h1 : s1.Formed := by
    unfold s1
    split
    · exact unitMet_formed h
    · exact h
  exact modWarp_formed h1

theorem unitWait_formed {s : State} {f c : Nat} {k : AccKind} {a : Nat} (h : s.Formed) : (s.unitWait f c k a).Formed := by
  unfold State.unitWait
  split
  · exact noteMiss_formed h
  · exact h

theorem stopLoop_formed {s : State} {e : EngJob} {l : Loop} {x : Nat × Nat} (h : s.Formed) : (s.stopLoop e l x).Formed := by
  unfold State.stopLoop
  extract_lets s1 s2
  have h1 : s1.Formed := ite_formed (accClear_formed h) h
  have h2 : s2.Formed := finishLoop_formed (addAsync_formed (dropJob_formed h1))
  exact engineRun_formed h2

theorem kstep_formed {s : State} {core : Nat} (h : s.Formed) : (s.kstep core).Formed := by
  unfold State.kstep
  split
  · exact h
  · split
    · exact ite_formed (unitWait_formed h) (stopLoop_formed h)
    · next e2 =>
        extract_lets next s'1
        have h1 : s'1.Formed := noteDone_formed (formed_of_mem (except_ok e2 State.Formed (stepOf_formed h)) rfl)
        exact engineRun_formed h1

theorem ring_formed {s : State} {op : Nat} (h : s.Formed) : (s.ring op).Formed := by
  unfold State.ring
  split
  · exact h
  · extract_lets out last
    exact foldl_formed h fun _ _ h1 => doorbell_formed h1

theorem unitPut_formed {s : State} {c : Context} {op : Nat} {gmode : Bool} {ps : List Place} {bytes : List Byte} {va : Dword}
    (h : s.Formed) :
    (s.unitPut c op gmode ps bytes va).Formed := by
  unfold State.unitPut
  extract_lets cells far away here_ s1 s2 key
  have h1 : s1.Formed := ite_formed h (placeWrite_formed h)
  have h2 : s2.Formed := ite_formed h1 h1
  refine ring_formed ?_
  refine foldl_formed h2 fun _ _ h3 => ?_
  split
  · exact h3
  · extract_lets fl
    exact h3

theorem unitAtom_formed {s : State} {c : Context} {op : Nat} {p : Place} {fn : Nat} {accs : List AtomAcc} {va : Dword} {broken : Nat}
    (h : s.Formed) :
    (s.unitAtom c op p fn accs va broken).Formed := by
  unfold State.unitAtom
  extract_lets r
  exact h

theorem uncount_formed {s : State} {op : Nat} (h : s.Formed) : (s.uncount op).Formed := by
  unfold State.uncount
  extract_lets put
  exact h

theorem drainPut_formed {s : State} {c : Context} {e : EngJob} {h : BitVec 512} {add : Bool} {x : DrainElem} (h1 : s.Formed) :
    (s.drainPut c e h add x).Formed := by
  unfold State.drainPut
  extract_lets p bits ps
  split
  · exact atomicAt_formed (invalReplicas_formed h1)
  · exact uncount_formed (unitPut_formed h1)

theorem drainRequest_formed {s : State} {c : Context} {e : EngJob} {h : BitVec 512} {xs : List DrainElem} (h1 : s.Formed) :
    (s.drainRequest c e h xs).Formed := by
  unfold State.drainRequest
  split
  · exact h1
  · extract_lets accs
    exact unitAtom_formed h1

theorem dropL1Lines_formed {s : State} {core : Nat} {lines : List Nat} (h : s.Formed) : (s.dropL1Lines core lines).Formed := h

theorem drainWrite_formed {s : State} {c : Context} {e : EngJob} {h : BitVec 512} {add : Bool} {xs : List DrainElem} (h1 : s.Formed) :
    (s.drainWrite c e h add xs).Formed := by
  unfold State.drainWrite
  extract_lets lines live asked s1 s2
  have h2 : s1.Formed := foldl_formed h1 fun _ _ h2 => drainPut_formed h2
  have h3 : s2.Formed := foldl_formed h2 fun _ _ h3 => drainRequest_formed h3
  exact dropL1Lines_formed h3

theorem drainFree_formed {s : State} {e : EngJob} (h : s.Formed) : (s.drainFree e).Formed := by
  unfold State.drainFree
  extract_lets s1
  have h1 : s1.Formed := accClear_formed h
  exact h1

theorem drainEnd_formed {s : State} {e : EngJob} {free : Bool} (h : s.Formed) : (s.drainEnd e free).Formed := by
  unfold State.drainEnd
  extract_lets s1 s2 s3
  have h1 : s1.Formed := dropJob_formed h
  have h2 : s2.Formed := by
    unfold s2
    split
    · exact addAsync_formed h1
    · exact h1
  have h3 : s3.Formed := finishCopy_formed (ite_formed (drainFree_formed h2) h2)
  exact engineRun_formed h3

theorem modJob_formed {s : State} {id : Nat} {g : EngJob → EngJob} (h : s.Formed) : (s.modJob id g).Formed := h

theorem drainWait_formed {s : State} {e : EngJob} {free : Bool} (h : s.Formed) : (s.drainWait e free).Formed := by
  unfold State.drainWait
  extract_lets queued
  exact ite_formed (modJob_formed h) (drainEnd_formed h)

theorem drainQueue_formed {s : State} {e : EngJob} {h : BitVec 512} {add free : Bool} {gr gc : Nat} (h1 : s.Formed) :
    (s.drainQueue e h add free gr gc).Formed := by
  unfold State.drainQueue
  split
  · extract_lets op qs src s1
    have h2 : s1.Formed := modWarp_formed h1
    exact ite_formed (drainEnd_formed h1) (ite_formed h1 (drainWait_formed (modBlock_formed h2)))
  · exact drainEnd_formed h1

theorem drainDone_formed {s : State} {core : Nat} (h : s.Formed) : (s.drainDone core).Formed := by
  unfold State.drainDone
  split
  · exact h
  · split
    · split
      · exact drainWait_formed h
      · split
        · exact drainQueue_formed h
        · split
          · exact unitWait_formed h
          · extract_lets lines last
            split
            · exact drainWait_formed h
            · exact ite_formed (drainWait_formed (drainWrite_formed h)) (modJob_formed (drainWrite_formed h))
    · exact dropJob_formed h

/-! ## The operations of Machine/Sync.lean -/

theorem awaitLoads_formed {s : State} {u : Nat} (h : s.Formed) : (s.awaitLoads u).1.Formed := by
  unfold State.awaitLoads
  extract_lets s1
  have h1 : s1.Formed := settleAll_formed h
  split <;> exact h1

theorem acquire_formed {s : State} {core scope : Nat} (h : s.Formed) : (s.acquire core scope).Formed := ite_formed (invalL1_formed h) h

theorem releaseFence_formed {s : State} {u scope : Nat} (h : s.Formed) : (s.releaseFence u scope).Formed := modWarp_formed h

theorem execFenceAcq_formed {sc : Scope} {ms : BitVec 2} {s : State} (h : s.Formed) : OutcomeFormed (execFenceAcq sc ms s) := by
  unfold execFenceAcq
  refine issue_formed h fun _ _ h1 => ?_
  extract_lets r
  have h2 : r.1.Formed := awaitLoads_formed h1
  exact ite_eff (acquire_formed h2) h2

theorem execFenceRel_formed {sc : Scope} {ms : BitVec 2} {s : State} (h : s.Formed) : OutcomeFormed (execFenceRel sc ms s) := by
  unfold execFenceRel
  refine issue_formed h fun _ _ h1 => ?_
  split
  · extract_lets s1
    have h2 : s1.Formed := drainAll_formed (settleAll_formed h1)
    exact ite_eff (releaseFence_formed h2) h2
  · exact releaseFence_formed h1

theorem execFenceFull_formed {sc : Scope} {ms : BitVec 2} {s : State} (h : s.Formed) : OutcomeFormed (execFenceFull sc ms s) := by
  unfold execFenceFull
  refine issue_formed h fun _ _ h1 => ?_
  extract_lets r s1
  have h2 : r.1.Formed := awaitLoads_formed h1
  have h3 : s1.Formed := drainAll_formed h2
  exact ite_eff (acquire_formed (releaseFence_formed h3)) h3

theorem execFlushv_formed {sc : Scope} {a : Reg} {b : Opb} {s : State} (h : s.Formed) : OutcomeFormed (execFlushv sc a b s) := by
  unfold execFlushv
  refine issue_formed h fun _ _ h1 => ?_
  refine got_eff_formed (uniform_formed h1) fun _ _ => ?_
  extract_lets start pages stop
  split
  · exact h1
  · refine got_eff_formed (firstFail_formed fun _ => checkLane_formed h1) fun _ _ => ?_
    split
    · exact h1
    · extract_lets ranges e
      exact put_formed h1

theorem execWait_formed {sc : Scope} {ldn stn cpn ton : BitVec 6} {s : State} (h : s.Formed) :
    OutcomeFormed (execWait sc ldn stn cpn ton s) := by
  unfold execWait
  refine issue_formed h fun _ _ h1 => ?_
  extract_lets s1
  have h2 : s1.Formed := ite_formed h1 (settleAll_formed h1)
  split
  · exact h2
  · exact ite_eff h2 (ite_eff h2 h2)

theorem selected_formed {s : State} {j : Job} {b : Opb} (h : s.Formed) : Got.Formed (fun _ => True) (s.selected j b) := by
  unfold State.selected
  refine got_bind_formed (uniform_formed h) fun _ _ => ?_
  repeat' split
  all_goals exact trivial

theorem execWcrd_formed {sc : Scope} {d : Reg} {b : Opb} {s : State} (h : s.Formed) : OutcomeFormed (execWcrd sc d b s) := by
  unfold execWcrd
  refine issue_formed h fun _ _ h1 => ?_
  refine got_eff_formed (selected_formed h1) fun _ _ => ?_
  extract_lets c
  exact ite_eff trivial (put_formed h1)

theorem execWcwait_formed {sc : Scope} {a : Reg} {b : Opb} {s : State} (h : s.Formed) : OutcomeFormed (execWcwait sc a b s) := by
  unfold execWcwait
  refine issue_formed h fun _ _ h1 => ?_
  refine got_eff_formed (selected_formed h1) fun _ _ => ?_
  extract_lets c q
  have h3 : q.1.Formed := awaitLoads_formed h1
  exact ite_eff trivial (ite_eff trivial (ite_eff h1 (ite_eff (acquire_formed h3) h3)))

theorem execWcrst_formed {sc : Scope} {b : Opb} {s : State} (h : s.Formed) : OutcomeFormed (execWcrst sc b s) := by
  unfold execWcrst
  refine issue_formed h fun _ _ h1 => ?_
  refine got_eff_formed (selected_formed h1) fun _ _ => ?_
  extract_lets clear
  exact modCtx_formed h1

theorem modCbuf_formed {s : State} {block buf : Nat} {g : Cbuf → Cbuf} (h : s.Formed) : (s.modCbuf block buf g).Formed := modBlock_formed h

theorem cbuf_formed {s : State} {j : Job} {b : Opb} (h : s.Formed) : Got.Formed (fun _ => True) (s.cbuf j b) := by
  unfold State.cbuf
  refine got_bind_formed (uniform_formed h) fun _ _ => ?_
  split
  · exact trivial
  · exact ite_got trivial trivial

theorem execCbwait_formed {sc : Scope} {d : Reg} {b : Opb} {s : State} (h : s.Formed) : OutcomeFormed (execCbwait sc d b s) := by
  unfold execCbwait
  refine issue_formed h fun _ _ h1 => ?_
  split
  · exact h1
  · refine got_eff_formed (cbuf_formed h1) fun _ _ => ?_
    split
    · exact h1
    · extract_lets q
      have h3 : q.1.Formed := awaitLoads_formed h1
      exact ite_eff (putRow_formed (acquire_formed h3)) h3

theorem execCbinit_formed {sc : Scope} {a : Reg} {b : Opb} {s : State} (h : s.Formed) : OutcomeFormed (execCbinit sc a b s) := by
  unfold execCbinit
  refine issue_formed h fun _ _ h1 => ?_
  split
  · exact h1
  · refine got_eff_formed (uniform_formed h1) fun _ _ => ?_
    extract_lets rec_
    split
    · exact trivial
    · exact ite_eff trivial (modCbuf_formed h1)

/-! ## The operations of Machine/Queue.lean -/

theorem checkUnits_formed {s : State} {c : Context} {k : AccKind} {a : Dword} {n : Nat} (h : s.Formed) :
    Got.Formed (fun _ => True) (s.checkUnits c k a n) := firstFail_formed fun _ => checkLane_formed h

theorem readUnits_formed {s : State} {ps : List (Nat × Place)} (h : s.Formed) : (s.readUnits ps).1.Formed := engineRead_formed h

theorem checkBytes_formed {s : State} {c : Context} {k : AccKind} {a : Dword} {n : Nat} (h : s.Formed) :
    Got.Formed (fun _ => True) (s.checkBytes c k a n) := got_bind_formed (firstFail_formed fun _ => checkLane_formed h) fun _ _ => trivial

theorem checkRuns_formed {s : State} {c : Context} {k : AccKind} {a : List (Dword × Nat)} (h : s.Formed) :
    Got.Formed (fun _ => True) (s.checkRuns c k a) := by
  induction a generalizing s c k with
  | nil =>
    rw [State.checkRuns]
    exact trivial
  | cons a1 l ih =>
    rw [State.checkRuns]
    exact got_bind_formed (checkBytes_formed h) fun _ _ => got_bind_formed (ih h) fun _ _ => trivial

theorem unitLoad_formed {s : State} {keys : List Nat} (h : s.Formed) : (s.unitLoad keys).1.Formed := by
  unfold State.unitLoad
  extract_lets r
  have h1 : r.1.Formed := engineRead_formed h
  exact h1

theorem getVirt_formed {s : State} {c : Context} {a : Dword} {n : Nat} (h : s.Formed) :
    Got.Formed (fun x => x.1.Formed) (s.getVirt c a n) := got_bind_formed (checkBytes_formed h) fun _ _ => unitLoad_formed h

theorem putVirt_formed {s : State} {c : Context} {gmode : Bool} {a : Dword} {bytes : List Byte} (h : s.Formed) :
    Got.Formed State.Formed (s.putVirt c gmode a bytes) := got_bind_formed (checkBytes_formed h) fun _ _ => unitPut_formed h

theorem readRecord_formed {s : State} {c : Context} {a : Dword} {n : Nat} (h : s.Formed) :
    Got.Formed (fun x => x.1.Formed) (s.readRecord c a n) := got_bind_formed (checkUnits_formed h) fun _ _ => unitLoad_formed h

theorem rawDesc_formed {s : State} {c : Context} {k : AccKind} {a : Dword} (h : s.Formed) :
    Got.Formed (fun x => x.1.Formed) (s.rawDesc c k a) := by
  unfold State.rawDesc
  split
  · exact trivial
  · split
    · exact h
    · refine got_bind_formed (checkLane_formed h) fun _ _ => ?_
      extract_lets r
      have h2 : r.1.Formed := readUnits_formed h
      exact h2

theorem readQueue_formed {s : State} {c : Context} {k : AccKind} {a : Dword} (h : s.Formed) :
    Got.Formed (fun x => x.1.Formed) (s.readQueue c k a) := got_bind_formed (rawDesc_formed h) fun _ h1 => h1

theorem readDesc_formed {s : State} {c : Context} {k : AccKind} {a : Dword} (h : s.Formed) :
    Got.Formed (fun x => x.1.Formed) (s.readDesc c k a) := got_bind_formed (readQueue_formed h) fun _ h1 => h1

theorem checkRing_formed {s : State} {c : Context} {d : QDesc} (h : s.Formed) : Got.Formed (fun _ => True) (s.checkRing c d) := by
  unfold State.checkRing
  extract_lets starts as_
  exact firstFail_formed fun _ => checkLane_formed h

theorem appendDesc_formed {s : State} {c : Context} {a : Dword} (h : s.Formed) : Got.Formed (fun x => x.1.Formed) (s.appendDesc c a) := by
  unfold State.appendDesc
  refine got_bind_formed (rawDesc_formed h) fun _ _ => ?_
  refine got_bind_formed (P := fun _ => True) ?_ (fun _ _ => readDesc_formed h)
  split
  · exact ite_got (checkRing_formed h) trivial
  · exact trivial

theorem appendSlot_formed {s : State} {c : Context} {d : QDesc} {bytes : List Byte} (h : s.Formed) :
    Got.Formed State.Formed (s.appendSlot c d bytes) := by
  unfold State.appendSlot
  refine got_bind_formed (checkBytes_formed h) fun _ _ => ?_
  refine got_bind_formed (checkBytes_formed h) fun _ _ => ?_
  extract_lets s1 s2
  have h3 : s1.Formed := putNat_formed h
  have h4 : s2.Formed := placeWrite_formed h3
  exact placeWrite_formed h4

theorem slotReady_formed {s : State} {c : Context} {d : QDesc} (h : s.Formed) : Got.Formed (fun x => x.1.Formed) (s.slotReady c d) :=
  ite_got h (got_bind_formed (getVirt_formed h) fun _ h1 => h1)

theorem holdTask_formed {s : State} {f q : Nat} {w : TaskWork} (h : s.Formed) : (s.holdTask f q w).Formed := h

theorem appendTask_formed {s : State} {c : Context} {f q : Nat} {packet : List Byte} (h : s.Formed) :
    (s.appendTask c f q packet).Formed := by
  unfold State.appendTask
  split
  · exact h
  · next x _ _ =>
      split
      · next e1 =>
          split
          · split
            · next e3 => exact got_ok e3 State.Formed (appendSlot_formed (got_ok e1 (fun x => x.1.Formed) (readDesc_formed h)))
            · next e3 => exact holdTask_formed (got_wait e3 (appendSlot_formed (got_ok e1 (fun x => x.1.Formed) (readDesc_formed h))))
            · exact holdTask_formed (unitMet_formed (got_ok e1 (fun x => x.1.Formed) (readDesc_formed h)))
          · exact holdTask_formed (got_ok e1 (fun x => x.1.Formed) (readDesc_formed h))
      · next e1 => exact holdTask_formed (got_ok e1 (fun x => x.1.Formed) (readDesc_formed h))
      · next e1 => exact holdTask_formed (got_wait e1 (readDesc_formed h))
      · exact holdTask_formed (unitMet_formed h)

theorem fireTask_formed {s : State} {c : Context} {f q : Nat} {a : Dword} (h : s.Formed) : (s.fireTask c f q a).Formed := by
  unfold State.fireTask
  split
  · next x _ e => exact appendTask_formed (got_ok e (fun x => x.1.Formed) (getVirt_formed h))
  · next e => exact holdTask_formed (got_wait e (getVirt_formed h))
  · exact holdTask_formed (unitMet_formed h)

theorem taskDec_formed {s : State} {f q counter k : Nat} (h : s.Formed) : Got.Formed State.Formed (s.taskDec f q counter k) := by
  unfold State.taskDec
  split
  · exact h
  · split
    · exact h
    · split
      · exact h
      · refine got_bind_formed (checkBytes_formed h) fun _ _ => ?_
        extract_lets r count word1 n fire word12 s1 src
        have h2 : r.1.Formed := engineRead_formed h
        have h3 : s1.Formed := placeWrite_formed h2
        have h4 : src.Formed := fireTask_formed h3
        exact ite_formed h4 h3

theorem unitDec_formed {s : State} {f q counter : Nat} (h : s.Formed) : (s.unitDec f q counter).1.Formed := by
  unfold State.unitDec
  split
  · exact h
  · split
    · next e => exact got_ok e State.Formed (taskDec_formed h)
    · next e => exact got_wait e (taskDec_formed h)
    · exact getD_formed (option_map_formed (option_trivial _) fun _ _ => unitMet_formed h) h

/-! ## The operations of Machine/Spawn.lean -/

theorem holdSpawn_formed {s : State} {f : Nat} {owner : SpawnOwner} {n : Nat} {a : List Nat} (h : s.Formed) :
    OptionFormed State.Formed (s.holdSpawn f owner n a) := by
  induction a generalizing s f owner n with
  | nil =>
    rw [State.holdSpawn]
    exact ite_option h trivial
  | cons a1 l ih =>
    rw [State.holdSpawn]
    exact ih (ite_formed h h)

theorem freeSpawn_formed {s : State} {owner : SpawnOwner} (h : s.Formed) : (s.freeSpawn owner).Formed := h

theorem clearOwn_formed {s : State} {lo hi : Nat} (h : s.Formed) : (s.clearOwn lo hi).Formed := h

theorem writeOwn_formed {s : State} {c : Context} {column : Nat} {r : Nat × Nat} (h : s.Formed) : (s.writeOwn c column r).Formed := by
  unfold State.writeOwn
  extract_lets tables base own soil mine
  exact h

/-! ## The operations of Machine/Fetch.lean -/

theorem fetchWordAt_formed {s : State} {w : Warp} {pc : Dword} (h : s.Formed) : Got.Formed (fun _ => True) (s.fetchWordAt w pc) := by
  unfold State.fetchWordAt
  split
  · split
    · exact trivial
    · split
      · exact trivial
      · exact trivial
      · exact noteMiss_formed h
  · exact h

theorem noteFetch_formed {s : State} {w : Warp} {pcs : List Dword} (h : s.Formed) : (s.noteFetch w pcs).Formed := by
  unfold State.noteFetch
  split
  · exact h
  · split
    · exact h
    · exact noteCached_formed h

theorem groupEnd_formed {s : State} {w : Warp} {a : Nat} {a1 : Dword} (h : s.Formed) : Got.Formed (fun _ => True) (s.groupEnd w a a1) := by
  induction a generalizing s w a1 with
  | zero =>
    rw [State.groupEnd]
    exact trivial
  | succ n ih =>
    rw [State.groupEnd]
    split
    · next e => exact got_wait e (fetchWordAt_formed h)
    · exact trivial
    · exact ite_got (ih h) trivial

theorem takeStep_formed {s : State} {w : Warp} {slot : Nat} (h : s.Formed) : (s.takeStep w slot).Formed := by
  unfold State.takeStep
  split
  · next e => exact got_wait e (groupEnd_formed h)
  · exact report_formed h
  · exact h

theorem fetchSlot_formed {s : State} {w : Warp} {slot : Nat} {x : Split} (h : s.Formed) : (s.fetchSlot w slot x).Formed := by
  unfold State.fetchSlot
  extract_lets start at_ src src2 at_2
  have h1 : src.Formed := noteFetch_formed h
  have h2 : src2.Formed := noteFetch_formed h
  split
  · next e => exact got_wait e (fetchWordAt_formed h)
  · exact report_formed h
  · split
    · split
      · exact h1
      · split
        · next e2 => exact got_wait e2 (fetchWordAt_formed h)
        · exact report_formed h
        · exact h2
    · exact h1

theorem fetchWarp_formed {s : State} {w : Warp} (h : s.Formed) : (s.fetchWarp w).Formed := by
  unfold State.fetchWarp
  split
  · exact report_formed h
  · exact modWarp_formed h
  · exact takeStep_formed h
  · exact h
  · split
    · exact h
    · exact fetchSlot_formed h

theorem fetchTurn_formed {s : State} (h : s.Formed) : s.fetchTurn.Formed := by
  unfold State.fetchTurn
  split
  · exact h
  · split
    · exact fetchWarp_formed h
    · exact h

theorem illegal_formed {s : State} (h : s.Formed) : s.illegal.Formed := by
  unfold State.illegal
  split
  · exact h
  · exact report_formed h

/-! ## The operations of Machine/Kernel.lean -/

theorem itemqCheck_formed {s : State} {c : Context} {a : Dword} (h : s.Formed) : Got.Formed (fun _ => True) (s.itemqCheck c a) :=
  ite_got trivial (got_bind_formed (readDesc_formed h) fun _ _ => trivial)

theorem itemqsOk_formed {s : State} {c : Context} {a : List Dword} (h : s.Formed) : Got.Formed (fun _ => True) (s.itemqsOk c a) := by
  induction a generalizing s c with
  | nil =>
    rw [State.itemqsOk]
    exact trivial
  | cons a1 l ih =>
    rw [State.itemqsOk]
    exact got_bind_formed (itemqCheck_formed h) fun _ _ => ite_got (ih h) trivial

theorem judgeRecord_formed {s : State} {c : Context} {kinds : List Nat} {addr : Dword} {b : List Byte} (h : s.Formed) :
    Got.Formed (fun x => x.1.Formed) (s.judgeRecord c kinds addr b) := ite_got h (got_bind_formed (itemqsOk_formed h) fun _ _ => h)

theorem readLaunch_formed {s : State} {c : Context} {kinds : List Nat} {addr : Dword} (h : s.Formed) :
    Got.Formed (fun x => x.1.Formed) (s.readLaunch c kinds addr) := got_bind_formed (readRecord_formed h) fun _ h1 => judgeRecord_formed h1

theorem addLaunch_formed {s : State} {l : Launch} (h : s.Formed) : (s.addLaunch l).Formed := by
  unfold State.addLaunch
  extract_lets new
  exact h

theorem placeBlock_formed {s : State} {l : Launch} {bid core : Nat} (h : s.Formed) : (s.placeBlock l bid core).Formed := by
  unfold State.placeBlock
  extract_lets b slots ws src blk mine src2
  have h1 : src2.Formed := modLaunch_formed (invalL1_formed h)
  exact h1

theorem beginDispatch_formed {s : State} {uid : Nat} (h : s.Formed) : (s.beginDispatch uid).Formed := modLaunch_formed h

/-! ## The operations of Machine/Tensor.lean -/

theorem execHld_formed {sc : Scope} {h : BitVec 4} {a : Reg} {b : Opb} {s : State} (h1 : s.Formed) :
    OutcomeFormed (execHld sc h a b s) := by
  unfold execHld
  refine issue_formed h1 fun _ _ h2 => ?_
  extract_lets p ea
  split
  · exact trivial
  · split
    · exact h2
    · split
      · exact trivial
      · next e => exact got_wait e (checkLane_formed h2)
      · extract_lets op
        exact put_formed h2

theorem execHst_formed {sc : Scope} {h : BitVec 4} {a : Reg} {b : Opb} {s : State} (h1 : s.Formed) :
    OutcomeFormed (execHst sc h a b s) := by
  unfold execHst
  refine issue_formed h1 fun _ _ h2 => ?_
  extract_lets p ea
  split
  · exact trivial
  · split
    · exact trivial
    · next e => exact got_wait e (checkLane_formed h2)
    · split
      · exact h2
      · extract_lets bytes e1
        exact put_formed h2

theorem execHset_formed {sc : Scope} {h : BitVec 4} {a : Reg} {b : Opb} {s : State} (h1 : s.Formed) :
    OutcomeFormed (execHset sc h a b s) := by
  unfold execHset
  refine issue_formed h1 fun _ _ h2 => ?_
  extract_lets k1 keep
  exact put_formed h2

theorem execHadv_formed {sc : Scope} {h : BitVec 4} {b : Opb} {s : State} (h1 : s.Formed) : OutcomeFormed (execHadv sc h b s) := by
  unfold execHadv
  refine issue_formed h1 fun _ _ h2 => ?_
  refine got_eff_formed (uniform_formed h2) fun _ _ => ?_
  extract_lets x1 add
  exact put_formed h2

theorem jobStarted_formed {s : State} {j : Job} {e : EngJob} {claim : Bool} {count : Warp → Warp} (h : s.Formed) :
    (s.jobStarted j e claim count).Formed := by
  unfold State.jobStarted
  extract_lets s1
  have h1 : s1.Formed := ite_formed (accClaim_formed h) h
  exact pushJob_formed (put_formed h1)

theorem startJob_formed {s : State} {j : Job} {e : EngJob} {claim : Bool} {count : Warp → Warp} (h : s.Formed) :
    (s.startJob j e claim count).Formed := jobStarted_formed h

theorem execMmloop_formed {sc : Scope} {acc : BitVec 3} {span : BitVec 2} {hA hB : BitVec 4} {ks : Reg} {flags : BitVec 5} {s : State}
    (h : s.Formed) :
    OutcomeFormed (execMmloop sc acc span hA hB ks flags s) := by
  unfold execMmloop
  extract_lets gath smooth keep gang zero sp
  refine issue_formed h fun _ _ h1 => ?_
  extract_lets ha hb gcols l rA rB rs src
  split
  · exact trivial
  · split
    · exact trivial
    · split
      · exact trivial
      · split
        · exact h1
        · split
          · exact trivial
          · refine got_eff_formed (checkRanges_formed h1) fun _ _ => ?_
            extract_lets far
            exact startJob_formed h1

theorem accIssue_formed {acc : BitVec 3} {span : BitVec 2} {full : Warp → Bool} {s : State} {j : Job} {k : Eff} (h : s.Formed)
    (h1 : k.Formed) :
    (accIssue acc span full s j k).Formed := ite_eff trivial (ite_eff h h1)

theorem execAccrd_formed {sc : Scope} {d : Reg} {acc : BitVec 3} {span : BitVec 2} {b : Opb} {s : State} (h : s.Formed) :
    OutcomeFormed (execAccrd sc d acc span b s) := by
  unfold execAccrd
  refine issue_formed h fun _ _ h1 => ?_
  refine got_eff_formed (uniform_formed h1) fun _ _ => ?_
  split
  · exact trivial
  · refine accIssue_formed h1 ?_
    extract_lets src op
    exact startJob_formed h1

theorem execAccwr_formed {sc : Scope} {d : Reg} {acc : BitVec 3} {span : BitVec 2} {b : Opb} {s : State} (h : s.Formed) :
    OutcomeFormed (execAccwr sc d acc span b s) := by
  unfold execAccwr
  refine issue_formed h fun _ _ h1 => ?_
  refine got_eff_formed (uniform_formed h1) fun _ _ => ?_
  split
  · exact trivial
  · exact accIssue_formed h1 (startJob_formed h1)

theorem drain_formed {add : Bool} {h : BitVec 4} {acc : BitVec 3} {span : BitVec 2} {b : Opb} {s : State} {j : Job} (h1 : s.Formed) :
    (drain add h acc span b s j).Formed := by
  unfold drain
  extract_lets x gang sp gr gc rs fn
  split
  · exact trivial
  · refine accIssue_formed h1 ?_
    split
    · exact trivial
    · refine got_eff_formed (checkRanges_formed h1) fun _ _ => ?_
      extract_lets far
      exact startJob_formed h1

/-! ## The operations of Machine/Tasks.lean -/

theorem awaitRelease_formed {s : State} {u scope : Nat} (h : s.Formed) : (s.awaitRelease u scope).1.Formed := by
  unfold State.awaitRelease
  extract_lets r s1
  have h1 : r.1.Formed := awaitLoads_formed h
  have h2 : s1.Formed := drainAll_formed h1
  exact h2

theorem countAppend_formed {s : State} {j : Job} {d : QDesc} {bytes : List Byte} (h : s.Formed) : (s.countAppend j d bytes).Formed := by
  unfold State.countAppend
  split
  · extract_lets id op
    exact put_formed h
  · split
    · extract_lets item
      exact modBlock_formed h
    · exact h

theorem execQapp_formed {sc : Scope} {d a : Reg} {b : Opb} {s : State} (h : s.Formed) : OutcomeFormed (execQapp sc d a b s) := by
  unfold execQapp
  refine issue_formed h fun _ _ h1 => ?_
  refine got_eff_formed (appendDesc_formed h1) fun x h2 => ?_
  split
  · exact trivial
  · split
    · exact h1
    · extract_lets m
      have h3 : m.1.Formed := awaitRelease_formed h2
      split
      · exact h3
      · split
        · next e1 =>
            extract_lets give bytes bytes2
            split
            · exact put_formed (got_ok e1 (fun x => x.1.Formed) (readDesc_formed h3))
            · exact got_eff_formed (appendSlot_formed (got_ok e1 (fun x => x.1.Formed) (readDesc_formed h3))) fun _ h4 =>
              put_formed (countAppend_formed h4)
        · exact h3

theorem taskOf_formed {s : State} {j : Job} {b : Opb} (h : s.Formed) : Got.Formed (fun _ => True) (s.taskOf j b) := by
  unfold State.taskOf
  refine got_bind_formed (uniform_formed h) fun _ _ => ?_
  repeat' split
  all_goals exact trivial

theorem execTdec_formed {sc : Scope} {a : Reg} {b : Opb} {s : State} (h : s.Formed) : OutcomeFormed (execTdec sc a b s) := by
  unfold execTdec
  refine issue_formed h fun _ _ h1 => ?_
  refine got_eff_formed (taskOf_formed h1) fun _ _ => ?_
  refine got_eff_formed (checkLane_formed h1) fun _ _ => ?_
  extract_lets m
  have h4 : m.1.Formed := awaitRelease_formed h1
  exact ite_eff (got_eff_formed (taskDec_formed h4) fun _ h5 => h5) h4

theorem execTinc_formed {sc : Scope} {a : Reg} {b : Opb} {s : State} (h : s.Formed) : OutcomeFormed (execTinc sc a b s) := by
  unfold execTinc
  refine issue_formed h fun _ _ h1 => ?_
  refine got_eff_formed (taskOf_formed h1) fun _ _ => ?_
  refine got_eff_formed (checkLane_formed h1) fun _ _ => ?_
  extract_lets r
  have h4 : r.1.Formed := placeRead_formed h1
  exact placeNat_formed h4

theorem execTrd_formed {sc : Scope} {d : Reg} {b : Opb} {s : State} (h : s.Formed) : OutcomeFormed (execTrd sc d b s) := by
  unfold execTrd
  refine issue_formed h fun _ _ h1 => ?_
  refine got_eff_formed (taskOf_formed h1) fun _ _ => ?_
  refine got_eff_formed (checkLane_formed h1) fun _ _ => ?_
  extract_lets r
  have h4 : r.1.Formed := placeRead_formed h1
  exact put_formed h4

theorem execPhq_formed {sc : Scope} {d a : Reg} {b : Opb} {s : State} (h : s.Formed) : OutcomeFormed (execPhq sc d a b s) := by
  unfold execPhq
  refine issue_formed h fun _ _ h1 => ?_
  extract_lets put
  exact modBlock_formed h1

theorem phqEnd_formed {s : State} {b : Block} {value : Word} {reset : Bool} (h : s.Formed) : (s.phqEnd b value reset).Formed := by
  unfold State.phqEnd
  extract_lets wake ws s1
  have h1 : s1.Formed := modBlock_formed h
  exact foldl_formed h1 fun _ _ h2 => finishAt_formed (modWarp_formed h2)

theorem slotOfItem_formed {s : State} {c : Context} {a : Dword} (h : s.Formed) :
    Got.Formed (fun x => x.1.Formed) ((s.readDesc c .atom a).bind fun r => match r.2 with
      | some d => r.1.slotReady c d
      | none => .ok (r.1, false)) := by
  refine got_bind_formed (readDesc_formed h) fun r hr => ?_
  split
  · exact slotReady_formed hr
  · exact hr

theorem itemIn_formed {s : State} {c : Context} {l : List Dword} (h : s.Formed) : (s.itemIn c l).1.Formed := by
  induction l generalizing s with
  | nil => exact h
  | cons a rest ih =>
    rw [State.itemIn]
    split
    · next e => exact got_ok e (fun x => x.1.Formed) (slotOfItem_formed h)
    · next e => exact ih (got_ok e (fun x => x.1.Formed) (slotOfItem_formed h))
    · next e => exact ih (got_wait e (slotOfItem_formed h))
    · exact ih (unitMet_formed h)

theorem phqItem_formed {s : State} {b : Block} (h : s.Formed) : (s.phqItem b).1.Formed := by
  unfold State.phqItem
  split
  · exact h
  · split
    · exact h
    · exact itemIn_formed h

/-! ## The operations of Machine/EvQueue.lean -/

theorem queueWords_formed {s : State} {f q ctx : Nat} {desc : Dword} {on : Bool} (h : s.Formed) :
    (s.queueWords f q ctx desc on).Formed := by
  unfold State.queueWords
  extract_lets s1 s2 s3
  have h1 : s1.Formed := setReg_formed h
  have h2 : s2.Formed := setReg_formed h1
  have h3 : s3.Formed := setReg_formed h2
  exact setReg_formed h3

theorem attach_formed {s : State} {f q ctx : Nat} {desc : Dword} (h : s.Formed) : (s.attach f q ctx desc).Formed := by
  unfold State.attach
  extract_lets refuse
  split
  · exact queueStatus_formed (queueWords_formed h)
  · next x _ _ =>
      split
      · next e1 =>
          split
          · exact queueStatus_formed (queueWords_formed (got_ok e1 (fun x => x.1.Formed) (readDesc_formed h)))
          · extract_lets x3
            exact queueStatus_formed (queueWords_formed (formed_of_mem (got_ok e1 (fun x => x.1.Formed) (readDesc_formed h)) rfl))
      · next e1 => exact queueStatus_formed (queueWords_formed (got_ok e1 (fun x => x.1.Formed) (readDesc_formed h)))
      · next e1 => exact got_wait e1 (readDesc_formed h)
      · exact queueStatus_formed (queueWords_formed (unitMet_formed h))

theorem execQueueAttach_formed {field q ctx : Nat} {desc : Dword} {s : State} (h : s.Formed) :
    OutcomeFormed (execQueueAttach field q ctx desc s) := by
  unfold execQueueAttach
  split
  · exact h
  · exact attach_formed h

theorem execQueueDetach_formed {field q : Nat} {s : State} (h : s.Formed) : OutcomeFormed (execQueueDetach field q s) := by
  unfold execQueueDetach
  split
  · exact h
  · split
    · extract_lets off close
      exact modQueue_formed (setReg_formed h)
    · exact h

theorem execQueueClosed_formed {field q : Nat} {s : State} (h : s.Formed) : OutcomeFormed (execQueueClosed field q s) := by
  unfold execQueueClosed
  split
  · exact h
  · exact ite_formed (detach_formed h) h

theorem freeSlot_formed {s : State} {d : QDesc} (h : s.Formed) : (s.freeSlot d).Formed := putNat_formed h

theorem readyDesc_formed {s : State} {c : Context} {x : Queue} (h : s.Formed) : Got.Formed (fun x => x.1.Formed) (s.readyDesc c x) := by
  unfold State.readyDesc
  refine got_bind_formed (readQueue_formed h) fun _ h1 => ?_
  split
  · exact got_bind_formed (slotReady_formed h1) fun _ h2 => h2
  · exact h1

theorem head_formed {s : State} {f q : Nat} (h : s.Formed) : (s.head f q).1.Formed := by
  unfold State.head
  split
  · exact h
  · next x _ _ =>
      split
      · exact h
      · split
        · exact h
        · split
          · next e2 => exact got_wait e2 (readyDesc_formed h)
          · exact unitMet_formed h
          · next e2 => exact got_ok e2 (fun x => x.1.Formed) (readyDesc_formed h)
          · next e2 =>
              split
              · next e3 => exact got_ok e3 (fun x => x.1.Formed) (readRecord_formed (got_ok e2 (fun x => x.1.Formed) (readyDesc_formed h)))
              · exact got_ok e2 (fun x => x.1.Formed) (readyDesc_formed h)
              · next e3 => exact got_wait e3 (readRecord_formed (got_ok e2 (fun x => x.1.Formed) (readyDesc_formed h)))

/-- What stands at the head of a queue holds its own state. -/
theorem head_found_formed {s : State} {f q : Nat} (h : s.Formed) : OptionFormed (fun x => x.2.s.Formed) (s.head f q).2 := by
  unfold State.head
  split
  · trivial
  · split
    · trivial
    · split
      · trivial
      · split
        · trivial
        · trivial
        · trivial
        · next e =>
          have hs := got_ok e (fun x => x.1.Formed) (readyDesc_formed h)
          split
          · next e' => exact got_ok e' (fun x => x.1.Formed) (readRecord_formed hs)
          · exact unitMet_formed hs
          · trivial

theorem head_some {s t : State} {f q : Nat} {x : Queue} {d : Head} (e : s.head f q = (t, some (x, d))) (h : s.Formed) : d.s.Formed := by
  have hd := head_found_formed (f := f) (q := q) h
  rw [e] at hd
  exact hd

theorem head_drop_formed {h : Head} (h1 : h.s.Formed) : h.drop.Formed := kilnRecord_formed (freeSlot_formed h1)

theorem head_launch_formed {h : Head} {x : Queue} {b : List Byte} (h1 : h.s.Formed) : (h.launch x b).Formed := by
  unfold Head.launch
  extract_lets s src l
  have h2 : s.Formed := freeSlot_formed h1
  exact h2

theorem head_graph_formed {h : Head} {x : Queue} {b : List Byte} (h1 : h.s.Formed) : (h.graph x b).Formed := by
  unfold Head.graph
  extract_lets s g
  have h2 : s.Formed := freeSlot_formed h1
  exact h2

theorem head_nop_formed {h : Head} {x : Queue} {b : List Byte} (h1 : h.s.Formed) : (h.nop x b).Formed := by
  unfold Head.nop
  extract_lets r
  have h2 : r.1.Formed := unitDec_formed h1
  exact ite_formed (freeSlot_formed h2) h2

theorem consume_formed {s : State} {f q : Nat} (h : s.Formed) : (s.consume f q).Formed := by
  unfold State.consume
  split
  · next e => exact fst_formed e (head_formed h)
  · next e =>
    have hs := fst_formed e (head_formed h)
    have hd := head_some e h
    split
    · exact hs
    · split
      · exact head_drop_formed hd
      · split
        · exact head_drop_formed hd
        · split
          · exact ite_formed (head_drop_formed hd) (ite_formed hs (head_nop_formed hd))
          · exact ite_formed (head_drop_formed hd) (head_launch_formed hd)
          · exact ite_formed (head_drop_formed hd) (head_graph_formed hd)
          · exact head_drop_formed hd

theorem execTaskAppendRetry_formed {k : Nat} {s : State} (h : s.Formed) : OutcomeFormed (execTaskAppendRetry k s) := by
  unfold execTaskAppendRetry
  split
  · exact h
  · split
    · exact h
    · extract_lets s1
      have h1 : s1.Formed := h
      split
      · exact fireTask_formed h1
      · exact appendTask_formed h1

/-! ## The operations of Machine/Reader.lean -/

theorem reader_load_formed {r : Reader} {j : Job} {lane n : Nat} {a : Dword} (h : r.s.Formed) :
    Got.Formed (fun x => x.1.s.Formed) (r.load j lane n a) := by
  unfold Reader.load
  refine got_bind_formed (checkLane_formed h) fun _ _ => ?_
  split
  · exact h
  · extract_lets acc ls got homeKeys s bytes see s' bad
    have h2 : s.Formed := roundShadows_formed h
    have h3 : s'.Formed := foldl_formed h2 fun _ _ h3 => fillL1_formed (fetchLocal_formed h3)
    exact ite_got h (modWarp_formed h3)

theorem reader_nat_formed {r : Reader} {j : Job} {lane n : Nat} {a : Dword} (h : r.s.Formed) :
    Got.Formed (fun x => x.1.s.Formed) (r.nat j lane n a) := got_bind_formed (reader_load_formed h) fun _ h1 => h1

theorem reader_words_formed {r : Reader} {j : Job} {lane : Nat} {a : Dword} {a1 : Nat} (h : r.s.Formed) :
    Got.Formed (fun x => x.1.s.Formed) (r.words j lane a a1) := by
  induction a1 generalizing r j lane a with
  | zero =>
    rw [Reader.words]
    exact h
  | succ n ih =>
    rw [Reader.words]
    exact got_bind_formed (reader_nat_formed h) fun _ h1 => got_bind_formed (ih h1) fun _ h2 => h2

theorem reader_lanes_formed {r : Reader} {f : Reader → Nat → Got (Reader × List Word)} {a : List Nat} (h : r.s.Formed)
    (h1 : ∀ (q : Reader) (n : Nat), q.s.Formed → Got.Formed (fun x => x.1.s.Formed) (f q n)) :
    Got.Formed (fun x => x.1.s.Formed) (r.lanes f a) := by
  induction a generalizing r with
  | nil =>
    rw [Reader.lanes]
    exact h
  | cons a1 l ih =>
    rw [Reader.lanes]
    exact got_bind_formed (h1 _ _ h) fun _ h2 => got_bind_formed (ih h2) fun _ h3 => h3

theorem reader_finish_formed {r : Reader} {j : Job} {n : Nat} {vals : List (Nat × List Word)} (h : r.s.Formed) :
    (r.finish j n vals).Formed := by
  unfold Reader.finish
  extract_lets bad id word lost src
  have h1 : src.Formed := h
  exact put_formed h1

theorem readsOf_formed {s : State} {j : Job} {go : Reader → Eff} (h : s.Formed) (h1 : ∀ (q : Reader), q.s.Formed → (go q).Formed) :
    (s.readsOf j go).Formed := by
  unfold State.readsOf
  extract_lets s1
  have h2 : s1.Formed := settleAll_formed h
  split
  · exact h2
  · exact ite_eff h2 (h1 _ h2)

theorem laneLoads_formed {s : State} {j : Job} {n : Nat} {f : Reader → Nat → Got (Reader × List Word)} (h : s.Formed)
    (h1 : ∀ (q : Reader) (n1 : Nat), q.s.Formed → Got.Formed (fun x => x.1.s.Formed) (f q n1)) :
    (s.laneLoads j n f).Formed := by
  unfold State.laneLoads
  split
  · exact h
  · split
    · exact h
    · exact readsOf_formed h fun _ h2 => got_eff_formed (reader_lanes_formed h2 fun _ _ h3 => h1 _ _ h3) fun _ h3 => reader_finish_formed h3

theorem reader_units_formed {r : Reader} {j : Job} {a : Dword} {a1 : Nat} (h : r.s.Formed) :
    Got.Formed (fun x => x.1.s.Formed) (r.units j a a1) := by
  induction a1 generalizing r j a with
  | zero =>
    rw [Reader.units]
    exact h
  | succ n ih =>
    rw [Reader.units]
    exact got_bind_formed (reader_load_formed h) fun _ h1 => got_bind_formed (ih h1) fun _ h2 => h2

/-! ## The operations of Machine/Flow.lean -/

theorem settleTop_formed {s : State} {w : Warp} {n : Nat} (h : s.Formed) : OptionFormed State.Formed (s.settleTop w n) := by
  unfold State.settleTop
  split
  · exact h
  · split
    · exact trivial
    · next e1 =>
        split
        · exact trivial
        · exact ite_option trivial (option_some e1 State.Formed (settleTo_formed h))

theorem execGrow_formed {sc : Scope} {p : BitVec 3} {b : Opb} {s : State} (h : s.Formed) : OutcomeFormed (execGrow sc p b s) := by
  unfold execGrow
  refine issue_formed h fun _ _ h1 => ?_
  refine got_eff_formed (uniform_formed h1) fun _ _ => ?_
  extract_lets n
  split
  · exact trivial
  · split
    · exact trivial
    · split
      · split
        · exact h1
        · next e => exact put_formed (option_some e State.Formed (settleTop_formed h1))
      · exact put_formed h1

theorem execFork_formed {sc : Scope} {d a : Reg} {b : Opb} {s : State} (h : s.Formed) : OutcomeFormed (execFork sc d a b s) := by
  unfold execFork
  refine issue_formed h fun _ _ h1 => ?_
  refine readsOf_formed h1 fun _ h2 => ?_
  refine got_eff_formed (P := fun x => x.1.Formed) ?_ ?_
  · refine got_bind_formed (reader_units_formed h2) fun _ h3 => ?_
    split
    · exact trivial
    · exact judgeRecord_formed h3
  · intro _ h3
    split
    · exact trivial
    · split
      · exact trivial
      · extract_lets m s1 ok s2
        have h4 : m.1.Formed := awaitRelease_formed h3
        have h5 : s1.Formed := h4
        have h6 : s2.Formed := ite_formed (modBlock_formed (addLaunch_formed h5)) h5
        exact ite_eff h4 (put_formed h6)

theorem quiesceAll_formed {s : State} {ws : List Warp} (h : s.Formed) : (s.quiesceAll ws).1.Formed := by
  unfold State.quiesceAll
  extract_lets s1
  have h1 : s1.Formed := foldl_formed h fun _ _ h1 => quiesce_formed h1
  exact h1

theorem stowAccums_formed {s : State} {b : Block} (h : s.Formed) : (s.stowAccums b).Formed := by
  unfold State.stowAccums
  extract_lets us mine keep jobs
  exact modBlock_formed h

theorem unstowAccums_formed {s : State} {b : Block} {core : Nat} (h : s.Formed) : (s.unstowAccums b core).Formed := by
  unfold State.unstowAccums
  extract_lets back jobs
  exact modBlock_formed h

theorem execJoin_formed {sc : Scope} {s : State} (h : s.Formed) : OutcomeFormed (execJoin sc s) := by
  unfold execJoin
  refine issue_formed h fun _ _ h1 => ?_
  split
  · exact h1
  · extract_lets r owner swap
    have h2 : r.1.Formed := quiesceAll_formed h1
    split
    · exact h2
    · split
      · exact h2
      · next e =>
          extract_lets cs s1
          have h3 : s1.Formed := foldl_formed (option_some e State.Formed (holdSpawn_formed h2)) fun _ _ h3 => writeOwn_formed h3
          exact ite_eff h2 (modBlock_formed (stowAccums_formed h3))

/-! ## The operations of Machine/Threads.lean -/

theorem reseat_formed {s : State} {j : Job} {d t : Nat} {a : List Warp} {a1 : List Thread} (h : s.Formed) :
    (s.reseat j d t a a1).Formed := by
  induction a generalizing s j d t a1 with
  | nil =>
    rw [State.reseat]
    exact h
  | cons a2 l ih =>
    rw [State.reseat]
    exact ih (modWarp_formed h)

theorem execReform_formed {sc : Scope} {d a : Reg} {b : Opb} {s : State} (h : s.Formed) : OutcomeFormed (execReform sc d a b s) := by
  unfold execReform
  refine issue_formed h fun _ _ h1 => ?_
  split
  · exact trivial
  · extract_lets ts r us queued ms ts2 sorted s1 s2
    have h2 : r.1.Formed := quiesceAll_formed h1
    have h3 : s1.Formed := reseat_formed h2
    have h4 : s2.Formed := finish_formed h3
    split
    · exact trivial
    · split
      · exact h2
      · refine foldl_formed h4 fun _ _ h5 => ?_
        split
        · exact ite_formed (vacate_formed h5) h5
        · exact h5

/-- The item at a queue's read index, once the slot is ready. -/
theorem itemOfSlot_formed {s : State} {j : Job} {q : QDesc} (h : s.Formed) :
    Got.Formed (OptionFormed fun x => x.1.Formed)
      ((s.slotReady j.ctx q).bind fun r => if r.2 then (r.1.getVirt j.ctx (q.slotAddr q.rd) 16).bind fun x => .ok (some x) else .ok none) :=
  got_bind_formed (slotReady_formed h) fun _ hr => ite_got (got_bind_formed (getVirt_formed hr) fun _ hx => hx) trivial

theorem popItem_formed {s : State} {j : Job} {a : Dword} (h : s.Formed) : OptionFormed (fun x => x.1.Formed) (s.popItem j a) := by
  unfold State.popItem
  split
  · next e =>
    split
    · next e' =>
      have hr := got_ok e' (OptionFormed fun x => x.1.Formed) (itemOfSlot_formed (got_ok e (fun x => x.1.Formed) (readDesc_formed h)))
      exact ite_formed (modBlock_formed (putNat_formed hr)) (putNat_formed hr)
    · trivial
  · trivial

theorem refillLanes_formed {s : State} {j : Job} {q : Dword} {a : List (Nat × Nat × Nat)} (h : s.Formed) :
    (s.refillLanes j q a).1.Formed := by
  induction a generalizing s j q with
  | nil =>
    rw [State.refillLanes]
    exact h
  | cons a1 l ih =>
    rw [State.refillLanes]
    split
    · exact h
    · next x _ _ _ e =>
        extract_lets put r
        have h1 : r.1.Formed := ih (modWarp_formed (option_some e (fun x => x.1.Formed) (popItem_formed h)))
        exact h1

theorem execRefill_formed {sc : Scope} {d a : Reg} {b : Opb} {s : State} (h : s.Formed) : OutcomeFormed (execRefill sc d a b s) := by
  unfold execRefill
  refine issue_formed h fun _ _ h1 => ?_
  extract_lets q m spots f give
  have h2 : m.1.Formed := quiesceAll_formed h1
  have h3 : f.1.Formed := refillLanes_formed h2
  refine got_eff_formed (readDesc_formed h1) fun _ _ => ?_
  split
  · exact trivial
  · exact got_eff_formed (checkRing_formed h1) fun _ _ => ite_eff h2 (foldl_formed (ite_formed h3 (acquire_formed h3)) fun _ _ h6 =>
    modWarp_formed h6)

theorem packBlock_formed {s : State} {b : Block} {core : Nat} (h : s.Formed) : (s.packBlock b core).Formed := by
  unfold State.packBlock
  extract_lets plan slots pc new s1 s2 back
  have h1 : s1.Formed := foldl_formed h fun _ _ h1 => carryReads_formed h1
  have h2 : s2.Formed := h1
  exact unstowAccums_formed (modBlock_formed (freeSpawn_formed h2))

/-! ## The operations of Machine/Ray.lean -/

theorem execTrav_formed {sc : Scope} {d a : Reg} {b : Opb} {s : State} (h : s.Formed) : OutcomeFormed (execTrav sc d a b s) := by
  unfold execTrav
  refine issue_formed h fun _ _ h1 => ?_
  split
  · exact trivial
  · split
    · exact h1
    · split
      · exact h1
      · extract_lets id desc src op
        exact put_formed h1

theorem rayDone_formed {s : State} {u lane : Nat} (h : s.Formed) : (s.rayDone u lane).Formed := by
  unfold State.rayDone
  split
  · exact h
  · split
    · split
      · exact h
      · split
        · exact unitWait_formed h
        · extract_lets r1 s1
          have h1 : s1.Formed := ite_formed (unitMet_formed h) h
          exact closeRays_formed (noteDone_formed (modWarp_formed h1))
    · exact h

theorem execTravrd_formed {sc : Scope} {d a : Reg} {b : Opb} {s : State} (h : s.Formed) : OutcomeFormed (execTravrd sc d a b s) := by
  unfold execTravrd
  refine issue_formed h fun _ _ h1 => ?_
  split
  · exact h1
  · extract_lets word s1
    have h2 : s1.Formed := put_formed h1
    exact acquire_formed h2

/-! ## The operations of Machine/Surface.lean -/

theorem visldLane_formed {j : Job} {vbase : Dword} {size : Word} {samples : Nat} {r : Reader} {i : Nat} (h : r.s.Formed) :
    Got.Formed (fun x => x.1.s.Formed) (visldLane j vbase size samples r i) := by
  unfold visldLane
  extract_lets c width a
  split
  · exact h
  · exact got_bind_formed (reader_nat_formed h) fun _ h1 => got_bind_formed (reader_nat_formed h1) fun _ h2 => h2

theorem execVisld_formed {sc : Scope} {d a : Reg} {b : Opb} {s : State} (h : s.Formed) : OutcomeFormed (execVisld sc d a b s) := by
  unfold execVisld
  refine issue_formed h fun _ _ h1 => ?_
  extract_lets vbase size code samples wrong
  split
  · exact trivial
  · split
    · exact trivial
    · exact laneLoads_formed h1 fun _ _ h2 => visldLane_formed h2

theorem execVisdec_formed {sc : Scope} {d a : Reg} {s : State} (h : s.Formed) : OutcomeFormed (execVisdec sc d a s) := by
  unfold execVisdec
  refine issue_formed h fun _ _ h1 => ?_
  extract_lets id word
  exact put_formed h1

theorem reader_hasPrim_formed {r : Reader} {j : Job} {draws id : Dword} {i : Nat} (h : r.s.Formed) :
    Got.Formed (fun x => x.1.s.Formed) (r.hasPrim j draws id i) := by
  unfold Reader.hasPrim
  split
  · exact h
  · extract_lets e
    exact got_bind_formed (reader_nat_formed h) fun _ h1 => got_bind_formed (reader_nat_formed h1) fun _ h2 => h2

theorem reader_vertexIndex_formed {r : Reader} {j : Job} {draws id : Dword} {i k : Nat} (h : r.s.Formed) :
    Got.Formed (fun x => x.1.s.Formed) (r.vertexIndex j draws id i k) :=
  got_bind_formed (reader_nat_formed h) fun _ h1 => ite_got h1 (reader_nat_formed h1)

theorem reader_vertex_formed {r : Reader} {j : Job} {draws id : Dword} {i k : Nat} (h : r.s.Formed) :
    Got.Formed (fun x => x.1.s.Formed) (r.vertex j draws id i k) := by
  unfold Reader.vertex
  extract_lets e
  exact got_bind_formed (reader_vertexIndex_formed h) fun _ h1 => got_bind_formed (reader_nat_formed h1) fun _ h2 =>
    got_bind_formed (reader_nat_formed h2) fun _ h3 => reader_words_formed h3

theorem baryLane_formed {j : Job} {draws : Dword} {code : Nat} {r : Reader} {i : Nat} (h : r.s.Formed) :
    Got.Formed (fun x => x.1.s.Formed) (baryLane j draws code r i) := by
  unfold baryLane
  extract_lets id
  exact got_bind_formed (reader_hasPrim_formed h) fun _ h1 => ite_got h1 (got_bind_formed (reader_vertex_formed h1) fun _ h2 =>
    got_bind_formed (reader_vertex_formed h2) fun _ h3 => got_bind_formed (reader_vertex_formed h3) fun _ h4 => h4)

theorem execBary_formed {sc : Scope} {d a : Reg} {b : Opb} {s : State} (h : s.Formed) : OutcomeFormed (execBary sc d a b s) := by
  unfold execBary
  refine issue_formed h fun _ _ h1 => ?_
  extract_lets code
  exact ite_eff trivial (laneLoads_formed h1 fun _ _ h2 => baryLane_formed h2)

theorem attrfLane_formed {j : Job} {draws : Dword} {x : Word} {r : Reader} {i : Nat} (h : r.s.Formed) :
    Got.Formed (fun x => x.1.s.Formed) (attrfLane j draws x r i) := by
  unfold attrfLane
  extract_lets id e
  refine got_bind_formed (reader_hasPrim_formed h) fun _ h1 => ?_
  split
  · exact h1
  · refine got_bind_formed (reader_vertexIndex_formed h1) fun _ h2 => ?_
    refine got_bind_formed (reader_nat_formed h2) fun _ h3 => ?_
    refine got_bind_formed (reader_nat_formed h3) fun _ h4 => ?_
    refine got_bind_formed (reader_nat_formed h4) fun _ h5 => ?_
    extract_lets at_
    exact reader_words_formed h5

theorem execAttrf_formed {sc : Scope} {d a : Reg} {b : Opb} {s : State} (h : s.Formed) : OutcomeFormed (execAttrf sc d a b s) := by
  unfold execAttrf
  refine issue_formed h fun _ _ h1 => ?_
  extract_lets x
  exact ite_eff trivial (laneLoads_formed h1 fun _ _ h2 => attrfLane_formed h2)

theorem execOrdwait_formed {sc : Scope} {a : Reg} {b : Opb} {s : State} (h : s.Formed) : OutcomeFormed (execOrdwait sc a b s) := by
  unfold execOrdwait
  refine issue_formed h fun _ _ h1 => ?_
  split
  · exact h1
  · refine got_eff_formed (operand_formed h1) fun _ _ => ?_
    refine got_eff_formed (firstFail_formed fun _ => atomCheck_formed h1) fun _ _ => ?_
    extract_lets s1 s2 words r
    have h4 : s1.Formed := drainAll_formed h1
    have h5 : s2.Formed := roundShadows_formed h4
    have h6 : r.1.Formed := awaitLoads_formed h5
    split
    · exact h4
    · split
      · exact trivial
      · exact ite_eff (ite_eff (acquire_formed h6) h6) h5

theorem execOrddone_formed {sc : Scope} {a : Reg} {s : State} (h : s.Formed) : OutcomeFormed (execOrddone sc a s) := by
  unfold execOrddone
  refine issue_formed h fun _ _ h1 => ?_
  extract_lets one
  exact sendAtoms_formed h1

theorem reader_texel_formed {r : Reader} {j : Job} {m : Image} {lane : Nat} {x y : ℤ} (h : r.s.Formed) :
    Got.Formed (fun x => x.1.s.Formed) (r.texel j m lane x y) := by
  unfold Reader.texel
  extract_lets i k
  exact got_bind_formed (reader_load_formed h) fun _ h1 => h1

theorem reader_quad_formed {r : Reader} {j : Job} {m : Image} {lane : Nat} {x y : ℤ} (h : r.s.Formed) :
    Got.Formed (fun x => x.1.s.Formed) (r.quad j m lane x y) :=
  got_bind_formed (reader_texel_formed h) fun _ h1 => got_bind_formed (reader_texel_formed h1) fun _ h2 =>
    got_bind_formed (reader_texel_formed h2) fun _ h3 => got_bind_formed (reader_texel_formed h3) fun _ h4 => h4

theorem texsLane_formed {j : Job} {m : Image} {r : Reader} {i : Nat} (h : r.s.Formed) :
    Got.Formed (fun x => x.1.s.Formed) (texsLane j m r i) := by
  unfold texsLane
  extract_lets u v p q ws
  split
  · exact got_bind_formed (reader_quad_formed h) fun _ h1 => h1
  · exact got_bind_formed (reader_texel_formed h) fun _ h1 => h1

theorem texlLane_formed {j : Job} {m : Image} {r : Reader} {i : Nat} (h : r.s.Formed) :
    Got.Formed (fun x => x.1.s.Formed) (texlLane j m r i) := got_bind_formed (reader_texel_formed h) fun _ h1 => h1

theorem texgLane_formed {j : Job} {m : Image} {r : Reader} {i : Nat} (h : r.s.Formed) :
    Got.Formed (fun x => x.1.s.Formed) (texgLane j m r i) := by
  unfold texgLane
  extract_lets p q
  exact got_bind_formed (reader_quad_formed h) fun _ h1 => h1

theorem texLoad_formed {sc : Scope} {d a : Reg} {b : Opb} {f : Job → Image → Reader → Nat → Got (Reader × List Word)} {s : State}
    (h : ∀ (k : Job) (im : Image) (q : Reader) (n : Nat), q.s.Formed → Got.Formed (fun x => x.1.s.Formed) (f k im q n)) (h1 : s.Formed) :
    OutcomeFormed (texLoad sc d a b f s) := by
  unfold texLoad
  refine issue_formed h1 fun _ _ h2 => ?_
  extract_lets ws
  exact ite_eff trivial (laneLoads_formed h2 fun _ _ h3 => h _ _ _ _ h3)

theorem execTexq_formed {sc : Scope} {d a : Reg} {b : Opb} {s : State} (h : s.Formed) : OutcomeFormed (execTexq sc d a b s) := by
  unfold execTexq
  refine issue_formed h fun _ _ h1 => ?_
  extract_lets ws m inv vals
  exact ite_eff trivial (put_formed h1)

/-! ## The operations of Machine/EvCopy.lean -/

theorem copyMem_formed {s : State} {c : Context} {op : Nat} {moves : List (Nat × Nat × Dword)} {before : List Host.Cell} {j : Nat}
    {a : List Elem} (h : s.Formed) :
    (s.copyMem c op moves before j a).Formed := by
  induction a generalizing s c op moves before j with
  | nil =>
    rw [State.copyMem]
    exact h
  | cons a1 l ih =>
    rw [State.copyMem]
    split
    · split
      · exact trivial
      · exact h
    · split
      · exact trivial
      · exact h
    · exact ih (unitPut_formed h)

theorem rasterPut_formed {s : State} {c : Context} {op : Nat} {ps : List Place} {v : Word × Nat} {a : Dword} (h : s.Formed) :
    (s.rasterPut c op ps v a).Formed := by
  unfold State.rasterPut
  extract_lets s1
  have h1 : s1.Formed := unitPut_formed h
  exact h1

theorem clearSamples_formed {s : State} {c : Context} {op : Nat} {b : List Byte} {a : List (Nat × Nat × Nat)} (h : s.Formed) :
    (s.clearSamples c op b a).Formed := by
  induction a generalizing s c op b with
  | nil =>
    rw [State.clearSamples]
    exact h
  | cons a1 l ih =>
    rw [State.clearSamples]
    split
    · exact ih (ite_formed h (rasterPut_formed h))
    · split
      · exact trivial
      · exact ih h

theorem copyFaulted_formed {s : State} {r : CopyRun} {a : Dword} (h : s.Formed) : (s.copyFaulted r a).Formed := by
  unfold State.copyFaulted
  split
  · split
    · exact kilnRecord_formed h
    · extract_lets op x1
      exact finishCopy_formed (addAsync_formed h)
  · exact kilnRecord_formed h

theorem fillSlot_formed {s : State} {r : CopyRun} (h : s.Formed) : (s.fillSlot r).Formed := by
  unfold State.fillSlot
  split
  · exact h
  · exact modCbuf_formed h

theorem copyNodeDone_formed {s : State} {g k : Nat} {bit : Word} (h : s.Formed) : (s.copyNodeDone g k bit).Formed := by
  unfold State.copyNodeDone
  extract_lets complete put
  exact h

theorem copyNodeTiles_formed {s : State} {g k : Nat} (h : s.Formed) : (s.copyNodeTiles g k).Formed := by
  unfold State.copyNodeTiles
  extract_lets less put
  exact h

theorem copyDropL1_formed {s : State} {r : CopyRun} {lines : List Nat} (h : s.Formed) : (s.copyDropL1 r lines).Formed := by
  unfold State.copyDropL1
  split
  · exact dropL1Lines_formed h
  · exact h

theorem copyGone_formed {s : State} {r : CopyRun} {bit : Word} (h : s.Formed) : (s.copyGone r bit).Formed := by
  unfold State.copyGone
  extract_lets s1
  have h1 : s1.Formed := h
  split
  · exact h1
  · exact copyNodeTiles_formed (copyNodeDone_formed h1)

theorem copyOver_formed {s : State} {r : CopyRun} (h : s.Formed) : (s.copyOver r).Formed := by
  unfold State.copyOver
  split
  · exact copyGone_formed (copyFaulted_formed h)
  · extract_lets d s1
    have h1 : d.1.Formed := unitDec_formed h
    have h2 : s1.Formed := by
      unfold s1
      split
      · exact finishCopy_formed h1
      · exact h1
    exact ite_formed h1 (copyGone_formed (copyDropL1_formed (fillSlot_formed h2)))

theorem startWait_formed {s : State} {r : CopyRun} {k : AccKind} {a : Nat} (h : s.Formed) : (s.startWait r k a).Formed := unitWait_formed h

theorem startScratch_formed {s : State} {r : CopyRun} (h : s.Formed) : (s.startScratch r).Formed := by
  unfold State.startScratch
  split
  · exact h
  · split
    · exact h
    · extract_lets buf to_
      split
      · exact h
      · split
        · exact h
        · exact ite_started h (ite_started h (modCbuf_formed h))

theorem startReduce_formed {s : State} {c : Context} {r : CopyRun} (h : s.Formed) : (s.startReduce c r).Formed := by
  unfold State.startReduce
  extract_lets b n dst mine src old clash differs s1
  have h1 : s1.Formed := roundShadows_formed h
  split
  · exact h
  · split
    · exact h
    · split
      · exact ite_started (startWait_formed h1) h1
      · exact ite_started (startWait_formed h1) h1
      · exact ite_started (startWait_formed h1) h1
      · extract_lets x3 rest
        exact h1

theorem startKind_formed {s : State} {c : Context} {r : CopyRun} (h : s.Formed) : (s.startKind c r).Formed := by
  unfold State.startKind
  split
  · exact h
  · exact startReduce_formed h
  · exact ite_started h h
  · exact ite_started h (startScratch_formed h)

theorem startRun_formed {s : State} {c : Context} {r : CopyRun} (h : s.Formed) : (s.startRun c r).Formed := by
  unfold State.startRun
  split
  · exact h
  · split
    · extract_lets a
      split
      · exact h
      · next e1 => exact got_wait e1 (readRecord_formed h)
      · next x _ _ e1 =>
          split
          · exact got_ok e1 (fun x => x.1.Formed) (readRecord_formed h)
          · exact startKind_formed (got_ok e1 (fun x => x.1.Formed) (readRecord_formed h))
    · exact startKind_formed h

theorem started_cleared_formed {c : Context} {a : Started} (h : a.Formed) : (Started.cleared c a).Formed := by
  unfold Started.cleared
  split
  · exact h
  · split
    · exact h
    · split
      · exact startWait_formed h
      · next e => exact wrote_fault e (clearSamples_formed h)
      · next e => exact wrote_ok e (clearSamples_formed h)

theorem started_state_formed {x : Started} (h : x.Formed) : x.state.Formed := by
  unfold Started.state
  split
  · exact h
  · exact ite_formed (copyOver_formed h) h

theorem copyServed_formed {s : State} {f e q : Nat} (h : s.Formed) : (s.copyServed f e q).Formed := modField_formed h

theorem startNext_formed {s : State} {f q : Nat} (h : s.Formed) : (s.startNext f q).Formed := by
  unfold State.startNext
  split
  · next e => exact fst_formed e (head_formed h)
  · next e =>
    have hd := head_some e h
    dsimp only
    refine ite_formed h ?_
    split
    · next e => exact started_waits e (ite_started (copyServed_formed hd) (started_cleared_formed (startRun_formed (copyServed_formed hd))))
    · next e =>
      refine started_state_formed (freeSlot_formed ?_)
      exact started_run e (ite_started (copyServed_formed hd) (started_cleared_formed (startRun_formed (copyServed_formed hd))))

theorem putRun_formed {s : State} {r : CopyRun} (h : s.Formed) : (s.putRun r).Formed := h

theorem countRun_formed {s : State} {r : CopyRun} (h : s.Formed) : (s.countRun r).Formed := by
  unfold State.countRun
  extract_lets mine dst src bell s1
  have h1 : s1.Formed := foldl_formed h fun _ _ h1 => ite_formed (doorbell_formed h1) h1
  exact foldl_formed (foldl_formed h1 fun _ _ h2 => ite_formed h2 (countDst_formed h2)) fun _ _ h2 => ite_formed h2 (countSrc_formed h2)

theorem copyNext_formed {s : State} {r : CopyRun} {n : Nat} (h : s.Formed) : (s.copyNext r n).Formed := by
  unfold State.copyNext
  extract_lets through r1 s1 s2
  have h1 : s1.Formed := putRun_formed h
  have h2 : s2.Formed := ite_formed (countRun_formed h1) h1
  exact ite_formed (copyOver_formed h2) h2

theorem copyChunk_formed {s : State} {c : Context} {r : CopyRun} (h : s.Formed) : (s.copyChunk c r).Formed := by
  unfold State.copyChunk
  extract_lets es s1
  have h1 : s1.Formed := roundShadows_formed h
  split
  · exact unitWait_formed h1
  · next e => exact copyOver_formed (ite_formed (wrote_fault e (copyMem_formed h1)) h1)
  · next e => exact copyNext_formed (wrote_ok e (copyMem_formed h1))

theorem scratchChunk_formed {s : State} {c : Context} {r : CopyRun} (h : s.Formed) : (s.scratchChunk c r).Formed := by
  unfold State.scratchChunk
  split
  · split
    · exact copyOver_formed h
    · split
      · exact h
      · extract_lets es s1 to_ op s2 src s3
        have h1 : s1.Formed := roundShadows_formed h
        have h2 : s2.Formed := h1
        have h3 : s3.Formed := modWarp_formed h2
        split
        · exact ite_formed (unitWait_formed h1) (copyOver_formed h1)
        · extract_lets qs s4
          have h4 : s4.Formed := modBlock_formed h3
          exact copyNext_formed h4
  · exact copyOver_formed h

theorem execCopyComplete_formed {id : Nat} {s : State} (h : s.Formed) : OutcomeFormed (execCopyComplete id s) := by
  unfold execCopyComplete
  split
  · exact h
  · split
    · exact h
    · split
      · exact h
      · split
        · exact copyOver_formed h
        · split
          · exact h
          · split
            · exact copyChunk_formed h
            · exact scratchChunk_formed h

theorem endSession_formed {s : State} {x : Session} {fault : Option Dword} (h : s.Formed) : (s.endSession x fault).Formed := by
  unfold State.endSession
  extract_lets lines s1
  have h1 : s1.Formed := h
  refine foldl_formed h1 fun _ _ h2 => ?_
  extract_lets r
  exact copyOver_formed (copyDropL1_formed (putRun_formed h2))

theorem closeSession_formed {s : State} {c : Context} {x : Session} (h : s.Formed) : (s.closeSession c x).Formed := by
  unfold State.closeSession
  extract_lets op x1
  split
  · exact ite_formed (endSession_formed h) h
  · split
    · exact ite_formed (unitWait_formed h) (endSession_formed h)
    · extract_lets s1 s2
      have h1 : s1.Formed := unitPut_formed h
      have h2 : s2.Formed := h1
      exact ite_formed (endSession_formed h2) h2

theorem execReduceSessionClose_formed {field k : Nat} {s : State} (h : s.Formed) : OutcomeFormed (execReduceSessionClose field k s) := by
  unfold execReduceSessionClose
  split
  · exact h
  · split
    · exact h
    · exact ite_formed (closeSession_formed h) h

theorem rasterWrite_formed {s : State} {c : Context} {b : List Byte} {op : Nat} {ts : List Tri} {i : Nat} {before : List Host.Cell}
    {a : List (Nat × Nat × Nat)} (h : s.Formed) :
    (s.rasterWrite c b op ts i before a).Formed := by
  induction a generalizing s c b op ts i before with
  | nil =>
    rw [State.rasterWrite]
    exact h
  | cons a1 l ih =>
    rw [State.rasterWrite]
    split
    · split
      · exact trivial
      · exact ite_formed h (roundShadows_formed h)
    · split
      · exact trivial
      · exact ite_formed h (roundShadows_formed h)
    · split
      · exact ite_formed h (roundShadows_formed h)
      · extract_lets old start v written
        exact ih (ite_formed (rasterPut_formed (ite_formed h (roundShadows_formed h))) (ite_formed h (roundShadows_formed h)))

theorem rasterFault_formed {s : State} {c : Context} {r : CopyRun} {a : Nat} (h : s.Formed) : (s.rasterFault c r a).Formed := by
  unfold State.rasterFault
  extract_lets over_
  split
  · exact copyOver_formed h
  · split
    · exact unitWait_formed h
    · next e => exact copyOver_formed (wrote_fault e (clearSamples_formed h))
    · next e => exact copyOver_formed (wrote_ok e (clearSamples_formed h))

theorem raster_formed {s : State} {c : Context} {r : CopyRun} (h : s.Formed) : (s.raster c r).Formed := by
  unfold State.raster
  extract_lets b draws t
  split
  · exact ite_formed (unitWait_formed h) (rasterFault_formed h)
  · have h1 := fun keys => roundShadows_formed (keys := keys) h
    split
    · exact unitWait_formed (h1 _)
    · exact rasterFault_formed (h1 _)
    · next e => exact putRun_formed (wrote_ok e (rasterWrite_formed (h1 _)))

theorem execRasterPacket_formed {id : Nat} {s : State} (h : s.Formed) : OutcomeFormed (execRasterPacket id s) := by
  unfold execRasterPacket
  split
  · exact h
  · split
    · exact h
    · exact ite_formed (raster_formed h) h

/-! ## The operations of Machine/Population.lean -/

theorem execRsmpl_formed {sc : Scope} {d a : Reg} {b : Opb} {s : State} (h : s.Formed) : OutcomeFormed (execRsmpl sc d a b s) := by
  unfold execRsmpl
  refine issue_formed h fun _ _ h1 => ?_
  split
  · exact trivial
  · refine got_eff_formed (uniform_formed h1) fun _ _ => ?_
    extract_lets r wait_
    exact populationArrives_formed (modBlock_formed h1)

theorem popFault_formed {s : State} {code : Nat} {m : Member} (h : s.Formed) : (s.popFault code m).Formed := by
  unfold State.popFault
  split
  · exact h
  · extract_lets lane rep slot pc
    split <;> exact report_formed h

theorem settleMember_formed {s : State} {gen : Nat} {x : Member × Nat × Nat} (h : s.Formed) : (s.settleMember gen x).Formed :=
  modWarp_formed h

theorem putClone_formed {s : State} {u lane : Nat} {c : Clone} (h : s.Formed) : (s.putClone u lane c).Formed := by
  unfold State.putClone
  extract_lets coreOf
  exact carryReads_formed (modWarp_formed h)

theorem placePhase_formed {s : State} {l phase : Nat} {a : List Clone} (h : s.Formed) : (s.placePhase l phase a).1.Formed := by
  induction a generalizing s l phase with
  | nil =>
    rw [State.placePhase]
    exact h
  | cons a1 l1 ih =>
    rw [State.placePhase]
    split
    · exact ih (putClone_formed h)
    · extract_lets r
      have h1 : r.1.Formed := ih h
      exact h1

theorem finishResample_formed {s : State} {p : Population} {r : Rsmpl} (h : s.Formed) : (s.finishResample p r).Formed := by
  unfold State.finishResample
  extract_lets bs gen s1 done_ clear src
  have h1 : s1.Formed := foldl_formed h fun _ _ h1 => invalL1_formed h1
  have h2 : src.Formed := freeSpawn_formed h1
  exact modPop_formed h2

theorem postList_formed {s : State} {c : Context} {p : Population} (h : s.Formed) : Got.Formed State.Formed (s.postList c p) := by
  unfold State.postList
  split
  · exact h
  · split
    · exact h
    · refine got_bind_formed (putVirt_formed h) fun _ h1 => ?_
      extract_lets said
      exact modPop_formed h1
  · refine got_bind_formed (checkRuns_formed h) fun _ _ => ?_
    extract_lets op s1 sent
    have h2 : s1.Formed := unitPut_formed h
    exact modPop_formed h2

theorem answerList_formed {s : State} {c : Context} {p : Population} {r : Rsmpl} {status : Nat} {put : State → State} (h : s.Formed)
    (h1 : ∀ (t : State), t.Formed → (put t).Formed) :
    (s.answerList c p r status put).Formed := by
  unfold State.answerList
  split
  · next e => exact finishResample_formed (h1 _ (got_ok e State.Formed (putVirt_formed h)))
  · next e => exact got_wait e (putVirt_formed h)
  · exact finishResample_formed (h1 _ (unitMet_formed h))

theorem wheelList_formed {s : State} {c : Context} {p : Population} {r : Rsmpl} (h : s.Formed) : (s.wheelList c p r).Formed :=
  answerList_formed h fun _ h1 => placePhase_formed h1

theorem takeList_formed {s : State} {c : Context} {p : Population} {r : Rsmpl} (h : s.Formed) : (s.takeList c p r).Formed := by
  unfold State.takeList
  generalize hg : (s.checkRuns c .load _).bind _ = g
  have hf : g.Formed fun x => x.1.Formed := hg ▸ got_bind_formed (checkRuns_formed h) fun _ _ => unitLoad_formed h
  split
  · exact hf
  · exact wheelList_formed (unitMet_formed h)
  · next x =>
    have hx : x.1.Formed := hf
    split
    · exact answerList_formed hx fun _ hs => foldl_formed hs fun _ _ ht => putClone_formed ht
    · exact wheelList_formed hx

theorem acceptList_formed {s : State} {launch : Nat} (h : s.Formed) : (s.acceptList launch).Formed := by
  unfold State.acceptList
  split
  · next x _ _ _ _ _ _ _ _ _ =>
      split
      · exact h
      · split
        · next e3 => exact got_wait e3 (postList_formed h)
        · exact wheelList_formed (unitMet_formed h)
        · next e3 =>
            split
            · split
              · next e5 =>
                  split
                  · exact takeList_formed (got_ok e5 (fun x => x.1.Formed) (getVirt_formed (got_ok e3 State.Formed (postList_formed h))))
                  · exact got_ok e5 (fun x => x.1.Formed) (getVirt_formed (got_ok e3 State.Formed (postList_formed h)))
              · next e5 => exact got_wait e5 (getVirt_formed (got_ok e3 State.Formed (postList_formed h)))
              · exact wheelList_formed (unitMet_formed (got_ok e3 State.Formed (postList_formed h)))
            · exact got_ok e3 State.Formed (postList_formed h)
  · exact h

theorem resampleNow_formed {s : State} {p : Population} {l : Launch} {c : Context} {ms : List Member} {r : Rsmpl} (h : s.Formed) :
    (s.resampleNow p l c ms r).Formed := by
  unfold State.resampleNow
  extract_lets qs sum u plan gen clones killed s1 s2 a b hold s3 room s4 s5
  have h1 : s1.Formed := foldl_formed h fun _ _ h1 => settleMember_formed h1
  have h2 : s2.Formed := modPop_formed h1
  have h3 : a.1.Formed := placePhase_formed h2
  have h4 : b.1.Formed := placePhase_formed h3
  have h5 : s3.Formed := modPop_formed h4
  have h6 : s4.Formed := getD_formed (holdSpawn_formed h5) h5
  have h7 : s5.Formed := foldl_formed h6 fun _ _ h7 => writeOwn_formed h7
  exact ite_formed (acceptList_formed h7) (finishResample_formed (placePhase_formed h4))

theorem popReissue_formed {s : State} {b : Block} (h : s.Formed) : (s.popReissue b).Formed := by
  unfold State.popReissue
  extract_lets open_ redo
  exact modBlock_formed h

theorem popRendezvous_formed {s : State} {launch : Nat} (h : s.Formed) : (s.popRendezvous launch).Formed := by
  unfold State.popRendezvous
  split
  · extract_lets bs here_ ws arrived running s1
    have h1 : s1.Formed := foldl_formed h fun _ _ h1 => quiesce_formed h1
    split
    · exact h
    · split
      · exact popReissue_formed h
      · split
        · split
          · exact popFault_formed h
          · exact h
        · split
          · exact h
          · split
            · exact h1
            · split
              · exact popFault_formed h1
              · exact h1
              · split
                · exact resampleNow_formed h1
                · exact h1
  · exact h

theorem execPstat_formed {sc : Scope} {d a : Reg} {b : Opb} {s : State} (h : s.Formed) : OutcomeFormed (execPstat sc d a b s) := by
  unfold execPstat
  refine issue_formed h fun _ _ h1 => ?_
  extract_lets x
  exact put_formed h1

/-! ## The operations of Machine/Tiles.lean -/

theorem relqWord_formed {s : State} {c : Context} {g : Graph} (h : s.Formed) : Got.Formed (fun x => x.1.Formed) (s.relqWord c g) :=
  got_bind_formed (getVirt_formed h) fun _ h1 => h1

theorem restCtx_formed {s : State} {f c : Nat} (h : s.Formed) : (s.restCtx f c).Formed := by
  unfold State.restCtx
  split
  · exact h
  · exact ite_formed h (ite_formed (modCtx_formed h) h)

theorem queueWait_formed {s : State} {f q : Nat} (h : s.Formed) : OptionFormed State.Formed (s.queueWait f q) := by
  unfold State.queueWait
  refine option_bind_formed (option_trivial _) fun _ _ => ?_
  refine option_bind_formed (option_trivial _) fun _ _ => ?_
  split
  · next e => exact got_wait e (readQueue_formed h)
  · exact trivial

theorem giveQuanta_formed {s : State} {f : Nat} {mask : BitVec 40} (h : s.Formed) : (s.giveQuanta f mask).Formed := by
  unfold State.giveQuanta
  extract_lets rs n
  exact ite_formed h (foldl_formed h fun _ _ h1 => putNat_formed h1)

theorem dryDebts_formed {s : State} {f : Nat} {mask : BitVec 40} (h : s.Formed) : (s.dryDebts f mask).Formed := by
  unfold State.dryDebts
  refine foldl_formed h fun _ _ h1 => ?_
  split
  · exact h1
  · next x _ _ =>
      split
      · exact h1
      · split
        · next e1 =>
            split
            · exact putNat_formed (got_ok e1 (fun x => x.1.Formed) (readQueue_formed h1))
            · exact got_ok e1 (fun x => x.1.Formed) (readQueue_formed h1)
        · exact h1

theorem choose_formed {s : State} {f : Nat} {mask : BitVec 40} {q : Nat} {dispatch : State → State} (h : s.Formed)
    (h1 : ∀ (t : State), t.Formed → (dispatch t).Formed) :
    (s.choose f mask q dispatch).Formed := by
  unfold State.choose
  extract_lets turn
  exact dryDebts_formed (h1 _ (modField_formed (giveQuanta_formed (dryDebts_formed h))))

/-! ## The operations of Machine/EvLaunch.lean -/

theorem dropLaunch_formed {s : State} {l : Launch} {code : Nat} (h : s.Formed) : (s.dropLaunch l code).Formed := kilnRecord_formed h

theorem accept_formed {s : State} {c : Context} {l : Launch} {b : List Byte} (h : s.Formed) : (s.accept c l b).Formed := by
  unfold State.accept
  extract_lets src new s1
  have h1 : s1.Formed := modLaunch_formed h
  exact ite_formed (dropLaunch_formed h) (ite_formed h1 h1)

theorem execLaunchAccept_formed {launch : Nat} {s : State} (h : s.Formed) : OutcomeFormed (execLaunchAccept launch s) := by
  unfold execLaunchAccept
  split
  · exact h
  · next x _ _ =>
      split
      · exact h
      · split
        · exact h
        · split
          · next e2 => exact got_wait e2 (readLaunch_formed h)
          · exact dropLaunch_formed (unitMet_formed h)
          · next e2 =>
              split
              · exact accept_formed (got_ok e2 (fun x => x.1.Formed) (readLaunch_formed h))
              · exact dropLaunch_formed (got_ok e2 (fun x => x.1.Formed) (readLaunch_formed h))

theorem dispatchTo_formed {s : State} {l : Launch} {core : Nat} (h : s.Formed) : (s.dispatchTo l core).Formed := by
  unfold State.dispatchTo
  extract_lets s1
  have h1 : s1.Formed := placeBlock_formed (beginDispatch_formed h)
  exact modLaunch_formed h1

theorem execBlockDispatch_formed {launch : Nat} {s : State} (h : s.Formed) : OutcomeFormed (execBlockDispatch launch s) := by
  unfold execBlockDispatch
  split
  · exact h
  · split
    · exact h
    · split
      · next e2 => exact option_some e2 State.Formed (queueWait_formed h)
      · split
        · exact h
        · split
          · exact h
          · exact choose_formed h fun _ h1 => dispatchTo_formed h1
      · exact h

theorem populate_formed {s : State} {l : Launch} (h : s.Formed) : (s.populate l).Formed := by
  unfold State.populate
  split
  · exact h
  · extract_lets bs go
    exact modPop_formed h

theorem dispatchWhole_formed {s : State} {l : Launch} {cores : List Nat} (h : s.Formed) : (s.dispatchWhole l cores).Formed := by
  unfold State.dispatchWhole
  extract_lets s1
  have h1 : s1.Formed := foldl_formed (beginDispatch_formed h) fun _ _ h1 => placeBlock_formed h1
  exact populate_formed (modLaunch_formed h1)

theorem execGangDispatch_formed {launch : Nat} {s : State} (h : s.Formed) : OutcomeFormed (execGangDispatch launch s) := by
  unfold execGangDispatch
  split
  · exact h
  · split
    · exact h
    · split
      · next e2 => exact option_some e2 State.Formed (queueWait_formed h)
      · split
        · exact h
        · exact choose_formed h fun _ h1 => dispatchWhole_formed h1
      · exact h

theorem execJoinResume_formed {block : Nat} {s : State} (h : s.Formed) : OutcomeFormed (execJoinResume block s) := by
  unfold execJoinResume
  split
  · exact h
  · split
    · exact h
    · split
      · exact h
      · split
        · exact h
        · split
          · next e3 => exact option_some e3 State.Formed (queueWait_formed h)
          · exact choose_formed h fun _ h1 => acquire_formed (packBlock_formed h1)
          · exact h

theorem chargeQueue_formed {s : State} {f q charge : Nat} (h : s.Formed) : (s.chargeQueue f q charge).Formed := by
  unfold State.chargeQueue
  split
  · exact h
  · next x _ _ =>
      split
      · exact h
      · split
        · next e2 => exact putNat_formed (got_ok e2 (fun x => x.1.Formed) (readQueue_formed h))
        · exact unitMet_formed h
        · exact h

theorem retireBlock_formed {s : State} {l : Launch} {b : Block} {cycles : Nat} (h : s.Formed) : (s.retireBlock l b cycles).Formed := by
  unfold State.retireBlock
  extract_lets s1 s2
  have h1 : s1.Formed := modBlock_formed h
  have h2 : s2.Formed := modLaunch_formed h1
  split
  · exact chargeQueue_formed h2
  · exact h2

theorem execBlockRetire_formed {block cycles : Nat} {s : State} (h : s.Formed) : OutcomeFormed (execBlockRetire block cycles s) := by
  unfold execBlockRetire
  split
  · exact h
  · split
    · exact h
    · extract_lets mates s'
      have h1 : s'.Formed := foldl_formed h fun _ _ h1 => retireBlock_formed h1
      split
      · exact h
      · split
        · next e2 => exact option_some e2 State.Formed (option_bind_formed (option_trivial _) fun _ _ => queueWait_formed h)
        · exact restCtx_formed (freeAccums_formed h1)

theorem forget_formed {s : State} {l : Launch} (h : s.Formed) : (s.forget l).Formed := by
  unfold State.forget
  extract_lets us bs src
  have h1 : src.Formed := foldl_formed (freeSpawn_formed h) fun _ _ h1 => freeSpawn_formed h1
  exact h1

theorem finishQueued_formed {s : State} {l : Launch} {q : Nat} (h : s.Formed) : (s.finishQueued l q).Formed := by
  unfold State.finishQueued
  extract_lets d written
  have h1 : d.1.Formed := unitDec_formed h
  exact ite_formed h1 (ite_formed (forget_formed h1) (modLaunch_formed h1))

theorem writeDone_formed {s : State} {c : Context} {l : Launch} (h : s.Formed) : (s.writeDone c l).Formed := by
  unfold State.writeDone
  split
  · exact h
  · split
    · next e => exact got_ok e State.Formed (putVirt_formed (forget_formed h))
    · exact kilnRecord_formed (forget_formed h)
    · exact noteMiss_formed h

theorem childOver_formed {s : State} {l : Launch} {b : Nat} (h : s.Formed) : (s.childOver l b).Formed := by
  unfold State.childOver
  extract_lets bs last s1
  have h1 : s1.Formed := modBlock_formed (forget_formed h)
  split
  · exact h1
  · exact modLaunch_formed h1

theorem execLaunchComplete_formed {launch : Nat} {s : State} (h : s.Formed) : OutcomeFormed (execLaunchComplete launch s) := by
  unfold execLaunchComplete
  split
  · exact h
  · split
    · exact h
    · split
      · exact writeDone_formed h
      · split
        · exact h
        · split
          · exact finishQueued_formed h
          · exact childOver_formed h
          · exact h

/-! ## The operations of Machine/EvContext.lean -/

theorem slotWords_formed {s : State} {f base command : Nat} {ws : List Word} (h : s.Formed) : (s.slotWords f base command ws).Formed :=
  setReg_formed (foldl_formed h fun _ _ h1 => setReg_formed h1)

theorem createCtx_formed {s : State} {f c : Nat} {addr : Dword} (h : s.Formed) : (s.createCtx f c addr).Formed := by
  unfold State.createCtx
  extract_lets membytes r src
  have h1 : r.1.Formed := engineRead_formed h
  have h2 : src.Formed := h1
  split
  · exact commandStatus_formed h
  · split
    · exact commandStatus_formed h1
    · exact ite_formed (commandStatus_formed h1) (commandStatus_formed h2)

theorem execCreate_formed {field ctx : Nat} {addr : Dword} {s : State} (h : s.Formed) : OutcomeFormed (execCreate field ctx addr s) := by
  unfold execCreate
  split
  · exact h
  · exact createCtx_formed (slotWords_formed h)

theorem destroyCtx_formed {s : State} {f c : Nat} (h : s.Formed) : (s.destroyCtx f c).Formed := by
  unfold State.destroyCtx
  split
  · exact commandStatus_formed h
  · split
    · extract_lets rest s1
      have h1 : s1.Formed := modCtx_formed (revokeAll_formed (emptyCtx_formed h))
      exact settleDestroys_formed h1
    · exact commandStatus_formed h

theorem execDestroy_formed {field ctx : Nat} {s : State} (h : s.Formed) : OutcomeFormed (execDestroy field ctx s) := by
  unfold execDestroy
  split
  · exact h
  · exact destroyCtx_formed (slotWords_formed h)

theorem execKill_formed {field ctx : Nat} {s : State} (h : s.Formed) : OutcomeFormed (execKill field ctx s) := by
  unfold execKill
  split
  · exact h
  · extract_lets s1
    have h1 : s1.Formed := slotWords_formed h
    split
    · exact commandStatus_formed h1
    · exact commandStatus_formed (killCtx_formed (kilnRecord_formed h1))

theorem startDrain_formed {s : State} {c : Context} {thermal : Bool} (h : s.Formed) : (s.startDrain c thermal).Formed :=
  restCtx_formed (modCtx_formed h)

theorem execPreempt_formed {field ctx : Nat} {s : State} (h : s.Formed) : OutcomeFormed (execPreempt field ctx s) := by
  unfold execPreempt
  split
  · exact h
  · extract_lets s1
    have h1 : s1.Formed := slotWords_formed h
    split
    · exact commandStatus_formed h1
    · exact ite_formed (commandStatus_formed (startDrain_formed h1)) (commandStatus_formed h1)

theorem setStep_formed {s : State} {f c core slot : Nat} {on : Bool} (h : s.Formed) : (s.setStep f c core slot on).Formed := by
  unfold State.setStep
  split
  · exact commandStatus_formed h
  · exact commandStatus_formed (modWarp_formed h)

theorem execStepFlag_formed {field ctx core slot : Nat} {s : State} (h : s.Formed) :
    OutcomeFormed (execStepFlag field ctx core slot s) := by
  unfold execStepFlag
  split
  · exact h
  · extract_lets ws
    exact setStep_formed (slotWords_formed h)

theorem execUnstepFlag_formed {field ctx core slot : Nat} {s : State} (h : s.Formed) :
    OutcomeFormed (execUnstepFlag field ctx core slot s) := by
  unfold execUnstepFlag
  split
  · exact h
  · extract_lets ws
    exact setStep_formed (slotWords_formed h)

theorem execPreemptionStart_formed {field ctx : Nat} {thermal : Bool} {s : State} (h : s.Formed) :
    OutcomeFormed (execPreemptionStart field ctx thermal s) := by
  unfold execPreemptionStart
  split
  · exact h
  · extract_lets cause
    exact ite_formed (startDrain_formed h) h

theorem execDrainLimitExpiry_formed {field ctx : Nat} {s : State} (h : s.Formed) : OutcomeFormed (execDrainLimitExpiry field ctx s) := by
  unfold execDrainLimitExpiry
  split
  · exact h
  · split
    · exact h
    · split
      · exact restCtx_formed h
      · exact modCtx_formed h

theorem execRegionLimitExpiry_formed {field ctx : Nat} {s : State} (h : s.Formed) : OutcomeFormed (execRegionLimitExpiry field ctx s) := by
  unfold execRegionLimitExpiry
  split
  · exact h
  · split
    · exact h
    · extract_lets ws
      exact foldl_formed h fun _ _ h1 => modWarp_formed (hostRecord_formed h1)

theorem partKill_formed {s : State} {f c code : Nat} (h : s.Formed) : (s.partKill f c code).Formed := killCtx_formed (kilnRecord_formed h)

theorem saveBlock_formed {s : State} {b : Block} (h : s.Formed) : (s.saveBlock b).Formed := by
  unfold State.saveBlock
  extract_lets keep s1
  have h1 : s1.Formed := h
  exact modBlock_formed (stowAccums_formed h1)

theorem writeImages_formed {s : State} {c : Context} {bs : List Block} (h : s.Formed) : (s.writeImages c bs).Formed :=
  foldl_formed h fun _ _ h1 => writeOwn_formed h1

theorem execForcedSave_formed {field ctx : Nat} {s : State} (h : s.Formed) : OutcomeFormed (execForcedSave field ctx s) := by
  unfold execForcedSave
  split
  · exact h
  · split
    · exact h
    · extract_lets bs us s1 images
      have h1 : s1.Formed := foldl_formed h fun _ _ h1 => quiesce_formed h1
      split
      · exact h1
      · split
        · exact partKill_formed h1
        · split
          · exact h1
          · exact modCtx_formed (foldl_formed (writeImages_formed h1) fun _ _ h2 => saveBlock_formed h2)

theorem restoreBlock_formed {s : State} {b : Block} {core : Nat} (h : s.Formed) : (s.restoreBlock b core).Formed := by
  unfold State.restoreBlock
  extract_lets slots new s1 home s2
  have h1 : s1.Formed := h
  have h2 : s2.Formed := carryReads_formed h1
  exact acquire_formed (unstowAccums_formed (modBlock_formed h2))

theorem restoreWhole_formed {s : State} {l : Launch} {taken : List Nat} {a : List Block} (h : s.Formed) :
    OptionFormed State.Formed (s.restoreWhole l taken a) := by
  induction a generalizing s l taken with
  | nil =>
    rw [State.restoreWhole]
    exact h
  | cons a1 l1 ih =>
    rw [State.restoreWhole]
    split
    · exact trivial
    · split
      · exact trivial
      · exact ih (restoreBlock_formed h)

theorem restoreAll_formed {s : State} {a : List (Block × Launch)} (h : s.Formed) : (s.restoreAll a).Formed := by
  induction a generalizing s with
  | nil =>
    rw [State.restoreAll]
    exact h
  | cons a1 l ih =>
    rw [State.restoreAll]
    split
    · exact ih h
    · split
      · extract_lets mates
        exact ih (getD_formed (restoreWhole_formed h) h)
      · split
        · exact ih (restoreBlock_formed h)
        · exact ih h

theorem execContextSchedule_formed {field ctx : Nat} {s : State} (h : s.Formed) : OutcomeFormed (execContextSchedule field ctx s) := by
  unfold execContextSchedule
  split
  · exact h
  · split
    · exact h
    · extract_lets saved s'
      have h1 : s'.Formed := restoreAll_formed h
      split
      · exact h
      · exact modCtx_formed h1

theorem watchdogKill_formed {s : State} {l : Launch} {b : Block} (h : s.Formed) : (s.watchdogKill l b).Formed := by
  unfold State.watchdogKill
  extract_lets slot
  exact killCtx_formed (hostRecord_formed h)

theorem execWatchdog_formed {block : Nat} {s : State} (h : s.Formed) : OutcomeFormed (execWatchdog block s) := by
  unfold execWatchdog
  split
  · exact h
  · split
    · exact h
    · split
      · exact h
      · split
        · exact modBlock_formed h
        · exact ite_formed (modBlock_formed h) (watchdogKill_formed h)

/-! ## The operations of Machine/Exchange.lean -/

theorem putSpan_formed {s : State} {j : Job} {val : Warp → Nat → Word} (h : s.Formed) : (s.putSpan j val).Formed :=
  foldl_formed h fun _ _ h1 => modWarp_formed h1

theorem putSpanPred_formed {s : State} {j : Job} {q : Nat} {val : Bool} (h : s.Formed) : (s.putSpanPred j q val).Formed :=
  foldl_formed h fun _ _ h1 => modWarp_formed h1

theorem shfl_formed {b : Opb} {pick : Nat → Nat → Nat → Nat} {s : State} {j : Job} (h : s.Formed) : (shfl b pick s j).Formed :=
  eachMember_formed (fun _ => operand_formed h) fun _ => putSpan_formed h

theorem execVcnt_formed {sc : Scope} {d : Reg} {n : Bool} {p : BitVec 3} {s : State} (h : s.Formed) :
    OutcomeFormed (execVcnt sc d n p s) := by
  unfold execVcnt
  refine issue_formed h fun _ _ h1 => ?_
  extract_lets k1
  exact putSpan_formed h1

theorem lredInt_formed {f : Form} {op : Word → Word → Word} {unit : Word} {s : State} {j : Job} (h : s.Formed) :
    (lredInt f op unit s j).Formed := putSpan_formed h

theorem job_spanTrap_formed {j : Job} {fx : Fx} : OptionFormed Eff.Formed (j.spanTrap fx) :=
  ite_option trivial (option_map_formed (option_trivial _) fun _ _ => trivial)

theorem lredMinMax_formed {f : Form} {big : Bool} {s : State} {j : Job} (h : s.Formed) : (lredMinMax f big s j).Formed := putSpan_formed h

theorem lredAdd_formed {s : State} {j : Job} (h : s.Formed) : (lredAdd s j).Formed := by
  unfold lredAdd
  extract_lets one fx0 total
  split
  · next e1 => exact option_some e1 Eff.Formed job_spanTrap_formed
  · exact putSpan_formed h

theorem lscanAdd_formed {f : Form} {s : State} {j : Job} (h : s.Formed) : (lscanAdd f s j).Formed := by
  unfold lscanAdd
  extract_lets one fx0 across own val fx1
  split
  · next e1 => exact option_some e1 Eff.Formed job_spanTrap_formed
  · exact putSpan_formed h

theorem xchg_formed {k : Bool} {b : Opb} {s : State} {j : Job} (h : s.Formed) : (xchg k b s j).Formed := by
  unfold xchg
  extract_lets y rank s1
  have h1 : s1.Formed := foldl_formed h fun _ _ h1 => modWarp_formed h1
  exact ite_eff trivial h1

/-! ## The operations of Machine/Multicast.lean -/

theorem execLdmc_formed {sc : Scope} {d a c : Reg} {s : State} (h : s.Formed) : OutcomeFormed (execLdmc sc d a c s) := by
  unfold execLdmc
  refine issue_formed h fun _ _ h1 => ?_
  extract_lets y src off id src2 op
  split
  · exact trivial
  · split
    · exact h1
    · refine got_eff_formed (firstFail_formed fun _ => checkLane_formed h1) fun _ _ => ?_
      extract_lets rs s1
      have h3 : s1.Formed := h1
      exact put_formed h3

theorem modReq_formed {s : State} {id : Nat} {g : McReq → McReq} (h : s.Formed) : (s.modReq id g).Formed := h

theorem modSession_formed {s : State} {id : Nat} {g : McSession → McSession} (h : s.Formed) : (s.modSession id g).Formed := h

theorem readLine_formed {s : State} {f : Nat} {a : Access} (h : s.Formed) : (s.readLine f a).1.Formed := by
  unfold State.readLine
  extract_lets base keys s1
  have h1 : s1.Formed := roundShadows_formed h
  exact h1

theorem mcLine_formed {s : State} {r : McReq} {a : Access} (h : s.Formed) : (s.mcLine r a).1.Formed := by
  unfold State.mcLine
  extract_lets line g bad own
  have h1 : g.1.Formed := readLine_formed h
  have h2 : own.1.Formed := by
    unfold own
    split
    · exact h
    · exact modReq_formed h1
  split
  · split
    · exact h2
    · split
      · exact h2
      · split
        · exact h
        · exact modSession_formed h1
  · exact h2

theorem mcSend_formed {s : State} {m : McSession} (h : s.Formed) : (s.mcSend m).Formed := by
  unfold State.mcSend
  extract_lets s1
  have h1 : s1.Formed := modSession_formed h
  split
  · exact h1
  · exact mcLine_formed h1

theorem mcSweep_formed {s : State} (h : s.Formed) : s.mcSweep.Formed := h

theorem mcFree_formed {s : State} {m : McSession} (h : s.Formed) : (s.mcFree m).Formed := mcSweep_formed (modSession_formed h)

theorem mcOpen_formed {s : State} {r : McReq} (h : s.Formed) : (s.mcOpen r).Formed := by
  unfold State.mcOpen
  extract_lets mine full s1 id m s2 s3
  have h1 : s1.Formed := by
    unfold s1
    split
    · exact mcFree_formed h
    · exact h
  have h2 : s2.Formed := h1
  have h3 : s3.Formed := modReq_formed h2
  exact ite_formed (modReq_formed h) (ite_formed (mcSend_formed h3) h3)

theorem mcArrive_formed {s : State} {r : McReq} (h : s.Formed) : (s.mcArrive r).Formed := by
  unfold State.mcArrive
  split
  · exact mcOpen_formed h
  · split
    · exact ite_formed (mcOpen_formed (mcFree_formed h)) (modReq_formed h)
    · extract_lets s1 s2
      have h1 : s1.Formed := modSession_formed h
      have h2 : s2.Formed := modReq_formed h1
      exact ite_formed (modReq_formed h1) (ite_formed (mcSend_formed h2) h2)

theorem mcServed_formed {s : State} {r : McReq} (h : s.Formed) : (s.mcServed r).Formed := by
  unfold State.mcServed
  extract_lets s1 s2
  have h1 : s1.Formed := h
  have h2 : s2.Formed := by
    unfold s2
    split
    · exact h1
    · extract_lets served s3
      have h2 : s3.Formed := modSession_formed h1
      exact ite_formed (mcFree_formed h2) (mcSweep_formed h2)
  exact ite_formed h2 (finishLoad_formed h2)

theorem mcDeliver_formed {s : State} {r : McReq} {k : Nat} {a : Access} (h : s.Formed) : (s.mcDeliver r k a).Formed := by
  unfold State.mcDeliver
  extract_lets g s1 bytes s2 s3 s4
  have h1 : g.1.Formed := mcLine_formed h
  have h2 : s1.Formed := h1
  have h3 : s2.Formed := by
    unfold s2
    split
    · exact h2
    · exact modBlock_formed h2
  have h4 : s3.Formed := by
    unfold s3
    split
    · exact ite_formed h3 (addAsync_formed h3)
    · exact h3
  have h5 : s4.Formed := noteDone_formed (modReq_formed h4)
  split
  · exact ite_formed (mcServed_formed h5) h5
  · exact h5

/-! ## The operations of Machine/EvCore.lean -/

theorem execSplitMerge_formed {w i j : Nat} {s : State} (h : s.Formed) : OutcomeFormed (execSplitMerge w i j s) := by
  unfold execSplitMerge
  split
  · exact h
  · exact ite_formed (modWarp_formed h) h

theorem release_formed {s : State} {w : Warp} {sc : Scope} (h : s.Formed) : (s.release w sc).Formed := by
  unfold State.release
  split
  · exact h
  · exact modWarp_formed h
  · extract_lets us go s1
    have h1 : s1.Formed := h
    exact modRv_formed h1

theorem diverge_formed {s : State} {u slot : Nat} {x : Split} (h : s.Formed) : (s.diverge u slot x).Formed := by
  unfold State.diverge
  split
  · exact h
  · exact report_formed h

theorem divergeBlock_formed {s : State} {b : Nat} (h : s.Formed) : (s.divergeBlock b).Formed := by
  unfold State.divergeBlock
  extract_lets ws s1
  have h1 : s1.Formed := foldl_formed h fun _ _ h1 => quiesce_formed h1
  exact ite_formed (foldl_formed h1 fun _ _ h2 => diverge_formed h2) h1

theorem execRendezvousRelease_formed {w : Nat} {s : State} (h : s.Formed) : OutcomeFormed (execRendezvousRelease w s) := by
  unfold execRendezvousRelease
  split
  · exact h
  · split
    · exact h
    · split
      · exact release_formed h
      · split
        · split
          · exact diverge_formed h
          · exact h
        · split
          · exact divergeBlock_formed h
          · exact h

theorem execWaitEnd_formed {w slot : Nat} {s : State} (h : s.Formed) : OutcomeFormed (execWaitEnd w slot s) := by
  unfold execWaitEnd
  split
  · exact h
  · split
    · exact h
    · split
      · exact h
      · extract_lets s1
        have h1 : s1.Formed := ite_formed (acquire_formed h) h
        exact modWarp_formed h1

theorem endGrow_formed {s : State} {w : Warp} {g : Bool} (h : s.Formed) : (s.endGrow w g).Formed := by
  unfold State.endGrow
  extract_lets slot
  split
  · split
    · extract_lets s1
      have h1 : s1.Formed := modWarp_formed h
      exact finishAt_formed h1
    · exact h
  · exact h

theorem execGrowGrant_formed {core : Nat} {s : State} (h : s.Formed) : OutcomeFormed (execGrowGrant core s) := by
  unfold execGrowGrant
  split
  · exact endGrow_formed h
  · exact h

theorem execGrowFail_formed {core : Nat} {s : State} (h : s.Formed) : OutcomeFormed (execGrowFail core s) := by
  unfold execGrowFail
  extract_lets ws us
  split
  · exact h
  · split
    · exact endGrow_formed h
    · exact h

theorem execHandlerEntry_formed {w code lane : Nat} {faddr : Dword} {s : State} (h : s.Formed) :
    OutcomeFormed (execHandlerEntry w code lane faddr s) := by
  unfold execHandlerEntry
  split
  · exact h
  · split
    · exact h
    · split
      · exact report_formed h
      · exact h

theorem execLoadComplete_formed {w k : Nat} {s : State} (h : s.Formed) : OutcomeFormed (execLoadComplete w k s) := by
  unfold execLoadComplete
  split
  · exact h
  · split
    · exact h
    · split
      · exact h
      · split
        · exact fetchEarly_formed h
        · exact getD_formed (completeLoad_formed h) h

theorem execBankWriteApply_formed {block k : Nat} {s : State} (h : s.Formed) : OutcomeFormed (execBankWriteApply block k s) := by
  unfold execBankWriteApply
  split
  · exact h
  · extract_lets put s1 more
    have h1 : s1.Formed := modBlock_formed h
    exact ite_formed h1 (finishLoad_formed h1)

theorem clearOffers_formed {s : State} {ws : List Warp} (h : s.Formed) : (s.clearOffers ws).Formed :=
  foldl_formed h fun _ _ h1 => modWarp_formed h1

theorem xchgTrap_formed {s : State} {x : Warp × XchgOffer} (h : s.Formed) : (s.xchgTrap x).Formed := by
  unfold State.xchgTrap
  extract_lets s1
  have h1 : s1.Formed := clearOffers_formed h
  exact report_formed h1

theorem xchgSwap_formed {s : State} {a b : Warp × XchgOffer} (h : s.Formed) : (s.xchgSwap a b).Formed := by
  unfold State.xchgSwap
  extract_lets sa sb put t1 t2 fin
  have hput : ∀ other s w, s.Formed → (put other s w).Formed := by
    intro other s w hs
    unfold put
    split
    · exact modWarp_formed hs
    · exact hs
  have h1 : t1.Formed := foldl_formed (foldl_formed h (hput _)) (hput _)
  have h2 : t2.Formed := clearOffers_formed h1
  exact foldl_formed (foldl_formed h2 fun _ _ hs => finishAt_formed hs) fun _ _ hs => finishAt_formed hs

theorem execXchgPair_formed {w : Nat} {s : State} (h : s.Formed) : OutcomeFormed (execXchgPair w s) := by
  unfold execXchgPair
  split
  · exact h
  · next a _ =>
    split
    · exact h
    · dsimp only
      split
      · exact xchgTrap_formed (quiesce_formed h)
      · split
        · exact h
        · next b _ =>
          split
          · exact xchgSwap_formed h
          · have hq : ((s.quiesce a.1.uid).quiesce b.1.uid).Formed := quiesce_formed (quiesce_formed h)
            split
            · exact xchgTrap_formed (xchgTrap_formed hq)
            · exact hq

/-! ## The operations of Machine/EvEngine.lean -/

theorem execMulticastRequest_formed {id : Nat} {s : State} (h : s.Formed) : OutcomeFormed (execMulticastRequest id s) := by
  unfold execMulticastRequest
  split
  · exact h
  · exact ite_formed (mcArrive_formed h) h

theorem execMulticastTimeout_formed {k : Nat} {s : State} (h : s.Formed) : OutcomeFormed (execMulticastTimeout k s) := by
  unfold execMulticastTimeout
  split
  · exact h
  · exact ite_formed h (mcSend_formed h)

theorem execLdmcDelivery_formed {id beat : Nat} {s : State} (h : s.Formed) : OutcomeFormed (execLdmcDelivery id beat s) := by
  unfold execLdmcDelivery
  split
  · exact h
  · split
    · exact h
    · exact ite_formed (mcDeliver_formed h) h

theorem execPhaseSweepPair_formed {launch : Nat} {s : State} (h : s.Formed) : OutcomeFormed (execPhaseSweepPair launch s) := by
  unfold execPhaseSweepPair
  split
  · exact h
  · extract_lets nodes s1 clear
    have h1 : s1.Formed := foldl_formed h fun _ _ h1 => phqEnd_formed h1
    exact h1

theorem execPhqWake_formed {block : Nat} {s : State} (h : s.Formed) : OutcomeFormed (execPhqWake block s) := by
  unfold execPhqWake
  split
  · exact h
  · split
    · exact h
    · extract_lets r
      have h1 : r.1.Formed := phqItem_formed h
      exact ite_formed (phqEnd_formed h1) h1

/-! ## The operations of Machine/Valid.lean -/

theorem readChunks_formed {s : State} {c : Context} {size : Nat} {a : Dword} {n : Nat} (h : s.Formed) :
    Got.Formed (fun x => x.1.Formed) (s.readChunks c size a n) := by
  unfold State.readChunks
  refine got_bind_formed (firstFail_formed fun _ => checkLane_formed h) fun _ _ => ?_
  extract_lets r
  have h2 : r.1.Formed := unitLoad_formed h
  exact h2

theorem nodeExtra_formed {s : State} {c : Context} {b : List Byte} (h : s.Formed) : Got.Formed (fun x => x.1.Formed) (s.nodeExtra c b) := by
  unfold State.nodeExtra
  split
  · exact ite_got h (got_bind_formed (readChunks_formed h) fun _ h1 => h1)
  · split
    · exact h
    · refine got_bind_formed (readChunks_formed h) fun _ h1 => ?_
      extract_lets packet
      exact ite_got (got_bind_formed (readChunks_formed h1) fun _ h2 => h2) h1
  · exact h

theorem extras_formed {s : State} {c : Context} {a : List (List Byte)} (h : s.Formed) :
    Got.Formed (fun x => x.1.Formed) (s.extras c a) := by
  induction a generalizing s c with
  | nil =>
    rw [State.extras]
    exact h
  | cons a1 l ih =>
    rw [State.extras]
    exact got_bind_formed (nodeExtra_formed h) fun _ h1 => got_bind_formed (ih h1) fun _ h2 => h2

theorem readGraph_formed {s : State} {c : Context} {g : Graph} (h : s.Formed) : Got.Formed (fun x => x.1.Formed) (s.readGraph c g) :=
  got_bind_formed (readChunks_formed h) fun _ h1 => got_bind_formed (readChunks_formed h1) fun _ h2 =>
    got_bind_formed (extras_formed h2) fun _ h3 => h3

theorem graphWait_formed {s : State} {c : Context} {g : Graph} (h : s.Formed) : OptionFormed State.Formed (s.graphWait c g) := by
  unfold State.graphWait
  split
  · exact noteMiss_formed h
  · refine findSome_formed fun _ => ?_
    split
    · exact trivial
    · split
      · next e1 => exact got_wait e1 (itemqsOk_formed h)
      · exact trivial

theorem dropGraph_formed {s : State} {g : Graph} {code : Nat} {a : Dword} (h : s.Formed) : (s.dropGraph g code a).Formed :=
  kilnRecord_formed h

theorem unreadGraph_formed {s : State} {g : Graph} {t : Trap} (h : s.Formed) : (s.unreadGraph g t).Formed :=
  dropGraph_formed (unitMet_formed h)

theorem validate_formed {s : State} {c : Context} {g : Graph} (h : s.Formed) : (s.validate c g).Formed := by
  unfold State.validate
  split
  · exact dropGraph_formed h
  · split
    · next e => exact got_wait e (readChunks_formed h)
    · exact unreadGraph_formed h
    · next x _ e =>
        extract_lets s1 g1
        have h1 : s1.Formed := got_ok e (fun x => x.1.Formed) (readChunks_formed h)
        split
        · exact dropGraph_formed h1
        · split
          · next e1 => exact got_wait e1 (readGraph_formed h1)
          · exact unreadGraph_formed h1
          · next e1 =>
              split
              · next e2 => exact option_some e2 State.Formed (graphWait_formed (got_ok e1 (fun x => x.1.Formed) (readGraph_formed h1)))
              · exact dropGraph_formed (got_ok e1 (fun x => x.1.Formed) (readGraph_formed h1))
              · extract_lets run
                exact formed_of_mem (got_ok e1 (fun x => x.1.Formed) (readGraph_formed h1)) rfl

theorem execGraphValidate_formed {graph : Nat} {s : State} (h : s.Formed) : OutcomeFormed (execGraphValidate graph s) := by
  unfold execGraphValidate
  split
  · exact h
  · split
    · exact h
    · exact ite_formed (validate_formed h) h

/-! ## The operations of Machine/EvGraph.lean -/

theorem modGraph_formed {s : State} {u : Nat} {g : Graph → Graph} (h : s.Formed) : (s.modGraph u g).Formed := h

theorem execNodeIssue_formed {graph : Nat} {s : State} (h : s.Formed) : OutcomeFormed (execNodeIssue graph s) := by
  unfold execNodeIssue
  split
  · exact h
  · exact ite_formed (modGraph_formed h) h

theorem abandonLaunch_formed {s : State} {l : Launch} (h : s.Formed) : (s.abandonLaunch l).Formed := by
  unfold State.abandonLaunch
  extract_lets us bs s1 stay left s2 s3
  have h1 : s1.Formed := foldl_formed h fun _ _ h1 => quiesce_formed h1
  have h2 : s2.Formed := h1
  have h3 : s3.Formed := forget_formed h2
  exact freeAccums_formed h3

theorem abandonGraph_formed {s : State} {g : Graph} (h : s.Formed) : (s.abandonGraph g).Formed := by
  unfold State.abandonGraph
  extract_lets ls s1
  have h1 : s1.Formed := foldl_formed h fun _ _ h1 => abandonLaunch_formed h1
  exact restCtx_formed h1

theorem execPredicateEval_formed {graph : Nat} {s : State} (h : s.Formed) : OutcomeFormed (execPredicateEval graph s) := by
  unfold execPredicateEval
  split
  · exact h
  · next x _ _ _ =>
      extract_lets a
      split
      · exact h
      · split
        · exact modGraph_formed h
        · split
          · next e1 => exact got_wait e1 (getVirt_formed h)
          · exact abandonGraph_formed (kilnRecord_formed h)
          · next e1 => exact modGraph_formed (got_ok e1 (fun x => x.1.Formed) (getVirt_formed h))

theorem startPass_formed {s : State} {c : Context} {g : Graph} {i : Inst} (h : s.Formed) : (s.startPass c g i).Formed := by
  unfold State.startPass
  extract_lets l ready go
  exact modGraph_formed h

theorem startCopyNode_formed {s : State} {c : Context} {g : Graph} {i : Inst} (h : s.Formed) : (s.startCopyNode c g i).Formed := by
  unfold State.startCopyNode
  extract_lets extra quad r go s1
  have h1 : s1.Formed := h
  split
  · exact h
  · split
    · next e => exact started_waits e (ite_started h1 (startKind_formed h1))
    · next e => exact started_state_formed (modGraph_formed (started_run e (ite_started h1 (startKind_formed h1))))

theorem instDone_formed {s : State} {g k : Nat} {bit : Word} (h : s.Formed) : (s.instDone g k bit).Formed := copyNodeDone_formed h

theorem settleSignals_formed {s : State} (h : s.Formed) : s.settleSignals.Formed :=
  foldl_formed h fun _ _ h1 => foldl_formed h1 fun _ _ h2 => instDone_formed h2

theorem settleMoved_formed {s : State} (h : s.Formed) : s.settleMoved.Formed := settleGone_formed (settleSignals_formed h)

theorem signalWrite_formed {s : State} {c : Context} {op : Nat} {add : Bool} {a : Dword} {v : Word} (h : s.Formed) :
    Got.Formed State.Formed (s.signalWrite c op add a v) := by
  unfold State.signalWrite
  split
  · refine got_bind_formed (checkLane_formed h) fun _ _ => ?_
    extract_lets s1 acc s2
    have h2 : s1.Formed := ite_formed h h
    have h3 : s2.Formed := unitAtom_formed h2
    split
    · exact ite_formed (doorbell_formed h3) h3
    · exact atomicAt_formed (invalReplicas_formed h2)
  · exact got_bind_formed (checkBytes_formed h) fun _ _ => unitPut_formed h

theorem startSignal_formed {s : State} {c : Context} {g : Graph} {i : Inst} (h : s.Formed) : (s.startSignal c g i).Formed := by
  unfold State.startSignal
  extract_lets b a op go
  split
  · exact h
  · split
    · next e => exact got_wait e (signalWrite_formed h)
    · exact instDone_formed (kilnRecord_formed h)
    · next e => exact settleSignals_formed (modGraph_formed (got_ok e State.Formed (signalWrite_formed h)))

theorem execInstanceStart_formed {graph k : Nat} {s : State} (h : s.Formed) : OutcomeFormed (execInstanceStart graph k s) := by
  unfold execInstanceStart
  split
  · exact h
  · split
    · exact h
    · split
      · exact h
      · split
        · exact startPass_formed h
        · exact startCopyNode_formed h
        · exact modGraph_formed h
        · exact startSignal_formed h

theorem execWaitctrComplete_formed {graph k : Nat} {s : State} (h : s.Formed) : OutcomeFormed (execWaitctrComplete graph k s) := by
  unfold execWaitctrComplete
  split
  · exact h
  · split
    · exact h
    · extract_lets b
      split
      · exact h
      · split
        · exact h
        · extract_lets v ovf
          split
          · exact instDone_formed (kilnRecord_formed h)
          · split
            · exact instDone_formed h
            · exact h

theorem placeTile_formed {s : State} {c : Context} {g : Graph} {i : Inst} {t core : Nat} {l : Launch} {slots : List (Nat × Nat)}
    {tabs : List (Nat × Nat × List Byte)} (h : s.Formed) :
    (s.placeTile c g i t core l slots tabs).Formed := by
  unfold State.placeTile
  extract_lets column words s1 gw tile go s'
  have h1 : s1.Formed := by
    unfold s1
    refine foldl_formed h fun _ _ h1 => ?_
    extract_lets lo
    exact clearOwn_formed (engineWrite_formed h1)
  have h2 : s'.Formed := modBlock_formed (placeBlock_formed h1)
  exact modGraph_formed h2

theorem releaseTo_formed {s : State} {c : Context} {g : Graph} {i : Inst} {t core : Nat} (h : s.Formed) :
    (s.releaseTo c g i t core).Formed := by
  unfold State.releaseTo
  split
  · extract_lets tabs
    exact ite_formed h (choose_formed h fun _ h1 => placeTile_formed h1)
  · exact h

theorem release1_formed {s : State} {g : Graph} {k t : Nat} (h : s.Formed) : (s.release1 g k t).Formed := by
  unfold State.release1
  split
  · next e => exact option_some e State.Formed (queueWait_formed h)
  · extract_lets xs xs2
    split
    · exact h
    · extract_lets tables fits
      split
      · exact h
      · exact releaseTo_formed h
  · exact h

theorem execTileRelease_formed {graph k tile : Nat} {s : State} (h : s.Formed) : OutcomeFormed (execTileRelease graph k tile s) := by
  unfold execTileRelease
  split
  · exact h
  · exact ite_formed (release1_formed h) h

theorem relqNext_formed {s : State} {c : Context} {g : Graph} (h : s.Formed) : Got.Formed State.Formed (s.relqNext c g) := by
  unfold State.relqNext
  extract_lets on
  split
  · next e => exact modGraph_formed (got_ok e State.Formed (putVirt_formed h))
  · next e => exact got_wait e (putVirt_formed h)
  · exact modGraph_formed (unitMet_formed h)

theorem relqTake_formed {s : State} {c : Context} {g : Graph} {w : Nat} (h : s.Formed) : (s.relqTake c g w).Formed := by
  unfold State.relqTake
  extract_lets s'
  have h1 : s'.Formed := by
    unfold s'
    split
    · exact h
    · exact release1_formed h
  split
  · exact h1
  · split
    · next e => exact got_ok e State.Formed (relqNext_formed h1)
    · exact noteMiss_formed h
    · exact h

theorem execRelqTake_formed {graph : Nat} {s : State} (h : s.Formed) : OutcomeFormed (execRelqTake graph s) := by
  unfold execRelqTake
  split
  · exact h
  · next x _ _ _ =>
      split
      · exact h
      · split
        · next e1 => exact got_wait e1 (relqWord_formed h)
        · exact unitMet_formed h
        · next e1 =>
            split
            · exact relqTake_formed (got_ok e1 (fun x => x.1.Formed) (relqWord_formed h))
            · exact got_ok e1 (fun x => x.1.Formed) (relqWord_formed h)

theorem retqFree_formed {s : State} {c : Context} {g : Graph} (h : s.Formed) : Got.Formed (fun x => x.1.Formed) (s.retqFree c g) := by
  unfold State.retqFree
  split
  · next x _ e => exact got_ok e (fun x => x.1.Formed) (getVirt_formed h)
  · exact unitMet_formed h
  · next e => exact got_wait e (getVirt_formed h)

theorem retqPut_formed {s : State} {c : Context} {g : Graph} {i : Inst} {tile : Nat} (h : s.Formed) :
    Got.Formed State.Formed (s.retqPut c g i tile) := by
  unfold State.retqPut
  refine got_bind_formed (retqFree_formed h) fun _ h1 => ?_
  split
  · exact h1
  · extract_lets on
    split
    · next e => exact modGraph_formed (got_ok e State.Formed (putVirt_formed h1))
    · exact modGraph_formed (unitMet_formed h1)
    · next e => exact got_wait e (putVirt_formed h1)

theorem dropTile_formed {s : State} {g : Nat} {b : Block} {l : Nat} {last : Bool} (h : s.Formed) : (s.dropTile g b l last).Formed := by
  unfold State.dropTile
  extract_lets src s1
  have h1 : src.Formed := freeSpawn_formed h
  have h2 : s1.Formed := h1
  split
  · exact h2
  · extract_lets s2
    have h3 : s2.Formed := modGraph_formed h2
    exact h3

theorem execTileRetire_formed {graph k tile : Nat} {s : State} (h : s.Formed) : OutcomeFormed (execTileRetire graph k tile s) := by
  unfold execTileRetire
  split
  · exact h
  · next g _ =>
    split
    · next i c _ _ =>
      split
      · exact h
      · split
        · exact h
        · have hput : Got.Formed State.Formed (if c.hwRelease then .ok s else s.retqPut c g i tile) := ite_got h (retqPut_formed h)
          split
          · next e => exact got_wait e hput
          · exact h
          · next e => exact restCtx_formed (dropTile_formed (modGraph_formed (got_ok e State.Formed hput)))
    · exact h

theorem endGraph_formed {s : State} {g : Graph} (h : s.Formed) : (s.endGraph g).Formed := h

theorem finishGraph_formed {s : State} {g : Graph} (h : s.Formed) : (s.finishGraph g).Formed := by
  unfold State.finishGraph
  extract_lets d complete
  have h1 : d.1.Formed := unitDec_formed h
  exact ite_formed h1 (ite_formed (endGraph_formed h1) (modGraph_formed h1))

theorem writeStatus_formed {s : State} {c : Context} {g : Graph} (h : s.Formed) : (s.writeStatus c g).Formed := by
  unfold State.writeStatus
  split
  · exact h
  · split
    · next e => exact got_ok e State.Formed (putVirt_formed (endGraph_formed h))
    · exact kilnRecord_formed (endGraph_formed h)
    · exact noteMiss_formed h

theorem execGraphComplete_formed {graph : Nat} {s : State} (h : s.Formed) : OutcomeFormed (execGraphComplete graph s) := by
  unfold execGraphComplete
  split
  · exact h
  · split
    · exact h
    · split
      · exact h
      · split
        · exact writeStatus_formed h
        · split
          · exact h
          · exact finishGraph_formed h

theorem execRingExhausted_formed {graph : Nat} {s : State} (h : s.Formed) : OutcomeFormed (execRingExhausted graph s) := by
  unfold execRingExhausted
  split
  · exact h
  · split
    · exact h
    · split
      · exact h
      · exact abandonGraph_formed (kilnRecord_formed h)

/-! ## The operations of Machine/EvMem.lean -/

theorem countItem_formed {s : State} {op src ctx slot : Nat} (h : s.Formed) : (s.countItem op src ctx slot).Formed := by
  unfold State.countItem
  extract_lets more
  exact ite_formed h (countSrc_formed h)

theorem ackRed_formed {s : State} {r : AtomReq} (h : s.Formed) : (s.ackRed r).Formed := by
  unfold State.ackRed
  extract_lets s1 count
  have h1 : s1.Formed := h
  exact closeStore_formed (ite_formed h1 (foldl_formed h1 fun _ _ h2 => countItem_formed h2))

theorem execStoreAck_formed {id : Nat} {s : State} (h : s.Formed) : OutcomeFormed (execStoreAck id s) := by
  unfold execStoreAck
  split
  · exact ite_formed (settleMoved_formed (ackFlight_formed h)) h
  · split
    · exact ite_formed (settleMoved_formed (ackRed_formed h)) h
    · exact h

theorem execL1Eviction_formed {core line : Nat} {repl : Bool} {s : State} (h : s.Formed) :
    OutcomeFormed (execL1Eviction core line repl s) := by
  unfold execL1Eviction
  split
  · exact h
  · split
    · exact h
    · exact evictL1_formed h

theorem execSliceEviction_formed {line : Nat} {toVault : Bool} {s : State} (h : s.Formed) :
    OutcomeFormed (execSliceEviction line toVault s) := by
  unfold execSliceEviction
  extract_lets s1
  have h1 : s1.Formed := h
  split
  · exact h1
  · split
    · exact roundShadows_formed h1
    · exact ite_formed (evictDirty_formed h1) h1

theorem atomAccs_formed {s : State} {r : AtomReq} (h : s.Formed) : (s.atomAccs r).1.Formed := by
  unfold State.atomAccs
  refine foldl_fst_formed h fun _ _ h1 => ?_
  extract_lets y
  have h2 : y.1.Formed := atomicAt_formed h1
  exact h2

theorem atomOver_formed {s : State} {r : AtomReq} {olds : List (Nat × Dword)} (h : s.Formed) : (s.atomOver r olds).Formed := by
  unfold State.atomOver
  split
  · exact closeStore_formed h
  · extract_lets put s1
    have h1 : s1.Formed := h
    exact ite_formed h1 (closeStore_formed h1)

theorem atomBad_formed {s : State} {r : AtomReq} {code : Nat} (h : s.Formed) : (s.atomBad r code).Formed := by
  unfold State.atomBad
  extract_lets s1 s2
  have h1 : s1.Formed := h
  have h2 : s2.Formed := by
    unfold s2
    split
    · exact ite_formed (addAsync_formed h1) h1
    · exact h1
  exact atomOver_formed h2

theorem atomGood_formed {s : State} {r : AtomReq} (h : s.Formed) : (s.atomGood r).Formed := by
  unfold State.atomGood
  extract_lets x s1 count s2 pass past old s3
  have h1 : x.1.Formed := atomAccs_formed h
  have h2 : s1.Formed := noteDone_formed h1
  have h3 : s2.Formed := foldl_formed h2 fun _ _ h3 => ite_formed (countDst_formed h3) h3
  have h4 : s3.Formed := h3
  exact atomOver_formed h4

theorem atomWrite_formed {s : State} {r : AtomReq} (h : s.Formed) : (s.atomWrite r).Formed := modWarp_formed h

theorem atomEnd_formed {s : State} {r : AtomReq} (h : s.Formed) : (s.atomEnd r).Formed := by
  unfold State.atomEnd
  split
  · exact h
  · extract_lets acq s1
    have h1 : s1.Formed := finishLoad_formed h
    exact ite_formed (invalL1_formed h1) h1

theorem execAtomicReturn_formed {id : Nat} {s : State} (h : s.Formed) : OutcomeFormed (execAtomicReturn id s) := by
  unfold execAtomicReturn
  split
  · exact h
  · split
    · exact h
    · extract_lets s1
      have h1 : s1.Formed := atomWrite_formed h
      exact atomEnd_formed h1

theorem breakItem_formed {s : State} {op n : Nat} (h : s.Formed) : (s.breakItem op n).Formed := by
  unfold State.breakItem
  extract_lets put putR
  exact h

theorem execLossNotice_formed {id : Nat} {s : State} (h : s.Formed) : OutcomeFormed (execLossNotice id s) := by
  unfold execLossNotice
  extract_lets ops s1
  have h1 : s1.Formed := h
  exact foldl_formed h1 fun _ _ h2 => breakItem_formed h2

/-! ## The operations of Machine/EvPage.lean -/

theorem cachePage_formed {s : State} {c : Context} {core : Option Nat} {page : Nat} {p : Option Dword} (h : s.Formed) :
    (s.cachePage c core page p).Formed := by
  unfold State.cachePage
  extract_lets here_ rest mine rest2
  split <;> exact h

theorem serveMiss_formed {s : State} {c : Context} {m : Miss} {p : Option Dword} (h : s.Formed) : (s.serveMiss c m p).Formed := by
  unfold State.serveMiss
  extract_lets mine answer s1 cores
  have h1 : s1.Formed := h
  split
  · exact h
  · exact foldl_formed (cachePage_formed h1) fun _ _ h2 => cachePage_formed h2

theorem walkPage_formed {s : State} {c : Context} {va : Nat} (h : s.Formed) : (s.walkPage c va).Formed := by
  unfold State.walkPage
  extract_lets page r
  have h1 : r.1.Formed := walkNow_formed h
  split
  · exact serveMiss_formed h1
  · exact cachePage_formed h

theorem execPageWalk_formed {field ctx : Nat} {va : Dword} {s : State} (h : s.Formed) : OutcomeFormed (execPageWalk field ctx va s) := by
  unfold execPageWalk
  split
  · exact h
  · exact ite_formed h (walkPage_formed h)

theorem fillWords_formed {s : State} {f ctx : Nat} {vpage pte : Dword} (h : s.Formed) : (s.fillWords f ctx vpage pte).Formed :=
  foldl_formed h fun _ _ h1 => setReg_formed h1

theorem execFillResponse_formed {field ctx : Nat} {vpage pte : Dword} {s : State} (h : s.Formed) :
    OutcomeFormed (execFillResponse field ctx vpage pte s) := by
  unfold execFillResponse
  split
  · exact h
  · split
    · exact h
    · extract_lets s1
      have h1 : s1.Formed := fillWords_formed h
      split
      · exact h1
      · exact serveMiss_formed h1

theorem execInvalidate_formed {field ctx : Nat} {va : Dword} {log : Nat} {s : State} (h : s.Formed) :
    OutcomeFormed (execInvalidate field ctx va log s) := by
  unfold execInvalidate
  split
  · exact h
  · extract_lets base s' gone late
    have h1 : s'.Formed := slotWords_formed h
    split
    · exact setReg_formed h1
    · split
      · exact h
      · exact setReg_formed h1

theorem putFrame_formed {s : State} {x : VFrame} (h : s.Formed) : (s.putFrame x).Formed := h

theorem moveFrame_formed {s : State} {src dst : List Nat} (h : s.Formed) : ExceptFormed State.Formed (s.moveFrame src dst) := by
  unfold State.moveFrame
  split
  · exact trivial
  · extract_lets own r s1
    have h1 : r.1.Formed := engineRead_formed h
    have h2 : s1.Formed := engineWrite_formed h1
    exact h2

theorem dropFrame_formed {s : State} {f frame : Nat} (h : s.Formed) : (s.dropFrame f frame).Formed := by
  unfold State.dropFrame
  extract_lets mine
  exact h

theorem frameOut_formed {s : State} {x : VFrame} (h : s.Formed) : (s.frameOut x).Formed := by
  unfold State.frameOut
  split
  · exact h
  · next o _ =>
    split
    · exact h
    · next pos _ =>
      -- the keys of a frame are a list of 65536 numbers that no proof should unfold
      generalize frameKeys x.field x.frame = src
      generalize o.backKeys pos = dst
      refine ite_formed h ?_
      split
      · exact partKill_formed h
      · next e => exact putFrame_formed (except_ok e State.Formed (moveFrame_formed h))

theorem frameIn_formed {s : State} {c : Context} {frame pos : Nat} (h : s.Formed) : (s.frameIn c frame pos).Formed := by
  unfold State.frameIn
  -- the keys of a frame are a list of 65536 numbers that no proof should unfold
  generalize frameKeys c.field frame = dst
  generalize c.backKeys pos = src
  have hm : ExceptFormed State.Formed (if (s.frameOf c.field frame).out.contains c.ctxid then s.moveFrame src dst
      else .ok (s.engineWrite (dst.map fun k => (k, 0)))) := ite_except (moveFrame_formed h) (engineWrite_formed h)
  dsimp only
  split
  · exact partKill_formed h
  · next e => exact putFrame_formed (dropFrame_formed (except_ok e State.Formed hm))

theorem execFrameCopyOnWrite_formed {field frame ctx : Nat} {s : State} (h : s.Formed) :
    OutcomeFormed (execFrameCopyOnWrite field frame ctx s) := by
  unfold execFrameCopyOnWrite
  split
  · exact h
  · extract_lets x2
    split
    · exact h
    · split
      · exact h
      · exact frameIn_formed (frameOut_formed h)

theorem logError_formed {s : State} {kind field unit addr : Nat} (h : s.Formed) : (s.logError kind field unit addr).Formed := by
  unfold State.logError
  extract_lets n e slot
  exact h

theorem loseGraph_formed {s : State} {g : Graph} {r : Option Nat} (h : s.Formed) : (s.loseGraph g r).Formed := by
  unfold State.loseGraph
  extract_lets a
  exact abandonGraph_formed (kilnRecord_formed h)

theorem loopsFound_formed {s : State} (h : s.Formed) : s.loopsFound.Formed := by
  unfold State.loopsFound
  refine foldl_formed h fun _ _ h1 => ?_
  split
  · exact h1
  · split
    · exact ite_formed (stopLoop_formed h1) h1
    · exact h1

theorem vaultOffline_formed {s : State} {f column : Nat} (h : s.Formed) : (s.vaultOffline f column).Formed := by
  unfold State.vaultOffline
  extract_lets graphs ctxs bad here_ lines s1 s2 s3
  have h1 : s1.Formed := h
  have h2 : s2.Formed := loopsFound_formed (modField_formed h1)
  have h3 : s3.Formed := logError_formed (foldl_formed h2 fun _ _ h3 => loseGraph_formed h3)
  exact foldl_formed h3 fun _ _ h4 => partKill_formed h4

theorem consultRemap_formed {s : State} {f column : Nat} (h : s.Formed) : (s.consultRemap f column).Formed := by
  unfold State.consultRemap
  extract_lets bit
  split
  · exact h
  · exact vaultOffline_formed h
  · exact h
  · exact logError_formed (modField_formed h)

theorem execVaultEccError_formed {field vault : Nat} {both : Bool} {s : State} (h : s.Formed) :
    OutcomeFormed (execVaultEccError field vault both s) := by
  unfold execVaultEccError
  split
  · exact h
  · extract_lets bit spoil
    exact consultRemap_formed (modField_formed h)

/-! ## The operations of Machine/EvLink.lean -/

theorem reroute_formed {s : State} (h : s.Formed) : s.reroute.Formed := by
  unfold State.reroute
  extract_lets put t
  have h1 : t.Formed := h
  exact h1

theorem recordLost_formed {s : State} {f c u : Nat} {t : Trap} (h : s.Formed) : (s.recordLost f c u t).Formed := by
  unfold State.recordLost
  extract_lets at_
  exact hostRecord_formed h

theorem resignal_formed {s : State} {f : Flight} {g k : Nat} (h : s.Formed) : (s.resignal f g k).Formed := by
  unfold State.resignal
  split
  · extract_lets op fl
    exact modGraph_formed h
  · exact instDone_formed (kilnRecord_formed h)

theorem loseFor_formed {s : State} {op src ctx code : Nat} {va : Dword} (h : s.Formed) : (s.loseFor op src ctx code va).Formed := by
  unfold State.loseFor
  split
  · extract_lets fail
    exact h
  · exact ite_formed (modJob_formed h) (kilnRecord_formed h)

theorem loseUnit_formed {s : State} {f : Flight} {code : Nat} (h : s.Formed) : (s.loseUnit f code).Formed := by
  unfold State.loseUnit
  split
  · exact resignal_formed h
  · exact loseFor_formed h

theorem loseUnitAtom_formed {s : State} {r : AtomReq} {code : Nat} (h : s.Formed) : (s.loseUnitAtom r code).Formed := by
  unfold State.loseUnitAtom
  split
  · exact instDone_formed (kilnRecord_formed h)
  · exact loseFor_formed h

theorem loseFlight_formed {s : State} {f : Flight} {code : Nat} {arrives : Bool} (h : s.Formed) : (s.loseFlight f code arrives).Formed := by
  unfold State.loseFlight
  extract_lets keys gone lose src s1 s2 src2 t
  have h1 : src.Formed := cutL1_formed h
  have h2 : s1.Formed := unhold_formed h1
  have h3 : s2.Formed := closeStore_formed (breakItem_formed h2)
  split
  · exact ite_formed (recordLost_formed h3) (modWarp_formed h3)
  · exact ite_formed (loseUnit_formed h3) (recordLost_formed h3)

theorem loseAtom_formed {s : State} {r : AtomReq} {code : Nat} {arrives : Bool} (h : s.Formed) : (s.loseAtom r code arrives).Formed := by
  unfold State.loseAtom
  extract_lets gone lose s1 s2 lane src
  have h1 : s1.Formed := h
  have h2 : s2.Formed := closeStore_formed (breakItem_formed h1)
  split
  · exact ite_formed (loseUnitAtom_formed h2) (ite_formed h2 (recordLost_formed h2))
  · split
    · exact atomEnd_formed (addAsync_formed h2)
    · exact ite_formed (recordLost_formed h2) (modWarp_formed h2)

theorem execStoreApply_formed {id : Nat} {s : State} (h : s.Formed) : OutcomeFormed (execStoreApply id s) := by
  unfold execStoreApply
  split
  · exact h
  · split
    · exact settleMoved_formed (loseFlight_formed h)
    · split
      · exact h
      · exact settleMoved_formed (applyFlight_formed h)

theorem execAtomicApply_formed {id : Nat} {s : State} (h : s.Formed) : OutcomeFormed (execAtomicApply id s) := by
  unfold execAtomicApply
  split
  · exact h
  · split
    · exact settleMoved_formed (loseAtom_formed h)
    · split
      · exact h
      · split
        · exact settleMoved_formed (doorbell_formed (atomOver_formed h))
        · extract_lets live
          split
          · exact settleMoved_formed (atomOver_formed h)
          · split
            · exact settleMoved_formed (atomBad_formed h)
            · exact settleMoved_formed (atomGood_formed h)

theorem settleHandles_formed {s : State} (h : s.Formed) : s.settleHandles.Formed := by
  unfold State.settleHandles
  extract_lets cut s1
  have h1 : s1.Formed := h
  exact settleDestroys_formed (foldl_formed h1 fun _ _ h2 => freeEntry_formed h2)

theorem refly_formed {s old : State} {c : Nat} {far : Bool} {f : Flight} (h : s.Formed) : (s.refly old c far f).Formed := by
  unfold State.refly
  split
  · exact h
  · split
    · exact h
    · extract_lets again
      exact h
    · exact loseFlight_formed h
    · exact loseFlight_formed h

theorem reatom_formed {s old : State} {c : Nat} {far : Bool} {r : AtomReq} (h : s.Formed) : (s.reatom old c far r).Formed := by
  unfold State.reatom
  split
  · exact h
  · split
    · exact h
    · extract_lets again
      exact h
    · exact loseAtom_formed h
    · exact loseAtom_formed h

theorem failCrossing_formed {s : State} {i : Nat} (h : s.Formed) : (s.failCrossing i).Formed := by
  unfold State.failCrossing
  split
  · exact h
  · split
    · exact h
    · extract_lets down unlink s' far s'2
      have h1 : s'.Formed := reroute_formed h
      have h2 : s'2.Formed := foldl_formed h1 fun _ _ h2 => refly_formed h2
      exact settleHandles_formed (settleMoved_formed (foldl_formed h2 fun _ _ h3 => reatom_formed h3))

theorem modCrossing_formed {s : State} {i : Nat} {g : Crossing → Crossing} (h : s.Formed) : (s.modCrossing i g).Formed := h

theorem nack_formed {s : State} {crossing dir modul ack : Nat} (h : s.Formed) : (s.nack crossing dir modul ack).Formed :=
  modCrossing_formed h

theorem takePacket_formed {s : State} {cr : Nat} {p : FlitPacket} (h : s.Formed) : (s.takePacket cr p).Formed := by
  unfold State.takePacket
  extract_lets f g fits fitsR take takeR
  repeat' split
  all_goals exact h

theorem takeFlit_formed {s : State} {crossing dir modul : Nat} {b : List Byte} (h : s.Formed) :
    (s.takeFlit crossing dir modul b).Formed := by
  unfold State.takeFlit
  extract_lets s1 s2 ps
  have h1 : s1.Formed := modCrossing_formed h
  have h2 : s2.Formed := ite_formed (nack_formed h1) h1
  exact foldl_formed (modCrossing_formed h2) fun _ _ h3 => takePacket_formed h3

theorem execFlitReceive_formed {crossing dir modul : Nat} {flit : List Byte} {s : State} (h : s.Formed) :
    OutcomeFormed (execFlitReceive crossing dir modul flit s) := by
  unfold execFlitReceive
  split
  · exact h
  · extract_lets q put src ps
    split
    · exact modCrossing_formed h
    · split
      · exact h
      · split
        · exact h
        · split
          · exact modCrossing_formed h
          · extract_lets next
            exact takeFlit_formed (modCrossing_formed h)

theorem execNegativeAck_formed {crossing dir modul : Nat} {ackSeq : BitVec 16} {s : State} (h : s.Formed) :
    OutcomeFormed (execNegativeAck crossing dir modul ackSeq s) := by
  unfold execNegativeAck
  split
  · exact h
  · exact ite_formed (nack_formed h) h

theorem execLaneRepair_formed {crossing modul : Nat} {repaired : Bool} {s : State} (h : s.Formed) :
    OutcomeFormed (execLaneRepair crossing modul repaired s) := by
  unfold execLaneRepair
  split
  · exact h
  · split
    · exact h
    · split
      · exact logError_formed (modCrossing_formed h)
      · extract_lets s1 left
        have h1 : s1.Formed := logError_formed (modCrossing_formed h)
        exact ite_formed h1 (failCrossing_formed h1)

theorem windowStatus_formed {s : State} {f x : Nat} (h : s.Formed) : (s.windowStatus f x).Formed := setReg_formed h

theorem exportRegion_formed {s : State} {c : Context} {base target len : Nat} (h : s.Formed) :
    (s.exportRegion c base target len).Formed := by
  unfold State.exportRegion
  split
  · exact windowStatus_formed h
  · split
    · exact windowStatus_formed h
    · extract_lets gen h1 v s1
      have h2 : s1.Formed := h
      exact windowStatus_formed (setReg_formed (setReg_formed h2))

theorem execExportHandle_formed {field ctx : Nat} {base : Dword} {target len : Nat} {s : State} (h : s.Formed) :
    OutcomeFormed (execExportHandle field ctx base target len s) := by
  unfold execExportHandle
  split
  · exact h
  · extract_lets s1
    have h1 : s1.Formed := slotWords_formed h
    split
    · exact windowStatus_formed h1
    · exact ite_formed (windowStatus_formed h1) (exportRegion_formed h1)

theorem execRevoke_formed {field : Nat} {handle : Dword} {s : State} (h : s.Formed) : OutcomeFormed (execRevoke field handle s) := by
  unfold execRevoke
  split
  · exact h
  · extract_lets s1
    have h1 : s1.Formed := slotWords_formed h
    split
    · exact windowStatus_formed h1
    · split
      · exact windowStatus_formed h1
      · split
        · exact windowStatus_formed h1
        · exact settleDestroys_formed (revokeEntry_formed h1)

theorem execRevocationNotice_formed {field : Nat} {handle : Dword} {s : State} (h : s.Formed) :
    OutcomeFormed (execRevocationNotice field handle s) := by
  unfold execRevocationNotice
  extract_lets n mark
  split <;> exact h

theorem execDrainMarker_formed {field fromField : Nat} {handle : Dword} {s : State} (h : s.Formed) :
    OutcomeFormed (execDrainMarker field fromField handle s) := by
  unfold execDrainMarker
  extract_lets n i less
  split
  · exact h
  · exact settleDestroys_formed (freeEntry_formed (modHandle_formed h))

theorem bindWindow_formed {s : State} {c : Context} {slot : Nat} {b : List Byte} (h : s.Formed) : (s.bindWindow c slot b).Formed := by
  unfold State.bindWindow
  extract_lets h1 own w s1
  have h2 : s1.Formed := modCtx_formed h
  exact ite_formed (modHandle_formed h2) h2

theorem execBind_formed {field ctx slot : Nat} {s : State} (h : s.Formed) : OutcomeFormed (execBind field ctx slot s) := by
  unfold execBind
  split
  · exact h
  · extract_lets s1
    have h1 : s1.Formed := slotWords_formed h
    split
    · exact windowStatus_formed h1
    · split
      · exact windowStatus_formed h1
      · split
        · exact windowStatus_formed h1
        · extract_lets r
          have h2 : r.1.Formed := engineRead_formed h1
          exact ite_formed (windowStatus_formed h2) (windowStatus_formed (bindWindow_formed h2))

theorem execUnbind_formed {field ctx slot : Nat} {s : State} (h : s.Formed) : OutcomeFormed (execUnbind field ctx slot s) := by
  unfold execUnbind
  split
  · exact h
  · extract_lets s1
    have h1 : s1.Formed := slotWords_formed h
    split
    · exact windowStatus_formed h1
    · split
      · exact windowStatus_formed h1
      · split
        · exact windowStatus_formed h1
        · exact windowStatus_formed (modCtx_formed h1)

theorem execCountDoorbell_formed {field entry : Nat} {gen : Word} {s : State} (h : s.Formed) :
    OutcomeFormed (execCountDoorbell field entry gen s) := by
  unfold execCountDoorbell
  split
  · exact h
  · exact ite_formed (countDst_formed h) h

theorem peerEnd_formed {s : State} {good : Bool} {f : Flight} (h : s.Formed) : (s.peerEnd good f).Formed :=
  ite_formed (ackFlight_formed h) (ite_formed (postFlight_formed h) (loseFlight_formed h))

theorem peerRed_formed {s : State} {good : Bool} {r : AtomReq} (h : s.Formed) : (s.peerRed good r).Formed :=
  ite_formed (ackRed_formed h) (loseAtom_formed h)

theorem hostCover_formed {s : State} {id : Nat} (h : s.Formed) : (s.hostCover id).Formed := by
  unfold State.hostCover
  extract_lets s1 seen
  have h1 : s1.Formed := h
  exact h1

theorem execFlushingReadComplete_formed {id : Nat} {good : Bool} {s : State} (h : s.Formed) :
    OutcomeFormed (execFlushingReadComplete id good s) := by
  unfold execFlushingReadComplete
  split
  · exact ite_formed (settleSignals_formed (hostCover_formed h)) h
  · split
    · exact h
    · extract_lets same fs rs s1
      have h1 : s1.Formed := h
      exact settleMoved_formed (foldl_formed (foldl_formed h1 fun _ _ h2 => peerEnd_formed h2) fun _ _ h2 => peerRed_formed h2)

theorem evictLines_formed {s : State} {lines : List Nat} (h : s.Formed) : (s.evictLines lines).Formed := by
  unfold State.evictLines
  extract_lets s1
  have h1 : s1.Formed := foldl_formed (roundShadows_formed h) fun _ _ h1 => invalReplicas_formed h1
  exact h1

theorem execBar4Write_formed {field : Nat} {addr : Dword} {write : BarWrite} {s : State} (h : s.Formed) :
    OutcomeFormed (execBar4Write field addr write s) := by
  unfold execBar4Write
  split
  · exact h
  · split
    · exact logError_formed h
    · extract_lets cells s1
      have h1 : s1.Formed := evictLines_formed h
      exact putCells_formed h1

theorem execBar4Read_formed {field : Nat} {addr : Dword} {len : Nat} {s : State} (h : s.Formed) :
    OutcomeFormed (execBar4Read field addr len s) := by
  unfold execBar4Read
  split
  · exact h
  · extract_lets s1
    have h1 : s1.Formed := roundShadows_formed h
    exact h1

theorem execHostAtomicop_formed {field : Nat} {addr : Dword} {op : BitVec 2} {w64 : Bool} {operand compare : Dword} {s : State}
    (h : s.Formed) :
    OutcomeFormed (execHostAtomicop field addr op w64 operand compare s) := by
  unfold execHostAtomicop
  extract_lets n k s1 old src
  have h1 : s1.Formed := roundShadows_formed h
  have h2 : src.Formed := putNat_formed h1
  split
  · exact h
  · exact h2

theorem unknownCommand_formed {s : State} {f off : Nat} (h : s.Formed) : (s.unknownCommand f off).Formed :=
  ite_formed (commandStatus_formed h) (ite_formed (windowStatus_formed h) h)

theorem execRegisterWrite_formed {field offset : Nat} {value : Word} {s : State} (h : s.Formed) :
    OutcomeFormed (execRegisterWrite field offset value s) := by
  unfold execRegisterWrite
  split
  · exact h
  · extract_lets s1
    have h1 : s1.Formed := modField_formed (setReg_formed h)
    exact unknownCommand_formed h1

/-! ## The operations of Machine/EvPlatform.lean -/

theorem powerOn_formed {s : State} (h : s.Formed) : s.powerOn.Formed := by
  unfold State.powerOn
  extract_lets src
  have h1 : src.Formed := reset_formed
  exact filter_wf h _

theorem firstRoutes_formed {s : State} (h : s.Formed) : s.firstRoutes.Formed := by
  unfold State.firstRoutes
  extract_lets put
  exact h

theorem execBringUp_formed {signatureOk : Bool} {report : List (Bool × BitVec 40 × BitVec 40 × BitVec 40)} {trained : List Nat} {s : State}
    (h : s.Formed) :
    OutcomeFormed (execBringUp signatureOk report trained s) := by
  unfold execBringUp
  extract_lets s1 t
  have h1 : s1.Formed := powerOn_formed h
  have h2 : t.Formed := h1
  exact ite_formed h2 h2

theorem trainedUp_formed {s : State} {report : List (Bool × BitVec 40 × BitVec 40 × BitVec 40)} {trained : List Nat} (h : s.Formed) :
    (s.trainedUp report trained).Formed := by
  unfold State.trainedUp
  split
  · exact h
  · extract_lets cs present
    exact firstRoutes_formed h

theorem throttle_formed {load : List Nat} {s : State} (h : s.Formed) : (State.throttle load s).Formed := by
  unfold State.throttle
  split
  · exact modField_formed h
  · split
    · exact modField_formed h
    · exact h

theorem unthrottle_formed {s : State} (h : s.Formed) : s.unthrottle.Formed := by
  unfold State.unthrottle
  split
  · exact modField_formed h
  · exact h

theorem execPowerSample_formed {milliwatts : Nat} {load : List Nat} {s : State} (h : s.Formed) :
    OutcomeFormed (execPowerSample milliwatts load s) := by
  unfold execPowerSample
  extract_lets power sum s1
  have h1 : s1.Formed := h
  split
  · exact throttle_formed h1
  · split
    · exact h1
    · split
      · exact h1
      · exact unthrottle_formed h1

theorem stopField_formed {s : State} {f kind unit : Nat} (h : s.Formed) : (s.stopField f kind unit).Formed := by
  unfold State.stopField
  extract_lets ctxs s1 halt s2
  have h1 : s1.Formed := foldl_formed (logError_formed h) fun _ _ h1 => partKill_formed h1
  have h2 : s2.Formed := modField_formed h1
  exact foldl_formed h2 fun _ _ h3 => failCrossing_formed h3

theorem execThermalSample_formed {field : Nat} {low high valves : List Nat} {s : State} (h : s.Formed) :
    OutcomeFormed (execThermalSample field low high valves s) := by
  unfold execThermalSample
  split
  · exact h
  · extract_lets sensors s1
    have h1 : s1.Formed := modField_formed h
    split
    · exact stopField_formed h1
    · exact h1

theorem execWearUpdate_formed {field life hours corrected : Nat} {s : State} (h : s.Formed) :
    OutcomeFormed (execWearUpdate field life hours corrected s) := by
  unfold execWearUpdate
  split
  · exact h
  · extract_lets w
    exact h

/-! ## The operations of Machine/Move.lean -/

theorem predOp_formed {d a : BitVec 3} {b : Opb} {f : LaneMask → LaneMask → LaneMask} {s : State} {j : Job} (h : s.Formed) :
    (predOp d a b f s j).Formed := put_formed h

theorem execV2p_formed {sc : Scope} {a : Reg} {s : State} (h : s.Formed) : OutcomeFormed (execV2p sc a s) := by
  unfold execV2p
  refine issue_formed h fun _ _ h1 => ?_
  extract_lets setP
  exact put_formed h1

/-! ## The operations of Machine/Sys.lean -/

theorem resumeCheck_formed {s : State} {c : Context} {a : Dword} (h : s.Formed) : Got.Formed (fun _ => True) (s.resumeCheck c a) := by
  unfold State.resumeCheck
  split
  · exact trivial
  · split
    · exact trivial
    · split
      · exact trivial
      · exact trivial
      · exact noteMiss_formed h

theorem execEret_formed {sc : Scope} {code : BitVec 6} {s : State} (h : s.Formed) : OutcomeFormed (execEret sc code s) := by
  unfold execEret
  refine issue_formed h fun _ _ h1 => ?_
  split
  · exact h1
  · extract_lets how
    exact got_eff_formed (resumeCheck_formed h1) fun _ _ => ite_formed (popEret_formed h1) (eret_formed h1)

theorem execHalt_formed {sc : Scope} {s : State} (h : s.Formed) : OutcomeFormed (execHalt sc s) := by
  unfold execHalt
  refine issue_formed h fun _ _ h1 => ?_
  extract_lets f c
  exact killCtx_formed (hostRecord_formed h1)

theorem tick_formed {s : State} {core : Nat} (h : s.Formed) : (s.tick core).Formed := by
  unfold State.tick
  extract_lets c
  exact h

theorem execSread_formed {sc : Scope} {d : Reg} {toS : Bool} {num : BitVec 6} {s : State} (h : s.Formed) :
    OutcomeFormed (execSread sc d toS num s) := by
  unfold execSread
  extract_lets n
  refine issue_formed h fun _ _ h1 => ?_
  extract_lets s1
  have h2 : s1.Formed := ite_formed (tick_formed h1) h1
  exact ite_eff (put_formed h2) (ite_eff (putRow64_formed h2) (putRow_formed h2))

theorem execSwrite_formed {sc : Scope} {a : Reg} {num : BitVec 6} {s : State} (h : s.Formed) : OutcomeFormed (execSwrite sc a num s) := by
  unfold execSwrite
  extract_lets n
  exact issue_formed h fun _ _ h1 => ite_eff (put_formed h1) (put_formed h1)

/-! ## Every instruction and event, and the step -/

/-- Whatever an instruction does, it keeps memory in its form. -/
theorem exec_formed (i : Instr) {s : State} (h : s.Formed) : OutcomeFormed (exec i s) := by
  cases i with
  | iadd | isub | imul | imulhi | imulhiu | imin | imax | iminu | imaxu | iabsd | iaddsat | isubsat | iaddsatu | isubsatu | iavgu
  | irsub | and | or | xor | andn | orn | xnor | shl | shr | sar | rotl | rotr | popc | clz | brev | bfxu | bfxs | bfi | bysel
  | fshl | fshr | imac | imad | mov =>
    exact issue_formed h fun _ _ h1 => laneOp_formed h1
  | icmpEq | icmpNe | icmpLt | icmpLe | icmpGt | icmpGe | icmpLtu | icmpLeu | icmpGtu | icmpGeu =>
    exact issue_formed h fun _ _ h1 => laneCmp_formed h1
  | lea | lea2 | lea4 | lea8 | lea16 => exact issue_formed h fun _ _ h1 => laneLea_formed h1
  | iadd64 | isub64 => exact issue_formed h fun _ _ h1 => laneOp64_formed h1
  | imulw => exact issue_formed h fun _ _ h1 => got_eff_formed (operand_formed h1) fun _ _ => putRow64_formed h1
  | sel => exact issue_formed h fun _ _ h1 => got_eff_formed (operand_formed h1) fun _ _ => putRow_formed h1
  | pand | por | pxor => exact issue_formed h fun _ _ h1 => predOp_formed h1
  | pnot | smovi | nprex => exact issue_formed h fun _ _ h1 => put_formed h1
  | p2v | movi => exact issue_formed h fun _ _ h1 => putRow_formed h1
  | v2p => exact execV2p_formed h
  | cvt => exact execCvt_formed h
  | fadd | fsub | fmul | fmac | fmad | fmns | fmin | fmax | fabs | fneg | fsat | ffloor | fceil | ftrunc | frint | fcsgn | frcp
  | frsq | fsqrt | fexp2 | flog2 | fsint | fcost | ftanh | hpadd | hpmul | hpfma | hpmin | hpmax | bpadd | bpmul | bpfma | bpmin
  | bpmax | pk2 | pkb2 | upkl | upkh | idp4 | idp4u | bdp2 | edp4 | dsdp4 =>
    exact issue_formed h fun _ _ h1 => laneFloat_formed h1
  | fcmpEq | fcmpNe | fcmpLt | fcmpLe | fcmpGt | fcmpGe | fcmpUn | fcmpOr => exact issue_formed h fun _ _ h1 => laneFcmp_formed h1
  | ld => exact execLd_formed h
  | st => exact execSt_formed h
  | lds => exact execLds_formed h
  | sts => exact execSts_formed h
  | ldc => exact execLdc_formed h
  | cwin | mmidx => exact issue_formed h fun _ _ h1 => got_eff_formed (uniform_formed h1) fun _ _ => ite_eff trivial (put_formed h1)
  | ldmc => exact execLdmc_formed h
  | atomAadd | atomAmin | atomAmax | atomAminu | atomAmaxu | atomAand | atomAor | atomAxor | atomAexch | atomAcas | atomAinc
  | atomAdec | atomAfadd | atomAfaddb | atomAfadde | atomAfmin | atomAfmax =>
    exact atom_formed h
  | redAadd | redAmin | redAmax | redAminu | redAmaxu | redAand | redAor | redAxor | redAinc | redAdec | redAfadd | redAfaddb
  | redAfadde | redAfmin | redAfmax =>
    exact red_formed h
  | cbwait => exact execCbwait_formed h
  | cbpop => exact issue_formed h fun _ _ h1 => ite_eff h1 (got_eff_formed (cbuf_formed h1) fun _ _ => ite_eff trivial (modCbuf_formed h1))
  | cbrsv =>
    exact issue_formed h fun _ _ h1 => ite_eff h1 (got_eff_formed (cbuf_formed h1) fun _ _ =>
      ite_eff h1 (putRow_formed (modCbuf_formed h1)))
  | cbcmt => exact issue_formed h fun _ _ h1 => ite_eff h1 (got_eff_formed (cbuf_formed h1) fun _ _ => ite_eff (modCbuf_formed h1) trivial)
  | cbinit => exact execCbinit_formed h
  | cbqry => exact issue_formed h fun _ _ h1 => ite_eff h1 (got_eff_formed (cbuf_formed h1) fun _ _ => putRow_formed h1)
  | fenceAcq => exact execFenceAcq_formed h
  | fenceRel => exact execFenceRel_formed h
  | fenceFull => exact execFenceFull_formed h
  | flushv => exact execFlushv_formed h
  | invl1 | nop | yield => exact issue_formed h fun _ _ h1 => h1
  | wcrd => exact execWcrd_formed h
  | wcwait => exact execWcwait_formed h
  | wcrst => exact execWcrst_formed h
  | br => exact execBr_formed h
  | brx => exact execBrx_formed h
  | callx => exact execCallx_formed h
  | ret => exact execRet_formed h
  | exit => exact issue_formed h fun _ _ h1 => partDone_formed (exitSplit_formed h1)
  | sadd | ssub | smul | sand | sor | sxor | sshl | sshr | ssar | smin | smax | sminu | smaxu | smov =>
    exact issue_formed h fun _ _ h1 => scalarOp_formed h1
  | sadd64 => exact issue_formed h fun _ _ h1 => got_eff_formed (uniform64_formed h1) fun _ _ => put_formed h1
  | slea => exact issue_formed h fun _ _ h1 => got_eff_formed (uniform_formed h1) fun _ _ => put_formed h1
  | scmpEq | scmpNe | scmpLt | scmpLe | scmpGt | scmpGe | scmpLtu | scmpLeu | scmpGtu | scmpGeu =>
    exact issue_formed h fun _ _ h1 => scalarCmp_formed h1
  | shflIdx | shflUp | shflDown | shflXor | shflBcast => exact issue_formed h fun _ _ h1 => shfl_formed h1
  | vall | vany | vuni => exact issue_formed h fun _ _ h1 => putSpanPred_formed h1
  | vbal => exact issue_formed h fun _ _ h1 => putSpan_formed h1
  | vcnt => exact execVcnt_formed h
  | lredIadd | lredImin | lredImax | lredAnd | lredOr | lredXor | lscanIadd | lscanImin | lscanImax | lscanAnd | lscanOr
  | lscanXor | lscanExclIadd | lscanExclImin | lscanExclImax | lscanExclAnd | lscanExclOr | lscanExclXor =>
    exact issue_formed h fun _ _ h1 => lredInt_formed h1
  | lredFadd => exact issue_formed h fun _ _ h1 => lredAdd_formed h1
  | lredFmin | lredFmax | lscanFmin | lscanFmax | lscanExclFmin | lscanExclFmax => exact issue_formed h fun _ _ h1 => lredMinMax_formed h1
  | lscanFadd | lscanExclFadd => exact issue_formed h fun _ _ h1 => lscanAdd_formed h1
  | xchg | xchgk => exact issue_formed h fun _ _ h1 => xchg_formed h1
  | hld => exact execHld_formed h
  | hst => exact execHst_formed h
  | hset => exact execHset_formed h
  | hadv => exact execHadv_formed h
  | mmloop => exact execMmloop_formed h
  | accz => exact issue_formed h fun _ _ h1 => accIssue_formed h1 (startJob_formed h1)
  | accrd => exact execAccrd_formed h
  | accwr => exact execAccwr_formed h
  | accscl => exact issue_formed h fun _ _ h1 => got_eff_formed (uniform_formed h1) fun _ _ => accIssue_formed h1 (startJob_formed h1)
  | accdrn | accdra => exact issue_formed h fun _ _ h1 => drain_formed h1
  | qsm => exact execQsm_formed h
  | qpack => exact execQpack_formed h
  | qunpk => exact execQunpk_formed h
  | qapp => exact execQapp_formed h
  | tdec => exact execTdec_formed h
  | tinc => exact execTinc_formed h
  | trd => exact execTrd_formed h
  | phq => exact execPhq_formed h
  | wait => exact execWait_formed h
  | visld => exact execVisld_formed h
  | visdec => exact execVisdec_formed h
  | bary => exact execBary_formed h
  | attrf => exact execAttrf_formed h
  | ordwait => exact execOrdwait_formed h
  | orddone => exact execOrddone_formed h
  | texs => exact texLoad_formed (fun _ _ _ _ h1 => texsLane_formed h1) h
  | texl => exact texLoad_formed (fun _ _ _ _ h1 => texlLane_formed h1) h
  | texg => exact texLoad_formed (fun _ _ _ _ h1 => texgLane_formed h1) h
  | texq => exact execTexq_formed h
  | trav => exact execTrav_formed h
  | travrd => exact execTravrd_formed h
  | reform => exact execReform_formed h
  | refill => exact execRefill_formed h
  | rsmpl => exact execRsmpl_formed h
  | pstat => exact execPstat_formed h
  | sread => exact execSread_formed h
  | swrite => exact execSwrite_formed h
  | grow => exact execGrow_formed h
  | fork => exact execFork_formed h
  | join => exact execJoin_formed h
  | npre => exact issue_formed h fun _ _ h1 => ite_eff trivial (put_formed h1)
  | trap | bkpt => exact issue_formed h fun _ _ _ => trivial
  | eret => exact execEret_formed h
  | halt => exact execHalt_formed h
  | call => exact execCall_formed h
  | ximm | xreg | xmod | xsched | xpred => exact joinHint_formed h
  | splitMerge => exact execSplitMerge_formed h
  | rendezvousRelease => exact execRendezvousRelease_formed h
  | waitEnd => exact execWaitEnd_formed h
  | growGrant => exact execGrowGrant_formed h
  | growFail => exact execGrowFail_formed h
  | handlerEntry => exact execHandlerEntry_formed h
  | loadComplete => exact execLoadComplete_formed h
  | storeDrain => exact settleGone_formed (getD_formed (drainOne_formed h) h)
  | storeApply => exact execStoreApply_formed h
  | proxyInvalidate => exact invalProxy_formed h
  | storeAck => exact execStoreAck_formed h
  | l1Eviction => exact execL1Eviction_formed h
  | sliceEviction => exact execSliceEviction_formed h
  | atomicApply => exact execAtomicApply_formed h
  | atomicReturn => exact execAtomicReturn_formed h
  | bankWriteApply => exact execBankWriteApply_formed h
  | multicastRequest => exact execMulticastRequest_formed h
  | multicastTimeout => exact execMulticastTimeout_formed h
  | ldmcDelivery => exact execLdmcDelivery_formed h
  | kstepApply => exact kstep_formed h
  | drainComplete => exact settleGone_formed (drainDone_formed h)
  | rayComplete => exact rayDone_formed h
  | xchgPair => exact execXchgPair_formed h
  | phaseSweepPair => exact execPhaseSweepPair_formed h
  | phqWake => exact execPhqWake_formed h
  | queueConsume => exact consume_formed h
  | launchAccept => exact execLaunchAccept_formed h
  | blockDispatch => exact execBlockDispatch_formed h
  | gangDispatch => exact execGangDispatch_formed h
  | blockRetire => exact execBlockRetire_formed h
  | launchComplete => exact execLaunchComplete_formed h
  | joinResume => exact execJoinResume_formed h
  | taskAppendRetry => exact execTaskAppendRetry_formed h
  | copyStart => exact startNext_formed h
  | copyComplete => exact execCopyComplete_formed h
  | reduceSessionClose => exact execReduceSessionClose_formed h
  | rasterPacket => exact execRasterPacket_formed h
  | graphValidate => exact execGraphValidate_formed h
  | nodeIssue => exact execNodeIssue_formed h
  | predicateEval => exact execPredicateEval_formed h
  | instanceStart => exact execInstanceStart_formed h
  | waitctrComplete => exact execWaitctrComplete_formed h
  | graphComplete => exact execGraphComplete_formed h
  | tileRelease => exact execTileRelease_formed h
  | tileRetire => exact execTileRetire_formed h
  | relqTake => exact execRelqTake_formed h
  | ringExhausted => exact execRingExhausted_formed h
  | footprintPrefetch => exact h
  | resample => exact popRendezvous_formed h
  | placementListAccept => exact acceptList_formed h
  | pageWalk => exact execPageWalk_formed h
  | frameCopyOnWrite => exact execFrameCopyOnWrite_formed h
  | vaultEccError => exact execVaultEccError_formed h
  | contextSchedule => exact execContextSchedule_formed h
  | preemptionStart => exact execPreemptionStart_formed h
  | drainLimitExpiry => exact execDrainLimitExpiry_formed h
  | forcedSave => exact execForcedSave_formed h
  | regionLimitExpiry => exact execRegionLimitExpiry_formed h
  | watchdog => exact execWatchdog_formed h
  | create => exact execCreate_formed h
  | destroy => exact execDestroy_formed h
  | preempt => exact execPreempt_formed h
  | kill => exact execKill_formed h
  | stepFlag => exact execStepFlag_formed h
  | unstepFlag => exact execUnstepFlag_formed h
  | queueAttach => exact execQueueAttach_formed h
  | queueDetach => exact execQueueDetach_formed h
  | queueClosed => exact execQueueClosed_formed h
  | invalidate => exact execInvalidate_formed h
  | fillResponse => exact execFillResponse_formed h
  | exportHandle => exact execExportHandle_formed h
  | revoke => exact execRevoke_formed h
  | bind => exact execBind_formed h
  | unbind => exact execUnbind_formed h
  | revocationNotice => exact execRevocationNotice_formed h
  | drainMarker => exact execDrainMarker_formed h
  | countDoorbell => exact execCountDoorbell_formed h
  | bar4Write => exact execBar4Write_formed h
  | bar4Read => exact execBar4Read_formed h
  | hostAtomicop => exact execHostAtomicop_formed h
  | flushingReadComplete => exact execFlushingReadComplete_formed h
  | registerWrite => exact execRegisterWrite_formed h
  | flitReceive => exact execFlitReceive_formed h
  | negativeAck => exact execNegativeAck_formed h
  | laneRepair => exact execLaneRepair_formed h
  | crossingFailure => exact ite_formed (failCrossing_formed h) h
  | lossNotice => exact execLossNotice_formed h
  | bringUp => exact execBringUp_formed h
  | powerSample => exact execPowerSample_formed h
  | thermalSample => exact execThermalSample_formed h
  | machineCheck => exact ite_formed (stopField_formed h) h
  | wearUpdate => exact execWearUpdate_formed h
  | modulePowerRemoved => exact powerOn_formed h

theorem issueTurn_formed {s : State} (h : s.Formed) : OutcomeFormed s.issueTurn := by
  unfold State.issueTurn
  split
  · next e => exact fetched_idle e (fetchTurn_formed h)
  · next e =>
    have hs := fetched_code e (fetchTurn_formed h)
    split
    · exact exec_formed _ hs
    · exact illegal_formed hs

/-- Each kind of turn keeps memory in its form. -/
theorem step_formed {s : State} (h : s.Formed) : OutcomeFormed (step s) := by
  unfold step
  dsimp only
  split
  · exact issueTurn_formed h
  · exact issueTurn_formed h
  · split
    · exact exec_formed _ h
    · exact h
  · exact ite_formed (logError_formed h) h
  · exact trainedUp_formed h

/-- Settles O58: every operation of the model writes memory through `memWrite`, `memCells` or `filter`, which keep its form, or not at all. -/
theorem stepKeepsMemoryForm : Obligations.StepKeepsMemoryForm := by
  intro s t h e
  have hstep : OutcomeFormed (step s) := step_formed h
  rw [e] at hstep
  exact hstep

end Sys2Proof.Machine
end

section
/-! Loads and stores at issue (R126 to R130, R139, R143, R216 to R219): once the policy is good, the class or the queue has room and every
live lane has passed its check, what is left of each instruction is one operation that joins its class or one entry that joins the queue. -/

namespace Sys2Proof.Machine

open Sys2Proof

/-- What is read of memory does not depend on the warps. -/
theorem readByte_put (s : State) (j : Job) (g : Warp → Warp) (k : Nat) : (s.put j g).readByte k = s.readByte k := rfl

/-- Settles O18: behind its checks, LD, HLD and LDMC each add one operation to the issuing warp. -/
theorem loadIssue : Obligations.LoadIssue := by
  refine ⟨?_, ?_, ?_⟩
  · intro sc d a pol size sx as s s' j hj i p
    refine ⟨fun hnone => ends_of rfl hj (if_pos hnone), ?_⟩
    intro ps hlive hpol hroom hps op t
    refine ⟨ends_of rfl hj ?_, rfl⟩
    have hps' : s'.checkLanes j .load (sizeBytes size) (j.addrOf as a) = .ok ps := hps
    simp only [if_neg hlive, show polBad false (j.w.sreg pol.toNat) = false from hpol, hroom, hps', eff_ok, Bool.false_eq_true, if_false]
    rfl
  · intro sc h a b s s' j q m hj p hpol hroom hq op t
    refine ⟨ends_of rfl hj ?_, rfl⟩
    simp only [show polBad false (j.w.sreg b.num) = false from hpol, hroom, hq, Bool.false_eq_true, if_false]
    rfl
  · intro sc d a c s s' j ps hj y src off htrap hroom hps rs op t
    refine ⟨ends_of rfl hj ?_, rfl⟩
    have htrap' : j.mcTrap (j.w.sreg c.toNat) (j.w.sreg64 a.toNat) (j.w.sreg d.toNat).toNat = none := htrap
    have hps' : (firstFail (List.range (mcLen (j.w.sreg c.toNat))) fun k =>
        s'.checkLane j.ctx .load 64 (j.w.sreg64 a.toNat + BitVec.ofNat 64 (64 * k)) 0) = .ok ps := hps
    simp only [htrap', hroom, hps', eff_ok, Bool.false_eq_true, if_false]
    rfl

/-- Settles O19: behind its checks, ST, HST and FLUSHV each add one entry to the queue of the issuing warp. -/
theorem storeIssue : Obligations.StoreIssue := by
  refine ⟨?_, ?_, ?_⟩
  · intro sc d a pol size g as s s' j hj i p
    refine ⟨fun hnone => ends_of rfl hj (if_pos hnone), ?_⟩
    intro ps hlive hpol hqueue hroom hps bytes e t
    refine ⟨ends_of rfl hj ?_, fun k => readByte_put _ j _ k⟩
    have hps' : s'.checkLanes j .store (sizeBytes size) (j.addrOf as a) = .ok ps := hps
    simp only [if_neg hlive, show polBad true (j.w.sreg pol.toNat) = false from hpol, hqueue, hroom, hps', eff_ok, Bool.or_self,
      Bool.false_eq_true, if_false]
    rfl
  · intro sc h a b s s' j q hj p ea hpol hqueue hroom hq bytes e t
    refine ⟨ends_of rfl hj ?_, fun k => readByte_put _ j _ k⟩
    have hq' : s'.checkLane j.ctx .store 64 (j.w.sreg64 a.toNat) 0 = .ok q := hq
    simp only [show polBad true (j.w.sreg b.num) = false from hpol, hqueue, hroom, hq', Bool.or_self, Bool.false_eq_true, if_false]
    rfl
  · intro sc a b s s' j y m hj hy start pages
    refine ⟨fun hnone => ends_of rfl hj ?_, ?_⟩
    · simp only [hy, eff_ok, if_pos hnone]
    · intro ps hsome hqueue hroom hps stop ranges e t
      refine ⟨ends_of rfl hj ?_, fun k => readByte_put _ j _ k⟩
      have hps' : (firstFail (List.range (pagesOf (j.w.sreg64 a.toNat) y.toNat).length) fun i =>
          s'.checkLane j.ctx .store 1 ((pagesOf (j.w.sreg64 a.toNat) y.toNat).getD i 0) 0) = .ok ps := hps
      simp only [hy, eff_ok, if_neg hsome, hps', hqueue, hroom, Bool.or_self, Bool.false_eq_true, if_false]
      rfl

end Sys2Proof.Machine
end

section
/-! The scratchpad, the constant bank and its window (R132, R134, R136, R137) once every live lane has passed its check. -/

namespace Sys2Proof.Machine

open Sys2Proof

/-- Without pending homes the words that a cache takes leave memory as it was. -/
theorem noteCached_mem {s : State} (h : s.shadows = []) (ks : List Nat) : (s.noteCached ks).mem = s.mem := by
  simp [State.noteCached, h]

/-- Without pending homes the constants that a core keeps leave memory as it was. -/
theorem cacheConsts_mem {s : State} (h : s.shadows = []) (j : Job) (k : Nat) (ws : List Nat) : (s.cacheConsts j k ws).mem = s.mem := by
  unfold State.cacheConsts
  dsimp only
  rw [noteCached_mem]
  · split <;> rfl
  · split <;> exact h

theorem lds_result (sc : Scope) (d off : Reg) (alloc size : BitVec 3) (ok : Bool) (s s' : State) (j : Job)
    (hj : s.judge (scratchMeta sc d off size ok) = .go s' j) :
    (j.live = 0 → Ends (.lds sc d off alloc size ok) (scratchMeta sc d off size ok) s j s') ∧
    ∀ os, j.live ≠ 0 → classFull j.w.loads = false → j.offsets alloc (sizeBytes size) ok off = .ok os →
      Ends (.lds sc d off alloc size ok) (scratchMeta sc d off size ok) s j
        ((s'.put j fun w => w.setBytes j.live j.d (sizeBytes size) (sizeRegs size) fun i =>
          j.block.scratchRead j.launch alloc.toNat (((os.find? fun x => x.1 == i).map fun x => x.2).getD 0) (sizeBytes size)).countTaken j) := by
  refine ⟨fun hnone => ends_of rfl hj (if_pos hnone), fun os hlive hroom hos => ends_of rfl hj ?_⟩
  simp only [if_neg hlive, hroom, hos, eff_ok, Bool.false_eq_true, if_false]

theorem sts_result (sc : Scope) (d off : Reg) (alloc size : BitVec 3) (ok : Bool) (s s' : State) (j : Job)
    (hj : s.judge { scratchMeta sc d off size ok with readD := true } = .go s' j) (os : List (Nat × Nat))
    (hos : j.offsets alloc (sizeBytes size) ok off = .ok os) :
    Ends (.sts sc d off alloc size ok) { scratchMeta sc d off size ok with readD := true } s j (s'.modBlock j.block.uid fun b =>
      os.foldl (fun b x => b.scratchWrite j.launch alloc.toNat x.2 (j.w.laneBytes j.d (sizeBytes size) x.1)) b) := by
  refine ends_of rfl hj ?_
  simp only [hos, eff_ok]

/-- Settles O20: behind its checks, each of LDS, STS, LDC and CWIN has the one effect its section gives. -/
theorem scratchpadAndConstants : Obligations.ScratchpadAndConstants := by
  refine ⟨fun sc d off alloc size ok s s' j => ⟨fun hj => ?_, fun hj os hos => ?_⟩, fun sc d a b s s' j hj => ⟨?_, ?_⟩, ?_⟩
  · obtain ⟨hnone, hsome⟩ := lds_result sc d off alloc size ok s s' j hj
    exact ⟨hnone, fun os hlive hroom hos => ⟨hsome os hlive hroom hos, rfl⟩⟩
  · exact ⟨sts_result sc d off alloc size ok s s' j hj os hos, rfl⟩
  · exact fun hnone => ends_of rfl hj (if_pos hnone)
  · intro y ws hlive hroom hy index hws val t
    refine ⟨ends_of rfl hj ?_, fun hs => (countTaken_putRow_mem _ j _).trans (cacheConsts_mem hs j _ _)⟩
    have hws' : (firstFail (lanesOf j.live) fun i => s'.constWord j (cwinBank j.w.cwin)
        (BitVec.ofNat 32 (cwinWord j.w.cwin) + laneOf (j.w.row j.a) i + laneOf y i : Word).toNat i) = .ok ws := hws
    simp only [if_neg hlive, hroom, hy, hws', eff_ok, Bool.false_eq_true, if_false]
    rfl
  · intro sc b s s' j y hj hy hbits
    refine completes_of_put (fun w => { w with cwin := y }) rfl hj ?_ rfl (fun _ => rfl) (fun _ _ => rfl)
    have hbits' : ¬ y &&& cwinReserved ≠ 0 := not_not.mpr hbits
    simp only [hy, eff_ok, if_neg hbits']

end Sys2Proof.Machine
end

section
/-! Circular buffers and window counters (R140, R141, R146) once the buffer or the window that they name is found good. -/

namespace Sys2Proof.Machine

open Sys2Proof

/-- Settles O23: on an initialised buffer, each function has the one effect its formula gives. -/
theorem circularBuffers : Obligations.CircularBuffers := by
  intro sc d a b s s' j md mw
  refine ⟨fun hj => ⟨fun hnone => ends_of rfl hj (if_pos hnone), fun k c hlive hc hfilled hloads => ends_of rfl hj ?_⟩,
    fun hj => ⟨fun hnone => ⟨ends_of rfl hj (if_pos hnone), ends_of rfl hj (if_pos hnone), ends_of rfl hj (if_pos hnone)⟩,
      fun k c hlive hc => ⟨fun hfilled => ends_of rfl hj ?_, fun hclaim => ends_of rfl hj ?_⟩,
      fun y c hlive hy hc hgood hcopies => ends_of rfl hj ?_⟩,
    fun hj => ⟨fun hnone => ⟨ends_of rfl hj (if_pos hnone), ends_of rfl hj (if_pos hnone)⟩,
      fun k c hlive hc => ⟨fun hfree => ends_of rfl hj ?_, ends_of rfl hj ?_⟩⟩⟩
  case refine_1 => simp only [if_neg hlive, hc, eff_ok, if_neg hfilled, hloads, if_true, Cbuf.slotOffset]
  case refine_2 => simp only [if_neg hlive, hc, eff_ok, if_neg hfilled]
  case refine_3 => simp only [if_neg hlive, hc, eff_ok, hclaim, if_true]
  case refine_4 => simp only [if_neg hlive, hy, eff_ok, hc, hgood, hcopies, Bool.or_self, Bool.false_eq_true, if_false]
  case refine_5 => simp only [if_neg hlive, hc, eff_ok, if_neg hfree, Cbuf.slotOffset, Cbuf.claim]
  case refine_6 => simp only [if_neg hlive, hc, eff_ok]

/-- Settles O25: behind a good selector, WCRD reads its counter, WCRST clears it and WCWAIT acquires once it is reached. -/
theorem windowCounters : Obligations.WindowCounters := by
  intro sc d a b s s' j y x hsel dst c
  refine ⟨fun hj => ⟨fun hovf => ?_, ends_of rfl hj ?_⟩, fun hj hblind hovf hreached hloads => ends_of rfl hj ?_⟩
  · refine completes_of_put (fun w => w.setS d.toNat c.1) rfl hj ?_ rfl (fun _ => setS_uid _ _ _) (fun _ _ => by rw [setS_split])
    have hovf' : (x.counter (selDst y)).2 = false := hovf
    simp only [hsel, eff_ok, hovf', Bool.false_eq_true, if_false]
    rfl
  · simp only [hsel, eff_ok]
    rfl
  · have hblind' : x.blind (selDst y) = false := hblind
    have hovf' : (x.counter (selDst y)).2 = false := hovf
    have hreached' : ¬ (x.counter (selDst y)).1.toNat < (j.w.sreg a.toNat).toNat := Nat.not_lt.mpr hreached
    simp only [hsel, eff_ok, hblind', hovf', if_neg hreached', hloads, Bool.false_eq_true, if_false, if_true]

end Sys2Proof.Machine
end

section
/-! Fences and WAIT (R142, R145, R228, R229) once nothing holds them. -/

namespace Sys2Proof.Machine

open Sys2Proof

/-- A release fence leaves its warp with what it waited for and what it has released, as far as that is not performed yet. -/
theorem releaseFence_relDeps {s : State} {u : Nat} {w : Warp} (h : s.warp? u = some w) (scope : Nat) :
    ((s.releaseFence u scope).warp? u).map (·.relDeps) =
      some ((w.relDeps ++ w.released scope).filter fun d => !s.performed d.1 d.2) := by
  unfold State.releaseFence
  rw [warp?_modWarp]
  · rw [if_pos rfl, h]
    rfl
  · exact fun _ => rfl

/-- A class that a WAIT names holds at most its number; 63 names none (R145). -/
theorem classOver {n : BitVec 6} {k : Nat} (h : n ≠ 63 → k ≤ n.toNat) : (n.toNat == 63 || decide (k ≤ n.toNat)) = true := by
  by_cases hn : n = 63
  · subst hn; rfl
  · simp only [h hn, decide_true, Bool.or_true]

theorem waitOver_of_bounds {w : Warp} {ldn stn cpn ton : BitVec 6} (hld : ldn ≠ 63 → w.loads.length ≤ ldn.toNat)
    (hst : stn ≠ 63 → w.stores.length ≤ stn.toNat) (hcp : cpn ≠ 63 → w.copies.length ≤ cpn.toNat)
    (hto : ton ≠ 63 → w.tileops.length ≤ ton.toNat) : w.waitOver ldn.toNat stn.toNat cpn.toNat ton.toNat = true := by
  simp only [Warp.waitOver, classOver hld, classOver hst, classOver hcp, classOver hto, Bool.and_self]

theorem drained_of_empty {s : State} {u : Nat} {w : Warp} (hw : s.warp? u = some w) (h : w.sq = []) : s.drained u = true := by
  simp [State.drained, hw, h]

/-- Settles O24: once its condition holds, each fence has the effect of its acquire or release, and WAIT ends. -/
theorem fencesAndWaits : Obligations.FencesAndWaits := by
  refine ⟨fun sc ms s s' j => ⟨fun hj hloads => ends_of rfl hj ?_,
    fun hj => ⟨fun hown => ⟨ends_of rfl hj ?_, rfl, ?_⟩, ?_⟩, ?_⟩, ?_, ?_⟩
  · simp only [hloads, if_true]
  · simp only [hown, Bool.false_eq_true, if_false]
  · exact fun w hw => releaseFence_relDeps hw ms.toNat
  · intro hall w hw hsq
    refine ends_of rfl hj ?_
    simp only [hall, if_true, drained_of_empty hw hsq]
  · intro hj hloads q hstores
    refine ends_of rfl hj ?_
    have hstores' : ((s'.awaitLoads j.w.uid).1.drainAll j.w.uid 40).storesDone j.w.uid ms.toNat = true := hstores
    simp only [hloads, hstores', Bool.and_self, if_true]
    rfl
  · exact fun sc s s' j hj => ⟨ends_of rfl hj rfl, rfl⟩
  · intro sc ldn stn cpn ton s s' j w hj q hw hasync hld hst hcp hto
    refine ends_of rfl hj ?_
    have hw' : (if ldn = 63 then s' else s'.settleAll j.w.uid 256).warp? j.w.uid = some w := hw
    simp only [hw', hasync, Bool.false_and, Bool.false_eq_true, if_false, waitOver_of_bounds hld hst hcp hto, if_true]
    rfl

end Sys2Proof.Machine
end

section
/-! The events of a core (R135, R160, R166, R167, R169, R176, R177, R204, R310), each with what enables it. -/

namespace Sys2Proof.Machine

open Sys2Proof

theorem exec_splitMerge {s : State} {w i j : Nat} {x : Warp} (hw : s.warp? w = some x) (hdue : x.due = none) (hm : x.mergeable i j = true) :
    exec (.splitMerge w i j) s = .next (s.modWarp w fun y => y.merge i j) := by
  have hexec : exec (.splitMerge w i j) s = execSplitMerge w i j s := rfl
  simp only [hexec, execSplitMerge, hw, hdue, hm, Option.isNone_none, Bool.and_self, if_true]

theorem exec_rendezvousRelease {s : State} {w : Nat} {x : Warp} {sc : Scope} (hw : s.warp? w = some x)
    (hmode : x.mode = .normal ∨ x.mode = .handler) (hgrow : x.growReq = none) (hdue : x.due = none) (hsc : s.canRelease x = some sc) :
    exec (.rendezvousRelease w) s = .next (s.release x sc) := by
  have hexec : exec (.rendezvousRelease w) s = execRendezvousRelease w s := rfl
  have hruns : (x.mode == .normal || x.mode == .handler) = true := by simpa using hmode
  simp only [hexec, execRendezvousRelease, hw, hruns, hgrow, hdue, hsc, Bool.not_true, Option.isSome_none, Bool.or_self, Bool.false_eq_true,
    if_false]

theorem exec_waitEnd {s : State} {w slot : Nat} {x : Warp} {z : Split} {c : WaitCond} (hw : s.warp? w = some x)
    (hz : x.split? slot = some z) (hc : z.blocked = some c) (hover : s.waitOver x c = true) :
    exec (.waitEnd w slot) s = .next ((if c = .join then s.acquire x.core 2 else s).modWarp w fun y =>
      y.modSplit slot fun z => { z with blocked := none }) := by
  have hexec : exec (.waitEnd w slot) s = execWaitEnd w slot s := rfl
  simp only [hexec, execWaitEnd, hw, hz, Option.bind_some, hc, hover, Bool.not_true, Bool.false_eq_true, if_false]

theorem exec_growGrant {s : State} {core : Nat} {w : Warp} (h : s.grantable core = some w) :
    exec (.growGrant core) s = .next (s.endGrow w true) := by
  have hexec : exec (.growGrant core) s = execGrowGrant core s := rfl
  simp only [hexec, execGrowGrant, h]

theorem exec_growFail {s : State} {core : Nat} {w : Warp} (hnone : s.grantable core = none)
    (hall : ∀ x ∈ s.coreWarps core, x.mode ≠ .dormant → x.uid ∈ s.growBlocked core 64) (hlast : (s.growOrder core).getLast? = some w) :
    exec (.growFail core) s = .next (s.endGrow w false) := by
  have hexec : exec (.growFail core) s = execGrowFail core s := rfl
  have hstuck : (((s.coreWarps core).filter fun w => w.mode != .dormant).all fun w => (s.growBlocked core 64).contains w.uid) = true := by
    rw [List.all_eq_true]
    intro x hx
    obtain ⟨hmem, hmode⟩ := List.mem_filter.mp hx
    exact List.contains_iff_mem.mpr (hall x hmem (by simpa using hmode))
  simp only [hexec, execGrowFail, hnone, hstuck, hlast, Option.isSome_none, Bool.not_true, Bool.or_self, Bool.false_eq_true, if_false]

theorem exec_handlerEntry {s : State} {w : Nat} {x : Warp} {r : Report} (hw : s.warp? w = some x) (hdue : x.due = some r)
    (hrun : s.mayRun x = true) : exec (.handlerEntry w r.trap.code r.trap.lane r.trap.faddr) s = .next (s.report r) := by
  have hexec : exec (.handlerEntry w r.trap.code r.trap.lane r.trap.faddr) s =
    execHandlerEntry w r.trap.code r.trap.lane r.trap.faddr s := rfl
  simp only [hexec, execHandlerEntry, hw, hdue, hrun, and_self, if_true]

theorem exec_bankWriteApply {s : State} {block k : Nat} {b : Block} {q : BankWrite} (hb : s.block? block = some b)
    (hq : b.bankq[k]? = some q) :
    let t := s.modBlock block fun x => { x.bankApply q with bankq := x.bankq.eraseIdx k }
    exec (.bankWriteApply block k) s =
      .next (if (t.block? block).any fun x => x.bankq.any fun y => y.op == q.op then t else t.finishLoad q.warp q.op) := by
  intro t
  have hexec : exec (.bankWriteApply block k) s = execBankWriteApply block k s := rfl
  simp only [hexec, execBankWriteApply, hb, Option.bind_some, hq]
  rfl

/-- A queued write that adds nothing replaces its bytes. -/
theorem bankApply_of_replace {q : BankWrite} (h : q.add = none) (b : Block) :
    b.bankApply q = { b with scratch := memCells b.scratch q.cells } := by
  simp only [Block.bankApply, h]

/-- Settles O41: each event of a core, where it is enabled, takes the step its section gives. -/
theorem coreEvents : Obligations.CoreEvents := fun _ =>
  ⟨fun _ _ _ _ => exec_splitMerge, fun _ _ _ => exec_rendezvousRelease, fun _ _ _ _ _ => exec_waitEnd, fun _ _ => exec_growGrant,
    fun _ _ => exec_growFail, fun _ _ _ => exec_handlerEntry,
    fun _ _ b _ hb hq => ⟨exec_bankWriteApply hb hq, fun hadd => bankApply_of_replace hadd b⟩⟩

end Sys2Proof.Machine
end

section
/-! The events of the queue table (R275, R282, R283, R288, R289, R298), each with what enables it. -/

namespace Sys2Proof.Machine

open Sys2Proof

theorem exec_queueAttach {s t : State} {field q ctx : Nat} {desc : Dword} {c : Context} {d : QDesc} (hq : q < 64)
    (hreach : s.hostReach field = true) (hfree : s.queue? field q = none) (hc : s.ctx? field ctx = some c)
    (hd : s.readDesc c .load desc = .ok (t, some d)) (hkind : d.kind < 2) :
    let x : Queue := { field := field, q := q, state := .attached, ctx := ctx, desc := desc, kind := d.kind, taskTab := d.tasks }
    exec (.queueAttach field q ctx desc) s =
      .next ((State.queueWords { t with queues := t.queues ++ [x] } field q ctx desc true).queueStatus field q 0) := by
  intro x
  have hexec : exec (.queueAttach field q ctx desc) s = execQueueAttach field q ctx desc s := rfl
  have hopen : ¬ (64 ≤ q ∨ (!s.hostReach field) = true ∨ (s.queue? field q).isSome = true) := by simp [hq, hreach, hfree]
  simp only [hexec, execQueueAttach, if_neg hopen, State.attach, hc, hd, if_neg (Nat.not_le.mpr hkind)]
  rfl

theorem exec_queueDetach {s : State} {field q : Nat} {x : Queue} (hx : s.queue? field q = some x) (hstate : x.state = .attached)
    (hreach : s.hostReach field = true) :
    exec (.queueDetach field q) s =
      .next ((s.setReg field (queueReg q 3) (s.reg field (queueReg q 3) &&& 0xFFFFFFFE#32)).modQueue field q fun y =>
        { y with state := .closing }) := by
  have hexec : exec (.queueDetach field q) s = execQueueDetach field q s := rfl
  simp only [hexec, execQueueDetach, hx, hstate, hreach, and_self, if_true]

theorem exec_queueClosed {s : State} {field q : Nat} {x : Queue} (hx : s.queue? field q = some x) (hstate : x.state = .closing)
    (hidle : s.queueBusy field q = false) : exec (.queueClosed field q) s = .next (s.detach field q) := by
  have hexec : exec (.queueClosed field q) s = execQueueClosed field q s := rfl
  simp only [hexec, execQueueClosed, hx, hstate, hidle, beq_self_eq_true, Bool.not_false, Bool.and_self, if_true]

/-- A launch queue whose head is stamped and well-formed takes the head by its kind (R289). -/
theorem consume_of_head {s : State} {field q : Nat} {x : Queue} {h : Head} {b : List Byte} (hh : (s.head field q).2 = some (x, h))
    (hkind : x.kind = 0) (hb : h.bytes = some b) (hgood : pkHeadBad b = false) :
    (pkKind b = 0 → pkRestBad b [] = false → pkOrder b = false → s.consume field q = h.nop x b) ∧
    (pkKind b = 1 → pkRestBad b [2, 3] = false → s.consume field q = h.launch x b) ∧
    (pkKind b = 2 → pkRestBad b [2, 3] = false → s.consume field q = h.graph x b) := by
  rcases hr : s.head field q with ⟨t, o⟩
  obtain rfl : o = some (x, h) := by rw [hr] at hh; exact hh
  have hkind' : ¬ x.kind ≠ 0 := not_not.mpr hkind
  refine ⟨fun hk hrest horder => ?_, fun hk hrest => ?_, fun hk hrest => ?_⟩
  · simp only [State.consume, hr, if_neg hkind', hb, hgood, hk, hrest, horder, Bool.false_and, Bool.false_eq_true, if_false]
  · simp only [State.consume, hr, if_neg hkind', hb, hgood, hk, hrest, Bool.false_eq_true, if_false]
  · simp only [State.consume, hr, if_neg hkind', hb, hgood, hk, hrest, Bool.false_eq_true, if_false]

theorem exec_queueConsume (field q : Nat) (s : State) : exec (.queueConsume field q) s = .next (s.consume field q) := rfl

/-- A NOP whose counter can be decremented frees its slot. -/
theorem nop_of_decremented {h : Head} {x : Queue} {b : List Byte} (hdec : (h.s.unitDec x.field x.q (pkTask b)).2 = true) :
    h.nop x b = (h.s.unitDec x.field x.q (pkTask b)).1.freeSlot h.d := by
  simp only [Head.nop, hdec, if_true]

theorem exec_taskAppendRetry_append {s t v : State} {k : Nat} {r : TaskRetry} {x : Queue} {c : Context} {b : List Byte} {d : QDesc}
    (hr : s.taskRetry[k]? = some r) (hx : s.queue? r.field r.q = some x) (hc : s.ctx? x.field x.ctx = some c) (hwork : r.work = .append b)
    (hd : State.readDesc { s with taskRetry := s.taskRetry.eraseIdx k } c .atom x.desc = .ok (t, some d)) (hroom : d.room = true)
    (hv : t.appendSlot c d b = .ok v) : exec (.taskAppendRetry k) s = .next v := by
  have hexec : exec (.taskAppendRetry k) s = execTaskAppendRetry k s := rfl
  have hx' : State.queue? { s with taskRetry := s.taskRetry.eraseIdx k } r.field r.q = some x := hx
  simp only [hexec, execTaskAppendRetry, hr, hx, Option.bind_some, hc, hwork, State.appendTask, hx', hd, hroom, hv, if_true]

theorem exec_taskAppendRetry_fetch {s : State} {k : Nat} {r : TaskRetry} {x : Queue} {c : Context} {a : Dword} {v : State × List Byte}
    (hr : s.taskRetry[k]? = some r) (hx : s.queue? r.field r.q = some x) (hc : s.ctx? x.field x.ctx = some c) (hwork : r.work = .fetch a)
    (hv : State.getVirt { s with taskRetry := s.taskRetry.eraseIdx k } c a 64 = .ok v) :
    exec (.taskAppendRetry k) s = .next (v.1.appendTask c r.field r.q (withIssuer 0 v.2)) := by
  have hexec : exec (.taskAppendRetry k) s = execTaskAppendRetry k s := rfl
  simp only [hexec, execTaskAppendRetry, hr, hx, Option.bind_some, hc, hwork, State.fireTask, hv]

end Sys2Proof.Machine
end

section
/-! The events of the copy engines (R135, R275, R290, R291, R294, R342), each with what enables it. -/

namespace Sys2Proof.Machine

open Sys2Proof

/-- COPY_START of a stamped head whose engine is free and whose turn it is: the packet runs, and its slot is freed as it starts (R291). -/
theorem exec_copyStart {s t : State} {field q : Nat} {x : Queue} {h : Head} {b : List Byte} {r : CopyRun}
    (hh : (s.head field q).2 = some (x, h)) (hb : h.bytes = some b) (hkind : x.kind = 1) (hfree : s.engineFree field h.d.engine = true)
    (hturn : s.copyTurn field h.d.engine = some q) :
    let who := h.s.copyIssuer field x.ctx h.d.key h.d.rd (pkWord b 1)
    Started.cleared h.c ((State.copyServed { h.s with nextUid := h.s.nextUid + 1 } field h.d.engine q).startRun h.c
      { id := h.s.nextUid, field := field, engine := h.d.engine, ctx := x.ctx, queue := some q, order := h.d.rd, inst := none,
        packet := b, desc := [], tq := h.d.tq, task := pkTask b, warp := who.map fun w => w.1, op := (who.map fun w => w.2.1).getD 0,
        block := (who.map fun w => w.2.2).getD 0, claimed := none, session := none, pos := 0, before := [], done := false,
        fault := none }) = .run t r →
    exec (.copyStart field q) s = .next (Started.run (t.freeSlot h.d) r).state := by
  intro who hstart
  have hexec : exec (.copyStart field q) s = .next (s.startNext field q) := rfl
  rcases hr : s.head field q with ⟨u, o⟩
  obtain rfl : o = some (x, h) := by rw [hr] at hh; exact hh
  have hgo : ¬ (x.kind ≠ 1 ∨ (!s.engineFree field h.d.engine) = true ∨ s.copyTurn field h.d.engine ≠ some q) := by
    simp [hkind, hfree, hturn]
  simp only [hexec, State.startNext, hr, if_neg hgo, hb, Option.getD_some, Option.isNone_some, Bool.false_eq_true, if_false]
  rw [hstart]

section CopyComplete

variable {s : State} {id : Nat} {r : CopyRun} {c : Context} (hr : s.copies.find? (fun r => r.id == id) = some r)
  (hc : s.ctx? r.field r.ctx = some c) (hcopying : c.copying = true) (hsession : r.session = none)

include hr hc hcopying hsession

/-- A copy whose writes are all applied and performed is over. -/
theorem exec_copyComplete_over (hdone : s.copyDone r = true) : exec (.copyComplete id) s = .next (s.copyOver r) := by
  have hexec : exec (.copyComplete id) s = execCopyComplete id s := rfl
  simp only [hexec, execCopyComplete, hr, hc, hcopying, hsession, hdone, Bool.not_true, Option.isSome_none, Bool.or_self, Bool.or_true,
    Bool.false_eq_true, if_false, if_true]

/-- A copy that runs writes its next chunk, to memory or to scratchpad. -/
theorem exec_copyComplete_chunk (hfault : r.fault = none) (hgoing : r.done = false) (hkind : pkKind r.packet ≠ 6) :
    exec (.copyComplete id) s = .next (if dstSpace r.packet = 0 then s.copyChunk c r else s.scratchChunk c r) := by
  have hexec : exec (.copyComplete id) s = execCopyComplete id s := rfl
  have hopen : s.copyDone r = false := by simp only [State.copyDone, hgoing, Bool.false_and]
  simp only [hexec, execCopyComplete, hr, hc, hcopying, hsession, hfault, hopen, hgoing, hkind, Bool.not_true, Option.isSome_none,
    decide_false, Bool.or_self, Bool.false_eq_true, if_false]
  exact (apply_ite _ _ _ _).symm

end CopyComplete

/-- A chunk whose elements can all be read and written goes to memory. -/
theorem copyChunk_of_ok {s t : State} {c : Context} {r : CopyRun} {before : List Host.Cell}
    (h : (s.roundShadows (s.copyKeys c r.chunk)).copyMem c r.id
      ((s.roundShadows (s.copyKeys c r.chunk)).copyMoves c (copyElems r.packet r.desc)) r.before 0 r.chunk = .ok t before) :
    s.copyChunk c r = t.copyNext { r with before := before } r.chunk.length := by
  simp only [State.copyChunk, h]

/-- A chunk to the scratchpad of a resident block queues its writes under one operation of the issuer (R135). -/
theorem scratchChunk_of_ok {s : State} {c : Context} {r : CopyRun} {w : Warp} {b : Block} {l : Launch} {ws : List (Nat × List Byte)}
    (hw : r.warp.bind s.warp? = some w) (hb : s.block? r.block = some b) (hl : s.launch? b.launch = some l) (hstate : b.state = .resident)
    (hroom : classFull w.loads = false)
    (hws : (s.roundShadows (s.copyKeys c r.chunk)).copyScratch c (r.target b l).2.1 r.chunk = .ok ws) :
    let u := s.roundShadows (s.copyKeys c r.chunk)
    let qs : List BankWrite := ws.map fun x =>
      { alloc := (r.target b l).1, cells := l.scratchCells (r.target b l).1 x.1 x.2, warp := w.uid, op := u.nextUid, run := r.id }
    let t := State.modWarp { u with nextUid := u.nextUid + 1 } w.uid fun x =>
      x.addLoad { LoadOp.taken u.nextUid with kind := .bankq, done := false }
    s.scratchChunk c r = (t.modBlock b.uid fun x => { x with bankq := qs.foldl (queueOver r.id) x.bankq }).copyNext r r.chunk.length := by
  intro u qs t
  have hgo : ¬ (b.state ≠ .resident ∨ classFull w.loads = true) := by simp [hstate, hroom]
  simp only [State.scratchChunk, hw, hb, hl, if_neg hgo, hws]
  rfl

theorem exec_reduceSessionClose {s : State} {field k : Nat} {x : Session} {c : Context}
    (hx : s.sessions.find? (fun x => x.field == field && x.index == k) = some x) (hc : s.ctx? x.field x.ctx = some c)
    (hfull : x.runs.length = x.expect) (hcopying : c.copying = true) :
    exec (.reduceSessionClose field k) s = .next (s.closeSession c x) := by
  have hexec : exec (.reduceSessionClose field k) s = execReduceSessionClose field k s := rfl
  simp only [hexec, execReduceSessionClose, hx, hc, hfull, hcopying, decide_true, Bool.and_self, if_true]

theorem exec_rasterPacket {s : State} {id : Nat} {r : CopyRun} {c : Context} (hr : s.copies.find? (fun r => r.id == id) = some r)
    (hc : s.ctx? r.field r.ctx = some c) (hcopying : c.copying = true) (hkind : pkKind r.packet = 6) (hgoing : r.done = false) :
    exec (.rasterPacket id) s = .next (s.raster c r) := by
  have hexec : exec (.rasterPacket id) s = execRasterPacket id s := rfl
  simp only [hexec, execRasterPacket, hr, hc, hcopying, hkind, hgoing, decide_true, Bool.not_false, Bool.and_self, if_true]

/-- Settles O44: each event of the queue table and of the copy engines, where it is enabled, takes the step its section gives. -/
theorem queueEvents : Obligations.QueueEvents := by
  intro s
  refine ⟨fun _ _ _ _ _ _ _ => exec_queueAttach, fun _ _ _ => exec_queueDetach, fun _ _ _ => exec_queueClosed, ?_, ?_,
    fun _ _ _ _ _ _ _ hh hb hkind hfree hturn => exec_copyStart hh hb hkind hfree hturn, ?_,
    fun _ _ _ _ => exec_reduceSessionClose, fun _ _ _ => exec_rasterPacket⟩
  · intro field q x h b hh hkind hb hgood
    obtain ⟨hnop, hlaunch, hgraph⟩ := consume_of_head hh hkind hb hgood
    refine ⟨fun hk hrest horder hdec => ?_, fun hk hrest => ?_, fun hk hrest => ?_⟩
    · rw [exec_queueConsume, hnop hk hrest horder, nop_of_decremented hdec]
    · rw [exec_queueConsume, hlaunch hk hrest]
    · rw [exec_queueConsume, hgraph hk hrest]
  · intro k r x c hr hx hc u
    exact ⟨fun b t v d hwork hd hroom hv => exec_taskAppendRetry_append hr hx hc hwork hd hroom hv,
      fun a v hwork hv => exec_taskAppendRetry_fetch hr hx hc hwork hv⟩
  · intro id r c hr hc hcopying hsession
    refine ⟨exec_copyComplete_over hr hc hcopying hsession, fun hfault hgoing hkind => ?_⟩
    intro u
    refine ⟨fun hspace t before hmem => ?_, fun hspace w b l ws hw hb hl hstate hroom hws => ?_⟩
    · rw [exec_copyComplete_chunk hr hc hcopying hsession hfault hgoing hkind, if_pos hspace, copyChunk_of_ok hmem]
    · intro qs t
      rw [exec_copyComplete_chunk hr hc hcopying hsession hfault hgoing hkind, if_neg hspace,
        scratchChunk_of_ok hw hb hl hstate hroom hws]

end Sys2Proof.Machine
end
